-- ==== Sys2Proof/Word.lean ====
section
/-! DEFINITION. The word types, the sparse table type, and the plain data that commands carry
(what a host message, a register access, a ply packet or a board event says). -/

namespace Sys2Proof

/-- One byte. Every multi-byte field is little-endian (R4). -/
abbrev Byte := BitVec 8

/-- A register is 32 bits wide (R7). -/
abbrev Word := BitVec 32

/-- A sparse table: keys strictly rising, no entry equal to the table's default. -/
abbrev Tab (α : Type) := List (Nat × α)

/-- SnpType of an M2S Req (R98). -/
inductive SnpType where
  | noOp | snpData | snpCur | snpInv
  deriving DecidableEq, Repr

/-- The state a BIRsp reports (R99, R106). -/
inductive BiAns where
  | i | s | e
  deriving DecidableEq, Repr

/-- The three IDE streams of a link (R38). -/
inductive IdeStream where
  | cachemem | pcieLink | selective
  deriving DecidableEq, Repr

/-- What every M2S message says: the link it came through, the LD-ID or SPID it carries (0 on a direct link),
its tag, its HPA, and whether it carries a TEE attribute (R27, R55). -/
structure M2S where
  port : Fin 4
  link : Fin 4
  id   : Nat
  tag  : Nat
  hpa  : Nat
  tee  : Bool
  /-- The packet is routed to another PBR ID (R27). -/
  other : Bool := false
  deriving DecidableEq, Repr

/-- MetaField of CXL.mem (R37), as far as the device produces it. -/
inductive MetaField where
  | noOp
  deriving DecidableEq, Repr

/-- A link-owner function: the link and, on an MLD or PBR link, the ID it is enumerated under. -/
structure Fn where
  port : Fin 4
  link : Fin 4
  id   : Nat
  deriving DecidableEq, Repr

/-- Who sends a mailbox or CCI command (R42). -/
inductive Cci where
  | mailbox (f : Fn)
  | mctp
  deriving DecidableEq, Repr

/-- Where an SPDM request arrives (R433). -/
inductive Responder where
  | doe (f : Fn)
  | mctp
  deriving DecidableEq, Repr

/-- A SET_CERTIFICATE request (R433): where it arrives, and its bytes (R40). -/
structure CertReq where
  by_ : Responder
  bytes : Nat := 0
  deriving DecidableEq, Repr

/-- Who submits a REKEY (R177): a descriptor of a ring, or the management island over MCTP. -/
inductive RekeyBy where
  | ring (r : Fin 8192) | island
  deriving DecidableEq, Repr

/-- Who accesses a register (R459). -/
inductive Agent where
  | ctrl
  | fn (f : Fn)
  deriving DecidableEq, Repr

/-- Who sends a fabric-manager command: the FM API, or the management island's own policy (R71). -/
inductive FmSource where
  | fmApi | island
  deriving DecidableEq, Repr

/-- What a link partner offers in training (R32): its highest rate code (LINK_CAP.MAX_RATE coding), the flit modes
it supports, the width the lanes train to, the lane order and the inverted lanes (R29, R30). -/
structure Partner where
  maxRate  : Nat
  flit68   : Bool
  flit256  : Bool
  lopt     : Bool
  width    : Nat
  reversed : Bool
  inverted : BitVec 16
  /-- Logical device or PBR IDs whose binding the partner does not hold (R57). -/
  unbound  : List Nat := []
  deriving DecidableEq, Repr

/-- What the SPD and the sockets of a channel say (R230, R231, R235). `rates` are rate codes of R252. -/
structure Dimms where
  slot0      : Bool
  slot1      : Bool
  mrdimm     : Bool
  x4         : Bool
  matched    : Bool
  densCode   : Nat
  heightLog  : Nat
  ranksLog   : Nat
  rates      : List Nat
  trfc       : Nat
  rfmNeeded  : Bool
  capGib     : Nat
  deriving DecidableEq, Repr

/-- The reading of the board at one supervisor sample (R382): millivolts, and the sense voltage in microvolts;
HS_TEMP in milli-degrees. -/
structure HswRead where
  vin   : Nat
  vout  : Nat
  vgate : Nat
  vsn   : Nat
  temp  : Int
  deriving DecidableEq, Repr

/-- A life-cycle or debug token (R437), with what its signature checks said: `sigA`, `sigB` name the key whose
signature verified, if any did. -/
inductive SignerKey where
  | none | vendor | owner | ownerBeingEnrolled
  deriving DecidableEq, Repr

structure Token where
  kind   : Nat
  target : Nat
  opts   : Nat
  zero   : List Byte
  serial : Nat
  nonce  : Nat
  idkey  : List Byte
  sigA   : SignerKey
  sigB   : SignerKey
  ownerKey : List Byte
  deriving DecidableEq, Repr

/-- The header of a received ply packet (R327), with what its CRC and tag checks said. `txc` is the sender's
transmit counter. -/
structure PlyHdr where
  seq     : BitVec 16
  ack     : BitVec 16
  len     : Nat
  credReq : Nat
  credRsp : Nat
  txc     : Nat
  crcOk   : Bool
  tagOk   : Bool
  deriving DecidableEq, Repr

/-- The fields of an MWR or RSYNC packet (R328). `lines` holds the 64-byte lines (none when `poison`). -/
structure PlyWrite where
  dlaLine : Nat
  qc      : Nat
  nlines  : Nat
  poison  : Bool
  partialMask : Option (BitVec 64)
  lines   : List (List Byte)
  deriving DecidableEq, Repr

/-- One window as an MTAB message lists it (R338). -/
structure MtabEntry where
  win       : Nat
  dlaHank   : Nat
  sizeHanks : Nat
  hdmDb     : Bool
  elastic   : Bool
  dc        : Bool
  owner     : Nat
  group     : Bool
  mirror    : Nat
  secondary : Bool
  syncId    : Nat
  deriving DecidableEq, Repr

/-- One creel record of a CREC packet (R344): the line, entry bits 50:39 and entry bits 103:64. -/
structure CrecRec where
  line    : Nat
  mid     : BitVec 12
  sharers : BitVec 40
  deriving DecidableEq, Repr

/-- A run of Dynamic Capacity blocks of 256 MiB (R70): first block offset within the window, and how many. -/
structure Extent where
  first : Nat
  count : Nat
  deriving DecidableEq, Repr

/-- Which log Get Log names (R42, R438). -/
inductive LogId where
  | cel | vendor | seal
  deriving DecidableEq, Repr

/-- Which clock reference of R375. -/
inductive RefClk where
  | hp (n : Fin 4) | pp (n : Fin 2) | core
  deriving DecidableEq, Repr

/-- Which SRAM a double-bit error falls in (R266). -/
inductive Sram where
  | creel (slice : Fin 16) (set : Nat) (way : Nat)
  | skein (win : Nat) (hank : Nat) (page : Option Nat)
  | lineCache (slice : Fin 16) (line : Nat)
  | spindle (n : Fin 48) (slot : Nat)
  | tracker (entry : Nat)
  | merge (ch : Fin 16) (line : Nat)
  | keySlot (slot : Nat) (bothCopies : Bool)
  | metaKey (bothCopies : Bool)
  | mgmt
  | fabric (st : Fin 48)
  deriving DecidableEq, Repr

/-- The area of a spindle's local store an error falls in (R193). -/
inductive LsArea where
  | slotArea (slot : Nat) | working (slot : Nat) | deposit (index : Nat) | microcode
  deriving DecidableEq, Repr

/-- One training step's result for a channel (R243, R244). -/
inductive TrainResult where
  | accepted | rejected
  deriving DecidableEq, Repr

/-- The readings of one ADC scan (R404): 24 temperatures in 0.125 °C units, 8 rails in mV. -/
structure Scan where
  temps : List Int
  rails : List Nat
  deriving DecidableEq, Repr

/-- Kinds of brown-out (R374 BO_SRC). -/
inductive BoSrc where
  | lowPowerLimit | normalLimit | vauxLow
  deriving DecidableEq, Repr

/-- A PLDM sensor (R423). -/
inductive PldmSensor where
  | ts (n : Fin 24) | vmon (n : Fin 8) | hswVsn | hswState | imageState | chanState (n : Fin 16)
  deriving DecidableEq, Repr

/-- A JTAG instruction (R439). -/
inductive JtagInstr where
  | bypass | idcode | sample | extest | privateScan | privateDebug
  deriving DecidableEq, Repr

end Sys2Proof
end

