-- ==== Sys2Proof/Syntax.lean ====
section
/-! DEFINITION. The commands of PX9: one constructor per row of the table of operations and events, with what the
step takes from outside as its operands. -/

namespace Sys2Proof

/-- One constructor per row of the table: first the rows with operands, in the table's order, then those without. -/
inductive Instr where
  /-- A write to a register field that has no row of its own stores, ignores or clears bits according to the field's access type. (R5) -/
  | registerWrite (by_ : Agent) (off : Nat) (size : Nat) (val : Nat)
  /-- A host MemRd is decoded to seat, window and class and then served as a read, with an NDR added in HDM-DB windows. (R36) -/
  | memRd (m : M2S) (snp : SnpType)
  /-- A host MemRdData is served as a shared read and is granted EXCLUSIVE when the line is INVALID. (R98) -/
  | memRdData (m : M2S)
  /-- A host MemSpecRd starts an early DRAM read when the port read pool is below 75 % occupancy and is otherwise dropped; it is never answered. (R36) -/
  | memSpecRd (m : M2S)
  /-- A host MemInv is served as an ownership request in HDM-DB windows and answered with NDR Cmp in HDM-H windows. (R36) -/
  | memInv (m : M2S)
  /-- A host MemInvNT is served as an invalidate and leaves the requester holding nothing. (R98) -/
  | memInvNt (m : M2S)
  /-- A host MemClnEvct clears the seat's sharer bit and is answered with NDR Cmp. (R36) -/
  | memClnEvct (m : M2S)
  /-- A host BIConflict is answered with BIConflictAck, ordered after or ahead of the seat's own grant. (R105) -/
  | biConflict (m : M2S)
  /-- A host full-line MemWr is written and, where the window is mirrored, forwarded; Cmp follows at the point the mirror policy sets. (R36) -/
  | memWr (m : M2S) (data : List Byte)
  /-- A host partial write enters the channel's merge buffer and completes with Cmp as MemWr does. (R15) -/
  | memWrPtl (m : M2S) (mask : BitVec 64) (data : List Byte)
  /-- A host BIRsp completes the matching snoop of its crossing record, or waits for a writeback when it is tagged WB_AHEAD. (R108) -/
  | biRsp (m : M2S) (ans : BiAns)
  /-- A Type 2 or reserved M2S opcode is completed with poison or Cmp, counted in PROTO and logged as WARN. (R27) -/
  | unsupportedM2sOpcode (m : M2S) (write : Bool)
  /-- A flit slot carrying CXL.cache content is discarded and logged as an uncorrectable non-fatal error. (R27) -/
  | cxlCacheFlit (port : Fin 4) (link : Fin 4)
  /-- A host request to enter ASPM L0s, ASPM L1 or L1 substates is rejected and counted. (R27) -/
  | aspmEntryRequest (port : Fin 4) (link : Fin 4)
  /-- An IDE_KM key programming request over secured SPDM sets the keys of a link's IDE stream; a request for skid mode is refused. (R38) -/
  | ideKmKeyProg (port : Fin 4) (link : Fin 4) (str : IdeStream) (skid : Bool)
  /-- A BISnp credit granted by the host lets a waiting snoop leave the SNP network. (R35) -/
  | bisnpCreditGrant (port : Fin 4) (link : Fin 4) (n : Nat)
  /-- A link enters L0 with its negotiated rate, width and flit mode, advertises CXL.mem credits and attaches its seats. (R46) -/
  | linkUp (port : Fin 4) (link : Fin 4) (p : Partner)
  /-- A flit CRC error corrected by link-layer replay or FEC is counted in Lk_ERRCNT. (R46) -/
  | flitCrcReplay (port : Fin 4) (link : Fin 4) (replay : Bool)
  /-- A link retrains at the same or a new rate or width and returns to L0, with CXL.mem paused and nothing lost. (R46) -/
  | linkRecovery (port : Fin 4) (link : Fin 4) (p : Partner)
  /-- A link changes its partial width under L0p without affecting traffic. (R46) -/
  | l0pWidthChange (port : Fin 4) (link : Fin 4) (width : Nat)
  /-- A link leaves L0; egress and unaccepted work are discarded, accepted writes are kept and the creel is told of seats that lost their path. (R47) -/
  | linkDown (port : Fin 4) (link : Fin 4)
  /-- HPn_PERST_N held low for at least 1 µs takes every link of the port down and holds it in Detect. (R473) -/
  | perstAssert (port : Fin 4)
  /-- An FLR of a link-owner function aborts its mailbox and DOE, disables MSI-X and clears CXL.io IDE keys, leaving CXL.mem untouched. (R46) -/
  | functionLevelReset (f : Fn)
  /-- An IDE stream failing its integrity check goes insecure, releases no covered data and takes the link down. (R39) -/
  | ideIntegrityFailure (port : Fin 4) (link : Fin 4) (str : IdeStream)
  /-- A seat with no path in L0 for 1 ms goes DETACHED; its sharer bits are cleared and its exclusive lines poisoned. (R48) -/
  | seatDetachTimeout (seat : Fin 1024)
  /-- A DOE discovery request returns the supported protocols, or sets Busy when a request is already in progress. (R40) -/
  | doeDiscovery (f : Fn)
  /-- A CDAT table access returns the DSMAS and DSLBIS entries of the function's seat. (R41) -/
  | cdatRead (f : Fn)
  /-- An SPDM GET_VERSION returns SPDM versions 1.2 and 1.3. (R433) -/
  | getVersion (r : Responder)
  /-- An SPDM GET_CAPABILITIES returns CERT, CHAL, MEAS, KEY_EX, ENCRYPT, MAC and HBEAT. (R433) -/
  | getCapabilities (r : Responder)
  /-- An SPDM NEGOTIATE_ALGORITHMS settles on Falcon-1024, SHA3-256, secp384r1 and AES-256-GCM. (R433) -/
  | negotiateAlgorithms (r : Responder) (falcon : Bool)
  /-- An SPDM GET_CERTIFICATE returns the vendor root and device certificate chain of slot 0. (R433) -/
  | getCertificate (r : Responder) (slot : Nat)
  /-- An SPDM CHALLENGE is answered with a response signed by the identity key. (R433) -/
  | challenge (r : Responder) (slot : Nat)
  /-- An SPDM GET_MEASUREMENTS returns the ROM, firmware, image and security-record digests, signed on request. (R434) -/
  | getMeasurements (r : Responder) (index : Nat) (signed : Bool)
  /-- An SPDM KEY_EXCHANGE sets up a secured session with DHE secp384r1 and AES-256-GCM. (R433) -/
  | keyExchange (r : Responder)
  /-- An SPDM HEARTBEAT keeps a secured session alive. (R433) -/
  | heartbeat (r : Responder)
  /-- An SPDM SET_CERTIFICATE is refused. (R433) -/
  | setCertificate (q : CertReq)
  /-- A mailbox command with an opcode outside the supported set completes with Unsupported. (R42) -/
  | mailboxUnsupportedOpcode (c : Cci) (opcode : Nat)
  /-- Get Event Records returns the records in the seat's view of the log. (R42) -/
  | getEventRecords (c : Cci)
  /-- Clear Event Records clears records from the seat's view only; the device log keeps them. (R42) -/
  | clearEventRecords (c : Cci) (handles : List Nat)
  /-- Get Event Interrupt Policy returns the function's event interrupt policy. (R42) -/
  | getEventInterruptPolicy (c : Cci)
  /-- Set Event Interrupt Policy sets the function's event interrupt policy on MSI-X vector 1. (R42) -/
  | setEventInterruptPolicy (c : Cci) (policy : Nat)
  /-- Get FW Info reports the two firmware slots that match the flash banks. (R42) -/
  | getFwInfo (c : Cci)
  /-- Transfer FW, an admin command, programs firmware into the bank that is not running, in the background. (R424) -/
  | transferFw (c : Cci) (container : List Byte)
  /-- Activate FW, an admin command, arms the pending bank to boot at the next GLOBAL or COLD reset. (R424) -/
  | activateFw (c : Cci)
  /-- Get Timestamp returns the last Set Timestamp value unchanged, or 0 when none has been set since the last reset. (R42) -/
  | getTimestamp (c : Cci)
  /-- Set Timestamp stores its value as a host annotation and writes an INFO record with SOURCE 0xFF00. (R415) -/
  | setTimestamp (c : Cci) (value : Nat)
  /-- Get Supported Logs lists the CEL and the vendor log of the seat's events. (R42) -/
  | getSupportedLogs (c : Cci)
  /-- Get Log returns the CEL, the seat's vendor log or, on the admin mailbox, the seal blocks. (R42) -/
  | getLog (c : Cci) (log : LogId)
  /-- Identify Memory Device reports the capacities of the seat's windows. (R42) -/
  | identifyMemoryDevice (c : Cci)
  /-- Get Poison List returns the poison-list entries within the seat's windows and flags the list as incomplete while its overflow flag is set. (R265) -/
  | getPoisonList (c : Cci)
  /-- Inject Poison, an admin command, poisons the line at a DLA. (R42) -/
  | injectPoison (c : Cci) (dla : Nat)
  /-- Clear Poison, an admin command, writes zeros to a line and removes its poison-list entry. (R42) -/
  | clearPoison (c : Cci) (dla : Nat)
  /-- Scan Media capabilities reports what a scrub pass over the seat's DLA range can do. (R42) -/
  | scanMediaCapabilities (c : Cci)
  /-- Scan Media starts a background scrub pass in QC15 over the seat's range, or over the whole device when the island asks. (R262) -/
  | scanMediaStart (c : Cci) (dla : Nat) (len : Nat) (whole : Bool)
  /-- Scan Media results reports uncorrectable and poisoned lines as media errors, by DLA. (R264) -/
  | scanMediaResults (c : Cci)
  /-- Sanitize, an admin command, takes every window offline, regenerates every key slot and overwrites all installed DRAM. (R44) -/
  | sanitize (c : Cci)
  /-- Secure Erase, an admin command, takes every window offline and zeroes every key slot and the metadata key. (R181) -/
  | secureErase (c : Cci)
  /-- The Dynamic Capacity configuration command reports the seat's DC windows. (R42) -/
  | getDcConfig (c : Cci)
  /-- The Dynamic Capacity extent-list command reports the seat's extents. (R42) -/
  | getDcExtentList (c : Cci)
  /-- Add Dynamic Capacity Response brings the accepted pending blocks online and frees those it omits. (R71) -/
  | addDcResponse (c : Cci) (win : Fin 4096) (accepted : List Extent)
  /-- Release Dynamic Capacity takes the named blocks offline and starts their drain. (R72) -/
  | releaseDc (c : Cci) (win : Fin 4096) (exts : List Extent)
  /-- An FM API or island Initiate Dynamic Capacity Add is checked by the ledger and makes its blocks pending. (R71) -/
  | initiateDcAdd (src : FmSource) (seat : Fin 1024) (win : Fin 4096) (exts : List Extent)
  /-- An FM Initiate Dynamic Capacity Release sends a Release Capacity event to the seat. (R72) -/
  | initiateDcRelease (seat : Fin 1024) (win : Fin 4096) (exts : List Extent)
  /-- A forced removal by the fabric manager takes blocks offline at once. (R72) -/
  | forcedDcRemoval (win : Fin 4096) (exts : List Extent)
  /-- Once the released blocks have drained, their mappings and storage are freed and the release completes. (R72) -/
  | dcReleaseComplete (win : Fin 4096)
  /-- Writing 1 to a DISABLED seat's ENABLE makes it ATTACHED or DETACHED, according to its paths. (R57) -/
  | seatEnable (by_ : Agent) (seat : Fin 1024)
  /-- Writing 0 to a seat's ENABLE makes it DISABLING, refuses its new work and starts its drain. (R74) -/
  | seatDisable (by_ : Agent) (seat : Fin 1024)
  /-- A DISABLING seat whose entries, descriptors, rings and back-invalidates are done becomes DISABLED. (R74) -/
  | seatDrainComplete (seat : Fin 1024)
  /-- Writing 1 to a DISABLED window's ENABLE brings it ONLINE when no Sanitize has run since load. (R75) -/
  | windowEnable (by_ : Agent) (win : Fin 4096)
  /-- Writing 0 to a window's ENABLE makes it DISABLING, refuses new work and back-invalidates its sharers. (R74) -/
  | windowDisable (by_ : Agent) (win : Fin 4096)
  /-- A DISABLING window whose drain is done becomes DISABLED or OFFLINE, or is zeroed, according to the cause. (R75) -/
  | windowDrainComplete (win : Fin 4096)
  /-- A message waiting in ingress is granted a tracker entry under keep, quota, borrowing or reserve, re-checked for decode and issued or chained. (R83) -/
  | trackerEntryGrant (port : Fin 4)
  /-- A seat that has held and sent nothing of a kind for IDLE_US becomes idle and may lend its quota. (R78) -/
  | seatIdle (seat : Fin 1024) (pool : Fin 5)
  /-- Read data returns from a channel, is corrected and decrypted, and its response is sent, or is dropped for an abandoned entry. (R86) -/
  | readDataReturn (entry : Fin 24576) (noise : List (List Byte))
  /-- A channel accepts a write into its write queue or merge buffer, sending Cmp or entering MIRROR for STRICT. (R86) -/
  | writeAccepted (entry : Fin 24576)
  /-- A tracker entry reaching its deadline completes at once with poison or Cmp and becomes ABANDONED. (R88) -/
  | responseCeilingExpiry (entry : Fin 24576)
  /-- A DEAD or ASLEEP error response completes its request at once, with poison for a read and Cmp for a write. (R89) -/
  | fabricErrorResponse (entry : Fin 24576) (asleep : Bool)
  /-- A request reaching its creel slice is served, queued or made BUSY with back-invalidate snoops, according to the entry state. (R99) -/
  | creelRequest (slice : Fin 16) (entries : List (Fin 24576))
  /-- When a line's active request completes, the next waiting request for that line becomes active in the following cycle. (R104) -/
  | conflictQueueAdvance (slice : Fin 16) (line : Nat)
  /-- A slice issues one BISnp per seat and alias when a crossing record is free for it. (R106) -/
  | bisnpIssue (slice : Fin 16) (rec_ : Fin 128)
  /-- A snoop reaching the BI timeout poisons the line, frees the records, makes the seat SUSPECT and completes the waiting requests. (R111) -/
  | biTimeout (slice : Fin 16) (rec_ : Fin 128)
  /-- An RSP-class retry makes the tracker resend a returned write as a REQ-class ownership request. (R103) -/
  | writeRetry (entry : Fin 24576)
  /-- A creel entry half that fails SECDED makes the slice enter serial mode and a recovery sweep. (R115) -/
  | creelEntryEccError (slice : Fin 16) (damaged : List (Nat × Nat × Bool))
  /-- A slice's recovery sweep ends, leaving damaged sets broadcast-on-miss, and the slice leaves recovery. (R115) -/
  | creelRecoveryComplete (slice : Fin 16)
  /-- A creel slice finishes initialising its entries and sets READY, allowing serial arbiter mode to end. (R114) -/
  | creelSliceReady (slice : Fin 16)
  /-- Writing CRL0.SER_CTL.TEST enters or leaves serial arbiter mode for test. (R122) -/
  | serialModeTest (by_ : Agent) (test : Bool)
  /-- A skein-cache miss fetches the hank or page entry from DRAM as a QC0 read and resumes the lookup. (R129) -/
  | skeinMissFill (win : Fin 4096) (hank : Nat) (page : Option (Fin 512)) (uncorrectable : Bool)
  /-- A skein-cache entry failing SECDED is refetched from DRAM, losing only its heat fields. (R130) -/
  | skeinCacheEccError (win : Fin 4096) (hank : Nat) (page : Option (Fin 512)) (uncorrectable : Bool)
  /-- The carder zero-fills a home frame of a guaranteed window in QC15 and marks the page HOT, making the hank DIRECT when all pages are. (R125) -/
  | homeFill (win : Fin 4096) (hank : Nat) (page : Fin 512)
  /-- A promotion allocates a frame and decodes every segment of a compressed page into it. (R135) -/
  | promotion (win : Fin 4096) (hank : Nat) (page : Fin 512) (noise : List (List Byte))
  /-- A promotion writes the page entry through as HOT, clears PROMO, frees the run and releases waiting writes. (R135) -/
  | promotionComplete (win : Fin 4096) (hank : Nat) (page : Fin 512)
  /-- A demotion reads a HOT frame and encodes its segments, ending on poison or incompressibility. (R137) -/
  | demotion (win : Fin 4096) (hank : Nat) (page : Fin 512) (noise : List (List Byte))
  /-- A demotion allocates and writes its run, switches the page entry to COMPRESSED and frees the frame. (R137) -/
  | demotionComplete (win : Fin 4096) (hank : Nat) (page : Fin 512)
  /-- The carder copies a run or frame of the least-occupied hank to another hank and switches its page entry. (R138) -/
  | compactionMove (win : Fin 4096) (hank : Nat) (page : Fin 512)
  /-- Old storage is freed once no read issued with the old address remains, and an emptied hank returns to the free pool. (R138) -/
  | compactionComplete (win : Fin 4096) (hank : Nat) (page : Fin 512)
  /-- A decode spindle decodes a compressed segment, releasing the requested line first and then filling the line cache. (R154) -/
  | segmentDecode (entry : Fin 24576) (noise : List (List Byte))
  /-- A REKEY walk converts one unit line by line from the old to the new generation and writes its KGEN through. (R177) -/
  | rekeyUnitConvert (win : Fin 4096) (noise : List (List Byte))
  /-- A spindle whose slots have been empty for GATE_CYC cycles stops its clock. (R195) -/
  | spindleClockGate (n : Fin 48)
  /-- A spindle idle for IDLE_NS, with another role's queue above QTHRESH, begins lending to that role. (R191) -/
  | spindleLendStart (n : Fin 48) (role : Fin 6)
  /-- An uncorrectable local-store error ends the unit using that area or, in the microcode area, fails the spindle. (R193) -/
  | localStoreError (n : Fin 48) (area : LsArea) (correctable : Bool)
  /-- Every PERIOD x 256 core cycles a sampling spindle writes SEQ_PC, sets NEW and may raise the PMU sample interrupt. (R198) -/
  | spindlePcSample (n : Fin 48) (slot : Fin 32) (pc : BitVec 13)
  /-- An SQ tail doorbell write advances SQ_TAIL when the value lies within bounds and is otherwise refused. (R207) -/
  | sqTailDoorbell (m : M2S ⊕ (Fn × Nat)) (local_ : Fin 64) (val : BitVec 64)
  /-- A CQ head doorbell write advances CQ_HEAD when it lies between CQ_HEAD and CQ_TAIL. (R207) -/
  | cqHeadDoorbell (m : M2S ⊕ (Fn × Nat)) (local_ : Fin 64) (val : BitVec 64)
  /-- Writing ENABLE 1 to a DISABLED ring runs the enable checks and makes the ring ENABLED with heads and tails zero. (R207) -/
  | ringEnable (m : M2S ⊕ (Fn × Nat)) (local_ : Fin 64) (val : BitVec 64)
  /-- Writing ENABLE 0 makes a ring DISABLING, recording queued descriptors as DISABLED where the CQ has room. (R226) -/
  | ringDisable (m : M2S ⊕ (Fn × Nat)) (local_ : Fin 64) (val : BitVec 64)
  /-- A CQ setup doorbell write stores CQ_BASE and VECTOR while the ring is DISABLED. (R207) -/
  | cqSetup (m : M2S ⊕ (Fn × Nat)) (local_ : Fin 64) (val : BitVec 64)
  /-- A NOP descriptor does nothing and completes with OK. (R215) -/
  | nop (ring : Fin 8192) (index : Nat)
  /-- A COPY descriptor copies LEN_A bytes as though through a temporary buffer and propagates poison. (R216) -/
  | copy (ring : Fin 8192) (index : Nat)
  /-- A FILL descriptor writes the 8-byte ARG0 pattern over the destination. (R216) -/
  | fill (ring : Fin 8192) (index : Nat)
  /-- A ZERO descriptor writes zeros or, with UNMAP set, unmaps whole elastic pages. (R216) -/
  | zero (ring : Fin 8192) (index : Nat)
  /-- A COMPRESS descriptor encodes input in PLZ, DEFLATE or zstd, statelessly or through its context. (R218) -/
  | compress (ring : Fin 8192) (index : Nat)
  /-- A DECOMPRESS descriptor decodes a PLZ, DEFLATE or zstd stream, statelessly or through its context. (R218) -/
  | decompress (ring : Fin 8192) (index : Nat)
  /-- A CRC descriptor computes CRC-32C or CRC-32 over the input, starting from ARG0. (R217) -/
  | crc (ring : Fin 8192) (index : Nat)
  /-- A HASH descriptor writes the first LEN_B bytes of the SHAKE256 output of the input. (R217) -/
  | hash (ring : Fin 8192) (index : Nat)
  /-- A SCAN descriptor evaluates a predicate over a plain or PLZ column and writes a bitmap or index list. (R219) -/
  | scan (ring : Fin 8192) (index : Nat)
  /-- A GATHER descriptor copies the elements selected by an index list or bitmap into a dense output. (R220) -/
  | gather (ring : Fin 8192) (index : Nat)
  /-- A PROMOTE descriptor promotes each COMPRESSED page of a 4 KiB-aligned range. (R221) -/
  | promote (ring : Fin 8192) (index : Nat)
  /-- A DEMOTE descriptor demotes each eligible HOT page of a 4 KiB-aligned range. (R221) -/
  | demote (ring : Fin 8192) (index : Nat)
  /-- A REKEY draws a new key set for a window's slot and starts the conversion walk: the descriptor in place `index` of a
  ring, or the management island's for window `index`. (R177) -/
  | rekey (src : RekeyBy) (index : Nat)
  /-- A SCRUB descriptor runs a scrub pass over the lines that back its range and writes the summary. (R222) -/
  | scrub (ring : Fin 8192) (index : Nat)
  /-- Once a descriptor's writes have reached their serialisation points, its record is written to the CQ after pokes and MSI-X follows. (R223) -/
  | completionRecordWrite (ring : Fin 8192) (index : Nat)
  /-- A non-REKEY descriptor still running OP_LIMIT ms after it started stops at its next resumable point with TIMEOUT. (R225) -/
  | ringOpLimitExpiry (ring : Fin 8192) (index : Nat)
  /-- A DISABLING ring whose INFLIGHT reaches 0 becomes DISABLED, or NONE when it was removed. (R205) -/
  | ringDrainComplete (ring : Fin 8192)
  /-- At each command slot a channel chooses the next request by QC0, write drain, class priority, row hits and age. (R237) -/
  | channelCommandIssue (ch : Fin 16) (ready : List Nat)
  /-- Every tREFI the channel issues an all-bank refresh that stalls it for tRFC. (R238) -/
  | refresh (ch : Fin 16)
  /-- Once per ms the channel reads its DIMM sensors over the sideband bus and enters or leaves HOT. (R238) -/
  | dimmThermalPoll (ch : Fin 16) (sensors : List Nat) (mr4 : Bool)
  /-- Every 32 ms ZQ calibration and DQS oscillator tracking run inside a refresh stall. (R238) -/
  | zqCalibration (ch : Fin 16)
  /-- At the start of each refresh window of 8,192 x tREFI every row-disturbance table and throttle clears. (R239) -/
  | rdtWindowClear (ch : Fin 16)
  /-- A merge entry 2 µs after its first partial write is flushed by read-modify-write. (R241) -/
  | mergeEntryTimeout (ch : Fin 16) (line : Nat) (noise : List Byte)
  /-- Writing TRAIN_CTL.START takes an ONLINE channel OFFLINE and retrains it from step 2. (R251) -/
  | channelRetrain (by_ : Agent) (ch : Fin 16)
  /-- A training step's result is accepted or rejected, with up to three tries, and the channel goes ONLINE or FAILED at the end. (R244) -/
  | trainingStepResult (ch : Fin 16) (r : TrainResult)
  /-- Writing CH0.RATE_CTL.TARGET takes every channel through self-refresh to the new data rate. (R246) -/
  | rateChange (by_ : Agent) (target : Fin 8)
  /-- Channels return to ONLINE at the new rate, or at the previous rate when training fails, and a stored target runs next. (R246) -/
  | rateChangeComplete (trained : List (Fin 16 × Bool))
  /-- At each multiple of LEAK_MS of powered time, each channel's bucket level falls by one. (R260) -/
  | leakyBucketLeak (ch : Fin 16)
  /-- A scrub pass reads one line's code word and counts it clean, poisoned, uncorrectable or corrected, writing back once. (R263) -/
  | scrubLine (noise : List Byte)
  /-- A corrected line written back is read again once and counted RECURRENT, or written as poison when uncorrectable. (R263) -/
  | scrubVerifyRead (noise : List Byte)
  /-- Writing CHn.INT_INJ arms the injection of a device fault into the next written line, or every line while STICKY. (R270) -/
  | faultInject (by_ : Agent) (ch : Fin 16) (val : Word)
  /-- A double-bit SRAM error is handled as its block requires and writes an ERR or FATAL event. (R266) -/
  | sramDoubleBitError (where_ : Sram)
  /-- A write to QOS.CLASSk_B is checked against the bandwidth ledger and refused when G would exceed the limit. (R276) -/
  | budgetWrite (by_ : Agent) (k : Fin 16) (val : Word)
  /-- Get QoS Status returns the mean DevLoad of the seat's responses over the last ms. (R279) -/
  | getQosStatus (seat : Fin 1024)
  /-- Set QoS Control stores its values for the matching Get command and changes nothing. (R279) -/
  | setQosControl (seat : Fin 1024) (values : List Nat)
  /-- A fabric flit failing its CRC is discarded and replayed by the sender, counted in CNT_RETRY. (R292) -/
  | fabricFlitCrcFail (st : Fin 48) (link : Fin 4)
  /-- Sixteen consecutive failed sends on a fabric link fail it until reset and write a FATAL event. (R301) -/
  | fabricLinkFail (st : Fin 48) (link : Fin 4)
  /-- A station receiving FLIP stamps the new epoch on every flit its local ports inject. (R294) -/
  | flip (st : Fin 48) (oldFlits : Nat)
  /-- A domain drain not complete 100 µs after it began refuses the power-down with DRAIN_TIMEOUT. (R296) -/
  | drainTimeout (dom : Fin 26)
  /-- A REQ flit reaching a fenced port enters its boundary queue and raises a wake, or is answered ASLEEP when the domain is OFF. (R297) -/
  | boundaryQueueEnter (st : Fin 48) (lp : Fin 4) (entry : Option (Fin 24576))
  /-- A local port that returns no credit for 10 µs without HOLD is declared dead and isolated. (R299) -/
  | portCreditTimeout (st : Fin 48) (lp : Fin 4)
  /-- An endpoint's fatal parity error has its port declared dead and isolated. (R299) -/
  | endpointFatalParity (st : Fin 48) (lp : Fin 4)
  /-- The admin seat's four-word MBX0 request presents an image in memory to be checked and re-woven. (R317) -/
  | reweaveRequest (f : Fn) (words : List Word)
  /-- The management island presents a re-weave image over MCTP. (R317) -/
  | mctpReweaveRequest (image : List Byte)
  /-- A full image received over MCTP is stored in the idle bank, and loaded at once when no image is applied or after Sanitize. (R316) -/
  | fullImageTransfer (image : List Byte)
  /-- A received ACK packet releases acknowledged packets from the replay buffer. (R331) -/
  | plyAck (p : Fin 2) (h : PlyHdr)
  /-- A received KEEPALIVE refreshes the port's receive timeout. (R333) -/
  | keepalive (p : Fin 2) (h : PlyHdr)
  /-- A received PAIR fragment advances the HELLO, encapsulation, ciphertext and key derivation steps of pairing. (R336) -/
  | pair (p : Fin 2) (h : PlyHdr) (step : Nat) (frag : Nat) (frags : Nat) (sigOk : Bool) (payload : List Byte)
  /-- A secondary applies a forwarded mirror write straight to its channel and answers MACK. (R340) -/
  | mwr (p : Fin 2) (h : PlyHdr) (w : PlyWrite)
  /-- A secondary applies resync line data for a dirty hank and answers MACK. (R349) -/
  | rsync (p : Fin 2) (h : PlyHdr) (w : PlyWrite)
  /-- A secondary applies a metadata record that unmaps a page or hank or changes a DC block. (R343) -/
  | metaRecord (p : Fin 2) (h : PlyHdr) (win : Nat) (kind : Nat) (dla : Nat)
  /-- A partner installs a key set wrapped under the ply session key and sets PEER. (R179) -/
  | keyset (p : Fin 2) (h : PlyHdr) (win : Nat) (gen : Nat) (keys : List Byte)
  /-- A peer read request from the partner's management island is served and answered with PRSP. (R328) -/
  | pread (p : Fin 2) (h : PlyHdr) (tag : Nat) (request : List Byte)
  /-- An MBOX packet delivers up to 16 words into MBX64 or MBX65. (R421) -/
  | mbox (p : Fin 2) (h : PlyHdr) (words : List Word)
  /-- A partner's mirror table is matched window by window, sending matched windows to resync and unmatched ones to MISMATCH. (R338) -/
  | ctrlMtab (p : Fin 2) (h : PlyHdr) (table : List MtabEntry)
  /-- RESYNC_START makes a secondary window RESYNC and discards its mirror creel entries. (R339) -/
  | ctrlResyncStart (p : Fin 2) (h : PlyHdr) (win : Nat)
  /-- RESYNC_END makes a secondary window SYNC and stores its SYNC_ID. (R339) -/
  | ctrlResyncEnd (p : Fin 2) (h : PlyHdr) (win : Nat) (syncId : Nat)
  /-- HANDOVER lets a window changed from secondary to primary begin serving host requests. (R348) -/
  | ctrlHandover (p : Fin 2) (h : PlyHdr) (win : Nat)
  /-- A secondary checks a mirrored Dynamic Capacity add against its ledger and answers PRSP. (R343) -/
  | ctrlLedger (p : Fin 2) (h : PlyHdr) (tag : Nat) (win : Nat) (exts : List Extent)
  /-- A forwarded REKEY makes the partner walk its own copy of the mirrored window. (R179) -/
  | ctrlRekey (p : Fin 2) (h : PlyHdr) (tag : Nat) (win : Nat)
  /-- A mirror acknowledgement releases STRICT entries or advances the lag, and sets DIRTY unless its status is OK. (R340) -/
  | mack (p : Fin 2) (h : PlyHdr) (seq : BitVec 16) (status : Nat)
  /-- Creel records of the open batch are held in the secondary's staging buffer. (R344) -/
  | crec (p : Fin 2) (h : PlyHdr) (batch : Nat) (recs : List CrecRec)
  /-- On BATCH_END the secondary commits the staged records as mirror entries and answers BATCH_ACK. (R344) -/
  | batchEnd (p : Fin 2) (h : PlyHdr) (batch : Nat)
  /-- A BATCH_ACK confirms a batch, letting a RESYNC window with no dirty hanks go SYNC. (R344) -/
  | batchAck (p : Fin 2) (h : PlyHdr) (batch : Nat)
  /-- A peer response completes the pending PREAD, CTRL, LEDGER or REKEY operation. (R328) -/
  | prsp (p : Fin 2) (h : PlyHdr) (tag : Nat) (status : Nat)
  /-- A receiver switches to the partner's new lane width from the effective SEQ and answers LANESET_ACK. (R334) -/
  | laneset (p : Fin 2) (h : PlyHdr) (eff : BitVec 16) (width : Nat)
  /-- LANESET_ACK lets the transmitter send packet E and later packets at the new width. (R334) -/
  | lanesetAck (p : Fin 2) (h : PlyHdr) (eff : BitVec 16)
  /-- When the 2 µs replay timer expires, every held packet is resent in order. (R330) -/
  | replayTimerExpiry (p : Fin 2)
  /-- A standalone ACK is sent 500 ns after the first unacknowledged packet or after 64 accepted packets. (R331) -/
  | ackTimer (p : Fin 2)
  /-- A port that has sent nothing for 1 µs sends a KEEPALIVE. (R333) -/
  | keepaliveTimer (p : Fin 2)
  /-- A port that receives no valid packet for 10 µs goes down. (R333) -/
  | plyRxTimeout (p : Fin 2)
  /-- A ply PHY leaving its active state takes its port down. (R333) -/
  | plyPhyDown (p : Fin 2)
  /-- A ply PHY trains at 64 GT/s and sends HELLO to start pairing. (R336) -/
  | plyPhyTrained (p : Fin 2) (width : Nat)
  /-- A pairing step that overruns its latest time restarts pairing from step 2. (R336) -/
  | pairingStepTimeout (p : Fin 2)
  /-- A port in AUTH_FAIL retries pairing from step 1 once every second. (R336) -/
  | authFailRetry (p : Fin 2)
  /-- A write to PLYn.LANE_CTL starts a LANESET change of transmit width. (R334) -/
  | laneWidthChange (by_ : Agent) (p : Fin 2) (width : Nat)
  /-- A failed lane takes the port down to retrain at the widest width still working. (R334) -/
  | plyLaneFail (p : Fin 2)
  /-- A LAG window whose lag reaches 64 µs goes DEGRADED and marks its unacknowledged hanks DIRTY. (R341) -/
  | lagLimit (win : Fin 4096)
  /-- Ply Promote (0xC500) makes named secondary windows primary and starts a creel rebuild. (R345) -/
  | plyPromote (src : Cci) (win : Nat)
  /-- A SERVICE spindle clears DIRTY on a hank and sends its pages as RSYNC and META. (R349) -/
  | resyncHankCopy (win : Fin 4096) (hank : Nat) (noise : List (List Byte))
  /-- A domain with no work for 64 core cycles gates its clocks into IDLE. (R359) -/
  | domainIdle (dom : Fin 26)
  /-- When every member of a group has been IDLE for IDLE_US, the supervisor sends PREPARE. (R361) -/
  | groupSleepRequest (dom : Fin 26)
  /-- Writing REQ asks a domain or group to sleep now. (R378) -/
  | sleepReq (by_ : Agent) (reg : Fin 26 ⊕ Fin 8)
  /-- Writing WAKE wakes a domain's group. (R378) -/
  | wakeReq (by_ : Agent) (reg : Fin 26 ⊕ Fin 8)
  /-- A member answers ACCEPT or REFUSE; all ACCEPTs send COMMIT and any REFUSE aborts the group. (R362) -/
  | memberAnswer (dom : Fin 26)
  /-- A committed member that has drained and fenced stops its clocks or power. (R362) -/
  | memberFenced (dom : Fin 26)
  /-- When every member has stopped, the group's state is reported in GRP_LAST. (R362) -/
  | memberStopped (dom : Fin 26)
  /-- A refusal after COMMIT abandons the group; unfenced members resume and fenced ones stop and then wake. (R364) -/
  | lateRefuse (dom : Fin 26) (reason : Fin 256)
  /-- A wake request starts the regulator, clock, memory and logic steps for every member of the group. (R367) -/
  | groupWake (dom : Fin 26)
  /-- When every member raises a wake step's ready signal, the next step begins; the fences lift after the logic step. (R367) -/
  | wakeStepReady (dom : Fin 26)
  /-- Writing PWR.DVFS_CTL.TARGET starts a sequenced transition of core clock and voltage. (R370) -/
  | dvfsTarget (by_ : Agent) (target : Fin 4)
  /-- An LDO held at its current limit for 1 µs, or VAUX below 2.9 V, causes a full reset as cold power-up. (R373) -/
  | brownout (src : BoSrc)
  /-- A reference clock more than 5 % off takes its links or ply port down, or holds a REFCLK reset for the core clock. (R376) -/
  | refclkLoss (r : RefClk)
  /-- A lost reference present again, for 1 ms in the core case, releases its reset or lets links retrain. (R376) -/
  | refclkReturn (r : RefClk)
  /-- Every 1 µs the supervisor samples its voltages and current, updates the fault timer and FET model, and checks power-good. (R385) -/
  | hswSample (r : HswRead)
  /-- A GLB.RST_CTL write with KEY 0x5A and GLOBAL set causes a GLOBAL reset. (R399) -/
  | globalResetRequest (by_ : Agent) (val : Word)
  /-- A GLB.RST_CTL write with KEY 0x5A and WARM set resets only MGMT, waiting for running background commands. (R395) -/
  | warmResetRequest (by_ : Agent) (val : Word)
  /-- Writing MGMT.WDT.KICK restarts the watchdog count. (R401) -/
  | watchdogKick (by_ : Agent) (val : Word)
  /-- The firmware releases channel training and every channel trains at the chosen boot rate. (R392) -/
  | trainingRelease (dimms : List (Option Dimms))
  /-- Writing SEC.BOOT_CTL.CONFIRM makes a pending bank active and may raise the vendor counter. (R431) -/
  | bootConfirm (by_ : Agent)
  /-- Every 1 ms the ADC measures the temperatures and rails and raises threshold events. (R404) -/
  | sensorScan (r : Scan)
  /-- Writing MGMT.CAL_CTL.START starts a calibration unless one is running. (R410) -/
  | calibrationStart (by_ : Agent) (val : Word)
  /-- A calibration ends, applying the accepted steps and writing an INFO or WARN event. (R408) -/
  | calibrationComplete (steps : List Bool)
  /-- A PUSH write appends a word to the box's TC FIFO, or sets TC_OVF when the FIFO is full. (R418) -/
  | mbxPush (by_ : Agent) (box : Fin 66) (word : Word)
  /-- A POP read removes the oldest FC word, sets FC_UNF when empty, and may interrupt the sender. (R418) -/
  | mbxPop (by_ : Agent) (box : Fin 66)
  /-- A DB_RING write rings doorbell bits toward the controller. (R418) -/
  | mbxDbRing (by_ : Agent) (box : Fin 66) (bits : Word)
  /-- The controller assigns MBX1-MBX15 to a seat at the admin seat's or the board's request. (R420) -/
  | boxAssign (box : Fin 66) (seat : Fin 1024) (memoryMode : Bool)
  /-- The MCTP bus owner assigns the device's endpoint ID. (R422) -/
  | setEndpointId (eid : Byte)
  /-- An MCTP message of an unsupported type is discarded. (R423) -/
  | mctpUnsupportedType (ty : Nat)
  /-- A PLDM Firmware Update transfers firmware into the bank that is not running, as Transfer FW does. (R424) -/
  | pldmFirmwareUpdate (container : List Byte)
  /-- A PLDM Monitoring and Control sensor request returns a numeric or state sensor value. (R423) -/
  | pldmGetSensorReading (sensor : PldmSensor)
  /-- Get LC Challenge (0xC510) returns a fresh 32-byte TRNG nonce. (R437) -/
  | getLcChallenge (c : Cci)
  /-- LC Transition (0xC511) checks a signed token and starts a life-cycle transition in the background. (R437) -/
  | lcTransition (c : Cci) (t : Token)
  /-- Debug Unlock (0xC512) checks a token, takes windows offline, zeroes keys and unlocks debug until reset. (R439) -/
  | debugUnlock (c : Cci) (t : Token)
  /-- A JTAG instruction acts if it is a boundary-scan instruction, or when debug is unlocked. (R439) -/
  | jtagInstruction (instr : JtagInstr)
  /-- Writing PMU.DUMP_CTL.EN starts dumping, or stops it when the window is unsuitable. (R454) -/
  | dumpEnable (by_ : Agent) (val : Word)
  /-- Writing PMU.CTL.FREEZE stops or restarts every programmable counter together. (R445) -/
  | pmuFreeze (by_ : Agent) (freeze : Bool)
  /-- A programmable counter wrapping to 0 sets OVF and, with IRQ set, PMU.IRQ.OVF. (R447) -/
  | counterWrap (kind : Fin 6) (inst : Fin 48) (cnt : Fin 8)
  /-- HPn_PERST_N rising releases every link of the port from the Detect hold so that it may train again. (R473) -/
  | perstDeassert (port : Fin 4)
  /-- A register read with behaviour of its own latches HI on a LO read, takes a consistent copy of an indirect entry on a first-data-register read (fetching a skein entry from DRAM), or wakes the block's sleeping domain. (R444) -/
  | registerRead (by_ : Agent) (off : Nat) (size : Nat)
  /-- A completed firmware transfer is checked and either marked pending or erased, writing code 0xC003. (R424) -/
  | transferFwComplete
  /-- The DRAM overwrite of a Sanitize ends and the background command completes. (R44) -/
  | sanitizeComplete
  /-- At the end of each epoch the carder sweeps every hank entry, decaying HEAT, updating COLD and queueing demotions. (R133) -/
  | epochEnd
  /-- A TRNG health-test failure clears OK, counts in FAILS and writes an ERR event at most once per ms. (R184) -/
  | trngHealthFail
  /-- The TRNG health tests pass again, OK returns to 1 and a NOTE event is written. (R184) -/
  | trngHealthRecover
  /-- A waiting unit is admitted into a free spindle slot and dispatched by role and quadrant preference. (R187) -/
  | spindleUnitAdmit
  /-- The ring service takes a descriptor in class and round-robin order, advancing SQ_HEAD, or halts the ring on a refused fetch. (R209) -/
  | descriptorTake
  /-- A scrub pass ends and writes its summary header and records, cut at LEN_B. (R264) -/
  | scrubPassComplete
  /-- At the first frame boundary after every station has flipped, the new slot tables take effect on every link. (R294) -/
  | slotTableSwitch
  /-- When OLD_CNT is 0 at every station the old route table is invalidated and BUSY clears. (R294) -/
  | oldEpochRetire
  /-- After the controller boots, the warp image of the boot bank, or else the other bank, is checked and applied. (R314) -/
  | warpImageLoad
  /-- Every object a re-weave removes has drained, so the re-weave proceeds to the microcode drain or the epoch flip. (R320) -/
  | reweaveRemovalDrained
  /-- Every spindle slot is empty, new microcode is written and admission resumes. (R322) -/
  | microcodeDrainComplete
  /-- The new epoch has flipped; changed fields are written, removed entries zeroed and added windows brought ONLINE. (R320) -/
  | reweaveFlipped
  /-- The old epoch retires, STATE goes LOADED, IMG_DIGEST updates and MBX0 answers. (R320) -/
  | reweaveComplete
  /-- The primary ends each creel batch with BATCH_END at least every CRL_BATCH.US. (R344) -/
  | crlBatchTimer
  /-- After re-snooping staged and exclusive mirror entries, the device adopts the remaining ones and leaves serial mode. (R346) -/
  | creelRebuildComplete
  /-- A member silent 10 µs after PREPARE aborts the group with NO_ANSWER. (R362) -/
  | prepareTimeout
  /-- A ready signal missing at its latest time fails the wake, which is repeated once before failing members go OFF. (R368) -/
  | wakeStepTimeout
  /-- The idle core PLL locks and the core clock switches to it glitch-free. (R370) -/
  | pllLock
  /-- A core PLL that does not lock within 20 µs ends the transition with RESULT 2. (R371) -/
  | pllLockTimeout
  /-- The regulator confirms the commanded voltage over AVSBus. (R370) -/
  | voltageConfirm
  /-- A voltage not confirmed within 100 µs ends the transition with RESULT 1. (R371) -/
  | voltageConfirmTimeout
  /-- The always-on LDO settles in normal mode and the supervisor may raise AON's load. (R372) -/
  | ldoReady
  /-- Every 1.024 ms POWERED_US >> 10 is copied into the wake record's PREV_MS. (R374) -/
  | wakeRecordCopy
  /-- VIN in window for 10 ms with the LDO ready starts the gate ramp. (R384) -/
  | vinQualified
  /-- VIN leaving its window pulls the gate down and withdraws power-good without a trip. (R384) -/
  | vinOutOfWindow
  /-- The fault timer expiring trips the supervisor with CAUSE 1. (R384) -/
  | faultTimerExpiry
  /-- VSN reaching 2 x ILIM pulls the gate down within 1 µs and trips with CAUSE 2. (R386) -/
  | circuitBreaker
  /-- The conditions held for 1 ms give power-good and release HS_PG. (R385) -/
  | powerGood
  /-- After 100 ms and T <= TCOOL a tripped supervisor ramps again, or latches when retries are spent. (R388) -/
  | cooldownEnd
  /-- HS_PG released for 10 s of powered time sets TRIES to 0. (R384) -/
  | triesReset
  /-- RAILS_OK high for 1 ms releases the main domains into the reset sequence. (R391) -/
  | railsOkQualified
  /-- RAILS_OK falling during power-up returns the main domains to reset. (R391) -/
  | railsOkFall
  /-- VAUX reaching 3.0 V releases the AON power-on reset and starts POWERED_US from zero. (R391) -/
  | coldPowerUp
  /-- GRST_N low for 1 µs or more causes a GLOBAL reset. (R393) -/
  | globalResetPin
  /-- The management watchdog expiring causes a WARM reset, escalated to GLOBAL during Sanitize or Secure Erase. (R401) -/
  | watchdogExpiry
  /-- A controller not restarted within 1 s of a WARM reset escalates it to GLOBAL. (R395) -/
  | warmEscalation
  /-- Once the TRNG health tests pass after reset, the metadata key is drawn. (R392) -/
  | trngKeyDraw
  /-- The boot ROM checks the banks in order, starts the first that passes and advances BOOT_COUNT where required. (R430) -/
  | firmwareStart
  /-- Every PERIOD_S seconds of powered time an automatic calibration starts. (R407) -/
  | calibrationPeriodTimer
  /-- A queued ERR or FATAL record is written to the persistent log, erasing the oldest sector when it is full. (R414) -/
  | persistentLogWrite
  /-- A 256-byte page of a bank transfer is programmed into flash. (R403) -/
  | flashPageProgram
  /-- Every BOX_POLL.US µs the controller reads the IN line of each memory-mode box and takes new words. (R419) -/
  | boxPoll
  /-- SETDASA or ENTDAA switches the management link from SMBus to I3C until the next reset. (R422) -/
  | i3cAddressAssign
  /-- MCTP Get Endpoint ID returns the device's endpoint ID. (R423) -/
  | getEndpointId
  /-- MCTP Get Version returns the supported versions. (R423) -/
  | mctpGetVersion
  /-- MCTP Get Message Type Support lists the message types accepted. (R423) -/
  | getMessageTypeSupport
  /-- PLDM ActivateFirmware arms the pending bank for the next GLOBAL or COLD reset. (R424) -/
  | pldmActivateFirmware
  /-- The optional DRAM overwrite of a transition ends. (R438) -/
  | lcOverwriteComplete
  /-- A signed log seal is written to the flash header. (R438) -/
  | lcSealWritten
  /-- The target state's fuse bits are burnt and read back, and the command completes. (R438) -/
  | lcFuseBurn
  /-- 10 ms after a transition command completes, the device performs a GLOBAL reset. (R438) -/
  | lcReset
  /-- Every PERIOD µs the counters are latched and written into one buffer of the telemetry hank, or the snapshot is skipped. (R450) -/
  | telemetryDump
  /-- An image load or re-weave that has waited 100 ms for a TRNG key draw is refused with TRNG, applying nothing, and writes a FATAL event. (R176) -/
  | trngDrawTimeout
  deriving DecidableEq, Repr

end Sys2Proof
end

