-- ==== Sys2Proof/Config.lean ====
section
/-! DEFINITION. What an implementation of PX9 fixes and what the manual leaves open: free values (constants without a
body, applied to the counter `State.free`) and the named design choices of the model. -/

namespace Sys2Proof.Config

/-- Byte `i` of free value `n`: unconstrained (log entry 4). -/
opaque freeByte : Nat → Nat → Byte

/-- A free number: unconstrained (log entry 4). -/
opaque freeNat : Nat → Nat

/-- Word `i` of the TRNG's draws for the key set with number `n`: unconstrained (R171, log entry 4). -/
opaque trngDraw : Nat → Nat → BitVec 256

/-- The spindle that the microcode names in the placement hint of a descriptor's write of a line, by the descriptor's start stamp;
48 or more where it gives none: unconstrained (R116, log entry 98). -/
opaque spindleHint : Nat → Nat → Nat

/-- A PLZ encoding of 512 bytes at a match-chain depth: R153 leaves the choice of encoding to the encoder. -/
opaque plzEncode : Nat → List Byte → List Byte

/-- Where the encoder of a stream ends a block, of a format, a level, what came before the block (reversed) and the block so far:
R160 leaves the choice of blocks to the encoder. -/
opaque encCut : Nat → Nat → List Byte → List Byte → Bool

/-- The bits after BFINAL of a DEFLATE block, of a level, the bit position it starts at, what came before it (reversed) and its
bytes: R160 leaves the choice of tokens to the encoder. -/
opaque deflateBlock : Nat → Nat → List Byte → List Byte → List Bool

/-- A zstd frame header, of a level, the window and the content size where it is written (R159, R160). -/
opaque zstdHeader : Nat → Nat → Option Nat → List Byte

/-- The content of a compressed zstd block, of a level, the tables in force (as in a context), what came before it (reversed) and its
bytes: R160 leaves the choice of tokens to the encoder. -/
opaque zstdBlock : Nat → List Byte → List Byte → List Byte → List Byte

/-- The device's Falcon-1024 identity public key, 1,793 bytes (R336, R426). -/
opaque identityKey : List Byte

/-- Whether a Falcon-1024 signature of the bytes verifies under the key with this digest (R427, R429, R432): the
signature scheme is outside the manual. -/
opaque sigVerifies : List Byte → List Byte → List Byte → Bool

/-- The byte that stands in an event record for a kind, cause or state that the manual names but does not number
(R413): unconstrained (log entry 16). -/
opaque payloadCode : Nat → Byte

/-- The event code of a record that a rule asks for and R413 gives no code: unconstrained (log entry 16). -/
opaque eventCode : Nat → Nat

/-- The identity record of R427, 24 bytes, fused at wafer test. -/
opaque identityRecord : List Byte

/-- VENDOR_KEY_DIGEST, 32 bytes, fused at wafer test (R426). -/
opaque vendorKeyDigest : List Byte

/-- Digest of the boot ROM, 32 bytes (R434). -/
opaque romDigest : List Byte

/-- `n` bytes of free value `c`. -/
def freeBytes (c n : Nat) : List Byte := (List.range n).map (freeByte c)

end Sys2Proof.Config
end

