-- ==== Sys2Proof/Machine/RegMap.lean ====
section
/-! DEFINITION. The register map (R460, R468): where each block lies, and for every plain configuration register the
bits that are RW, the bits that are RWL, its reset value, and whether it has two copies (R464). Registers with an
effect of their own are decoded where they are read and written. -/

namespace Sys2Proof.Machine

/-- Block bases of R460. -/
def pmuBase : Nat := 0x10000
def secBase : Nat := 0x20000
def pwrBase : Nat := 0x30000
def hswBase : Nat := 0x40000
def mgmtBase : Nat := 0x50000
def qosBase : Nat := 0x60000
def trkBase : Nat := 0x70000
def seatwinBase : Nat := 0x80000
def ringBase : Nat := 0x90000
def cardBase : Nat := 0xA0000
def hpBase (n : Nat) : Nat := 0x100000 + n * 0x10000
def crlBase (n : Nat) : Nat := 0x200000 + n * 0x10000
def sknBase (n : Nat) : Nat := 0x300000 + n * 0x10000
def spnBase (n : Nat) : Nat := 0x400000 + n * 0x10000
def chBase (n : Nat) : Nat := 0x800000 + n * 0x10000
def stBase (n : Nat) : Nat := 0x900000 + n * 0x10000
def plyBase (n : Nat) : Nat := 0xC00000 + n * 0x10000
def mbxBase (n : Nat) : Nat := 0xD00000 + n * 0x1000

/-- Which block and instance an offset lies in (R460). -/
inductive Blk where
  | glb | pmu | sec | pwr | hsw | mgmt | qos | trk | seatwin | ring | card
  | hp (n : Nat) | crl (n : Nat) | skn (n : Nat) | spn (n : Nat) | ch (n : Nat) | st (n : Nat) | ply (n : Nat)
  | mbx (n : Nat)
  deriving DecidableEq, Repr

/-- The block that holds BAR2 offset `off`, with the offset inside it; none where R460 puts no block. -/
def blockOf (off : Nat) : Option (Blk × Nat) :=
  let b := off / 0x10000
  let r := off % 0x10000
  if b = 0 then some (.glb, r)
  else if b = 1 then some (.pmu, r)
  else if b = 2 then some (.sec, r)
  else if b = 3 then some (.pwr, r)
  else if b = 4 then some (.hsw, r)
  else if b = 5 then some (.mgmt, r)
  else if b = 6 then some (.qos, r)
  else if b = 7 then some (.trk, r)
  else if b = 8 then some (.seatwin, r)
  else if b = 9 then some (.ring, r)
  else if b = 10 then some (.card, r)
  else if b < 0x10 then none
  else if b < 0x14 then some (.hp (b - 0x10), r)
  else if b < 0x20 then none
  else if b < 0x30 then some (.crl (b - 0x20), r)
  else if b < 0x40 then some (.skn (b - 0x30), r)
  else if b < 0x70 then some (.spn (b - 0x40), r)
  else if b < 0x80 then none
  else if b < 0x90 then some (.ch (b - 0x80), r)
  else if b < 0xC0 then some (.st (b - 0x90), r)
  else if b < 0xC2 then some (.ply (b - 0xC0), r)
  else if b < 0xD0 then none
  else if off < 0xD00000 + 66 * 0x1000 then some (.mbx ((off - 0xD00000) / 0x1000), (off - 0xD00000) % 0x1000)
  else none

/-- A plain configuration register: masks of its RW and RWL bits, reset value, two copies (R464). -/
structure RegInfo where
  rw     : Nat := 0
  rwl    : Nat := 0
  reset  : Nat := 0
  copies : Bool := false
  deriving DecidableEq, Repr

/-- The plain RW and RWL fields of every register, with their reset values, by block and offset. -/
def regInfoAt : Blk → Nat → RegInfo
  | .glb, _ => {}
  | .pmu, r =>
    if r = 0x00 then { rw := 0x3F }
    else if r = 0x08 then { rw := 0x7FCF, copies := true }
    else if r = 0x40 then { rw := 0x80FFFFFF, reset := 15 * 0x100000 + 1000 }
    else if r = 0x44 then { rw := 0xFFF }
    else if r = 0x48 then { rw := 0xFFFFFF }
    else {}
  | .sec, r => if r = 0x100 then { rw := 0xFFF, copies := true } else {}
  | .pwr, r =>
    if ((0x80 ≤ r ∧ r < 0x80 + 4 * 26) ∨ (0x100 ≤ r ∧ r < 0x120)) ∧ r % 4 = 0 then
      { rw := 0x300FFFFF, reset := 1000 }
    else {}
  | .hsw, r =>
    if r = 0x00 then { rw := 0xFFFFFFF7, reset := 50 * 0x1000000 + 50 * 0x10000 + 25 * 0x100 + 3 * 0x20 + 3 }
    else if r = 0x04 then { rw := 0xFFFFFFFF, reset := 70 * 0x1000000 + 150 * 0x10000 + 40 * 0x100 + 50 }
    else if r = 0x10 then { rw := 0xFFFF, reset := 1000 }
    else {}
  | .mgmt, r =>
    if r = 0x10 then { rw := 0x100FF, reset := 0x1000A }
    else if r = 0x20 then { rw := 0xFFFF, reset := 105 * 0x100 + 95 }
    else if r = 0x30 then { rw := 0xFFFF }
    else if r = 0x58 then { rw := 0x1FFF, copies := true }
    else if r = 0x200 then { rw := 0x7F, copies := true }
    else if r = 0x214 then { rw := 0xFFFF, reset := 10 }
    else {}
  | .qos, r =>
    if r < 0x80 ∧ r % 8 = 0 then
      { rw := 0x07C0FFFF, reset := (if r = 0 then 0 else 16 - r / 8) * 0x400000 + 500 * (r / 8) }
    else if r < 0x80 ∧ r % 8 = 4 then { rw := 0x80FF3FFF, reset := 4 * 0x10000 }
    else if 0x80 ≤ r ∧ r < 0xC0 ∧ r % 4 = 0 then { rw := 0xFFFFFF, reset := 96 * 0x10000 + 32 * 0x100 + 8 }
    else if r = 0xC0 then { rw := 0x1FFF, reset := 8 * 0x100 + 13 * 0x10 + 14 }
    else if r = 0x100 then { rw := 0x3, copies := true }
    else {}
  | .trk, r =>
    if r = 0x00 then { rwl := 0x1FF01FF, reset := 32 * 0x10000 + 64 }
    else if r = 0x04 then { rwl := 0x1FF01FF, reset := 0x10002 }
    else if r = 0x08 then { rw := 0x1FFF1, reset := 10 * 0x10 + 1 }
    else if r = 0x10 then { rw := 0xFF, reset := 20 }
    else {}
  | .seatwin, r =>
    if r = 0x00 then { rw := 0xC0000FFF, copies := true }
    else if r = 0x100 then { rwl := 0x1F, reset := 4 }
    else {}
  | .ring, r =>
    if r = 0x00 then { rw := 0x1FFF, copies := true }
    else if r = 0x40 then { rw := 0xFFFF, reset := 100 }
    else {}
  | .card, r =>
    if r = 0x00 then { rw := 0xFFFF, reset := 1000 }
    else if r = 0x04 then { rw := 0x1F0F, reset := 0x804 }
    else if r = 0x08 then { rw := 0xF, reset := 4 }
    else if r = 0x0C then { rw := 0xFFFF, reset := 0x208 }
    else if r = 0x10 then { rw := 0x7F, reset := 50 }
    else if r = 0x20 then { rw := 0x1FFFFFF, reset := 4096 }
    else if r = 0x24 then { rw := 0xFFFF, reset := 64 }
    else {}
  | .hp _, r =>
    if r = 0x14 then { rwl := 0x37, reset := 5 }
    else if 0x100 ≤ r ∧ r < 0x200 ∧ r % 0x40 = 0xC then { rwl := 1 }
    else {}
  | .crl n, r =>
    if r = 0x00 then { rw := 0x3FFF, reset := 50 }
    else if r = 0x20 then { rw := 0xF3FFF, copies := true }
    else if r = 0x40 ∧ n = 0 then { rw := 1 }
    else {}
  | .skn _, r =>
    if r = 0x20 then { rw := 0x80FFF1FF, copies := true }
    else if r = 0x34 then { rw := 0xFFFFFF, copies := true }
    else {}
  | .spn _, r =>
    if r = 0x08 then { rw := 0xFFFFFF, reset := 8 * 0x10000 + 200 }
    else if r = 0x0C then { rw := 0xFF01, reset := 64 * 0x100 }
    else if r = 0x18 then { rw := 0xFFFFFF03, reset := 4096 * 0x100 }
    else {}
  | .ch n, r =>
    if r = 0x04 then { rwl := 0xFFFE0000 }
    else if r = 0x18 then { rw := 0xFFFFFFFF, reset := 2048 * 0x10000 + 1000 }
    else if r = 0x20 then { rw := 0xFF00FFFF, reset := 16 * 0x1000000 + 96 * 0x100 + 32 }
    else if r = 0x40 ∧ n = 0 then { rw := 0x70, reset := 0x60 }
    else if r = 0x8000 then { rw := 0x1FFFF, reset := 0x10400 }
    else if r = 0x8004 then { rw := 0xFFFF, reset := 1000 }
    else if r = 0x8024 then { rw := 0xE0000FFF, reset := 1 }
    else {}
  | .st _, _ => {}
  | .ply n, r =>
    if r = 0x04 then { rw := 0x1F, reset := 16 }
    else if r = 0x40 ∧ n = 0 then { rw := 0x1F, reset := 20 }
    else if r = 0x44 ∧ n = 0 then { rw := 0xFFF, copies := true }
    else {}
  | .mbx _, r =>
    if r = 0x00 then { rw := 0x3E0000 }
    else if r = 0x18 then { rw := 0xFFFFFFFF, copies := true }
    else if r = 0x1C then { rw := 1, copies := true }
    else {}

/-- `regInfoAt` by BAR2 offset. -/
def regInfo (off : Nat) : RegInfo :=
  match blockOf off with
  | some (b, r) => regInfoAt b r
  | none => {}

/-- Keys of the controller's copies lie above the BAR2 space (R464). -/
def copy1 : Nat := 0x1000000

/-- Reset value of the plain register at a key of `State.regs`. -/
def regReset (key : Nat) : Word := BitVec.ofNat 32 (regInfo (key % copy1)).reset

/-- Reset classes of R461; HELD and FUSED registers are fields of their own in `State`. -/
inductive RClass where
  | cold | global | warm | domain
  deriving DecidableEq, Repr

/-- Class of the plain register or counter at a key. MAX_RATE is the one plain field of CH0.RATE_CTL and is of the
COLD class. -/
def regClass (key : Nat) : RClass :=
  match blockOf (key % copy1) with
  | some (.hsw, _) => .cold
  | some (.ch 0, 0x40) => .cold
  | some (.mgmt, r) => if r = 0x10 ∨ (0x50 ≤ r ∧ r ≤ 0x78) then .warm else .global
  | some (.spn _, _) => .domain
  | some (.ply _, _) => .domain
  | _ => .global

end Sys2Proof.Machine
end

