-- ==== Sys2Proof/Machine/State.lean ====
section
/-! DEFINITION. The state of PX9, as plain data: every register, table, queue, buffer, counter, mode and pin the
manual gives the device, what it has sent out, and the queue of waiting commands. `State.reset` is the device right
after its always-on power-on reset is released at a cold power-up. Field docstrings cite the rule that names them. -/

namespace Sys2Proof.Machine

/-- Nothing the manual describes halts this block, so no step faults. The type has no constructor; safe. -/
inductive Fault where
  deriving DecidableEq, Repr

/-- Why a command has no meaning. -/
inductive Refusal where
  /-- Raised by `exec` alone, for a row of the table that has no meaning yet; safe. -/
  | notModelled (mnemonic : String)
  deriving DecidableEq, Repr

/-! ## What leaves the device -/

/-- The NDR kinds of R98 and R105. -/
inductive Ndr where
  | cmp | cmpS | cmpE | biConflictAck
  deriving DecidableEq, Repr

/-- The snoop kinds of R99. -/
inductive SnpKind where
  | inv | data | cur
  deriving DecidableEq, Repr

/-- Return codes of mailbox, CCI and FM API commands (R42, R44, R71, R345, R437). -/
inductive Ret where
  | success | background | unsupported | busy | invalidInput | resourcesExhausted | aborted | failed
  deriving DecidableEq, Repr

/-- The reason byte or other contents of an answer, as numbers in the order the model states. -/
abbrev Contents := List Nat

/-- The body of a sequenced or control ply packet that the device sends (R328). -/
inductive PlyBody where
  | ack | keepalive
  | pair (step frag frags : Nat) (payload : List Byte)
  | mwr (w : PlyWrite) | rsync (w : PlyWrite)
  | metaRec (win kind dla : Nat)
  | keyset (win gen keyId : Nat)
  | pread (tag : Nat)
  | mbox (words : List Word)
  | mtab (table : List MtabEntry)
  | resyncStart (win : Nat) | resyncEnd (win syncId : Nat) | handover (win : Nat)
  | ledger (tag win : Nat) (exts : List Extent)
  | rekey (tag win : Nat)
  | mack (seq : Nat) (status : Nat)
  | crec (batch : Nat) (recs : List CrecRec)
  | batchEnd (batch : Nat) | batchAck (batch : Nat)
  | prsp (tag status : Nat) (body : Contents)
  | laneset (eff width : Nat) | lanesetAck (eff : Nat)
  deriving DecidableEq, Repr

/-- What the device sends, in the order it sends it. -/
inductive Out where
  /-- S2M data response (R36): the data, or poison; with its DevLoad (R13). -/
  | drs (port link id tag : Nat) (data : List Byte) (poison : Bool) (devLoad : Nat)
  /-- S2M response without data (R36). -/
  | ndr (port link id tag : Nat) (kind : Ndr) (devLoad : Nat)
  /-- Back-invalidate snoop (R106): one seat, one alias. -/
  | bisnp (port link id : Nat) (kind : SnpKind) (hpa : Nat)
  /-- An answer of the CXL mailbox, the CCI or the FM API. -/
  | answer (dst : Option Cci) (opcode : Nat) (ret : Ret) (body : Contents)
  /-- An SPDM or DOE answer (R40, R433): its code and contents. -/
  | spdm (dst : Responder) (code : Nat) (body : Contents)
  /-- An IDE_KM answer (R38). -/
  | ideKm (port link : Nat) (ok : Bool)
  /-- Data of a register read, one word per register covered (R7). -/
  | regData (dst : Agent) (vals : List Word)
  /-- MSI-X of a function (R45): vector 0 mailbox, 1 event log, 2 DOE, 3–31 rings and device events of its seat. -/
  | fnMsix (f : Fn) (vec : Nat)
  /-- An interrupt taken by the management controller (R260, R417, R448). -/
  | mcIrq (source : Nat)
  /-- An event presented to a seat's host (R69, R71, R72): the kind and its contents. -/
  | hostEvent (seat kind : Nat) (body : Contents)
  /-- A REKEY that the management island submitted is over: window and status (R177, R178, R224). -/
  | rekeyDone (win status : Nat)
  /-- A ply packet (R327): port, SEQ, ACK, TXC, the credits it returns, and body. -/
  | ply (port seq ack txc credReq credRsp : Nat) (body : PlyBody)
  /-- An MCTP or PLDM answer (R422, R423). -/
  | mctp (kind : Nat) (body : Contents)
  /-- JTAG scan response (R439). -/
  | jtag (i : JtagInstr)
  /-- A link partner's training or recovery answered: the rate and flit chosen (R32). -/
  | link (port link rate flit : Nat)
  deriving DecidableEq, Repr

/-! ## Time, identity, reset -/

/-- Stages of the power-up and reset sequence (R391, R392). -/
inductive Phase where
  /-- AON is not running or waits for the LDO (steps 1–2 of R391). -/
  | aonOff | ldo
  /-- The supervisor runs towards ON (step 3). -/
  | supervisor
  /-- Waiting for RAILS_OK (step 4). -/
  | rails
  /-- SRAM zeroed; waiting for the metadata-key draw (R392 steps 1–3). -/
  | keyDraw
  /-- Waiting for the firmware (step 5). -/
  | firmware
  /-- No bank passed: the ROM started nothing (R430). -/
  | noFirmware
  /-- Firmware runs, training not yet released (step 6). -/
  | training
  /-- Waiting for the warp-image load (step 7). -/
  | image
  /-- The sequence is over. -/
  | run
  /-- A GLOBAL-class reset is held (SUPPLY, REFCLK; R376, R393). -/
  | held
  deriving DecidableEq, Repr

/-- Identity, powered time marks and the wake record (R3, R8, R9, R374). -/
structure Boot where
  /-- True on PX9-1024-H (R1). -/
  partH     : Bool := true
  stepMajor : Nat := 0
  stepMinor : Nat := 0
  phase     : Phase := .ldo
  /-- BOOT_COUNT (R9), held in flash. -/
  bootCount : Nat := 0
  /-- Restarts of POWERED_US for which BOOT_COUNT has not yet advanced (R9). -/
  bumpDue   : Nat := 1
  /-- Wake record CAUSE, BO_SRC, BO_CNT, PREV_MS, PREV_BOOT (R374). -/
  cause     : Nat := 0
  boSrc     : Nat := 0
  boCnt     : Nat := 0
  prevMs    : Nat := 0
  prevBoot  : Nat := 0
  /-- The first event record after a reset carries CAUSE and BO_SRC (R374): still to be written. -/
  firstDue  : Bool := true
  /-- A WARM reset is in progress: the controller reboots (R395), since this instant. -/
  warmSince : Option Nat := none
  /-- A WARM asked for by register waits for a background command (R395). -/
  warmWaits : Bool := false
  railsOk   : Bool := false
  /-- THERMTRIP_N driven low (R405). -/
  thermtrip : Bool := false
  /-- References lost (R376): HP0–HP3, PP0–PP1, core in bits 0–6. -/
  refLost   : BitVec 7 := 0
  deriving DecidableEq, Repr

/-- A 32-byte event record (R411). -/
structure Event where
  us      : Nat
  boot    : Nat
  source  : Nat
  code    : Nat
  sev     : Nat
  payload : List Byte
  /-- The seats, windows and rings the record names (R414's view). -/
  seats   : List Nat
  wins    : List Nat
  deriving DecidableEq, Repr

/-- The event log (R414). -/
structure Log where
  /-- Records in the ring, oldest first, at most 8,192, each with its running number. -/
  ring      : List (Nat × Event) := []
  /-- Records written since the ring was last empty; LOG_WIDX is this modulo 8,192. -/
  written   : Nat := 0
  lostRing  : Nat := 0
  lostFlash : Nat := 0
  /-- Queue toward the persistent log, at most 256. -/
  queue     : List Event := []
  /-- Persistent log, oldest first, at most 131,072 records. -/
  flash     : List Event := []
  /-- Records written to the persistent log since the last seal (R438). -/
  sinceSeal : List Event := []
  /-- SMB_ALERT_N low: an ERR or FATAL record is unread over MCTP (R473). -/
  alert     : Bool := false
  deriving DecidableEq, Repr

/-! ## Host ports -/

/-- State of an IDE stream (R38, R39). -/
inductive Ide where
  | off | active | insecure
  deriving DecidableEq, Repr

/-- One link of a host port (R46–R54). -/
structure Link where
  up       : Bool := false
  mem      : Bool := false
  rate     : Nat := 0
  width    : Nat := 0
  flit     : Nat := 0
  reversed : Bool := false
  /-- Physical lane of the port that carries logical lane 0 (R29). -/
  lane0    : Nat := 0
  inv      : BitVec 16 := 0
  /-- Partial width under L0p (R46). -/
  l0p      : Nat := 0
  /-- Lk_EVT bits (R52). -/
  evt      : BitVec 5 := 0
  /-- Lk_ERRCNT counts (R53). -/
  crc      : Nat := 0
  replay   : Nat := 0
  proto    : Nat := 0
  /-- CXL RAS capability: uncorrectable non-fatal errors logged (R27). -/
  ras      : Nat := 0
  ideMem   : Ide := .off
  ideLink  : Ide := .off
  ideSel   : Ide := .off
  /-- Session keys of the three streams, named by number; 0 none (R38, R180). -/
  keyMem   : Nat := 0
  keyLink  : Nat := 0
  keySel   : Nat := 0
  /-- Logical device or PBR IDs whose binding the partner no longer holds (R57). -/
  unbound  : List Nat := []
  /-- Credits the host holds: M2S Req, RwD and BIRsp (R33, R34). -/
  credReq  : Nat := 0
  credRwd  : Nat := 0
  credBi   : Nat := 0
  /-- BISnp credits the host has granted (R35). -/
  credSnp  : Nat := 0
  deriving DecidableEq, Repr

/-- One host port. -/
structure Port where
  /-- Strap balls HPn_BIF (R28). -/
  strap : BitVec 2 := 0
  /-- BIF_STS: the straps as last sampled (R49). -/
  bifSts : BitVec 2 := 0
  /-- Links held in Detect by HPn_PERST_N (R473). -/
  perst : Bool := false
  deriving DecidableEq, Repr

/-- What a link-owner function holds (R40–R46). -/
structure FnState where
  /-- Opcode of the mailbox's background command; 0 none (R44). -/
  bg       : Nat := 0
  /-- The last background command's return code and contents are ready (R44). -/
  bgDone   : Bool := false
  /-- Instant by which the DOE request last taken has been answered (R40). -/
  doeUntil : Nat := 0
  /-- The SPDM requester has offered Falcon-1024 (R433). -/
  falcon   : Bool := false
  /-- A secured SPDM session is open (R433). -/
  session  : Bool := false
  evtPolicy : Nat := 0
  /-- MSI-X disabled by a function-level reset (R46). -/
  msixOff  : Bool := false
  /-- MSI-X table as written: word i of vector v at 4 v + i (R45). -/
  msixTab  : Tab Word := []
  /-- MSI-X pending-bit array (R45). -/
  pba      : BitVec 32 := 0
  /-- Stored registers of the RAS capability in BAR0 and of AER in the configuration space, by `cfgKey` there (R26, R45). -/
  bar0     : Tab Word := []
  /-- CDAT change indication (R41). -/
  cdatChg  : Bool := false
  /-- Running numbers of the event records cleared from the view (R42). -/
  cleared  : List Nat := []
  deriving DecidableEq, Repr

/-! ## Seats, windows, ledger -/

/-- Seat states, coded as R56. -/
inductive SeatState where
  | none | attached | detached | suspect | disabling | disabled
  deriving DecidableEq, Repr

/-- A path of a seat (R56): KIND 0 none, 1 direct, 2 MLD, 3 PBR. -/
structure Path where
  kind : Nat := 0
  port : Nat := 0
  link : Nat := 0
  id   : Nat := 0
  deriving DecidableEq, Repr

/-- A seat-table entry (R56) and what the device keeps beside it. -/
structure Seat where
  p0       : Path := {}
  p1       : Path := {}
  admin    : Bool := false
  perfRead : Bool := false
  state    : SeatState := .none
  enable   : Bool := false
  /-- ENABLE written while DISABLING (R58). -/
  pendEn   : Option Bool := .none
  /-- A re-weave removes the seat (R58). -/
  removing : Bool := false
  /-- Since when no path is in L0 (R48). -/
  lostAt   : Option Nat := .none
  /-- The last path to leave L0, as port * 4 + link (R412). -/
  lastPath : Nat := 0
  /-- While DISABLING: the creel actions of R48 have been done. -/
  gone     : Bool := false
  /-- Consecutive snoops answered while SUSPECT (R113). -/
  answered : Nat := 0
  /-- DevLoad values carried by responses: instant and value (R279). -/
  loads    : List (Nat × Nat) := []
  /-- Values stored by Set QoS Control (R279). -/
  qosCtl   : List Nat := []
  /-- Bits 37:0 of the entry as written by register before an image fills it (R5, R56). -/
  raw      : Option Nat := .none
  deriving DecidableEq, Repr

/-- Window states, coded as R60. -/
inductive WinState where
  | offline | online | disabling | disabled
  deriving DecidableEq, Repr

/-- Why a window is DISABLING (R75). -/
inductive DrainCause where
  | enable | reweave | sanitize
  deriving DecidableEq, Repr

/-- Mirror states, coded as R356. -/
inductive MState where
  | off | sync | degraded | resync | mismatch
  deriving DecidableEq, Repr

/-- A window-table entry (R60) and what the device keeps beside it. -/
structure Win where
  hpaHank   : Nat := 0
  dlaHank   : Nat := 0
  size      : Nat := 0
  owner     : Nat := 0
  group     : Bool := false
  db        : Bool := false
  elastic   : Bool := false
  aliasN    : Nat := 0
  aliasSh   : Nat := 0
  aliasQc   : BitVec 16 := 0
  keySlot   : Nat := 0
  mirror    : Nat := 0
  secondary : Bool := false
  napOk     : Bool := false
  pin       : Bool := false
  clevel    : Nat := 0
  dbhV      : Bool := false
  dbhHank   : Nat := 0
  state     : WinState := .offline
  enable    : Bool := false
  dc        : Bool := false
  cause     : Option DrainCause := none
  /-- ENABLE written while DISABLING (R75). -/
  pendEn    : Option Bool := none
  /-- Home hanks of a guaranteed window: runs of physical hanks (R125). -/
  homes     : List (Nat × Nat) := []
  /-- Mirror state and SYNC_ID (R339). -/
  ms        : MState := .off
  syncId    : Nat := 0
  /-- A role change waits for HANDOVER (R348). -/
  waitHand  : Bool := false
  /-- A role change to secondary drains and will send HANDOVER (R348). -/
  sendHand  : Bool := false
  /-- HANDOVER has come before this device's own re-weave (R348). -/
  handed    : Bool := false
  /-- Creel state has been sent since RESYNC_START, and the batch that must be acknowledged (R349, R339). -/
  crecSent  : Bool := false
  crecBatch : Option Nat := none
  /-- The window may not go ONLINE before the partner installs its key set (R179). -/
  waitPeer  : Bool := false
  /-- Number of the epoch in which the window was created (the model's own): what COLD of a hank that nothing has
  touched counts from. -/
  born      : Nat := 0
  /-- Order stamp of the write that began to disable the window (the model's own): a descriptor that started before it
  is served (R74, R210). -/
  disOrd    : Nat := 0
  deriving DecidableEq, Repr

/-- A 256 MiB block of DLA of a Dynamic Capacity window (R70–R72): 1 pending, 2 online, 3 being released, 4 waiting for
the partner's ledger (R343), 5 freed and waiting for the partner's acknowledgement (R343). -/
structure Block where
  st     : Nat := 0
  /-- The seat the capacity was added for (R71). -/
  seat   : Nat := 0
  /-- Number of the extent it came with, in order of addition (R69). -/
  ext    : Nat := 0
  win    : Nat := 0
  /-- The command to complete when the release, or the partner's acknowledgement, is done (R72, R343). -/
  answer : Option Cci := none
  deriving DecidableEq, Repr

/-- The capacity ledger (R66–R68) and the pressure level (R132: 0 GREEN … 3 BLACK). -/
structure Ledger where
  p      : Nat := 0
  g      : Nat := 0
  d      : Nat := 0
  elim   : Nat := 0
  e      : Nat := 0
  refuse : Nat := 0
  level  : Nat := 0
  /-- The first BLACK write since the level was entered has written its event (R140). -/
  blackSeen : Bool := false
  deriving DecidableEq, Repr

/-! ## The request path -/

/-- M2S operations that reach the tracker (R36, R98). -/
inductive ReqOp where
  | rd (snp : SnpType) | rdData | inv | invNT | clnEvct | wr | wrPtl
  deriving DecidableEq, Repr

/-- A decoded message in a port's ingress buffer (R83). -/
structure Msg where
  seat  : Nat
  port  : Nat
  link  : Nat
  id    : Nat
  tag   : Nat
  op    : ReqOp
  hpa   : Nat
  win   : Nat
  ali   : Nat
  dla   : Nat
  qc    : Nat
  data  : List Byte
  mask  : BitVec 64
  /-- The message still holds the M2S credit it came with (R34): false for a crossing writeback, which has returned it (R107). -/
  cred  : Bool := true
  deriving DecidableEq, Repr

/-- Tracker entry states (R86); a FREE entry is not listed. -/
inductive TrkState where
  | chained | issued | cohere | mirror | abandoned
  deriving DecidableEq, Repr

/-- Where a skein slice resolved a request to (R129): a hot DPA line index with the key set and generation that cover it, or
a byte offset and length (in 8-byte units) in a compressed run. -/
inductive Loc where
  | zeros | poison
  | hot (line : Nat) (key gen : Nat)
  | comp (run : Nat) (off : Nat) (len : Nat)
  deriving DecidableEq, Repr

/-- A line as DRAM stores it (R254, R257): the poison code word, or a line enciphered with a key set under a tweak
(generation and line index), with the error pattern on its 80 symbols ([] for none). -/
structure Stored where
  poison : Bool := false
  key    : Nat := 0
  gen    : Nat := 0
  idx    : Nat := 0
  data   : List Byte := []
  err    : List Byte := []
  deriving DecidableEq, Repr

/-- A line as the channel took a read of it: its DPA line index, what DRAM held, and the key set and generation that the
skein gave for it (R87, R173). -/
structure Snap where
  line : Nat
  st   : Option Stored
  key  : Nat
  gen  : Nat
  deriving DecidableEq, Repr

/-- A tracker entry (R76). -/
structure Trk where
  m        : Msg
  reserve  : Bool
  lender   : Option Nat
  granted  : Nat
  deadline : Nat
  st       : TrkState
  /-- Arrival order at the tracker. -/
  ord      : Nat
  /-- The creel slice has granted the line (R12 step 7). -/
  coherent : Bool := false
  /-- What the NDR grants, where the creel has decided it (R98). -/
  grant    : Option Ndr := none
  /-- The channel has accepted the write (R86). -/
  accepted : Bool := false
  /-- The write has become a poison write (R88). -/
  poisonWr : Bool := false
  /-- The response has been sent or is never to be sent (R47, R88). -/
  silent   : Bool := false
  /-- A segment decode is waiting for a spindle (R190). -/
  decoding : Bool := false
  /-- Dispatched again once after a local-store error (R193). -/
  retried  : Bool := false
  /-- The write waits for a promotion of its page (R16, R17). -/
  waitPromo : Bool := false
  /-- DevLoad of the channel when it took the request (R13, R278). -/
  devLoad  : Nat := 0
  /-- The slice has returned the write; it is resent as a REQ-class ownership request (R103). -/
  returned : Bool := false
  /-- The retry has come and the write is a REQ-class ownership request now (R103). -/
  resent   : Bool := false
  /-- The request has reached its serialisation point (R86). -/
  serial   : Bool := false
  /-- Where the skein resolved the request to (R129). -/
  loc      : Option Loc := none
  /-- The stored lines as the channel took the read: what the read returns (R87). -/
  snap     : List Snap := []
  /-- BIConflict acknowledgements that follow this request's response: port, link, id, tag (R105). -/
  acks     : List (Nat × Nat × Nat × Nat) := []
  /-- A lookup for the request has missed the skein cache (R129). -/
  missed   : Bool := false
  /-- The lookup has been counted and the access sampled for heat (R12 step 5, R133, R146). -/
  looked   : Bool := false
  /-- Order stamp of the creel's grant (R87, R109); 0 before it. -/
  gord     : Nat := 0
  /-- Order stamp of the write's first wait for a promotion of its page (R17); 0 where it never waited. -/
  waitOrd  : Nat := 0
  /-- Its data was absorbed on the way to the host port: only the response ceiling answers it (R300, R301). -/
  lost     : Bool := false
  /-- Its window was STRICT when the entry was granted (R348). -/
  strict   : Bool := false
  deriving DecidableEq, Repr

/-- What the tracker knows of a seat's use of one pool (R78). -/
structure Use where
  last : Nat := 0
  idle : Bool := false
  deriving DecidableEq, Repr

/-! ## The creel -/

/-- Creel entry states, coded as R96. -/
inductive CState where
  | invalid | shared | exclusive | busy | poisoned
  deriving DecidableEq, Repr

/-- Sharer formats, coded as R96. -/
inductive Fmt where
  | ptr | grp | bcast
  deriving DecidableEq, Repr

/-- A creel entry (R96). -/
structure Centry where
  line  : Nat := 0
  st    : CState := .invalid
  fmt   : Fmt := .ptr
  ptrs  : List Nat := []
  grp   : BitVec 32 := 0
  amask : BitVec 4 := 0
  /-- An inert mirror entry of a secondary (R344), with the state and window it stands for. -/
  mir   : Bool := false
  win   : Nat := 0
  /-- Recency, for the pseudo-least-recently-used choice (R100). -/
  used  : Nat := 0
  deriving DecidableEq, Repr

/-- The request kinds of R98. -/
inductive Kind where
  | sharedRd (excl : Bool) | own | current | invalidate
  /-- A write of a whole line, or of a part of one (R99). -/
  | write (full : Bool)
  | cleanEvict
  deriving DecidableEq, Repr

/-- Who made a request that a slice orders: a tracker entry, an agent without caches (R116, by a number of its
own), or the slice itself. -/
inductive Origin where
  | trk (e : Nat)
  | agent (n : Nat)
  | victim
  /-- A disable, release or unmap invalidates every holder (R72, R74, R216). -/
  | purge
  /-- A rebuild or recovery re-snoops (R115, R346). -/
  | recover
  deriving DecidableEq, Repr

/-- The active request of a line and the snoops it still owes (R104, R106). -/
structure Active where
  who    : Origin
  kind   : Kind
  snp    : SnpKind
  seats  : List Nat
  /-- Snoops not yet holding a record: seat and alias, ascending (R106). -/
  todo   : List (Nat × Nat)
  /-- Strongest answer of each seat that has answered (R106). -/
  answers : List (Nat × BiAns) := []
  win    : Nat
  ali    : Nat
  /-- The entry was EXCLUSIVE when it became BUSY (R48). -/
  excl   : Bool := false
  /-- The line whose request waits for this victim's way (R100). -/
  vFor   : Option Nat := none
  deriving DecidableEq, Repr

/-- A crossing record (R106). -/
structure Xing where
  line    : Nat
  seat    : Nat
  ali     : Nat
  kind    : SnpKind
  win     : Nat
  /-- The slice has issued the snoop (R106, R110). -/
  issued  : Bool := false
  /-- The snoop has left on the link with this index. -/
  sent    : Option Nat := none
  /-- The timer runs from its issue; none while stopped (R48, R110). -/
  start   : Option Nat := none
  /-- BI timeout in force at issue is read from the slice; time already run when stopped. -/
  ran     : Nat := 0
  wbAhead : Bool := false
  wbDone  : Bool := false
  pclr    : Bool := false
  /-- Crossing writebacks held in the record's buffer, oldest first: return path, data and mask (R107). -/
  buf     : List Msg := []
  ans     : Option BiAns := none
  deriving DecidableEq, Repr

/-- A creel slice (R119). -/
structure Slice where
  ready  : Bool := false
  recov  : Bool := false
  rr     : Nat := 0
  /-- Requests waiting in the conflict queue, oldest first (R104). -/
  confq  : List (Nat × Origin × Kind × Nat × Nat) := []
  /-- Back-invalidations that wait for their lines (R72, R74, R115): line, and the one seat to invalidate, or 1024 for
  every holder, or 1025 where a recovery snoops every member of the owning group. -/
  purges : List (Nat × Nat) := []
  /-- Sets marked broadcast-on-miss (R115). -/
  bcast  : List Nat := []
  /-- Sets marked UNSURE (R344, R346). -/
  unsure : List Nat := []
  /-- Damaged entries of the recovery in progress: set, way, LINE half sound (R115). -/
  damaged : List (Nat × Nat × Bool) := []
  deriving DecidableEq, Repr

/-! ## Skein, carder, storage -/

/-- MODE of a hank, coded as R124. -/
inductive Mode where
  | unmapped | direct | paged
  deriving DecidableEq, Repr

/-- A hank entry (R124). -/
structure Hank where
  mode  : Mode := .unmapped
  guar  : Bool := false
  pin   : Bool := false
  dirty : Bool := false
  fill  : Bool := false
  kgen  : Nat := 0
  block : Nat := 0
  home  : Nat := 0
  nhot  : Nat := 0
  ncomp : Nat := 0
  heat  : Nat := 0
  cold  : Nat := 0
  deriving DecidableEq, Repr

/-- TIER of a page, coded as R127. -/
inductive Tier where
  | unmapped | hot | compressed
  deriving DecidableEq, Repr

/-- A page entry (R127). ADDR is the frame number (HOT) or the first granule (COMPRESSED). -/
structure Page where
  tier   : Tier := .unmapped
  incomp : Bool := false
  promo  : Bool := false
  demo   : Bool := false
  kgen   : Nat := 0
  addr   : Nat := 0
  pmask  : BitVec 8 := 0
  rcnt   : Nat := 0
  rep    : Nat := 0
  len    : List Nat := []
  deriving DecidableEq, Repr

/-- How a physical hank of the shared pool is used (R131). -/
inductive HankUse where
  | frames (taken : List Nat)
  | runs (k : Nat) (taken : List Nat)
  deriving DecidableEq, Repr

/-- Why a promotion was asked for (R134, R221). -/
inductive Trigger where
  | read | write (qc : Nat) | ring (ring index : Nat) | home
  deriving DecidableEq, Repr

/-- A promotion queued or running (R134, R135). -/
structure Promo where
  key   : Nat
  why   : Trigger
  run   : Bool := false
  /-- The frame allocated in step 2, and the generation it is written under. -/
  frame : Option Nat := none
  gen   : Nat := 0
  deriving DecidableEq, Repr

/-- A demotion queued or running (R136, R137). -/
structure Demo where
  key  : Nat
  run  : Bool := false
  /-- Encoded segments: lengths in 8-byte units and bytes (step 3). -/
  enc  : Option (List Nat × List Byte) := none
  deriving DecidableEq, Repr

/-- A compaction move (R138). -/
structure Move where
  key    : Nat
  oldAddr : Nat
  newAddr : Nat
  isRun   : Bool := false
  switched : Bool := false
  deriving DecidableEq, Repr

/-- The carder (R132–R138). -/
structure Carder where
  epoch   : Nat := 0
  /-- Instant the current epoch began. -/
  epochAt : Nat := 0
  promo   : List Promo := []
  demo    : List Demo := []
  moves   : List Move := []
  /-- The working floor is held aside: false from when it is drawn on until a hank becomes wholly free (R131). -/
  floor   : Bool := false
  /-- The floor hank that has been drawn on and not yet replaced (R131). -/
  drawn   : Option Nat := none
  deriving DecidableEq, Repr

/-! ## Keys -/

/-- States of a key slot, coded as R174. -/
inductive KsState where
  | free | active | rekeying
  deriving DecidableEq, Repr

/-- A key slot (R174) and its two key sets, named by number. -/
structure Slot where
  win    : Nat := 0
  gen    : Nat := 0
  st     : KsState := .free
  peer   : Bool := false
  rekeys : Nat := 0
  done   : Nat := 0
  cur    : Nat := 0
  old    : Option Nat := none
  /-- Both copies of a key set have failed (R266). -/
  failed : Bool := false
  /-- The conversion cursor: hank offset, page (none for a DIRECT hank) and the DPA line index of the next line (R177). -/
  cursor : Option (Nat × Option Nat × Nat) := none
  /-- Next hank offset the walk visits. -/
  walk   : Nat := 0
  /-- Ring and index of the descriptor that submitted the REKEY (R177). -/
  by_    : Option (Nat × Nat) := none
  /-- The management island submitted the REKEY (R177). -/
  island : Bool := false
  /-- The walk has been stopped: its window is on the way out (R178). -/
  stopped : Bool := false
  /-- Tag of the partner's CTRL REKEY to answer (R179). -/
  ptag   : Option Nat := none
  /-- The partner's walk is still running (R179). -/
  peerWalk : Bool := false
  /-- The partner has not yet installed the new key set (R179). -/
  peerKey : Bool := false
  /-- A key set of the next generation that the primary has sent, for the REKEY that it will forward (R179). -/
  newKey : Option Nat := none
  deriving DecidableEq, Repr

/-- Key material outside the slots, and the TRNG (R173, R176, R184). -/
structure Keys where
  metaKey  : Option Nat := none
  metaFail : Bool := false
  /-- Number the next key set drawn will have. -/
  next     : Nat := 1
  trngOk   : Bool := false
  failSeen : Bool := false
  fails    : Nat := 0
  /-- A health test is failing (R176, R184). -/
  failing  : Bool := false
  /-- A draw of the metadata key is due (R176). -/
  metaDue  : Bool := true
  deriving DecidableEq, Repr

/-! ## Spindles and rings -/

/-- States of a spindle, coded as R199. -/
inductive SpnState where
  | run | gated | doze | failed
  deriving DecidableEq, Repr

/-- A unit of work (R187). -/
inductive Job where
  | decode (entry : Nat)
  | promo (key : Nat) | demo (key : Nat) | move (key : Nat) | fill (key : Nat)
  | desc (ring index : Nat)
  | rekey (win : Nat) | resync (win hank : Nat)
  deriving DecidableEq, Repr

/-- A unit in a slot or waiting for one (R187, R190). -/
structure Unit_ where
  job   : Job
  role  : Nat
  qc    : Nat
  /-- Skein slice that dispatches a decode (R190). -/
  slice : Nat := 0
  ord   : Nat := 0
  /-- A spindle it is not given to: the one whose local store failed it (R193); 48 for none. -/
  avoid : Nat := 48
  /-- The sleeping quadrant whose boundary queue it has entered (R196); 4 for none. -/
  bq    : Nat := 4
  deriving DecidableEq, Repr

/-- A spindle (R187–R201). -/
structure Spindle where
  st       : SpnState := .run
  home     : Nat := 0
  lend     : BitVec 6 := 0
  /-- Role and loans that take over once admitted units complete (R321). -/
  newRole  : Option (Nat × BitVec 6) := none
  lending  : Option Nat := none
  slots    : List (Nat × Unit_) := []
  /-- Instant since which no home-role unit is in a slot or waiting (R191), and since which all slots are empty (R195). -/
  homeIdle : Nat := 0
  empty    : Nat := 0
  /-- SEQ_PC (R201). -/
  pcNew    : Bool := false
  pcSlot   : Nat := 0
  pcRole   : Nat := 0
  pc       : Nat := 0
  ucode    : Nat := 0
  /-- Instant of the last sample, or of the start of sampling; while the clock is stopped, the time run since (R198). -/
  pcAt     : Nat := 0
  pcRan    : Option Nat := none
  /-- Lines deposited by write hints, at most 512, oldest first: the descriptor that wrote each, its DLA line index and its
  bytes (R116, R186). -/
  deposits : List (Nat × Nat × List Byte) := []
  deriving DecidableEq, Repr

/-- A line in the line cache: its slice and its bytes; no bytes where it is not there (R14, R25). -/
structure Lcl where
  slice : Nat := 0
  data  : List Byte := []
  deriving DecidableEq, Repr

/-- Ring states, coded as R204. -/
inductive RingState where
  | none | disabled | enabled | disabling | halted
  deriving DecidableEq, Repr

/-- A ring-table entry (R204) and what the service keeps beside it. -/
structure Ring where
  seat     : Nat := 0
  lcl      : Nat := 0
  qc       : Nat := 0
  ops      : BitVec 16 := 0
  st       : RingState := .none
  enable   : Bool := false
  sqBase   : Nat := 0
  cqBase   : Nat := 0
  size     : Nat := 0
  vector   : Nat := 0
  sqHead   : Nat := 0
  sqTail   : Nat := 0
  cqHead   : Nat := 0
  cqTail   : Nat := 0
  phase    : Bool := false
  inflight : Nat := 0
  removed  : Bool := false
  /-- Descriptors taken since the last accepted SQ tail value (R207). -/
  since    : Nat := 0
  /-- Setup words as written (R206). -/
  sqWord   : BitVec 64 := 0
  cqWord   : BitVec 64 := 0
  deriving DecidableEq, Repr

/-- Where a taken descriptor stands (R209, R211). -/
inductive DescSt where
  | waiting | started | ended
  deriving DecidableEq, Repr

/-- A descriptor taken and not yet recorded (R209). -/
structure Desc where
  raw     : List Byte
  st      : DescSt
  ord     : Nat
  startAt : Nat := 0
  /-- Order stamps of its start and of its end (the model's own). -/
  startOrd : Nat := 0
  endOrd  : Nat := 0
  limitMs : Nat := 0
  status  : Nat := 0
  r0      : Nat := 0
  r1      : Nat := 0
  r2      : Nat := 0
  tag     : Nat := 0
  /-- META records sent for it and not yet acknowledged (R343): it ends when none is left. -/
  metaWait : Nat := 0
  /-- Lines whose holders have been snooped for this descriptor (R116, R117). -/
  lines   : List Nat := []
  /-- Lines to be written whose lookup has been counted (R146). -/
  looked  : List Nat := []
  /-- Where its fetch is still to be read from: taken at a disable, while another seat held its line (R210, R226). -/
  late    : Option (Nat × Nat) := none
  deriving DecidableEq, Repr

/-! ## Channels and integrity -/

/-- Channel states, coded as R247. -/
inductive ChState where
  | absent | training | online | offline | selfref | failed
  deriving DecidableEq, Repr

/-- A request in a channel queue (R237). -/
structure Qent where
  ord   : Nat
  line  : Nat
  qc    : Nat
  write : Bool
  /-- Requester: seat number, or 1024 for the device requester (R239). -/
  seat  : Nat
  start : Nat
  entry : Option Nat
  deriving DecidableEq, Repr

/-- A merge-buffer entry (R241). -/
structure Merge where
  line  : Nat
  mask  : BitVec 64
  data  : List Byte
  at_   : Nat
  qc    : Nat
  key   : Nat
  gen   : Nat
  /-- DLA of the line, for its poison-list entry. -/
  dla   : Nat
  /-- Requester: seat number, or 1024 for the device requester (R239). -/
  seat  : Nat
  deriving DecidableEq, Repr

/-- A row entry of a row-disturbance table (R239). -/
structure RowEnt where
  row  : Nat := 0
  cnt  : Nat := 0
  tag0 : Nat × Nat := (0, 0)
  n0   : Nat := 0
  tag1 : Nat × Nat := (0, 0)
  n1   : Nat := 0
  deriving DecidableEq, Repr

/-- A throttle (R240): bank, requester (none: the whole bank), and the last activate it spaces from. -/
structure Throttle where
  bank : Nat
  who  : Option (Nat × Nat)
  last : Nat
  deriving DecidableEq, Repr

/-- A channel (R237–R253) and its integrity sub-block (R258–R270). -/
structure Chan where
  st       : ChState := .absent
  hot      : Bool := false
  dimms    : Option Dimms := none
  /-- CHn.STS.KIND reports an unsupported DIMM (R230). -/
  kind3    : Bool := false
  trfc     : Nat := 0
  tmax     : Nat := 0
  /-- MAP_BASE.HANK (R248). -/
  mapBase  : Nat := 0
  usable   : Bool := false
  /-- TRAIN_STS and the training in progress (R243–R245, R251). -/
  busy     : Bool := false
  step     : Nat := 0
  tries    : Nat := 0
  initial  : Bool := false
  /-- The next step waits for a DVFS transition or a rate change to end (R245). -/
  paused   : Bool := false
  lastRes  : Nat := 0
  lastUs   : Nat := 0
  start    : Bool := false
  startNext : Bool := false
  /-- Rate codes whose training values are held (R246). -/
  held     : List Nat := []
  rq       : List Qent := []
  wq       : List Qent := []
  drain    : Bool := false
  hitRun   : Nat := 0
  openRow  : Tab (Option Nat) := []
  rdt      : Tab (List RowEnt) := []
  throttles : List Throttle := []
  /-- Start of the refresh window, of the last refresh, of the last ZQ calibration and of the last sensor poll. -/
  winAt    : Nat := 0
  refAt    : Nat := 0
  zqAt     : Nat := 0
  pollAt   : Nat := 0
  merge    : List Merge := []
  lbLevel  : Nat := 0
  lbOvf    : Bool := false
  lbLeak   : Nat := 0
  notice   : Option Nat := none
  ceV      : Bool := false
  ceDev    : Nat := 0
  ceSub    : Nat := 0
  ceRank   : Nat := 0
  ceCol    : Nat := 0
  ceBits   : Nat := 0
  ceRow    : Nat := 0
  ceBank   : Nat := 0
  deriving DecidableEq, Repr

/-- CH0.RATE_CTL apart from MAX_RATE (R246, R252). -/
structure Rate where
  busy   : Bool := false
  cur    : Nat := 0
  alt    : Nat := 0
  altV   : Bool := false
  target : Nat := 0
  prev   : Nat := 0
  stored : Option Nat := none
  deriving DecidableEq, Repr

/-- Who asked for a scrub pass (R262). -/
inductive ScrubBy where
  | ring (r i : Nat) | mailbox (f : Fn) | island
  deriving DecidableEq, Repr

/-- One record of a pass summary (R264). -/
structure ScrubRec where
  dpa  : Nat
  dla  : Nat
  kind : Nat
  dev  : Nat
  bits : Nat
  deriving DecidableEq, Repr

/-- A scrub pass (R262–R264). -/
structure Pass where
  by_    : ScrubBy
  /-- Lines still to visit: DPA line index, DLA, and the DLAs of the segments on a run line. -/
  todo   : List (Nat × Nat × List Nat)
  /-- The line corrected by its scrub read, until its verify read is done, with device and bits. -/
  verify : Option (Nat × Nat × List Nat × Nat × Nat) := none
  /-- Its corrected code word, while the write-back is still due (R263). -/
  fix    : Option Stored := none
  /-- A write of the line has been accepted since: the write-back, or else the verify read, is cancelled (R263). -/
  cancelled : Bool := false
  start  : Nat
  whole  : Bool := false
  lines  : Nat := 0
  corr   : Nat := 0
  recur  : Nat := 0
  unc    : Nat := 0
  pois   : Nat := 0
  recs   : List ScrubRec := []
  media  : List (Nat × Nat) := []
  /-- A poison-list entry was refused during the pass (R265). -/
  refused : Bool := false
  deriving DecidableEq, Repr

/-- A poison-list entry (R265): source codes 0 injected, 1 media uncorrectable, 2 coherence timeout,
3 seat detached, 4 response ceiling, 5 capacity, 6 fabric, 7 found by scrub. -/
structure Pent where
  dla : Nat
  len : Nat
  src : Nat
  us  : Nat
  deriving DecidableEq, Repr

/-- The poison list (R265). -/
structure Plist where
  ents     : List Pent := []
  overflow : Bool := false
  firstUs  : Option Nat := none
  deriving DecidableEq, Repr

/-! ## QoS and fabric -/

/-- The bandwidth ledger (R276, R277), in units of 0.25 GB/s. -/
structure Qos where
  /-- LEDGER_ADM.LIMIT (R276, R285). -/
  adm     : Nat := 0
  /-- W_now at the last recomputation of SCALE, scaled to a whole number (the model's own). -/
  wLast   : Nat := 0
  scale   : Nat := 1024
  refuse  : Nat := 0
  qc0Over : Bool := false
  /-- Token bucket of class k in channel c at 16 k + c: spent since full, in bytes, and when last refilled (R274). -/
  buckets : Tab (Nat × Nat) := []
  /-- Round-robin position of the ring service in each class (R209). -/
  rr      : Tab Nat := []
  deriving DecidableEq, Repr

/-- A station (R292–R305). -/
structure Station where
  epoch   : Bool := false
  shadowV : Bool := false
  oldCnt  : Nat := 0
  dead    : BitVec 4 := 0
  cause   : BitVec 8 := 0
  linkFail : BitVec 4 := 0
  fenced  : BitVec 4 := 0
  /-- Boundary queues of the four local ports (R297): each flit's tracker entry, none for another agent's flit, with its
  epoch bit. -/
  bq0     : List (Option Nat × Bool) := []
  bq1     : List (Option Nat × Bool) := []
  bq2     : List (Option Nat × Bool) := []
  bq3     : List (Option Nat × Bool) := []
  deriving DecidableEq, Repr

/-- The fabric controller (R294, R302, R304). -/
structure Fabric where
  ring2   : Bool := false
  busy    : Bool := false
  flipped : Bool := false
  epoch   : Bool := false
  /-- Slot tables in force and in the shadow tables: REQ, RSP, DAT, 64 slots each (R280, R287). -/
  slots   : List (List Nat) := []
  shadow  : List (List Nat) := []
  switched : Bool := false
  deriving DecidableEq, Repr

/-! ## Warp image -/

/-- GLB.IMG_STS.STATE (R324). -/
inductive ImgState where
  | none | loaded | reweaving
  deriving DecidableEq, Repr

/-- The sections of an image by TYPE (R310). -/
abbrev Sections := List (Nat × List Byte)

/-- Steps of a re-weave that wait (R320). -/
inductive RwStep where
  | removing | microcode | flipping | writing | retiring
  deriving DecidableEq, Repr

/-- A re-weave being applied (R320). -/
structure Reweave where
  step    : RwStep
  secs    : Sections
  digest  : List Byte
  imgId   : Nat
  svn     : Nat
  advSvn  : Bool
  /-- Objects removed: seats, windows, rings. -/
  seats   : List Nat
  wins    : List Nat
  rings   : List Nat
  /-- Windows added, with the slot and key set bound to each. -/
  added   : List (Nat × Nat × Nat)
  micro   : Bool
  /-- G, D and E of the windows added, until step 5 writes them (R323). -/
  extra   : Nat × Nat × Nat := (0, 0, 0)
  /-- Answer through MBX0, or over MCTP (R317). -/
  mbx     : Bool
  deriving DecidableEq, Repr

/-- Where an image comes from: flash at boot, with the result of the bank tried before, or the idle bank over MCTP, each
with its bank (R314, R316); the admin seat or the island (R317). -/
inductive ImgFrom where
  | boot (bank : Nat) (first : Option Nat)
  | full (bank : Nat)
  | admin | island
  deriving DecidableEq, Repr

/-- An image that has passed its other checks and waits for a TRNG draw (R176). -/
structure ImgReq where
  image : List Byte
  src   : ImgFrom
  since : Nat
  deriving DecidableEq, Repr

/-- The image and what it has set (R314–R325). -/
structure Img where
  st      : ImgState := .none
  locked  : Bool := false
  bank    : Nat := 0
  result  : Nat := 0
  detail  : Nat := 0
  svn     : Nat := 0
  imgId   : Nat := 0
  digest  : List Byte := []
  /-- Sections of the configuration in force. -/
  secs    : Sections := []
  rw      : Option Reweave := Option.none
  req     : Option ImgReq := Option.none
  /-- Sanitize, or Secure Erase, has completed since the last load (R75, R316). -/
  sanitized : Bool := false
  erased  : Bool := false
  deriving DecidableEq, Repr

/-! ## Ply -/

/-- PLYn.STS.STATE (R352). -/
inductive PlySt where
  | down | training | pairing | up | authFail
  deriving DecidableEq, Repr

/-- A ply port (R326–R336). -/
structure Ply where
  st      : PlySt := .down
  init    : Bool := false
  tailErr : Bool := false
  rxWidth : Nat := 0
  txWidth : Nat := 0
  maxWidth : Nat := 0
  /-- Next SEQ to send, last SEQ accepted, packets accepted since the last ACK sent and when the first was. -/
  seq     : BitVec 16 := 0
  acc     : BitVec 16 := 0xFFFF
  unacked : Nat := 0
  unackAt : Option Nat := none
  /-- TXC of the next packet sent; TXC last accepted. -/
  txc     : Nat := 0
  rxTxc   : Option Nat := none
  /-- Held for replay: SEQ and body, oldest first (R330); when the replay timer started. -/
  replay  : List (Nat × PlyBody) := []
  timer   : Option Nat := none
  sentAt  : Nat := 0
  rcvdAt  : Nat := 0
  credReq : Nat := 0
  credRsp : Nat := 0
  /-- Queued for want of credit or replay space, oldest first. -/
  queue   : List PlyBody := []
  /-- Credits to return in the next packet (R332). -/
  retReq  : Nat := 0
  retRsp  : Nat := 0
  /-- Pairing step 2–6 and its start (R336); the fragments received of the message awaited. -/
  step    : Nat := 0
  stepAt  : Nat := 0
  frags   : List (List Byte) := []
  /-- Lane change in progress: effective SEQ and width (R334). -/
  lane    : Option (Nat × Nat) := none
  /-- The partner's lane change: effective SEQ and width (R334). -/
  rxLane  : Option (Nat × Nat) := none
  /-- A CREC was carried by the port since it came UP (R346). -/
  crec    : Bool := false
  /-- Number of the session key agreed at pairing; 0 none (R180, R336). -/
  key     : Nat := 0
  deriving DecidableEq, Repr

/-- A forwarded write without its MACK (R340, R341). -/
structure Fwd where
  port : Nat
  seq  : Nat
  win  : Nat
  hank : Nat
  at_  : Nat
  /-- The entry that its MACK lets complete: a STRICT write's. -/
  entry : Option Nat
  /-- An RSYNC, watched in the same way (R349). -/
  rs   : Bool := false
  deriving DecidableEq, Repr

/-- A peer operation waiting for its response (R335). -/
inductive PeerOp where
  | keyset (win seq : Nat)
  | metaRec (win dla kind seq : Nat) (desc : Option Nat)
  | ledger (tag win : Nat) (exts : List Extent) (seat : Nat) (src : FmSource)
  | rekey (tag win : Nat)
  | pread (tag : Nat)
  | mbox (box seq : Nat)
  deriving DecidableEq, Repr

/-- A received MWR, RSYNC or META that is applied in its turn (R340, R343): its port, SEQ and credits, how many of its
lines have been applied and the status they have given. -/
structure Inb where
  port   : Nat
  seq    : Nat
  body   : PlyBody
  cost   : Nat
  done   : Nat := 0
  status : Nat := 0
  /-- Lines whose lookup has been counted (R146). -/
  looked : Nat := 0
  /-- The session it came in still lasts: it is answered. -/
  live   : Bool := true
  deriving DecidableEq, Repr

/-- Pair-wide mirror state (R337–R350). -/
structure Pair where
  inq     : List Inb := []
  fwds    : List Fwd := []
  ops     : List (Nat × PeerOp) := []
  nextTag : Nat := 1
  /-- Open creel batch, its start, and the last BATCH_ACK. -/
  batch   : Nat := 0
  batchAt : Nat := 0
  batchAck : Option Nat := none
  /-- A record was sent in the open batch. -/
  batchUsed : Bool := false
  /-- Records of the open batch held by a secondary (R344). -/
  staging : List CrecRec := []
  /-- Partner's last MTAB, and that one has come since the pair link came up (R338). -/
  peerTab : List MtabEntry := []
  peerTabIn : Bool := false
  /-- A rebuild runs; it was uncertain; windows promoted (R346, R355). -/
  rebuild : Bool := false
  uncertain : Bool := false
  promoted : List Nat := []
  nPromoted : Nat := 0
  deriving DecidableEq, Repr

/-! ## Power, clocks, supervisor -/

/-- DOMn_STS.STATE (R378). -/
inductive DomSt where
  | run | idle | nap | doze | off | sleeping | waking
  deriving DecidableEq, Repr

/-- A power domain (R357–R360, R378). -/
structure Dom where
  st      : DomSt := .run
  deepest : Nat := 0
  group   : Nat := 15
  idleAt  : Option Nat := none
  deriving DecidableEq, Repr

/-- A group transition in progress (R362–R368). -/
structure Trans where
  wake    : Bool
  members : List Nat
  group   : Nat
  /-- State asked for: true DOZE, false NAP. -/
  doze    : Bool
  /-- Sleep: 2 answering, 3 draining, 4 stopping. Wake: steps 1–4. -/
  step    : Nat
  at_     : Nat
  accepted : List Nat := []
  fenced  : List Nat := []
  /-- Sleep: members that have stopped. Wake: members that were in DOZE. -/
  stopped : List Nat := []
  ready   : List Nat := []
  /-- Abandoned after COMMIT: refusing domain and reason; fenced members stop and then wake (R364). In a wake: what
  PWR.GRP_LAST already records stays. -/
  late    : Option (Nat × Nat) := none
  /-- Second attempt of a wake (R368). -/
  again   : Bool := false
  deriving DecidableEq, Repr

/-- Power supervisor (R361–R381). -/
structure Power where
  trans   : Option Trans := none
  /-- Requests that wait for the running transition: domain and true for a wake (R361). -/
  waiting : List (Nat × Bool) := []
  /-- Domains whose group may not be asked again before this instant, unless REQ is written (R364). -/
  holdoff : Tab Nat := []
  lastResult : Nat := 0
  lastDomain : Nat := 0
  lastReason : Nat := 0
  lastGroup  : Nat := 0
  /-- Operating point, target, transition: step and start (R370); target stored while BUSY. -/
  op      : Nat := 0
  target  : Nat := 0
  dvfs    : Option Nat := none
  dvfsAt  : Nat := 0
  pllOk   : Bool := false
  voltOk  : Bool := false
  stored  : Option Nat := none
  result  : Nat := 0
  /-- Core PLL in use: false A, true B. -/
  pllB    : Bool := false
  /-- Register accesses that wait for a domain to wake (R462): the domain and the command. -/
  held    : List (Nat × Instr) := []
  /-- Always-on LDO (R372). -/
  ldoNormal : Bool := false
  ldoReady  : Bool := false
  deriving DecidableEq, Repr

/-- HSW.STS.STATE (R397). -/
inductive HswSt where
  | off | ramp | on | trip | latched
  deriving DecidableEq, Repr

/-- The hot-swap supervisor (R384–R398). -/
structure Hsw where
  st     : HswSt := .off
  pg     : Bool := false
  cause  : Nat := 0
  tries  : Nat := 0
  /-- Modelled FET temperature in units of 10^-12 °C (R387). -/
  t      : Int := 50000000000000
  vin    : Nat := 0
  vout   : Nat := 0
  vsn    : Nat := 0
  /-- Fault timer in µs; 0 when not running. -/
  timer  : Nat := 0
  timing : Bool := false
  /-- µs for which the conditions of R385 have held. -/
  good   : Nat := 0
  vinOkAt : Option Nat := none
  pgAt   : Nat := 0
  tripAt : Nat := 0
  /-- HS_GATE driven up; HS_FLT_N low. -/
  gate   : Bool := false
  flt    : Bool := false
  deriving DecidableEq, Repr

/-! ## Management, security, counters -/

/-- A message box (R417, R418). -/
structure Mbx where
  en     : Bool := false
  mode   : Bool := false
  seat   : Nat := 0
  ovf    : Bool := false
  unf    : Bool := false
  lnkDn  : Bool := false
  tc     : List Word := []
  fc     : List Word := []
  /-- Doorbell bits rung by the far end and by the controller. -/
  dbTc   : Word := 0
  dbFc   : Word := 0
  /-- The controller's own view (R418): a PUSH of its own found FC full, a POP of its own found TC empty. -/
  ovfC   : Bool := false
  unfC   : Bool := false
  /-- Line addresses in force, and those written for the next assignment (R419, R467). -/
  inHpa  : Nat := 0
  outHpa : Nat := 0
  inNext : Nat := 0
  outNext : Nat := 0
  /-- Last SEQ taken from the IN line, last SEQ written to the OUT line, and whether the ACK it carries is due (R419). -/
  lastIn : Nat := 0
  outSeq : Nat := 0
  ackDue : Bool := false
  deriving DecidableEq, Repr

/-- A flash bank (R402, R424, R429): firmware container and warp image. -/
structure Bank where
  fw      : List Byte := []
  img     : List Byte := []
  pending : Bool := false
  armed   : Bool := false
  tried   : Bool := false
  deriving DecidableEq, Repr

/-- A transfer into the idle bank (R424). -/
structure Xfer where
  by_    : Option Cci
  isImg  : Bool
  data   : List Byte
  pages  : Nat
  deriving DecidableEq, Repr

/-- Life-cycle states, coded as R435. -/
inductive Lc where
  | blank | prov | field | rma | scrap
  deriving DecidableEq, Repr

/-- A transition or unlock in progress (R438): 1 draining, 3 overwriting, 4 sealing, 5 burning, 7 waiting for the reset. -/
structure LcRun where
  target : Lc
  overwrite : Bool
  debug  : Bool
  step   : Nat
  by_    : Cci
  owner  : List Byte
  at_    : Nat := 0
  deriving DecidableEq, Repr

/-- A seal block (R438). -/
structure Seal where
  old    : Lc
  new    : Lc
  boot   : Nat
  us     : Nat
  digest : List Byte
  deriving DecidableEq, Repr

/-- Security block (R426–R442). -/
structure Sec where
  lc       : Lc := .prov
  debug    : Bool := false
  last     : Nat := 0
  run      : Option LcRun := none
  ownerDig : List Byte := []
  vsvn     : Nat := 0
  osvn     : Nat := 0
  fwSvn    : Nat := 0
  nonce    : Option Nat := none
  seals    : List Seal := []
  bank     : Nat := 0
  started  : Bool := false
  confirmed : Bool := false
  resA     : Nat := 6
  resB     : Nat := 6
  dusKilled : Bool := false
  deriving DecidableEq, Repr

/-- A background command that R44 runs one at a time device-wide. -/
inductive Bg where
  | sanitize (by_ : Cci) | erase (by_ : Cci)
  /-- A Sanitize whose windows are offline and whose keys are zeroed: the overwrite runs. -/
  | overwrite (by_ : Cci)
  deriving DecidableEq, Repr

/-- Management island (R400–R425). -/
structure Mgmt where
  /-- Watchdog count start (R401). -/
  wdtAt   : Nat := 0
  temps   : List Int := []
  rails   : List Nat := []
  scanOk  : Bool := false
  scanAt  : Nat := 0
  /-- Sensors above WARN, above CRIT, consecutive scans at 115 °C, rails outside limits on consecutive scans and reported (R405). -/
  warned  : List Nat := []
  crit    : List Nat := []
  hot115  : List Nat := []
  railBad : List Nat := []
  railErr : List Nat := []
  calBusy : Bool := false
  calAt   : Nat := 0
  calSteps : Nat := 0
  calCount : Nat := 0
  calLast : Nat := 0
  /-- Steps whose trims a calibration has accepted since the factory trims (R407). -/
  trims   : List Nat := []
  pollAt  : Nat := 0
  timestamp : Nat := 0
  bg      : Option Bg := none
  xfer    : Option Xfer := none
  active  : Nat := 0
  /-- Management link (R422). -/
  i3c     : Bool := false
  eid     : Option Nat := none
  /-- Last Scan Media results of each function, by key; and the island's. -/
  media   : Tab (List (Nat × Nat)) := []
  deriving DecidableEq, Repr

/-- One programmable counter (R444). -/
structure Ctr where
  count : Nat := 0
  ovf   : Bool := false
  en    : Bool := false
  irq   : Bool := false
  edge  : Bool := false
  event : Nat := 0
  /-- The signal of a level event was 1 in the cycle before (R445). -/
  last  : Bool := false
  deriving DecidableEq, Repr

/-- PMU (R443–R457). -/
structure Pmu where
  /-- Programmable counters at ((kind * 64 + instance) * 16 + counter). -/
  ctrs    : Tab Ctr := []
  irqOvf  : Bool := false
  irqSamp : Bool := false
  en      : Bool := false
  stop    : Nat := 0
  busy    : Bool := false
  /-- The dump being written: the counters as latched (R450 step 1). -/
  latched : List Byte := []
  seq     : Nat := 0
  skipped : Nat := 0
  dueAt   : Nat := 0
  /-- Clock cycles of each power domain's block clock in thousandths (R443): the cycle counters of its blocks. -/
  cyc     : List Nat := []
  deriving DecidableEq, Repr

/-- The whole device. -/
structure State where
  /-- Powered time in nanoseconds; POWERED_US is this divided by 1,000 (R8). -/
  now     : Nat
  /-- Commands waiting, first in, first out. -/
  pending : List Instr
  /-- Number of the next free value (the model's own; log entry 4). -/
  free    : Nat
  /-- Order stamp (the model's own). -/
  stamp   : Nat
  out     : List Out
  boot    : Boot
  /-- RW and RWL configuration registers by BAR2 offset; unlisted ones hold their reset value. -/
  regs    : Tab Word
  /-- Statistics counters by BAR2 offset: COUNT, whose SAT flag is the full count (R53). -/
  cnts    : Tab Nat
  /-- Copies taken by the read of a LO register or of a first data register, plus 1, by offset and copy (R444, R463, R464). -/
  latches : Tab Nat
  /-- First-in-1-ms marks: rule number, subject, interval (R484). -/
  marks   : List (Nat × Nat × Nat)
  log     : Log
  ports   : Tab Port
  links   : Tab Link
  fns     : Tab FnState
  seats   : Tab Seat
  groups  : Tab (List Nat)
  wins    : Tab Win
  blocks  : Tab Block
  nextExt : Nat
  ledger  : Ledger
  ingress : Tab (List Msg)
  trk     : Tab (Option Trk)
  use     : Tab Use
  creel   : Tab Centry
  acts    : Tab (Option Active)
  xing    : Tab (Option Xing)
  slices  : Tab Slice
  /-- Pointer of the serial arbiter at ST0 (R114), and requests that wait there. -/
  serialRr : Nat
  /-- The arbiter at ST0 admits requests: false while what was active before it is drained, or after it is (R114). -/
  serialIn : Bool
  hanks   : Tab (Option Hank)
  pages   : Tab Page
  /-- Entries present in the skein cache: hank keys doubled, page keys doubled plus one (R129). -/
  skein   : Tab Bool
  /-- Access counters of the skein slices (R133). -/
  acc     : Tab Nat
  /-- Ranges lost to an uncorrectable skein entry: hank keys doubled, page keys doubled plus one (R130). -/
  lost    : List Nat
  /-- Line cache, by DLA line index (R14, R116). -/
  lcache  : Tab Lcl
  carder  : Carder
  used    : Tab (Option HankUse)
  dram    : Tab (Option Stored)
  slots   : Tab Slot
  keys    : Keys
  spn     : Tab Spindle
  units   : List Unit_
  rings   : Tab Ring
  descs   : Tab (Option Desc)
  chans   : Tab Chan
  rate    : Rate
  passes  : List Pass
  plist   : Plist
  qos     : Qos
  stations : Tab Station
  fabric  : Fabric
  img     : Img
  ply     : Tab Ply
  pair    : Pair
  doms    : Tab Dom
  power   : Power
  hsw     : Hsw
  mbx     : Tab Mbx
  banks   : Tab Bank
  sec     : Sec
  mgmt    : Mgmt
  pmu     : Pmu
  deriving DecidableEq, Repr

/-- The device right after VAUX is applied and the AON power-on reset is released (R391 step 1): every field at its
reset value. What the manual gives no reset value for (part option, stepping, BOOT_COUNT, straps, flash, fuses) is
named in log entries 1 and 2. -/
def State.reset : State where
  now := 0
  pending := []
  free := 0
  stamp := 0
  out := []
  boot := {}
  regs := []
  cnts := []
  latches := []
  marks := []
  log := {}
  ports := []
  links := []
  fns := []
  seats := []
  groups := []
  wins := []
  blocks := []
  nextExt := 0
  ledger := {}
  ingress := []
  trk := []
  use := []
  creel := []
  acts := []
  xing := []
  slices := []
  serialRr := 0
  serialIn := true
  hanks := []
  pages := []
  skein := []
  acc := []
  lost := []
  lcache := []
  carder := {}
  used := []
  dram := []
  slots := []
  keys := {}
  spn := []
  units := []
  rings := []
  descs := []
  chans := []
  rate := {}
  passes := []
  plist := {}
  qos := {}
  stations := []
  fabric := {}
  img := {}
  ply := []
  pair := {}
  doms := []
  power := {}
  hsw := {}
  mbx := []
  banks := []
  sec := {}
  mgmt := {}
  pmu := {}

end Sys2Proof.Machine
end

