-- ==== Sys2Proof/Machine/Tab.lean ====
section
/-! DEFINITION. Sparse tables: a list of (key, value) pairs with keys strictly rising and no value equal to the table's
default, so that equal tables are equal data. -/

namespace Sys2Proof.Machine

variable {α : Type}

/-- What the table holds at `n`; `d` where nothing is listed. -/
def tabGet (d : α) : Tab α → Nat → α
  | [], _ => d
  | (k, v) :: t, n => if k = n then v else tabGet d t n

/-- The table without key `n`. -/
def tabErase : Tab α → Nat → Tab α
  | [], _ => []
  | (k, v) :: t, n => if k = n then tabErase t n else (k, v) :: tabErase t n

/-- Lists `v` at `n`, before the first greater key. -/
def tabInsert : Tab α → Nat → α → Tab α
  | [], n, v => [(n, v)]
  | (k, w) :: t, n, v => if n < k then (n, v) :: (k, w) :: t else (k, w) :: tabInsert t n v

/-- The table with `v` at `n`; a value equal to the default is not listed. -/
def tabSet [DecidableEq α] (d : α) (t : Tab α) (n : Nat) (v : α) : Tab α :=
  if v = d then tabErase t n else tabInsert (tabErase t n) n v

/-- The table with the value at `n` changed by `f`. -/
def tabMod [DecidableEq α] (d : α) (t : Tab α) (n : Nat) (f : α → α) : Tab α :=
  tabSet d t n (f (tabGet d t n))

/-- Every key of `t` is greater than `n`. -/
def tabAbove (n : Nat) : Tab α → Bool
  | [] => true
  | (k, _) :: t => decide (n < k) && tabAbove n t

/-- Canonical form: keys strictly rising and no value equal to the default. -/
def tabWf [DecidableEq α] (d : α) : Tab α → Bool
  | [] => true
  | (k, v) :: t => tabAbove k t && decide (v ≠ d) && tabWf d t

/-- The entries that satisfy `p`, with their keys. -/
def tabFilter (p : Nat → α → Bool) (t : Tab α) : Tab α := t.filter fun e => p e.1 e.2

/-- Changes every listed value; entries that become the default are dropped. -/
def tabMap [DecidableEq α] (d : α) (f : Nat → α → α) (t : Tab α) : Tab α :=
  (t.map fun e => (e.1, f e.1 e.2)).filter fun e => decide (e.2 ≠ d)

/-- Inserts a key by its order number into a list sorted by order. -/
def insertByOrd (o k : Nat) : List (Nat × Nat) → List (Nat × Nat)
  | [] => [(o, k)]
  | (p, j) :: t => if o < p then (o, k) :: (p, j) :: t else (p, j) :: insertByOrd o k t

/-- Keys sorted by an order number, smallest first. -/
def keysByOrd (ord : Nat → α → Nat) (t : Tab α) : List Nat :=
  (t.foldl (fun acc e => insertByOrd (ord e.1 e.2) e.1 acc) []).map (·.2)

/-- The smallest number not below `n` that a strictly rising list does not hold. -/
def firstGap : Nat → List Nat → Nat
  | n, [] => n
  | n, k :: t => if k < n then firstGap n t else if k = n then firstGap (n + 1) t else n

/-- Sorts numbers, smallest first, without repeats. -/
def insertNat (n : Nat) : List Nat → List Nat
  | [] => [n]
  | k :: t => if n < k then n :: k :: t else if n = k then k :: t else k :: insertNat n t

def sortNat (l : List Nat) : List Nat := l.foldr insertNat []

/-- `l` with element `i` replaced. -/
def listSet (l : List α) (i : Nat) (v : α) : List α := l.set i v

end Sys2Proof.Machine
end

