-- ==== Sys2Proof/Machine/Ops.lean ====
section
/-! DEFINITION. The named operations over `State`: tables, time, registers and counters, free values, what is sent
out, and the event log. Every meaning is written over these. -/

namespace Sys2Proof.Machine

open Sys2Proof

/-! ## Table entries -/

/-- Entry `k` of `State.ports`. -/
def portAt (s : State) (k : Nat) : Port := tabGet {} s.ports k

/-- Changes entry `k` of `State.ports`. -/
def modPort (s : State) (k : Nat) (f : Port → Port) : State :=
  { s with ports := tabMod {} s.ports k f }

/-- Entry `k` of `State.links`. -/
def linkAt (s : State) (k : Nat) : Link := tabGet {} s.links k

/-- Changes entry `k` of `State.links`. -/
def modLink (s : State) (k : Nat) (f : Link → Link) : State :=
  { s with links := tabMod {} s.links k f }

/-- Entry `k` of `State.fns`. -/
def fnAt (s : State) (k : Nat) : FnState := tabGet {} s.fns k

/-- Changes entry `k` of `State.fns`. -/
def modFn (s : State) (k : Nat) (f : FnState → FnState) : State :=
  { s with fns := tabMod {} s.fns k f }

/-- Entry `k` of `State.seats`. -/
def seatAt (s : State) (k : Nat) : Seat := tabGet {} s.seats k

/-- Changes entry `k` of `State.seats`. -/
def modSeat (s : State) (k : Nat) (f : Seat → Seat) : State :=
  { s with seats := tabMod {} s.seats k f }

/-- Entry `k` of `State.groups`. -/
def groupAt (s : State) (k : Nat) : List Nat := tabGet [] s.groups k

/-- Changes entry `k` of `State.groups`. -/
def modGroup (s : State) (k : Nat) (f : List Nat → List Nat) : State :=
  { s with groups := tabMod [] s.groups k f }

/-- Entry `k` of `State.wins`. -/
def winAt (s : State) (k : Nat) : Win := tabGet {} s.wins k

/-- Changes entry `k` of `State.wins`. -/
def modWin (s : State) (k : Nat) (f : Win → Win) : State :=
  { s with wins := tabMod {} s.wins k f }

/-- Entry `k` of `State.blocks`. -/
def blockAt (s : State) (k : Nat) : Block := tabGet {} s.blocks k

/-- Changes entry `k` of `State.blocks`. -/
def modBlock (s : State) (k : Nat) (f : Block → Block) : State :=
  { s with blocks := tabMod {} s.blocks k f }

/-- Entry `k` of `State.ingress`. -/
def ingressAt (s : State) (k : Nat) : List Msg := tabGet [] s.ingress k

/-- Changes entry `k` of `State.ingress`. -/
def modIngress (s : State) (k : Nat) (f : List Msg → List Msg) : State :=
  { s with ingress := tabMod [] s.ingress k f }

/-- Entry `k` of `State.trk`. -/
def trkAt (s : State) (k : Nat) : Option Trk := tabGet none s.trk k

/-- Changes entry `k` of `State.trk`. -/
def modTrk (s : State) (k : Nat) (f : Option Trk → Option Trk) : State :=
  { s with trk := tabMod none s.trk k f }

/-- Entry `k` of `State.use`. -/
def useAt (s : State) (k : Nat) : Use := tabGet {} s.use k

/-- Changes entry `k` of `State.use`. -/
def modUse (s : State) (k : Nat) (f : Use → Use) : State :=
  { s with use := tabMod {} s.use k f }

/-- Entry `k` of `State.creel`. -/
def creelAt (s : State) (k : Nat) : Centry := tabGet {} s.creel k

/-- Changes entry `k` of `State.creel`. -/
def modCreel (s : State) (k : Nat) (f : Centry → Centry) : State :=
  { s with creel := tabMod {} s.creel k f }

/-- Entry `k` of `State.acts`. -/
def actAt (s : State) (k : Nat) : Option Active := tabGet none s.acts k

/-- Changes entry `k` of `State.acts`. -/
def modAct (s : State) (k : Nat) (f : Option Active → Option Active) : State :=
  { s with acts := tabMod none s.acts k f }

/-- Entry `k` of `State.xing`. -/
def xingAt (s : State) (k : Nat) : Option Xing := tabGet none s.xing k

/-- Changes entry `k` of `State.xing`. -/
def modXing (s : State) (k : Nat) (f : Option Xing → Option Xing) : State :=
  { s with xing := tabMod none s.xing k f }

/-- Entry `k` of `State.slices`. -/
def sliceAt (s : State) (k : Nat) : Slice := tabGet {} s.slices k

/-- Changes entry `k` of `State.slices`. -/
def modSlice (s : State) (k : Nat) (f : Slice → Slice) : State :=
  { s with slices := tabMod {} s.slices k f }

/-- Entry `k` of `State.hanks`. -/
def hankRaw (s : State) (k : Nat) : Option Hank := tabGet none s.hanks k

/-- Changes entry `k` of `State.hanks`. -/
def modHankRaw (s : State) (k : Nat) (f : Option Hank → Option Hank) : State :=
  { s with hanks := tabMod none s.hanks k f }

/-- Entry `k` of `State.pages`. -/
def pageAt (s : State) (k : Nat) : Page := tabGet {} s.pages k

/-- Changes entry `k` of `State.pages`. -/
def modPage (s : State) (k : Nat) (f : Page → Page) : State :=
  { s with pages := tabMod {} s.pages k f }

/-- Entry `k` of `State.skein`. -/
def cached (s : State) (k : Nat) : Bool := tabGet false s.skein k

/-- Changes entry `k` of `State.skein`. -/
def modCached (s : State) (k : Nat) (f : Bool → Bool) : State :=
  { s with skein := tabMod false s.skein k f }

/-- Entry `k` of `State.acc`. -/
def accAt (s : State) (k : Nat) : Nat := tabGet 0 s.acc k

/-- Changes entry `k` of `State.acc`. -/
def modAcc (s : State) (k : Nat) (f : Nat → Nat) : State :=
  { s with acc := tabMod 0 s.acc k f }

/-- Entry `k` of `State.lcache`. -/
def lcl (s : State) (k : Nat) : Lcl := tabGet {} s.lcache k

/-- Bytes of line `k` in the line cache; none where it is not there. -/
def lcacheAt (s : State) (k : Nat) : List Byte := (lcl s k).data

/-- Changes entry `k` of `State.lcache`. -/
def modLcache (s : State) (k : Nat) (f : Lcl → Lcl) : State :=
  { s with lcache := tabMod {} s.lcache k f }

/-- Entry `k` of `State.used`. -/
def usedAt (s : State) (k : Nat) : Option HankUse := tabGet none s.used k

/-- Changes entry `k` of `State.used`. -/
def modUsed (s : State) (k : Nat) (f : Option HankUse → Option HankUse) : State :=
  { s with used := tabMod none s.used k f }

/-- Entry `k` of `State.dram`. -/
def dramAt (s : State) (k : Nat) : Option Stored := tabGet none s.dram k

/-- Changes entry `k` of `State.dram`. -/
def modDram (s : State) (k : Nat) (f : Option Stored → Option Stored) : State :=
  { s with dram := tabMod none s.dram k f }

/-- Entry `k` of `State.slots`. -/
def slotAt (s : State) (k : Nat) : Slot := tabGet {} s.slots k

/-- Changes entry `k` of `State.slots`. -/
def modSlot (s : State) (k : Nat) (f : Slot → Slot) : State :=
  { s with slots := tabMod {} s.slots k f }

/-- Entry `k` of `State.spn`. -/
def spnAt (s : State) (k : Nat) : Spindle := tabGet {} s.spn k

/-- Changes entry `k` of `State.spn`. -/
def modSpn (s : State) (k : Nat) (f : Spindle → Spindle) : State :=
  { s with spn := tabMod {} s.spn k f }

/-- Entry `k` of `State.rings`. -/
def ringAt (s : State) (k : Nat) : Ring := tabGet {} s.rings k

/-- Changes entry `k` of `State.rings`. -/
def modRing (s : State) (k : Nat) (f : Ring → Ring) : State :=
  { s with rings := tabMod {} s.rings k f }

/-- Entry `k` of `State.descs`. -/
def descAt (s : State) (k : Nat) : Option Desc := tabGet none s.descs k

/-- Changes entry `k` of `State.descs`. -/
def modDesc (s : State) (k : Nat) (f : Option Desc → Option Desc) : State :=
  { s with descs := tabMod none s.descs k f }

/-- Entry `k` of `State.chans`. -/
def chAt (s : State) (k : Nat) : Chan := tabGet {} s.chans k

/-- Changes entry `k` of `State.chans`. -/
def modCh (s : State) (k : Nat) (f : Chan → Chan) : State :=
  { s with chans := tabMod {} s.chans k f }

/-- Entry `k` of `State.stations`. -/
def stAt (s : State) (k : Nat) : Station := tabGet {} s.stations k

/-- Changes entry `k` of `State.stations`. -/
def modSt (s : State) (k : Nat) (f : Station → Station) : State :=
  { s with stations := tabMod {} s.stations k f }

/-- Entry `k` of `State.ply`. -/
def plyAt (s : State) (k : Nat) : Ply := tabGet {} s.ply k

/-- Changes entry `k` of `State.ply`. -/
def modPly (s : State) (k : Nat) (f : Ply → Ply) : State :=
  { s with ply := tabMod {} s.ply k f }

/-- Entry `k` of `State.doms`. -/
def domAt (s : State) (k : Nat) : Dom := tabGet {} s.doms k

/-- Changes entry `k` of `State.doms`. -/
def modDom (s : State) (k : Nat) (f : Dom → Dom) : State :=
  { s with doms := tabMod {} s.doms k f }

/-- Entry `k` of `State.mbx`. -/
def mbxAt (s : State) (k : Nat) : Mbx := tabGet {} s.mbx k

/-- Changes entry `k` of `State.mbx`. -/
def modMbx (s : State) (k : Nat) (f : Mbx → Mbx) : State :=
  { s with mbx := tabMod {} s.mbx k f }

/-- Entry `k` of `State.banks`. -/
def bankAt (s : State) (k : Nat) : Bank := tabGet {} s.banks k

/-- Changes entry `k` of `State.banks`. -/
def modBank (s : State) (k : Nat) (f : Bank → Bank) : State :=
  { s with banks := tabMod {} s.banks k f }

/-! ## Time (R8, R484) -/

/-- POWERED_US (R8). -/
def us (s : State) : Nat := s.now / 1000

/-- Takes the next order stamp. -/
def stampNext (s : State) : State := { s with stamp := s.stamp + 1 }

/-- Whether this is the first occurrence for rule `r` and subject `x` in the current aligned 1 ms interval (R484). -/
def firstInMs (s : State) (r x : Nat) : Bool :=
  !(s.marks.any fun m => m.1 == r && m.2.1 == x && m.2.2 == us s / 1000)

/-- Records that occurrence. -/
def markMs (s : State) (r x : Nat) : State :=
  { s with marks := (r, x, us s / 1000) :: s.marks.filter fun m => !(m.1 == r && m.2.1 == x) }

/-! ## Free values (log entry 4) -/

/-- Moves on to the next free value. -/
def nextFree (s : State) : State := { s with free := s.free + 1 }

/-- The number of a free value among `n` possible ones. -/
def freeBelow (s : State) (n : Nat) : Nat := Config.freeNat s.free % n

/-! ## Bits and bytes (R4) -/

/-- Bits `hi:lo` of a number. -/
def fld (w hi lo : Nat) : Nat := w / 2 ^ lo % 2 ^ (hi + 1 - lo)

/-- Bit `i` of a number. -/
def bitOf (w i : Nat) : Bool := w / 2 ^ i % 2 == 1

/-- `n` little-endian bytes of a number. -/
def le : Nat → Nat → List Byte
  | 0, _ => []
  | n + 1, x => BitVec.ofNat 8 x :: le n (x / 256)

/-- The number that little-endian bytes spell. -/
def leNat : List Byte → Nat
  | [] => 0
  | b :: t => b.toNat + 256 * leNat t

/-- A Bool as a number. -/
def b2n (b : Bool) : Nat := if b then 1 else 0

/-- A number as a register word. -/
def word (n : Nat) : Word := BitVec.ofNat 32 n

/-- `n` bytes at `off` of a byte list, zero past its end. -/
def bytesAt (l : List Byte) (off n : Nat) : List Byte :=
  let t := (l.drop off).take n
  t ++ List.replicate (n - t.length) 0

/-- The little-endian number of `n` bytes at `off`. -/
def numAt (l : List Byte) (off n : Nat) : Nat := leNat (bytesAt l off n)

/-- A zero line. -/
def zeroLine : List Byte := List.replicate 64 0

/-- A line from its bytes: exactly 64 of them. -/
def lineOf (l : List Byte) : List Byte := bytesAt l 0 64

/-- Bytes of `new` where the mask has a 1, of `old` elsewhere. -/
def mergeBytes (mask : BitVec 64) (new old : List Byte) : List Byte :=
  (List.range 64).map fun i => if mask.getLsbD i then new.getD i 0 else old.getD i 0

/-- Number of set bits below `n`. -/
def popcount (n w : Nat) : Nat := ((List.range n).filter fun i => bitOf w i).length

/-- Smallest multiple count: `a / b` rounded up. -/
def ceilDiv (a b : Nat) : Nat := (a + b - 1) / b

/-- `n` held between two bounds. -/
def clampN (lo hi n : Nat) : Nat := min hi (max lo n)

/-! ## Registers and counters -/

/-- A plain configuration register, by key (R5, R461). -/
def regAt (s : State) (key : Nat) : Word := tabGet (regReset key) s.regs key

/-- Its value as a number. -/
def regN (s : State) (key : Nat) : Nat := (regAt s key).toNat

/-- Stores a plain configuration register. -/
def setReg (s : State) (key : Nat) (v : Word) : State := { s with regs := tabSet (regReset key) s.regs key v }

/-- COUNT of a statistics counter (R53). -/
def cntAt (s : State) (off : Nat) : Nat := tabGet 0 s.cnts off

/-- The largest count of a 31-bit statistics counter. -/
def cntMax : Nat := 0x7FFFFFFF

/-- Adds to a statistics counter; it stops at all ones (R53). -/
def bumpBy (s : State) (off n : Nat) : State :=
  { s with cnts := tabSet 0 s.cnts off (min cntMax (cntAt s off + n)) }

/-- Adds 1 to a statistics counter. -/
def bump (s : State) (off : Nat) : State := bumpBy s off 1

/-- Writing 1 to SAT clears SAT and COUNT together (R53). -/
def clearCnt (s : State) (off : Nat) : State := { s with cnts := tabSet 0 s.cnts off 0 }

/-- The register image of a statistics counter: SAT in bit 31 exactly when COUNT is all ones (R53). -/
def cntImage (s : State) (off : Nat) : Nat := (if cntAt s off = cntMax then 0x80000000 else 0) + cntAt s off

/-! ## What is sent out -/

/-- The device sends `o`. -/
def emit (s : State) (o : Out) : State := { s with out := s.out ++ [o] }

/-- The device sends each of `os`, in order. -/
def emitAll (s : State) (os : List Out) : State := { s with out := s.out ++ os }

/-! ## Seats and the functions of link owners (R42, R45, R55, R56) -/

/-- Key of a link in `State.links`. -/
def linkKey (port link : Nat) : Nat := port * 4 + link

/-- Key of a function in `State.fns`. -/
def fnKey (f : Fn) : Nat := (linkKey f.port f.link) * 4096 + f.id

/-- The function at a key of `State.fns`. -/
def fnOfKey (k : Nat) : Fn := { port := Fin.ofNat 4 (k / 16384), link := Fin.ofNat 4 (k / 4096), id := k % 4096 }

/-- Key in `State.fns` under which the MCTP endpoint's CCI and SPDM responder keep what a function keeps. -/
def mctpKey : Nat := 0x10000

/-- Keys in `FnState.bar0` of registers of the configuration space. -/
def cfgKey (off : Nat) : Nat := 0x10000 + off

/-- Reset value of a stored register of a function: masks and severities of the RAS capability and of AER as CXL 3.1 and PCIe give
them (PRESUMED, log entry 100). -/
def fnReset (k : Nat) : Word :=
  if k = 0x1204 ∨ k = 0x1208 then 0x1CFFF
  else if k = 0x1210 then 0x7F
  else if k = cfgKey 0x208 then 0x400000
  else if k = cfgKey 0x20C then 0x462030
  else if k = cfgKey 0x214 then 0xE000
  else 0

/-- A stored register of a function, and its write. -/
def fnReg (x : FnState) (k : Nat) : Word := tabGet (fnReset k) x.bar0 k
def putFnReg (x : FnState) (k : Nat) (v : Word) : FnState := { x with bar0 := tabSet (fnReset k) x.bar0 k v }

/-- Word `k` of a function's MSI-X table (R45). The mask bit of each vector is 1 at reset, as PCIe has it (PRESUMED, log
entry 89). -/
def msixWord (x : FnState) (k : Nat) : Word := tabGet (if k % 4 = 3 then 1 else 0) x.msixTab k

/-- The vector is masked in the MSI-X table. -/
def msixMasked (x : FnState) (vec : Nat) : Bool := (msixWord x (4 * vec + 3)).getLsbD 0

/-- Raises an MSI-X vector of a function (R45, R46): nothing where MSI-X is disabled; a masked one is pending. -/
def fnIrq (s : State) (f : Fn) (vec : Nat) : State :=
  let x := fnAt s (fnKey f)
  if x.msixOff then s
  else if msixMasked x vec then modFn s (fnKey f) fun x => { x with pba := x.pba ||| (1#32 <<< vec) }
  else emit s (.fnMsix f vec)

/-- The path `p` names the link, and on an MLD or PBR link the ID (R55). -/
def pathNames (p : Path) (port link id : Nat) : Bool :=
  p.kind != 0 && p.port == port && p.link == link && (p.kind == 1 || p.id == id)

/-- The seat has a path on the link. -/
def seatOnLink (x : Seat) (port link : Nat) : Bool :=
  (x.p0.kind != 0 && x.p0.port == port && x.p0.link == link) ||
  (x.p1.kind != 0 && x.p1.port == port && x.p1.link == link)

/-- The seat whose path a message names (R55). -/
def seatOf (s : State) (port link id : Nat) : Option Nat :=
  (s.seats.find? fun e => pathNames e.2.p0 port link id || pathNames e.2.p1 port link id).map (·.1)

/-- The kind of a link: that of the first path that names it; 0 where none does. -/
def linkKind (s : State) (port link : Nat) : Nat :=
  match s.seats.find? fun e => seatOnLink e.2 port link with
  | some e => if e.2.p0.kind != 0 && e.2.p0.port == port && e.2.p0.link == link then e.2.p0.kind else e.2.p1.kind
  | none => 0

/-- The seat of a link-owner function: on a direct or MLD link the seat of its path; on a PBR link the one host that
enumerates the device, which the model takes to be the lowest-numbered seat of the link (log entry 5). -/
def fnSeat (s : State) (f : Fn) : Option Nat :=
  if linkKind s f.port f.link = 3 then (s.seats.find? fun e => seatOnLink e.2 f.port f.link).map (·.1)
  else seatOf s f.port f.link f.id

/-- The function of a path, where its seat owns it. -/
def pathFn (s : State) (seat : Nat) (p : Path) : Option Fn :=
  if p.kind = 0 then none
  else
    let f : Fn := { port := Fin.ofNat 4 p.port, link := Fin.ofNat 4 p.link, id := if p.kind = 2 then p.id else 0 }
    if fnSeat s f = some seat then some f else none

/-- The functions of a seat that is a link owner: one on each of its paths that it owns, path 0 first. -/
def seatFns (s : State) (seat : Nat) : List Fn :=
  ((pathFn s seat (seatAt s seat).p0).toList ++ (pathFn s seat (seatAt s seat).p1).toList).eraseDups

/-- The seat is a link owner. -/
def isOwner (s : State) (seat : Nat) : Bool := seatFns s seat != []

/-- Raises MSI-X vector `vec` of each of the seat's functions (R45). -/
def msix (s : State) (seat vec : Nat) : State := (seatFns s seat).foldl (fun t f => fnIrq t f vec) s

/-- The admin seat the image names (R42). -/
def adminSeat (s : State) : Option Nat := (s.seats.find? fun e => e.2.admin).map (·.1)

/-- A link is in L0. -/
def linkUpAt (s : State) (port link : Nat) : Bool := (linkAt s (linkKey port link)).up

/-- A path of the seat is in L0 with CXL.mem: on a link without CXL.mem its seats are never attached (R31, R48). -/
def pathUp (s : State) (p : Path) : Bool :=
  p.kind != 0 && (linkAt s (linkKey p.port p.link)).up && (linkAt s (linkKey p.port p.link)).mem

/-- Some path of the seat is in L0. -/
def seatUp (s : State) (seat : Nat) : Bool := pathUp s (seatAt s seat).p0 || pathUp s (seatAt s seat).p1

/-! ## The event log (R411–R416) -/

/-- Severities of R411. -/
def sevInfo : Nat := 0
def sevNote : Nat := 1
def sevWarn : Nat := 2
def sevErr : Nat := 3
def sevFatal : Nat := 4

/-- The record is in the seat's view: it names the seat, a window it owns or one of its rings, or it is ERR or FATAL
(R414). -/
def inView (s : State) (seat : Nat) (e : Event) : Bool :=
  decide (sevErr ≤ e.sev) || e.seats.contains seat ||
  e.wins.any fun w =>
    let x := winAt s w
    x.size != 0 && (if x.group then (groupAt s x.owner).contains seat else x.owner == seat)

/-- The event class of a severity in the CXL event interrupt policy: informational, warning, failure, fatal
(PRESUMED, log entry 6). -/
def policyByte (sev : Nat) : Nat := if sev < 2 then 0 else sev - 1

/-- Interrupts a record raises: MSI-X vector 1 of every link-owner function whose policy asks for it (R42, R45). -/
def eventIrqs (s : State) (e : Event) : State :=
  s.fns.foldl (fun t x =>
    let f := fnOfKey x.1
    let seen := match fnSeat t f with
      | some seat => inView t seat e
      | none => decide (sevErr ≤ e.sev)
    if decide (x.1 < mctpKey) && seen && fld x.2.evtPolicy (policyByte e.sev * 8 + 1) (policyByte e.sev * 8) == 1
    then fnIrq t f 1 else t) s

/-- Adds to one of the two counts of MGMT.LOG_LOST. -/
def lostRingUp (l : Log) : Log := { l with lostRing := min 0xFFFF (l.lostRing + 1) }
def lostFlashUp (l : Log) : Log := { l with lostFlash := min 0x7FFF (l.lostFlash + 1) }

/-- The 32 bytes of a record (R411). -/
def eventBytes (e : Event) : List Byte :=
  le 8 e.us ++ le 4 e.boot ++ le 2 e.source ++ le 2 e.code ++ le 1 e.sev ++ bytesAt e.payload 0 15

/-- Puts a record into the ring; a full ring loses its oldest (R414). -/
def ringPut (l : Log) (e : Event) : Log :=
  let l := { l with ring := l.ring ++ [(l.written, e)], written := l.written + 1 }
  if l.ring.length > 8192 then lostRingUp { l with ring := l.ring.drop 1 } else l

/-- The record of the log itself for a loss (R414): code 0xC002, SOURCE 0xFF01. -/
def lossEvent (s : State) (n : Nat) : Event :=
  { us := us s, boot := s.boot.bootCount, source := 0xFF01, code := 0xC002, sev := sevWarn,
    payload := le 4 n ++ List.replicate 11 0, seats := [], wins := [] }

/-- Writes a built record (R414): the ring; for ERR and FATAL also the queue toward the persistent log, or the loss
count when the queue is full; SMB_ALERT_N falls (R473). -/
def putEvent (s : State) (e : Event) : State :=
  let s := { s with log := ringPut s.log e }
  let s :=
    if sevErr ≤ e.sev then
      let s := { s with log := { s.log with alert := true } }
      if s.log.queue.length < 256 then { s with log := { s.log with queue := s.log.queue ++ [e] } }
      else
        let s := { s with log := lostFlashUp s.log }
        if firstInMs s 414 0 then { markMs s 414 0 with log := ringPut s.log (lossEvent s s.log.lostFlash) } else s
    else s
  eventIrqs s e

/-- BOOT_COUNT advances by one for each restart of POWERED_US since it last did (R9), and PREV_BOOT takes its value before
the last of them (R374); it saturates. -/
def bumpBoot (s : State) : State :=
  if s.boot.bumpDue = 0 then s
  else { s with boot := { s.boot with
    bumpDue := 0, prevBoot := min 0xFFFFFFFF (s.boot.bootCount + (s.boot.bumpDue - 1))
    bootCount := min 0xFFFFFFFF (s.boot.bootCount + s.boot.bumpDue) } }

/-- Writes one event record, naming the seats and windows it concerns. The first record after a reset is preceded by
the record of code 0x8002 that carries CAUSE and BO_SRC (R374, R413); BOOT_COUNT has advanced by then (R9). -/
def logEvFor (s : State) (source code sev : Nat) (payload : List Byte) (seats wins : List Nat) : State :=
  let s := bumpBoot s
  let mk := fun src c v p ss ws =>
    ({ us := us s, boot := s.boot.bootCount, source := src, code := c, sev := v,
       payload := bytesAt p 0 15, seats := ss, wins := ws } : Event)
  let s :=
    if s.boot.firstDue then
      putEvent { s with boot := { s.boot with firstDue := false } }
        (mk 0 0x8002 sevInfo (le 1 s.boot.cause ++ le 1 s.boot.boSrc) [] [])
    else s
  putEvent s (mk source code sev payload seats wins)

/-- Writes one event record that names no seat or window. -/
def logEv (s : State) (source code sev : Nat) (payload : List Byte) : State :=
  logEvFor s source code sev payload [] []

/-- A payload byte for a kind, cause or state that R413 names without a number (log entry 16): `r` is the rule, `k` the
case within it. -/
def kindByte (r k : Nat) : List Byte := [Config.payloadCode (r * 256 + k)]

/-- SOURCE of a block: its base shifted right by 16 (R412). -/
def srcOf (base : Nat) : Nat := base / 0x10000

/-- Writes an event whose code R413 does not assign: the code is a free number, by the rule that asks for the event (log
entry 16). -/
def logUncoded (s : State) (source rule sev : Nat) (payload : List Byte) (seats wins : List Nat) : State :=
  logEvFor s source (Config.eventCode rule % 0x10000) sev payload seats wins

/-- A record goes into the persistent log; a full log first loses its oldest sector of 128 (R414). -/
def flashPut (l : Log) (e : Event) : Log :=
  let old := if l.flash.length < 131072 then l.flash else l.flash.drop 128
  { l with flash := old ++ [e], sinceSeal := l.sinceSeal ++ [e] }

/-! ## The management controller (R44, R392, R395, R437) -/

/-- A Sanitize, Secure Erase or Transfer FW is running (R44). -/
def bgRuns (s : State) : Bool := s.mgmt.bg.isSome || s.mgmt.xfer.isSome

/-- A life-cycle transition or debug unlock is running: until its command completes (R437, R438). -/
def lcRuns (s : State) : Bool := s.sec.run.any fun r => decide (r.step < 7)

/-- The firmware is running: mailbox commands and MCTP are answered (R392 step 5, R395). -/
def mcUp (s : State) : Bool := s.sec.started && s.boot.warmSince.isNone

/-- The record of a firmware transfer or activation (R413, R424): bank and result. -/
def fwEvent (s : State) (bank result : Nat) : State :=
  logEv s (srcOf mgmtBase) 0xC003 (if result = 0 then sevInfo else sevWarn) (le 1 bank ++ le 1 result)

/-- Key in `State.fns` of the sender of a mailbox or CCI command. -/
def cciKey : Cci → Nat
  | .mailbox f => fnKey f
  | .mctp => mctpKey

/-- Answers a mailbox or CCI command; a mailbox raises vector 0 (R45). -/
def cciAnswer (s : State) (c : Cci) (op : Nat) (r : Ret) (body : Contents) : State :=
  let s := emit s (.answer (some c) op r body)
  match c with
  | .mailbox f => fnIrq s f 0
  | .mctp => s

/-- A background command starts in its mailbox (R44). -/
def bgStart (s : State) (c : Cci) (op : Nat) : State :=
  cciAnswer (modFn s (cciKey c) fun x => { x with bg := op, bgDone := false }) c op .background []

/-- A background command ends (R44, R45). A function-level reset has made its mailbox forget it (R46). -/
def bgFinish (s : State) (c : Cci) (op : Nat) (r : Ret) : State :=
  if (fnAt s (cciKey c)).bg = op then
    cciAnswer (modFn s (cciKey c) fun x => { x with bg := 0, bgDone := true }) c op r []
  else s

/-! ## Message boxes (R417, R418) -/

/-- Words pushed to a box toward the controller: those that find TC full are discarded (R418). -/
def boxPush (s : State) (n : Nat) (ws : List Word) : State :=
  modMbx s n fun x =>
    let room := 16 - x.tc.length
    { x with tc := x.tc ++ ws.take room, ovf := x.ovf || decide (room < ws.length) }

/-- The microcode of spindle `n` reports to the island through its box (R421); what it writes is its own, so the word is
free. -/
def tellIsland (s : State) (n : Nat) : State := boxPush (nextFree s) (16 + n) [word (Config.freeNat s.free)]

/-! ## Programmable counters (R443–R448) -/

/-- Key of programmable counter `c` of instance `i` of a KIND. -/
def ctrKey (kind i c : Nat) : Nat := (kind * 64 + i) * 16 + c

def ctrAt (s : State) (k : Nat) : Ctr := tabGet {} s.pmu.ctrs k

def modCtr (s : State) (k : Nat) (f : Ctr → Ctr) : State :=
  { s with pmu := { s.pmu with ctrs := tabMod {} s.pmu.ctrs k f } }

/-- Programmable counters of a block of a KIND (R443). -/
def ctrsOf (kind : Nat) : Nat := if kind < 4 then 8 else 4

/-- Instances of a KIND (R443). -/
def instsOf (kind : Nat) : Nat := if kind = 0 then 4 else if kind < 4 then 16 else 48

/-- A wrap with IRQ set interrupts: PMU.IRQ.OVF, the controller, and MSI-X on CTL.VEC of the admin seat (R448). -/
def pmuIrq (s : State) (sample : Bool) : State :=
  let s := { s with pmu := if sample then { s.pmu with irqSamp := true } else { s.pmu with irqOvf := true } }
  let s := emit s (.mcIrq (if sample then 0x4481 else 0x4480))
  let vec := fld (regN s pmuBase) 5 1
  match adminSeat s with
  | some a => if vec = 0 then s else msix s a vec
  | none => s

/-- One count of a programmable counter; it wraps at 2^48 and sets OVF (R445, R447). -/
def countUp (s : State) (k : Nat) : State :=
  let c := ctrAt s k
  if c.count + 1 < 2 ^ 48 then modCtr s k fun c => { c with count := c.count + 1 }
  else
    let s := modCtr s k fun c => { c with count := 0, ovf := true }
    if c.irq then pmuIrq s false else s

/-- An event of code `code` occurs at a block: every counter of the block that is enabled and selects it counts,
while PMU.CTL.FREEZE is 0 (R445, R446). -/
def pmuEvent (s : State) (kind inst code : Nat) : State :=
  if bitOf (regN s pmuBase) 0 then s
  else (List.range (ctrsOf kind)).foldl (fun t c =>
    let x := ctrAt t (ctrKey kind inst c)
    if x.en && x.event == code then countUp t (ctrKey kind inst c) else t) s

/-! ## Block clocks (R232, R369, R443–R447, R449) -/

/-- Data rate of a rate code, in MT/s (R252). -/
def rateMts (c : Nat) : Nat :=
  if c = 0 then 4800 else if c = 1 then 5600 else if c = 2 then 6400 else if c = 3 then 7200
  else if c = 4 then 8000 else if c = 5 then 8800 else 12800

/-- Core clock of an operating point in MHz (R369). -/
def coreMhz (op : Nat) : Nat := if op = 0 then 2000 else if op = 1 then 1600 else if op = 2 then 1200 else 800

/-- Clock of a domain's monitored blocks in MHz (R443): the flit clock, the channel clock, or the core clock. -/
def domMhz (s : State) (d : Nat) : Nat :=
  if 2 ≤ d ∧ d < 6 then 1000
  else if 14 ≤ d ∧ d < 22 then rateMts s.rate.cur / 8
  else coreMhz s.power.op

/-- The main domains are out of reset (R391, R392). -/
def mainOut (s : State) : Bool :=
  match s.boot.phase with
  | .aonOff => false
  | .ldo => false
  | .supervisor => false
  | .rails => false
  | .held => false
  | _ => true

/-- The domain's block clocks run: RUN or IDLE (R445). -/
def clockOn (s : State) (d : Nat) : Bool := mainOut s && ((domAt s d).st = .run || (domAt s d).st = .idle)

/-- Domain of instance `i` of a KIND (R357, R443). -/
def ctrDom (kind i : Nat) : Nat :=
  if kind = 0 then 2 + i else if kind = 1 then 14 + i / 2 else if kind = 2 then 22 else if kind = 3 then 23
  else if kind = 4 then 10 + i / 12 else 6 + i / 12

/-- Cycles that `ns` adds to a domain's count. -/
def cyclesOf (s : State) (d ns : Nat) : Nat :=
  let c := s.pmu.cyc.getD d 0
  (c + ns * domMhz s d) / 1000 - c / 1000

/-- A level event of R446 whose signal is a condition of the state: 0x01, a waiting ingress message, write drain, a
conflict queue that is not empty, every crossing record in use, every slot occupied, OLD_CNT not 0. -/
def levelOn (s : State) (kind i code : Nat) : Bool :=
  if code = 0x01 then true
  else if kind = 0 ∧ code = 0x14 then (ingressAt s i) != []
  else if kind = 1 ∧ code = 0x24 then (chAt s i).drain
  else if kind = 2 ∧ code = 0x32 then (sliceAt s i).confq != []
  else if kind = 2 ∧ code = 0x33 then decide ((s.xing.filter fun e => e.1 / 128 == i).length = 128)
  else if kind = 4 ∧ code = 0x52 then decide ((spnAt s i).slots.length = 32)
  else if kind = 5 ∧ code = 0x63 then (stAt s i).oldCnt != 0
  else false

/-- What a stretch of time adds to one programmable counter (R445): every cycle with EDGE 0, one rising edge with EDGE 1. -/
def tickCtr (ns : Nat) (s : State) (k : Nat) : State :=
  let c := ctrAt s k
  let kind := k / 1024
  let i := k / 16 % 64
  let on := levelOn s kind i c.event
  let n := if !c.en || bitOf (regN s pmuBase) 0 || !clockOn s (ctrDom kind i) || !on then 0
    else if c.edge then b2n !c.last
    else cyclesOf s (ctrDom kind i) ns
  let s := modCtr s k fun c => { c with
    count := (c.count + n) % 2 ^ 48, ovf := c.ovf || decide (2 ^ 48 ≤ c.count + n), last := on }
  if c.irq && decide (2 ^ 48 ≤ c.count + n) then pmuIrq s false else s

/-- The clocks run for `ns`: programmable counters of level events, then the cycle counters. -/
def tick (s : State) (ns : Nat) : State :=
  if ns = 0 then s
  else
    let s := (s.pmu.ctrs.map (·.1)).foldl (tickCtr ns) s
    let cyc := (List.range 26).map fun d =>
      s.pmu.cyc.getD d 0 + if clockOn s d then ns * domMhz s d else 0
    { s with pmu := { s.pmu with cyc := cyc } }

/-- The clock moves on by `ns`. -/
def advanceBy (s : State) (ns : Nat) : State := { tick s ns with now := s.now + ns }

/-- A time-driven event happens at its own instant: the clock never runs backwards (log entry 3). -/
def advanceTo (s : State) (t : Nat) : State := advanceBy s (t - s.now)

/-- The blocks of a domain lose their counters (R449). -/
def loseCounters (s : State) (d : Nat) : State :=
  { s with pmu := { s.pmu with
    ctrs := tabFilter (fun k _ => ctrDom (k / 1024) (k / 16 % 64) != d) s.pmu.ctrs
    cyc := s.pmu.cyc.set d 0 } }

/-! ## Telemetry stops (R454) -/

/-- Dumping stops, with its cause and a NOTE event. -/
def stopDump (s : State) (cause : Nat) : State :=
  logUncoded { s with pmu := { s.pmu with en := false, busy := false, latched := [], stop := cause } }
    (srcOf pmuBase) 454 sevNote (le 1 cause) [] []

/-- A window has left ONLINE. -/
def dumpWindowLeft (s : State) (w : Nat) : State :=
  if s.pmu.en && fld (regN s (pmuBase + 0x44)) 11 0 == w then stopDump s 2 else s

end Sys2Proof.Machine
end

