-- ==== Sys2Proof/Machine/Aes.lean ====
section
/-! DEFINITION. The channel cipher (R171, R172): AES-256 and its XTS mode on one 64-byte line, the tweak of a line, and the
key set that a key number stands for. AES and XTS themselves come from outside the manual, which names them (PRESUMED, FIPS 197
and IEEE 1619; log entry 95). -/

namespace Sys2Proof.Machine

open Sys2Proof

/-! ## AES-256 -/

/-- The substitution tables as numbers: byte `i` substitutes `i`. -/
def sboxTable : Nat := 0x16BB54B00F2D99416842E6BF0D89A18CDF2855CEE9871E9B948ED9691198F8E19E1DC186B95735610EF6034866B53E708A8BBD4B1F74DDE8C6B4A61C2E2578BA08AE7A65EAF4566CA94ED58D6D37C8E779E4959162ACD3C25C2406490A3A32E0DB0B5EDE14B8EE4688902A22DC4F816073195D643D7EA7C41744975FEC130CCDD2F3FF1021DAB6BCF5389D928F40A351A89F3C507F02F94585334D43FBAAEFD0CF584C4A39BECB6A5BB1FC20ED00D153842FE329B3D63B52A05A6E1B1A2C830975B227EBE28012079A059618C323C7041531D871F1E5A534CCF73F362693FDB7C072A49CAFA2D4ADF04759FA7DC982CA76ABD7FE2B670130C56F6BF27B777C63
def invSboxTable : Nat := 0x7D0C2155631469E126D677BA7E042B17619953833CBBEBC8B0F52AAE4D3BE0A0EF9CC9939F7AE52D0D4AB519A97F51605FEC8027591012B131C7078833A8DD1FF45ACD78FEC0DB9A2079D2C64B3E56FC1BBE18AA0E62B76F89C5291D711AF1476EDF751CE837F9E28535ADE72274AC9673E6B4F0CECFF297EADC674F4111913A6B8A130103BDAFC1020F3FCA8F1E2CD00645B3B80558E4F70AD3BC8C00ABD890849D8DA75746155EDAB9EDFD5048706C92B6655DCC5CA4D41698688664F6F87225D18B6D49A25B76B224D92866A12E084EC3FA420B954CEE3D23C2A632947B54CBE9DEC444438E3487FF2F9B8239E37CFBD7F3819EA340BF38A53630D56A0952

def sub8 (table b : Nat) : Nat := (table >>> (8 * b)) % 256

/-- Multiplication by x in GF(2^8) under x^8 + x^4 + x^3 + x + 1, and by a small constant. -/
def aesX (a : Nat) : Nat := if a < 128 then 2 * a else (2 * a) ^^^ 0x11B

def aesMul (c a : Nat) : Nat :=
  let a2 := aesX a
  let a4 := aesX a2
  let a8 := aesX a4
  (if c % 2 = 1 then a else 0) ^^^ (if c / 2 % 2 = 1 then a2 else 0) ^^^ (if c / 4 % 2 = 1 then a4 else 0) ^^^
    (if c / 8 % 2 = 1 then a8 else 0)

def xorBytes (a b : List Nat) : List Nat := a.zipWith (· ^^^ ·) b

/-- Words of the key schedule, newest first: `i` is the number of the next. -/
def keyWords : Nat → Nat → Nat → List (List Nat) → List (List Nat)
  | 0, _, _, ws => ws
  | n + 1, i, rcon, ws =>
    let last := ws.headD []
    let t :=
      if i % 8 = 0 then xorBytes ((last.drop 1 ++ last.take 1).map (sub8 sboxTable)) [rcon, 0, 0, 0]
      else if i % 8 = 4 then last.map (sub8 sboxTable)
      else last
    keyWords n (i + 1) (if i % 8 = 0 then aesX rcon else rcon) (xorBytes t (ws.getD 7 []) :: ws)

/-- The eight words of a 32-byte key, newest first. -/
def keyStart (k : List Nat) : List (List Nat) := ((List.range 8).map fun i => (k.drop (4 * i)).take 4).reverse

/-- Groups of four words: the round keys, in the order of the words. -/
def roundKeys : Nat → List (List Nat) → List (List Nat)
  | 0, _ => []
  | n + 1, ws => (ws.take 4).flatten :: roundKeys n (ws.drop 4)

/-- The fifteen round keys of a 32-byte key, in the order of encryption. -/
def aesKeys (k : List Nat) : List (List Nat) := roundKeys 15 (keyWords 52 8 1 (keyStart k)).reverse

/-- Byte `i` of the result comes from byte 5 i, or 13 i for the inverse. -/
def shiftRows (m : Nat) (b : List Nat) : List Nat := (List.range 16).map fun i => b.getD (m * i % 16) 0

/-- One column multiplied by the circulant of four constants. -/
def mixColumn (c : List Nat) (col : List Nat) : List Nat :=
  (List.range 4).map fun r => (List.range 4).foldl (fun a j => a ^^^ aesMul (c.getD ((j + 4 - r) % 4) 0) (col.getD j 0)) 0

def mixColumns (c b : List Nat) : List Nat :=
  (List.range 4).flatMap fun i => mixColumn c ((b.drop (4 * i)).take 4)

/-- The rounds after the first key: the last one mixes no columns. -/
def encRounds : List (List Nat) → List Nat → List Nat
  | [], b => b
  | [k], b => xorBytes (shiftRows 5 (b.map (sub8 sboxTable))) k
  | k :: ks, b => encRounds ks (xorBytes (mixColumns [2, 3, 1, 1] (shiftRows 5 (b.map (sub8 sboxTable)))) k)

/-- AES-256 of a 16-byte block. -/
def aesEnc (key block : List Nat) : List Nat :=
  match aesKeys key with
  | [] => block
  | k :: ks => encRounds ks (xorBytes block k)

def decRounds : List (List Nat) → List Nat → List Nat
  | [], b => b
  | [k], b => xorBytes ((shiftRows 13 b).map (sub8 invSboxTable)) k
  | k :: ks, b => decRounds ks (mixColumns [14, 11, 13, 9] (xorBytes ((shiftRows 13 b).map (sub8 invSboxTable)) k))

/-- The inverse of AES-256. -/
def aesDec (key block : List Nat) : List Nat :=
  match (aesKeys key).reverse with
  | [] => block
  | k :: ks => decRounds ks (xorBytes block k)

/-! ## XTS -/

/-- The encrypted tweak of the next block: multiplied by α, byte 0 the least significant. -/
def xtsNext (t : List Nat) : List Nat :=
  let n := t.foldr (fun b a => b + 256 * a) 0
  let m := if n < 2 ^ 127 then 2 * n else (2 * n - 2 ^ 128) ^^^ 0x87
  (List.range 16).map fun i => m / 256 ^ i % 256

/-- `f` on each 16-byte block of a line, between two additions of its tweak (R171). -/
def xtsBlocks (f : List Nat → List Nat) : Nat → List Nat → List Nat → List Nat
  | 0, _, _ => []
  | n + 1, t, b => xorBytes (f (xorBytes (b.take 16) t)) t ++ xtsBlocks f n (xtsNext t) (b.drop 16)

/-- A key set: data key K1 and tweak key K2 (R171). -/
structure KeySet where
  k1 : BitVec 256
  k2 : BitVec 256
  deriving DecidableEq, Repr

def keyBytes (k : BitVec 256) : List Nat := (le 32 k.toNat).map (·.toNat)

/-- The tweak of a line as 16 bytes (R172): generation in bits 127:124, line index in bits 36:0. -/
def tweakOf (gen line : Nat) : List Nat := (le 16 (gen % 16 * 2 ^ 124 + line % 2 ^ 37)).map (·.toNat)

def ofNats (l : List Nat) : List Byte := l.map (BitVec.ofNat 8)

/-- A line enciphered, and a line deciphered, under a key set with the tweak of a generation and line index. -/
def xtsEnc (k : KeySet) (gen line : Nat) (b : List Byte) : List Byte :=
  ofNats (xtsBlocks (aesEnc (keyBytes k.k1)) 4 (aesEnc (keyBytes k.k2) (tweakOf gen line)) ((lineOf b).map (·.toNat)))

def xtsDec (k : KeySet) (gen line : Nat) (b : List Byte) : List Byte :=
  ofNats (xtsBlocks (aesDec (keyBytes k.k1)) 4 (aesEnc (keyBytes k.k2) (tweakOf gen line)) ((lineOf b).map (·.toNat)))

/-! ## Key sets by number (R171, R176) -/

/-- Draw `i` of the TRNG for the key set with a number: 512 bits, and drawn again where K1 equals K2. -/
def drawOf (no i : Nat) : KeySet := { k1 := Config.trngDraw no (2 * i), k2 := Config.trngDraw no (2 * i + 1) }

def keyFrom : Nat → Nat → Nat → KeySet
  | 0, no, i => drawOf no i
  | n + 1, no, i => if (drawOf no i).k1 = (drawOf no i).k2 then keyFrom n no (i + 1) else drawOf no i

/-- The key set that a number names. Of a run of 64 draws that are all discarded, each with probability 2^−256, the model takes
the next as it is (log entry 95). -/
def keySetOf (no : Nat) : KeySet := keyFrom 64 no 0

end Sys2Proof.Machine
end

