-- ==== Sys2Proof/Machine/Budget.lean ====
section
/-! DEFINITION. Bandwidth as a computed level: rates and W_now (R238, R252, R277), class budgets and their buckets
(R272, R274), DevLoad (R278) and SCALE (R277). -/

namespace Sys2Proof.Machine

open Sys2Proof

/-- tREFI of a channel in ns (R238). -/
def trefi (x : Chan) : Nat := if x.hot then 1950 else 3900

/-- Derated bandwidth of a channel in units of 0.25 GB/s, scaled by tREFI so that it stays a whole number: rate × 8 B ×
(1 − tRFC / tREFI) is this divided by `250 × tREFI`. -/
def bwTimes (rate trfc t : Nat) : Nat := rate * 8 * (t - trfc)

/-- W_now as a whole number (R277): the ONLINE channels at the current rate and tREFI, over the common denominator
`250 × 3,900`. -/
def wTimes (s : State) : Nat :=
  let r := rateMts s.rate.cur
  s.chans.foldl (fun a e =>
    if e.2.st = .online then a + bwTimes r e.2.trfc (trefi e.2) * (3900 / trefi e.2) else a) 0

/-- 0.70 of a scaled bandwidth, in units of 0.25 GB/s, rounded down (R285). -/
def limitOf (w : Nat) : Nat := 70 * w / (100 * 250 * 3900)

/-- Sum of the guaranteed budgets (R276). -/
def guarSum (s : State) : Nat :=
  (List.range 16).foldl (fun a k =>
    let b := regN s (qosBase + 4 + 8 * k)
    if bitOf b 31 then a + fld b 13 0 else a) 0

/-- Refill of class `k` in channel `c` in bytes per µs, times 1024 (R274): B_k × 250 B/µs × SCALE / 1024 × w_c / W_now. -/
def refill1024 (s : State) (k c : Nat) : Nat :=
  let b := regN s (qosBase + 4 + 8 * k)
  let x := chAt s c
  let rate := fld b 13 0 * 250 * (if bitOf b 31 then s.qos.scale else 1024)
  let total := s.chans.foldl (fun a e =>
    if e.2.st = .online then a + bwTimes 1 e.2.trfc (trefi e.2) * (3900 / trefi e.2) else a) 0
  if total = 0 then 0 else rate * (bwTimes 1 x.trfc (trefi x) * (3900 / trefi x)) / total

/-- Depth of the bucket in bytes: refill × BURST_US (R274). -/
def bucketDepth (s : State) (k c : Nat) : Nat :=
  refill1024 s k c * max 1 (fld (regN s (qosBase + 4 + 8 * k)) 23 16) / 1024

/-- Bytes spent since the bucket was full, now: what was spent less what has refilled since. -/
def bucketSpent (s : State) (k c : Nat) : Nat :=
  let e := tabGet (0, 0) s.qos.buckets (16 * k + c)
  e.1 - refill1024 s k c * (s.now - e.2) / 1000 / 1024

/-- The class has no bucket: unbudgeted, or QC0, which is exempt (R272, R274). -/
def unbudgeted (s : State) (k : Nat) : Bool := fld (regN s (qosBase + 4 + 8 * k)) 13 0 == 0

/-- The class is in budget at the channel: its bucket holds at least 64 bytes (R274). -/
def inBudget (s : State) (k c : Nat) : Bool :=
  unbudgeted s k || decide (bucketSpent s k c + 64 ≤ bucketDepth s k c)

/-- A channel moves `n` bytes for the class (R274). The level never falls below 0; QC0 beyond its budget is reported
(R272). -/
def spendBudget (s : State) (k c n : Nat) : State :=
  if unbudgeted s k then s
  else
    let d := bucketDepth s k c
    let beyond := !inBudget s k c
    let spent := min d (bucketSpent s k c + n)
    let s := { s with qos := { s.qos with buckets := tabSet (0, 0) s.qos.buckets (16 * k + c) (spent, s.now) } }
    if k = 0 && beyond then
      let s := { s with qos := { s.qos with qc0Over := true } }
      if firstInMs s 272 c then logEv (markMs s 272 c) (srcOf qosBase) 0x6003 sevWarn (le 2 c ++ kindByte 272 0) else s
    else s

/-- Entries of class `k` in a channel's queues (R278). -/
def classOcc (x : Chan) (k : Nat) : Nat :=
  (x.rq.filter fun q => q.qc == k).length + (x.wq.filter fun q => q.qc == k).length

/-- DevLoad of a request of class `k` at a channel (R278). -/
def devLoadAt (s : State) (c k : Nat) : Nat :=
  let n := classOcc (chAt s c) k
  let d := regN s (qosBase + 0x80 + 4 * k)
  let l := if n < fld d 7 0 then 0 else if n < fld d 15 8 then 1 else if n < fld d 23 16 then 2 else 3
  if inBudget s k c then l else max l 2

/-- The class is guaranteed (R274). -/
def guaranteed (s : State) (k : Nat) : Bool := bitOf (regN s (qosBase + 4 + 8 * k)) 31

/-- SCALE by R277. -/
def scaleOf (s : State) : Nat :=
  let g := guarSum s
  if g = 0 then 1024 else min 1024 (1024 * 70 * wTimes s / (100 * 250 * 3900 * g))

/-- Recomputes SCALE (R277): on a change of channel state, HOT or rate, and on an accepted budget write. A bucket whose
rate changes starts full (R274). -/
def rescale (s : State) : State :=
  let sc := scaleOf s
  let was := s.qos.scale
  let keep := fun (key : Nat) (_ : Nat × Nat) =>
    s.qos.wLast == wTimes s && (sc == was || !guaranteed s (key / 16))
  let s := { s with qos := { s.qos with scale := sc, wLast := wTimes s, buckets := tabFilter keep s.qos.buckets } }
  if sc < 1024 then
    let s := if was = 1024 then bump s (qosBase + 0xD4) else s
    logEv s (srcOf qosBase) 0x6003 sevWarn (le 2 sc)
  else if was < 1024 then logEv s (srcOf qosBase) 0x6003 sevNote (le 2 sc)
  else s

end Sys2Proof.Machine
end

