-- ==== Sys2Proof/Machine/Rs.lean ====
section
/-! DEFINITION. The RS(80,64) code of R254–R256, on error patterns. The code is linear, so the syndromes of a stored
line depend on its error pattern alone: the decoder below works on the 80 error symbols and says which symbols it
would change. -/

namespace Sys2Proof.Machine

/-- Multiplication by α = 0x02 in GF(2^8) under 0x11D (R254). -/
def gfX (a : Nat) : Nat := if a < 128 then 2 * a else (2 * a) ^^^ 0x11D

/-- Multiplication in GF(2^8), by the bits of the second factor. -/
def gfMulAux : Nat → Nat → Nat → Nat
  | 0, _, _ => 0
  | n + 1, a, b => (if b % 2 = 1 then a else 0) ^^^ gfMulAux n (gfX a) (b / 2)

def gfMul (a b : Nat) : Nat := gfMulAux 8 a b

/-- Power by repeated multiplication. -/
def gfPow (a : Nat) : Nat → Nat
  | 0 => 1
  | n + 1 => gfMul a (gfPow a n)

/-- α^n. -/
def gfAlpha : Nat → Nat
  | 0 => 1
  | n + 1 => gfX (gfAlpha n)

/-- Inverse: a^254, by squaring. -/
def gfInv (a : Nat) : Nat :=
  let a2 := gfMul a a
  let a4 := gfMul a2 a2
  let a8 := gfMul a4 a4
  let a16 := gfMul a8 a8
  let a32 := gfMul a16 a16
  let a64 := gfMul a32 a32
  let a128 := gfMul a64 a64
  gfMul a2 (gfMul a4 (gfMul a8 (gfMul a16 (gfMul a32 (gfMul a64 a128)))))

/-- Value of a polynomial (coefficients from x^0 up) at `x`. -/
def gfEval (x : Nat) : List Nat → Nat
  | [] => 0
  | c :: t => c ^^^ gfMul x (gfEval x t)

/-- Product with (x − r). -/
def gfTimesRoot (r : Nat) (p : List Nat) : List Nat :=
  (0 :: p).zipWith (· ^^^ ·) (p.map (gfMul r) ++ [0])

/-- ∏ (x − r). -/
def gfRoots (rs : List Nat) : List Nat := rs.foldl (fun p r => gfTimesRoot r p) [1]

/-- Product of polynomials remainder-free check: ∑ pₖ s₍ᵢ₊ₖ₎. -/
def gfDot (p s : List Nat) : Nat := (p.zipWith gfMul s).foldl (· ^^^ ·) 0

/-- An error pattern as 80 symbols; the empty list is no error. -/
def errSyms (e : List Byte) : List Nat := (List.range 80).map fun i => (e.getD i 0).toNat

/-- The 16 syndromes S_i = c(α^i) (R256). -/
def syndromes (e : List Nat) : List Nat := (List.range 16).map fun i => gfEval (gfAlpha i) e

/-- Symbol positions of device `d` (R255): D0–D7 hold c(16+8d) up, D8 c0–c7, D9 c8–c15. -/
def devPositions (d : Nat) : List Nat :=
  (List.range 8).map fun b => if d < 8 then 16 + 8 * d + b else 8 * (d - 8) + b

/-- The error on device `d` that explains the syndromes, if one does: solved from S0–S7 and verified against all
sixteen. The verification is that the syndromes obey the recurrence of the locators. -/
def solveDevice (syn : List Nat) (d : Nat) : Option (List Nat) :=
  let xs := (devPositions d).map gfAlpha
  let loc := gfRoots xs
  if (List.range 8).all fun i => gfDot loc (syn.drop i) == 0 then
    some (xs.map fun x =>
      let others := xs.filter (· ≠ x)
      let q := gfRoots others
      gfMul (gfDot q syn) (gfInv (gfEval x q)))
  else none

/-- What the decoder finds (R256). -/
inductive RsResult where
  | clean
  | corrected (dev : Nat) (syms : List Nat)
  | uncorrectable
  deriving DecidableEq, Repr

/-- The decoder of R256: clean, exactly one candidate device, or uncorrectable. -/
def rsDecode (e : List Byte) : RsResult :=
  if e.all (· == 0) then .clean
  else
    let syn := syndromes (errSyms e)
    if syn.all (· == 0) then .clean
    else
      match (List.range 10).filterMap fun d => (solveDevice syn d).map fun x => (d, x) with
      | [(d, x)] => .corrected d x
      | _ => .uncorrectable

/-- The symbols a correction on device `d` changes, as a pattern of 80. -/
def corrPattern (d : Nat) (syms : List Nat) : List Nat :=
  (List.range 80).map fun i =>
    match ((devPositions d).zip syms).find? fun p => p.1 == i with
    | some p => p.2
    | none => 0

/-- Bits a correction changes (R256). -/
def corrBits (syms : List Nat) : Nat :=
  (syms.map fun x => ((List.range 8).filter fun i => x / 2 ^ i % 2 == 1).length).foldl (· + ·) 0

/-- Sum of two error patterns. -/
def errAdd (a b : List Byte) : List Byte :=
  if a.all (· == 0) then (if b.all (· == 0) then [] else (List.range 80).map fun i => b.getD i 0)
  else
    let c := (List.range 80).map fun i => a.getD i 0 ^^^ b.getD i 0
    if c.all (· == 0) then [] else c

/-- The error that remains after the decoder's correction: zero when it corrected the line rightly. -/
def errAfter (e : List Byte) : List Byte :=
  match rsDecode e with
  | .corrected d syms =>
    errAdd e ((corrPattern d syms).map (BitVec.ofNat 8))
  | _ => errAdd e []

/-- An error confined to device `d`: pattern `pat` on each of its symbols (R270). -/
def devError (d pat : Nat) : List Byte :=
  (List.range 80).map fun i => if (devPositions d).contains i then BitVec.ofNat 8 pat else 0

end Sys2Proof.Machine
end

