-- ==== Sys2Proof/Machine/SpindleOps.lean ====
section
/-! DEFINITION. The spindle array as operations: roles, dispatch, borrowing and slots (R187–R192, R196, R321). -/

namespace Sys2Proof.Machine

open Sys2Proof

/-- Class of read-triggered promotion, demotion and compaction (R271). -/
def tierClass (s : State) : Nat := fld (regN s (qosBase + 0xC0)) 3 0

/-- Class of resync copies (R271). -/
def resyncClass (s : State) : Nat := fld (regN s (qosBase + 0xC0)) 7 4

/-- Domain of a spindle's quadrant (R357). -/
def quadDom (n : Nat) : Nat := 10 + n / 12

/-- A domain runs: RUN or IDLE (R359). -/
def domAwake (s : State) (d : Nat) : Bool := (domAt s d).st = .run || (domAt s d).st = .idle

/-- A domain sleeps and can be woken. -/
def domAsleep (s : State) (d : Nat) : Bool := (domAt s d).st = .nap || (domAt s d).st = .doze

/-- Asks the supervisor to wake a domain that sleeps (R361, R367); a request already made is not made twice. -/
def askWake (s : State) (d : Nat) : State :=
  if (domAsleep s d || (domAt s d).st = .sleeping) && !s.power.waiting.contains (d, true) then
    { s with power := { s.power with waiting := s.power.waiting ++ [(d, true)] } }
  else s

/-- Work or a flit arrives at a domain that is IDLE: its clocks return (R359). -/
def unIdle (s : State) (d : Nat) : State :=
  modDom s d fun x => if x.st = .idle then { x with st := .run, idleAt := none } else x

/-- Flits pass through the fabric (R359). -/
def unIdleFabric (s : State) : State := ([6, 7, 8, 9] : List Nat).foldl unIdle s

/-- A local port is fenced (R296). -/
def portFenced (s : State) (st lp : Nat) : Bool := (stAt s st).fenced.getLsbD lp

/-- A domain is stopped, waking, or fenced on its way to sleep: nothing reaches it (R296, R297). -/
def domShut (s : State) (d : Nat) : Bool :=
  match (domAt s d).st with
  | .nap => true
  | .doze => true
  | .off => true
  | .waking => true
  | .sleeping => match s.power.trans with
    | some t => t.fenced.contains d
    | none => true
  | _ => false

/-- A command that finds its domain stopped wakes it and waits (R297, R358, R421, R462). -/
def holdFor (s : State) (d : Nat) (row : Instr) : State :=
  let s := askWake s d
  { s with power := { s.power with held := s.power.held ++ [(d, row)] } }

/-- What a function sends passes its host port: while the port's domain is stopped it waits in the link layer (R358),
and an OFF port takes nothing. -/
def fnGate (s : State) (f : Fn) (row : Instr) (go : State → State) : State :=
  if (domAt s (2 + f.port.val)).st = .off then s
  else if domShut s (2 + f.port.val) then holdFor s (2 + f.port.val) row else go (unIdle s (2 + f.port.val))

/-- A command for the management controller (R392, R395, R421): not taken while it does not run; while MGMT sleeps it wakes
it and waits. -/
def mcGate (s : State) (row : Instr) (go : State → Host.Outcome State Fault Refusal) : Host.Outcome State Fault Refusal :=
  if !mcUp s then .next s else if domShut s 1 then .next (holdFor s 1 row) else go (unIdle s 1)

/-- The spindles. -/
def spindles : List Nat := List.range 48

/-- A spindle that may still take units of its home role (R193, R321). -/
def spnUsable (s : State) (n : Nat) : Bool :=
  let x := spnAt s n
  x.st != .failed && x.home != 0 && x.newRole.isNone

/-- Units of its home role, and borrowed ones, in a spindle's slots. -/
def homeUnits (x : Spindle) : Nat := (x.slots.filter fun e => e.2.role == x.home).length
def borrowedUnits (x : Spindle) : Nat := (x.slots.filter fun e => e.2.role != x.home).length

/-- A ring holds a descriptor that the service could take (R209). -/
def ringWaits (r : Ring) : Bool := r.st = .enabled && r.sqHead != r.sqTail

/-- A taken descriptor waits in its ring (R187, R209). -/
def descWaits (s : State) : Bool := s.descs.any fun e => e.1 < 0x20000000 && match e.2 with
  | some d => d.st = .waiting
  | none => false

/-- Work of a role is waiting (R191): in its dispatch queue, or for SERVICE in the rings; a descriptor that waits for a fence or a
context is such work (DEDUCED, log entry 103). -/
def roleWaits (s : State) (r : Nat) : Bool :=
  s.units.any (fun u => u.role == r) || (r == 5 && (descWaits s || s.rings.any fun e => ringWaits e.2))

/-- Home work of a role waits, or waited until now: the idle time of its spindles starts afresh (R191). -/
def touchHome (s : State) (r : Nat) : State :=
  ((s.spn.filter fun e => e.2.home == r).map (·.1)).foldl (fun t n => modSpn t n fun x => { x with homeIdle := t.now }) s

/-- No spindle of the role is in RUN, IDLE or NAP (R192). -/
def roleless (s : State) (r : Nat) : Bool :=
  !spindles.any fun n => (spnAt s n).home == r && spnUsable s n &&
    (domAwake s (quadDom n) || (domAt s (quadDom n)).st = .nap)

/-- A spindle's home role is SERVICE, as the image gave it, and it works. -/
def isService (s : State) (n : Nat) : Bool := (spnAt s n).home == 5 && spnUsable s n

/-- The lowest free slot below `lim`. -/
def freeSlot (x : Spindle) (lim : Nat) : Option Nat :=
  (List.range lim).find? fun i => !(x.slots.any fun e => e.1 == i)

/-- The spindle can take a unit of its home role now. -/
def takesHome (s : State) (n r : Nat) : Bool :=
  (spnAt s n).home == r && spnUsable s n && domAwake s (quadDom n) && (freeSlot (spnAt s n) 32).isSome

/-- IDLE_NS of a spindle (R199). -/
def spnIdleNs (s : State) (n : Nat) : Nat := fld (regN s (spnBase n + 8)) 15 0

/-- The spindle can take a borrowed unit of role `r` now (R191, R192): it lends to the role and has been without home work for
IDLE_NS, or it is a SERVICE spindle and the role has no spindle; no home unit is in a slot or waiting, and a slot of 0–23 is
free. -/
def takesBorrowed (s : State) (n r : Nat) : Bool :=
  let x := spnAt s n
  let lends := (x.lending == some r && decide (x.homeIdle + spnIdleNs s n ≤ s.now)) ||
    (isService s n && roleless s r && !(x.slots.any fun e => e.2.role != x.home && e.2.role != r))
  lends && spnUsable s n && x.home != r && domAwake s (quadDom n) && homeUnits x == 0 && !roleWaits s x.home &&
    (freeSlot x 24).isSome

/-- The one with the fewest occupied slots, the lowest number on ties (R190). -/
def fewest (s : State) : List Nat → Option Nat
  | [] => none
  | n :: t => some (t.foldl (fun b x => if (spnAt s x).slots.length < (spnAt s b).slots.length then x else b) n)

/-- The spindle serves the role: it is its home role, or it is a SERVICE spindle and the role has none (R190, R192). -/
def servesRole (s : State) (r n : Nat) : Bool :=
  ((spnAt s n).home == r && spnUsable s n) || (roleless s r && isService s n)

/-- The spindle that takes a unit of role `r` now (R190, R191): for a segment decode first of the slice's own quadrant. A unit in
the boundary queue of quadrant `bq` goes to a spindle there (R196). -/
def pickSpindle (s : State) (r slice avoid bq : Nat) : Option Nat :=
  let here := fun (n : Nat) => bq == 4 || n / 12 == bq || !spindles.any fun i => i / 12 == bq && servesRole s r i
  let home := spindles.filter fun n => takesHome s n r && n != avoid && here n
  let near := home.filter fun n => n / 12 == slice / 4
  if r = 1 ∧ near ≠ [] then fewest s near
  else if home ≠ [] then fewest s home
  else fewest s (spindles.filter fun n => takesBorrowed s n r && n != avoid && here n)

/-- Units of a role wait: where no awake quadrant serves it, they enter the boundary queue of a sleeping one that does, and wake it
(R196); where no spindle of the role and no SERVICE spindle is left, the first wait in each 1 ms is logged, for each role (R192,
R484). -/
def noteWait (s : State) (r : Nat) : State :=
  let awake := spindles.any fun n => domAwake s (quadDom n) && (servesRole s r n || (spnAt s n).lending == some r)
  let asleep := spindles.find? fun n => domAsleep s (quadDom n) && servesRole s r n
  let s := match awake, asleep with
    | false, some n => askWake { s with
        units := s.units.map fun u => if u.role == r && u.bq == 4 then { u with bq := n / 12 } else u } (quadDom n)
    | _, _ => s
  if roleless s r && !spindles.any (isService s) && firstInMs s 192 r then
    logEv (markMs s 192 r) 0 0xB001 sevErr (le 2 0 ++ le 1 r)
  else s

/-- Puts a unit into the dispatch queue of its role. -/
def queueUnit (s : State) (j : Job) (role qc slice : Nat) : State :=
  let s := stampNext { s with units := s.units ++ [{ job := j, role := role, qc := qc, slice := slice, ord := s.stamp }] }
  noteWait (touchHome s role) role

/-- The clock of a spindle stops: what remains of its sample period is kept (R195, R198). -/
def gateSpn (now : Nat) (x : Spindle) : Spindle :=
  if x.st = .run then { x with st := .gated, pcRan := some (now - x.pcAt) } else x

/-- Its clock runs again; an OFF spindle's never does (R195). -/
def ungateSpn (now : Nat) (x : Spindle) : Spindle :=
  if x.st = .gated ∧ x.home ≠ 0 then { x with st := .run, pcAt := now - x.pcRan.getD 0, pcRan := none } else x

/-- A new home role takes over: an OFF spindle is clock-gated for good (R188, R195). -/
def setHome (now r : Nat) (l : BitVec 6) (x : Spindle) : Spindle :=
  let x := { x with home := r, lend := l, newRole := none, lending := none }
  if r = 0 then gateSpn now x else if x.st = .gated then { ungateSpn now x with empty := now } else x

/-- Puts a unit into a slot of spindle `n`, which starts its clock (R187, R195). -/
def placeUnit (s : State) (n : Nat) (u : Unit_) : State :=
  let s := unIdle s (quadDom n)
  let x := spnAt s n
  let borrowed := u.role != x.home
  match freeSlot x (if borrowed then 24 else 32) with
  | none => s
  | some i =>
    let s := modSpn s n fun x => { ungateSpn s.now x with
      slots := x.slots ++ [(i, u)], lending := if borrowed then some u.role else x.lending }
    let s := pmuEvent s 4 n 0x50
    if borrowed then pmuEvent s 4 n 0x51 else s

/-- Where a unit is: its spindle and slot. -/
def findUnit (s : State) (j : Job) : Option (Nat × Nat × Unit_) :=
  s.spn.findSome? fun e => match e.2.slots.find? fun x => x.2.job == j with
    | some (i, u) => some (e.1, i, u)
    | none => none

/-- A spindle's slots have changed: a new role takes over once none is occupied (R321), and lending ends once no borrowed
unit is left (R191). The microcode reports a new role (R421). -/
def settleSpn (s : State) (n : Nat) : State :=
  let s := if (spnAt s n).newRole.isSome && (spnAt s n).slots == [] then tellIsland s n else s
  modSpn s n fun x =>
    let x := if borrowedUnits x = 0 && (homeUnits x != 0 || roleWaits s x.home || !roleWaits s (x.lending.getD 0)) then
        { x with lending := none } else x
    let x := if homeUnits x = 0 && !roleWaits s x.home then x else { x with homeIdle := s.now }
    let x := if x.slots = [] then { x with empty := s.now } else x
    match x.newRole with
    | some (r, l) => if x.slots = [] then setHome s.now r l x else x
    | none => x

/-- A unit leaves its slot, completed or not. -/
def leaveSlot (s : State) (j : Job) (completed : Bool) : State :=
  match findUnit s j with
  | none => s
  | some (n, i, u) =>
    let x := spnAt s n
    let s := modSpn s n fun x => { x with 
      slots := x.slots.filter fun e => e.1 != i, homeIdle := if u.role = x.home then s.now else x.homeIdle }
    let s := if completed then bump s (spnBase n + 0x1C) else s
    let s := if completed && u.role != x.home then bump s (spnBase n + 0x20) else s
    settleSpn s n

/-- Further page-sized steps that a unit in a slot has completed (R187, R202). -/
def countSteps (s : State) (j : Job) (k : Nat) : State :=
  match findUnit s j with
  | none => s
  | some (n, _, u) =>
    let s := bumpBy s (spnBase n + 0x1C) k
    let s := (List.range k).foldl (fun t _ => pmuEvent t 4 n 0x50) s
    if u.role != (spnAt s n).home then (List.range k).foldl (fun t _ => pmuEvent t 4 n 0x51) (bumpBy s (spnBase n + 0x20) k) else s

/-- The unit is in a slot. -/
def inSlot (s : State) (j : Job) : Bool := (findUnit s j).isSome

/-- Removes work from the dispatch queues and the spindles: the slots it leaves are settled. -/
def dropJobs (s : State) (p : Job → Bool) : State :=
  let held := (s.spn.flatMap fun e => e.2.slots.map fun x => x.2.job).filter p
  let s := ((s.units.filter fun u => p u.job).map (·.role)).eraseDups.foldl touchHome s
  held.foldl (fun t j => leaveSlot t j false) { s with units := s.units.filter fun u => !p u.job }

/-- Admission has stopped for a microcode change (R322). -/
def admissionStopped (s : State) : Bool :=
  match s.img.rw with
  | some r => r.step = .microcode
  | none => false

/-- A waiting unit ranks ahead of another: lower class, then earlier (R190). -/
def ranksAhead (a b : Unit_) : Bool := decide (a.qc < b.qc) || (a.qc == b.qc && decide (a.ord < b.ord))

/-- The best of the waiting units that a spindle can take now. -/
def nextUnit (s : State) : Option Unit_ :=
  (s.units.filter fun u => (pickSpindle s u.role u.slice u.avoid u.bq).isSome).foldl (fun b u => match b with
    | none => some u
    | some x => if ranksAhead u x then some u else b) none

end Sys2Proof.Machine
end

