-- ==== Sys2Proof/Machine/Dram.lean ====
section
/-! DEFINITION. DRAM lines: where a DPA lands (R234–R236), reading and correcting (R256–R260), writing with
injection (R270), poison (R257) and the poison list (R265). -/

namespace Sys2Proof.Machine

open Sys2Proof

/-! ## Geometry -/

/-- Rank-select width r of R235. -/
def rselOf (d : Dimms) : Nat := d.heightLog + d.ranksLog + (if d.slot0 && d.slot1 then 1 else 0)

/-- Row width of R235. -/
def rowBits (d : Dimms) : Nat := 16 + d.densCode

/-- Channel capacity in bytes (R235); 0 where no DIMM is brought up. -/
def capOf (c : Chan) : Nat :=
  match c.dimms with
  | some d => 2 ^ (19 + rselOf d + rowBits d)
  | none => 0

/-- MAP_CTL of a channel (R248). -/
def mapCtl (s : State) (c : Nat) : Nat := regN s (chBase c + 4)

/-- Members of interleave set `k`, in the order of their IDX (R233, R248). -/
def setMember (s : State) (k i : Nat) : Option Nat :=
  (List.range 16).find? fun c =>
    let m := mapCtl s c
    bitOf m 30 && fld m 29 27 == k && fld m 20 17 == i

/-- Channel and channel address of a DPA (R234); none outside the usable sets. -/
def chanOf (s : State) (dpa : Nat) : Option (Nat × Nat) :=
  (List.range 8).findSome? fun k =>
    match setMember s k 0 with
    | none => none
    | some c0 =>
      let x := chAt s c0
      let m := mapCtl s c0
      let w := fld m 26 24
      let g := fld m 23 21 + 8
      let base := x.mapBase * 0x200000
      if x.usable && decide (base ≤ dpa) && decide (dpa < base + 2 ^ w * capOf x) then
        let off := dpa - base
        match setMember s k (off / 2 ^ g % 2 ^ w) with
        | some c => some (c, off / 2 ^ (g + w) * 2 ^ g + off % 2 ^ g)
        | none => none
      else none

/-- Where a line lies in its channel (R235, R236): physical bank group and bank, after hashing. -/
structure Geo where
  ch   : Nat := 0
  sub  : Nat := 0
  bg   : Nat := 0
  bank : Nat := 0
  col  : Nat := 0
  rank : Nat := 0
  row  : Nat := 0
  deriving DecidableEq, Repr

/-- Geometry of a DPA line index; none outside the usable sets. -/
def geoOf (s : State) (line : Nat) : Option Geo :=
  match chanOf s (line * 64) with
  | none => none
  | some (c, ca) =>
    let r := match (chAt s c).dimms with
      | some d => rselOf d
      | none => 0
    let row := ca / 2 ^ (19 + r)
    let h := bitOf (mapCtl s c) 31
    some { ch := c, sub := fld ca 6 6, col := fld ca 18 12, rank := ca / 2 ^ 19 % 2 ^ r, row := row,
           bg := if h then fld ca 9 7 ^^^ fld row 2 0 else fld ca 9 7,
           bank := if h then fld ca 11 10 ^^^ fld row 4 3 else fld ca 11 10 }

/-- Physical bank number within a channel and subchannel and rank, for the tables kept per bank. -/
def bankKey (g : Geo) : Nat := ((g.rank * 2 + g.sub) * 4 + g.bank) * 8 + g.bg

/-- BANK byte of INT_LAST_ROW: bits 2:0 bank group, bits 4:3 bank (R269). -/
def bankByte (g : Geo) : Nat := g.bank * 8 + g.bg

/-- Channel of a line: 0 where the line lies outside every usable set (the skein produces no such line). -/
def chOfLine (s : State) (line : Nat) : Nat :=
  match chanOf s (line * 64) with
  | some (c, _) => c
  | none => 0

/-! ## Commands to DRAM (R236, R239, R240) -/

/-- A row entry with count 0. -/
def rowEmpty : RowEnt := {}

/-- The eight row entries of a bank's table, empty ones included. -/
def rdtRows (x : Chan) (bank : Nat) : List RowEnt :=
  let l := tabGet [] x.rdt bank
  l ++ List.replicate (8 - l.length) rowEmpty

/-- One activation by a requester of a row already listed (R239). -/
def rdtHit (r : RowEnt) (who : Nat × Nat) : RowEnt :=
  let r := { r with cnt := r.cnt + 1 }
  if r.n0 ≠ 0 ∧ r.tag0 = who then { r with n0 := r.n0 + 1 }
  else if r.n1 ≠ 0 ∧ r.tag1 = who then { r with n1 := r.n1 + 1 }
  else if r.n0 ≤ r.n1 then { r with tag0 := who, n0 := r.n0 + 1 }
  else { r with tag1 := who, n1 := r.n1 + 1 }

/-- Index of the entry with the lowest count, the lowest-numbered such entry. -/
def rdtLowest (l : List RowEnt) : Nat :=
  ((List.range l.length).foldl (fun (b : Nat) i => if (l.getD i rowEmpty).cnt < (l.getD b rowEmpty).cnt then i else b) 0)

/-- One activation of a row in a bank's table: the table, and the entry with its count before. -/
def rdtCount (l : List RowEnt) (row : Nat) (who : Nat × Nat) : List RowEnt × RowEnt × Nat :=
  match (List.range l.length).find? fun i => (l.getD i rowEmpty).cnt != 0 && (l.getD i rowEmpty).row == row with
  | some i =>
    let r := rdtHit (l.getD i rowEmpty) who
    (l.set i r, r, r.cnt - 1)
  | none =>
    let i := rdtLowest l
    let r : RowEnt := { row := row, cnt := (l.getD i rowEmpty).cnt + 1, tag0 := who, n0 := 1 }
    (l.set i r, r, 0)

/-- THRESH and INTERVAL_NS in force (R250). -/
def rdtThresh (s : State) (c : Nat) : Nat := max 256 (fld (regN s (chBase c + 0x18)) 31 16)
def rdtInterval (s : State) (c : Nat) : Nat := max 50 (fld (regN s (chBase c + 0x18)) 15 0)

/-- A throttle spaces the activates of a requester at a bank (R240): a whole-bank one leaves QC0 alone. -/
def throttles (t : Throttle) (bank : Nat) (who : Nat × Nat) : Bool :=
  t.bank == bank && match t.who with
    | some w => w == who
    | none => who.2 != 0

/-- Imposes a throttle on a requester at a bank (R240): the 33rd applies to the whole bank. -/
def impose (s : State) (c : Nat) (g : Nat) (bankNo : Nat) (who : Nat × Nat) : State :=
  let x := chAt s c
  if x.throttles.any fun t => t.bank == g && t.who == some who then s
  else
    let named := (x.throttles.filter fun t => t.who.isSome).length
    let t : Throttle := { bank := g, who := if named < 32 then some who else none, last := s.now }
    if x.throttles.any fun u => u.bank == g && u.who == t.who then s
    else
      let s := bump (modCh s c fun x => { x with throttles := x.throttles ++ [t] }) (chBase c + 0x50)
      if who.1 < 1024 && firstInMs s 240 who.1 then
        logEvFor (markMs s 240 who.1) (srcOf (chBase c)) 0x6003 sevWarn
          (le 2 c ++ kindByte 240 0 ++ le 2 who.1 ++ le 1 who.2 ++ le 1 bankNo) [who.1] []
      else s

/-- An activate of a row for a requester (R239, R240). -/
def activate (s : State) (g : Geo) (who : Nat × Nat) : State :=
  let k := bankKey g
  let (rows, r, before) := rdtCount (rdtRows (chAt s g.ch) k) g.row who
  let s := pmuEvent s 1 g.ch 0x22
  let s := modCh s g.ch fun x => { x with
    openRow := tabSet none x.openRow k (some g.row)
    rdt := tabSet [] x.rdt k rows
    throttles := x.throttles.map fun t => if throttles t k who then { t with last := s.now } else t }
  let th := rdtThresh s g.ch
  if before < th ∧ th ≤ r.cnt then impose s g.ch k (bankByte g) (if r.n0 < r.n1 then r.tag1 else r.tag0) else s

/-- The row of a line is open in its bank. -/
def rowHit (s : State) (g : Geo) : Bool := tabGet none (chAt s g.ch).openRow (bankKey g) == some g.row

/-- One column command for a line: its row is activated where it is not open, and the class pays 64 bytes (R236, R239,
R274). `seat` is 1024 for the device requester. -/
def casLine (s : State) (line : Nat) (write : Bool) (qc seat : Nat) : State :=
  match geoOf s line with
  | none => s
  | some g =>
    let s := unIdle (unIdleFabric s) (14 + g.ch / 2)
    let s := if rowHit s g then s else activate s g (seat, qc)
    spendBudget (pmuEvent s 1 g.ch (if write then 0x21 else 0x20)) qc g.ch 64

/-- Column reads of several lines. -/
def casLines (s : State) (lines : List Nat) (write : Bool) (qc seat : Nat) : State :=
  lines.foldl (fun t l => casLine t l write qc seat) s

/-! ## The poison list (R265) -/

def srcInjected : Nat := 0
def srcMedia : Nat := 1
def srcTimeout : Nat := 2
def srcDetached : Nat := 3
def srcCeiling : Nat := 4
def srcCapacity : Nat := 5
def srcFabric : Nat := 6
def srcScrub : Nat := 7

/-- Some entry of the list covers the line. -/
def plHolds (s : State) (dla : Nat) : Bool :=
  s.plist.ents.any fun e => decide (e.dla ≤ dla) && decide (dla < e.dla + e.len)

/-- Makes an entry; a full list sets the overflow flag and keeps the time of the first entry not made. -/
def plAdd (s : State) (dla len src : Nat) : State :=
  if s.plist.ents.any (fun e => e.dla == dla && e.len == len) then s
  else if s.plist.ents.length < 4096 then
    { s with plist := { s.plist with ents := s.plist.ents ++ [{ dla := dla, len := len, src := src, us := us s }] } }
  else
    { s with
      plist := { s.plist with overflow := true, firstUs := some (s.plist.firstUs.getD (us s)) }
      passes := s.passes.map fun p => { p with refused := true } }

/-- Removes every entry that lies wholly in a range. -/
def plDropRange (s : State) (dla len : Nat) : State :=
  { s with plist := { s.plist with ents := s.plist.ents.filter fun e =>
      !(decide (dla ≤ e.dla) && decide (e.dla + e.len ≤ dla + len)) } }

/-! ## Reading (R256–R260) -/

/-- INT_CTL.LB_SIZE; 0 acts as 1 (R267). -/
def lbSize (s : State) (c : Nat) : Nat := max 1 (fld (regN s (chBase c + 0x8000)) 15 0)

/-- Seats that are link owners. -/
def ownerSeats (s : State) : List Nat := (s.seats.map (·.1)).filter (isOwner s)

/-- An overflow of the bucket (R260): counted, and a notice unless one was opened in the last 1 s. -/
def bucketOverflow (s : State) (c : Nat) : State :=
  let s := modCh s c fun x => { x with lbLevel := 0, lbOvf := true }
  let s := bump s (chBase c + 0x8014)
  let x := chAt s c
  let fresh := match x.notice with
    | some t => decide (s.now - t > 1000000000)
    | none => true
  if fresh then
    let s := modCh s c fun x => { x with notice := some s.now }
    let s := if bitOf (regN s (chBase c + 0x8000)) 16 then emit s (.mcIrq (0x2600 + c)) else s
    logEvFor s (srcOf (chBase c)) 0x6001 sevWarn
      (le 2 c ++ le 1 x.ceDev ++ le 1 x.ceRank ++ le 1 x.ceSub ++ le 1 x.ceBank ++ le 1 x.ceCol ++ le 3 x.ceRow ++
       le 4 (cntAt s (chBase c + 0x8014))) (ownerSeats s) []
  else s

/-- One corrected line that is not a poison line lifts the bucket (R260). -/
def bucketUp (s : State) (c : Nat) : State :=
  let l := (chAt s c).lbLevel + 1
  if lbSize s c < l then bucketOverflow s c else modCh s c fun x => { x with lbLevel := l }

/-- A correction, by any read (R258): counted and recorded; poison lines never enter the bucket. -/
def noteCorrected (s : State) (line dev : Nat) (syms : List Nat) (poison : Bool) : State :=
  match geoOf s line with
  | none => s
  | some g =>
    let s := bump s (chBase g.ch + 0x800C)
    let s := modCh s g.ch fun x => { x with
      ceV := true, ceDev := dev, ceSub := g.sub, ceRank := g.rank, ceCol := g.col, ceBits := corrBits syms,
      ceRow := g.row, ceBank := bankByte g }
    if poison then s else bucketUp s g.ch

/-- An uncorrectable line met by a demand read (R259): counted; the first in each channel in each 1 ms writes an ERR
event; where the line has a DLA it enters the poison list. -/
def noteUncorrectable (s : State) (line : Nat) (dla : Option Nat) : State :=
  let c := chOfLine s line
  let s := bump s (chBase c + 0x8010)
  let s :=
    if firstInMs s 259 c then
      match geoOf s line with
      | some g => logEv (markMs s 259 c) (srcOf (chBase c)) 0x6002 sevErr (le 2 c ++ le 1 g.rank ++ le 1 g.sub ++ le 8 (line * 64))
      | none => markMs s 259 c
    else s
  match dla with
  | some d => plAdd s (d / 64 * 64) 64 srcMedia
  | none => s

/-- The data bytes of the poison code word (R257). -/
def poisonBytes : List Byte := (List.range 64).map fun i => BitVec.ofNat 8 (0x5A ^^^ i)

/-- The data symbols of a stored line as it was written (R254): what the cipher gave, or the poison code word's. -/
def cipherBytes (x : Stored) : List Byte :=
  if x.poison then poisonBytes else xtsEnc (keySetOf x.key) x.gen x.idx x.data

/-- What the code word of a stored line tells: poison, uncorrectable, the line as written, or the data symbols of another code
word (a miscorrection, R256). Unwritten DRAM reads uncorrectable (R262). -/
inductive Word80 where
  | poison | uncorrectable
  | line (st : Stored)
  | other (data : List Byte)
  deriving DecidableEq, Repr

/-- Decodes a stored line with the errors the DIMM adds on this read: data symbols equal to the poison code word's are poison
(R257). -/
def decodeStored (st : Option Stored) (noise : List Byte) : Word80 × RsResult :=
  match st with
  | none => (.uncorrectable, .uncorrectable)
  | some x =>
    let e := errAdd x.err noise
    match rsDecode e with
    | .uncorrectable => (.uncorrectable, .uncorrectable)
    | r =>
      let left := errAfter e
      if left = [] then (if x.poison then .poison else .line x, r)
      else
        let d := (cipherBytes x).zipWith (· ^^^ ·) (left.drop 16)
        (if d = poisonBytes then .poison else .other d, r)

/-- What a line deciphers to (R171–R173): what was enciphered, under the same key set, generation and line index; under others
what XTS makes of it (DEDUCED, log entry 7: deciphering undoes enciphering). -/
def decipher (line key gen : Nat) (x : Stored) : List Byte :=
  if x.key = key ∧ x.gen = gen ∧ x.idx = line then lineOf x.data else xtsDec (keySetOf key) gen line (cipherBytes x)

/-- A demand read of a stored line (R258, R259): its 64 bytes, or none for poison. `dla` is what a poison-list entry
names. -/
def demandRead (s : State) (line : Nat) (st : Option Stored) (noise : List Byte) (key gen : Nat) (dla : Option Nat) :
    State × Option (List Byte) :=
  let (w, r) := decodeStored st noise
  let s := match r with
    | .corrected d syms => noteCorrected s line d syms (w == .poison)
    | _ => s
  match w with
  | .poison => (s, none)
  | .uncorrectable => (noteUncorrectable s line dla, none)
  | .line x => (s, some (decipher line key gen x))
  | .other b => (s, some (xtsDec (keySetOf key) gen line b))

/-! ## Writing (R257, R270) -/

/-- INT_INJ of a channel. -/
def injOf (s : State) (c : Nat) : Nat := regN s (chBase c + 0x8024)

/-- The error an armed injection adds to the next written line (R270). -/
def injError (inj : Nat) : List Byte :=
  if bitOf inj 31 then
    let d := min 9 (fld inj 11 8)
    let p := let p := fld inj 7 0; if p = 0 then 1 else p
    let e := devError d p
    if bitOf inj 29 then errAdd e (devError ((d + 1) % 10) p) else e
  else []

/-- A write is accepted: it cancels the write-back or the verify read that a scrub pass owes the line (R263). -/
def noteWritten (s : State) (line : Nat) : State :=
  { s with passes := s.passes.map fun p => match p.verify with
    | some v => if v.1 = line then { p with cancelled := true } else p
    | none => p }

/-- The armed injection has been spent on a line, unless STICKY (R270). -/
def injected (s : State) (c : Nat) : State :=
  let inj := injOf s c
  if bitOf inj 31 && !bitOf inj 30 then setReg s (chBase c + 0x8024) (word (inj % 2 ^ 31)) else s

/-- Writes an enciphered line: the injection applies, and disarms unless STICKY. A cipher output equal to the poison code
word's data is that code word (R257). -/
def writeLine (s : State) (line key gen : Nat) (data : List Byte) : State :=
  let c := chOfLine s line
  let inj := injOf s c
  injected (modDram (noteWritten s line) line fun _ =>
    some { poison := xtsEnc (keySetOf key) gen line (lineOf data) == poisonBytes, key := key, gen := gen, idx := line,
           data := lineOf data, err := injError inj }) c

/-- Writes the poison code word: never enciphered, never injected into (R257, R270). -/
def writePoison (s : State) (line : Nat) : State :=
  modDram (noteWritten s line) line fun _ => some { poison := true }

/-- The line in DRAM is the poison code word, apart from device errors. -/
def isPoison (s : State) (line : Nat) : Bool :=
  match dramAt s line with
  | some x => x.poison
  | none => false

end Sys2Proof.Machine
end

