-- ==== Sys2Proof/Machine/SkeinTab.lean ====
section
/-! DEFINITION. The skein table: windows and keys of hanks and pages (R123), entries and where DRAM holds them enciphered
(R123–R127, R170), the skein cache (R126, R129), the modes of a hank (R125), and writes to a page under demotion (R17). -/

namespace Sys2Proof.Machine

open Sys2Proof

/-! ## Windows and keys of hanks and pages -/

/-- Key of hank `off` of window `w`. -/
def hankKey (w off : Nat) : Nat := w * 0x1000000 + off

/-- Key of page `pg` of hank `off` of window `w`. -/
def pageKey (w off pg : Nat) : Nat := hankKey w off * 512 + pg

/-- The window whose DLA range holds a DLA (R61: at most one). -/
def winOfDla (s : State) (dla : Nat) : Option Nat :=
  (s.wins.find? fun e => e.2.size != 0 && decide (e.2.dlaHank ≤ dla / 0x200000) &&
    decide (dla / 0x200000 < e.2.dlaHank + e.2.size)).map (·.1)

/-- Hank offset of a DLA within window `w`. -/
def hankOff (s : State) (w dla : Nat) : Nat := dla / 0x200000 - (winAt s w).dlaHank

/-- Page number of a DLA within its hank. -/
def pageNo (dla : Nat) : Nat := dla / 0x1000 % 512

/-- DLA of the first byte of hank `off`. -/
def hankDla (s : State) (w off : Nat) : Nat := ((winAt s w).dlaHank + off) * 0x200000

/-- DLA of the first byte of a page. -/
def pageDla (s : State) (w off pg : Nat) : Nat := hankDla s w off + pg * 0x1000

/-- The skein slice that owns a hank (R123). -/
def sknSlice (dla : Nat) : Nat :=
  fld dla 24 21 ^^^ fld dla 28 25 ^^^ fld dla 32 29 ^^^ fld dla 36 33 ^^^ fld dla 40 37 ^^^ fld dla 44 41

/-- Home hank of hank `off` of a guaranteed window (R125). -/
def homeIn : List (Nat × Nat) → Nat → Nat
  | [], _ => 0
  | (b, n) :: t, off => if off < n then b + off else homeIn t (off - n)

/-- The hank entry of a window's hank before anything has changed it: UNMAPPED; in a guaranteed window with GUAR, its
HOME and FILL pending (R125). COLD counts the sweeps since its window was created (R133). -/
def hankFresh (epoch : Nat) (x : Win) (off : Nat) : Hank :=
  let cold := min 255 (epoch - x.born)
  if x.elastic then { cold := cold } else { guar := true, fill := true, home := homeIn x.homes off, cold := cold }

/-- Hank entry of hank `off` of window `w` (R124). -/
def hankAt (s : State) (w off : Nat) : Hank := (hankRaw s (hankKey w off)).getD (hankFresh s.carder.epoch (winAt s w) off)

/-- Changes a hank entry. -/
def modHank (s : State) (w off : Nat) (f : Hank → Hank) : State :=
  let h := f (hankAt s w off)
  modHankRaw s (hankKey w off) fun _ => if h = hankFresh s.carder.epoch (winAt s w) off then none else some h

/-! ## Entries (R124, R127) -/

def modeCode : Mode → Nat
  | .unmapped => 0
  | .direct => 1
  | .paged => 2

/-- A hank entry (R124). -/
def hankEntry (h : Hank) : Nat :=
  modeCode h.mode + b2n h.guar * 4 + b2n h.pin * 8 + b2n h.dirty * 16 + b2n h.fill * 32 + h.kgen % 16 * 2 ^ 8 +
  h.block % 2 ^ 30 * 2 ^ 16 + h.home % 2 ^ 22 * 2 ^ 64 + h.nhot % 1024 * 2 ^ 86 + h.ncomp % 1024 * 2 ^ 96 +
  h.cold % 256 * 2 ^ 112 + h.heat % 256 * 2 ^ 120

def tierCode : Tier → Nat
  | .unmapped => 0
  | .hot => 1
  | .compressed => 2

/-- LEN of the segments: seven bits each. -/
def lenBits : List Nat → Nat
  | [] => 0
  | n :: t => n % 128 + 128 * lenBits t

/-- A page entry (R127). -/
def pageEntry (p : Page) : Nat :=
  tierCode p.tier + b2n p.incomp * 4 + b2n p.promo * 8 + b2n p.demo * 16 + p.kgen % 16 * 2 ^ 8 + p.addr % 2 ^ 35 * 2 ^ 16 +
  p.pmask.toNat * 2 ^ 51 + p.rcnt % 16 * 2 ^ 59 + lenBits (p.len.take 8) * 2 ^ 64 + p.rep % 4 * 2 ^ 120

/-! ## Frames -/

/-- DRAM line index of the first line of a frame. -/
def frameLine (frame : Nat) : Nat := frame * 64

/-- Home frame of a page of a guaranteed hank. -/
def homeFrame (h : Hank) (pg : Nat) : Nat := h.home * 512 + pg

/-! ## The ledger's terms (R66, R123, R131) -/

def skeinReserve (d : Nat) : Nat := ceilDiv d 256
def growthReserve (p : Nat) : Nat := ceilDiv p 100
def hankTable (d : Nat) : Nat := ceilDiv d 131072

/-! ## Where DRAM holds the entries (R123)

The manual places the hank table in the growth reserve and says no more: the model puts it right below the skein area, which
is the top of DPA (DESIGN CHOICE, log entry 108). -/

/-- Place of a window's first entry in the hank table: windows stand in window-table order (R123). -/
def hankTableBase (s : State) (w : Nat) : Nat := s.wins.foldl (fun a e => if e.1 < w then a + e.2.size else a) 0

/-- DPA line index of the first line of the hank table. -/
def hankTableFirst (s : State) : Nat := (s.ledger.p - skeinReserve s.ledger.d - hankTable s.ledger.d) * 0x8000

/-- DPA line indices of the lines that hold a hank entry and a page entry. -/
def hankLine (s : State) (w off : Nat) : Nat := hankTableFirst s + (hankTableBase s w + off) / 4
def pageLine (s : State) (w off pg : Nat) : Nat := (hankAt s w off).block * 128 + pg / 4

/-- The hank whose entry is number `n` of the hank table. -/
def hankOfEntry (s : State) (n : Nat) : Option (Nat × Nat) :=
  (s.wins.find? fun e => decide (hankTableBase s e.1 ≤ n) && decide (n < hankTableBase s e.1 + e.2.size)).map fun e =>
    (e.1, n - hankTableBase s e.1)

/-- The 64 bytes of the hank table's line with entries `4 q` to `4 q + 3`, and of a page block's line. -/
def hankLineBytes (s : State) (q : Nat) : List Byte :=
  ([0, 1, 2, 3] : List Nat).flatMap fun j => le 16 (match hankOfEntry s (4 * q + j) with
    | some (w, off) => hankEntry (hankAt s w off)
    | none => 0)

def pageLineBytes (s : State) (w off q : Nat) : List Byte :=
  ([0, 1, 2, 3] : List Nat).flatMap fun j => le 16 (pageEntry (pageAt s (pageKey w off (4 * q + j))))

/-- What a line of the skein table deciphers to. -/
def tableBytes (s : State) (w off : Nat) (page : Option Nat) : List Byte :=
  match page with
  | some pg => pageLineBytes s w off (pg / 4)
  | none => hankLineBytes s ((hankTableBase s w + off) / 4)

/-- Line of an entry. -/
def entryLine (s : State) (w off : Nat) (page : Option Nat) : Nat :=
  match page with
  | some pg => pageLine s w off pg
  | none => hankLine s w off

/-- Writes an entry through (R124, R127): its line, enciphered under the metadata key with generation 0 (R170, R173). -/
def writeThrough (s : State) (w off : Nat) (page : Option Nat) : State :=
  match s.keys.metaKey with
  | some k => writeLine s (entryLine s w off page) k 0 (tableBytes s w off page)
  | none => s

/-- The stored line of an entry: the entries of `State.hanks` and `State.pages` are what it deciphers to. One that nothing
has written since the table was laid down is as the image's load left it. -/
def tableStored (s : State) (w off : Nat) (page : Option Nat) : Stored :=
  let line := entryLine s w off page
  { key := s.keys.metaKey.getD 0, gen := 0, idx := line, data := tableBytes s w off page,
    err := match dramAt s line with
      | some x => x.err
      | none => [] }

/-- Changes a hank entry and writes it through. -/
def putHank (s : State) (w off : Nat) (f : Hank → Hank) : State := writeThrough (modHank s w off f) w off none

/-- Changes fields of a page entry that are written through. -/
def putEntry (s : State) (w off pg : Nat) (f : Page → Page) : State :=
  writeThrough (modPage s (pageKey w off pg) f) w off (some pg)

/-! ## The skein cache (R123, R126) -/

/-- Key of the skein-cache entry of a hank, or of a page of it. -/
def entryKey (w off : Nat) (page : Option Nat) : Nat :=
  match page with
  | some p => 2 * pageKey w off p + 1
  | none => 2 * hankKey w off

/-- Window, hank offset and page of a skein-cache key. -/
def hankOfKey (k : Nat) : Nat := if k % 2 = 0 then k / 2 else k / 2 / 512
def ofEntryKey (k : Nat) : Nat × Nat × Option Nat :=
  (hankOfKey k / 0x1000000, hankOfKey k % 0x1000000, if k % 2 = 0 then none else some (k / 2 % 512))

/-- Slice that caches an entry. -/
def sliceOfKey (s : State) (k : Nat) : Nat := sknSlice (hankDla s (hankOfKey k / 0x1000000) (hankOfKey k % 0x1000000))

/-- An entry is pinned (R126). -/
def pinnedKey (s : State) (k : Nat) : Bool := k % 2 == 0 && (hankAt s (hankOfKey k / 0x1000000) (hankOfKey k % 0x1000000)).pin

/-- Evicts an entry: HEAT and COLD of a hank reach DRAM (R124), RCNT and REP of a page are gone (R127). -/
def evictKey (s : State) (k : Nat) : State :=
  let (w, off, page) := ofEntryKey k
  let s := match page with
    | some pg => modPage s (pageKey w off pg) fun p => { p with rcnt := 0, rep := 0 }
    | none => writeThrough s w off none
  modCached s k fun _ => false

/-- Entries a slice can hold: 2 MiB of 16 bytes (R25, R126). -/
def sliceEntries : Nat := 131072

/-- An entry enters its slice's cache. A full slice evicts an entry that is not pinned; the manual names no replacement
policy, and which one goes is a free value (log entry 85). -/
def cachePut (s : State) (k : Nat) : State :=
  if cached s k then s
  else
    let n := sliceOfKey s k
    let here := (s.skein.filter fun e => e.2 && sliceOfKey s e.1 == n).map (·.1)
    let s :=
      if here.length < sliceEntries then s
      else
        let may := here.filter fun e => !pinnedKey s e
        evictKey (nextFree s) (may.getD (Config.freeNat s.free % max 1 may.length) k)
    modCached s k fun _ => true

/-- Both entries of a page are in the cache. -/
def cachePage (s : State) (w off pg : Nat) : State := cachePut (cachePut s (entryKey w off none)) (entryKey w off (some pg))

/-- The lowest page block of the skein area that no hank holds; blocks are numbered from the top of DPA (log entry 108). -/
def allocBlock (s : State) : Nat :=
  let top := s.ledger.p * 256
  let taken := sortNat (s.hanks.filterMap fun e =>
    match e.2 with
    | some h => if h.mode = .paged then some (top - 1 - h.block) else none
    | none => none)
  top - 1 - firstGap 0 taken


/-- Key slot of a window. -/
def slotOf (s : State) (w : Nat) : Slot := slotAt s (winAt s w).keySlot

/-! ## Page entries -/

/-- Pages of the hot tier and of the compressed tier that a tier counts as. -/
def tierHot (t : Tier) : Nat := if t = .hot then 1 else 0
def tierComp (t : Tier) : Nat := if t = .compressed then 1 else 0

/-- The device acts as the primary of a mirrored window: until it sends HANDOVER where its role is to become secondary, and
from HANDOVER on where it is to become primary (R337, R348). -/
def mirrorPrimary (s : State) (w : Nat) : Bool :=
  let x := winAt s w
  x.mirror != 0 && (x.sendHand || !(x.secondary || x.waitHand))

/-- DIRTY of a hank entry after a tier or metadata change: set in a mirrored window that is not in SYNC (R339). -/
def dirtyNow (s : State) (w : Nat) (h : Hank) : Bool := h.dirty || (mirrorPrimary s w && (winAt s w).ms != .sync)

/-- Page entry of a hank: in a DIRECT hank every page is HOT in its home frame under the hank's generation. -/
def pageOf (s : State) (w off pg : Nat) : Page :=
  let h := hankAt s w off
  match h.mode with
  | .unmapped => {}
  | .direct => { tier := .hot, addr := homeFrame h pg, kgen := h.kgen }
  | .paged => pageAt s (pageKey w off pg)

/-- Writes a page entry of a PAGED hank through, keeping NHOT and NCOMP. -/
def putPage (s : State) (w off pg : Nat) (p : Page) : State :=
  let o := pageAt s (pageKey w off pg)
  let s := putEntry s w off pg fun _ => p
  putHank s w off fun h => { h with
    nhot := h.nhot - tierHot o.tier + tierHot p.tier
    ncomp := h.ncomp - tierComp o.tier + tierComp p.tier
    dirty := dirtyNow s w h }

/-- Writes the 128 lines of a hank's page block. -/
def writeBlock (s : State) (w off : Nat) : State :=
  (List.range 128).foldl (fun t q => writeThrough t w off (some (4 * q))) s

/-- Makes an UNMAPPED hank PAGED, with a page block of 512 UNMAPPED entries. -/
def makePaged (s : State) (w off : Nat) : State :=
  if (hankAt s w off).mode = .unmapped then
    let b := allocBlock s
    let s := modHank s w off fun h => { h with
      mode := .paged, block := b, nhot := 0, ncomp := 0, dirty := dirtyNow s w h }
    writeThrough (writeBlock s w off) w off none
  else s

/-- A DIRECT hank becomes PAGED, with 512 HOT entries that point at the home frames (R125). -/
def directToPaged (s : State) (w off : Nat) : State :=
  let h := hankAt s w off
  if h.mode = .direct then
    let b := allocBlock s
    let s := (List.range 512).foldl (fun t pg =>
      modPage t (pageKey w off pg) fun _ => { tier := .hot, addr := homeFrame h pg, kgen := h.kgen }) s
    let s := modHank s w off fun h => { h with
      mode := .paged, block := b, kgen := 0, nhot := 512, ncomp := 0, dirty := dirtyNow s w h }
    writeThrough (writeBlock s w off) w off none
  else s

/-- A guaranteed hank whose 512 pages are all HOT becomes DIRECT and frees its page block; a hank of a PIN window is
then pinned (R125, R126). Its pages must carry one generation, no tier change may be running in it, and a REKEY must not be
within it (R178). -/
def tryDirect (s : State) (w off : Nat) : State :=
  let h := hankAt s w off
  let g := (pageAt s (pageKey w off 0)).kgen
  let walked := match (slotOf s w).cursor with
    | some (o, _, _) => o == off
    | none => false
  if h.guar && h.mode = .paged && h.nhot == 512 && !walked &&
      (List.range 512).all fun pg =>
        let p := pageAt s (pageKey w off pg)
        p.kgen == g && !p.promo && !p.demo then
    let s := (List.range 512).foldl (fun t pg => modPage t (pageKey w off pg) fun _ => {}) s
    let s := if (winAt s w).pin then cachePut s (entryKey w off none) else s
    putHank s w off fun h => { h with mode := .direct, fill := false, kgen := g, block := 0, nhot := 512,
                                      pin := (winAt s w).pin, dirty := dirtyNow s w h }
  else s

/-! ## Writes to a page under demotion (R17, R137) -/

/-- Any write to a page clears INCOMP, and cancels a demotion in progress: the hot copy stays authoritative and the
partial encoding is discarded (R17, R137). -/
def writeTouch (s : State) (w off pg : Nat) : State :=
  let pk := pageKey w off pg
  if (hankAt s w off).mode = .paged then
    let p := pageAt s pk
    if p.demo then
      let s := putEntry s w off pg fun p => { p with demo := false, incomp := false }
      let s := dropJobs { s with carder := { s.carder with demo := s.carder.demo.filter fun d => d.key != pk } } (· == .demo pk)
      tryDirect (bump s (cardBase + 0x48)) w off
    else if p.incomp then putEntry s w off pg fun p => { p with incomp := false }
    else s
  else s

/-- A write reaches a DLA without passing the skein slice: a merge-buffer flush (R17). -/
def touchDla (s : State) (dla : Nat) : State :=
  match winOfDla s dla with
  | some w => writeTouch s w (hankOff s w dla) (pageNo dla)
  | none => s

end Sys2Proof.Machine
end

