-- ==== Sys2Proof/Machine/Merge.lean ====
section
/-! DEFINITION. The merge buffer (R241). -/

namespace Sys2Proof.Machine

open Sys2Proof

/-- The merge entry of a line, if its channel holds one. -/
def mergeOf (s : State) (line : Nat) : Option Merge :=
  (chAt s (chOfLine s line)).merge.find? fun e => e.line == line

def dropMerge (s : State) (c line : Nat) : State :=
  modCh s c fun x => { x with merge := x.merge.filter fun e => e.line != line }

/-- Flushes an entry: a full write when its mask is full, else read-modify-write. Poison stays poison; an
uncorrectable line becomes poison. Like any write it cancels a demotion of its page (R17). -/
def flushEntry (s : State) (c : Nat) (e : Merge) (noise : List Byte) : State :=
  let s := touchDla (dropMerge s c e.line) e.dla
  if e.mask = BitVec.allOnes 64 then writeLine (casLine s e.line true e.qc e.seat) e.line e.key e.gen e.data
  else
    let s := casLine (casLine (bump s (chBase c + 0x58)) e.line false e.qc e.seat) e.line true e.qc e.seat
    match demandRead s e.line (dramAt s e.line) noise e.key e.gen (some e.dla) with
    | (s, some old) => writeLine s e.line e.key e.gen (mergeBytes e.mask e.data old)
    | (s, none) => writePoison s e.line

/-- Flushes the merge entry of a line, if there is one, before a read of it. -/
def flushLine (s : State) (line : Nat) (noise : List Byte) : State :=
  match mergeOf s line with
  | some e => flushEntry s (chOfLine s line) e noise
  | none => s

/-- Flushes every entry of a channel, oldest first, before it leaves ONLINE (R241, R242). -/
def flushAll (s : State) (c : Nat) : State :=
  (chAt s c).merge.foldl (fun t e => flushEntry t c e []) s

/-- A partial write enters the merge buffer: it joins its line's entry, or takes one; when all 64 are in use the oldest
is flushed; a mask that fills is written at once. -/
def mergePut (s : State) (e : Merge) : State :=
  let c := chOfLine s e.line
  let s := noteWritten s e.line
  match mergeOf s e.line with
  | some o =>
    let n : Merge := { o with mask := o.mask ||| e.mask, data := mergeBytes e.mask e.data o.data, key := e.key, gen := e.gen }
    if n.mask = BitVec.allOnes 64 then flushEntry s c n []
    else modCh s c fun x => { x with merge := x.merge.map fun y => if y.line == e.line then n else y }
  | none =>
    let s := if (chAt s c).merge.length < 64 then s
      else match (chAt s c).merge with
        | o :: _ => flushEntry s c o []
        | [] => s
    if e.mask = BitVec.allOnes 64 then writeLine (casLine s e.line true e.qc e.seat) e.line e.key e.gen e.data
    else modCh s c fun x => { x with merge := x.merge ++ [e] }

/-- A full-line write discards the line's merge entry (R241). -/
def fullWrite (s : State) (line key gen : Nat) (data : List Byte) : State :=
  writeLine (dropMerge s (chOfLine s line) line) line key gen data

/-- A poison write of a line discards its merge entry. -/
def poisonLine (s : State) (line : Nat) : State :=
  writePoison (dropMerge s (chOfLine s line) line) line

/-- The 64 bytes that a read of a line under a key and a generation would give now, or none for poison: nothing is counted. -/
def lineNow (s : State) (line key gen : Nat) : Option (List Byte) :=
  let below := match (decodeStored (dramAt s line) []).1 with
    | .line x => some (decipher line key gen x)
    | .other b => some (xtsDec (keySetOf key) gen line b)
    | _ => none
  match mergeOf s line with
  | some e => below.map (mergeBytes e.mask e.data)
  | none => below

end Sys2Proof.Machine
end

