-- ==== Sys2Proof/Machine/Skein.lean ====
section
/-! DEFINITION. The skein table, the storage pools and the pressure level: R66, R69, R123–R140, R173. -/

namespace Sys2Proof.Machine

open Sys2Proof

/-! ## The shared pool (R131) -/

/-- Hanks of the shared pool that may hold frames or runs: without the hank table and the working floor (R131). -/
def poolHanks (s : State) : Nat :=
  s.ledger.p - s.ledger.g - skeinReserve s.ledger.d - hankTable s.ledger.d - 1

/-- Hanks of the shared pool in use, the floor hank that has been drawn on not counted. -/
def poolUsed (s : State) : Nat := (s.used.filter fun e => s.carder.drawn != some e.1).length

/-- Free hanks of the shared pool counted in F. While no floor is held or drawn on there is one more to hold. -/
def freeHanks (s : State) : Nat := poolHanks s - poolUsed s

/-- Runs of class `k` in a hank (R131). -/
def runsPerHank (k : Nat) : Nat := 8192 / k

/-- Granules free within a used hank. -/
def freeIn (u : HankUse) : Nat :=
  match u with
  | .frames taken => 16 * (512 - taken.length)
  | .runs k taken => k * (runsPerHank k - taken.length)

/-- The free count F (R132). -/
def freeF (s : State) : Nat :=
  8192 * freeHanks s + (s.used.foldl (fun a e =>
    match e.2 with
    | some u => if s.carder.drawn == some e.1 then a else a + freeIn u
    | none => a) 0)

/-- R − HT, in hanks (R145). -/
def redHanks (s : State) : Nat := growthReserve s.ledger.p - hankTable s.ledger.d

/-- The level whose range holds F, the thresholds raised by `h` (R132). -/
def levelOf (s : State) (f h : Nat) : Nat :=
  let tr := 8192 * redHanks s
  let ta := tr + 8192 * fld (regN s (cardBase + 0x20)) 24 0
  if f < 8192 + h then 3 else if f < tr + h then 2 else if f < ta + h then 1 else 0

/-- Severity on entry to a level (R69). -/
def levelSev (l : Nat) : Nat := if l = 0 then sevInfo else if l = 1 then sevWarn else if l = 2 then sevErr else sevFatal

/-- The seats that reach a window. -/
def winSeats (s : State) (w : Nat) : List Nat :=
  let x := winAt s w
  if x.group then groupAt s x.owner else [x.owner]

/-- Seats that hold an elastic window (R69). -/
def elasticSeats (s : State) : List Nat :=
  sortNat (s.wins.flatMap fun e => if e.2.size != 0 && e.2.elastic then winSeats s e.1 else [])

/-- The most recently added extent among the online elastic DC blocks that a seat reaches (R69). -/
def lastExtent (s : State) (seat : Nat) : Option Nat :=
  s.blocks.foldl (fun a b =>
    if b.2.st == 2 && (winAt s b.2.win).elastic && (winSeats s b.2.win).contains seat then
      some (max b.2.ext (a.getD 0)) else a) none

/-- The release requests of AMBER (R69, R72): each seat with online elastic DC blocks, for its most recent extent. -/
def amberRequests (s : State) : State :=
  (elasticSeats s).foldl (fun t seat =>
    match lastExtent t seat with
    | some e => emit t (.hostEvent seat 0x72 [e])
    | none => t) s

/-- The level is evaluated again at every change of F and of the thresholds (R132). -/
def evalLevel (s : State) : State :=
  if s.ledger.p = 0 then s
  else
    let f := freeF s
    let cur := s.ledger.level
    let worse := levelOf s f 0
    let better := levelOf s f (8192 * fld (regN s (cardBase + 0x24)) 15 0)
    let nxt := if cur < worse then worse else if better < cur then better else cur
    if nxt = cur then s
    else
      let s := { s with ledger := { s.ledger with level := nxt, blackSeen := false } }
      let s := logEvFor s (srcOf cardBase) 0x2002 (levelSev nxt) (le 1 nxt ++ le 4 (f / 8192)) (elasticSeats s) []
      let s := (elasticSeats s).foldl (fun t seat => emit t (.hostEvent seat 0x69 [nxt, f / 8192])) s
      if nxt = 1 then amberRequests s else s

/-! ## Allocation in the shared pool (R131)

The manual does not say which of several free hanks, frames or runs an allocation takes. The model takes an open hank
of the right kind before a free hank, and the lowest number (DESIGN CHOICE, log entry 8). -/

/-- Intervals of physical hanks taken by home hanks and by the shared pool's used hanks, in rising order. -/
def takenRuns (s : State) : List (Nat × Nat) :=
  let ins := fun (l : List (Nat × Nat)) (r : Nat × Nat) =>
    l.takeWhile (fun x => decide (x.1 < r.1)) ++ r :: l.dropWhile (fun x => decide (x.1 < r.1))
  let a := s.wins.foldl (fun l e => e.2.homes.foldl ins l) []
  s.used.foldl (fun l e => ins l (e.1, 1)) a

/-- The lowest hank number not below `n` outside rising intervals. -/
def gapFrom : Nat → List (Nat × Nat) → Nat
  | n, [] => n
  | n, (b, c) :: t => if n < b then n else gapFrom (max n (b + c)) t

/-- Runs of free physical hanks for `need` home hanks, from the lowest number up. -/
def homeRuns : Nat → Nat → List (Nat × Nat) → List (Nat × Nat)
  | n, need, [] => if need = 0 then [] else [(n, need)]
  | n, need, (b, c) :: t =>
    if need = 0 then []
    else if n < b then
      let k := min need (b - n)
      (n, k) :: homeRuns (b + c) (need - k) t
    else homeRuns (max n (b + c)) need t

/-- The lowest number below `n` that a list does not hold. -/
def lowestFree (n : Nat) (taken : List Nat) : Option Nat := (List.range n).find? fun i => !taken.contains i

/-- Makes a free hank of the pool a hank of the given kind. -/
def openHank (s : State) (u : HankUse) : State × Nat :=
  let h := gapFrom 0 (takenRuns s)
  (modUsed s h fun _ => some u, h)

/-- A free frame of the shared pool that is counted in F: its frame number. -/
def allocFrame (s : State) : State × Option Nat :=
  let cand := s.used.find? fun e => s.carder.drawn != some e.1 &&
    match e.2 with
    | some (.frames t) => decide (t.length < 512)
    | _ => false
  match cand with
  | some (h, some (.frames t)) =>
    match lowestFree 512 t with
    | some i => (evalLevel (modUsed s h fun _ => some (.frames (i :: t))), some (h * 512 + i))
    | none => (s, none)
  | _ =>
    if 0 < freeHanks s then
      let (s, h) := openHank s (.frames [0])
      (evalLevel s, some (h * 512))
    else (s, none)

/-- A free frame exists that is counted in F. -/
def frameFree (s : State) : Bool := decide (0 < freeHanks s) || s.used.any fun e => s.carder.drawn != some e.1 &&
  match e.2 with
  | some (.frames t) => decide (t.length < 512)
  | _ => false

/-- A run of class `k`: its first granule. The working floor serves only while the level is BLACK (R131, R137). -/
def allocRun (s : State) (k : Nat) : State × Option Nat :=
  let black := s.ledger.level == 3
  let cand := s.used.find? fun e => (black || s.carder.drawn != some e.1) &&
    match e.2 with
    | some (.runs j t) => j == k && decide (t.length < runsPerHank k)
    | _ => false
  match cand with
  | some (h, some (.runs _ t)) =>
    match lowestFree (runsPerHank k) t with
    | some i => (evalLevel (modUsed s h fun _ => some (.runs k (i :: t))), some (h * 8192 + i * k))
    | none => (s, none)
  | _ =>
    if 0 < freeHanks s then
      let (s, h) := openHank s (.runs k [0])
      (evalLevel s, some (h * 8192))
    else if black && s.carder.floor then
      let (s, h) := openHank s (.runs k [0])
      (evalLevel { s with carder := { s.carder with floor := false, drawn := some h } }, some (h * 8192))
    else (s, none)

/-- A used hank has changed: one that is wholly free returns to the pool, or becomes the new working floor when the old
one has been drawn on (R131). -/
def hankFreed (s : State) (h : Nat) (u : HankUse) : State :=
  let empty := match u with
    | .frames t => t.isEmpty
    | .runs _ t => t.isEmpty
  if empty then
    let s := modUsed s h fun _ => none
    evalLevel (if s.carder.floor || s.carder.drawn.isNone then s
      else { s with carder := { s.carder with floor := true, drawn := none } })
  else evalLevel (modUsed s h fun _ => some u)

/-- Frees a frame of the shared pool. -/
def freeFrame (s : State) (frame : Nat) : State :=
  match usedAt s (frame / 512) with
  | some (.frames t) => hankFreed s (frame / 512) (.frames (t.filter (· != frame % 512)))
  | _ => s

/-- Frees the run that starts at a granule. -/
def freeRun (s : State) (granule : Nat) : State :=
  match usedAt s (granule / 8192) with
  | some (.runs k t) => hankFreed s (granule / 8192) (.runs k (t.filter (· != granule % 8192 / k)))
  | _ => s

/-! ## Keys and generations of a line (R173, R177) -/

/-- Generation of a line of a unit, the REKEY cursor considered: lines of the unit being converted that lie below the
cursor use GEN. -/
def genOfLine (s : State) (w off : Nat) (page : Option Nat) (line kgen : Nat) : Nat :=
  let k := slotOf s w
  match k.cursor with
  | some (o, p, nxt) => if k.st = .rekeying && o == off && p == page && decide (line < nxt) then k.gen else kgen
  | none => kgen

/-- The key set the slot holds for a generation. -/
def keyOfGen (s : State) (w gen : Nat) : Nat :=
  let k := slotOf s w
  if gen = k.gen then k.cur else k.old.getD k.cur

/-- A line as a read finds it now. -/
def snapOf (s : State) (w off : Nat) (page : Option Nat) (kgen line : Nat) : Snap :=
  let g := genOfLine s w off page line kgen
  { line := line, st := dramAt s line, key := keyOfGen s w g, gen := g }

/-- Both copies of the window's key, or of the metadata key, have failed (R266). -/
def keyLost (s : State) (w : Nat) : Bool := (slotOf s w).failed || s.keys.metaFail

/-- Writes 64 zero lines into a frame. -/
def zeroFrame (s : State) (frame key gen qc : Nat) : State :=
  (List.range 64).foldl (fun t i =>
    fullWrite (casLine t (frameLine frame + i) true qc 1024) (frameLine frame + i) key gen zeroLine) s

/-- An UNMAPPED page becomes HOT in a frame of zeros under the slot's generation (R70, R125, R175). -/
def mapHotZero (s : State) (w off pg frame qc : Nat) : State :=
  let k := slotOf s w
  let s := zeroFrame (makePaged s w off) frame k.cur k.gen qc
  let s := putPage s w off pg { tier := .hot, addr := frame, kgen := k.gen }
  let s := putHank s w off fun h => { h with fill := h.fill && h.nhot + h.ncomp != 512 }
  tryDirect (cachePage s w off pg) w off

/-- Segments of a page that hold a DLA line. -/
def segOf (dla : Nat) : Nat := dla / 512 % 8

/-- First byte of segment `i` in its run, and its stored bytes (R128). -/
def segStart (len : List Nat) (i : Nat) : Nat := 8 * (len.take i).foldl (· + ·) 0
def segBytes (len : List Nat) (i : Nat) : Nat := 8 * len.getD i 0

/-- Granules of a run (R128). -/
def runGranules (len : List Nat) : Nat := ceilDiv (len.foldl (· + ·) 0) 32

/-! ## Lookup (R129, R130) -/

/-- Why, or to what, a lookup resolves. -/
inductive Look where
  | missHank | missPage
  | lost
  | zeros | poison | badLen
  | hot (line kgen : Nat) (page : Option Nat)
  | comp (granule off len kgen : Nat)
  deriving DecidableEq, Repr

/-- The range a DLA lies in has been lost to an uncorrectable skein entry (R130). -/
def isLost (s : State) (w off pg : Nat) : Bool :=
  s.lost.contains (2 * hankKey w off) || s.lost.contains (2 * pageKey w off pg + 1)

/-- Resolves a DLA of window `w` (R129). -/
def skeinLook (s : State) (w dla : Nat) : Look :=
  let off := hankOff s w dla
  let pg := pageNo dla
  if isLost s w off pg then .lost
  else if !cached s (2 * hankKey w off) then .missHank
  else
    let h := hankAt s w off
    match h.mode with
    | .unmapped => .zeros
    | .direct => .hot (h.home * 0x8000 + dla / 64 % 0x8000) h.kgen none
    | .paged =>
      if !cached s (2 * pageKey w off pg + 1) then .missPage
      else
        let p := pageAt s (pageKey w off pg)
        match p.tier with
        | .unmapped => .zeros
        | .hot => .hot (frameLine p.addr + dla / 64 % 64) p.kgen (some pg)
        | .compressed =>
          let i := segOf dla
          let l := p.len.getD i 0
          if p.pmask.getLsbD i then .poison
          else if l = 0 then .zeros
          else if l ≤ 56 ∨ l = 64 then .comp p.addr (segStart p.len i) l p.kgen
          else .badLen

/-- Lookup as if every entry were in the skein cache. -/
def skeinPeek (s : State) (w dla : Nat) : Look :=
  let off := hankOff s w dla
  skeinLook (modCached (modCached s (2 * hankKey w off) fun _ => true) (2 * pageKey w off (pageNo dla) + 1) fun _ => true) w dla

/-- DPA line indices of the run that overlap `n` bytes at `off` of it. -/
def runLines (granule off n : Nat) : List Nat :=
  let first := off / 64
  let last := (off + n + 63) / 64
  (List.range (last - first)).map fun i => granule * 4 + first + i

/-- Counts a hit or a miss of the slice (R146, R446). -/
def countLook (s : State) (dla : Nat) (hit : Bool) : State :=
  let n := sknSlice dla
  let s := unIdle s 23
  if hit then pmuEvent (bump s (sknBase n + 8)) 3 n 0x40 else pmuEvent (bump s (sknBase n + 0xC)) 3 n 0x41

/-- The DRAM copy of an entry is uncorrectable: the range it maps is lost, and one FATAL event says so (R130). -/
def loseRange (s : State) (w off : Nat) (page : Option Nat) : State :=
  let k := entryKey w off page
  if s.lost.contains k then s
  else
    let dla := match page with
      | some p => pageDla s w off p
      | none => hankDla s w off
    let s := { s with lost := insertNat k s.lost }
    logEvFor s (srcOf (sknBase (sknSlice dla))) 0x5001 sevFatal (le 2 w ++ le 8 dla ++ kindByte 130 1) [] [w]

/-- Fetches an entry from DRAM as a read of class QC0 (R129): it enters the cache, or its range is lost where the line is
uncorrectable, as it stands or (`bad`) as the DIMM returns it on this read. -/
def fetchKey (s : State) (w off : Nat) (page : Option Nat) (bad : Bool) : State :=
  let line := entryLine s w off page
  let st := if bad then none else some (tableStored s w off page)
  match demandRead (casLine s line false 0 1024) line st [] (s.keys.metaKey.getD 0) 0 none with
  | (s, some _) => cachePut s (entryKey w off page)
  | (s, none) => loseRange s w off page

/-- The entries of a line that an agent asks for are fetched where they are not in the skein cache: it waits for no
event (R129). -/
def agentFetch (s : State) (w dla : Nat) : State :=
  let off := hankOff s w dla
  let s := if skeinLook s w dla = .missHank then fetchKey s w off none false else s
  if skeinLook s w dla = .missPage then fetchKey s w off (some (pageNo dla)) false else s

/-- A lookup of an agent, counted: a miss for each entry that must be fetched, else a hit (R129, R146). -/
def agentLook (s : State) (w dla : Nat) : State × Look :=
  let first := skeinLook s w dla
  let s := match first with
    | .missHank =>
      let t := agentFetch (countLook s dla false) w dla
      if (hankAt s w (hankOff s w dla)).mode = .paged && !cached s (entryKey w (hankOff s w dla) (some (pageNo dla))) then
        countLook t dla false
      else t
    | .missPage => agentFetch (countLook s dla false) w dla
    | .lost => s
    | _ => countLook s dla true
  (s, skeinLook s w dla)

/-- The CDAT of each of a seat's functions is rebuilt: its change indication is raised (R41). -/
def cdatSeat (s : State) (seat : Nat) : State :=
  (seatFns s seat).foldl (fun t f => modFn t (fnKey f) fun y => { y with cdatChg := true }) s

/-- A Dynamic Capacity change has altered a window (R41). -/
def cdatChange (s : State) (w : Nat) : State := (winSeats s w).foldl cdatSeat s

/-! ## Heat (R133) -/

/-- Counts an access to a mapped hank, and samples it. -/
def sampleHeat (s : State) (w dla : Nat) : State :=
  let off := hankOff s w dla
  if (hankAt s w off).mode = .unmapped then s
  else
    let n := sknSlice dla
    let c := (accAt s n + 1) % 0x10000
    let s := modAcc s n fun _ => c
    if c % 2 ^ fld (regN s (cardBase + 4)) 3 0 = 0 then
      modHank s w off fun h => { h with heat := min 255 (h.heat + 1) }
    else s

/-! ## Tier triggers (R134, R16) -/

/-- The page is in the promotion queue. -/
def promoQueued (s : State) (pk : Nat) : Bool := s.carder.promo.any fun p => p.key == pk

/-- A compaction move of a page that has not switched is cancelled: its copy is discarded and its target freed (R138). -/
def cancelMove (s : State) (pk : Nat) : State :=
  let mine := s.carder.moves.filter fun m => m.key == pk && !m.switched
  let s := { s with carder := { s.carder with moves := s.carder.moves.filter fun m => m.key != pk || m.switched } }
  mine.foldl (fun t m => if m.isRun then freeRun t m.newAddr else freeFrame t m.newAddr) (dropJobs s (· == .move pk))

/-- Puts a page into the promotion queue and sets PROMO. -/
def queuePromo (s : State) (w off pg : Nat) (why : Trigger) : State :=
  let pk := pageKey w off pg
  let s := putEntry (cancelMove s pk) w off pg fun p => { p with promo := true }
  let qc := match why with
    | .write qc => qc
    | _ => tierClass s
  let s := queueUnit s (.promo pk) 2 qc (sknSlice (pageDla s w off pg))
  { s with carder := { s.carder with
      promo := s.carder.promo ++ [{ key := pk, why := why }] } }

/-- Pages in the queue of read-triggered promotions: write-triggered ones stand outside it (R134). -/
def promoQ (s : State) : Nat := (s.carder.promo.filter fun p => match p.why with | .write _ => false | _ => true).length

/-- A read trigger is allowed (R135). -/
def readTrigOk (s : State) (w : Nat) : Bool :=
  decide (promoQ s < 4096) &&
  (!(winAt s w).elastic || (decide (s.ledger.level < 2) && frameFree s))

/-- A compressed-tier read of a page: counted in RCNT, and the trigger raised (R134). -/
def readTrigger (s : State) (w off pg : Nat) : State :=
  let pk := pageKey w off pg
  let ep := s.carder.epoch % 4
  let s := modPage s pk fun p =>
    let p := if p.rep = ep then p else { p with rcnt := 0, rep := ep }
    { p with rcnt := min 15 (p.rcnt + 1) }
  let p := pageAt s pk
  let reads := fld (regN s (cardBase + 8)) 3 0
  if reads ≠ 0 ∧ reads ≤ p.rcnt ∧ p.promo = false ∧ readTrigOk s w = true then queuePromo s w off pg .read else s

/-- Write-triggered promotions a slice holds (R134). -/
def writePromos (s : State) (n : Nat) : Nat :=
  (s.carder.promo.filter fun p => match p.why with
    | .write _ => sknSlice (pageDla s (p.key / 512 / 0x1000000) (p.key / 512 % 0x1000000) (p.key % 512)) == n
    | _ => false).length

/-! ## Poison at segment grain (R140) -/

/-- Sets the PMASK bit of the segment that holds a line; an UNMAPPED page first becomes COMPRESSED with every LEN 0 and
no run. -/
def poisonSegment (s : State) (w dla : Nat) : State :=
  let off := hankOff s w dla
  let pg := pageNo dla
  let s := makePaged s w off
  let p := pageAt s (pageKey w off pg)
  let p := if p.tier = .unmapped then { p with tier := .compressed, len := List.replicate 8 0, kgen := (slotOf s w).gen } else p
  cachePage (putPage s w off pg { p with pmask := p.pmask ||| (1#8 <<< segOf dla) }) w off pg

/-- An elastic write that cannot get its frame: its segment is poisoned, the count and the first FATAL event since the
level was entered are made (R140), and the segment enters the poison list (R265). -/
def blackWrite (s : State) (w dla : Nat) : State :=
  let s := bump (poisonSegment s w dla) (cardBase + 0x50)
  let s := plAdd s (dla / 512 * 512) 512 srcCapacity
  if s.ledger.blackSeen then s
  else
    logEvFor { s with ledger := { s.ledger with blackSeen := true } } (srcOf cardBase) 0x5001 sevFatal
      (le 2 w ++ le 8 dla ++ kindByte 140 0) [] [w]

/-! ## Where a write goes (R16, R139) -/

/-- What becomes of a write at the skein slice. -/
inductive Target where
  /-- It waits: an entry must be fetched, or a promotion or move must end, or a place for a promotion must free. -/
  | wait
  /-- It completes with its data discarded. -/
  | discard
  | hot (line key gen : Nat)
  deriving DecidableEq, Repr

/-- A compaction move of the page's frame has not switched yet: writes wait (R138). -/
def moving (s : State) (pk : Nat) : Bool := s.carder.moves.any fun m => m.key == pk && !m.switched

/-- A hot line with the key set and generation that a write uses. -/
def hotTarget (s : State) (w dla line kgen : Nat) (page : Option Nat) : Target :=
  let g := genOfLine s w (hankOff s w dla) page line kgen
  .hot line (keyOfGen s w g) g

/-- Resolves a write at its skein slice. `qc` is its class. -/
def writeTarget (s : State) (w dla qc : Nat) : State × Target :=
  let off := hankOff s w dla
  let pg := pageNo dla
  let pk := pageKey w off pg
  if keyLost s w then (s, .discard)
  else match skeinLook s w dla with
    | .lost => (s, .discard)
    | .missHank => (s, .wait)
    | .missPage => (s, .wait)
    | .hot line kgen page =>
      if moving s pk then (s, .wait)
      else
        let s := writeTouch s w off pg
        (s, hotTarget s w dla line kgen (if (hankAt s w off).mode = .direct then none else page))
    | r =>
      let h := hankAt s w off
      let p := pageOf s w off pg
      if p.tier = .compressed then
        if promoQueued s pk then (s, .wait)
        else if !h.guar && !frameFree s then (blackWrite s w dla, .discard)
        else if writePromos s (sknSlice dla) < 64 then (queuePromo s w off pg (.write qc), .wait)
        else (s, .wait)
      else if r = .zeros then
        if h.guar then
          let s := mapHotZero s w off pg (homeFrame h pg) qc
          let k := slotOf s w
          (s, .hot (frameLine (homeFrame h pg) + dla / 64 % 64) k.cur k.gen)
        else
          match allocFrame s with
          | (s, some f) =>
            let s := mapHotZero s w off pg f qc
            let k := slotOf s w
            (s, .hot (frameLine f + dla / 64 % 64) k.cur k.gen)
          | (s, none) => (blackWrite s w dla, .discard)
      else (s, .discard)

/-! ## Poison and restoring by DLA (R257, R265) -/

/-- A DLA line reads as poison or is unreadable where it is stored; used to tell when a poison-list entry is restored. -/
def lineBad (s : State) (w dla : Nat) : Bool :=
  match skeinPeek s w dla with
  | .hot line _ _ => (dramAt s line).isNone || isPoison s line
  | .zeros => false
  | .comp _ _ _ _ => false
  | _ => true

/-- A full-line write has restored a line: the entries that cover it go when every line they cover is restored. -/
def plRestore (s : State) (w dla : Nat) : State :=
  { s with plist := { s.plist with ents := s.plist.ents.filter fun e =>
      !(decide (e.dla ≤ dla) && decide (dla < e.dla + e.len) &&
        (List.range (e.len / 64)).all fun i => !lineBad s w (e.dla + i * 64)) } }

/-- Writes poison to a line of a window by DLA, with its poison-list entry. A line without a hot page is poisoned at
segment grain, and an UNMAPPED page of a guaranteed window first takes its home frame (DEDUCED, log entry 9). -/
def poisonDla (s : State) (w dla src : Nat) : State :=
  let off := hankOff s w dla
  let pg := pageNo dla
  match skeinPeek s w dla with
  | .hot line _ _ => plAdd (poisonLine (writeTouch s w off pg) line) (dla / 64 * 64) 64 src
  | .lost => s
  | _ =>
    let h := hankAt s w off
    if h.guar && (pageOf s w off pg).tier = .unmapped then
      let s := mapHotZero s w off pg (homeFrame h pg) 15
      plAdd (poisonLine s (frameLine (homeFrame h pg) + dla / 64 % 64)) (dla / 64 * 64) 64 src
    else plAdd (poisonSegment s w dla) (dla / 512 * 512) 512 src

/-! ## The line cache (R14, R25) -/

/-- Lines a slice holds: 2 MiB. -/
def lcacheLines : Nat := 32768

/-- A line enters a slice of the line cache. A full slice gives up a line, and which one is a free value: the manual names no
replacement policy (log entry 85). -/
def lcachePut (s : State) (slice line : Nat) (b : List Byte) : State :=
  let here := (s.lcache.filter fun e => e.2.slice == slice && e.1 != line).map (·.1)
  let s :=
    if here.length < lcacheLines then s
    else modLcache (nextFree s) (here.getD (Config.freeNat s.free % here.length) line) fun _ => {}
  modLcache s line fun _ => { slice := slice, data := b }

/-- The line-cache slice of a DLA's segment: the one numbered like the skein slice that looks there (R129; DEDUCED, log
entry 96). -/
def lcacheSlice (dla : Nat) : Nat := sknSlice dla

/-! ## Dropping storage (R72, R125, R181) -/

/-- A promotion of a page that goes gives back the frame it had taken. -/
def dropPromoFrame (s : State) (w off pk : Nat) : State :=
  match s.carder.promo.find? fun q => q.key == pk with
  | some q => match q.frame with
    | some f => if (hankAt s w off).guar then s else freeFrame s f
    | none => s
  | none => s

/-- A page leaves its storage: a frame of the pool or a run is freed. -/
def freePage (s : State) (w off pg : Nat) : State :=
  let p := pageAt s (pageKey w off pg)
  let s := match p.tier with
    | .hot => if (hankAt s w off).guar then s else freeFrame s p.addr
    | .compressed => if runGranules p.len = 0 then s else freeRun s p.addr
    | .unmapped => s
  let s := dropPromoFrame s w off (pageKey w off pg)
  modCached (modPage s (pageKey w off pg) fun _ => {}) (entryKey w off (some pg)) fun _ => false

/-- A REKEY that is within a unit which is released goes on with the next unit (R178). -/
def dropCursor (s : State) (w off : Nat) (f : Option Nat → Bool) : State :=
  match (slotOf s w).cursor with
  | some (o, p, _) =>
    if o == off && f p then dropJobs (modSlot s (winAt s w).keySlot fun k => { k with cursor := none }) (· == .rekey w) else s
  | none => s

/-- The compaction moves of pages are over: the copies of those that have not switched are freed, and the old storage of
those that have. -/
def dropMoves (s : State) (f : Nat → Bool) : State :=
  let mine := s.carder.moves.filter fun m => f m.key
  let s := { s with carder := { s.carder with moves := s.carder.moves.filter fun m => !f m.key } }
  mine.foldl (fun t m =>
    let a := if m.switched then m.oldAddr else m.newAddr
    if m.isRun then freeRun t a else freeFrame t a) s

/-- A hank becomes UNMAPPED again: its pages' storage is freed and everything queued for it is dropped. A range of it that
has been lost stays lost (R130). -/
def dropHank (s : State) (w off : Nat) : State :=
  let hk := hankKey w off
  let h := hankAt s w off
  let s := dropCursor (dropMoves s fun k => k / 512 == hk) w off fun _ => true
  let s := if h.mode = .paged then (List.range 512).foldl (fun t pg => freePage t w off pg) s else s
  let s := putHank s w off fun _ => { hankFresh s.carder.epoch (winAt s w) off with cold := 0 }
  let s := modCached s (entryKey w off none) fun _ => false
  let s := dropJobs s fun j => match j with
    | .promo k => k / 512 == hk
    | .demo k => k / 512 == hk
    | .move k => k / 512 == hk
    | .fill k => k / 512 == hk
    | _ => false
  { s with
    carder := { s.carder with
      promo := s.carder.promo.filter fun p => p.key / 512 != hk
      demo := s.carder.demo.filter fun p => p.key / 512 != hk }
    lcache := tabFilter (fun k _ => !(decide (hankDla s w off / 64 ≤ k) && decide (k < hankDla s w off / 64 + 0x8000))) s.lcache }

/-- Every hank of a window that has an entry, dropped; with it the poison-list entries of its range (R265). -/
def dropWindow (s : State) (w : Nat) : State :=
  let x := winAt s w
  let offs := (s.hanks.filter fun e => e.1 / 0x1000000 == w).map fun e => e.1 % 0x1000000
  let s := offs.foldl (fun t o => dropHank t w o) s
  let s := { s with
    hanks := tabFilter (fun k _ => k / 0x1000000 != w) s.hanks
    skein := tabFilter (fun k _ => !(if k % 2 = 0 then k / 2 / 0x1000000 == w else k / 2 / 512 / 0x1000000 == w)) s.skein
    lost := s.lost.filter fun k => !(if k % 2 = 0 then k / 2 / 0x1000000 == w else k / 2 / 512 / 0x1000000 == w) }
  plDropRange s (x.dlaHank * 0x200000) (x.size * 0x200000)

/-- Drops line-cache copies of the lines of a page (R16). -/
def dropLcache (s : State) (dla lines : Nat) : State :=
  { s with lcache := tabFilter (fun k _ => !(decide (dla / 64 ≤ k) && decide (k < dla / 64 + lines))) s.lcache }

/-- A page becomes UNMAPPED (R216, R72): queued work for it is dropped and its storage is freed; its poison-list entries
go (R265). -/
def unmapPage (s : State) (w off pg : Nat) : State :=
  let pk := pageKey w off pg
  let p := pageOf s w off pg
  let s := writeTouch s w off pg
  let s := dropPromoFrame (dropCursor (dropMoves (directToPaged s w off) (· == pk)) w off (· == some pg)) w off pk
  let s := dropJobs s fun j => j == .promo pk || j == .demo pk || j == .move pk || j == .fill pk
  let s := { s with carder := { s.carder with
    promo := s.carder.promo.filter fun q => q.key != pk
    demo := s.carder.demo.filter fun q => q.key != pk } }
  let s := if p.tier = .unmapped then s
    else
      let s := putPage s w off pg {}
      if p.tier = .hot then freeFrame s p.addr else if runGranules p.len = 0 then s else freeRun s p.addr
  plDropRange (dropLcache s (pageDla s w off pg) 64) (pageDla s w off pg) 0x1000

/-- The hanks of a 256 MiB block lose their mappings and storage (R72 step 4). -/
def dropBlockHanks (s : State) (w b : Nat) : State :=
  let first := b * 128 - (winAt s w).dlaHank
  let offs := (s.hanks.filter fun e => e.1 / 0x1000000 == w && decide (first ≤ e.1 % 0x1000000) &&
    decide (e.1 % 0x1000000 < first + 128)).map fun e => e.1 % 0x1000000
  offs.foldl (fun t o => dropHank t w o) s

end Sys2Proof.Machine
end

