-- ==== Sys2Proof/Machine/Ledger.lean ====
section
/-! DEFINITION. The capacity ledger's check (R66–R68). -/

namespace Sys2Proof.Machine

open Sys2Proof

/-! ## The ledger (R66–R68) -/

/-- Blocks of a DC window that the ledger counts: pending, online, or on their way in or out (R66, R72). -/
def countedBlocks (blocks : Tab Block) (w : Nat) : Nat :=
  (blocks.filter fun b => b.2.win == w && b.2.st != 0 && b.2.st != 5).length

/-- G, D and E of a configuration. -/
def ledgerSums (wins : Tab Win) (blocks : Tab Block) : Nat × Nat × Nat :=
  wins.foldl (fun a e =>
    let x := e.2
    let n := if x.dc then 128 * countedBlocks blocks e.1 else x.size
    (a.1 + (if x.elastic then 0 else x.size), a.2.1 + n, a.2.2 + (if x.elastic then n else 0))) (0, 0, 0)

/-- floor(F × (P − G − S − R)). -/
def elasticBound (p ovc g d : Nat) : Nat := ovc * (p - g - skeinReserve d - growthReserve p) / 4

/-- The check of R66: 0 where it holds, else the REFUSE code of R68. -/
def ledgerCheck (p ovc g d e : Nat) : Nat :=
  if 0x1000000 < d then 3
  else if p < g + skeinReserve d + growthReserve p then 1
  else if elasticBound p ovc g d < e then 2
  else 0

/-- LEDGER_CFG.OVC (R68). -/
def ovcOf (s : State) : Nat := fld (regN s (seatwinBase + 0x100)) 4 0

/-- A hank of the shared pool is held aside as the working floor at an accepted check (R131). Where the floor before it has
been drawn on, and a hank is free, a new one is held and the storage in the old one becomes ordinary. -/
def holdFloor (s : State) : State :=
  if s.carder.floor || (s.carder.drawn.isSome && freeHanks s == 0) then s
  else { s with carder := { s.carder with floor := true, drawn := none } }

/-- The ledger takes the terms of the configuration in force; the level is evaluated again (R68, R132). -/
def ledgerPut (s : State) : State :=
  let (g, d, e) := ledgerSums s.wins s.blocks
  let s := { s with ledger := { s.ledger with g := g, d := d, e := e, elim := elasticBound s.ledger.p (ovcOf s) g d } }
  evalLevel (holdFloor s)

/-- A refused check (R67). -/
def ledgerRefuse (s : State) (code : Nat) : State :=
  let s := { s with ledger := { s.ledger with refuse := code } }
  logEv s (srcOf seatwinBase) 0x2002 sevWarn (le 1 code ++ le 4 (freeF s / 8192))

/-- The check of a configuration that differs from the present one in its blocks: 0 where it holds. The windows that a
re-weave is adding count from its own check on (R323). -/
def ledgerTry (s : State) (blocks : Tab Block) : Nat :=
  let (g, d, e) := ledgerSums s.wins blocks
  let (g', d', e') := match s.img.rw with
    | some r => r.extra
    | none => (0, 0, 0)
  ledgerCheck s.ledger.p (ovcOf s) (g + g') (d + d') (e + e')

end Sys2Proof.Machine
end

