-- ==== Sys2Proof/Machine/Flags.lean ====
section
/-! DEFINITION. Flags that more than one command raises: link error counts (R53) and link events (R52). Class budgets,
SCALE and DevLoad (R274, R277, R278) are in Budget.lean. -/

namespace Sys2Proof.Machine

open Sys2Proof

/-- One occurrence of PROTO, REPLAY or CRC on a link (R53). -/
def countProto (s : State) (k : Nat) : State := modLink s k fun l => { l with proto := min 31 (l.proto + 1) }
def countReplay (s : State) (k : Nat) : State := modLink s k fun l => { l with replay := min 4095 (l.replay + 1) }
def countCrc (s : State) (k : Nat) : State := modLink s k fun l => { l with crc := min 4095 (l.crc + 1) }

/-- Bits of Lk_EVT (R52). -/
def evtUp : Nat := 0
def evtRecovery : Nat := 1
def evtDown : Nat := 2
def evtDetach : Nat := 3
def evtIde : Nat := 4

/-- Latches an event of a link. -/
def latchEvt (s : State) (k bit : Nat) : State := modLink s k fun l => { l with evt := l.evt ||| (1#5 <<< bit) }

/-- The event record of a link event (R46, R413): the Lk_EVT bits as they stand. -/
def linkEvent (s : State) (port link code sev : Nat) (tail : List Byte) : State :=
  logEv s (srcOf (hpBase port)) code sev
    (le 2 port ++ le 2 link ++ (if code = 0x1001 then le 1 (linkAt s (linkKey port link)).evt.toNat else tail))

/-- An occurrence under R27: counted in PROTO, with a WARN event. -/
def protoOccurrence (s : State) (port link kind : Nat) : State :=
  linkEvent (countProto s (linkKey port link)) port link 0x1003 sevWarn (kindByte 27 kind)

end Sys2Proof.Machine
end

