-- ==== Sys2Proof/Machine/Operands.lean ====
section
/-! DEFINITION. Every operand form: how an M2S message names its seat, window, alias, DLA and class (R55, R62), how a
seat's own address is resolved (R210), which lines are doorbell lines (R206) or telemetry lines (R453). -/

namespace Sys2Proof.Machine

open Sys2Proof

/-- What a decode yields. -/
structure Dec where
  seat : Nat
  win  : Nat
  ali  : Nat
  dla  : Nat
  qc   : Nat
  deriving DecidableEq, Repr

/-- HPA base of alias `k` (R62). -/
def aliasBase (w : Win) (k : Nat) : Nat := w.hpaHank * 0x200000 + k * 2 ^ w.aliasSh

/-- Bytes of a window. -/
def winBytes (w : Win) : Nat := w.size * 0x200000

/-- Class of alias `k` (R60). -/
def aliasClass (w : Win) (k : Nat) : Nat := fld w.aliasQc.toNat (4 * k + 3) (4 * k)

/-- The seat reaches the window. -/
def reaches (s : State) (seat w : Nat) : Bool := (winAt s w).size != 0 && (winSeats s w).contains seat

/-- The alias of the window whose range holds an HPA. -/
def aliasOf (w : Win) (hpa : Nat) : Option Nat :=
  (List.range (w.aliasN + 1)).find? fun k =>
    decide (aliasBase w k ≤ hpa) && decide (hpa < aliasBase w k + winBytes w)

/-- The 256 MiB block that holds a DLA is online (R70). -/
def blockOnline (s : State) (dla : Nat) : Bool := (blockAt s (dla / 0x10000000)).st == 2

/-- The window serves hosts: ONLINE, primary or unmirrored, not waiting for HANDOVER (R62, R337, R348). -/
def serves (w : Win) : Bool :=
  w.state = .online && !(w.mirror != 0 && w.secondary) && !w.waitHand && !w.sendHand

/-- The window and alias that a seat's HPA falls in, in window-table order. -/
def findWin (s : State) (seat hpa : Nat) : Option (Nat × Nat) :=
  s.wins.findSome? fun e =>
    if reaches s seat e.1 then (aliasOf e.2 hpa).map fun k => (e.1, k) else none

/-- Decode of an HPA of a seat, the seat's own state apart (R62); none where it is refused. -/
def decodeHpa (s : State) (seat hpa : Nat) : Option Dec :=
  match findWin s seat hpa with
  | none => none
  | some (w, k) =>
    let x := winAt s w
    let off := hpa - aliasBase x k
    let dla := x.dlaHank * 0x200000 + off
    if !serves x then none
    else if x.dc && !blockOnline s dla then none
    else some { seat := seat, win := w, ali := k, dla := dla, qc := aliasClass x k }

/-- The seat is ATTACHED or SUSPECT. -/
def seatServed (x : Seat) : Bool := x.state = .attached || x.state = .suspect

/-- Decode of an M2S message (R62). -/
def decodeM2S (s : State) (m : M2S) : Option Dec :=
  match seatOf s m.port m.link m.id with
  | none => none
  | some seat => if seatServed (seatAt s seat) then decodeHpa s seat m.hpa else none

/-- A refusal: counted, and the first for each seat in each 1 ms of powered time writes a WARN event that names the seat
and the HPA (R62). A message whose path names no seat has no seat to name: it is counted alone (DEDUCED, log entry 10). -/
def countRefusal (s : State) (m : M2S) : State :=
  let s := bump s (seatwinBase + 0x11C)
  match seatOf s m.port m.link m.id with
  | none => s
  | some seat =>
    if firstInMs s 62 seat then
      logEvFor (markMs s 62 seat) (srcOf seatwinBase) 0x2001 sevWarn (le 2 seat ++ le 8 m.hpa) [seat] []
    else s

/-- The line lies in the doorbell page of its window's owner (R206). -/
def isDoorbell (s : State) (d : Dec) : Bool :=
  let w := winAt s d.win
  w.dbhV && decide (hankOff s d.win d.dla = w.dbhHank) && decide (d.dla % 0x200000 < 0x1000)

/-- The DLA lies in one of the two buffers of the telemetry hank (R451, R453). A telemetry hank exists from when a dump
is first enabled (DEDUCED, log entry 11). -/
def isTelemetry (s : State) (w dla : Nat) : Bool :=
  (s.pmu.en || decide (s.pmu.seq ≠ 0)) &&
  decide (w = fld (regN s (pmuBase + 0x44)) 11 0) &&
  decide (hankOff s w dla = fld (regN s (pmuBase + 0x48)) 23 0) &&
  (decide (dla % 0x200000 < 0x3280) ||
   (decide (0x4000 ≤ dla % 0x200000) && decide (dla % 0x200000 < 0x7280)))

/-- The window of a write of the window's creel, for its group (R97). -/
def groupSize (s : State) (w : Nat) : Nat := (winSeats s w).length

end Sys2Proof.Machine
end

