-- ==== Sys2Proof/Machine/PlyLink.lean ====
section
/-! DEFINITION. The ply link layer, as the sender and receiver of packets: ports and traffic (R326), sequence, credits
and replay (R330–R332), lanes (R334). -/

namespace Sys2Proof.Machine

open Sys2Proof

/-- A port is UP. -/
def plyUp (s : State) (p : Nat) : Bool := (plyAt s p).st = .up

/-- The pair link is up while at least one port is UP (R326). -/
def pairUp (s : State) : Bool := plyUp s 0 || plyUp s 1

/-- Payload bytes of a packet (R328). -/
def bodyLen : PlyBody → Nat
  | .mwr w | .rsync w => if w.poison then 0 else if w.partialMask.isSome then 72 else 64 * w.nlines
  | .metaRec _ _ _ => 16
  | .keyset _ _ _ => 64
  | .mbox ws => 4 * ws.length
  | .mtab t => min 256 (32 * t.length)
  | .crec _ r => 16 * r.length
  | .pair _ _ _ l => l.length
  | _ => 0

/-- Whether a packet is a control packet (R328). -/
def isControl : PlyBody → Bool
  | .ack | .keepalive => true
  | .pair _ _ _ _ => true
  | _ => false

/-- Whether a sequenced packet travels on VC RSP (R328). -/
def isRsp : PlyBody → Bool
  | .mack _ _ | .crec _ _ | .batchEnd _ | .batchAck _ | .prsp _ _ _ | .laneset _ _ | .lanesetAck _ => true
  | _ => false

/-- Credits a sequenced packet takes (R332). -/
def plyCost (b : PlyBody) : Nat := max 1 (ceilDiv (bodyLen b) 64)

/-- DLA hank parity a REQ packet is for, where it has one (R326). -/
def bodyParity : PlyBody → Option Nat
  | .mwr w | .rsync w => some (w.dlaLine / 0x8000 % 2)
  | .metaRec _ _ dla => some (dla / 0x200000 % 2)
  | _ => none

/-- A port still holds REQ packets of a parity without link-level acknowledgement (R326). -/
def holdsParity (s : State) (p par : Nat) : Bool :=
  let x := plyAt s p
  x.replay.any (fun e => bodyParity e.2 == some par) || x.queue.any (fun b => bodyParity b == some par)

/-- The port that carries a packet (R326); none while the pair link is down. -/
def portFor (s : State) (b : PlyBody) : Option Nat :=
  let want := match b with
    | .mwr w | .rsync w => w.dlaLine / 0x8000 % 2
    | .metaRec _ _ dla => dla / 0x200000 % 2
    | _ => 0
  if plyUp s 0 && plyUp s 1 then
    match bodyParity b with
    | some par => if holdsParity s (1 - want) par then some (1 - want) else some want
    | none => some want
  else if plyUp s 0 then some 0 else if plyUp s 1 then some 1 else none

/-- A packet goes on the wire: it carries the last SEQ accepted and the credits to return, at most 255 of a kind (R327,
R331, R332). A PAIR message has no TXC (R329). -/
def plyPut (s : State) (p seq : Nat) (b : PlyBody) : State :=
  let s := unIdle s (24 + p)
  let x := plyAt s p
  let plain := match b with
    | .pair _ _ _ _ => true
    | _ => false
  let cq := min 255 x.retReq
  let cr := min 255 x.retRsp
  let s := emit s (.ply p seq x.acc.toNat (if plain then 0 else x.txc) cq cr b)
  modPly s p fun x => { x with
    txc := if plain then x.txc else x.txc + 1, sentAt := s.now, unacked := 0, unackAt := none
    retReq := x.retReq - cq, retRsp := x.retRsp - cr }

/-- Puts a control packet on the wire: its SEQ is the next that the sender will use. -/
def plySendControl (s : State) (p : Nat) (b : PlyBody) : State := plyPut s p (plyAt s p).seq.toNat b

/-- A lane change holds packets from its effective SEQ on until it is acknowledged (R334). -/
def laneHolds (x : Ply) : Bool :=
  match x.lane with
  | some (e, _) => x.seq.toNat == e
  | none => false

/-- The port may send the packet now: room for replay, credits, and no lane change holding it. -/
def canSend (x : Ply) (b : PlyBody) : Bool :=
  decide (x.replay.length < 1024) && decide (plyCost b ≤ if isRsp b then x.credRsp else x.credReq) && !laneHolds x

/-- Puts a sequenced packet on the wire and keeps it for replay (R330). -/
def plyEmitSeq (s : State) (p : Nat) (b : PlyBody) : State :=
  let q := (plyAt s p).seq.toNat
  let s := plyPut s p q b
  modPly s p fun x => { x with
    seq := x.seq + 1
    replay := x.replay ++ [(q, b)]
    timer := some (x.timer.getD s.now)
    credReq := if isRsp b then x.credReq else x.credReq - plyCost b
    credRsp := if isRsp b then x.credRsp - plyCost b else x.credRsp }

/-- Sends a sequenced packet, or queues it for want of credit or replay space. Answers the state. -/
def plySend (s : State) (p : Nat) (b : PlyBody) : State :=
  let x := plyAt s p
  if x.queue.isEmpty && canSend x b then plyEmitSeq s p b
  else modPly s p fun x => { x with queue := x.queue ++ [b] }

/-- Sends what waits, oldest first, while it can be sent. -/
def plyDrainAux : Nat → State → Nat → State
  | 0, s, _ => s
  | n + 1, s, p =>
    match (plyAt s p).queue with
    | b :: _ =>
      if canSend (plyAt s p) b then
        plyDrainAux n (plyEmitSeq (modPly s p fun x => { x with queue := x.queue.drop 1 }) p b) p
      else s
    | [] => s

def plyDrain (s : State) (p : Nat) : State := plyDrainAux ((plyAt s p).queue.length) s p

/-- The SEQ a packet sent now on port `p` will carry: what follows everything queued. -/
def nextSeq (s : State) (p : Nat) : Nat := ((plyAt s p).seq.toNat + (plyAt s p).queue.length) % 0x10000

/-- A cumulative acknowledgement: everything held up to and including it is released, and the replay timer restarts; a
value that acknowledges nothing held is ignored (R330). -/
def plyAcked (s : State) (p ack : Nat) : State :=
  let x := plyAt s p
  match x.replay with
  | [] => s
  | (o, _) :: _ =>
    let n := (ack + 0x10000 - o) % 0x10000 + 1
    if x.replay.length < n then s
    else plyDrain (modPly s p fun x => { x with
      replay := x.replay.drop n
      timer := if (x.replay.drop n).isEmpty then none else some s.now }) p

/-- Replays every held packet, oldest first, each with a fresh TXC (R329, R330). -/
def plyReplay (s : State) (p : Nat) : State :=
  let s := (plyAt s p).replay.foldl (fun t e => plyPut t p e.1 e.2) s
  let s := bump s (plyBase p + 0x1C)
  modPly s p fun x => { x with timer := some s.now }

end Sys2Proof.Machine
end

