-- ==== Sys2Proof/Machine/Route.lean ====
section
/-! DEFINITION. The route a flit takes from station to station (R288, R291, R302), and which flits a failed link stops (R301).
Credits for the next buffer decide when a flit moves, never where (log entry 49). -/

namespace Sys2Proof.Machine

open Sys2Proof

/-- One hop of a route: the station it leaves, the link it takes (0 X+, 1 X−, 2 Y+, 3 Y−, as STn.ISO numbers them) and the virtual
channel it is on from there. -/
structure Hop where
  st   : Nat
  link : Nat
  vc   : Nat
  deriving DecidableEq, Repr

/-- The station at the end of a link (R288). -/
def linkEnd (st link : Nat) : Nat :=
  let x := st % 8
  let y := st / 8
  match link with
  | 0 => y * 8 + (x + 1) % 8
  | 1 => y * 8 + (x + 7) % 8
  | 2 => (y + 1) % 6 * 8 + x
  | _ => (y + 5) % 6 * 8 + x

/-- The link that a flit for station `dst` leaves station `st` on (R291): along X first, the shorter way round, + on a tie. -/
def torusLink (st dst : Nat) : Option Nat :=
  let dx := (dst % 8 + 8 - st % 8) % 8
  let dy := (dst / 8 + 6 - st / 8) % 6
  if dx ≠ 0 then some (if dx ≤ 4 then 0 else 1)
  else if dy ≠ 0 then some (if dy ≤ 3 then 2 else 3)
  else none

/-- The hop crosses the dateline of its dimension (R291). -/
def torusDateline (st link : Nat) : Bool :=
  match link with
  | 0 => st % 8 == 7
  | 1 => st % 8 == 0
  | 2 => st / 8 == 5
  | _ => st / 8 == 0

/-- Place of a station on the serpentine of RING2, and the station at a place (R302). -/
def serpentine (st : Nat) : Nat := st / 8 * 8 + if st / 8 % 2 = 0 then st % 8 else 7 - st % 8

/-- The link of a station towards the next place on the serpentine, or the one before (R302). -/
def serpentineLink (st : Nat) (plus : Bool) : Nat :=
  let p := serpentine st
  let even := st / 8 % 2 == 0
  if plus then (if p % 8 = 7 then 2 else if even then 0 else 1)
  else if p % 8 = 0 then 3 else if even then 1 else 0

/-- The link that a flit leaves a station on in RING2: the shorter way round, + on a tie. -/
def ringLink (st dst : Nat) : Option Nat :=
  let d := (serpentine dst + 48 - serpentine st) % 48
  if d = 0 then none else some (serpentineLink st (decide (d ≤ 24)))

/-- The hop takes the link between ST40 and ST0 (R302). -/
def ringDateline (st link : Nat) : Bool := (st == 40 && link == 2) || (st == 0 && link == 3)

/-- The hops from a station to another: a flit starts each dimension on VC0, and is on VC1 from a dateline on (R291, R302). -/
def hops (ring2 : Bool) : Nat → Nat → Nat → Nat → List Hop
  | 0, _, _, _ => []
  | n + 1, vc, st, dst =>
    match (if ring2 then ringLink st dst else torusLink st dst) with
    | none => []
    | some l =>
      let vc := if (if ring2 then ringDateline st l else torusDateline st l) then 1 else vc
      let st' := linkEnd st l
      -- along Y the flit starts again on VC0
      let next := if !ring2 && l < 2 && st' % 8 == dst % 8 then 0 else vc
      { st := st, link := l, vc := vc } :: hops ring2 n next st' dst

/-- The route from a station to another (R291): never more than 7 hops, or 24 in RING2. -/
def route (ring2 : Bool) (src dst : Nat) : List Hop := hops ring2 24 0 src dst

/-- The station that holds the first failed link of the route between two stations, if there is one (R301). -/
def routeBreak (s : State) (src dst : Nat) : Option Nat :=
  ((route s.fabric.ring2 src dst).find? fun h => (stAt s h.st).linkFail.getLsbD h.link).map (·.st)

/-- Station of a host port (R289). -/
def hpStation (p : Nat) : Nat := 5 + 12 * p

/-- Station of a line's skein and creel slices, both of one number (R289). -/
def sliceStation (m : Nat) : Nat := 3 * m + 1

/-- Station of a channel (R289). -/
def chStation (c : Nat) : Nat := 3 * c

/-- A flit from a station reaches a local port: no link of its route has failed and the port is not isolated (R300, R301). -/
def flitReaches (s : State) (src dst lp : Nat) : Bool := (routeBreak s src dst).isNone && !(stAt s dst).dead.getLsbD lp

/-- A flit that expects no answer and does not reach its port is absorbed where it is stopped, and counted (R300, R301, R306). -/
def absorbFlit (s : State) (src dst : Nat) : State := bump s (stBase ((routeBreak s src dst).getD dst) + 0x18)

end Sys2Proof.Machine
end

