-- ==== Sys2Proof/Machine/Tracker.lean ====
section
/-! DEFINITION. The request tracker: pools, quotas and borrowing (R76–R82), ingress (R83), entry states and order
(R86, R87), responses (R36), and the passage of a request through the skein to its channel (R12, R14, R15). -/

namespace Sys2Proof.Machine

open Sys2Proof

/-! ## Messages and responses -/

/-- A request whose opcode takes a write entry (R76). -/
def isWrite : ReqOp → Bool
  | .wr | .wrPtl => true
  | _ => false

/-- A request that is answered with data. -/
def isRead : ReqOp → Bool
  | .rd _ | .rdData => true
  | _ => false

/-- The window is HDM-DB. -/
def isDb (s : State) (w : Nat) : Bool := (winAt s w).db

/-- Records a DevLoad value that a response of the seat carried, for the last 1 ms (R279). -/
def noteLoad (s : State) (seat dl : Nat) : State :=
  if 1024 ≤ seat then s
  else modSeat s seat fun x => { x with loads := (x.loads.filter fun l => decide (s.now < l.1 + 1000000)) ++ [(s.now, dl)] }

/-- MetaField of a message sent (R37): No-Op on every S2M response; the device stores no metadata. -/
def metaField : Out → Option MetaField
  | .drs _ _ _ _ _ _ _ => some .noOp
  | .ndr _ _ _ _ _ _ => some .noOp
  | _ => none

/-- Sends a data response on the message's path, where its link is in L0 (R36, R37, R47). -/
def sendDrs (s : State) (m : Msg) (data : Option (List Byte)) (dl : Nat) : State :=
  if linkUpAt s m.port m.link then
    let s := pmuEvent s 0 m.port 0x12
    match data with
    | some d => noteLoad (emit s (.drs m.port m.link m.id m.tag d false dl)) m.seat dl
    | none => noteLoad (emit (pmuEvent s 0 m.port 0x15) (.drs m.port m.link m.id m.tag [] true dl)) m.seat dl
  else s

/-- Sends a response without data. -/
def sendNdr (s : State) (m : Msg) (k : Ndr) (dl : Nat) : State :=
  if linkUpAt s m.port m.link then
    noteLoad (emit (pmuEvent s 0 m.port 0x12) (.ndr m.port m.link m.id m.tag k dl)) m.seat dl
  else s

/-! ## Pools (R76–R78) -/

/-- Pool of a message: its port's read pool, or the device-wide write pool. -/
def poolOf (m : Msg) : Nat := if isWrite m.op then 4 else m.port

/-- First entry number of a pool, and how many it has. -/
def poolBase (p : Nat) : Nat := p * 4096
def poolSize (p : Nat) : Nat := if p = 4 then 8192 else 4096

/-- General entries and QC0 reserve of a pool (R76). -/
def poolGeneral (p : Nat) : Nat := if p = 4 then 7680 else 3968
def poolReserve (p : Nat) : Nat := if p = 4 then 512 else 128

/-- Entry `e` lies in pool `p`. -/
def inPool (p e : Nat) : Bool := decide (poolBase p ≤ e) && decide (e < poolBase p + poolSize p)

/-- Entries of a pool that satisfy a test. -/
def poolCount (s : State) (p : Nat) (f : Trk → Bool) : Nat :=
  (s.trk.filter fun e => inPool p e.1 && match e.2 with
    | some t => f t
    | none => false).length

def generalUsed (s : State) (p : Nat) : Nat := poolCount s p fun t => !t.reserve
def reserveUsed (s : State) (p : Nat) : Nat := poolCount s p fun t => t.reserve

/-- Entries charged to a seat: neither reserve entries nor entries lent to it by another seat (R77, R78; DEDUCED, log
entry 12). -/
def charged (s : State) (p seat : Nat) : Nat := poolCount s p fun t => !t.reserve && t.lender.isNone && t.m.seat == seat

/-- Entries charged against a lender. -/
def loaned (s : State) (p seat : Nat) : Nat := poolCount s p fun t => t.lender == some seat

/-- Quota and keep of a pool (R77, R80, R81). -/
def quotaOf (s : State) (p : Nat) : Nat :=
  if p = 4 then fld (regN s trkBase) 24 16 else fld (regN s trkBase) 8 0
def keepOf (s : State) (p : Nat) : Nat :=
  if p = 4 then fld (regN s (trkBase + 4)) 24 16 else fld (regN s (trkBase + 4)) 8 0

/-- The seats whose keep is held back in a pool: those with a path on the port, or every seat for the write pool. -/
def poolSeats (s : State) (p : Nat) : List Nat :=
  (s.seats.filter fun e => if p = 4 then e.2.p0.kind != 0
    else (e.2.p0.kind != 0 && e.2.p0.port == p) || (e.2.p1.kind != 0 && e.2.p1.port == p)).map (·.1)

/-- The sum of all seats' unused keeps in a pool (R77). -/
def heldBack (s : State) (p : Nat) : Nat :=
  ((poolSeats s p).map fun x => keepOf s p - charged s p x).foldl (· + ·) 0

/-- Key of a seat's use of a pool. -/
def useKey (p seat : Nat) : Nat := p * 1024 + seat

/-- An idle seat with room to lend (R77 step 3, R78): the lowest number first (log entry 8). -/
def findLender (s : State) (p : Nat) : Option Nat :=
  (poolSeats s p).find? fun x => (useAt s (useKey p x)).idle &&
    decide (loaned s p x + max (keepOf s p) (charged s p x) < quotaOf s p)

/-- What stands against a seat's quota: the entries it holds itself, and those it has lent until they free (R78). -/
def quotaUsed (s : State) (p seat : Nat) : Nat := charged s p seat + loaned s p seat

/-- How a message is granted an entry (R77): keep, quota, borrowing, reserve, in that order; none where it waits. The
answer is whether the entry is a reserve entry, and its lender. -/
def grantWay (s : State) (m : Msg) : Option (Bool × Option Nat) :=
  let p := poolOf m
  let c := charged s p m.seat
  let u := quotaUsed s p m.seat
  let free := poolGeneral p - generalUsed s p
  if c < keepOf s p ∧ 0 < free then some (false, none)
  else if u < quotaOf s p ∧ heldBack s p < free then some (false, none)
  else
    match (if quotaOf s p ≤ u ∧ bitOf (regN s (trkBase + 8)) 0 ∧ heldBack s p < free then findLender s p else none) with
    | some l => some (false, some l)
    | none => if m.qc = 0 ∧ reserveUsed s p < poolReserve p then some (true, none) else none

/-- The lowest free entry of a pool. -/
def freeEntry (s : State) (p : Nat) : Nat :=
  firstGap (poolBase p) (((s.trk.filter fun e => inPool p e.1)).map (·.1))

/-- Response ceiling in µs (R90). -/
def ceilUs (s : State) : Nat := clampN 2 200 (fld (regN s (trkBase + 0x10)) 7 0)

/-- Cache line index of a DLA. -/
def lineIdx (dla : Nat) : Nat := dla / 64

/-- An earlier request of the same seat to the same DLA line has not reached its serialisation point (R86). -/
def blocked (s : State) (ord seat line : Nat) : Bool :=
  s.trk.any fun e => match e.2 with
    | some t => t.m.seat == seat && lineIdx t.m.dla == line && decide (t.ord < ord) && !t.serial
    | none => false

/-- A seat is no longer idle in a pool when its next request arrives (R78). -/
def noteUse (s : State) (p seat : Nat) : State := modUse s (useKey p seat) fun _ => { last := s.now, idle := false }

/-- Returns the credit of a message that leaves ingress (R34). -/
def returnCredit (s : State) (m : Msg) : State :=
  modLink s (linkKey m.port m.link) fun l =>
    if isWrite m.op then { l with credRwd := l.credRwd + 1 } else { l with credReq := l.credReq + 1 }

/-- Grants a message its entry (R77, R86): CHAINED behind an earlier request to its line, else ISSUED. Answers the entry
number too. -/
def takeEntry (s : State) (m : Msg) (way : Bool × Option Nat) : State × Nat :=
  let p := poolOf m
  let e := freeEntry s p
  let t : Trk := { m := m, reserve := way.1, lender := way.2, granted := s.now, deadline := s.now + ceilUs s * 1000,
                   st := if blocked s s.stamp m.seat (lineIdx m.dla) then .chained else .issued, ord := s.stamp,
                   strict := (winAt s m.win).mirror == 1 }
  let s := unIdle (unIdleFabric s) (2 + m.port)
  let s := if m.cred then returnCredit (pmuEvent s 0 m.port (if isWrite m.op then 0x11 else 0x10)) m else s
  (stampNext (modTrk (noteUse s p m.seat) e fun _ => some t), e)

/-! ## Ends of entries -/

/-- An agent number that no agent has. -/
def nobody : Nat := 0x7FFFFFFF

/-- Sends a BIConflict acknowledgement on its own link, while that is in L0 (R47, R105). -/
def sendAck (dl : Nat) (s : State) (a : Nat × Nat × Nat × Nat) : State :=
  if linkUpAt s a.1 a.2.1 then emit s (.ndr a.1 a.2.1 a.2.2.1 a.2.2.2 .biConflictAck dl) else s

/-- Frees an entry and sends what it owes: nothing where its link is gone or it has been answered (R47, R88), then any
BIConflict acknowledgement that follows its grant (R105). -/
def endEntry (s : State) (e : Nat) (t : Trk) (send : State → State) : State :=
  let s := if t.silent || t.st = .abandoned then s else send s
  let s := t.acks.foldl (sendAck t.devLoad) s
  let s := leaveSlot s (.decode e) true
  let s := { s with
    units := s.units.filter fun u => u.job != .decode e
    chans := tabMap {} (fun _ x => { x with
      rq := x.rq.filter fun q => q.entry != some e
      wq := x.wq.filter fun q => q.write && (q.entry != some e || t.accepted) }) s.chans }
  let s := modUse s (useKey (poolOf t.m) t.m.seat) fun u => { u with last := s.now }
  -- a request of the entry that its slice still holds belongs to nobody
  let s := modAct s (lineIdx t.m.dla) fun o => o.map fun a => if a.who = .trk e then { a with who := .agent nobody } else a
  let s := { s with slices := tabMap {} (fun _ x => { x with confq := x.confq.filter fun q => q.2.1 != .trk e }) s.slices }
  modTrk s e fun _ => none

/-- The response of a read: in an HDM-DB window the NDR with the granted state, where the kind has one, then the data or
poison (R36, R98). -/
def readResponse (t : Trk) (data : Option (List Byte)) (dl : Nat) (s : State) : State :=
  let s := match t.grant with
    | some k => sendNdr s t.m k dl
    | none => s
  sendDrs s t.m data dl

/-- What a seat without PERF_READ sees of the telemetry buffers: zeros (R453). -/
def telemetryData (s : State) (m : Msg) (data : Option (List Byte)) : Option (List Byte) :=
  if isTelemetry s m.win m.dla && !(seatAt s m.seat).perfRead then some zeroLine else data

/-- Ends a read with data or poison. -/
def endRead (s : State) (e : Nat) (t : Trk) (data : Option (List Byte)) (dl : Nat) : State :=
  endEntry s e t (readResponse t (telemetryData s t.m data) dl)

/-- Ends a request with an NDR. -/
def endNdr (s : State) (e : Nat) (t : Trk) (k : Ndr) (dl : Nat) : State := endEntry s e t fun s => sendNdr s t.m k dl

/-! ## Mirroring of host writes (R337–R341) -/

/-- A change to a hank of a mirrored window that is not in SYNC sets DIRTY by write-through first (R339). -/
def setDirty (s : State) (w off : Nat) : State := putHank s w off fun h => { h with dirty := true }

def dirtyUnlessSync (s : State) (w off : Nat) : State :=
  if mirrorPrimary s w && (winAt s w).ms != .sync then setDirty s w off else s

/-- Forwards a host write at its serialisation point, while the pair link is up (R340). -/
def forwardMsg (s : State) (m : Msg) (entry : Option Nat) (poison : Bool) : State :=
  let w := m.win
  let off := hankOff s w m.dla
  let x := winAt s w
  let s := dirtyUnlessSync s w off
  if mirrorPrimary s w && pairUp s && (x.ms = .sync || x.ms = .resync || x.ms = .degraded) then
    let pw : PlyWrite := { dlaLine := lineIdx m.dla, qc := m.qc, nlines := 1, poison := poison,
                           partialMask := if m.op = .wrPtl && !poison then some m.mask else none,
                           lines := if poison then [] else [lineOf m.data] }
    match portFor s (.mwr pw) with
    | some p =>
      let q := nextSeq s p
      let s := plySend s p (.mwr pw)
      { s with pair := { s.pair with fwds := s.pair.fwds ++
        [{ port := p, seq := q, win := w, hank := off, at_ := s.now, entry := entry }] } }
    | none => s
  else s

/-- Forwards the write of an entry; its MACK is waited for under the policy that held when the entry was granted (R348). -/
def forwardWrite (s : State) (e : Nat) (t : Trk) (poison : Bool) : State :=
  forwardMsg s t.m (if t.strict then some e else none) poison

/-! ## Through the skein to the channel -/

/-- A channel takes requests. -/
def chOnline (s : State) (c : Nat) : Bool := (chAt s c).st = .online && !(stAt s (3 * c)).dead.getLsbD 1 && !portFenced s (3 * c) 1

/-- Every channel of the lines is ONLINE and its read queue of 256 has room for all that fall to it (R22, R237). -/
def readRoom (s : State) (slice : Nat) (lines : List Nat) : Bool :=
  lines.all fun l =>
    let c := chOfLine s l
    chOnline s c && flitReaches s (sliceStation slice) (chStation c) 1 && decide ((chAt s c).rq.length + (lines.filter fun k => chOfLine s k == c).length ≤ 256)

/-- DevLoad of lines of a class: the highest of their channels' levels (R278). -/
def devLoadLines (s : State) (lines : List Nat) (qc : Nat) : Nat :=
  lines.foldl (fun a l => max a (devLoadAt s (chOfLine s l) qc)) 0

/-- The channels take a read: merge entries of its lines are flushed (R241), what DRAM then holds is what it returns
(R87, R109) under the generation that the skein and a REKEY's cursor give each line (R173, R178), and the request stands in
the read queues until its data returns. -/
def acceptRead (s : State) (e : Nat) (t : Trk) (loc : Loc) (page : Option Nat) (kgen : Nat) (lines : List Nat) : State :=
  let s := lines.foldl (fun s l => flushLine s l []) s
  let s := lines.foldl (fun s l =>
    stampNext (modCh s (chOfLine s l) fun x => { x with rq := x.rq ++
      [{ ord := s.stamp, line := l, qc := t.m.qc, write := false, seat := t.m.seat, start := t.granted, entry := some e }] })) s
  modTrk s e fun _ => some { t with
    loc := some loc, snap := lines.map (snapOf s t.m.win (hankOff s t.m.win t.m.dla) page kgen), accepted := true, serial := true, missed := false }

/-- Counts a lookup of the request once: a miss, or a hit that no miss preceded (R129). -/
def countOnce (s : State) (e : Nat) (t : Trk) (hit : Bool) : State :=
  if t.missed then s
  else if hit then countLook s t.m.dla true
  else modTrk (countLook s t.m.dla false) e fun _ => some { t with missed := true }

/-- The skein slice's lookup of a request (R12 step 5): its hit or miss is counted, and the access sampled for heat, once
(R133, R146). In an HDM-DB window it runs side by side with the creel's (R12). -/
def lookStep (s : State) (e : Nat) (t : Trk) : State :=
  if t.looked || keyLost s t.m.win then s
  else match skeinLook s t.m.win t.m.dla with
    | .missHank => countOnce s e t false
    | .missPage => countOnce s e t false
    | .lost => s
    | _ =>
      let s := sampleHeat (countOnce s e t true) t.m.win t.m.dla
      modTrk s e fun o => o.map fun t => { t with looked := true }

/-- A read of a segment of a compressed page that needs no decode is a compressed-tier read all the same (R14, R134;
DEDUCED, log entry 84). -/
def quietTrigger (s : State) (w dla : Nat) : State :=
  let off := hankOff s w dla
  if (pageOf s w off (pageNo dla)).tier = .compressed then readTrigger s w off (pageNo dla) else s

/-- A read whose order is fixed is resolved by its skein slice (R129) and handed on. A response that is poisoned here
carries DevLoad 0: the manual names no level of a skein slice (DESIGN CHOICE, log entry 81). -/
def readStep (s : State) (e : Nat) (t : Trk) : State :=
  let w := t.m.win
  let dla := t.m.dla
  let off := hankOff s w dla
  if keyLost s w then endRead s e t none 0
  else
    let s := lookStep s e t
    match skeinLook s w dla with
    | .missHank => s
    | .missPage => s
    | .lost => endRead s e t none 0
    | .zeros => endRead (quietTrigger s w dla) e t (some zeroLine) 0
    | .poison => endRead (quietTrigger s w dla) e t none 0
    | .badLen =>
      let s := quietTrigger s w dla
      endRead (logEvFor s (srcOf (sknBase (sknSlice dla))) 0x5001 sevErr (le 2 w ++ le 8 dla ++ kindByte 128 0) [] [w]) e t none 0
    | .hot line kgen page =>
      if readRoom s (sknSlice dla) [line] then
        let g := genOfLine s w off page line kgen
        acceptRead s e t (.hot line (keyOfGen s w g) g) page kgen [line]
      else s
    | .comp gran o len kgen =>
      let page := some (pageNo dla)
      let n := sknSlice dla
      let here := lcacheAt s (lineIdx dla)
      if here ≠ [] then
        let s := readTrigger s w off (pageNo dla)
        endRead (pmuEvent (pmuEvent s 3 n 0x42) 3 n 0x43) e t (some here) 0
      else
        let lines := runLines gran o (8 * len)
        if readRoom s n lines then
          let s := readTrigger s w off (pageNo dla)
          let s := pmuEvent s 3 n 0x42
          let s := acceptRead s e t (.comp gran o len) page kgen lines
          if len = 64 then s
          else
            let s := modTrk s e fun o => o.map fun t => { t with decoding := true }
            queueUnit s (.decode e) 1 t.m.qc n
        else s

/-- A write that arrived at its page before order stamp `ord` still waits there, or stands accepted by no channel yet: what
waited for a promotion is applied in arrival order (R17). Stamp 0 is that of a write which arrives now. -/
def pageQueued (s : State) (w dla ord : Nat) : Bool :=
  s.trk.any fun e => match e.2 with
    | some t => t.waitOrd != 0 && !t.accepted && t.m.win == w && t.m.dla / 0x1000 == dla / 0x1000 &&
      (ord == 0 || decide (t.waitOrd < ord))
    | none => false

/-- A write that waits for a promotion of its page (R16, R17): the stamp of its arrival there. -/
def waitsPromo (o : Nat) (t : Trk) : Trk :=
  { t with waitPromo := true, waitOrd := if t.waitOrd = 0 then o else t.waitOrd }

/-- A write whose order is fixed is resolved by its skein slice (R16, R139) and stands ready for its channel. -/
def writeStep (s : State) (e : Nat) (t : Trk) : State :=
  let w := t.m.win
  let dla := t.m.dla
  if t.loc.isSome then s
  else if s.pmu.en && isTelemetry s w dla then endNdr s e t .cmp 0
  else
    let s := lookStep s e t
    let look := skeinLook s w dla
    if look = .missHank ∨ look = .missPage ∨ pageQueued s w dla t.waitOrd = true then s
    else
      match writeTarget s w dla t.m.qc with
      | (s, .wait) => stampNext (modTrk s e fun o => o.map (waitsPromo s.stamp))
      | (s, .discard) =>
        endNdr (if look = .lost ∨ keyLost s w then s else forwardWrite s e t true) e t .cmp 0
      | (s, .hot line key gen) =>
        modTrk s e fun o => o.map fun t => { t with loc := some (.hot line key gen), waitPromo := false }

/-- An earlier write of the line, by any seat, has the creel's grant and has not been accepted by its channel (R87, R109):
what the slice granted later waits for it. -/
def writeAhead (s : State) (line gord : Nat) : Bool :=
  s.trk.any fun e => match e.2 with
    | some t => isWrite t.m.op && t.coherent && !t.accepted && lineIdx t.m.dla == line && decide (t.gord < gord)
    | none => false

/-- A grant may not leave its host port yet: a creel record of its line has not been transmitted (R344). -/
def grantHeld (s : State) (t : Trk) : Bool :=
  (t.grant == some .cmpS || t.grant == some .cmpE) && ([0, 1].any fun p => (plyAt s p).queue.any fun b =>
    match b with
    | .crec _ recs => recs.any fun r => r.line == lineIdx t.m.dla
    | _ => false)

/-- What is next for an issued entry of a free line: its lookup, its answer, or its way to the channel. -/
def entryMove (s : State) (e : Nat) (t : Trk) : State :=
  let skn := sliceStation (sknSlice t.m.dla)
  if t.coherent && grantHeld s t then s
  else if !isRead t.m.op && !isWrite t.m.op then (if t.coherent then endNdr s e t (t.grant.getD .cmp) 0 else s)
  else if t.accepted || portFenced s skn 2 || !flitReaches s (hpStation t.m.port) skn 2 then s
  else if isDb s t.m.win && !t.coherent then lookStep s e t
  else if isDb s t.m.win && writeAhead s (lineIdx t.m.dla) t.gord then s
  else if isRead t.m.op then readStep s e t
  else writeStep s e t

/-- Moves one entry on as far as it can go: a CHAINED entry whose line is free is issued, and one whose order is fixed
goes to its skein slice, unless that is fenced (R297), isolated (R300) or behind a failed link (R301). In an HDM-DB window the lookup runs beside the
creel's, and nothing more happens before the creel slice grants the line (R12) and the channel has accepted every write of
the line granted before (R109). A grant whose creel record still waits to be transmitted waits with it (R344). -/
def entryPass (s : State) (e : Nat) : State :=
  match trkAt s e with
  | none => s
  | some t =>
    if blocked s t.ord t.m.seat (lineIdx t.m.dla) then s
    else
      let s := if t.st = .chained then modTrk s e fun _ => some { t with st := .issued } else s
      let t := if t.st = .chained then { t with st := .issued } else t
      entryMove s e t

/-- Keys of the entries that satisfy a test, in arrival order. -/
def entriesWhere (s : State) (f : Trk → Bool) : List Nat :=
  keysByOrd (fun _ o => match o with
    | some t => t.ord
    | none => 0) (s.trk.filter fun e => match e.2 with
      | some t => f t
      | none => false)

/-- Moves on the entries of one line, in arrival order. -/
def passLine (s : State) (line : Nat) : State :=
  (entriesWhere s fun t => lineIdx t.m.dla == line).foldl entryPass s

/-- Moves on every entry, in arrival order. -/
def passAll (s : State) : State := (entriesWhere s fun _ => true).foldl entryPass s

/-! ## Ingress (R83) -/

/-- An earlier waiting message of the same seat to the same line holds this one back. -/
def heldInIngress (before : List Msg) (m : Msg) : Bool :=
  before.any fun b => b.seat == m.seat && lineIdx b.dla == lineIdx m.dla

/-- The message as it came, for its refusal. -/
def m2sOf (m : Msg) : M2S :=
  { port := Fin.ofNat 4 m.port, link := Fin.ofNat 4 m.link, id := m.id, tag := m.tag, hpa := m.hpa, tee := false }

/-- A refused message completes at once (R62): reads with poison, everything else with Cmp. -/
def refuseMsg (s : State) (m : Msg) : State :=
  let s := countRefusal s (m2sOf m)
  if isRead m.op then sendDrs s m none 0 else sendNdr s m .cmp 0

/-- A message whose decode no longer stands when it leaves ingress is refused there (R74, R83). -/
def staleDecode (s : State) (m : Msg) : Bool :=
  match decodeM2S s (m2sOf m) with
  | some d => d.win != m.win || d.dla != m.dla
  | none => true

/-- The first message of a port's ingress buffer that can leave it, with those before and after it: one to be refused,
or one that can be granted an entry. -/
def pickIngress (s : State) : List Msg → List Msg → Option (List Msg × Msg × List Msg)
  | _, [] => none
  | before, m :: rest =>
    if heldInIngress before m then pickIngress s (before ++ [m]) rest
    else if staleDecode s m || (grantWay s m).isSome then some (before, m, rest)
    else pickIngress s (before ++ [m]) rest

/-- One message leaves a port's ingress buffer: refused, or granted an entry and issued or chained. -/
def ingressStep (s : State) (port : Nat) : State :=
  match pickIngress s [] (ingressAt s port) with
  | none => s
  | some (before, m, rest) =>
    let s := modIngress s port fun _ => before ++ rest
    if staleDecode s m then refuseMsg (if m.cred then returnCredit s m else s) m
    else
      match grantWay s m with
      | some way =>
        let (s, e) := takeEntry s m way
        entryPass s e
      | none => s

/-- Messages leave a port's ingress buffer in arrival order, as long as one of them can (R83): at most `n`. -/
def ingressRun : Nat → State → Nat → State
  | 0, s, _ => s
  | n + 1, s, port =>
    if (pickIngress s [] (ingressAt s port)).isSome then ingressRun n (ingressStep s port) port else s

/-- A message joins a port's ingress buffer, from which every message that can be granted an entry is taken, the earlier
first (R83). -/
def enterIngress (s : State) (m : Msg) : State :=
  let s := modIngress (noteUse s (poolOf m) m.seat) m.port fun q => q ++ [m]
  ingressRun (ingressAt s m.port).length s m.port

/-- A message arrives at a port: it takes a credit (R33) and joins the ingress buffer. -/
def arrive (s : State) (m : Msg) : State :=
  enterIngress (modLink s (linkKey m.port m.link) fun l =>
    if isWrite m.op then { l with credRwd := l.credRwd - 1 } else { l with credReq := l.credReq - 1 }) m

/-! ## Messages at a host port -/

/-- The port and link of a command that a sleeping host port holds (R358). -/
def heldLink : Instr → Option (Nat × Nat)
  | .memRd m _ => some (m.port, m.link)
  | .memRdData m => some (m.port, m.link)
  | .memSpecRd m => some (m.port, m.link)
  | .memInv m => some (m.port, m.link)
  | .memInvNt m => some (m.port, m.link)
  | .memClnEvct m => some (m.port, m.link)
  | .biConflict m => some (m.port, m.link)
  | .memWr m _ => some (m.port, m.link)
  | .memWrPtl m _ _ => some (m.port, m.link)
  | .biRsp m _ => some (m.port, m.link)
  | .unsupportedM2sOpcode m _ => some (m.port, m.link)
  | .sqTailDoorbell m _ _ => ofDoorbell m
  | .cqHeadDoorbell m _ _ => ofDoorbell m
  | .ringEnable m _ _ => ofDoorbell m
  | .ringDisable m _ _ => ofDoorbell m
  | .cqSetup m _ _ => ofDoorbell m
  | _ => none
where
  ofDoorbell : M2S ⊕ (Fn × Nat) → Option (Nat × Nat)
    | .inl m => some (m.port, m.link)
    | .inr _ => none

/-- The held message is an M2S RwD: a write, or a BIConflict (PRESUMED, CXL 3.1; log entry 25). -/
def heldRwd : Instr → Bool
  | .biConflict _ => true
  | .memWr _ _ => true
  | .memWrPtl _ _ _ => true
  | .unsupportedM2sOpcode _ w => w
  | .sqTailDoorbell _ _ _ => true
  | .cqHeadDoorbell _ _ _ => true
  | .ringEnable _ _ _ => true
  | .ringDisable _ _ _ => true
  | .cqSetup _ _ _ => true
  | _ => false

/-- Credits of a link that no waiting message of a sleeping port holds (R34, R358). -/
def creditsLeft (s : State) (port link : Nat) (rwd : Bool) : Nat :=
  let l := linkAt s (linkKey port link)
  let held := s.power.held.filter fun h => heldLink h.2 == some (port, link) && heldRwd h.2 == rwd && match h.2 with
    | .biRsp _ _ => false
    | _ => true
  (if rwd then l.credRwd else l.credReq) - held.length

/-- A message as the tracker holds it; seat 1024 where its path names none. -/
def msgOf (s : State) (m : M2S) (d : Option Dec) (op : ReqOp) (data : List Byte) (mask : BitVec 64) : Msg :=
  let d := d.getD { seat := (seatOf s m.port m.link m.id).getD 1024, win := 0, ali := 0, dla := 0, qc := 0 }
  { seat := d.seat, port := m.port, link := m.link, id := m.id, tag := m.tag, op := op, hpa := m.hpa, win := d.win,
    ali := d.ali, dla := d.dla, qc := d.qc, data := data, mask := mask }

/-- A message that takes no tracker entry leaves ingress (R34, R446). -/
def leavesIngress (s : State) (m : M2S) (rwd : Bool) : State := pmuEvent s 0 m.port (if rwd then 0x11 else 0x10)

/-- A request that the port may not serve: a read-class one completes with poison, a write-class one with Cmp (R27, R39). -/
def turnAway (s : State) (m : M2S) (rwd : Bool) : State :=
  let s := leavesIngress s m rwd
  if rwd then sendNdr s (msgOf s m none .wr [] 0) .cmp 0 else sendDrs s (msgOf s m none .rdData [] 0) none 0

/-- Kind of an occurrence under R27 in its event, by the row of its table (log entry 16): packets for another PBR ID, a Type 2
or reserved opcode, a TEE attribute. -/
def protoPbr : Nat := 3
def protoOpcode : Nat := 4
def protoTee : Nat := 5

/-- An M2S message arrives (R31, R34, R39, R358): `rwd` is its channel, `hint` a message that is never answered, `row` the
command, kept while the port sleeps; `f` is what the port does with it. A packet for another PBR ID is discarded (R27). -/
def m2sGate (s : State) (m : M2S) (row : Instr) (rwd hint : Bool) (f : State → State) : State :=
  let k := linkKey m.port m.link
  let l := linkAt s k
  if !l.up || !l.mem || creditsLeft s m.port m.link rwd == 0 || (domAt s (2 + m.port.val)).st = .off then s
  else if domShut s (2 + m.port.val) then holdFor s (2 + m.port.val) row
  else
    let s := unIdleFabric (unIdle s (2 + m.port.val))
    if m.other then leavesIngress (protoOccurrence s m.port m.link protoPbr) m rwd
    else if bitOf (regN s (hpBase m.port + 0x10C + 0x40 * m.link.val)) 0 && l.ideMem != .active then
      if hint then leavesIngress s m rwd else turnAway s m rwd
    else if m.tee then turnAway (protoOccurrence s m.port m.link protoTee) m rwd
    else f s

/-- What a refused message is answered with (R62); a BIConflict with the NDR that R36 gives it (DEDUCED, log entry 25). -/
def refuseM2S (s : State) (m : M2S) (op : ReqOp) : State :=
  let s := countRefusal (leavesIngress s m (isWrite op)) m
  if isRead op then sendDrs s (msgOf s m none op [] 0) none 0 else sendNdr s (msgOf s m none op [] 0) .cmp 0

end Sys2Proof.Machine
end

