-- ==== Sys2Proof/Machine/CreelOps.lean ====
section
/-! DEFINITION. The creel as operations: slices and entries (R95–R97), requests and grants (R98–R100), the conflict
queue (R104), snoops and crossing records (R106–R109), serial mode (R114) and records for the partner (R344). -/

namespace Sys2Proof.Machine

open Sys2Proof

/-! ## Entries -/

/-- Slice and set of a DLA (R95). -/
def crlSlice (dla : Nat) : Nat := fld dla 9 6 ^^^ fld dla 13 10 ^^^ fld dla 17 14 ^^^ fld dla 21 18
def crlSet (dla : Nat) : Nat := fld dla 23 10 ^^^ fld dla 37 24

/-- Key of a way. -/
def wayKey (slice set way : Nat) : Nat := slice * 262144 + set * 16 + way

/-- Key of the entry that holds a line, mirror entries apart. -/
def findEntry (s : State) (line : Nat) : Option Nat :=
  let base := wayKey (crlSlice (line * 64)) (crlSet (line * 64)) 0
  ((List.range 16).map (base + ·)).find? fun k =>
    let c := creelAt s k
    c.st != .invalid && c.line == line && !c.mir

/-- Bits 50:39 and 103:64 of an entry (R96). -/
def fmtCode : Fmt → Nat
  | .ptr => 0
  | .grp => 1
  | .bcast => 2

def cstCode : CState → Nat
  | .invalid => 0
  | .shared => 1
  | .exclusive => 2
  | .busy => 3
  | .poisoned => 4

def ptrBits : List Nat → Nat
  | [] => 0
  | p :: t => p + 1024 * ptrBits t

def centryMid (c : Centry) : Nat :=
  cstCode c.st + 8 * fmtCode c.fmt + 32 * (if c.fmt = .ptr then c.ptrs.length else 0) + 256 * c.amask.toNat

def centrySharers (c : Centry) : Nat := if c.fmt = .ptr then ptrBits c.ptrs else c.grp.toNat

/-- The creel record of an entry (R344). -/
def crecOf (c : Centry) : CrecRec :=
  { line := c.line, mid := BitVec.ofNat 12 (centryMid c), sharers := BitVec.ofNat 40 (centrySharers c) }

/-- Sends one creel record to the partner in the open batch (R344). -/
def sendCrec (s : State) (c : Centry) : State :=
  let b : PlyBody := .crec s.pair.batch [crecOf c]
  match portFor s b with
  | some p =>
    let s := { s with pair := { s.pair with
      batchUsed := true, batchAt := if s.pair.batchUsed then s.pair.batchAt else s.now } }
    modPly (plySend s p b) p fun x => { x with crec := true }
  | none => s

/-- Writes an entry. A change in a mirrored HDM-DB window that the primary holds in SYNC or RESYNC goes to the partner
before any grant it gives (R344). -/
def setCentry (s : State) (key : Nat) (c : Centry) : State :=
  let o := creelAt s key
  let s := modCreel s key fun _ => c
  let line := if c.st = .invalid then o.line else c.line
  match winOfDla s (line * 64) with
  | some w =>
    let x := winAt s w
    if mirrorPrimary s w && x.db && (x.ms = .sync || x.ms = .resync) && !(o.mir || c.mir) then
      sendCrec s { c with line := line }
    else s
  | none => s

/-- Frees an entry. -/
def freeCentry (s : State) (key : Nat) : State := setCentry s key {}

/-- Seats that can be snooped: not DETACHED and in the image (R97, R110). A DISABLING seat that had gone DETACHED, or has
lost its last path since, is not. -/
def snoopable (s : State) (seat : Nat) : Bool :=
  let x := seatAt s seat
  x.state = .attached || x.state = .suspect || (x.state = .disabling && !x.gone)

/-- The holders an entry may stand for, in ascending order (R97). -/
def holdersOf (s : State) (w : Nat) (c : Centry) : List Nat :=
  match c.fmt with
  | .ptr => sortNat c.ptrs
  | .grp => (sortNat (winSeats s w)).filter fun x => bitOf c.grp.toNat (x / 32)
  | .bcast => sortNat (winSeats s w)

/-- The snoop set of an entry: DETACHED seats and the requester left out (R97). -/
def snoopSet (s : State) (w : Nat) (c : Centry) (requester : Option Nat) : List Nat :=
  (holdersOf s w c).filter fun x => snoopable s x && requester != some x

/-- Aliases through which some holder may hold the line (R106). -/
def aliasesOf (c : Centry) : List Nat := (List.range 4).filter fun k => c.amask.getLsbD k

/-- Adds a holder (R97): PTR up to four, GRP for the fifth, BCAST when the groups cover more than the owners. -/
def addHolder (s : State) (w seat ali : Nat) (c : Centry) : Centry :=
  let c := { c with amask := c.amask ||| (1#4 <<< ali), used := s.stamp }
  match c.fmt with
  | .ptr =>
    if c.ptrs.contains seat then c
    else if c.ptrs.length < 4 then { c with ptrs := c.ptrs ++ [seat] }
    else
      let g := (seat :: c.ptrs).foldl (fun g x => g ||| (1#32 <<< (x / 32))) (0#32)
      widen { c with fmt := .grp, ptrs := [], grp := g }
  | .grp => widen { c with grp := c.grp ||| (1#32 <<< (seat / 32)) }
  | .bcast => c
where
  /-- GRP becomes BCAST when 32 times its groups exceed the members of the owning group. -/
  widen (c : Centry) : Centry :=
    if groupSize s w < 32 * popcount 32 c.grp.toNat then { c with fmt := .bcast, grp := 0 } else c

/-- A holder alone in EXCLUSIVE: always PTR (R97). -/
def soleHolder (s : State) (line seat : Nat) (amask : BitVec 4) (ali : Nat) : Centry :=
  { line := line, st := .exclusive, fmt := .ptr, ptrs := [seat], amask := amask ||| (1#4 <<< ali), used := s.stamp }

/-! ## Serial arbiter mode (R114) -/

/-- The causes of serial arbiter mode (R122): initialisation, test, rebuild, recovery. -/
def serialCause (s : State) : Nat :=
  b2n ((List.range 16).any fun i => !(sliceAt s i).ready) + 2 * b2n (bitOf (regN s (crlBase 0 + 0x40)) 0) +
  4 * b2n s.pair.rebuild + 8 * b2n ((List.range 16).any fun i => (sliceAt s i).recov)

def serialMode (s : State) : Bool := serialCause s != 0

/-! ## Snoops -/

/-- Crossing records of a slice in use. -/
def xingsOf (s : State) (slice : Nat) : Tab (Option Xing) :=
  s.xing.filter fun e => decide (slice * 128 ≤ e.1) && decide (e.1 < slice * 128 + 128)

/-- The active request of the line still owes snoops: gives free records to as many as there are, in ascending seat
order (R106). -/
def fillRecords : Nat → State → Nat → State
  | 0, s, _ => s
  | n + 1, s, line =>
    match actAt s line with
    | none => s
    | some a =>
      match a.todo with
      | [] => s
      | (seat, ali) :: rest =>
        let slice := crlSlice (line * 64)
        let r := firstGap (slice * 128) ((xingsOf s slice).map (·.1))
        if slice * 128 + 128 ≤ r then s
        else
          let s := modXing s r fun _ => some { line := line, seat := seat, ali := ali, kind := a.snp, win := a.win }
          fillRecords n (modAct s line fun _ => some { a with todo := rest }) line

/-- Lines whose active request still owes snoops that hold no record. -/
def hungryLines (s : State) (slice : Nat) : List Nat :=
  s.acts.filterMap fun e => match e.2 with
    | some a => if a.todo ≠ [] && crlSlice (e.1 * 64) == slice then some e.1 else none
    | none => none

/-- A record has freed: the waiting snoops of its slice take it. -/
def refill (s : State) (slice : Nat) : State :=
  (hungryLines s slice).foldl (fun t l => fillRecords 128 t l) s

/-- Starts the snoops of a request that becomes the line's active request (R99, R104, R106). -/
def startSnoops (s : State) (line : Nat) (a : Active) (aliases : List Nat) : State :=
  let todo := a.seats.flatMap fun x => aliases.map fun k => (x, k)
  let s := modAct s line fun _ => some { a with todo := todo }
  fillRecords (todo.length + 1) s line

/-- Marks the entry of a line BUSY. -/
def setBusy (s : State) (line : Nat) : State :=
  match findEntry s line with
  | some k => setCentry s k { creelAt s k with st := .busy }
  | none => s

/-! ## Grants -/

/-- Kind of a request at its slice (R98). A request that has been answered at its ceiling is served without a grant:
MemInv and MemInvNT as an invalidate, a read as a current read (R88; DEDUCED for reads, log entry 13). -/
def kindOf (t : Trk) : Kind :=
  if t.st = .abandoned && !isWrite t.m.op then
    match t.m.op with
    | .clnEvct => .cleanEvict
    | .inv | .invNT => .invalidate
    | _ => .current
  else
    match t.m.op with
    | .rd .snpData => .sharedRd false
    | .rd .snpInv => .own
    | .rd .snpCur | .rd .noOp => .current
    | .rdData => .sharedRd true
    | .inv => .own
    | .invNT => .invalidate
    | .clnEvct => .cleanEvict
    | .wr | .wrPtl => .write (t.m.op = .wr || t.poisonWr)

/-- Asks for a back-invalidation of a line (R72, R74, R115): from one seat, from every holder (1024), or from every member
of the owning group (1025). -/
def queuePurge (s : State) (line seat : Nat) : State :=
  modSlice s (crlSlice (line * 64)) fun x =>
    if x.purges.contains (line, seat) then x else { x with purges := x.purges ++ [(line, seat)] }

/-- A grant that makes a holder of a line whose window, block or seat has begun to go: the line is back-invalidated like
those held when it began (R72, R74). -/
def purgeGranted (s : State) (m : Msg) (g : Option Ndr) : State :=
  if g = some .cmpS ∨ g = some .cmpE then
    if (winAt s m.win).state = .disabling ∨ ((winAt s m.win).dc ∧ (blockAt s (m.dla / 0x10000000)).st = 3) then
      queuePurge s (lineIdx m.dla) 1024
    else if (seatAt s m.seat).state = .disabling then queuePurge s (lineIdx m.dla) m.seat
    else s
  else s

/-- The request of an entry is granted its line: its serialisation point (R86). What the request still needs is done at
once, then the requests behind it move on. A read that finds its line POISONED is answered with DevLoad 0 (DESIGN CHOICE,
log entry 81). -/
def grantTrk (s : State) (e : Nat) (g : Option Ndr) (poison : Bool) : State :=
  match trkAt s e with
  | none => s
  | some t =>
    let t := { t with coherent := true, serial := true, grant := g, gord := s.stamp,
                      st := if t.st = .cohere then .issued else t.st }
    let s := purgeGranted (stampNext (modTrk s e fun _ => some t)) t.m g
    let s :=
      if isRead t.m.op then (if poison then endRead s e t none 0 else entryPass s e)
      else if isWrite t.m.op then
        let s' := entryPass s e
        match trkAt s' e with
        | some t' => if poison && t.m.op = .wrPtl then endNdr s e t .cmp 0 else forwardWrite s' e t' t'.poisonWr
        | none => s'
      else if grantHeld s t then s
      else endNdr s e t (g.getD .cmp) 0
    passLine s (lineIdx t.m.dla)

/-- An agent's descriptor has its line: it is remembered with the descriptor (R116). -/
def grantAgent (s : State) (n line : Nat) : State :=
  modDesc s n fun o => o.map fun d => { d with lines := line :: d.lines }

/-- Grants a request of any origin. -/
def grantTo (s : State) (who : Origin) (line : Nat) (g : Option Ndr) (poison : Bool) : State :=
  match who with
  | .trk e => grantTrk s e g poison
  | .agent n => grantAgent s n line
  | _ => s

/-- Puts a request into the slice's conflict queue; a full queue leaves it in REQ (R104). -/
def enqueueConf (s : State) (line : Nat) (who : Origin) (k : Kind) (seat ali : Nat) : State :=
  let slice := crlSlice (line * 64)
  let q := (sliceAt s slice).confq
  if q.any (fun x => x.1 == line && x.2.1 == who) then s
  else if q.length < 512 then
    let s := modSlice s slice fun x => { x with confq := x.confq ++ [(line, who, k, seat, ali)] }
    match who with
    | .trk e => modTrk s e fun o => o.map fun t => { t with st := if t.st = .issued then .cohere else t.st }
    | _ => s
  else s

/-! ## Allocation (R100) -/

/-- What allocation in a set finds. -/
inductive Alloc where
  | way (key : Nat)
  | victim (key : Nat)
  | allBusy
  deriving DecidableEq, Repr

/-- An INVALID way (mirror entries are replaced last), else a POISONED way, else the least recently used way that is
not BUSY. The manual's pseudo-least-recently-used choice is taken as exact: the oldest `used` stamp, the lowest way among
equals (DESIGN CHOICE, log entry 83). -/
def findWay (s : State) (dla : Nat) : Alloc :=
  let base := wayKey (crlSlice dla) (crlSet dla) 0
  let keys := (List.range 16).map (base + ·)
  match keys.find? fun k => (creelAt s k).st = .invalid with
  | some k => .way k
  | none =>
    match keys.find? fun k => (creelAt s k).st = .poisoned && !(creelAt s k).mir with
    | some k => .way k
    | none =>
      let live := keys.filter fun k => (creelAt s k).st != .busy && !(creelAt s k).mir
      match live with
      | [] => match keys.find? fun k => (creelAt s k).mir with
        | some k => .way k
        | none => .allBusy
      | k :: t => .victim (t.foldl (fun b x => if (creelAt s x).used < (creelAt s b).used then x else b) k)

/-- The set of a line must be snooped before it is trusted as INVALID: broadcast-on-miss (R115), or UNSURE for a
promoted window (R346). -/
def missBroadcasts (s : State) (w dla : Nat) : Bool :=
  let x := sliceAt s (crlSlice dla)
  x.bcast.contains (crlSet dla) || (x.unsure.contains (crlSet dla) && s.pair.promoted.contains w)

/-! ## Serving a request (R99) -/

/-- A victim's snoops are under way for a request of the line (R100). -/
def victimFor (s : State) (line : Nat) : Bool :=
  s.acts.any fun e => match e.2 with
    | some a => a.vFor == some line
    | none => false

/-- A request that allocates: takes a way, or evicts a victim and waits (R100). -/
def allocate (s : State) (line : Nat) (c : Centry) (who : Origin) (k : Kind) (seat ali : Nat) (g : Ndr) : State :=
  match findWay s (line * 64) with
  | .way key =>
    let evicted := (creelAt s key).st = .poisoned && !(creelAt s key).mir
    let s := if evicted then bump s (crlBase (crlSlice (line * 64)) + 0x10) else s
    grantTo (stampNext (setCentry s key c)) who line (some g) false
  | .victim key =>
    let v := creelAt s key
    let w := (winOfDla s (v.line * 64)).getD 0
    let s := bump s (crlBase (crlSlice (line * 64)) + 0x10)
    let set := snoopSet s w v none
    if set = [] then grantTo (stampNext (setCentry (freeCentry s key) key c)) who line (some g) false
    else startSnoops (setBusy (enqueueConf s line who k seat ali) v.line) v.line
      { who := .victim, kind := .invalidate, snp := .inv, seats := set, todo := [], win := w, ali := 0,
        excl := v.st = .exclusive, vFor := some line } (aliasesOf v)
  | .allBusy => enqueueConf s line who k seat ali

/-- Seats that a miss which broadcasts snoops for a request of `seat` (R115, R346). -/
def missMembers (s : State) (w seat : Nat) : List Nat :=
  (sortNat (winSeats s w)).filter fun x => snoopable s x && !(decide (seat < 1024) && x == seat)

/-- The request only joins the conflict queue: its line is BUSY, or every way it could take is busy or must first be snooped
away (R100, R104). -/
def staysQueued (s : State) (line w : Nat) (k : Kind) (seat : Nat) : Bool :=
  match findEntry s line with
  | some key => (creelAt s key).st = .busy
  | none =>
    if missBroadcasts s w (line * 64) && k != .cleanEvict && missMembers s w seat != [] then false
    else match k with
      | .sharedRd _ | .own => match findWay s (line * 64) with
        | .way _ => false
        | .victim key => snoopSet s ((winOfDla s ((creelAt s key).line * 64)).getD 0) (creelAt s key) none != []
        | .allBusy => true
      | _ => false

/-- Serves a request to a line that no request is active for. One that becomes active is counted, once (R446). `seat` is 1024 for an agent without caches. A miss that
broadcasts (R115) is snooped away before any request but a clean eviction, allocating or not (DESIGN CHOICE, log entry 86);
where nobody else can be snooped it is served at once. -/
def creelServe (s : State) (line w : Nat) (who : Origin) (k : Kind) (seat ali : Nat) (fresh : Bool) : State :=
  let dla := line * 64
  let req : Option Nat := if seat < 1024 then some seat else none
  let snoop := fun (t : State) (kind : SnpKind) (set : List Nat) (aliases : List Nat) =>
    let t := match who with
      | .trk e => modTrk t e fun o => o.map fun x => { x with st := if x.st = .issued then .cohere else x.st }
      | _ => t
    let excl := match findEntry t line with
      | some key => (creelAt t key).st = .exclusive
      | none => false
    startSnoops (setBusy t line) line
      { who := who, kind := k, snp := kind, seats := set, todo := [], win := w, ali := ali, excl := excl } aliases
  let s := if fresh || staysQueued s line w k seat then s else pmuEvent s 2 (crlSlice dla) 0x30
  match findEntry s line with
  | none =>
    let members := missMembers s w seat
    if missBroadcasts s w dla && !fresh && k != .cleanEvict && members != [] then
      snoop s .inv members (List.range ((winAt s w).aliasN + 1))
    else
      match k with
      | .sharedRd true => allocate s line (soleHolder s line seat 0 ali) who k seat ali .cmpE
      | .sharedRd false =>
        allocate s line { line := line, st := .shared, ptrs := [seat], amask := 1#4 <<< ali, used := s.stamp } who k seat ali .cmpS
      | .own => allocate s line (soleHolder s line seat 0 ali) who k seat ali .cmpE
      | .current => grantTo s who line none false
      | _ => grantTo s who line (some .cmp) false
  | some key =>
    let c := creelAt s key
    let others := snoopSet s w c req
    match c.st with
    | .shared =>
      match k with
      | .sharedRd _ => grantTo (stampNext (setCentry s key (addHolder s w seat ali c))) who line (some .cmpS) false
      | .current => grantTo s who line none false
      | .cleanEvict =>
        let s := if c.fmt = .ptr then
            let ps := c.ptrs.filter (· != seat)
            if ps = [] then freeCentry s key else setCentry s key { c with ptrs := ps }
          else s
        grantTo s who line (some .cmp) false
      | .own =>
        if others = [] then grantTo (stampNext (setCentry s key (soleHolder s line seat c.amask ali))) who line (some .cmpE) false
        else snoop s .inv others (aliasesOf c)
      | _ =>
        if others = [] then grantTo (freeCentry s key) who line (some .cmp) false
        else snoop s .inv others (aliasesOf c)
    | .exclusive =>
      if req.isSome && c.ptrs = [seat] then
        match k with
        | .sharedRd _ | .own =>
          grantTo (stampNext (setCentry s key (soleHolder s line seat c.amask ali))) who line (some .cmpE) false
        | .current => grantTo s who line none false
        | _ => grantTo (freeCentry s key) who line (some .cmp) false
      else
        match k with
        | .sharedRd _ => snoop s .data others (aliasesOf c)
        | .current => snoop s .cur others (aliasesOf c)
        | .cleanEvict => grantTo s who line (some .cmp) false
        | _ => snoop s .inv others (aliasesOf c)
    | .poisoned =>
      match k with
      | .sharedRd _ | .own => grantTo s who line (some .cmp) true
      | .current => grantTo s who line none true
      | .write true => grantTo (freeCentry s key) who line (some .cmp) false
      | .write false => grantTo s who line (some .cmp) true
      | _ => grantTo s who line (some .cmp) false
    | .busy => enqueueConf s line who k seat ali
    | .invalid => s

/-! ## Completion of the active request -/

/-- The entry after a holder of a line that is being purged has been invalidated: a PTR entry loses the pointers, and
GRP and BCAST never shrink (R74, R97). -/
def afterPurge (s : State) (key : Nat) (gone : List Nat) (all : Bool) : State :=
  let c := creelAt s key
  if all then freeCentry s key
  else if c.fmt = .ptr then
    let ps := c.ptrs.filter fun p => !gone.contains p
    if ps = [] then freeCentry s key else setCentry s key { c with st := .shared, ptrs := ps }
  else setCentry s key { c with st := .shared }

/-- Strongest answer of a seat: EXCLUSIVE over SHARED over INVALID (R106). -/
def strongest (a b : BiAns) : BiAns :=
  match a, b with
  | .e, _ => .e
  | _, .e => .e
  | .s, _ => .s
  | _, .s => .s
  | .i, .i => .i

/-- The kind the active request has when its last snoop completes: what its entry asks for now, since it may have been
answered at its ceiling meanwhile (R88). A requester that is gone (R47, R89) is granted nothing. -/
def kindNow (s : State) (a : Active) : Kind :=
  let gone := match a.kind with
    | .own => .invalidate
    | .sharedRd _ => .current
    | k => k
  match a.who with
  | .trk e => match trkAt s e with
    | some t => kindOf t
    | none => gone
  | .agent n => if (descAt s n).isNone then gone else a.kind
  | _ => a.kind

/-- The last snoop of the active request completes: the entry takes its state and the request is served (R99, R109). -/
def completeActive (s : State) (line : Nat) (a : Active) : State :=
  let s := modAct s line fun _ => none
  let seat := match a.who with
    | .trk e => match trkAt s e with
      | some t => t.m.seat
      | none => 1024
    | _ => 1024
  let a := { a with kind := kindNow s a }
  match a.who with
  | .victim => match findEntry s line with
    | some k => freeCentry s k
    | none => s
  | .recover => match findEntry s line with
    | some k => freeCentry s k
    | none => s
  | .purge => match findEntry s line with
    | some k => afterPurge s k a.seats (a.kind = .invalidate)
    | none => s
  | who =>
    match findEntry s line with
    | none => creelServe s line a.win who a.kind seat a.ali true
    | some key =>
      let c := creelAt s key
      let ans := match a.answers with
        | (_, x) :: _ => x
        | [] => .i
      match a.kind with
      | .own => grantTo (stampNext (setCentry s key (soleHolder s line seat c.amask a.ali))) who line (some .cmpE) false
      | .sharedRd excl =>
        if c.ptrs.length == 1 && c.fmt = .ptr && ans != .i && a.snp = .data then
          let h := c.ptrs.headD 0
          grantTo (stampNext (setCentry s key { c with
            st := .shared, ptrs := [h, seat], amask := c.amask ||| (1#4 <<< a.ali), used := s.stamp })) who line (some .cmpS) false
        else
          let n : Centry := if excl then soleHolder s line seat 0 a.ali
            else { line := line, st := .shared, ptrs := [seat], amask := 1#4 <<< a.ali, used := s.stamp }
          grantTo (stampNext (setCentry s key n)) who line (some (if excl then .cmpE else .cmpS)) false
      | .current =>
        let s := if a.snp = .inv then freeCentry s key else match ans with
          | .e => setCentry s key { c with st := .exclusive }
          | .s => setCentry s key { c with st := .shared }
          | .i => freeCentry s key
        grantTo s who line none false
      | _ => grantTo (freeCentry s key) who line (some .cmp) false

/-- Records of a line that are still open. -/
def openXings (s : State) (line : Nat) : Bool := s.xing.any fun e => match e.2 with
  | some x => x.line == line
  | none => false

/-- After a snoop of a line has completed: the waiting snoops take its record, and the request completes when none is
left (R109). -/
def afterSnoop (s : State) (line : Nat) : State :=
  let s := refill s (crlSlice (line * 64))
  match actAt s line with
  | some a => if a.todo = [] && !openXings s line then completeActive s line a else s
  | none => s

/-- A snoop completes with an answer: its record is freed and the answer kept. -/
def snoopDone (s : State) (r : Nat) (x : Xing) (ans : BiAns) : State :=
  let s := modXing s r fun _ => none
  let s := modAct s x.line fun o => o.map fun a =>
    let old := match a.answers.find? fun p => p.1 == x.seat with
      | some p => strongest p.2 ans
      | none => ans
    { a with answers := (x.seat, old) :: a.answers.filter fun p => p.1 != x.seat }
  afterSnoop s x.line

/-- A request that its slice has tried to serve still waits: it is neither active nor granted. -/
def stillWaits (s : State) (line : Nat) (who : Origin) : Bool :=
  !(match actAt s line with
    | some a => a.who == who
    | none => false) &&
  match who with
  | .trk e => match trkAt s e with
    | some t => !t.coherent
    | none => false
  | .agent n => match descAt s n with
    | some d => !d.lines.contains line
    | none => false
  | _ => false

/-- A back-invalidation that waited becomes the line's active request: of one seat, of every holder, or, in a recovery, of
every member of the owning group through every alias (R72, R74, R115). -/
def startPurge (s : State) (line seat : Nat) : State :=
  let s := modSlice s (crlSlice (line * 64)) fun x => { x with purges := x.purges.filter (· != (line, seat)) }
  match findEntry s line with
  | none => s
  | some key =>
    let c := creelAt s key
    let w := (winOfDla s (line * 64)).getD 0
    let go := fun (who : Origin) (k : Kind) (set aliases : List Nat) =>
      startSnoops (setBusy s line) line
        { who := who, kind := k, snp := .inv, seats := set, todo := [], win := w, ali := 0, excl := c.st = .exclusive } aliases
    if seat = 1025 then
      let set := (sortNat (winSeats s w)).filter (snoopable s)
      if set = [] then freeCentry s key else go .recover .invalidate set (List.range ((winAt s w).aliasN + 1))
    else
      let set := (snoopSet s w c none).filter fun x => decide (1024 ≤ seat) || x == seat
      if c.st = .poisoned then s
      else if set = [] then (if 1024 ≤ seat then freeCentry s key else s)
      else go .purge (if 1024 ≤ seat then .invalidate else .cleanEvict) set (aliasesOf c)

/-- The next waiting request for a line becomes active (R104): a back-invalidation first, then the requests in arrival
order. One that still waits, for a way or a victim, keeps its place (R100). -/
def advanceConf (s : State) (line : Nat) : State :=
  let slice := crlSlice (line * 64)
  if (actAt s line).isSome then s
  else match (sliceAt s slice).purges.find? fun p => p.1 == line with
  | some p => startPurge s line p.2
  | none =>
    if victimFor s line then s
    else match (sliceAt s slice).confq.find? fun x => x.1 == line with
    | none => s
    | some (_, who, k, seat, ali) =>
      let leave := fun (s : State) => modSlice s slice fun x => { x with
        confq := x.confq.filter fun y => !(y.1 == line && y.2.1 == who) }
      let w := (winOfDla s (line * 64)).getD 0
      let stale := match who with
        | .trk e => (trkAt s e).isNone
        | .agent n => (descAt s n).isNone
        | _ => true
      if stale then leave s
      else
        let k := match who with
          | .trk e => match trkAt s e with
            | some t => kindOf t
            | none => k
          | _ => k
        let s := creelServe s line w who k seat ali false
        if stillWaits s line who then s else leave s

/-- The arbiter at ST0 takes charge of what reaches the slices, or gives it up, once nothing is active or waiting in a slice
(R114). -/
def serialSwitch (s : State) : State :=
  if serialMode s != s.serialIn && s.acts == [] && (List.range 16).all fun i => (sliceAt s i).confq == [] then
    { s with serialIn := serialMode s }
  else s

/-- Requests are admitted: not between a change of the mode and the end of what was active before it (R114). -/
def admits (s : State) : Bool := serialMode s == s.serialIn

/-- A request of any origin reaches its slice: it becomes active, or waits behind the line's active request (R104). In
serial arbiter mode it waits at ST0 instead (R114). -/
def creelRequest (s : State) (line w : Nat) (who : Origin) (k : Kind) (seat ali : Nat) : State :=
  let s := serialSwitch (unIdle (unIdleFabric s) 22)
  let waiting := (sliceAt s (crlSlice (line * 64))).confq.any fun x => x.1 == line
  if !admits s then s
  else if (actAt s line).isSome || waiting || victimFor s line then
    (if serialMode s then s else enqueueConf s line who k seat ali)
  else creelServe s line w who k seat ali false

/-- An agent without caches asks for a line (R116): answered at once where nothing must be snooped. -/
def agentRequest (s : State) (n line w : Nat) (write full : Bool) : State :=
  creelRequest s line w (.agent n) (if write then .write full else .current) 1024 0

/-! ## Back-invalidating holders (R72, R74) -/

/-- Back-invalidates a line: from every holder, or from one seat only. -/
def purgeLine (s : State) (line : Nat) (seat : Option Nat) : State := advanceConf (queuePurge s line (seat.getD 1024)) line

/-- Lines of live entries that satisfy a test. -/
def creelLines (s : State) (f : Centry → Bool) : List Nat :=
  s.creel.filterMap fun e => if e.2.st != .invalid && !e.2.mir && f e.2 then some e.2.line else none

/-- Back-invalidates every sharer of the lines of a DLA range (R72, R74). -/
def purgeRange (s : State) (dla len : Nat) : State :=
  (creelLines s fun c => decide (dla ≤ c.line * 64) && decide (c.line * 64 < dla + len) && c.st != .poisoned).foldl
    (fun t l => purgeLine t l none) s

/-- Back-invalidates a seat from every line it may hold (R74). -/
def purgeSeat (s : State) (seat : Nat) : State :=
  (creelLines s fun c => c.st != .poisoned &&
    match winOfDla s (c.line * 64) with
    | some w => (holdersOf s w c).contains seat
    | none => false).foldl (fun t l => purgeLine t l (some seat)) s

/-- A purge that the test names, by its line and seats, is still under way or waiting. -/
def purgePending (s : State) (f : Nat → List Nat → Bool) : Bool :=
  (s.acts.any fun e => match e.2 with
    | some a => a.who = .purge && f e.1 a.seats
    | none => false) ||
  (List.range 16).any fun i => (sliceAt s i).purges.any fun p => f p.1 [p.2]

end Sys2Proof.Machine
end

