-- ==== Sys2Proof/Machine/Plz.lean ====
section
/-! DEFINITION. PLZ segments (R149–R152) and the in-line encoder's outcome (R153). -/

namespace Sys2Proof.Machine

open Sys2Proof

/-- Stream bit `i` (R149). -/
def plzBit (b : List Byte) (i : Nat) : Bool := (b.getD (i / 8) 0).getLsbD (i % 8)

/-- `n` bits at `pos`, least significant first; none past the encoding's end. -/
def plzBits (b : List Byte) (pos n : Nat) : Option Nat :=
  if pos + n ≤ 8 * b.length then
    some ((List.range n).foldl (fun a i => a + (if plzBit b (pos + i) then 2 ^ i else 0)) 0)
  else none

/-- Kinds of token (R150). -/
inductive PlzKind where
  | lit | near | rep | far | zero | fin
  deriving DecidableEq, Repr

/-- The kind prefix at `pos`, and how many bits it has. -/
def plzKind (b : List Byte) (pos : Nat) : Option (PlzKind × Nat) :=
  match plzBits b pos 1 with
  | none => none
  | some 0 => some (.lit, 1)
  | some _ =>
    match plzBits b (pos + 1) 1 with
    | none => none
    | some 0 => some (.near, 2)
    | some _ =>
      match plzBits b (pos + 2) 1 with
      | none => none
      | some 0 => some (.rep, 3)
      | some _ =>
        match plzBits b (pos + 3) 1 with
        | none => none
        | some 0 => some (.far, 4)
        | some _ =>
          match plzBits b (pos + 4) 1 with
          | none => none
          | some 0 => some (.zero, 5)
          | some _ => some (.fin, 5)

/-- litlen() of R151: the length and the next position. -/
def plzLitLen (b : List Byte) (pos : Nat) : Option (Nat × Nat) :=
  match plzBits b pos 4 with
  | none => none
  | some l => if l < 15 then some (l + 1, pos + 4) else (plzBits b (pos + 4) 8).map fun x => (16 + x, pos + 12)

/-- zerolen() of R151. -/
def plzZeroLen (b : List Byte) (pos : Nat) : Option (Nat × Nat) :=
  match plzBits b pos 4 with
  | none => none
  | some z => if z < 15 then some (z + 4, pos + 4) else (plzBits b (pos + 4) 9).map fun x => (19 + x, pos + 13)

/-- matchlen(base) of R151. -/
def plzMatchLen (b : List Byte) (pos base : Nat) : Option (Nat × Nat) :=
  match plzBits b pos 3 with
  | none => none
  | some m => if m < 7 then some (base + m, pos + 3) else (plzBits b (pos + 3) 8).map fun x => (base + 7 + x, pos + 11)

/-- A token (R150). A repeat-offset match names no offset of its own. -/
inductive PlzTok where
  | lit (n : Nat)
  | zero (n : Nat)
  | copy (off : Option Nat) (n : Nat)
  | fin
  deriving DecidableEq, Repr

/-- The token at `pos`, and the position after its fields; none where they run past the encoding's end. -/
def plzToken (b : List Byte) (pos : Nat) : Option (PlzTok × Nat) :=
  match plzKind b pos with
  | none => none
  | some (.fin, k) => some (.fin, pos + k)
  | some (.lit, k) => (plzLitLen b (pos + k)).map fun x => (.lit x.1, x.2)
  | some (.zero, k) => (plzZeroLen b (pos + k)).map fun x => (.zero x.1, x.2)
  | some (.rep, k) => (plzMatchLen b (pos + k) 2).map fun x => (.copy none x.1, x.2)
  | some (.near, k) =>
    match plzBits b (pos + k) 5 with
    | none => none
    | some o => (plzMatchLen b (pos + k + 5) 3).map fun x => (.copy (some (o + 1)) x.1, x.2)
  | some (.far, k) =>
    match plzBits b (pos + k) 9 with
    | none => none
    | some o => (plzMatchLen b (pos + k + 9) 3).map fun x => (.copy (some o) x.1, x.2)

/-- The check of R152 on a token's length and offset, where `done` of `size` bytes have been produced and `rep` is the last
offset (0: none): the reason of R169 that refuses it, or the offset a match copies at. A far match at offset 0 is an offset at
fault (DEDUCED, log entry 107). -/
def plzCheck (size done rep : Nat) : PlzTok → Except Nat Nat
  | .fin => if done = size then .ok 0 else .error 3
  | .lit n => if done + n ≤ size then .ok 0 else .error 3
  | .zero n => if done + n ≤ size then .ok 0 else .error 3
  | .copy off n =>
    let o := off.getD rep
    if o = 0 ∨ done < o then .error 2 else if done + n ≤ size then .ok o else .error 3

/-- `n` literal bytes at `pos`, onto a reversed output. -/
def plzLits : Nat → List Byte → Nat → List Byte → Option (List Byte)
  | 0, _, _, out => some out
  | n + 1, b, pos, out =>
    match plzBits b pos 8 with
    | none => none
    | some x => plzLits n b (pos + 8) (BitVec.ofNat 8 x :: out)

/-- Copies `n` bytes at an offset, byte by byte, onto a reversed output (R152). -/
def plzCopy : Nat → Nat → List Byte → List Byte
  | 0, _, out => out
  | n + 1, off, out => plzCopy n off (out.getD (off - 1) 0 :: out)

/-- The loop of R152 on a reversed output; one unit of fuel a token. The answer is the bytes, and the position after END. -/
def plzLoop : Nat → List Byte → Nat → Nat → Nat → List Byte → Option (List Byte × Nat)
  | 0, _, _, _, _, _ => none
  | f + 1, b, size, pos, rep, out =>
    match plzToken b pos with
    | none => none
    | some (t, p) =>
      match plzCheck size out.length rep t with
      | .error _ => none
      | .ok o =>
        match t with
        | .fin => some (out.reverse, p)
        | .lit n =>
          match plzLits n b p out with
          | none => none
          | some out => plzLoop f b size (p + 8 * n) rep out
        | .zero n => plzLoop f b size p rep (List.replicate n 0 ++ out)
        | .copy _ n => plzLoop f b size p o (plzCopy n o out)

/-- Decodes an encoding to `size` bytes; none where it is not valid (R152). -/
def plzDecode (b : List Byte) (size : Nat) : Option (List Byte) := (plzLoop (size + 1) b size 0 0 []).map (·.1)

/-- The bytes are an encoding of `d` as an encoder writes it (R149): valid, with zero bits after END up to the byte boundary and
nothing after that. -/
def plzEncodes (e d : List Byte) : Bool :=
  match plzLoop (d.length + 1) e d.length 0 0 [] with
  | none => false
  | some (x, p) => x == d && e.length == ceilDiv p 8 && (List.range (8 * e.length - p)).all fun i => !plzBit e (p + i)

/-- Pads to a multiple of 8 bytes (R128). -/
def pad8 (b : List Byte) : List Byte := b ++ List.replicate ((8 - b.length % 8) % 8) 0

/-- What the encoder of a level makes of a segment (R137, R153): its LEN and stored bytes. The choice of tokens is the
encoder's; an encoding is used only where it is valid and at most 448 bytes. -/
def encodeSegment (level : Nat) (seg : List Byte) : Nat × List Byte :=
  if seg.all (· == 0) then (0, [])
  else
    let e := Config.plzEncode level seg
    if (pad8 e).length ≤ 448 ∧ plzEncodes e seg then ((pad8 e).length / 8, pad8 e) else (64, seg)

end Sys2Proof.Machine
end

