-- ==== Sys2Proof/Machine/RequestPath.lean ====
section
/-! DEFINITION. The steps of a request after its arrival: tracker grants, data returns, accepted writes, ceilings,
fabric errors, and the creel's own steps (R77–R91, R98–R115). -/

namespace Sys2Proof.Machine

open Sys2Proof

/-! ## Channels taking writes -/

/-- The channel can accept a write: ONLINE with room in its write queue (R237, R242). -/
def writeRoom (s : State) (line : Nat) : Bool :=
  chOnline s (chOfLine s line) && decide ((chAt s (chOfLine s line)).wq.length < 128)

/-- Puts a write into its channel's write queue (R237). -/
def queueWrite (s : State) (line qc seat start : Nat) (entry : Option Nat) : State :=
  stampNext (modCh s (chOfLine s line) fun x => { x with wq := x.wq ++
    [{ ord := s.stamp, line := line, qc := qc, write := true, seat := seat, start := start, entry := entry }] })

/-- A message's write reaches DRAM: poison, a whole line, or bytes for the merge buffer (R15, R88, R241). A line-cache
copy goes (R99), and a restored line leaves the poison list (R265). -/
def storeMsg (s : State) (m : Msg) (line key gen : Nat) (poison : Bool) : State :=
  let s := dropLcache s (m.dla / 64 * 64) 1
  if poison then plAdd (poisonLine s line) (m.dla / 64 * 64) 64 srcCeiling
  else if m.op = .wr then plRestore (fullWrite s line key gen m.data) m.win m.dla
  else mergePut s { line := line, mask := m.mask, data := lineOf m.data, at_ := s.now, qc := m.qc, key := key, gen := gen,
                    dla := m.dla / 64 * 64, seat := m.seat }

/-- Where a write goes now, read afresh: the tier may have changed since it was resolved. -/
def freshTarget (s : State) (w dla : Nat) : Option (Nat × Nat × Nat) :=
  match skeinPeek s w dla with
  | .hot line kgen page =>
    match hotTarget s w dla line kgen page with
    | .hot l k g => some (l, k, g)
    | _ => none
  | _ => none

/-! ## Crossing writebacks (R107, R108) -/

/-- Record that a seat's message on a link answers: the BISnp was sent on that link for the line and alias. -/
def findXing (s : State) (f : Xing → Bool) : Option (Nat × Xing) :=
  s.xing.findSome? fun e => match e.2 with
    | some x => if f x then some (e.1, x) else none
    | none => none

/-- Writes of a seat to a line that one link has brought in and that its slice will absorb before any answer to a snoop
received after them: in the tracker, not yet granted, and in ingress (R107). What the seat sent before them to the line must
itself be such a write; a write that its slice has returned is an ownership request and no writeback (R103; DEDUCED, log
entry 87). -/
def writesComing (s : State) (seat line k : Nat) : Bool :=
  let here := (entriesWhere s fun t => t.m.seat == seat && lineIdx t.m.dla == line && !t.serial).filterMap (trkAt s)
  let msgs := ([0, 1, 2, 3] : List Nat).flatMap fun p =>
    (ingressAt s p).filter fun m => m.seat == seat && lineIdx m.dla == line
  let wr := (here.takeWhile fun t => isWrite t.m.op && !t.returned)
  let all := wr.map (·.m) ++ if wr.length = here.length then msgs.takeWhile fun m => isWrite m.op else []
  all.any fun m => linkKey m.port m.link == k

/-- A write of the record's seat to its line, received on the link of its snoop, has not been applied (R107). -/
def writeFirst (s : State) (x : Xing) : Bool :=
  (s.xing.any fun e => match e.2 with
    | some y => y.line == x.line && y.seat == x.seat && y.buf != []
    | none => false) ||
  match x.sent with
  | some k => writesComing s x.seat x.line k
  | none => false

/-- A write of a seat to a line has been applied as that seat's writeback: each of its records of the line is
pending-clear (R108 step 2a), and one whose answer has come, and that waits for no other write, completes (step 3b). The seat
holds nothing that it has written back. -/
def wroteBack (s : State) (seat line : Nat) : State :=
  let s := { s with xing := tabMap none (fun _ (o : Option Xing) => o.map fun (x : Xing) =>
    if x.line == line && x.seat == seat then { x with pclr := true, wbDone := true } else x) s.xing }
  (s.xing.map (·.1)).foldl (fun (t : State) r =>
    match xingAt t r with
    | some x =>
      match x.ans with
      | some a => if x.line == line && x.seat == seat && !writeFirst t x then snoopDone t r x (if a = BiAns.e then .i else a) else t
      | none => t
    | none => t) s

/-- Applies the writeback a record's buffer holds, where the channel can take it and no write of the line granted earlier
is still to be accepted: its Cmp is sent, and the snoop completes if its answer has come (R107, R108). -/
def applyBuffer (s : State) (r : Nat) (x : Xing) (m : Msg) : State :=
  let done := fun (s : State) (dl : Nat) =>
    let s := sendNdr s m .cmp dl
    wroteBack (modXing s r fun _ => some { x with buf := x.buf.drop 1 }) x.seat x.line
  if writeAhead s x.line s.stamp || pageQueued s m.win m.dla 0 then s
  else match writeTarget s m.win m.dla m.qc with
  | (s, .wait) => s
  | (s, .discard) => done (forwardMsg s m none true) 0
  | (s, .hot line key gen) =>
    if writeRoom s line then
      let s := forwardMsg s m none false
      let s := storeMsg s m line key gen false
      done (if m.op = .wr then queueWrite s line m.qc m.seat s.now none else s) (devLoadAt s (chOfLine s line) m.qc)
    else s

/-- Applies every held writeback that can be applied. -/
def passBuffers (s : State) : State :=
  (s.xing.map (·.1)).foldl (fun t r =>
    match xingAt t r with
    | some x => match x.buf with
      | m :: _ => applyBuffer t r x m
      | [] => t
    | none => t) s

/-! ## Mirror state (R339, R340) -/

/-- A window goes DEGRADED: the hanks of its unacknowledged writes are set DIRTY and its STRICT writes complete (R86,
R339–R341). -/
def degrade (s : State) (w : Nat) : State :=
  let x := winAt s w
  if x.ms = .off || x.ms = .mismatch then s
  else
    let s := modWin s w fun x => { x with ms := .degraded }
    let mine := s.pair.fwds.filter fun f => f.win == w
    let s := mine.foldl (fun t f => setDirty t w f.hank) s
    let s := { s with pair := { s.pair with fwds := s.pair.fwds.filter fun f => f.win != w } }
    (entriesWhere s fun t => t.st = .mirror && t.m.win == w).foldl (fun s e =>
      match trkAt s e with
      | some t => endNdr (setDirty s w (hankOff s w t.m.dla)) e t .cmp t.devLoad
      | none => s) s

/-! ## Inbound mirror traffic (R340, R343) -/

/-- MACK statuses (R328). -/
def mackOk : Nat := 0
def mackPoisoned : Nat := 1
def mackFailed : Nat := 2

/-- The device acts as the secondary of a mirrored window (R337, R348). -/
def isSecondary (s : State) (w : Nat) : Bool := (winAt s w).mirror != 0 && !mirrorPrimary s w

/-- The DLA's window, where the device acts as its secondary (R337). -/
def secondaryOf (s : State) (dla : Nat) : Option Nat :=
  match winOfDla s dla with
  | some w => if isSecondary s w then some w else none
  | none => none

/-- Applies line `i` of an inbound write as an agent without caches would, the creel left aside; none while it must wait.
Storage that does not exist makes the line poison (R140); an isolated channel answers with an error response (R89). -/
def inbLine (s : State) (w : Nat) (x : PlyWrite) (i : Nat) : State × Option Nat :=
  let dla := (x.dlaLine + i) * 64
  let off := hankOff s w dla
  let s := agentFetch s w dla
  if keyLost s w || isLost s w off (pageNo dla) then (s, some mackFailed)
  else if pageQueued s w dla 0 then (s, none)
  else match writeTarget s w dla x.qc with
    | (s, .wait) => (s, none)
    | (s, .discard) => (s, some mackPoisoned)
    | (s, .hot line key gen) =>
      if !flitReaches s (sliceStation (sknSlice dla)) (chStation (chOfLine s line)) 1 then (s, some mackFailed)
      else if !writeRoom s line then (s, none)
      else
        let m : Msg := { seat := 1024, port := 0, link := 0, id := 0, tag := 0,
                         op := if x.partialMask.isSome then .wrPtl else .wr, hpa := 0, win := w, ali := 0, dla := dla,
                         qc := x.qc, data := x.lines.getD i [], mask := x.partialMask.getD 0 }
        let s := storeMsg s m line key gen x.poison
        let s := if x.partialMask.isSome && !x.poison then s else queueWrite s line x.qc 1024 s.now none
        (s, some mackOk)

/-- Applies the lines of an inbound write that are left, `n` of them from line `i`: how far it has come, the worst status so
far, and how many of its lines have been looked up: each is counted and sampled once (R133, R146). -/
def inbLines (w : Nat) (x : PlyWrite) : Nat → State → Nat → Nat → Nat → State × Nat × Nat × Nat
  | 0, s, i, st, lk => (s, i, st, lk)
  | n + 1, s, i, st, lk =>
    let dla := (x.dlaLine + i) * 64
    let s := if lk ≤ i then sampleHeat (agentLook s w dla).1 w dla else s
    match inbLine s w x i with
    | (s, none) => (s, i, st, max lk (i + 1))
    | (s, some r) => inbLines w x n s (i + 1) (max st r) (max lk (i + 1))

/-- Applies a metadata record (R343). -/
def inbMeta (s : State) (w kind dla : Nat) : State :=
  let off := hankOff s w dla
  let b := dla / 0x10000000
  match kind with
  | 1 => unmapPage s w off (pageNo dla)
  | 2 => plDropRange (dropHank s w off) (hankDla s w off) 0x200000
  | 3 => ledgerPut (modBlock s b fun x => { x with st := 2, win := w })
  | 4 => ledgerPut (modBlock (dropBlockHanks s w b) b fun _ => {})
  | _ => s

/-- Window that a packet received is for. -/
def inbWin (s : State) : PlyBody → Option Nat
  | .mwr pw | .rsync pw => secondaryOf s (pw.dlaLine * 64)
  | .metaRec w _ _ => some w
  | _ => none

/-- A received packet has been applied: its buffer is free, and its MACK goes back on its port while the session it came
in lasts. With a MACK other than OK the secondary's window goes DEGRADED as the primary's does (R339). -/
def inbDone (s : State) (x : Inb) (status : Nat) : State :=
  let s := match inbWin s x.body with
    | some w => if status = mackOk then s else degrade s w
    | none => s
  if x.live then
    plySend (modPly s x.port fun y => { y with retReq := y.retReq + x.cost }) x.port (.mack x.seq status)
  else s

/-- Applies a received packet as far as it can go: none where it is done. -/
def inbApply (s : State) (x : Inb) : State × Option Inb :=
  let write := fun (pw : PlyWrite) =>
    match secondaryOf s (pw.dlaLine * 64) with
    | none => (inbDone s x mackFailed, none)
    | some w =>
      let n := max 1 pw.nlines
      let (s, i, st, lk) := inbLines w pw (n - x.done) s x.done x.status x.looked
      if i = n then (inbDone s x st, none) else (s, some { x with done := i, status := st, looked := lk })
  match x.body with
  | .mwr pw => write pw
  | .rsync pw => write pw
  | .metaRec w kind dla =>
    if isSecondary s w && winOfDla s dla == some w then
      (inbDone (inbMeta s w kind dla) x mackOk, none)
    else (inbDone s x mackFailed, none)
  | _ => (s, none)

/-- Applies received packets in arrival order: one that must wait holds back those behind it on its port. -/
def inbRun : List Inb → List Nat → State → List Inb → State
  | [], _, s, left => { s with pair := { s.pair with inq := left } }
  | x :: t, held, s, left =>
    if held.contains x.port then inbRun t held s (left ++ [x])
    else match inbApply s x with
      | (s, none) => inbRun t held s left
      | (s, some y) => inbRun t (x.port :: held) s (left ++ [y])

def passInbound (s : State) : State := if s.pair.inq = [] then s else inbRun s.pair.inq [] s []

/-- After something that requests were waiting for: every entry, every held writeback and every received mirror packet
moves on. -/
def resume (s : State) : State := passInbound (passBuffers (passAll s))

/-! ## Tracker steps -/

/-- TRACKER_ENTRY_GRANT (R83). -/
def execTrackerEntryGrant (port : Fin 4) (s : State) : Host.Outcome State Fault Refusal :=
  .next (ingressStep s port)

/-- SEAT_IDLE (R78): at IDLE_US after the seat last held an entry of the kind or sent such a request. -/
def execSeatIdle (seat : Fin 1024) (pool : Fin 5) (s : State) : Host.Outcome State Fault Refusal :=
  let p := pool.val
  let u := useAt s (useKey p seat)
  let holds := poolCount s p fun t => t.m.seat == seat.val
  if holds ≠ 0 then .next s
  else
    let s := advanceTo s (u.last + max 1 (fld (regN s (trkBase + 8)) 16 4) * 1000)
    .next (modUse s (useKey p seat) fun u => { u with idle := true })

/-- A segment that cannot be read or decoded (R154): its PMASK bit is set, it is counted and logged. -/
def segmentError (s : State) (w dla cause : Nat) : State :=
  let s := poisonSegment s w dla
  let s := bump s (cardBase + 0x54)
  let s := plAdd s (dla / 512 * 512) 512 srcMedia
  logEvFor s (srcOf cardBase) 0x5001 sevErr (le 2 w ++ le 8 (dla / 512 * 512) ++ kindByte 154 cause) [] [w]

/-- Reads the lines of a snapshot in order, with the noise of each; none where one is poison or uncorrectable. -/
def readLines (s : State) (dla : Option Nat) :
    List Snap → List (List Byte) → State × Option (List Byte)
  | [], _ => (s, some [])
  | x :: rest, noise =>
    let (s, d) := demandRead s x.line x.st (noise.headD []) x.key x.gen dla
    let (s, r) := readLines s dla rest (noise.drop 1)
    match d, r with
    | some d, some r => (s, some (d ++ r))
    | _, _ => (s, none)

/-- Every channel of a read has issued it (R237): none of its lines stands in a read queue any more. -/
def readIssued (s : State) (e : Nat) : Bool := !s.chans.any fun c => c.2.rq.any fun q => q.entry == some e

/-- Every entry that waits for the same segment ends with poison, and with the DevLoad of the channels that have served it
(R13, R154). -/
def poisonWaiters (s : State) (w dla : Nat) : State :=
  (entriesWhere s fun t => isRead t.m.op && t.accepted && t.m.win == w && t.m.dla / 512 == dla / 512 &&
    match t.loc with
    | some (.comp _ _ _) => true
    | _ => false).foldl (fun s e =>
      match trkAt s e with
      | some t => endRead s e t none t.devLoad
      | none => s) s

/-- READ_DATA_RETURN (R86, R258, R259): the data of a hot line, or of a raw segment, returns from channels that have issued
the read, with the DevLoad they took then (R13, R278). -/
def execReadDataReturn (entry : Fin 24576) (noise : List (List Byte)) (s : State) : Host.Outcome State Fault Refusal :=
  let e := entry.val
  match trkAt s e with
  | none => .next s
  | some t =>
    if !t.accepted || t.decoding || !isRead t.m.op || !readIssued s e || t.lost then .next s
    else
      let lines := t.snap.map (·.line)
      let from_ := chStation (chOfLine s (lines.headD 0))
      if !(lines.all fun l => chOnline s (chOfLine s l)) then .next s
      else if !flitReaches s from_ (hpStation t.m.port) 1 then
        .next (modTrk (absorbFlit s from_ (hpStation t.m.port)) e fun _ => some { t with lost := true })
      else
        let dl := t.devLoad
        match t.loc with
        | some (.hot _ _ _) =>
          let (s, d) := readLines s (some t.m.dla) t.snap noise
          .next (passLine (endRead s e t d dl) (lineIdx t.m.dla))
        | some (.comp _ o _) =>
          let (s, d) := readLines s none t.snap noise
          match d with
          | some b =>
            let at_ := o % 64 + t.m.dla / 64 % 8 * 64
            .next (passLine (endRead s e t (some (bytesAt b at_ 64)) dl) (lineIdx t.m.dla))
          | none =>
            let s := segmentError s t.m.win t.m.dla 2
            .next (passAll (poisonWaiters s t.m.win t.m.dla))
        | _ => .next s

/-- WRITE_ACCEPTED (R86): the write enters the write queue or the merge buffer; Cmp follows, or MIRROR for STRICT. A Cmp that
cannot reach the host port is absorbed on the way (R301). -/
def execWriteAccepted (entry : Fin 24576) (s : State) : Host.Outcome State Fault Refusal :=
  let e := entry.val
  match trkAt s e with
  | none => .next s
  | some t =>
    let ready := isWrite t.m.op && !t.accepted && t.loc.isSome && (t.st = .issued || t.st = .abandoned) &&
      !blocked s t.ord t.m.seat (lineIdx t.m.dla) && !(isDb s t.m.win && writeAhead s (lineIdx t.m.dla) t.gord) &&
      !pageQueued s t.m.win t.m.dla t.waitOrd
    if !ready then .next s
    else
      match freshTarget s t.m.win t.m.dla with
      | none => .next (entryPass (modTrk s e fun _ => some { t with loc := none }) e)
      | some (line, key, gen) =>
        if !writeRoom s line || !flitReaches s (sliceStation (sknSlice t.m.dla)) (chStation (chOfLine s line)) 1 then .next s
        else
          let s := writeTouch s t.m.win (hankOff s t.m.win t.m.dla) (pageNo t.m.dla)
          let s := if isDb s t.m.win then s else forwardWrite s e t t.poisonWr
          let s := storeMsg s t.m line key gen t.poisonWr
          let s := if t.m.op = .wr || t.poisonWr then queueWrite s line t.m.qc t.m.seat t.granted (some e) else s
          let dl := devLoadAt s (chOfLine s line) t.m.qc
          let t := { t with accepted := true, serial := true, devLoad := dl }
          let s := modTrk s e fun _ => some t
          let waits := s.pair.fwds.any fun f => f.entry == some e
          let strict := t.strict && (winAt s t.m.win).ms = .sync && waits
          let s :=
            if strict && !t.silent && t.st = .issued then modTrk s e fun _ => some { t with st := .mirror }
            else if t.silent || t.st = .abandoned || flitReaches s (chStation (chOfLine s line)) (hpStation t.m.port) 1 then
              endNdr s e t .cmp dl
            else
              modTrk (absorbFlit s (chStation (chOfLine s line)) (hpStation t.m.port)) e fun _ => some { t with lost := true }
          .next (passLine s (lineIdx t.m.dla))

/-- State code of an entry in a ceiling record, in the order of R86. -/
def trkCode : TrkState → Nat
  | .chained => 1
  | .issued => 2
  | .cohere => 3
  | .mirror => 4
  | .abandoned => 5

/-- RESPONSE_CEILING_EXPIRY (R86, R88). -/
def execResponseCeilingExpiry (entry : Fin 24576) (s : State) : Host.Outcome State Fault Refusal :=
  let e := entry.val
  match trkAt s e with
  | none => .next s
  | some t =>
    if t.st = .abandoned then .next s
    else
      let s := advanceTo s t.deadline
      if t.st = .mirror then
        let s := setDirty s t.m.win (hankOff s t.m.win t.m.dla)
        let s := endNdr s e t .cmp t.devLoad
        .next (passLine (degrade s t.m.win) (lineIdx t.m.dla))
      else
        let s := bump s (trkBase + 0x14)
        let s :=
          if firstInMs s 88 t.m.seat then
            logEvFor (markMs s 88 t.m.seat) (srcOf trkBase) 0x3001 sevErr
              (le 2 t.m.seat ++ le 8 t.m.dla ++ le 1 t.m.qc ++ kindByte 88 (trkCode t.st)) [t.m.seat] [t.m.win]
          else s
        let send := fun (s : State) =>
          if isRead t.m.op then
            let s := if isDb s t.m.win then sendNdr s t.m .cmp 3 else s
            sendDrs s t.m none 3
          else sendNdr s t.m .cmp 3
        let s := if t.silent then s else send s
        .next (modTrk s e fun _ => some { t with st := .abandoned, poisonWr := isWrite t.m.op })

/-- Ends a request with an error response from the fabric (R89). -/
def fabricError (s : State) (e : Nat) (t : Trk) (kind : Nat) : State :=
  let s := logEvFor s 0 0x3002 sevErr (le 2 t.m.seat ++ le 8 t.m.dla ++ kindByte 89 kind) [t.m.seat] [t.m.win]
  let s := if isWrite t.m.op && mirrorPrimary s t.m.win then setDirty s t.m.win (hankOff s t.m.win t.m.dla) else s
  let s :=
    if isRead t.m.op then endRead s e { t with grant := if isDb s t.m.win && t.grant.isSome then some .cmp else t.grant } none 3
    else endNdr s e t .cmp 3
  passLine s (lineIdx t.m.dla)

/-- A station sends an error response (R306): counted, and the first of kind ASLEEP at each station in each 1 ms writes a
WARN event. -/
def errorResponse (s : State) (st lp dom : Nat) (asleep : Bool) : State :=
  let s := bump s (stBase st + 0x10)
  if asleep && firstInMs s 306 st then
    logEv (markMs s 306 st) (srcOf (stBase st)) 0x7001 sevWarn (le 2 st ++ le 2 lp ++ le 1 dom)
  else s

/-- Station, local port and domain that a request is on its way to: its creel slice, its skein slice, or the channel of the
line it was resolved to (R12, R289). -/
def targetPort (s : State) (t : Trk) : Nat × Nat × Nat :=
  let chan := fun (line : Nat) => (chStation (chOfLine s line), 1, 14 + chOfLine s line / 2)
  if isDb s t.m.win && !t.coherent then (sliceStation (crlSlice t.m.dla), 1, 22)
  else match t.loc with
    | some (.hot line _ _) => chan line
    | some (.comp run off _) => chan (run * 4 + off / 64)
    | _ => (sliceStation (sknSlice t.m.dla), 2, 23)

/-- Station that answers a request which does not reach its port: the one before the first failed link on its way, which goes from
the host port to the slice and from there to a channel, else the port's own (R300, R301). -/
def answerer (s : State) (t : Trk) (st : Nat) : Nat :=
  let slice := sliceStation (if isDb s t.m.win && !t.coherent then crlSlice t.m.dla else sknSlice t.m.dla)
  match routeBreak s (hpStation t.m.port) slice with
  | some u => u
  | none => (routeBreak s slice st).getD st

/-- An error response of a station reaches the request's host port, unless its own route crosses a failed link: then only the
response ceiling bounds the request (R88, R301). -/
def answerFrom (s : State) (e : Nat) (t : Trk) (st kind : Nat) : State :=
  if (routeBreak s st (hpStation t.m.port)).isSome then s else fabricError s e t kind

/-- FABRIC_ERROR_RESPONSE (R86, R89): kind 1 DEAD, 2 ASLEEP. -/
def execFabricErrorResponse (entry : Fin 24576) (asleep : Bool) (s : State) : Host.Outcome State Fault Refusal :=
  match trkAt s entry with
  | none => .next s
  | some t =>
    if t.st = .mirror then .next s
    else
      let (st, lp, dom) := targetPort s t
      let u := answerer s t st
      .next (answerFrom (errorResponse s u lp dom asleep) entry t u (if asleep then 2 else 1))

/-! ## Creel steps -/

/-- The entries of a cycle that are requests a slice may take: in HDM-DB windows, issued and not granted or waiting. -/
def creelReady (s : State) (slice e : Nat) : Bool :=
  match trkAt s e with
  | some t => isDb s t.m.win && !t.coherent && (t.st = .issued || t.st = .abandoned) &&
      !blocked s t.ord t.m.seat (lineIdx t.m.dla) && crlSlice t.m.dla == slice && !(t.returned && !t.resent) &&
      !(match actAt s (lineIdx t.m.dla) with
        | some a => a.who == .trk e
        | none => false)
  | none => false

/-- A snoop to the writer is outstanding for the line of its write (R103, R108). -/
def snoopedWriter (s : State) (t : Trk) : Bool := s.xing.any fun x => match x.2 with
  | some x => x.line == lineIdx t.m.dla && x.seat == t.m.seat
  | none => false

/-- A DAT-class write reaches its slice: applied at once, or returned (R103). A snoop to the writer that is outstanding
for the line counts it as that seat's writeback (R108). -/
def datWrite (s : State) (e : Nat) : State :=
  match trkAt s e with
  | none => s
  | some t =>
    let line := lineIdx t.m.dla
    if snoopedWriter s t then wroteBack (grantTrk s e (some .cmp) false) t.m.seat line
    else
      let atOnce := (actAt s line).isNone && match findEntry s line with
        | none => !missBroadcasts s t.m.win t.m.dla
        | some k =>
          let c := creelAt s k
          (c.st = .exclusive && c.ptrs == [t.m.seat]) || (c.st = .shared && c.fmt = .ptr && c.ptrs == [t.m.seat])
      if atOnce then creelServe s line t.m.win (.trk e) (kindOf t) t.m.seat t.m.ali false
      else modTrk s e fun _ => some { t with returned := true }

/-- A REQ-class request reaches its slice. -/
def reqArrives (s : State) (e : Nat) : State :=
  match trkAt s e with
  | none => s
  | some t => creelRequest s (lineIdx t.m.dla) t.m.win (.trk e) (kindOf t) t.m.seat t.m.ali

/-- Seat number of an entry's request, and its line. -/
def seatOfEntry (s : State) (e : Nat) : Nat := match trkAt s e with
  | some t => t.m.seat
  | none => 0
def lineOfEntry (s : State) (e : Nat) : Nat := match trkAt s e with
  | some t => lineIdx t.m.dla
  | none => 0

/-- The rotating pointer of a slice, or that of the serial arbiter at ST0 (R104, R114). -/
def pointerOf (s : State) (slice : Nat) : Nat := if serialMode s then s.serialRr else (sliceAt s slice).rr

/-- Distance of a seat above the pointer, wrapping past 1023. -/
def rrDist (ptr seat : Nat) : Nat := (seat + 1024 - ptr % 1024) % 1024

/-- The first of the requests to one line that arrived together: the lowest seat at or above the pointer, wrapping. -/
def rrFirst (s : State) (slice : Nat) (e : Nat) (others : List Nat) : Nat :=
  let p := pointerOf s slice
  others.foldl (fun b x => if rrDist p (seatOfEntry s x) < rrDist p (seatOfEntry s b) then x else b) e

/-- Takes the requests of one slice cycle (R104): requests to one line by the pointer, which then moves. In serial arbiter
mode all that arrive together at ST0 are ordered so, whatever their lines (R114). -/
def takeCycle : Nat → State → Nat → List Nat → State
  | 0, s, _, _ => s
  | _ + 1, s, _, [] => s
  | n + 1, s, slice, e :: rest =>
    let same := rest.filter fun x => serialMode s || lineOfEntry s x == lineOfEntry s e
    if same = [] then takeCycle n (reqArrives s e) slice rest
    else
      let first := rrFirst s slice e same
      let ptr := (seatOfEntry s first + 1) % 1024
      let s := if serialMode s then { s with serialRr := ptr } else modSlice s slice fun x => { x with rr := ptr }
      takeCycle n (reqArrives s first) slice ((e :: rest).filter (· != first))

/-- A request reaches the port of its creel slice: not isolated, fenced or behind a failed link (R297, R300, R301). -/
def requestArrives (s : State) (slice e : Nat) : Bool :=
  !portFenced s (sliceStation slice) 1 && match trkAt s e with
  | some t => flitReaches s (hpStation t.m.port) (sliceStation slice) 1
  | none => false

/-- CREEL_REQUEST (R98–R104): the requests that arrive at a slice in one cycle, DAT class first. At an isolated slice
none arrives (R300). While serial arbiter mode is entered or left only writebacks that answer a snoop are taken (R114). -/
def execCreelRequest (slice : Fin 16) (entries : List (Fin 24576)) (s : State) : Host.Outcome State Fault Refusal :=
  let es := (entries.map (·.val)).eraseDups.filter fun e =>
    creelReady s slice e && requestArrives s slice e
  let isDat := fun (e : Nat) => match trkAt s e with
    | some t => isWrite t.m.op && !t.resent
    | none => false
  let s := serialSwitch s
  let wb := fun (e : Nat) => isDat e && (admits s || match trkAt s e with
    | some t => snoopedWriter s t
    | none => false)
  let s := (es.filter wb).foldl datWrite s
  let rest := es.filter fun e => !isDat e
  .next (takeCycle rest.length s slice rest)

/-- WRITE_RETRY (R103). -/
def execWriteRetry (entry : Fin 24576) (s : State) : Host.Outcome State Fault Refusal :=
  .next (modTrk s entry fun o => o.map fun t => if t.returned then { t with resent := true } else t)

/-- CONFLICT_QUEUE_ADVANCE (R104). -/
def execConflictQueueAdvance (slice : Fin 16) (line : Nat) (s : State) : Host.Outcome State Fault Refusal :=
  if crlSlice (line * 64) = slice.val then .next (advanceConf s line) else .next s

/-- BI timeout of a slice in µs (R118). -/
def biTimeout (s : State) (slice : Nat) : Nat := clampN 10 10000 (fld (regN s (crlBase slice)) 13 0)

/-- The path a snoop to a seat takes: path 0 while it is in L0, else path 1 (log entry 8). -/
def snoopPath (s : State) (seat : Nat) : Option Path :=
  let x := seatAt s seat
  if pathUp s x.p0 then some x.p0 else if pathUp s x.p1 then some x.p1 else none

/-- HPA of a line through an alias of a window. -/
def hpaOf (s : State) (w ali line : Nat) : Nat :=
  aliasBase (winAt s w) ali + (line * 64 - (winAt s w).dlaHank * 0x200000)

/-- Sends an issued snoop where a path is in L0 and the host has granted a credit; else it waits in the SNP network
(R35). One that does not reach its host port is absorbed (R300, R301). -/
def trySendSnoop (s : State) (r : Nat) : State :=
  match xingAt s r with
  | none => s
  | some x =>
    if !x.issued || x.sent.isSome then s
    else
      match snoopPath s x.seat with
      | none => s
      | some p =>
        let k := linkKey p.port p.link
        let from_ := sliceStation (r / 128)
        if !flitReaches s from_ (hpStation p.port) 1 then
          modXing (absorbFlit s from_ (hpStation p.port)) r fun _ => some { x with sent := some k }
        else if (linkAt s k).credSnp = 0 then s
        else
          let s := modLink s k fun l => { l with credSnp := l.credSnp - 1 }
          let s := modXing s r fun _ => some { x with sent := some k }
          pmuEvent (emit s (.bisnp p.port p.link p.id x.kind (hpaOf s x.win x.ali x.line))) 0 p.port 0x13

/-- BISNP_ISSUE (R106, R110): the timer runs from the issue, unless no path of the seat is in L0. -/
def execBisnpIssue (slice : Fin 16) (rec_ : Fin 128) (s : State) : Host.Outcome State Fault Refusal :=
  let r := slice.val * 128 + rec_.val
  match xingAt s r with
  | none => .next s
  | some x =>
    if x.issued then .next s
    else
      let start := if seatUp s x.seat then some s.now else none
      let s := modXing s r fun _ => some { x with issued := true, start := start }
      .next (trySendSnoop (pmuEvent s 2 slice 0x31) r)

/-- BISNP_CREDIT_GRANT (R35). -/
def execBisnpCreditGrant (port link : Fin 4) (n : Nat) (s : State) : Host.Outcome State Fault Refusal :=
  if linkUpAt s port link then
    let s := modLink s (linkKey port link) fun l => { l with credSnp := l.credSnp + n }
    .next ((s.xing.map (·.1)).foldl trySendSnoop s)
  else .next s

/-- The seat has answered a snoop within the BI timeout: after 16 in a row a SUSPECT seat is ATTACHED again (R113). -/
def noteAnswered (s : State) (seat : Nat) : State :=
  modSeat s seat fun x =>
    if x.state = .suspect then
      if x.answered + 1 < 16 then { x with answered := x.answered + 1 } else { x with answered := 0, state := .attached }
    else x

/-- A BIRsp with no live record (R112): discarded, counted, and logged as NOTE. -/
def lateBiRsp (s : State) (seat dla : Nat) : State :=
  let n := crlSlice dla
  logEvFor (bump s (crlBase n + 0xC)) (srcOf (crlBase n)) 0x4002 sevNote (le 2 n ++ le 8 dla) [seat] []

/-- BI_RSP (R107, R108, R112): completes the record its port had outstanding, or waits for the writeback that its port
received before it. -/
def execBiRsp (m : M2S) (ans : BiAns) (s : State) : Host.Outcome State Fault Refusal :=
  let k := linkKey m.port m.link
  if !(linkAt s k).up || !(linkAt s k).mem then .next s
  else if domShut s (2 + m.port.val) then .next (holdFor s (2 + m.port.val) (.biRsp m ans))
  else
    match seatOf s m.port m.link m.id with
    | none => .next s
    | some seat =>
      match findWin s seat m.hpa with
      | none => .next s
      | some (w, ali) =>
        let dla := (winAt s w).dlaHank * 0x200000 + (m.hpa - aliasBase (winAt s w) ali)
        match findXing s (fun x => x.line == lineIdx dla && x.seat == seat && x.ali == ali && x.sent == some k && x.ans.isNone) with
        | none => .next (lateBiRsp s seat dla)
        | some (r, x) =>
          let s := noteAnswered s seat
          if writeFirst s x then .next (modXing s r fun _ => some { x with ans := some ans, wbAhead := true })
          else .next (snoopDone s r x (if x.pclr && ans = .e then .i else ans))

/-- The waiting requests of a poisoned line are served in order (R111), until one becomes active or must wait. -/
def serveWaiting : Nat → State → Nat → State
  | 0, s, _ => s
  | n + 1, s, line =>
    if (actAt s line).isNone && !victimFor s line && (sliceAt s (crlSlice (line * 64))).confq.any fun x => x.1 == line then
      serveWaiting n (advanceConf s line) line
    else s

/-- Writes poison to a line and makes its entry POISONED with no sharers (R111). A line without an entry, snooped for a
broadcast miss, takes a way that is free or holds a POISONED entry; where its set has none it is as if its POISONED entry had
been evicted at once (R99; DEDUCED, log entry 88). -/
def poisonHeld (s : State) (line w src : Nat) : State :=
  let s := poisonDla s w (line * 64) src
  match findEntry s line with
  | some k => setCentry s k { line := line, st := .poisoned, used := s.stamp }
  | none =>
    match findWay s (line * 64) with
    | .way k => setCentry s k { line := line, st := .poisoned, used := s.stamp }
    | _ => s

/-- A line whose holder can no longer be asked (R48, R111): it is poisoned, its records are freed, and the requests that
wait for it are served, the active one first. Writebacks that its records still held are late, and become ordinary writes
(R112). -/
def breakLine (s : State) (line w src : Nat) : State :=
  let s := poisonHeld s line w src
  let late := s.xing.flatMap fun e => match e.2 with
    | some y => if y.line = line then y.buf else []
    | none => []
  let keep := fun (_ : Nat) (o : Option Xing) => match o with
    | some y => y.line != line
    | none => true
  let s := { s with xing := tabFilter keep s.xing }
  let act := actAt s line
  let s := refill (modAct s line fun _ => none) (crlSlice (line * 64))
  let s := match act with
    | some a =>
      match a.who with
      | .trk e =>
        match trkAt s e with
        | some t => creelServe s line a.win a.who (kindOf t) t.m.seat a.ali true
        | none => s
      | .agent _ => creelServe s line a.win a.who (kindNow s a) 1024 a.ali true
      | _ => s
    | none => s
  late.foldl enterIngress (serveWaiting 1025 s line)

/-- BI_TIMEOUT (R111). -/
def execBiTimeout (slice : Fin 16) (rec_ : Fin 128) (s : State) : Host.Outcome State Fault Refusal :=
  let r := slice.val * 128 + rec_.val
  match xingAt s r with
  | none => .next s
  | some x =>
    match x.start with
    | none => .next s
    | some t0 =>
      let s := advanceTo s (t0 + biTimeout s slice * 1000 - x.ran)
      let s := modSeat s x.seat fun y => { y with
        state := if y.state = .attached then .suspect else y.state, answered := 0 }
      let s := bump (breakLine s x.line x.win srcTimeout) (crlBase slice + 8)
      .next (logEvFor s (srcOf (crlBase slice)) 0x4001 sevErr (le 2 x.seat ++ le 8 (x.line * 64) ++ le 2 slice) [x.seat] [x.win])

/-- One damaged entry (R115). Where its LINE half is sound, every member of the owning group is snooped away from the line
through every alias and the entry goes INVALID; a BUSY one once its active request has completed. Where the LINE half is lost
the set becomes broadcast-on-miss. -/
def recoverEntry (slice : Nat) (s : State) (d : Nat × Nat × Bool) : State :=
  let key := wayKey slice d.1 d.2.1
  let c := creelAt s key
  if d.2.2 then
    let s := logEv s (srcOf (crlBase slice)) 0x4002 sevErr (le 2 slice ++ le 8 (c.line * 64))
    if c.st = .invalid then s
    else if c.mir then freeCentry s key
    else
      let s := queuePurge s c.line 1025
      if (actAt s c.line).isSome then s else startPurge s c.line 1025
  else
    let s := logEv s (srcOf (crlBase slice)) 0x4002 sevErr (le 2 slice ++ le 2 d.1)
    let s := modCreel s key fun _ => {}
    modSlice s slice fun x => { x with bcast := insertNat d.1 x.bcast }

/-- Damaged entries found by a recovery (R115). -/
def recoverEntries (s : State) (slice : Nat) (dam : List (Nat × Nat × Bool)) : State :=
  dam.foldl (recoverEntry slice) (modSlice s slice fun x => { x with recov := true, damaged := x.damaged ++ dam })

/-- CREEL_ENTRY_ECC_ERROR (R115). -/
def execCreelEntryEccError (slice : Fin 16) (damaged : List (Nat × Nat × Bool)) (s : State) :
    Host.Outcome State Fault Refusal :=
  let dam := damaged.filter fun d => decide (d.1 < 16384) && decide (d.2.1 < 16)
  if dam = [] then .next s
  else .next (recoverEntries s slice dam)

/-- CREEL_RECOVERY_COMPLETE (R115): when no snoop of the recovery is left, the slice leaves recovery. -/
def execCreelRecoveryComplete (slice : Fin 16) (s : State) : Host.Outcome State Fault Refusal :=
  let busy := s.acts.any fun e => match e.2 with
    | some a => a.who == .recover && crlSlice (e.1 * 64) == slice.val
    | none => false
  let busy := busy || (sliceAt s slice).purges.any fun p => p.2 == 1025
  if busy || !(sliceAt s slice).recov then .next s
  else .next (modSlice s slice fun x => { x with recov := false, damaged := [] })

/-- CREEL_SLICE_READY (R114, R119). -/
def execCreelSliceReady (slice : Fin 16) (s : State) : Host.Outcome State Fault Refusal :=
  .next (modSlice s slice fun x => { x with ready := true })

end Sys2Proof.Machine
end

