-- ==== Sys2Proof/Machine/Carder.lean ====
section
/-! DEFINITION. The skein cache and the carder: entry fetches (R129, R130), home fill (R125), epochs (R133, R136),
promotion (R135), demotion (R137), compaction (R138) and segment decodes (R154). -/

namespace Sys2Proof.Machine

open Sys2Proof

/-! ## Skein cache (R129, R130) -/

/-- Entries that wait for a page entry after their hank entry has come are counted as a miss of their own (R129). -/
def clearMissed (s : State) (w off : Nat) : State :=
  { s with trk := tabMap none (fun _ o => o.map fun t =>
      if t.m.win == w && hankOff s w t.m.dla == off then { t with missed := false } else t) s.trk }

/-- The entry of a command's operands. -/
def pageArg (page : Option (Fin 512)) : Option Nat := page.map (·.val)

/-- Brings an entry into the skein cache from DRAM. -/
def fetchEntry (s : State) (w off : Nat) (page : Option Nat) (uncorrectable : Bool) : State :=
  let s := fetchKey s w off page uncorrectable
  if page.isNone && (hankAt s w off).mode = .paged then clearMissed s w off else s

/-- SKEIN_MISS_FILL (R129, R130). -/
def execSkeinMissFill (win : Fin 4096) (hank : Nat) (page : Option (Fin 512)) (uncorrectable : Bool) (s : State) :
    Host.Outcome State Fault Refusal :=
  if (winAt s win).size ≤ hank ∨ cached s (entryKey win hank (pageArg page)) = true then .next s
  else .next (resume (fetchEntry s win hank (pageArg page) uncorrectable))

/-- SKEIN_CACHE_ECC_ERROR (R130): the fields that live in the cache alone are lost, and the entry is fetched again. -/
def execSkeinCacheEccError (win : Fin 4096) (hank : Nat) (page : Option (Fin 512)) (uncorrectable : Bool) (s : State) :
    Host.Outcome State Fault Refusal :=
  if cached s (entryKey win hank (pageArg page)) = false then .next s
  else
    let s := match page with
      | some p => modPage s (pageKey win hank p) fun x => { x with rcnt := 0, rep := 0 }
      | none => modHank s win hank fun h => { h with heat := 0, cold := 0 }
    let dla := match page with
      | some p => pageDla s win hank p
      | none => hankDla s win hank
    let s := logEvFor s (srcOf (sknBase (sknSlice dla))) 0x5001 sevNote (le 2 win ++ le 8 dla ++ kindByte 130 0) [] [win.val]
    .next (resume (fetchKey s win hank (pageArg page) uncorrectable))

/-! ## Home fill (R125) -/

/-- A unit of `role` that the carder has at hand enters a slot of the spindle that dispatch gives it, or waits in the role's
dispatch queue, from which SPINDLE_UNIT_ADMIT takes it (R190). -/
def giveUnit (s : State) (j : Job) (role qc slice : Nat) : State :=
  if inSlot s j || s.units.any fun u => u.job == j then s
  else match pickSpindle s role slice 48 4 with
    | none => queueUnit s j role qc slice
    | some n => stampNext (placeUnit s n { job := j, role := role, qc := qc, slice := slice, ord := s.stamp })

/-- A unit of `role` runs to its end once it is in a slot. -/
def runUnit (s : State) (j : Job) (role qc slice : Nat) (f : State → State) : State :=
  let s := giveUnit s j role qc slice
  if inSlot s j then leaveSlot (f s) j true else s

/-- The unit under a REKEY's cursor: tier changes of it wait (R178). -/
def underCursor (s : State) (w off pg : Nat) : Bool :=
  match (slotOf s w).cursor with
  | some (o, p, _) => (slotOf s w).st = .rekeying && o == off && (p == some pg || p == none)
  | none => false

/-- HOME_FILL (R125). -/
def execHomeFill (win : Fin 4096) (hank : Nat) (page : Fin 512) (s : State) : Host.Outcome State Fault Refusal :=
  let x := winAt s win
  let h := hankAt s win hank
  if x.elastic ∨ x.size ≤ hank ∨ (pageOf s win hank page).tier ≠ .unmapped ∨ x.state = .offline ∨
      x.cause = some .reweave then .next (dropJobs s (· == .fill (pageKey win hank page)))
  else .next (resume (runUnit s (.fill (pageKey win hank page)) 4 15 0 fun s => mapHotZero s win hank page (homeFrame h page) 15))

/-! ## Epochs (R133, R136, R139) -/

/-- The epoch length in ns (R141). -/
def epochNs (s : State) : Nat := max 100 (fld (regN s cardBase) 15 0) * 1000000

/-- DECAY (R142). -/
def decayOf (s : State) : Nat := clampN 1 16 (fld (regN s (cardBase + 4)) 12 8)

/-- The sweep of one hank entry. -/
def sweepHank (decay : Nat) (h : Hank) : Hank :=
  { h with cold := if h.heat ≠ 0 then 0 else min 255 (h.cold + 1), heat := h.heat * (16 - decay) / 16 }

/-- Cold epochs before demotion at the present level (R143). -/
def demoEpochs (s : State) : Nat :=
  max 1 (if s.ledger.level = 0 then fld (regN s (cardBase + 12)) 7 0 else fld (regN s (cardBase + 12)) 15 8)

/-- Queues a page for demotion; a full queue leaves it for a later sweep. -/
def queueDemo (s : State) (pk : Nat) : State :=
  if 4096 ≤ s.carder.demo.length ∨ s.carder.demo.any (fun d => d.key == pk) = true then s
  else
    let w := pk / 512 / 0x1000000
    let off := pk / 512 % 0x1000000
    queueUnit { s with carder := { s.carder with demo := s.carder.demo ++ [{ key := pk }] } }
      (.demo pk) 3 (tierClass s) (sknSlice (hankDla s w off))

/-- The sweep's demotions of one hank (R136). -/
def sweepDemote (s : State) (key : Nat) : State :=
  let w := key / 0x1000000
  let off := key % 0x1000000
  let h := hankAt s w off
  let c := (winAt s w).clevel
  if demoEpochs s ≤ h.cold ∧ 1 ≤ c ∧ c ≤ 3 ∧ h.mode ≠ .unmapped ∧ (!h.guar || decide (s.ledger.level < 2)) then
    (List.range 512).foldl (fun t pg =>
      let p := pageOf t w off pg
      if p.tier = .hot && !p.incomp && !p.demo then queueDemo t (pageKey w off pg) else t) s
  else s

/-- At RED and BLACK the compressed pages of a guaranteed hank are promoted home (R139). The manual gives no moment for it: the
model queues them at the sweep of an epoch (DESIGN CHOICE, log entry 93). -/
def sweepHome (s : State) (key : Nat) : State :=
  let w := key / 0x1000000
  let off := key % 0x1000000
  let h := hankAt s w off
  if 2 ≤ s.ledger.level ∧ h.guar ∧ h.mode = .paged then
    (List.range 512).foldl (fun t pg =>
      let p := pageAt t (pageKey w off pg)
      if p.tier = .compressed && !p.promo && decide (promoQ t < 4096) then queuePromo t w off pg .home else t) s
  else s

/-- EPOCH_END (R133, R136). -/
def execEpochEnd (s : State) : Host.Outcome State Fault Refusal :=
  let s := advanceTo s (s.carder.epochAt + epochNs s)
  let d := decayOf s
  let s := { s with
    hanks := tabMap none (fun _ o => o.map (sweepHank d)) s.hanks
    carder := { s.carder with epoch := s.carder.epoch + 1, epochAt := s.carder.epochAt + epochNs s } }
  let keys := s.hanks.map (·.1)
  .next (keys.foldl sweepHome (keys.foldl sweepDemote s))

/-! ## Copying lines -/

/-- A line of a unit as its key set deciphers it; its merge entry is flushed first (R241). -/
def readUnitLine (s : State) (w off : Nat) (page : Option Nat) (line kgen : Nat) (noise : List Byte) (dla : Option Nat)
    (qc seat : Nat) : State × Option (List Byte) :=
  let s := casLine (flushLine s line []) line false qc seat
  let g := genOfLine s w off page line kgen
  demandRead s line (dramAt s line) noise (keyOfGen s w g) g dla

/-- Reads `n` lines of a unit in order, each with its own noise. -/
def readUnit (w off : Nat) (page : Option Nat) (kgen : Nat) (dla : Option Nat) (qc : Nat) :
    Nat → State → Nat → List (List Byte) → State × List (Option (List Byte))
  | 0, s, _, _ => (s, [])
  | n + 1, s, line, noise =>
    let (s, d) := readUnitLine s w off page line kgen (noise.headD []) dla qc 1024
    let (s, r) := readUnit w off page kgen (dla.map (· + 64)) qc n s (line + 1) (noise.drop 1)
    (s, d :: r)

/-- Writes lines in order from DPA line `line`; none is written as poison. -/
def writeUnit (key gen qc : Nat) : State → Nat → List (Option (List Byte)) → State
  | s, _, [] => s
  | s, line, some d :: t => writeUnit key gen qc (fullWrite (casLine s line true qc 1024) line key gen d) (line + 1) t
  | s, line, none :: t => writeUnit key gen qc (poisonLine (casLine s line true qc 1024) line) (line + 1) t

/-- Splits bytes into whole lines. -/
def linesOf : Nat → List Byte → List (Option (List Byte))
  | 0, _ => []
  | n + 1, b => some (lineOf b) :: linesOf n (b.drop 64)

/-- Ends a promotion: PROMO clears and the carder and the spindle let it go. -/
def endPromo (s : State) (pk : Nat) (completed : Bool) : State :=
  let s := putEntry s (pk / 512 / 0x1000000) (pk / 512 % 0x1000000) (pk % 512) fun p => { p with promo := false }
  let s := { s with
    carder := { s.carder with promo := s.carder.promo.filter fun p => p.key != pk }
    units := s.units.filter fun u => u.job != .promo pk }
  leaveSlot s (.promo pk) completed

/-- DEMO of a page clears. -/
def endDemoFlag (s : State) (pk : Nat) : State :=
  if (hankAt s (pk / 512 / 0x1000000) (pk / 512 % 0x1000000)).mode = .paged then
    putEntry s (pk / 512 / 0x1000000) (pk / 512 % 0x1000000) (pk % 512) fun p => { p with demo := false }
  else s

/-- Ends a demotion: DEMO clears, and a guaranteed hank that is wholly HOT again becomes DIRECT (R125). -/
def endDemo (s : State) (pk : Nat) (incomp completed : Bool) : State :=
  let w := pk / 512 / 0x1000000
  let off := pk / 512 % 0x1000000
  let s := if (hankAt s w off).mode = .paged then
      putEntry s w off (pk % 512) fun p => { p with demo := false, incomp := p.incomp || incomp }
    else s
  let s := { s with
    carder := { s.carder with demo := s.carder.demo.filter fun d => d.key != pk }
    units := s.units.filter fun u => u.job != .demo pk }
  tryDirect (leaveSlot s (.demo pk) completed) w off

/-! ## Promotion (R135) -/

/-- The bytes of `n` units at a run offset, from the run's lines; none where a line they overlap could not be read. -/
def runBytes (ls : List (Option (List Byte))) (off n : Nat) : Option (List Byte) :=
  let part := (ls.drop (off / 64)).take ((off + n + 63) / 64 - off / 64)
  if part.all Option.isSome then some (bytesAt (part.flatMap fun o => o.getD []) (off % 64) n) else none

/-- One segment of a run decoded (R128, R154): zeros, raw bytes or PLZ. The answer is none for poison, and what was
wrong: 0 nothing, 1 the encoding, 2 a line. -/
def decodeSeg (p : Page) (ls : List (Option (List Byte))) (i : Nat) : Option (List Byte) × Nat :=
  let l := p.len.getD i 0
  if p.pmask.getLsbD i then (none, 0)
  else if l = 0 then (some (List.replicate 512 0), 0)
  else
    match runBytes ls (segStart p.len i) (8 * l) with
    | none => (none, 2)
    | some b =>
      if l = 64 then (some b, 0)
      else if 56 < l then (none, 0)
      else match plzDecode b 512 with
        | some d => (some d, 0)
        | none => (none, 1)

/-- Decodes the eight segments of a page into lines; a segment in error is counted, logged and masked (R154). -/
def decodePage (w dla : Nat) (p : Page) (ls : List (Option (List Byte))) :
    Nat → State → List (Option (List Byte)) → State × List (Option (List Byte))
  | 0, s, acc => (s, acc)
  | n + 1, s, acc =>
    let i := 7 - n
    let (d, bad) := decodeSeg p ls i
    let s := if bad = 0 then s else segmentError s w (dla + 512 * i) bad
    let out := match d with
      | some b => linesOf 8 b
      | none => List.replicate 8 none
    decodePage w dla p ls n s (acc ++ out)

/-- PROMOTION (R135 steps 1–3): allocates the frame and decodes the page into it. -/
def execPromotion (win : Fin 4096) (hank : Nat) (page : Fin 512) (noise : List (List Byte)) (s : State) :
    Host.Outcome State Fault Refusal :=
  let pk := pageKey win hank page
  let p := pageAt s pk
  if !(s.carder.promo.any fun q => q.key == pk && !q.run) || !inSlot s (.promo pk) || underCursor s win hank page ||
      p.tier != .compressed then .next s
  else
    let h := hankAt s win hank
    let (s, frame) := if h.guar then (s, some (homeFrame h page)) else allocFrame s
    match frame with
    | none => .next (resume (endPromo s pk false))
    | some f =>
      let dla := pageDla s win hank page
      let qc := match s.carder.promo.find? fun q => q.key == pk with
        | some { why := .write qc, .. } => qc
        | _ => tierClass s
      let (s, ls) := readUnit win hank (some page) p.kgen none qc (runGranules p.len * 4) s (p.addr * 4) noise
      let (s, out) := decodePage win dla p ls 8 s []
      let k := slotOf s win
      let s := writeUnit k.cur k.gen qc s (frameLine f) out
      .next { s with carder := { s.carder with promo := s.carder.promo.map fun q =>
        if q.key == pk then { q with run := true, frame := some f, gen := k.gen } else q } }

/-- Segments whose PMASK bit is set when a promotion ends hold the poison code word in the frame, also those that were
poisoned after it had been written (R135 step 3, R140). -/
def poisonMasked (s : State) (first : Nat) (mask : BitVec 8) : State :=
  (List.range 64).foldl (fun t i => if mask.getLsbD (i / 8) && !isPoison t (first + i) then poisonLine t (first + i) else t) s

/-- PROMOTION_COMPLETE (R135 steps 4–6). -/
def execPromotionComplete (win : Fin 4096) (hank : Nat) (page : Fin 512) (s : State) : Host.Outcome State Fault Refusal :=
  let pk := pageKey win hank page
  match s.carder.promo.find? fun q => q.key == pk && q.run with
  | none => .next s
  | some q =>
    if underCursor s win hank page then .next s
    else
      let p := pageAt s pk
      let s := dropLcache s (pageDla s win hank page) 64
      let s := poisonMasked s (frameLine (q.frame.getD 0)) p.pmask
      let s := putPage s win hank page { p with
        tier := .hot, addr := q.frame.getD 0, kgen := q.gen, len := [], pmask := 0, promo := false, incomp := false }
      let s := if runGranules p.len = 0 then s else freeRun s p.addr
      let s := bump (endPromo s pk true) (cardBase + 0x40)
      .next (resume (tryDirect s win hank))

/-! ## Demotion (R137) -/

/-- DEMOTION (R137 steps 1–4). A flush of the merge buffer that its own reads bring about is a write to the page, and cancels
it (R17, R241). -/
def execDemotion (win : Fin 4096) (hank : Nat) (page : Fin 512) (noise : List (List Byte)) (s : State) :
    Host.Outcome State Fault Refusal :=
  let pk := pageKey win hank page
  if !(s.carder.demo.any fun q => q.key == pk && q.enc.isNone && !q.run) || !inSlot s (.demo pk) ||
      underCursor s win hank page || moving s pk then .next s
  else if (pageOf s win hank page).tier ≠ .hot then .next (endDemo s pk false false)
  else
    let s := directToPaged s win hank
    let s := putEntry s win hank page fun p => { p with demo := true }
    let p := pageAt s pk
    let (s, ls) := readUnit win hank (some page) p.kgen (some (pageDla s win hank page)) (tierClass s) 64 s (frameLine p.addr) noise
    if !(s.carder.demo.any fun q => q.key == pk) then .next (resume s)
    else if !ls.all Option.isSome then .next (resume (bump (endDemo s pk false false) (cardBase + 0x48)))
    else
      let b := ls.flatMap fun o => o.getD []
      let segs := (List.range 8).map fun i => encodeSegment (winAt s win).clevel (bytesAt b (512 * i) 512)
      let len : List Nat := segs.map (·.1)
      if 448 < (len.foldl (· + ·) 0 : Nat) then
        .next (resume (bump (endDemo s pk true false) (cardBase + 0x4C)))
      else
        .next { s with carder := { s.carder with demo := s.carder.demo.map fun q =>
          if q.key == pk then { q with run := true, enc := some (len, segs.flatMap (·.2)) } else q } }

/-- DEMOTION_COMPLETE (R137 steps 5–8). -/
def execDemotionComplete (win : Fin 4096) (hank : Nat) (page : Fin 512) (s : State) : Host.Outcome State Fault Refusal :=
  let pk := pageKey win hank page
  match s.carder.demo.find? fun q => q.key == pk && q.run with
  | none => .next s
  | some q =>
    if underCursor s win hank page then .next s
    else
      match q.enc with
      | none => .next s
      | some (len, bytes) =>
        let k := runGranules len
        let (s, run) := if k = 0 then (s, some 0) else allocRun s k
        match run with
        | none => .next (bump (endDemo s pk false false) (cardBase + 0x48))
        | some g =>
          let p := pageAt s pk
          let sl := slotOf s win
          let s := writeUnit sl.cur sl.gen (tierClass s) s (g * 4) (linesOf (k * 4) (bytes ++ List.replicate (k * 256 - bytes.length) 0))
          let s := putPage s win hank page { p with
            tier := .compressed, addr := g, len := len, kgen := sl.gen, pmask := 0, demo := false, promo := false }
          let s := endDemo s pk false true
          let s := bumpBy (bump s (cardBase + 0x44)) (cardBase + 0x58) (len.filter (· == 64)).length
          .next (if (hankAt s win hank).guar then s else freeFrame s p.addr)

/-! ## Compaction (R138) -/

/-- Storage units taken in a used hank, and how many it has room for. -/
def takenOf : HankUse → Nat
  | .frames t => t.length
  | .runs _ t => t.length
def roomOf : HankUse → Nat
  | .frames _ => 512
  | .runs k _ => runsPerHank k

/-- Two hanks hold storage of one kind. -/
def sameKind : HankUse → HankUse → Bool
  | .frames _, .frames _ => true
  | .runs j _, .runs k _ => j == k
  | _, _ => false

/-- A hank of one kind with another that has room, apart from `h` itself; the working floor only at BLACK. -/
def compactHank (s : State) (h : Nat) (u : HankUse) : Option Nat :=
  (s.used.find? fun e => e.1 != h && (s.ledger.level == 3 || s.carder.drawn != some e.1) && match e.2 with
    | some v => sameKind u v && decide (takenOf v < roomOf v)
    | none => false).map (·.1)

/-- At BLACK the working floor that nothing has drawn on may be the target of a move of runs: its granules are never given
to a frame (R131). -/
def floorTarget (s : State) (u : HankUse) : Bool := s.ledger.level == 3 && s.carder.floor && match u with
  | .runs _ _ => true
  | .frames _ => false

/-- Storage of a hank can move. -/
def compactTarget (s : State) (h : Nat) (u : HankUse) : Bool := (compactHank s h u).isSome || floorTarget s u

/-- The hank the carder compacts: the least occupied among those whose storage can move, while the level is not GREEN or
its occupancy is below PCT. -/
def compactSource (s : State) : Option Nat :=
  let pct := min 90 (fld (regN s (cardBase + 0x10)) 6 0)
  let cand := s.used.filterMap fun e => match e.2 with
    | some u => if compactTarget s e.1 u && (s.ledger.level != 0 || decide (takenOf u * 100 < pct * roomOf u))
        then some (e.1, takenOf u, roomOf u) else none
    | none => none
  match cand with
  | [] => none
  | c :: t => some (t.foldl (fun b x => if x.2.1 * b.2.2 < b.2.1 * x.2.2 then x else b) c).1

/-- A place in another hank of its kind, or in the working floor at BLACK, for a compaction move. -/
def moveTarget (s : State) (h : Nat) (u : HankUse) : State × Option Nat :=
  match compactHank s h u with
  | none =>
    match floorTarget s u, u with
    | true, .runs k _ =>
      let (s, t) := openHank s (.runs k [0])
      (evalLevel { s with carder := { s.carder with floor := false, drawn := some t } }, some (t * 8192))
    | _, _ => (s, none)
  | some t =>
    match usedAt s t with
    | some (.frames l) => match lowestFree 512 l with
      | some i => (evalLevel (modUsed s t fun _ => some (.frames (i :: l))), some (t * 512 + i))
      | none => (s, none)
    | some (.runs k l) => match lowestFree (runsPerHank k) l with
      | some i => (evalLevel (modUsed s t fun _ => some (.runs k (i :: l))), some (t * 8192 + i * k))
      | none => (s, none)
    | none => (s, none)

/-- Number of DRAM lines of a page's storage, and its first line. -/
def storeLines (p : Page) : Nat := if p.tier = .compressed then runGranules p.len * 4 else 64
def storeFirst (p : Page) (addr : Nat) : Nat := if p.tier = .compressed then addr * 4 else frameLine addr

/-- The hank that holds a page's storage. -/
def storeHank (p : Page) : Nat := if p.tier = .compressed then p.addr / 8192 else p.addr / 512

/-- The page's storage can move: it lies in the hank that the carder compacts, and no other operation holds the page. -/
def canMove (s : State) (w off pg : Nat) : Bool :=
  let p := pageOf s w off pg
  p.tier != .unmapped && storeLines p != 0 && !p.promo && !p.demo && !underCursor s w off pg &&
    compactSource s == some (storeHank p) && (p.tier == .compressed || !(hankAt s w off).guar)

/-- The carder copies a page's storage into another hank of its kind (R138). -/
def copyMove (s : State) (w off pg : Nat) : State :=
  let p := pageOf s w off pg
  match usedAt s (storeHank p) with
  | none => s
  | some u =>
    match moveTarget s (storeHank p) u with
    | (s, none) => s
    | (s, some a) =>
      let (s, ls) := readUnit w off (some pg) p.kgen none (tierClass s) (storeLines p) s (storeFirst p p.addr) []
      let s := writeUnit (keyOfGen s w p.kgen) p.kgen (tierClass s) s (storeFirst p a) ls
      { s with carder := { s.carder with moves := s.carder.moves ++
        [{ key := pageKey w off pg, oldAddr := p.addr, newAddr := a, isRun := p.tier == .compressed }] } }

/-- The page entry switches to the copy by a write-through, and what waited for it goes on (R138). -/
def switchMove (s : State) (w off pg : Nat) (m : Move) : State :=
  let s := putPage s w off pg { pageOf s w off pg with addr := m.newAddr }
  let s := { s with carder := { s.carder with moves := s.carder.moves.map fun x =>
    if x.key == m.key && !x.switched then { x with switched := true } else x } }
  resume (leaveSlot s (.move m.key) true)

/-- COMPACTION_MOVE (R138): a page of the source hank. The first command for it gives the unit to a spindle, and once it has a
slot copies the run or frame; the next switches the page entry, unless a promotion has cancelled the move meanwhile
(log entry 94). -/
def execCompactionMove (win : Fin 4096) (hank : Nat) (page : Fin 512) (s : State) : Host.Outcome State Fault Refusal :=
  let pk := pageKey win hank page
  match s.carder.moves.find? fun m => m.key == pk with
  | some m =>
    if m.switched || underCursor s win hank page || !inSlot s (.move pk) then .next s
    else .next (switchMove s win hank page m)
  | none =>
    if canMove s win hank page then
      let s := giveUnit s (.move pk) 4 (tierClass s) 0
      .next (if inSlot s (.move pk) then copyMove s win hank page else s)
    else .next (dropJobs s (· == .move pk))

/-- A read that was issued with the old address is still in flight. -/
def readsOld (s : State) (m : Move) : Bool :=
  let lo := if m.isRun then m.oldAddr * 4 else frameLine m.oldAddr
  let hi := lo + (if m.isRun then 56 else 64)
  s.trk.any fun e => match e.2 with
    | some t => isRead t.m.op && t.accepted && pageKey t.m.win (hankOff s t.m.win t.m.dla) (pageNo t.m.dla) == m.key &&
        t.snap.any fun l => decide (lo ≤ l.line) && decide (l.line < hi)
    | none => false

/-- COMPACTION_COMPLETE (R138): the old storage is freed. -/
def execCompactionComplete (win : Fin 4096) (hank : Nat) (page : Fin 512) (s : State) : Host.Outcome State Fault Refusal :=
  let pk := pageKey win hank page
  match s.carder.moves.find? fun m => m.key == pk && m.switched with
  | none => .next s
  | some m =>
    if readsOld s m then .next s
    else
      let s := { s with carder := { s.carder with moves := s.carder.moves.filter fun x => x.key != pk } }
      .next (if m.isRun then freeRun s m.oldAddr else freeFrame s m.oldAddr)

/-! ## Segment decodes (R14, R154) -/

/-- Places a decoded segment in the line cache, eight lines (R14). -/
def fillLcache (s : State) (dla : Nat) (b : List Byte) : State :=
  (List.range 8).foldl (fun t i => lcachePut t (lcacheSlice dla) (dla / 512 * 8 + i) (bytesAt b (64 * i) 64)) s

/-- SEGMENT_DECODE (R154): the requested line first, then the rest of the segment into the line cache. -/
def execSegmentDecode (entry : Fin 24576) (noise : List (List Byte)) (s : State) : Host.Outcome State Fault Refusal :=
  let e := entry.val
  match trkAt s e with
  | none => .next s
  | some t =>
    if !t.accepted || !t.decoding || !inSlot s (.decode e) || !readIssued s e then .next s
    else
      let lines := t.snap.map (·.line)
      if !(lines.all fun l => chOnline s (chOfLine s l)) then .next s
      else
        match t.loc with
        | some (.comp run o len) =>
          let dl := t.devLoad
          let (s, d) := readLines s none t.snap noise
          let out := match d with
            | some b => plzDecode (bytesAt b (o % 64) (8 * len)) 512
            | none => none
          match out with
          | some seg =>
            let s := leaveSlot s (.decode e) true
            let s := endRead s e t (some (bytesAt seg (t.m.dla / 64 % 8 * 64) 64)) dl
            let p := pageOf s t.m.win (hankOff s t.m.win t.m.dla) (pageNo t.m.dla)
            let s := if p.tier = .compressed && p.addr == run then fillLcache s t.m.dla seg else s
            .next (passLine s (lineIdx t.m.dla))
          | none =>
            let s := leaveSlot s (.decode e) true
            let s := segmentError s t.m.win t.m.dla (if d.isNone then 2 else 1)
            .next (passAll (poisonWaiters s t.m.win t.m.dla))
        | _ => .next s

end Sys2Proof.Machine
end

