-- ==== Sys2Proof/Machine/AgentMem.lean ====
section
/-! DEFINITION. Memory as an agent without caches uses it (R116): ring descriptors (R210–R213), the management island,
inbound mirror writes. Descriptors as the ring service holds them (R209, R223, R224). -/

namespace Sys2Proof.Machine

open Sys2Proof

/-! ## Descriptors and statuses (R224) -/

def stOk : Nat := 0
def stExpanded : Nat := 1
def stOutputFull : Nat := 2
def stDisabled : Nat := 3
def stAccess : Nat := 4
def stPoison : Nat := 5
def stLinkDown : Nat := 6
def stAborted : Nat := 7
def stBadDesc : Nat := 8
def stTimeout : Nat := 9
def stCapacity : Nat := 10
def stKey : Nat := 11

/-- Key of the descriptor of ring `r` at SQ index `i` in `State.descs`. -/
def descKey (r i : Nat) : Nat := r * 0x10000 + i

/-- Keys of the device's own agents, above those of descriptors. -/
def agentKey (k : Nat) : Nat := 0x20000000 + k

/-- A descriptor's deposits go with it: they belong to it only (R116). -/
def dropDeposits (s : State) (k : Nat) : State :=
  ((s.spn.filter fun e => e.2.deposits.any fun x => x.1 == k).map (·.1)).foldl (fun t n =>
    modSpn t n fun x => { x with deposits := x.deposits.filter fun e => e.1 != k }) s

/-- A descriptor ends (R223, R224): its slot frees and its record waits to be written. -/
def endDesc (s : State) (k status r0 r1 r2 : Nat) : State :=
  match descAt s k with
  | none => s
  | some d =>
    if d.st = .ended then s
    else
      let s := modDesc s k fun _ => some { d with
        st := .ended, endOrd := s.stamp, status := status, r0 := r0, r1 := r1, r2 := r2, lines := [] }
      let s := bump (stampNext s) (ringBase + 0x48)
      let s := if status = 0 then s else bump s (ringBase + 0x4C)
      leaveSlot (touchHome (dropDeposits s k) 5) (.desc (k / 0x10000) (k % 0x10000)) true

/-! ## Addresses (R210) -/

/-- The window, alias and DLA of a range that lies within one alias range of one window the seat reaches. -/
def seatRange (s : State) (seat hpa len : Nat) : Option (Nat × Nat) :=
  match findWin s seat hpa with
  | none => none
  | some (w, k) =>
    let x := winAt s w
    let off := hpa - aliasBase x k
    if off + len ≤ winBytes x then some (w, x.dlaHank * 0x200000 + off) else none

/-- Every block that holds bytes of a range is online, in a DC window (R70). -/
def rangeOnline (s : State) (w dla len : Nat) : Bool :=
  !(winAt s w).dc ||
  (List.range ((dla + len - 1) / 0x10000000 - dla / 0x10000000 + 1)).all fun i => blockOnline s (dla + i * 0x10000000)

/-- Status of an access when it is made (R74, R210): `since` is the stamp of the descriptor's start. -/
def accessStatus (s : State) (w dla len since : Nat) : Nat :=
  let x := winAt s w
  let served := x.state = .online || (x.state = .disabling && decide (since < x.disOrd))
  if !served then (if x.state = .disabling ∨ x.state = .disabled then stDisabled else stAccess)
  else if (x.mirror != 0 && x.secondary) || x.waitHand || x.sendHand then stAccess
  else if rangeOnline s w dla len then stOk else stAccess

/-! ## Coherence (R116) -/

/-- The agent's request for the line is the active one, or waits. -/
def agentPending (s : State) (n line : Nat) : Bool :=
  (match actAt s line with
    | some a => a.who == .agent n
    | none => false) ||
  (sliceAt s (crlSlice (line * 64))).confq.any fun x => x.1 == line && x.2.1 == .agent n

/-- The agent has been granted the line since it last asked. -/
def agentHas (s : State) (n line : Nat) : Bool :=
  match descAt s n with
  | some d => d.lines.contains line
  | none => false

/-- The agent may read or write the line now: no seat holds it in a way that must be snooped first (R99, R116), and the
channel has accepted every write of the line that was granted before (R87, R109). -/
def agentOk (s : State) (n w : Nat) (write : Bool) (line : Nat) : Bool :=
  !isDb s w || !writeAhead s line s.stamp && match findEntry s line with
  | none => !missBroadcasts s w (line * 64) || agentHas s n line
  | some k => match (creelAt s k).st with
    | .shared => !write
    | .exclusive => !write && agentHas s n line
    | .poisoned => !write || agentHas s n line
    | .busy => false
    | .invalid => true

/-- A request of the agent for one line that it may not use yet and has not asked for. -/
def agentAsk (s : State) (n w : Nat) (write full : Bool) (line : Nat) : State :=
  if agentOk s n w write line || agentPending s n line then s else agentRequest s n line w write full

/-- Asks for every line of a range: the answer says whether all may be used now. -/
def agentLines (s : State) (n w dla len : Nat) (write : Bool) : State × Bool :=
  if len = 0 || !isDb s w then (s, true)
  else
    let first := dla / 64
    let lines := (List.range ((dla + len + 63) / 64 - first)).map (first + ·)
    let whole := fun (l : Nat) => decide (dla ≤ l * 64) && decide (l * 64 + 64 ≤ dla + len)
    let s := lines.foldl (fun t l => agentAsk t n w write (whole l) l) s
    (s, lines.all fun l => agentOk s n w write l)

/-- A pseudo-descriptor that holds the granted lines of one of the device's own agents. -/
def agentOpen (s : State) (n : Nat) : State :=
  if (descAt s n).isSome then s else modDesc s n fun _ => some { raw := [], st := .started, ord := s.stamp }

/-- The agent is done with its lines. -/
def agentClose (s : State) (n : Nat) : State := modDesc s n fun _ => none

/-! ## Reading -/

/-- Counts an agent's write to a line, and samples it for heat, once (R129, R133, R146). -/
def agentCount (s : State) (n w dla : Nat) : State :=
  let seen := match descAt s n with
    | some d => d.looked.contains (dla / 64)
    | none => false
  if seen then s
  else
    let s := sampleHeat (agentLook s w dla).1 w dla
    modDesc s n fun o => o.map fun d => { d with looked := dla / 64 :: d.looked }

/-- Reads the line at a DLA as a current read (R210), and samples the access for heat. A line of a compressed page comes from
the line cache where that holds it (R14, R129); else its segment is decoded for this reader alone. -/
def agentRead (s : State) (w dla qc seat : Nat) : State × Option (List Byte) :=
  let off := hankOff s w dla
  if keyLost s w then (s, none)
  else
    let (s, look) := agentLook s w dla
    let s := sampleHeat s w dla
    match look with
    | .zeros => (s, some zeroLine)
    | .hot line kgen page => readUnitLine s w off page line kgen [] (some dla) qc seat
    | .badLen =>
      (logEvFor s (srcOf (sknBase (sknSlice dla))) 0x5001 sevErr (le 2 w ++ le 8 dla ++ kindByte 128 0) [] [w], none)
    | .comp run o len kgen =>
      if lcacheAt s (lineIdx dla) ≠ [] then (s, some (lcacheAt s (lineIdx dla)))
      else
      let lines := runLines run o (8 * len)
      let s := casLines (lines.foldl (fun t l => flushLine t l []) s) lines false qc seat
      let (s, d) := readLines s none (lines.map (snapOf s w off (some (pageNo dla)) kgen)) []
      match d with
      | none => (segmentError s w dla 2, none)
      | some b =>
        let seg := bytesAt b (o % 64) (8 * len)
        if len = 64 then (s, some (bytesAt seg (dla / 64 % 8 * 64) 64))
        else match plzDecode seg 512 with
          | some d => (s, some (bytesAt d (dla / 64 % 8 * 64) 64))
          | none => (segmentError s w dla 1, none)
    | _ => (s, none)

/-- Reads `n` consecutive lines. -/
def agentReadLines (w qc seat : Nat) : Nat → State → Nat → State × List (Option (List Byte))
  | 0, s, _ => (s, [])
  | n + 1, s, dla =>
    let (s, d) := agentRead s w dla qc seat
    let (s, r) := agentReadLines w qc seat n s (dla + 64)
    (s, d :: r)

/-- Lines that a range touches. -/
def spanLines (dla len : Nat) : Nat := if len = 0 then 0 else (dla + len + 63) / 64 - dla / 64

/-- The lines of a range, each as data or poison. -/
def agentSpan (s : State) (w dla len qc seat : Nat) : State × List (Option (List Byte)) :=
  agentReadLines w qc seat (spanLines dla len) s (dla / 64 * 64)

/-- Bytes of a range from its lines; a poisoned line gives zeros here and is found with `spanPoison`. -/
def spanBytes (ls : List (Option (List Byte))) (dla len : Nat) : List Byte :=
  bytesAt (ls.flatMap fun o => o.getD zeroLine) (dla % 64) len

/-- Index of the first poisoned line of a range. -/
def spanPoison (ls : List (Option (List Byte))) : Option Nat := (List.range ls.length).find? fun i => (ls.getD i none).isNone

/-! ## Writing (R16, R213) -/

/-- What becomes of an agent's write to a line. -/
inductive ATarget where
  | wait
  /-- It needs storage that does not exist (R213). -/
  | capacity
  | discard
  | hot (line key gen : Nat)
  deriving DecidableEq, Repr

/-- Resolves an agent's write: as a host's, but storage that does not exist poisons nothing (R213). -/
def agentTarget (s : State) (w dla qc : Nat) : State × ATarget :=
  let off := hankOff s w dla
  let pg := pageNo dla
  let s := agentFetch s w dla
  if keyLost s w || skeinLook s w dla = .lost then (s, .discard)
  else if pageQueued s w dla 0 then (s, .wait)
  else
    let t := (pageOf s w off pg).tier
    if !(hankAt s w off).guar && t != .hot && !frameFree s && !promoQueued s (pageKey w off pg) then (s, .capacity)
    else match writeTarget s w dla qc with
      | (s, .wait) => (s, .wait)
      | (s, .discard) => (s, .discard)
      | (s, .hot line key gen) => (s, .hot line key gen)

/-- The message that stands for an agent's write of one line when it is forwarded to the partner (R340; log entry 18). -/
def agentMsg (w dla qc seat : Nat) (mask : BitVec 64) (data : List Byte) : Msg :=
  { seat := seat, port := 0, link := 0, id := 0, tag := 0, op := if mask = BitVec.allOnes 64 then .wr else .wrPtl,
    hpa := 0, win := w, ali := 0, dla := dla, qc := qc, data := data, mask := mask }

/-- Stores bytes of a line where its target says. -/
def agentStore (s : State) (m : Msg) (t : ATarget) (poison mirror : Bool) : State :=
  match t with
  | .hot line key gen =>
    let s := if mirror then forwardMsg s m none poison else s
    let s := dropLcache s (m.dla / 64 * 64) 1
    if poison then poisonLine (casLine s line true m.qc m.seat) line
    else if m.op = .wr then plRestore (fullWrite (casLine s line true m.qc m.seat) line key gen m.data) m.win m.dla
    else mergePut s { line := line, mask := m.mask, data := lineOf m.data, at_ := s.now, qc := m.qc, key := key,
                      gen := gen, dla := m.dla / 64 * 64, seat := m.seat }
  | _ => s

/-- Lines that a spindle's deposit area holds: 32 KiB (R186). -/
def depositLines : Nat := 512

/-- A line is deposited in spindle `p` for descriptor `k`; a full area takes none (R116, R186). -/
def depositLine (s : State) (k p line : Nat) (b : List Byte) : State :=
  modSpn s p fun x =>
    let l := x.deposits.filter fun e => !(e.1 == k && e.2.1 == line)
    if l.length < depositLines then { x with deposits := l ++ [(k, line, b)] } else x

/-- Places a line that descriptor `k` has written, as its placement hint says (R116, R214): in the line-cache slice that HINT
names; where HINT names none, in a spindle's local store if the microcode gave the write such a hint (log entry 98). -/
def placeLine (s : State) (k dla line key gen : Nat) : State :=
  match descAt s k with
  | none => s
  | some d =>
    let hint := numAt d.raw 2 1
    let p := Config.spindleHint d.startOrd (dla / 64)
    match lineNow s line key gen with
    | none => s
    | some b =>
      if d.raw = [] then s
      else if bitOf hint 7 then lcachePut s (hint % 16) (dla / 64) b
      else if p < 48 ∧ domShut s (quadDom p) = false then depositLine s k p (dla / 64) b
      else s

/-- One line of a write by agent `n`: a descriptor or the island. The answer is false where storage does not exist. -/
def agentWrite (s : State) (n w dla qc seat : Nat) (mask : BitVec 64) (data : List Byte) (poison : Bool) : State × Bool :=
  match agentTarget (agentCount s n w dla) w dla qc with
  | (s, .capacity) => (s, false)
  | (s, t) =>
    let s := agentStore s (agentMsg w dla qc seat mask data) t poison true
    match t with
    | .hot line key gen => (if poison then s else placeLine s n dla line key gen, true)
    | _ => (s, true)

/-- Byte mask of the bytes of a line that a range covers. -/
def spanMask (dla len line : Nat) : BitVec 64 :=
  BitVec.ofNat 64 ((List.range 64).foldl (fun a i =>
    if dla ≤ line * 64 + i ∧ line * 64 + i < dla + len then a + 2 ^ i else a) 0)

/-- Some line of the range must wait before it can be written: its page is compressed, or moving. The promotion it needs
is queued. -/
def agentReady (k w qc : Nat) : Nat → State → Nat → State × Bool
  | 0, s, _ => (s, true)
  | n + 1, s, dla =>
    match agentTarget (agentCount s k w dla) w dla qc with
    | (s, .wait) => ((agentReady k w qc n s (dla + 64)).1, false)
    | (s, .capacity) => (s, true)
    | (s, _) => agentReady k w qc n s (dla + 64)

/-- Writes a range line by line: bytes, with poison for the lines that `bad` names. The answer is how many bytes of the
range, from its start, were written: all of them unless storage was missing. -/
def agentWriteSpan (k w dla0 len qc seat : Nat) (bytes : List Byte) (bad : Nat → Bool) : Nat → State → Nat → State × Nat
  | 0, s, _ => (s, len)
  | n + 1, s, line =>
    let mask := spanMask dla0 len line
    let data := (List.range 64).map fun i => if line * 64 + i < dla0 then 0 else bytes.getD (line * 64 + i - dla0) 0
    match agentWrite s k w (line * 64) qc seat mask data (bad line) with
    | (s, false) => (s, line * 64 - dla0)
    | (s, true) => agentWriteSpan k w dla0 len qc seat bytes bad n s (line + 1)

/-- Agent `k` writes a range. -/
def agentPut (s : State) (k w dla qc seat : Nat) (bytes : List Byte) (bad : Nat → Bool) : State × Nat :=
  agentWriteSpan k w dla bytes.length qc seat bytes bad (spanLines dla bytes.length) s (dla / 64)

/-- A write of a range may go ahead: its lines are granted and its pages can take it. -/
def agentPrepare (s : State) (n w dla len qc : Nat) : State × Bool :=
  let (s, a) := agentLines s n w dla len true
  let (s, b) := agentReady n w qc (spanLines dla len) s (dla / 64 * 64)
  (s, a && b)

end Sys2Proof.Machine
end

