-- ==== Sys2Proof/Machine/Digest.lean ====
section
/-! DEFINITION. The check and hash functions that the manual names: CRC-32C and CRC-32 (R162, R217), and SHAKE256 (R217,
R324, R434). Their polynomials and permutation come from outside the manual (PRESUMED, log entry 19). -/

namespace Sys2Proof.Machine

/-- One bit of a reflected CRC. -/
def crcBit (poly c : Nat) : Nat := if c % 2 = 1 then (c / 2) ^^^ poly else c / 2

/-- One byte of a reflected CRC. -/
def crcByte (poly c : Nat) (b : Byte) : Nat :=
  (List.range 8).foldl (fun a _ => crcBit poly a) (c ^^^ b.toNat)

/-- The reflected CRC with initial value and final XOR of all ones, continued from a former result; 0 starts afresh. -/
def crcOf (poly start : Nat) (l : List Byte) : Nat :=
  (l.foldl (crcByte poly) (start ^^^ 0xFFFFFFFF)) ^^^ 0xFFFFFFFF

def polyC : Nat := 0x82F63B78
def poly32 : Nat := 0xEDB88320

/-- CRC-32C. -/
def crc32c (l : List Byte) : Nat := crcOf polyC 0 l

/-! ## SHAKE256 -/

abbrev Lane := BitVec 64

/-- Lane (x, y) of a permutation state of 25 lanes. -/
def laneAt (a : List Lane) (x y : Nat) : Lane := a.getD (x % 5 + 5 * (y % 5)) 0

/-- Rotation offsets, by x + 5 y. -/
def rhoOffsets : List Nat :=
  [0, 1, 62, 28, 27, 36, 44, 6, 55, 20, 3, 10, 43, 25, 39, 41, 45, 15, 21, 8, 18, 2, 61, 56, 14]

/-- The column mixing step. -/
def kTheta (a : List Lane) : List Lane :=
  let c := (List.range 5).map fun x => laneAt a x 0 ^^^ laneAt a x 1 ^^^ laneAt a x 2 ^^^ laneAt a x 3 ^^^ laneAt a x 4
  let d := (List.range 5).map fun x => c.getD ((x + 4) % 5) 0 ^^^ (c.getD ((x + 1) % 5) 0).rotateLeft 1
  (List.range 25).map fun i => a.getD i 0 ^^^ d.getD (i % 5) 0

/-- The rotation and transposition steps: lane (y, 2x + 3y) takes lane (x, y). -/
def kRhoPi (a : List Lane) : List Lane :=
  (List.range 25).map fun i =>
    let x := i % 5
    let y := i / 5
    -- the lane that lands at (x, y) stood at (x + 3y, x)
    let sx := (x + 3 * y) % 5
    let j := sx + 5 * x
    (a.getD j 0).rotateLeft (rhoOffsets.getD j 0)

/-- The row step. -/
def kChi (a : List Lane) : List Lane :=
  (List.range 25).map fun i =>
    let x := i % 5
    let y := i / 5
    laneAt a x y ^^^ (~~~laneAt a (x + 1) y &&& laneAt a (x + 2) y)

/-- Round constants, from the bits of an 8-bit shift register. -/
def lfsrNext (r : Nat) : Nat := if r ≥ 0x80 then ((r * 2) ^^^ 0x171) % 0x100 else r * 2

/-- The round constant that starts from register state `r`, and the state after it. -/
def roundConst (r : Nat) : Lane × Nat :=
  (List.range 7).foldl (fun (acc : Lane × Nat) j =>
    (if acc.2 % 2 = 1 then acc.1 ^^^ (1#64 <<< (2 ^ j - 1)) else acc.1, lfsrNext acc.2)) (0#64, r)

/-- The permutation: `n` rounds. -/
def keccakRounds : Nat → Nat → List Lane → List Lane
  | 0, _, a => a
  | n + 1, r, a =>
    let (rc, r') := roundConst r
    let b := kChi (kRhoPi (kTheta a))
    keccakRounds n r' (match b with
      | h :: t => (h ^^^ rc) :: t
      | [] => [])

def keccakF (a : List Lane) : List Lane := keccakRounds 24 1 a

/-- Eight bytes as a lane. -/
def laneOf (l : List Byte) : Lane := (l.take 8).foldr (fun b a => (a <<< 8) ||| b.zeroExtend 64) 0#64

/-- The 17 lanes of one rate block. -/
def blockLanes : Nat → List Byte → List Lane
  | 0, _ => []
  | n + 1, l => laneOf l :: blockLanes n (l.drop 8)

/-- Adds a block to the state. -/
def absorb (a : List Lane) (block : List Byte) : List Lane :=
  let b := blockLanes 17 block
  (List.range 25).map fun i => a.getD i 0 ^^^ b.getD i 0

/-- Absorbs `n` blocks of 136 bytes. -/
def absorbAll : Nat → List Lane → List Byte → List Lane
  | 0, a, _ => a
  | n + 1, a, l => absorbAll n (keccakF (absorb a (l.take 136))) (l.drop 136)

/-- Padding to whole rate blocks. -/
def shakePad (l : List Byte) : List Byte :=
  let k := 136 - l.length % 136
  if k = 1 then l ++ [0x9F] else l ++ [0x1F] ++ List.replicate (k - 2) 0 ++ [0x80]

/-- Bytes of a lane. -/
def laneBytes (a : Lane) : List Byte := (List.range 8).map fun i => (a >>> (8 * i)).truncate 8

/-- `n` blocks of output. -/
def squeeze : Nat → List Lane → List Byte
  | 0, _ => []
  | n + 1, a => (a.take 17).flatMap laneBytes ++ squeeze n (keccakF a)

/-- The first `n` bytes of the SHAKE256 output for the input. -/
def shake256 (l : List Byte) (n : Nat) : List Byte :=
  let p := shakePad l
  (squeeze ((n + 135) / 136) (absorbAll (p.length / 136) (List.replicate 25 0#64) p)).take n

/-- A 32-byte digest. -/
def digest (l : List Byte) : List Byte := shake256 l 32

end Sys2Proof.Machine
end

