-- ==== Sys2Proof/Machine/StreamCtx.lean ====
section
/-! DEFINITION. The stream context of R161–R163 as fields and as bytes, how a stream descriptor ends (R168), and the driver
of the decoders that take their input bit by bit (R165, R166). The places of the model's own working state in ENC, FRAME and
PRIV are log entry 105. -/

namespace Sys2Proof.Machine

open Sys2Proof

/-! ## Contexts (R162) -/

/-- A context, field by field. -/
structure Ctx where
  ver      : Nat := 0
  fmt      : Nat := 0
  dir      : Nat := 0
  level    : Nat := 0
  st       : Nat := 0
  err      : Nat := 0
  tin      : Nat := 0
  tout     : Nat := 0
  errOff   : Nat := 0
  histAddr : Nat := 0
  histPos  : Nat := 0
  histFill : Nat := 0
  histLog  : Nat := 0
  token    : Nat := 0
  bitcnt   : Nat := 0
  pendOff  : Nat := 0
  bitbuf   : Nat := 0
  pendLen  : Nat := 0
  pendOut  : List Byte := []
  carry    : List Byte := []
  rep      : List Byte := []
  xxh      : List Byte := []
  frame    : List Byte := []
  codes    : List Byte := []
  tables   : List Byte := []
  enc      : List Byte := []
  priv     : List Byte := []
  deriving DecidableEq, Repr

/-- A new stream's context, with the fields that software wrote (R161). -/
def ctxNew (c : List Byte) : Ctx := { histAddr := numAt c 0x28 8, histLog := numAt c 0x38 1 }

/-- The fields of a context: a new stream's are initialised (R161). -/
def ctxOf (c : List Byte) : Ctx :=
  if numAt c 0 2 = 0 then ctxNew c
  else
    { ctxNew c with
      ver := numAt c 0 2, fmt := numAt c 2 1, dir := numAt c 3 1, level := numAt c 4 1, st := numAt c 5 1, err := numAt c 8 2,
      tin := numAt c 0x10 8, tout := numAt c 0x18 8, errOff := numAt c 0x20 8, histPos := numAt c 0x30 4,
      histFill := numAt c 0x34 4, token := numAt c 0x39 1, bitcnt := numAt c 0x3A 1, pendOff := numAt c 0x3C 4,
      bitbuf := numAt c 0x40 8, pendLen := numAt c 0x48 4, pendOut := bytesAt c 0x400 (numAt c 0x4C 2),
      carry := bytesAt c 0x800 (numAt c 0x4E 2), rep := bytesAt c 0x50 16, xxh := bytesAt c 0x60 80,
      frame := bytesAt c 0xB0 80, codes := bytesAt c 0x100 256, tables := bytesAt c 0x200 256, enc := bytesAt c 0x300 256,
      priv := bytesAt c 0xA00 1536 }

/-- CHECK of a context: the CRC-32C with the field itself as zero. -/
def ctxCheck (c : List Byte) : Nat := crc32c (c.take 12 ++ List.replicate 4 0 ++ c.drop 16)

/-- The bytes of a context that this device writes, with its CHECK (R162, R163). -/
def ctxBytes (step : Nat) (x : Ctx) : List Byte :=
  let front := le 2 1 ++ le 1 x.fmt ++ le 1 x.dir ++ le 1 x.level ++ le 1 x.st ++ le 1 step ++ le 1 0 ++ le 2 x.err ++ le 2 0
  let body :=
    le 8 x.tin ++ le 8 x.tout ++ le 8 x.errOff ++ le 8 x.histAddr ++ le 4 x.histPos ++ le 4 x.histFill ++ le 1 x.histLog ++
    le 1 x.token ++ le 1 x.bitcnt ++ le 1 0 ++ le 4 x.pendOff ++ le 8 x.bitbuf ++ le 4 x.pendLen ++ le 2 x.pendOut.length ++
    le 2 x.carry.length ++ bytesAt x.rep 0 16 ++ bytesAt x.xxh 0 80 ++ bytesAt x.frame 0 80 ++ bytesAt x.codes 0 256 ++
    bytesAt x.tables 0 256 ++ bytesAt x.enc 0 256 ++ bytesAt x.pendOut 0 1024 ++ bytesAt x.carry 0 512 ++ bytesAt x.priv 0 1536
  front ++ le 4 (crc32c (front ++ le 4 0 ++ body)) ++ body

/-- How a stream descriptor ended (R168): status, STATE, ERR, and the working state of the context. -/
structure StreamRes where
  used   : Nat := 0
  out    : List Byte := []
  status : Nat := 0
  st     : Nat := 1
  err    : Nat := 0
  errOff : Nat := 0
  ctx    : Ctx := {}
  deriving DecidableEq, Repr

/-! ## Decoders that take their input bit by bit: PLZ and DEFLATE -/

/-- What one step of a decoder does, given its state, the input not yet passed and whether output space is left. -/
inductive DecStep (σ : Type) where
  /-- Goes on past `drop` input bytes, delivering a byte or none. -/
  | go (x : σ) (drop : Nat) (emit : Option Byte)
  /-- The next token is not complete. -/
  | more
  /-- It needs output space. -/
  | full
  /-- Malformed input: the reason of R169. -/
  | bad (why : Nat)
  /-- The stream ends, after `drop` more bytes. -/
  | done (drop : Nat)

/-- Why a decoder stopped. -/
inductive DecWhy where
  | more | full | bad (why : Nat) | done
  deriving DecidableEq, Repr

/-- Where a decoder stopped: `c` input bytes are passed, `data` is what is left, `out` is reversed. -/
structure DecEnd (σ : Type) where
  x    : σ
  data : List Byte
  c    : Nat
  out  : List Byte
  why  : DecWhy

/-- Runs a decoder. Where the output space is used up it stops there: what lies past it is not examined (R166). -/
def decDrive {σ : Type} (step : σ → List Byte → Bool → DecStep σ) :
    Nat → Nat → σ → List Byte → Nat → List Byte → DecEnd σ
  | 0, _, x, data, c, out => { x := x, data := data, c := c, out := out, why := .more }
  | f + 1, room, x, data, c, out =>
    match step x data (decide (0 < room)) with
    | .go x n (some b) => decDrive step f (room - 1) x (data.drop n) (c + n) (b :: out)
    | .go x n none => decDrive step f room x (data.drop n) (c + n) out
    | .more => { x := x, data := data, c := c, out := out, why := .more }
    | .full => { x := x, data := data, c := c, out := out, why := .full }
    | .bad why => { x := x, data := data, c := c, out := out, why := if room = 0 then .full else .bad why }
    | .done n => { x := x, data := data.drop n, c := c + n, out := out, why := .done }

/-- Enough steps for any input of `n` bytes: every token takes a bit, and every other step a byte of output. -/
def decFuel (n room : Nat) : Nat := 24 * n + room + 64

/-- Input that a context holds back (R162, R165): the last bits of a byte, and the bytes after it. -/
def ctxHeld (x : Ctx) : List Byte :=
  (if x.bitcnt = 0 then [] else [BitVec.ofNat 8 (x.bitbuf * 2 ^ (8 - x.bitcnt))]) ++ x.carry

/-- Holds input bytes back, `bit` bits of the first being done with. -/
def ctxHold (x : Ctx) (held : List Byte) (bit : Nat) : Ctx :=
  match held with
  | b :: t =>
    if bit = 0 then { x with bitcnt := 0, bitbuf := 0, carry := held }
    else { x with bitcnt := 8 - bit, bitbuf := b.toNat / 2 ^ bit, carry := t }
  | [] => { x with bitcnt := 0, bitbuf := 0, carry := [] }

/-- How a decoder's run ends (R165, R168): `held` bytes were counted before, `bit` says how many bits of the first byte left
are done with, `ended` whether the stream may end where it stands, and `pack` gives the context its working state. -/
def decFinish {σ : Type} (tin held len : Nat) (final : Bool) (bit : σ → Nat) (ended : σ → Bool) (pack : σ → Ctx)
    (e : DecEnd σ) : StreamRes :=
  let taken := max (e.c + b2n (bit e.x != 0)) held
  let kept := ctxHold (pack e.x) (e.data.take (taken - e.c)) (bit e.x)
  let out := e.out.reverse
  match e.why with
  | .full => { used := taken - held, out := out, status := stOutputFull, ctx := kept }
  | .bad why => { used := taken - held, out := out, status := stBadDesc, st := 3, err := why, errOff := tin - held + e.c, ctx := kept }
  | .done => { used := e.c - held, out := out, st := 2, ctx := pack e.x }
  | .more =>
    if !final then { used := len, out := out, ctx := ctxHold (pack e.x) e.data (bit e.x) }
    else if e.data = [] ∧ ended e.x then { used := len, out := out, st := 2, ctx := pack e.x }
    else { used := len, out := out, status := stBadDesc, st := 3, err := 10, errOff := tin + len,
           ctx := ctxHold (pack e.x) e.data (bit e.x) }

/-! ## PLZ framed streams (R157) -/

/-- A framed decoder within a record. -/
structure PlzDec where
  inRec : Bool := false
  enc   : Nat := 0
  dec   : Nat := 0
  /-- Bits of the record's encoding that are done with. -/
  pos   : Nat := 0
  /-- The last match offset; 0 for none. -/
  rep   : Nat := 0
  /-- The record's output so far, reversed. -/
  out   : List Byte := []
  /-- The token in hand: 0 none, 1 literals, 2 a copy, 3 zeros, 4 what follows END. -/
  tok   : Nat := 0
  off   : Nat := 0
  left  : Nat := 0
  deriving DecidableEq, Repr

/-- A byte of the token in hand is delivered. -/
def PlzDec.give (x : PlzDec) (b : Byte) : PlzDec := { x with out := b :: x.out, left := x.left - 1 }

/-- The record header (R157). -/
def plzHeader (data : List Byte) : DecStep PlzDec :=
  let enc := numAt data 0 2
  let dec := numAt data 2 2
  if 512 < enc ∨ dec = 0 ∨ 512 < dec ∨ dec < enc then .bad 8
  else
    let tok := if enc = 0 then 3 else if enc = dec then 1 else 0
    .go { inRec := true, enc := enc, dec := dec, tok := tok, left := if tok = 0 then 0 else dec } 4 none

/-- The next token of a record's encoding (R152). -/
def plzNext (x : PlzDec) (data : List Byte) : DecStep PlzDec :=
  let whole := x.enc - x.pos / 8
  match plzToken (data.take whole) (x.pos % 8) with
  | none => if whole ≤ data.length then .bad 3 else .more
  | some (t, p) =>
    match plzCheck x.dec x.out.length x.rep t with
    | .error why => .bad why
    | .ok o =>
      let y := { x with pos := x.pos / 8 * 8 + p }
      match t with
      | .fin => .go { y with pos := 8 * x.enc, tok := 4, left := whole - ceilDiv p 8 } (ceilDiv p 8) none
      | .lit n => if 8 * whole < p + 8 * n then .bad 3 else .go { y with tok := 1, left := n } (p / 8) none
      | .zero n => .go { y with tok := 3, left := n } (p / 8) none
      | .copy _ n => .go { y with tok := 2, off := o, rep := o, left := n } (p / 8) none

/-- One step of the framed decoder (R157, R166). -/
def plzStep (x : PlzDec) (data : List Byte) (room : Bool) : DecStep PlzDec :=
  if !x.inRec then
    (if data = [] then .more else if !room then .full else if data.length < 4 then .more else plzHeader data)
  else if x.tok = 0 then
    (if x.enc = 0 ∨ x.enc = x.dec then .go {} 0 none
     else if x.out.length < x.dec ∧ !room then .full
     else plzNext x data)
  else if x.left = 0 then (if x.tok = 4 then .go {} 0 none else .go { x with tok := 0 } 0 none)
  else if x.tok = 4 then (if data = [] then .more else .go { x with left := x.left - 1 } 1 none)
  else if !room then .full
  else if x.tok = 1 then
    match plzBits data (x.pos % 8) 8 with
    | none => .more
    | some v => .go { x.give (BitVec.ofNat 8 v) with pos := x.pos + 8 } 1 (some (BitVec.ofNat 8 v))
  else
    let b := if x.tok = 3 then 0 else x.out.getD (x.off - 1) 0
    .go (x.give b) 0 (some b)

/-- The working state of a framed decoder in its context. -/
def plzPack (x : PlzDec) : Ctx :=
  { token := x.tok, pendOff := x.off, pendLen := x.left,
    priv := le 1 (b2n x.inRec) ++ le 1 0 ++ le 2 x.enc ++ le 2 x.dec ++ le 2 x.pos ++ le 2 x.rep ++ le 2 x.out.length ++ x.out }

/-- The framed decoder that a context holds. -/
def plzUnpack (c : Ctx) : PlzDec :=
  { inRec := numAt c.priv 0 1 == 1, enc := numAt c.priv 2 2, dec := numAt c.priv 4 2, pos := numAt c.priv 6 2,
    rep := numAt c.priv 8 2, out := bytesAt c.priv 12 (numAt c.priv 10 2), tok := c.token, off := c.pendOff, left := c.pendLen }

/-- DECOMPRESS of a PLZ framed stream. -/
def plzDecompress (c : Ctx) (room : Nat) (input : List Byte) (final : Bool) : StreamRes :=
  let held := ctxHeld c
  let data := held ++ input
  let e := decDrive plzStep (decFuel data.length room) room (plzUnpack c) data 0 []
  decFinish c.tin held.length input.length final (fun x => if x.inRec then x.pos % 8 else 0) (fun x => !x.inRec) plzPack e

end Sys2Proof.Machine
end

