-- ==== Sys2Proof/Machine/Inflate.lean ====
section
/-! DEFINITION. The DEFLATE decoder (R158). RFC 1951, which R158 names, gives the tables and the block forms (PRESUMED, log
entry 105). -/

namespace Sys2Proof.Machine

open Sys2Proof

/-! ## Prefix codes -/

/-- What reading a code gives: a value and the next bit position, too few bits, or no code. -/
inductive Code where
  | sym (v p : Nat)
  | short
  | none
  deriving DecidableEq, Repr

/-- The symbols whose code has `n` bits, in order. -/
def codesOf (lens : List Nat) (n : Nat) : List Nat := (List.range lens.length).filter fun i => lens.getD i 0 == n

/-- Reads a canonical code, bit by bit: `code` are the bits so far, `first` the first code of this length. -/
def huffGo (lens : List Nat) (b : List Byte) : Nat → Nat → Nat → Nat → Nat → Code
  | 0, _, _, _, _ => .none
  | f + 1, n, p, code, first =>
    match plzBits b p 1 with
    | none => .short
    | some v =>
      let code := 2 * code + v
      let l := codesOf lens n
      if code < first + l.length then .sym (l.getD (code - first) 0) (p + 1)
      else huffGo lens b f (n + 1) (p + 1) code (2 * (first + l.length))

/-- The symbol whose code stands at a bit position. -/
def huffSym (lens : List Nat) (b : List Byte) (p : Nat) : Code := huffGo lens b 15 1 p 0 0

/-- Code space that a set of lengths uses, of 2^15. -/
def codeSpace (lens : List Nat) : Nat := (lens.map fun n => if n = 0 then 0 else 2 ^ (15 - n)).foldl (· + ·) 0

/-- A set of lengths that a block may name: complete, or a single code of one bit, or, for distances, none. -/
def codesOk (lens : List Nat) (mayMiss : Bool) : Bool :=
  codeSpace lens == 2 ^ 15 ||
  mayMiss && ((lens.filter (· != 0)) == [] || (lens.filter (· != 0)) == [1])

/-! ## Tables of RFC 1951 -/

def lenBase : List Nat :=
  [3, 4, 5, 6, 7, 8, 9, 10, 11, 13, 15, 17, 19, 23, 27, 31, 35, 43, 51, 59, 67, 83, 99, 115, 131, 163, 195, 227, 258]

def lenExtra : List Nat := [0, 0, 0, 0, 0, 0, 0, 0, 1, 1, 1, 1, 2, 2, 2, 2, 3, 3, 3, 3, 4, 4, 4, 4, 5, 5, 5, 5, 0]

def distBase : List Nat :=
  [1, 2, 3, 4, 5, 7, 9, 13, 17, 25, 33, 49, 65, 97, 129, 193, 257, 385, 513, 769, 1025, 1537, 2049, 3073, 4097, 6145, 8193,
   12289, 16385, 24577]

def distExtra : List Nat :=
  [0, 0, 0, 0, 1, 1, 2, 2, 3, 3, 4, 4, 5, 5, 6, 6, 7, 7, 8, 8, 9, 9, 10, 10, 11, 11, 12, 12, 13, 13]

def fixedLit : List Nat := List.replicate 144 8 ++ List.replicate 112 9 ++ List.replicate 24 7 ++ List.replicate 8 8
def fixedDist : List Nat := List.replicate 30 5

/-- The order in which a block header gives the lengths of the code-length code. -/
def clOrder : List Nat := [16, 17, 18, 0, 8, 7, 9, 6, 10, 5, 11, 4, 12, 3, 13, 2, 14, 1, 15]

/-! ## The decoder -/

/-- A DEFLATE decoder. -/
structure Infl where
  /-- 0 at a block header, 1 in a stored block, 2 in a coded block. -/
  kind  : Nat := 0
  /-- Bits of the first byte left that are done with. -/
  bit   : Nat := 0
  final : Bool := false
  lit   : List Nat := []
  dist  : List Nat := []
  /-- The token in hand: 0 none, 1 stored bytes, 2 a copy. -/
  tok   : Nat := 0
  off   : Nat := 0
  left  : Nat := 0
  /-- What was put out before, reversed. -/
  hist  : List Byte := []
  /-- Block headers passed. -/
  heads : Nat := 0
  deriving DecidableEq, Repr

/-- A byte is delivered. -/
def Infl.give (x : Infl) (b : Byte) : Infl := { x with hist := b :: x.hist, left := x.left - 1 }

/-- Goes on at bit position `p`, counted from the first byte left. -/
def inflAt (x : Infl) (p : Nat) : DecStep Infl := .go { x with bit := p % 8 } (p / 8) none

/-- Lengths that a dynamic block's header spells with its code-length code (none: it is malformed; `short`: incomplete). -/
def dynLens (cl : List Nat) (b : List Byte) (need : Nat) : Nat → Nat → List Nat → Except Bool (List Nat × Nat)
  | 0, _, _ => .error false
  | f + 1, p, l =>
    if l.length = need then .ok (l, p)
    else
      match huffSym cl b p with
      | .short => .error true
      | .none => .error false
      | .sym v p =>
        if v < 16 then dynLens cl b need f p (l ++ [v])
        else
          let bits := if v = 16 then 2 else if v = 17 then 3 else 7
          match plzBits b p bits with
          | none => .error true
          | some n =>
            let n := n + (if v = 18 then 11 else 3)
            if v = 16 ∧ l = [] then .error false
            else if need < l.length + n then .error false
            else dynLens cl b need f (p + bits) (l ++ List.replicate n (if v = 16 then l.getLastD 0 else 0))

/-- The header of a dynamic block, at `p`: the two sets of lengths and the next position. -/
def dynHead (b : List Byte) (p : Nat) : Except Bool (List Nat × List Nat × Nat) :=
  match plzBits b p 5, plzBits b (p + 5) 5, plzBits b (p + 10) 4 with
  | some hl, some hd, some hc =>
    if 29 < hl ∨ 29 < hd then .error false
    else
      let n := hc + 4
      if 8 * b.length < p + 14 + 3 * n then .error true
      else
        let cl := (List.range 19).map fun s =>
          match (clOrder.take n).findIdx? (· == s) with
          | some i => (plzBits b (p + 14 + 3 * i) 3).getD 0
          | none => 0
        if !codesOk cl false then .error false
        else
          match dynLens cl b (hl + 257 + hd + 1) (hl + 257 + hd + 2) (p + 14 + 3 * n) [] with
          | .error e => .error e
          | .ok (l, p) =>
            let lit := l.take (hl + 257)
            let dist := l.drop (hl + 257)
            if lit.getD 256 0 = 0 ∨ !codesOk lit true ∨ !codesOk dist true then .error false else .ok (lit, dist, p)
  | _, _, _ => .error true

/-- A block header. -/
def inflHead (x : Infl) (data : List Byte) : DecStep Infl :=
  match plzBits data x.bit 3 with
  | none => .more
  | some h =>
    let x := { x with final := h % 2 == 1, heads := x.heads + 1 }
    let p := x.bit + 3
    match h / 2 with
    | 0 =>
      let k := ceilDiv p 8
      if data.length < k + 4 then .more
      else if numAt data k 2 + numAt data (k + 2) 2 ≠ 0xFFFF then .bad 7
      else .go { x with kind := 1, bit := 0, tok := 1, left := numAt data k 2 } (k + 4) none
    | 1 => inflAt { x with kind := 2, lit := fixedLit, dist := fixedDist } p
    | 2 =>
      match dynHead data p with
      | .error true => .more
      | .error false => .bad 1
      | .ok (lit, dist, p) => inflAt { x with kind := 2, lit := lit, dist := dist } p
    | _ => .bad 8

/-- The end of a block; the stream ends with the block that has BFINAL set (R158). -/
def inflEnd (x : Infl) (p : Nat) : DecStep Infl :=
  if x.final then .done (ceilDiv p 8) else inflAt { x with kind := 0 } p

/-- The distance of a match, after its length. -/
def inflDist (x : Infl) (data : List Byte) (p len : Nat) : DecStep Infl :=
  match huffSym x.dist data p with
  | .short => .more
  | .none => .bad 1
  | .sym v p =>
    if 29 < v then .bad 1
    else
      match plzBits data p (distExtra.getD v 0) with
      | none => .more
      | some e =>
        let d := distBase.getD v 0 + e
        if min 32768 x.hist.length < d then .bad 2
        else inflAt { x with tok := 2, off := d, left := len } (p + distExtra.getD v 0)

/-- A code of a coded block. -/
def inflCode (x : Infl) (data : List Byte) (room : Bool) : DecStep Infl :=
  match huffSym x.lit data x.bit with
  | .short => .more
  | .none => .bad 1
  | .sym v p =>
    if v = 256 then inflEnd x p
    else if !room then .full
    else if v < 256 then .go { x.give (BitVec.ofNat 8 v) with bit := p % 8 } (p / 8) (some (BitVec.ofNat 8 v))
    else if 285 < v then .bad 1
    else
      match plzBits data p (lenExtra.getD (v - 257) 0) with
      | none => .more
      | some e => inflDist x data (p + lenExtra.getD (v - 257) 0) (lenBase.getD (v - 257) 0 + e)

/-- One step of the decoder (R158, R166). -/
def inflStep (x : Infl) (data : List Byte) (room : Bool) : DecStep Infl :=
  if x.tok = 2 then
    (if x.left = 0 then .go { x with tok := 0 } 0 none
     else if !room then .full
     else
      let b := x.hist.getD (x.off - 1) 0
      .go (x.give b) 0 (some b))
  else if x.tok = 1 then
    (if x.left = 0 then inflEnd { x with tok := 0 } 0
     else match data with
      | [] => .more
      | b :: _ => if room then .go (x.give b) 1 (some b) else .full)
  else if x.kind = 2 then inflCode x data room
  else inflHead x data

/-- Two numbers below 16 a byte. -/
def nibbles : List Nat → List Byte
  | [] => []
  | [a] => [BitVec.ofNat 8 a]
  | a :: b :: t => BitVec.ofNat 8 (a + 16 * b) :: nibbles t

/-- The numbers below 16 that bytes hold. -/
def ofNibbles (l : List Byte) : List Nat := l.flatMap fun b => [b.toNat % 16, b.toNat / 16]

/-- `n` numbers, zeros where a list ends. -/
def padNat (n : Nat) (l : List Nat) : List Nat := (l ++ List.replicate (n - l.length) 0).take n

/-- The working state of a DEFLATE decoder in its context (R162). -/
def inflPack (x : Infl) : Ctx :=
  { token := x.tok, pendOff := x.off, pendLen := x.left,
    frame := List.replicate 16 0 ++ le 1 x.kind ++ le 1 (b2n x.final) ++ le 1 x.bit,
    codes := nibbles (padNat 288 x.lit ++ padNat 32 x.dist) }

/-- The DEFLATE decoder that a context holds; `hist` is what was put out before, reversed. -/
def inflUnpack (c : Ctx) (hist : List Byte) : Infl :=
  let l := ofNibbles c.codes
  { kind := numAt c.frame 16 1, bit := numAt c.frame 18 1, final := numAt c.frame 17 1 == 1, lit := l.take 288,
    dist := (l.drop 288).take 32, tok := c.token, off := c.pendOff, left := c.pendLen, hist := hist }

/-- DECOMPRESS of a DEFLATE stream. -/
def deflDecompress (c : Ctx) (hist : List Byte) (room : Nat) (input : List Byte) (final : Bool) : StreamRes :=
  let held := ctxHeld c
  let data := held ++ input
  let e := decDrive inflStep (decFuel data.length room) room (inflUnpack c hist) data 0 []
  decFinish c.tin held.length input.length final (·.bit) (fun _ => false) inflPack e

end Sys2Proof.Machine
end

