-- ==== Sys2Proof/Machine/Xxh.lean ====
section
/-! DEFINITION. XXH64 as a running state: the content checksum of zstd frames (R159, R162). Its constants come from outside
the manual, as RFC 8878 names them (PRESUMED, log entry 105). -/

namespace Sys2Proof.Machine

open Sys2Proof

def xxP1 : BitVec 64 := 0x9E3779B185EBCA87
def xxP2 : BitVec 64 := 0xC2B2AE3D27D4EB4F
def xxP3 : BitVec 64 := 0x165667B19E3779F9
def xxP4 : BitVec 64 := 0x85EBCA77C2B2AE63
def xxP5 : BitVec 64 := 0x27D4EB2F165667C5

/-- The state of R162: four accumulators, the length, and the bytes that do not fill 32 yet. -/
structure Xxh where
  v1  : BitVec 64 := xxP1 + xxP2
  v2  : BitVec 64 := xxP2
  v3  : BitVec 64 := 0
  v4  : BitVec 64 := 0 - xxP1
  len : Nat := 0
  buf : List Byte := []
  deriving DecidableEq, Repr

/-- One round on an accumulator. -/
def xxRound (acc lane : BitVec 64) : BitVec 64 := (acc + lane * xxP2).rotateLeft 31 * xxP1

/-- The 64-bit number at an offset. -/
def lane64 (b : List Byte) (off : Nat) : BitVec 64 := BitVec.ofNat 64 (numAt b off 8)

/-- A byte is added. -/
def Xxh.push (x : Xxh) (b : Byte) : Xxh :=
  let buf := x.buf ++ [b]
  if buf.length < 32 then { x with len := x.len + 1, buf := buf }
  else
    { v1 := xxRound x.v1 (lane64 buf 0), v2 := xxRound x.v2 (lane64 buf 8), v3 := xxRound x.v3 (lane64 buf 16),
      v4 := xxRound x.v4 (lane64 buf 24), len := x.len + 1, buf := [] }

/-- Mixes an accumulator into the sum. -/
def xxMerge (h v : BitVec 64) : BitVec 64 := (h ^^^ xxRound 0 v) * xxP1 + xxP4

/-- The bytes after the last whole stripe. -/
def xxTail : Nat → BitVec 64 → List Byte → BitVec 64
  | 0, h, _ => h
  | n + 1, h, b =>
    if 8 ≤ b.length then xxTail n ((h ^^^ xxRound 0 (lane64 b 0)).rotateLeft 27 * xxP1 + xxP4) (b.drop 8)
    else if 4 ≤ b.length then
      xxTail n ((h ^^^ (BitVec.ofNat 64 (numAt b 0 4) * xxP1)).rotateLeft 23 * xxP2 + xxP3) (b.drop 4)
    else match b with
      | [] => h
      | c :: t => xxTail n ((h ^^^ (c.zeroExtend 64 * xxP5)).rotateLeft 11 * xxP1) t

/-- The hash of the bytes added. -/
def Xxh.hash (x : Xxh) : BitVec 64 :=
  let h0 :=
    if x.len < 32 then xxP5
    else
      xxMerge (xxMerge (xxMerge (xxMerge
        (x.v1.rotateLeft 1 + x.v2.rotateLeft 7 + x.v3.rotateLeft 12 + x.v4.rotateLeft 18) x.v1) x.v2) x.v3) x.v4
  let h := xxTail 32 (h0 + BitVec.ofNat 64 x.len) x.buf
  let h := (h ^^^ (h >>> 33)) * xxP2
  let h := (h ^^^ (h >>> 29)) * xxP3
  h ^^^ (h >>> 32)

/-- The content checksum: the low four bytes. -/
def Xxh.check (x : Xxh) : Nat := x.hash.toNat % 2 ^ 32

/-- The state in a context (R162). -/
def Xxh.bytes (x : Xxh) : List Byte :=
  le 8 x.v1.toNat ++ le 8 x.v2.toNat ++ le 8 x.v3.toNat ++ le 8 x.v4.toNat ++ le 8 x.len ++ bytesAt x.buf 0 32 ++
  le 4 x.buf.length ++ le 4 0

/-- The state that a context holds. -/
def xxhOf (b : List Byte) : Xxh :=
  { v1 := lane64 b 0, v2 := lane64 b 8, v3 := lane64 b 16, v4 := lane64 b 24, len := numAt b 32 8,
    buf := bytesAt b 40 (numAt b 72 4) }

end Sys2Proof.Machine
end

