-- ==== Sys2Proof/Machine/Zstd.lean ====
section
/-! DEFINITION. The zstd decoder (R159, R164, R165). RFC 8878, which R159 names, gives the tables and the block forms
(PRESUMED, log entry 105); where a malformed block is reported is log entry 106. -/

namespace Sys2Proof.Machine

open Sys2Proof

/-! ## Bits read from the end of a bit stream -/

/-- The bits of a byte, most significant first. -/
def byteBits (b : Byte) : List Bool := (List.range 8).map fun i => b.getLsbD (7 - i)

/-- The bits of a stream that is read backwards: from below the highest set bit of its last byte. -/
def backBits (b : List Byte) : Option (List Bool) :=
  match b.reverse with
  | [] => none
  | l :: t => if l = 0 then none else some (((byteBits l).dropWhile (!·)).drop 1 ++ t.flatMap byteBits)

/-- The number that bits spell, most significant first; missing bits count as zeros. -/
def msb (bits : List Bool) (n : Nat) : Nat := (List.range n).foldl (fun a i => 2 * a + b2n (bits.getD i false)) 0

/-- Reads `n` bits; none where they are missing. -/
def takeBits (bits : List Bool) (n : Nat) : Option (Nat × List Bool) :=
  if n ≤ bits.length then some (msb bits n, bits.drop n) else none

/-! ## FSE tables -/

/-- The cells over which a table of size `n` spreads its symbols, in order. -/
def spreadCells (n high : Nat) : List Nat :=
  let step := n / 2 + n / 8 + 3
  ((List.range n).map fun k => k * step % n).filter fun p => decide (p < high)

/-- The symbol of every cell: counts are normalised, −1 for a symbol of less than one. -/
def fseCells (counts : List Int) (n : Nat) : List Nat :=
  let less := (List.range counts.length).filter fun s => counts.getD s 0 == -1
  let high := n - less.length
  let syms := (List.range counts.length).flatMap fun s => List.replicate (counts.getD s 0).toNat s
  let at_ := (spreadCells n high).zip syms ++ (List.range less.length).map fun i => (n - 1 - i, less.getD i 0)
  (List.range n).map fun p => ((at_.find? fun e => e.1 == p).map (·.2)).getD 0

/-- A table: its accuracy, and for each state the symbol, the bits to read and the base of the next state. -/
structure Fse where
  log : Nat
  row : List (Nat × Nat × Nat)
  deriving DecidableEq, Repr

/-- Sum of a set of normalised counts. -/
def fseSum (counts : List Int) : Nat := (counts.map Int.natAbs).foldl (· + ·) 0

/-- The table of a set of normalised counts. -/
def fseTable (counts : List Int) : Fse :=
  let n := fseSum counts
  let log := Nat.log2 n
  let cells := fseCells counts n
  { log := log, row := (List.range n).map fun p =>
      let s := cells.getD p 0
      let x := (counts.getD s 0).natAbs + ((cells.take p).filter (· == s)).length
      let nb := log - Nat.log2 x
      (s, nb, x * 2 ^ nb - n) }

/-- Reads a table's description (forward bits), of at most `maxSym` + 1 symbols: the counts and the next bit position. -/
def fseHeadGo (b : List Byte) (maxSym : Nat) : Nat → Nat → Nat → List Int → Option (List Int × Nat)
  | 0, _, _, _ => none
  | f + 1, p, rem, l =>
    if rem = 0 then some (l, p)
    else if maxSym < l.length then none
    else
      let bits := Nat.log2 (rem + 1) + 1
      let low := 2 ^ (bits - 1)
      let thr := 2 ^ bits - 1 - (rem + 1)
      match plzBits b p (bits - 1) with
      | none => none
      | some v =>
        let r := if v < thr then some (v, p + bits - 1)
          else (plzBits b p bits).map fun w => (if low ≤ w then w - thr else w, p + bits)
        match r with
        | none => none
        | some (v, p) =>
          let c : Int := (v : Int) - 1
          if rem < c.natAbs then none
          else if c = 0 then
            -- repeats of zero, two bits at a time
            let z := (List.range (maxSym + 2)).foldl (fun (q : Option (Nat × Nat × Bool)) _ =>
              match q with
              | some (n, p, true) => (plzBits b p 2).map fun w => (n + w, p + 2, w == 3)
              | q => q) (some (0, p, true))
            match z with
            | some (n, p, _) => fseHeadGo b maxSym f p rem (l ++ [c] ++ List.replicate n 0)
            | none => none
          else fseHeadGo b maxSym f p (rem - c.natAbs) (l ++ [c])

/-- A table's description: the counts, and the bytes it takes. -/
def fseHead (b : List Byte) (maxLog maxSym : Nat) : Option (List Int × Nat) :=
  match plzBits b 0 4 with
  | none => none
  | some a =>
    if maxLog < a + 5 then none
    else match fseHeadGo b maxSym (maxSym + 3) 4 (2 ^ (a + 5)) [] with
      | none => none
      | some (l, p) => if maxSym + 1 < l.length then none else some (l, ceilDiv p 8)

/-! ## Literals -/

/-- Weights of the Huffman code, the last one implied; none where they spell no code. -/
def closeWeights (w : List Nat) : Option (List Nat) :=
  let sum := (w.map fun x => if x = 0 then 0 else 2 ^ (x - 1)).foldl (· + ·) 0
  if sum = 0 then none
  else
    let bits := Nat.log2 sum + 1
    let left := 2 ^ bits - sum
    if 11 < bits ∨ 255 < w.length ∨ 2 ^ Nat.log2 left ≠ left then none else some (w ++ [Nat.log2 left + 1])

/-- Weights under an FSE table, two states in turn, until the bits run out. -/
def fseWeights (t : Fse) : Nat → List Bool → Nat → Nat → List Nat → Option (List Nat)
  | 0, _, _, _, _ => none
  | f + 1, bits, a, b, l =>
    let x := t.row.getD a (0, 0, 0)
    let l := l ++ [x.1]
    if bits.length < x.2.1 then some (l ++ [(t.row.getD b (0, 0, 0)).1])
    else fseWeights t f (bits.drop x.2.1) b (x.2.2 + msb bits x.2.1) l

/-- The description of a Huffman code: the weights, and the bytes it takes. -/
def huffHead (b : List Byte) : Except Nat (List Nat × Nat) :=
  match b with
  | [] => .error 3
  | h :: t =>
    let n := h.toNat
    if 128 ≤ n then
      let k := n - 127
      if t.length < ceilDiv k 2 then .error 3
      else
        let w := (List.range k).map fun i =>
          if i % 2 = 0 then (t.getD (i / 2) 0).toNat / 16 else (t.getD (i / 2) 0).toNat % 16
        match closeWeights w with
        | none => .error 1
        | some w => .ok (w, 1 + ceilDiv k 2)
    else if t.length < n then .error 3
    else
      let c := t.take n
      match fseHead c 6 255 with
      | none => .error 1
      | some (counts, k) =>
        let tab := fseTable counts
        match backBits (c.drop k) with
        | none => .error 1
        | some bits =>
          match takeBits bits tab.log with
          | none => .error 1
          | some (a, bits) =>
            match takeBits bits tab.log with
            | none => .error 1
            | some (b, bits) =>
              match (fseWeights tab 256 bits a b []).bind closeWeights with
              | none => .error 1
              | some w => .ok (w, 1 + n)

/-- Where each symbol's codes begin, of `2 ^ max` values: codes go to the symbols of lower weight first. -/
def huffStart (w : List Nat) (s : Nat) : Nat :=
  let x := w.getD s 0
  ((List.range w.length).map fun i =>
    let y := w.getD i 0
    if y ≠ 0 ∧ (y < x ∨ (y = x ∧ i < s)) then 2 ^ (y - 1) else 0).foldl (· + ·) 0

/-- Decodes bits to literals until none is left. -/
def huffStream (rows : List (Nat × Nat × Nat)) (max : Nat) : Nat → List Bool → List Byte → Option (List Byte)
  | 0, _, _ => none
  | f + 1, bits, l =>
    if bits = [] then some l.reverse
    else
      let v := msb bits max
      match rows.find? fun e => decide (e.2.1 ≤ v) && decide (v < e.2.1 + 2 ^ (e.2.2 - 1)) with
      | none => none
      | some (s, _, w) =>
        let n := max + 1 - w
        if bits.length < n then none else huffStream rows max f (bits.drop n) (BitVec.ofNat 8 s :: l)

/-- The literals of one stream, `n` of them. -/
def huffLits (w : List Nat) (b : List Byte) (n : Nat) : Option (List Byte) :=
  let max := Nat.log2 ((w.map fun x => if x = 0 then 0 else 2 ^ (x - 1)).foldl (· + ·) 0)
  let rows := ((List.range w.length).filter fun s => w.getD s 0 != 0).map fun s => (s, huffStart w s, w.getD s 0)
  match backBits b with
  | none => none
  | some bits =>
    match huffStream rows max (bits.length + 1) bits [] with
    | none => none
    | some l => if l.length = n then some l else none

/-- The literals of four streams, `n` in all. -/
def huffFour (w : List Nat) (b : List Byte) (n : Nat) : Option (List Byte) :=
  if b.length < 6 then none
  else
    let a := numAt b 0 2
    let c := numAt b 2 2
    let d := numAt b 4 2
    let q := ceilDiv n 4
    let t := b.drop 6
    if t.length < a + c + d ∨ n < 3 * q then none
    else match huffLits w (t.take a) q, huffLits w ((t.drop a).take c) q, huffLits w ((t.drop (a + c)).take d) q,
        huffLits w (t.drop (a + c + d)) (n - 3 * q) with
      | some x, some y, some z, some u => some (x ++ y ++ z ++ u)
      | _, _, _, _ => none

/-- The literals section of a compressed block: the literals, the weights in force, and what follows. -/
def zLits (w : List Nat) (limit : Nat) (b : List Byte) : Except Nat (List Byte × List Nat × List Byte) :=
  match b with
  | [] => .error 3
  | h :: _ =>
    let kind := h.toNat % 4
    let sf := h.toNat / 4 % 4
    if kind < 2 then
      let (hd, n) := if sf % 2 = 0 then (1, h.toNat / 8) else if sf = 1 then (2, numAt b 0 2 / 16) else (3, numAt b 0 3 / 16)
      let body := if kind = 0 then n else 1
      if limit < n ∨ b.length < hd + body then .error 3
      else if kind = 0 then .ok ((b.drop hd).take n, w, b.drop (hd + n))
      else .ok (List.replicate n (b.getD hd 0), w, b.drop (hd + 1))
    else
      let (hd, k) := if sf < 2 then (3, 10) else if sf = 2 then (4, 14) else (5, 18)
      let v := numAt b 0 hd / 16
      let n := v % 2 ^ k
      let c := v / 2 ^ k % 2 ^ k
      if limit < n ∨ b.length < hd + c then .error 3
      else
        let body := (b.drop hd).take c
        let tree := if kind = 2 then huffHead body else if w = [] then .error 1 else .ok (w, 0)
        match tree with
        | .error e => .error e
        | .ok (w, t) =>
          match (if sf = 0 then huffLits w (body.drop t) n else huffFour w (body.drop t) n) with
          | none => .error 1
          | some l => .ok (l, w, b.drop (hd + c))

/-! ## Sequences -/

def llCounts : List Int :=
  [4, 3, 2, 2, 2, 2, 2, 2, 2, 2, 2, 2, 2, 1, 1, 1, 2, 2, 2, 2, 2, 2, 2, 2, 2, 3, 2, 1, 1, 1, 1, 1, -1, -1, -1, -1]

def mlCounts : List Int :=
  [1, 4, 3, 2, 2, 2, 2, 2, 2, 1, 1, 1, 1, 1, 1, 1, 1, 1, 1, 1, 1, 1, 1, 1, 1, 1, 1, 1, 1, 1, 1, 1, 1, 1, 1, 1, 1, 1, 1, 1, 1,
   1, 1, 1, 1, 1, -1, -1, -1, -1, -1, -1, -1]

def ofCounts : List Int :=
  [1, 1, 1, 1, 1, 1, 2, 2, 2, 1, 1, 1, 1, 1, 1, 1, 1, 1, 1, 1, 1, 1, 1, 1, -1, -1, -1, -1, -1]

/-- Base and extra bits of a literal-length code. -/
def llCode (c : Nat) : Nat × Nat :=
  if c < 16 then (c, 0)
  else ([(16, 1), (18, 1), (20, 1), (22, 1), (24, 2), (28, 2), (32, 3), (40, 3), (48, 4), (64, 6), (128, 7), (256, 8), (512, 9),
    (1024, 10), (2048, 11), (4096, 12), (8192, 13), (16384, 14), (32768, 15), (65536, 16)] : List (Nat × Nat)).getD (c - 16) (0, 0)

/-- Base and extra bits of a match-length code. -/
def mlCode (c : Nat) : Nat × Nat :=
  if c < 32 then (c + 3, 0)
  else ([(35, 1), (37, 1), (39, 1), (41, 1), (43, 2), (47, 2), (51, 3), (59, 3), (67, 4), (83, 4), (99, 5), (131, 7), (259, 8),
    (515, 9), (1027, 10), (2051, 11), (4099, 12), (8195, 13), (16387, 14), (32771, 15), (65539, 16)] : List (Nat × Nat)).getD (c - 32) (0, 0)

/-- What a frame carries from block to block: repeat offsets, literal weights, and the counts of the last tables. -/
structure Ztab where
  reps : List Nat := [1, 4, 8]
  w    : List Nat := []
  ll   : List Int := []
  of_  : List Int := []
  ml   : List Int := []
  deriving DecidableEq, Repr

/-- The counts of a table under its mode, and the bytes that describe them. -/
def seqTable (mode : Nat) (pre old : List Int) (maxLog maxSym : Nat) (b : List Byte) : Except Nat (List Int × Nat) :=
  match mode with
  | 0 => .ok (pre, 0)
  | 1 =>
    match b with
    | [] => .error 3
    | c :: _ => if maxSym < c.toNat then .error 1 else .ok (List.replicate c.toNat 0 ++ [1], 1)
  | 2 =>
    match fseHead b maxLog maxSym with
    | none => .error 1
    | some r => .ok r
  | _ => if old = [] then .error 1 else .ok (old, 0)

/-- Decodes `n` sequences: literal length, match length, offset value. -/
def seqGo (ll of_ ml : Fse) : Nat → List Bool → Nat → Nat → Nat → List (Nat × Nat × Nat) → Option (List (Nat × Nat × Nat))
  | 0, bits, _, _, _, l => if bits = [] then some l.reverse else none
  | n + 1, bits, a, o, m, l =>
    let x := ll.row.getD a (0, 0, 0)
    let y := of_.row.getD o (0, 0, 0)
    let z := ml.row.getD m (0, 0, 0)
    match takeBits bits y.1 with
    | none => none
    | some (ov, bits) =>
      match takeBits bits (mlCode z.1).2 with
      | none => none
      | some (mv, bits) =>
        match takeBits bits (llCode x.1).2 with
        | none => none
        | some (lv, bits) =>
          let q := ((llCode x.1).1 + lv, (mlCode z.1).1 + mv, 2 ^ y.1 + ov)
          if n = 0 then seqGo ll of_ ml n bits a o m (q :: l)
          else
            match takeBits bits x.2.1 with
            | none => none
            | some (a', bits) =>
              match takeBits bits z.2.1 with
              | none => none
              | some (m', bits) =>
                match takeBits bits y.2.1 with
                | none => none
                | some (o', bits) => seqGo ll of_ ml n bits (x.2.2 + a') (y.2.2 + o') (z.2.2 + m') (q :: l)

/-- The sequences section: the sequences, and the tables in force. -/
def zSeqs (t : Ztab) (b : List Byte) : Except Nat (List (Nat × Nat × Nat) × Ztab) :=
  let b0 := numAt b 0 1
  let (hd, n) := if b0 < 128 then (1, b0) else if b0 < 255 then (2, (b0 - 128) * 256 + numAt b 1 1) else (3, numAt b 1 2 + 0x7F00)
  if b.length < hd then .error 3
  else if n = 0 then (if b.length = hd then .ok ([], t) else .error 1)
  else if b.length < hd + 1 then .error 3
  else
    let modes := numAt b hd 1
    let b := b.drop (hd + 1)
    if modes % 4 ≠ 0 then .error 1
    else
      match seqTable (modes / 64) llCounts t.ll 9 35 b with
      | .error e => .error e
      | .ok (ll, k) =>
        let b := b.drop k
        match seqTable (modes / 16 % 4) ofCounts t.of_ 8 31 b with
        | .error e => .error e
        | .ok (of_, k) =>
          let b := b.drop k
          match seqTable (modes / 4 % 4) mlCounts t.ml 9 52 b with
          | .error e => .error e
          | .ok (ml, k) =>
            match backBits (b.drop k) with
            | none => .error 1
            | some bits =>
              let x := fseTable ll
              let y := fseTable of_
              let z := fseTable ml
              match takeBits bits x.log with
              | none => .error 1
              | some (a, bits) =>
                match takeBits bits y.log with
                | none => .error 1
                | some (o, bits) =>
                  match takeBits bits z.log with
                  | none => .error 1
                  | some (m, bits) =>
                    match seqGo x y z n bits a o m [] with
                    | none => .error 1
                    | some l => .ok (l, { t with ll := ll, of_ := of_, ml := ml })

/-- The offset of a sequence, and the repeat offsets after it. -/
def seqOffset (reps : List Nat) (lits ov : Nat) : Nat × List Nat :=
  let r := fun (i : Nat) => reps.getD i 0
  if 3 < ov then (ov - 3, [ov - 3, r 0, r 1])
  else
    match ov - 1 + b2n (lits == 0) with
    | 0 => (r 0, reps)
    | 1 => (r 1, [r 1, r 0, r 2])
    | 2 => (r 2, [r 2, r 0, r 1])
    | _ => (r 0 - 1, [r 0 - 1, r 0, r 1])

/-! ## Blocks -/

/-- A block's output, reversed; `known` is what of it was delivered before, which the history now holds in its own place
(R165). -/
structure ZBlk where
  out   : List Byte := []
  known : List Byte := []
  hist  : List Byte := []
  /-- How far a match may reach before the block, and the bytes a block may have. -/
  reach : Nat := 0
  win   : Nat := 0
  limit : Nat := 0
  deriving DecidableEq, Repr

/-- Appends literal bytes. -/
def ZBlk.lits (x : ZBlk) (l : List Byte) : ZBlk := { x with out := l.reverse ++ x.out }

/-- Copies `n` bytes at an offset. -/
def ZBlk.copy : Nat → Nat → ZBlk → ZBlk
  | 0, _, x => x
  | n + 1, off, x =>
    let i := x.out.length
    let b :=
      if i < x.known.length then x.known.getD i 0
      else if off ≤ i then x.out.getD (off - 1) 0 else x.hist.getD (off - 1 - i) 0
    ZBlk.copy n off { x with out := b :: x.out }

/-- Executes sequences: what was put out, and the reason of R169 that stopped it. -/
def zExec (x : ZBlk) (reps : List Nat) : List (Nat × Nat × Nat) → List Byte → ZBlk × List Nat × Option Nat
  | [], lits => if x.limit < x.out.length + lits.length then (x, reps, some 3) else (x.lits lits, reps, none)
  | (ll, ml, ov) :: t, lits =>
    if lits.length < ll ∨ x.limit < x.out.length + ll then (x, reps, some 3)
    else
      let x := x.lits (lits.take ll)
      let (off, reps) := seqOffset reps ll ov
      if off = 0 ∨ min x.win (x.reach + x.out.length) < off then (x, reps, some 2)
      else if x.limit < x.out.length + ml then (x, reps, some 3)
      else zExec (x.copy ml off) reps t (lits.drop ll)

/-- A block of a frame: its output, the tables after it, and the reason it is malformed, if it is. -/
def zBlock (t : Ztab) (x : ZBlk) (kind size : Nat) (body : List Byte) : ZBlk × Ztab × Option Nat :=
  match kind with
  | 0 => if x.limit < size then (x, t, some 1) else (x.lits (body.take size), t, none)
  | 1 => if x.limit < size then (x, t, some 1) else (x.lits (List.replicate size (body.getD 0 0)), t, none)
  | 2 =>
    if x.limit < size then (x, t, some 1)
    else
      match zLits t.w x.limit (body.take size) with
      | .error e => (x, t, some e)
      | .ok (lits, w, rest) =>
        match zSeqs t rest with
        | .error e => (x, t, some e)
        | .ok (seqs, t) =>
          let (x, reps, e) := zExec x t.reps seqs lits
          (x, { t with w := w, reps := reps }, e)
  | _ => (x, t, some 8)

/-! ## Frames -/

/-- A zstd decoder. -/
structure Zst where
  /-- 0 before a frame, 1 before a block, 2 before a checksum, 3 in a skippable frame. -/
  phase   : Nat := 0
  win     : Nat := 0
  content : Option Nat := none
  check   : Bool := false
  /-- Bytes that the frame has put out in whole blocks, and of the block in progress. -/
  done    : Nat := 0
  given   : Nat := 0
  skip    : Nat := 0
  tab     : Ztab := {}
  xxh     : Xxh := {}
  /-- What was put out before the block in progress, reversed. -/
  hist    : List Byte := []
  /-- The delivered bytes of the block in progress. -/
  known   : List Byte := []
  deriving DecidableEq, Repr

/-- A frame header: the decoder within the frame and the header's bytes; none where it is not complete. -/
def zHeader (maxWin : Nat) (x : Zst) (d : List Byte) : Option (Except Nat (Zst × Nat)) :=
  if d.length < 4 then none
  else
    let magic := numAt d 0 4
    if magic / 16 = 0x184D2A5 then
      (if d.length < 8 then none else some (.ok ({ x with phase := 3, skip := numAt d 4 4 }, 8)))
    else if magic ≠ 0xFD2FB528 then some (.error 1)
    else if d.length < 5 then none
    else
      let h := numAt d 4 1
      let single := bitOf h 5
      let wl := if single then 0 else 1
      let dl := [0, 1, 2, 4].getD (h % 4) 0
      let fl := if h / 64 = 0 then (if single then 1 else 0) else 2 ^ (h / 64)
      let n := 5 + wl + dl + fl
      if bitOf h 3 then some (.error 1)
      else if d.length < n then none
      else
        let wb := numAt d 5 1
        let fcs := numAt d (5 + wl + dl) fl + (if fl = 2 then 256 else 0)
        let base := 2 ^ (10 + wb / 8)
        let win := if single then fcs else base + base / 8 * (wb % 8)
        if min 0x800000 maxWin < win then some (.error 4)
        else if numAt d (5 + wl) dl ≠ 0 then some (.error 5)
        else some (.ok ({ phase := 1, win := win, content := if fl = 0 then none else some fcs, check := bitOf h 2,
                          hist := x.hist }, n))

/-- The decoder's loop over frame headers, blocks, checksums and skipped bytes. -/
def zLoop (maxWin : Nat) : Nat → Nat → Zst → List Byte → Nat → List Byte → DecEnd Zst
  | 0, _, x, d, c, out => { x := x, data := d, c := c, out := out, why := .more }
  | f + 1, room, x, d, c, out =>
    let stop := fun (w : DecWhy) => ({ x := x, data := d, c := c, out := out, why := w } : DecEnd Zst)
    let bad := fun (e : Nat) => stop (if room = 0 then .full else .bad e)
    match x.phase with
    | 0 =>
      match zHeader maxWin x d with
      | none => stop .more
      | some (.error e) => bad e
      | some (.ok (y, n)) => zLoop maxWin f room y (d.drop n) (c + n) out
    | 1 =>
      if d.length < 3 then stop .more
      else
        let h := numAt d 0 3
        let size := h / 8
        let kind := h / 2 % 4
        let body := if kind = 1 then 1 else size
        if kind = 3 then bad 8
        else if min x.win 0x20000 < size then bad 1
        else if d.length < 3 + body then stop .more
        else
          let b : ZBlk := { known := x.known, hist := x.hist, reach := x.done, win := x.win, limit := min x.win 0x20000 }
          let (b, tab, e) := zBlock x.tab b kind size ((d.drop 3).take body)
          let todo := b.out.reverse.drop x.given
          match e with
          | some e =>
            let o := (todo.take room).reverse ++ out
            if room < todo.length ∨ room = 0 then
              { x := { x with given := x.given + room }, data := d, c := c, out := o, why := .full }
            else { x := x, data := d, c := c, out := o, why := .bad e }
          | none =>
            if room < todo.length then
              { x := { x with given := x.given + room }, data := d, c := c, out := (todo.take room).reverse ++ out, why := .full }
            else
              let y := { x with tab := tab, xxh := b.out.reverse.foldl Xxh.push x.xxh, done := x.done + b.out.length,
                                given := 0, known := [], hist := b.out ++ x.hist }
              if h % 2 = 0 then zLoop maxWin f (room - todo.length) y (d.drop (3 + body)) (c + 3 + body) (todo.reverse ++ out)
              else if y.content.getD y.done ≠ y.done then
                { x := x, data := d, c := c, out := todo.reverse ++ out, why := .bad 3 }
              else
                zLoop maxWin f (room - todo.length) { y with phase := if y.check then 2 else 0 } (d.drop (3 + body)) (c + 3 + body)
                  (todo.reverse ++ out)
    | 2 =>
      if d.length < 4 then stop .more
      else if numAt d 0 4 ≠ x.xxh.check then bad 6
      else zLoop maxWin f room { x with phase := 0 } (d.drop 4) (c + 4) out
    | _ =>
      if x.skip = 0 then zLoop maxWin f room { x with phase := 0 } d c out
      else if d = [] then stop .more
      else
        let n := min x.skip d.length
        zLoop maxWin f room { x with skip := x.skip - n } (d.drop n) (c + n) out

/-- A count in two bytes of TABLES. -/
def countBytes (c : Int) : List Byte := le 2 (if c < 0 then 0xFFFF else c.toNat)

/-- The count that two bytes hold. -/
def countAt (b : List Byte) (i : Nat) : Int := if numAt b (2 * i) 2 = 0xFFFF then -1 else (numAt b (2 * i) 2 : Int)

/-- A table's counts, with zeros up to `n`. -/
def countsBytes (n : Nat) (l : List Int) : List Byte := ((l ++ List.replicate (n - l.length) 0).take n).flatMap countBytes

/-- A table's counts in a context; no table where all are zero. -/
def countsAt (b : List Byte) (first n : Nat) : List Int :=
  let l := (List.range n).map fun i => countAt b (first + i)
  if l.all (· == 0) then [] else l

/-- What a frame carries from block to block, in its context (R162). -/
def ztabPack (t : Ztab) : Ctx :=
  { rep := (t.reps.flatMap (le 4)) ++ le 4 0, codes := nibbles (padNat 256 t.w),
    tables := countsBytes 36 t.ll ++ countsBytes 53 t.ml ++ countsBytes 32 t.of_ }

/-- What a context holds of it. -/
def ztabOf (c : Ctx) : Ztab :=
  let w := ofNibbles c.codes
  { reps := (List.range 3).map fun i => numAt c.rep (4 * i) 4, w := if w.all (· == 0) then [] else w,
    ll := countsAt c.tables 0 36, ml := countsAt c.tables 36 53, of_ := countsAt c.tables 89 32 }

/-- The working state of a zstd decoder in its context; `off` is the stream offset of the block in progress. -/
def zPack (off : Nat) (x : Zst) : Ctx :=
  { ztabPack x.tab with
    xxh := x.xxh.bytes,
    frame := le 8 x.win ++ le 8 (x.content.getD 0) ++ le 1 x.phase ++ le 1 0 ++ le 1 (b2n x.content.isSome) ++ le 1 (b2n x.check) ++
      le 4 0 ++ le 8 off ++ le 8 x.given ++ le 8 x.done ++ le 8 x.skip }

/-- The zstd decoder that a context holds; `hist` is what was put out before, reversed. -/
def zUnpack (c : Ctx) (hist : List Byte) : Zst :=
  if c.ver = 0 then { hist := hist }
  else
    let given := numAt c.frame 32 8
    { phase := numAt c.frame 16 1, win := numAt c.frame 0 8, content := if numAt c.frame 18 1 = 1 then some (numAt c.frame 8 8) else none,
      check := numAt c.frame 19 1 == 1, given := given, done := numAt c.frame 40 8, skip := numAt c.frame 48 8,
      tab := ztabOf c, xxh := xxhOf c.xxh, hist := hist.drop given, known := (hist.take given).reverse }

/-- DECOMPRESS of a zstd stream: input is counted up to the start of the block in progress (R165). -/
def zstdDecompress (c : Ctx) (hist : List Byte) (maxWin room : Nat) (input : List Byte) (final : Bool) : StreamRes :=
  let e := zLoop maxWin (input.length + 4) room (zUnpack c hist) input 0 []
  let out := e.out.reverse
  let kept := zPack (c.tin + e.c) e.x
  match e.why with
  | .full => { used := e.c, out := out, status := stOutputFull, ctx := kept }
  | .bad why => { used := e.c, out := out, status := stBadDesc, st := 3, err := why, errOff := c.tin + e.c, ctx := kept }
  | .done => { used := e.c, out := out, st := 2, ctx := kept }
  | .more =>
    if !final then { used := e.c, out := out, ctx := kept }
    else if e.data = [] ∧ e.x.phase = 0 then { used := e.c, out := out, st := 2, ctx := kept }
    else { used := e.c, out := out, status := stBadDesc, st := 3, err := 10, errOff := c.tin + e.c, ctx := kept }

end Sys2Proof.Machine
end

