-- ==== Sys2Proof/Machine/Encode.lean ====
section
/-! DEFINITION. The stream encoders (R157–R160, R166, R167). The choice of blocks and tokens is the device's (R160): each is an
opaque constant of Config, used only where the format's own decoder reads it back as the input; else the block is stored. How an
encoder stops and goes on is log entry 105. -/

namespace Sys2Proof.Machine

open Sys2Proof

/-! ## What the formats write for one block of input -/

/-- What an encoder is set to: format, level and window (R159, R160). -/
structure EncPar where
  fmt    : Nat
  level  : Nat
  window : Nat
  deriving DecidableEq, Repr

/-- An encoder between blocks: code bits that do not fill a byte; for zstd, whether the frame header is written, the content
size it gives, and the tables in force. -/
structure EncBase where
  bits : List Bool := []
  head : Bool := false
  fcs  : Option Nat := none
  tab  : Ztab := {}
  deriving DecidableEq, Repr

/-- What ends a block: a cut of the encoder's, FLUSH or FINAL; 0 where it goes on. -/
def encGoes : Nat := 0
def encCutAt : Nat := 1
def encFlush : Nat := 2
def encFinal : Nat := 3

/-- One record of a PLZ framed stream: the zero record, an encoding that is shorter, or the raw bytes (R157). -/
def plzRecord (level : Nat) (d : List Byte) : List Byte :=
  let e := Config.plzEncode level d
  if d.all (· == 0) then le 2 0 ++ le 2 d.length
  else if e.length < d.length ∧ plzEncodes e d then le 2 e.length ++ le 2 d.length ++ e
  else le 2 d.length ++ le 2 d.length ++ d

/-- A byte from bits, least significant first. -/
def bitsByte (l : List Bool) : Byte := BitVec.ofNat 8 ((List.range 8).foldl (fun a i => a + b2n (l.getD i false) * 2 ^ i) 0)

/-- The whole bytes that bits fill, and the bits left over. -/
def packBits : Nat → List Bool → List Byte × List Bool
  | 0, l => ([], l)
  | n + 1, l =>
    if l.length < 8 then ([], l)
    else
      let (b, r) := packBits n (l.drop 8)
      (bitsByte l :: b, r)

/-- The bits of bytes, least significant first. -/
def bytesBits (b : List Byte) : List Bool := b.flatMap fun x => (List.range 8).map x.getLsbD

/-- Zero bits up to a byte boundary. -/
def padBits (l : List Bool) : List Bool := l ++ List.replicate ((8 - l.length % 8) % 8) false

/-- A stored block, after the bits `pre` (R158). -/
def storedBlock (pre : List Bool) (final : Bool) (d : List Byte) : List Bool :=
  padBits (pre ++ [final, false, false]) ++ bytesBits (le 2 d.length ++ le 2 (0xFFFF - d.length) ++ d)

/-- The bits after BFINAL are one block that decodes to `d`, from bit position `at_` on and with the history before it. -/
def deflOk (at_ : Nat) (hist d : List Byte) (bits : List Bool) : Bool :=
  let l := List.replicate at_ false ++ false :: bits
  let data := (packBits (l.length / 8 + 1) (padBits l)).1
  let e := decDrive inflStep (decFuel data.length (d.length + 1)) (d.length + 1) { bit := at_, hist := hist } data 0 []
  decide (e.why = .more) && decide (e.x.heads = 1) && decide (e.x.kind = 0) && decide (8 * e.c + e.x.bit = l.length) &&
  decide (e.out.reverse = d)

/-- A DEFLATE block, after the bits `pre`. -/
def deflBlock (level : Nat) (pre : List Bool) (hist d : List Byte) (final : Bool) : List Bool :=
  let c := Config.deflateBlock level (pre.length % 8) hist d
  if deflOk (pre.length % 8) hist d c then pre ++ final :: c else storedBlock pre final d

/-- What DEFLATE writes at the end of a block (R158). -/
def deflChunk (p : EncPar) (b : EncBase) (hist d : List Byte) (kind : Nat) : List Byte × EncBase :=
  let bits := if d = [] ∧ kind ≠ encFinal then b.bits else deflBlock p.level b.bits hist d (kind == encFinal)
  let bits := if kind = encFlush then storedBlock bits false [] else if kind = encFinal then padBits bits else bits
  let (out, rest) := packBits (bits.length / 8 + 1) bits
  (out, { b with bits := rest })

/-- A frame header of the encoder's: checksum flag, no dictionary, its window, and the content size where that is given (R159). -/
def zHead (p : EncPar) (fcs : Option Nat) : List Byte :=
  let c := Config.zstdHeader p.level p.window fcs
  let ok := match zHeader p.window {} c with
    | some (.ok (x, n)) => x.phase == 1 && n == c.length && x.check && x.content == fcs && decide (x.win = fcs.getD p.window ∨ x.win = p.window)
    | _ => false
  if ok then c
  else
    let w := le 1 ((Nat.log2 p.window - 10) * 8)
    le 4 0xFD2FB528 ++ match fcs with
      | none => le 1 4 ++ w
      | some n => le 1 (4 + 0xC0) ++ w ++ le 8 n

/-- Bytes a block may have (R159). -/
def zMax (p : EncPar) : Nat := min p.window 0x20000

/-- One zstd block and the tables after it: compressed where that reads back as the input and is shorter, else raw. -/
def zEncBlock (p : EncPar) (t : Ztab) (hist d : List Byte) (last : Bool) : List Byte × Ztab :=
  let c := Config.zstdBlock p.level ((ztabPack t).rep ++ (ztabPack t).codes ++ (ztabPack t).tables) hist d
  let b : ZBlk := { hist := hist, reach := hist.length, win := p.window, limit := zMax p }
  let (x, u, e) := zBlock t b 2 c.length c
  if c.length < d.length ∧ e = none ∧ x.out.reverse = d then (le 3 (b2n last + 4 + 8 * c.length) ++ c, u)
  else (le 3 (b2n last + 8 * d.length) ++ d, t)

/-- What zstd writes at the end of a block (R159). -/
def zChunk (p : EncPar) (b : EncBase) (xxh : Xxh) (hist d : List Byte) (kind : Nat) : List Byte × EncBase :=
  let head := if b.head then [] else zHead p b.fcs
  let (blk, tab) := if d = [] ∧ kind ≠ encFinal then ([], b.tab) else zEncBlock p b.tab hist d (kind == encFinal)
  (head ++ blk ++ (if kind = encFinal then le 4 xxh.check else []), { b with head := true, tab := tab })

/-- What the encoder writes for a block, `xxh` being over all input with it. -/
def encChunk (p : EncPar) (b : EncBase) (xxh : Xxh) (hist d : List Byte) (kind : Nat) : List Byte × EncBase :=
  if p.fmt = 0 then (if d = [] then [] else plzRecord p.level d, b)
  else
    -- a block sees what the window still holds when its last byte is in it
    let h := hist.take (p.window - d.length)
    if p.fmt = 1 then deflChunk p b h d kind else zChunk p b xxh h d kind

/-- The bytes a block may have. -/
def encMax (p : EncPar) : Nat := if p.fmt = 0 then 512 else if p.fmt = 1 then 32768 else zMax p

/-- The encoder ends the block after these bytes: a PLZ record is 512 bytes (R157). -/
def encCuts (p : EncPar) (hist d : List Byte) : Bool :=
  decide (encMax p ≤ d.length) || (p.fmt != 0 && Config.encCut p.fmt p.level (hist.take (p.window - d.length)) d)

/-! ## The encoder (R166, R167) -/

/-- An encoder within a stream. Where `kind` is not 0, the codes of the block that ends with the next input byte are being
written: `given` bytes of them are, and that byte counts once all are. -/
structure Enc where
  base  : EncBase := {}
  /-- The open block, and what came before it, both reversed. -/
  blk   : List Byte := []
  hist  : List Byte := []
  xxh   : Xxh := {}
  /-- Codes of earlier blocks that wait for space or budget. -/
  pend  : List Byte := []
  kind  : Nat := 0
  given : Nat := 0
  /-- The codes of the block in hand that are made and not written, up to 1,024 with `pend`, and the bits after them. -/
  shown : List Byte := []
  after : List Bool := []
  deriving DecidableEq, Repr

/-- How far the codes may be written: TOTAL_OUT stays below TOTAL_IN (R167). -/
def encMay (room tin tout : Nat) (l : List Byte) : Nat := min l.length (min room (tin - 1 - tout))

/-- What an encoder did with a descriptor. -/
structure EncEnd where
  e      : Enc
  used   : Nat
  out    : List Byte
  status : Nat := 0
  st     : Nat := 1
  err    : Nat := 0
  deriving DecidableEq, Repr

/-- What ends the block with this byte: FINAL and FLUSH after the descriptor's last byte, or a cut. -/
def encKind (p : EncPar) (e : Enc) (d : List Byte) (last final flush : Bool) : Nat :=
  if last && final then encFinal else if last && flush then encFlush else if encCuts p e.hist d then encCutAt else encGoes

/-- The encoder over the input bytes: `tin`, `tout` were the stream's totals before, `k` bytes are taken since, `out` is
reversed and `n` long. -/
def encLoop (p : EncPar) (room tin tout : Nat) (final flush : Bool) : List Byte → Enc → Nat → Nat → List Byte → EncEnd
  | [], e, k, _, out => { e := e, used := k, out := out.reverse }
  | b :: t, e, k, n, out =>
    if e.kind = encGoes ∧ e.pend ≠ [] ∧ room ≤ n then { e := e, used := k, out := out.reverse, status := stOutputFull }
    else
      let d := e.blk.reverse ++ [b]
      let xxh := if p.fmt = 2 then e.xxh.push b else e.xxh
      let kind := if e.kind ≠ encGoes then e.kind else encKind p e d (t == []) final flush
      if kind = encGoes then
        let m := encMay (room - n) (tin + k + 1) (tout + n) e.pend
        encLoop p room tin tout final flush t { e with blk := b :: e.blk, xxh := xxh, pend := e.pend.drop m } (k + 1) (n + m)
          ((e.pend.take m).reverse ++ out)
      else
        let (codes, base) := encChunk p e.base xxh e.hist d kind
        let all := e.pend ++ codes.drop e.given
        let m := encMay (room - n) (tin + k + 1) (tout + n) all
        let out := (all.take m).reverse ++ out
        let rest := all.drop m
        if rest ≠ [] ∧ tout + n + m < tin + k then
          -- the output space stopped it: the byte is presented again
          { e := { e with pend := e.pend.drop m, kind := kind, given := e.given + (m - e.pend.length),
                          shown := rest.drop (e.pend.drop m).length, after := base.bits },
            used := k, out := out.reverse, status := stOutputFull }
        else
          let e := { e with base := base, blk := [], hist := b :: e.blk ++ e.hist, xxh := xxh, pend := rest, kind := 0, given := 0,
                            shown := [], after := [] }
          if 1024 < rest.length ∨ (kind ≠ encCutAt ∧ rest ≠ []) then
            { e := { e with pend := rest.take 1024 }, used := k + 1, out := out.reverse, status := stExpanded, st := 3, err := 9 }
          else if kind = encFinal then { e := e, used := k + 1, out := out.reverse, st := 2 }
          else encLoop p room tin tout final flush t e (k + 1) (n + m) out

/-! ## Contexts -/

/-- Bits as a number, least significant first. -/
def bitsNat (l : List Bool) : Nat := (List.range l.length).foldl (fun a i => a + b2n (l.getD i false) * 2 ^ i) 0

/-- `n` bits of a number. -/
def natBits (n v : Nat) : List Bool := (List.range n).map (bitOf v)

/-- The working state of an encoder in its context. -/
def encPack (p : EncPar) (e : Enc) : Ctx :=
  let held := e.pend ++ e.shown
  let bits := if e.kind = encGoes then e.base.bits else if held.length ≤ 1024 then e.after else []
  { (if p.fmt = 2 then ztabPack e.base.tab else {}) with
    bitcnt := bits.length, bitbuf := bitsNat bits, pendOut := held.take 1024,
    carry := if p.fmt = 0 then e.blk.reverse else [],
    xxh := if p.fmt = 2 then e.xxh.bytes else [],
    frame := le 8 p.window ++ le 8 (e.base.fcs.getD 0) ++ le 2 0 ++ le 1 (b2n e.base.fcs.isSome),
    enc := le 4 e.blk.length ++ le 1 e.kind ++ le 1 (b2n e.base.head) ++ le 2 e.pend.length ++ le 4 e.given ++
      le 1 e.base.bits.length ++ le 1 (bitsNat e.base.bits) }

/-- The encoder that a context holds; `past` is the input before this descriptor, reversed. A new stream's content size is known
where its first descriptor has FINAL set (R159). -/
def encUnpack (p : EncPar) (c : Ctx) (past : List Byte) (fcs : Option Nat) : Enc :=
  if c.ver = 0 then { base := { fcs := fcs }, hist := past }
  else
    let n := numAt c.enc 0 4
    { base := { bits := natBits (numAt c.enc 12 1) (numAt c.enc 13 1), head := numAt c.enc 5 1 == 1,
                fcs := if numAt c.frame 18 1 = 1 then some (numAt c.frame 8 8) else none, tab := ztabOf c },
      blk := if p.fmt = 0 then c.carry.reverse else past.take n, hist := if p.fmt = 0 then [] else past.drop n,
      xxh := if p.fmt = 2 then xxhOf c.xxh else {}, pend := c.pendOut.take (numAt c.enc 6 2), kind := numAt c.enc 4 1,
      given := numAt c.enc 8 4 }

/-- COMPRESS, in each format. -/
def streamEncode (p : EncPar) (c : Ctx) (past : List Byte) (room : Nat) (input : List Byte) (final flush : Bool) : StreamRes :=
  let e := encUnpack p c past (if final then some input.length else none)
  let r := encLoop p room c.tin c.tout final flush input e 0 0 []
  { used := r.used, out := r.out, status := r.status, st := r.st, err := r.err,
    errOff := if r.err = 0 then 0 else c.tin + r.used, ctx := encPack p r.e }

end Sys2Proof.Machine
end

