-- ==== Sys2Proof/Machine/Keys.lean ====
section
/-! DEFINITION. Key slots, the TRNG and REKEY (R174–R184). -/

namespace Sys2Proof.Machine

open Sys2Proof

/-! ## Drawing keys (R176) -/

/-- Draws a key set: its number. -/
def drawKey (s : State) : State × Nat := ({ s with keys := { s.keys with next := s.keys.next + 1 } }, s.keys.next)

/-- The TRNG can supply a draw. -/
def canDraw (s : State) : Bool := s.keys.trngOk && s.keys.metaKey.isSome

/-- Draws the metadata key, when a draw is due and the health tests pass (R173, R176, R392). -/
def drawMeta (s : State) : State :=
  if s.keys.metaDue && s.keys.trngOk then
    let (s, k) := drawKey s
    let s := { s with keys := { s.keys with metaKey := some k, metaDue := false, metaFail := false } }
    if s.boot.phase = .keyDraw then { s with boot := { s.boot with phase := .firmware } } else s
  else s

/-- The lowest-numbered FREE slot (R175). -/
def freeSlotNo (s : State) : Option Nat := (List.range 4096).find? fun k => (slotAt s k).st = .free

/-- A KEYSET, TRNG or REKEY event record (R413): slot, GEN, status. -/
def keyEvent (s : State) (k gen sev status : Nat) : State :=
  logEv s (srcOf secBase) 0x9002 sev (le 2 k ++ le 1 gen ++ le 1 status)

/-! ## Destruction (R181) -/

/-- Answers whoever waits for a walk: a descriptor ends, the island has its completion, or the partner gets its PRSP (R177,
R179). -/
def answerWalk (s : State) (x : Slot) (status : Nat) : State :=
  let s := match x.by_ with
    | some (r, i) => endDesc s (descKey r i) status x.gen x.done 0
    | none => s
  let s := if x.island then emit s (.rekeyDone x.win status) else s
  match x.ptag with
  | some tag =>
    let b : PlyBody := .prsp tag status []
    match portFor s b with
    | some p => plySend s p b
    | none => s
  | none => s

/-- A walk stops with DISABLED: its window is removed, or Sanitize, Secure Erase, a life-cycle transition or a debug unlock
takes it offline (R178). -/
def stopWalk (s : State) (k : Nat) : State :=
  let x := slotAt s k
  if x.st = .rekeying || x.peerWalk then
    let s := modSlot s k fun y => { y with stopped := true, by_ := none, island := false, ptag := none, peerWalk := false }
    answerWalk (dropJobs s (· == .rekey x.win)) x stDisabled
  else s

/-- Zeroes a slot's key sets; a walk on it stops with DISABLED (R178, R181). -/
def zeroSlot (s : State) (k : Nat) : State := modSlot (stopWalk s k) k fun _ => {}

/-- Zeroes every slot and the metadata key, whose next draw is then due (R181). -/
def zeroKeys (s : State) : State :=
  let s := (s.slots.map (·.1)).foldl zeroSlot s
  { s with keys := { s.keys with metaKey := none, metaDue := true } }

/-! ## The walk (R177) -/

/-- Class of a walk: that of the ring that submitted it, else QC15 (R177). -/
def walkClass (s : State) (x : Slot) : Nat :=
  match x.by_ with
  | some (r, _) => (ringAt s r).qc
  | none => 15

/-- Converts one line: read under the generation before, written under GEN; poison stays, and an uncorrectable line
becomes poison with an ERR event (R178). -/
def convertLine (s : State) (w line : Nat) (noise : List Byte) : State :=
  let x := slotOf s w
  let qc := walkClass s x
  let s := casLine (casLine (flushLine s line []) line false qc 1024) line true qc 1024
  let (word, _) := decodeStored (dramAt s line) noise
  let (s', d) := demandRead s line (dramAt s line) noise (x.old.getD x.cur) ((x.gen + 15) % 16) none
  match d with
  | some b => writeLine s' line x.cur x.gen b
  | none =>
    if word = .poison then s'
    else logEvFor (writePoison s' line) (srcOf secBase) 0x6002 sevErr (le 2 (chOfLine s line) ++ le 8 (line * 64)) [] [w]

/-- Converts lines in ascending order, `n` of them, each with its own noise. -/
def convertLines (w : Nat) : Nat → State → Nat → List (List Byte) → State
  | 0, s, _, _ => s
  | n + 1, s, line, noise => convertLines w n (convertLine s w line (noise.headD [])) (line + 1) (noise.drop 1)

/-- The units of a hank in the order of the walk: none for a DIRECT hank, else its mapped pages; those that already carry
GEN are skipped. -/
def hankUnits (s : State) (w off : Nat) : List (Option Nat) :=
  let h := hankAt s w off
  let g := (slotOf s w).gen
  match h.mode with
  | .unmapped => []
  | .direct => if h.kgen = g then [] else [none]
  | .paged => ((List.range 512).filter fun pg =>
      let p := pageAt s (pageKey w off pg)
      p.tier != .unmapped && p.kgen != g).map some

/-- First line of a unit, and how many lines it has. -/
def unitLines (s : State) (w off : Nat) (page : Option Nat) : Nat × Nat :=
  match page with
  | none => ((hankAt s w off).home * 0x8000, 0x8000)
  | some pg =>
    let p := pageAt s (pageKey w off pg)
    if p.tier = .compressed then (p.addr * 4, runGranules p.len * 4) else (frameLine p.addr, 64)

/-- Mapped hanks of the window from offset `n` on, in DLA order. -/
def walkHanks (s : State) (w n : Nat) : List Nat :=
  (s.hanks.filter fun e => e.1 / 0x1000000 == w && decide (n ≤ e.1 % 0x1000000) && match e.2 with
    | some h => h.mode != .unmapped
    | none => false).map fun e => e.1 % 0x1000000

/-- Passes over hanks that have no unit left to convert; each counts in DONE_HANKS (R174). -/
def walkOn : List Nat → State → Nat → State × Option (Nat × Option Nat)
  | [], s, _ => (s, none)
  | off :: t, s, w =>
    match hankUnits s w off with
    | u :: _ => (s, some (off, u))
    | [] => walkOn t (modSlot s (winAt s w).keySlot fun x => { x with walk := off + 1, done := x.done + 1 }) w

/-- Writes GEN through to a unit's entry (R177). -/
def setUnitGen (s : State) (w off : Nat) (page : Option Nat) : State :=
  let g := (slotOf s w).gen
  match page with
  | none => putHank s w off fun h => { h with kgen := g, dirty := dirtyNow s w h }
  | some pg =>
    let s := putEntry s w off pg fun p => { p with kgen := g }
    if dirtyNow s w (hankAt s w off) then putHank s w off fun h => { h with dirty := true } else s

/-- A tier change of the unit has started and runs first (R178). -/
def tierBusy (s : State) (w off : Nat) (page : Option Nat) : Bool :=
  match page with
  | none => false
  | some pg => (s.carder.promo.any fun q => q.key == pageKey w off pg && q.run) ||
      (s.carder.demo.any fun q => q.key == pageKey w off pg && q.run) || moving s (pageKey w off pg)

/-- Retires the old generation (R177 step 4): the walk's end is answered once the partner's walk has ended too (R179). -/
def retireWalk (s : State) (w : Nat) : State :=
  let k := (winAt s w).keySlot
  let x := slotAt s k
  let s := modSlot s k fun x => { x with
    st := .active, old := none, cursor := none, rekeys := min 0xFFFF (x.rekeys + 1), by_ := none, island := false, ptag := none }
  let s := if x.peerWalk then modSlot s k fun y => { y with by_ := x.by_, island := x.island } else answerWalk s x stOk
  keyEvent s k x.gen sevInfo stOk

/-- Page-sized steps of a unit that its lines `a` to `b` complete (R187): one for each 64 lines of a DIRECT hank, one for a page. -/
def stepsDone (page : Option Nat) (a b n : Nat) : Nat :=
  match page with
  | none => b / 64 - a / 64
  | some _ => if b = n then 1 else 0

/-- A walk has completed steps: its unit leaves its slot where it stands between two. -/
def walkSteps (s : State) (w steps : Nat) (between : Bool) : State :=
  if between then leaveSlot (countSteps s (.rekey w) (steps - 1)) (.rekey w) true else countSteps s (.rekey w) steps

/-- REKEY_UNIT_CONVERT (R177 steps 3 and 4): converts the next unit, or as many of its lines as `noise` has entries where
it has any (log entry 17), as steps of a SERVICE spindle (R187, R188); when no unit is left the old generation is retired. -/
def execRekeyUnitConvert (win : Fin 4096) (noise : List (List Byte)) (s : State) : Host.Outcome State Fault Refusal :=
  let w := win.val
  let x := slotOf s w
  if x.st ≠ .rekeying ∨ x.win ≠ w ∨ x.peerKey = true ∨ x.stopped = true then .next s
  else
    let (s, unit) := match x.cursor with
      | some (o, p, _) => (s, some (o, p))
      | none => walkOn (walkHanks s w x.walk) s w
    match unit with
    | none => .next (resume (retireWalk s w))
    | some (off, page) =>
      if tierBusy s w off page then .next s
      else
        let s := giveUnit s (.rekey w) 5 (walkClass s x) 0
        if !inSlot s (.rekey w) then .next s
        else
        let (first, n) := unitLines s w off page
        let from_ := match x.cursor with
          | some (_, _, l) => l
          | none => first
        let left := first + n - from_
        let k := if noise = [] then left else min left noise.length
        let done := from_ + k - first
        let s := convertLines w k s from_ noise
        let s := walkSteps s w (stepsDone page (from_ - first) done n) (decide (k = left) || (page.isNone && done % 64 == 0))
        let slot := (winAt s w).keySlot
        if k = left then
          let s := modSlot (setUnitGen s w off page) slot fun y => { y with cursor := none }
          .next (resume (tryDirect s w off))
        else .next (modSlot s slot fun y => { y with cursor := some (off, page, from_ + k) })

/-! ## The TRNG (R184) -/

/-- TRNG_HEALTH_FAIL (R184). -/
def execTrngHealthFail (s : State) : Host.Outcome State Fault Refusal :=
  let s := { s with keys := { s.keys with trngOk := false, failing := true, failSeen := true, fails := min 0xFFFF (s.keys.fails + 1) } }
  if firstInMs s 184 0 then .next (logEv (markMs s 184 0) (srcOf secBase) 0x9002 sevErr (le 3 0 ++ kindByte 184 0))
  else .next s

/-- TRNG_KEY_DRAW (R392): the health tests have passed after the reset, and the metadata key is drawn. While a test fails, no
key is drawn (R176). -/
def execTrngKeyDraw (s : State) : Host.Outcome State Fault Refusal :=
  if !s.keys.metaDue || s.keys.failing || s.boot.phase = .aonOff || s.boot.phase = .ldo ||
      s.boot.phase = .supervisor || s.boot.phase = .rails || s.boot.phase = .held then .next s
  else .next (drawMeta { s with keys := { s.keys with trngOk := true } })

end Sys2Proof.Machine
end

