-- ==== Sys2Proof/Machine/Spindles.lean ====
section
/-! DEFINITION. The spindle array's own steps: admission (R187, R190, R211), clock gating (R195), borrowing (R191),
local-store errors (R193) and samples (R198). -/

namespace Sys2Proof.Machine

open Sys2Proof

/-! ## Descriptor fields (R214) -/

def dOp (b : List Byte) : Nat := numAt b 0 1
def dFlags (b : List Byte) : Nat := numAt b 1 1
def dHint (b : List Byte) : Nat := numAt b 2 1
def dP0 (b : List Byte) : Nat := numAt b 3 1
def dA (b : List Byte) : Nat := numAt b 8 8
def dB (b : List Byte) : Nat := numAt b 16 8
def dC (b : List Byte) : Nat := numAt b 24 8
def dLenA (b : List Byte) : Nat := numAt b 32 8
def dLenB (b : List Byte) : Nat := numAt b 40 8
def dArg0 (b : List Byte) : Nat := numAt b 48 8
def dArg1 (b : List Byte) : Nat := numAt b 56 8

/-- The context a stream descriptor names (R156, R218). -/
def dCtx (b : List Byte) : Option Nat :=
  if (dOp b = 4 ∨ dOp b = 5) ∧ bitOf (dC b) 0 then some (fld (dC b) 51 12 * 4096) else none

/-! ## Starting descriptors (R209, R211, R163) -/

/-- Ring of a descriptor key. -/
def ringOfKey (k : Nat) : Nat := k / 0x10000

/-- Descriptors that are not the device's own agents. -/
def isDescKey (k : Nat) : Bool := decide (k < 0x20000000)

/-- Where a descriptor's context lies, as the ring's seat names it. -/
def ctxAt (s : State) (k : Nat) (b : List Byte) : Option (Nat × Nat) :=
  match dCtx b with
  | some a => seatRange s (ringAt s (ringOfKey k)).seat a 4096
  | none => none

/-- A waiting descriptor may start: every earlier one of its ring has started, or has ended where it carries FENCE; and
no descriptor taken earlier holds or waits for its context. -/
def descMayStart (s : State) (k : Nat) (d : Desc) : Bool :=
  d.st = .waiting &&
  s.descs.all fun e => match e.2 with
    | some o =>
      let earlier := isDescKey e.1 && e.1 != k && decide (o.ord < d.ord)
      !(earlier && ((ringOfKey e.1 == ringOfKey k && (o.st = .waiting || (bitOf (dFlags d.raw) 0 && o.st != .ended))) ||
        (o.st != .ended && (ctxAt s k d.raw).isSome && ctxAt s e.1 o.raw == ctxAt s k d.raw)))
    | none => true

/-- Ring-op limit in ms (R228). -/
def opLimit (s : State) : Nat := clampN 1 60000 (fld (regN s (ringBase + 0x40)) 15 0)

/-- The unit of a descriptor. -/
def descUnit (s : State) (k : Nat) (d : Desc) : Unit_ :=
  { job := .desc (ringOfKey k) (k % 0x10000), role := 5, qc := (ringAt s (ringOfKey k)).qc, ord := d.ord }

/-- A descriptor starts in a slot of spindle `n` (R209, R225). -/
def startDesc (s : State) (k n : Nat) (d : Desc) : State :=
  let s := placeUnit (touchHome s 5) n (descUnit s k d)
  stampNext (modDesc s k fun _ => some { d with
    st := .started, startAt := s.now, startOrd := s.stamp, limitMs := opLimit s })

/-- Starts a taken descriptor if it may start and a slot is free. -/
def tryStart (s : State) (k : Nat) : State :=
  match descAt s k with
  | none => s
  | some d =>
    if descMayStart s k d && !admissionStopped s then
      match pickSpindle s 5 0 48 4 with
      | some n => startDesc s k n d
      | none => noteWait s 5
    else s

/-- The waiting descriptor that ranks first among those that may start. -/
def nextDesc (s : State) : Option (Nat × Unit_) :=
  s.descs.foldl (fun b e => match e.2 with
    | none => b
    | some d =>
      if isDescKey e.1 && descMayStart s e.1 d then
        let u := descUnit s e.1 d
        match b with
        | none => some (e.1, u)
        | some x => if ranksAhead u x.2 then some (e.1, u) else b
      else b) none

/-- Takes a unit out of the dispatch queues and puts it into a slot. -/
def admitUnit (s : State) (u : Unit_) : State :=
  match pickSpindle s u.role u.slice u.avoid u.bq with
  | some n => placeUnit (touchHome { s with units := s.units.filter fun x => x.job != u.job } u.role) n u
  | none => s

/-- SPINDLE_UNIT_ADMIT (R187, R190–R192, R196, R209): the waiting unit or descriptor that ranks first is admitted. -/
def execSpindleUnitAdmit (s : State) : Host.Outcome State Fault Refusal :=
  if admissionStopped s then .next s
  else
    let d := if (pickSpindle s 5 0 48 4).isSome then nextDesc s else none
    match nextUnit s, d with
    | some u, some (k, v) => if ranksAhead v u then .next (tryStart s k) else .next (admitUnit s u)
    | some u, none => .next (admitUnit s u)
    | none, some (k, _) => .next (tryStart s k)
    | none, none => .next ((s.units.map (·.role)).eraseDups.foldl noteWait s)

/-! ## Clocks and borrowing -/

/-- Core cycles in ns, rounded up. -/
def cycNs (s : State) (n : Nat) : Nat := ceilDiv (n * 1000) (coreMhz s.power.op)

/-- SPINDLE_CLOCK_GATE (R195). -/
def execSpindleClockGate (n : Fin 48) (s : State) : Host.Outcome State Fault Refusal :=
  let x := spnAt s n
  let ctl := regN s (spnBase n + 0xC)
  if x.st ≠ .run ∨ x.slots ≠ [] ∨ bitOf ctl 0 = true ∧ x.home ≠ 0 then .next s
  else
    let s := advanceTo s (x.empty + cycNs s (max 8 (fld ctl 15 8)))
    .next (modSpn s n (gateSpn s.now))

/-- Units waiting for a role: its dispatch queue, or for SERVICE the descriptors that wait in rings. -/
def roleQueue (s : State) (r : Nat) : Nat :=
  if r = 5 then (s.rings.foldl (fun a e =>
    if e.2.st = .enabled then a + (e.2.sqTail + 2 ^ (e.2.size + 6) - e.2.sqHead) % 2 ^ (e.2.size + 6) else a) 0) +
    (s.descs.filter fun e => isDescKey e.1 && match e.2 with
      | some d => d.st = .waiting
      | none => false).length
  else (s.units.filter fun u => u.role == r).length

/-- Spindles whose home role is `r`. -/
def homesOf (s : State) (r : Nat) : Nat := (spindles.filter fun n => (spnAt s n).home == r).length

/-- The spindle may lend to role `r` (R191): its LEND bit is set and the role's queue is above QTHRESH for each spindle of
that home role. -/
def mayLend (s : State) (n r : Nat) : Bool :=
  let x := spnAt s n
  r != 0 && r != x.home && x.lend.getLsbD r && homesOf s r != 0 &&
    decide (fld (regN s (spnBase n + 8)) 23 16 * homesOf s r < roleQueue s r)

/-- SPINDLE_LEND_START (R191): at IDLE_NS after the spindle last had home work, it lends to the role with the deepest
queue per home spindle. -/
def execSpindleLendStart (n : Fin 48) (role : Fin 6) (s : State) : Host.Outcome State Fault Refusal :=
  let x := spnAt s n
  let deepest := (List.range 6).all fun r => !mayLend s n r ||
    decide (roleQueue s r * homesOf s role ≤ roleQueue s role * homesOf s r)
  if !spnUsable s n || homeUnits x != 0 || roleWaits s x.home || borrowedUnits x != 0 || !mayLend s n role || !deepest then .next s
  else
    let s := advanceTo s (x.homeIdle + spnIdleNs s n)
    .next (modSpn s n fun x => { x with lending := some role.val })

/-! ## Local-store errors (R193) -/

/-- A unit ends because its local store failed. -/
def failUnit (s : State) (n slot : Nat) : State :=
  match (spnAt s n).slots.find? fun e => e.1 == slot with
  | none => s
  | some (_, u) =>
    let s := tellIsland s n
    match u.job with
    | .decode e =>
      let s := leaveSlot s u.job false
      match trkAt s e with
      | none => s
      | some t =>
        if t.retried then
          let s := logEvFor s (srcOf (spnBase n)) 0xB001 sevErr (le 2 n ++ kindByte 193 1) [t.m.seat] [t.m.win]
          passLine (endRead s e t none 0) (lineIdx t.m.dla)
        else
          let s := modTrk s e fun _ => some { t with retried := true }
          { s with units := s.units ++ [{ u with avoid := n }] }
    | .promo pk =>
      let q := s.carder.promo.find? fun q => q.key == pk
      let s := leaveSlot s u.job false
      let s := match q with
        | some { run := true, frame := some f, .. } =>
          if (hankAt s (pk / 512 / 0x1000000) (pk / 512 % 0x1000000)).guar then s else freeFrame s f
        | _ => s
      { s with
        carder := { s.carder with promo := s.carder.promo.map fun q =>
          if q.key == pk then { q with run := false, frame := none } else q }
        units := s.units ++ [u] }
    | .demo pk =>
      let s := endDemoFlag (leaveSlot s u.job false) pk
      { s with
        carder := { s.carder with demo := s.carder.demo.map fun q =>
          if q.key == pk then { q with run := false, enc := none } else q }
        units := s.units ++ [u] }
    | .desc r i => endDesc s (descKey r i) stAborted 0 0 0
    | .move pk => { cancelMove s pk with units := s.units ++ [u] }
    | j => { leaveSlot s j false with units := s.units ++ [u] }

/-- A spindle goes FAILED and its units end (R193, R300). -/
def failSpindle (s : State) (n : Nat) : State :=
  let s := modSpn s n fun x => { x with st := .failed }
  ((spnAt s n).slots.map (·.1)).foldl (fun t i => failUnit t n i) s

/-- LOCAL_STORE_ERROR (R193). -/
def execLocalStoreError (n : Fin 48) (area : LsArea) (correctable : Bool) (s : State) : Host.Outcome State Fault Refusal :=
  let s := bump s (spnBase n + 0x24)
  if correctable then .next s
  else match area with
    | .slotArea slot => .next (failUnit s n slot)
    | .working slot => .next (failUnit s n slot)
    | .deposit i => .next (modSpn s n fun x => { x with deposits := x.deposits.eraseIdx i })
    | .microcode =>
      .next (logEv (failSpindle s n) (srcOf (spnBase n)) 0xB001 sevErr (le 2 n ++ kindByte 193 0))

/-- Length of a sample period in ns: PERIOD times 256 core cycles; 0 acts as 1 (R198, R201). -/
def sampNs (s : State) (n : Nat) : Nat := cycNs s (max 1 (fld (regN s (spnBase n + 0x18)) 31 8) * 256)

/-- SPINDLE_PC_SAMPLE (R198, R448): when the period has passed, counted while the clock runs. -/
def execSpindlePcSample (n : Fin 48) (slot : Fin 32) (pc : BitVec 13) (s : State) : Host.Outcome State Fault Refusal :=
  let x := spnAt s n
  let ctl := regN s (spnBase n + 0x18)
  if !bitOf ctl 0 || x.st != .run then .next s
  else
    let role := match x.slots.find? fun e => e.1 == slot.val with
      | some (_, u) => u.role
      | none => x.home
    let due := x.pcAt + sampNs s n
    let s := modSpn (advanceTo s due) n fun x => { x with
      pcNew := true, pcSlot := slot, pcRole := role, pc := pc.toNat, pcAt := due }
    .next (if bitOf ctl 1 then pmuIrq s true else s)

end Sys2Proof.Machine
end

