-- ==== Sys2Proof/Machine/Rings.lean ====
section
/-! DEFINITION. Command rings: doorbells (R206–R208), enabling and disabling (R205, R207, R226), taking descriptors
(R209, R485), completion records (R223) and drains. -/

namespace Sys2Proof.Machine

open Sys2Proof

/-! ## Rings -/

/-- Entries of a queue (R204). -/
def ringE (x : Ring) : Nat := 2 ^ (x.size + 6)

/-- The seat's ring of a local number (R203). -/
def ringOf (s : State) (seat local_ : Nat) : Option Nat :=
  (s.rings.find? fun e => e.2.st != .none && e.2.seat == seat && e.2.lcl == local_).map (·.1)

/-- A refused doorbell or setup write (R229). -/
def dbBad (s : State) : State := bump s (ringBase + 0x54)

/-- An event of a ring (R413): ring, status. -/
def ringEvent (s : State) (r sev k : Nat) : State :=
  logEvFor s (srcOf ringBase) 0xB001 sev (le 2 r ++ kindByte 205 k) [(ringAt s r).seat] []

/-- A refused value: counted, with a NOTE event (R205, R207). -/
def dbRefuse (s : State) (r : Nat) : State := ringEvent (dbBad s) r sevNote 0

/-- The descriptor fetch or record write was refused: the ring goes HALTED (R205). -/
def haltRing (s : State) (r : Nat) : State :=
  if (ringAt s r).st = .enabled then ringEvent (modRing s r fun x => { x with st := .halted }) r sevErr 1 else s

/-- Two ranges of addresses meet. -/
def rangesMeet (a la b lb : Nat) : Bool := decide (a < b + lb) && decide (b < a + la)

/-- The checks at enable (R207). -/
def enableOk (s : State) (x : Ring) : Bool :=
  let sq := x.sqBase * 4096
  let cq := x.cqBase * 4096
  let e := ringE x
  let inOnline := fun (h n : Nat) => match seatRange s x.seat h n with
    | some (w, _) => (winAt s w).state = .online
    | none => false
  let clear := fun (h n : Nat) => match seatRange s x.seat h n with
    | some (w, dla) => !(winAt s w).dbhV || !rangesMeet dla n (hankDla s w (winAt s w).dbhHank) 0x1000
    | none => false
  decide (x.size ≤ 10) && inOnline sq (e * 64) && inOnline cq (e * 32) &&
  !rangesMeet sq (e * 64) cq (e * 32) &&
  (match seatRange s x.seat sq (e * 64), seatRange s x.seat cq (e * 32) with
    | some (w, a), some (v, b) => w != v || !rangesMeet a (e * 64) b (e * 32)
    | _, _ => false) &&
  clear sq (e * 64) && clear cq (e * 32) &&
  (x.vector == 0 || (isOwner s x.seat && decide (3 ≤ x.vector)))

/-- ENABLE written 1 to a DISABLED ring (R205, R207). -/
def enableRing (s : State) (r : Nat) : State :=
  if enableOk s (ringAt s r) then
    modRing s r fun x => { x with
      st := .enabled, enable := true, sqHead := 0, sqTail := 0, cqHead := 0, cqTail := 0, phase := true, since := 0 }
  else dbRefuse s r

/-! ## Fetching (R209, R210) -/

/-- Where the descriptor at SQ_HEAD lies; none where its fetch is refused. -/
def fetchAt (s : State) (r : Nat) : Option (Nat × Nat) :=
  let x := ringAt s r
  match seatRange s x.seat (x.sqBase * 4096 + x.sqHead * 64) 64 with
  | some (w, dla) => if accessStatus s w dla 64 s.stamp = stOk then some (w, dla) else none
  | none => none

/-- Takes the descriptor at SQ_HEAD with what its fetch read. -/
def takeDesc (s : State) (r : Nat) (raw : List Byte) : State :=
  let x := ringAt s r
  let d : Desc := { raw := raw, st := .waiting, ord := s.stamp, tag := numAt raw 4 4 }
  let s := stampNext (modDesc s (descKey r x.sqHead) fun _ => some d)
  modRing (touchHome s 5) r fun x => { x with sqHead := (x.sqHead + 1) % ringE x, inflight := x.inflight + 1, since := x.since + 1 }

/-- Room in the CQ for one more record (R209). -/
def cqRoom (x : Ring) : Bool :=
  decide (x.inflight + (x.cqTail + ringE x - x.cqHead) % ringE x + 2 ≤ ringE x)

/-- Takes the descriptor at SQ_HEAD of a disabled ring, to be recorded with DISABLED (R226). Where its line must be snooped
first, the fetch is read before the record is written (R210). -/
def takeOneDisabled (s : State) (r w dla : Nat) : State :=
  let x := ringAt s r
  let k := descKey r x.sqHead
  if (agentLines s k w dla 64 false).2 then
    let (s, d) := agentRead s w dla x.qc x.seat
    endDesc (takeDesc s r (d.getD [])) k stDisabled 0 0 0
  else
    let s := endDesc (takeDesc s r []) k stDisabled 0 0 0
    let s := modDesc s k fun o => o.map fun d => { d with late := some (w, dla) }
    (agentLines s k w dla 64 false).1

/-- The descriptors of a disabled ring that were not yet taken: taken in order and recorded with DISABLED while the CQ
has room (R226). -/
def takeDisabled : Nat → State → Nat → State
  | 0, s, _ => s
  | n + 1, s, r =>
    let x := ringAt s r
    if x.sqHead = x.sqTail then s
    else
      match fetchAt s r with
      | some (w, dla) =>
        if cqRoom x then takeDisabled n (takeOneDisabled s r w dla) r else s
      | none => s

/-- Starts to disable a ring (R205, R226). `removed`: a re-weave removes it. -/
def disableRing (s : State) (r : Nat) (removed : Bool) : State :=
  let x := ringAt s r
  match x.st with
  | .enabled | .halted =>
    let s := takeDisabled 65536 s r
    let y := ringAt s r
    let rest := (y.sqTail + ringE y - y.sqHead) % ringE y
    let s := if rest = 0 then s
      else logEvFor s (srcOf ringBase) 0xB001 sevNote (le 2 r ++ kindByte 226 0 ++ le 2 rest) [x.seat] []
    let waiting := (s.descs.filter fun e => ringOfKey e.1 == r && match e.2 with
      | some d => d.st = .waiting
      | none => false).map (·.1)
    let s := waiting.foldl (fun t k => endDesc t k stDisabled 0 0 0) s
    modRing s r fun x => { x with st := .disabling, enable := false, removed := x.removed || removed }
  | .disabling => modRing s r fun x => { x with removed := x.removed || removed }
  | .disabled => if removed then modRing s r fun _ => {} else s
  | .none => s

/-! ## Doorbell fields (R206, R207) -/

/-- Writes an SQ tail. -/
def putSqTail (s : State) (r v : Nat) : State :=
  let x := ringAt s r
  if x.st = .disabling then s
  else if v < ringE x ∧ (v + ringE x - x.sqHead) % ringE x + x.since ≤ ringE x - 1 then
    modRing s r fun x => { x with sqTail := v, since := 0 }
  else dbRefuse s r

/-- Writes a CQ head. -/
def putCqHead (s : State) (r v : Nat) : State :=
  let x := ringAt s r
  if v < ringE x ∧ (v + ringE x - x.cqHead) % ringE x ≤ (x.cqTail + ringE x - x.cqHead) % ringE x then
    modRing s r fun x => { x with cqHead := v }
  else dbRefuse s r

/-- Writes an SQ setup word. -/
def putSqSetup (s : State) (r v : Nat) : State :=
  let x := ringAt s r
  if x.st = .disabled then
    let s := modRing s r fun x => { x with sqWord := BitVec.ofNat 64 v, sqBase := fld v 51 12, size := fld v 7 4 }
    if bitOf v 0 then enableRing s r else s
  else if bitOf v 0 then s
  else
    -- of such a word only ENABLE 0 counts: the word reads as it was, with ENABLE clear
    modRing (disableRing s r false) r fun x => { x with sqWord := x.sqWord &&& ~~~(1 : BitVec 64) }

/-- Writes a CQ setup word. -/
def putCqSetup (s : State) (r v : Nat) : State :=
  if (ringAt s r).st = .disabled then
    modRing s r fun x => { x with cqWord := BitVec.ofNat 64 v, cqBase := fld v 51 12, vector := fld v 4 0 }
  else s

/-- Applies one 8-byte field of a seat's doorbell page (R206, R207): a field of a local number without a ring is
counted, and the rest of the page ignores writes. A seat being disabled rings no doorbell (R74). -/
def putField (s : State) (seat off v : Nat) : State :=
  if 0x800 ≤ off then s
  else if (seatAt s seat).state = .disabling ∨ (seatAt s seat).state = .disabled then s
  else
    match ringOf s seat (off % 0x400 / 16) with
    | none => dbBad s
    | some r =>
      if off < 0x400 then (if off % 16 = 0 then putSqTail s r v else putCqHead s r v)
      else if off % 16 = 0 then putSqSetup s r v else putCqSetup s r v

/-- What a field of the doorbell page reads as (R206). -/
def getField (s : State) (seat off : Nat) : Nat :=
  if 0x800 ≤ off then 0
  else
    match ringOf s seat (off % 0x400 / 16) with
    | none => 0
    | some r =>
      let x := ringAt s r
      let code := match x.st with
        | .none => 0
        | .disabled => 1
        | .enabled => 2
        | .disabling => 3
        | .halted => 4
      if off < 0x400 then
        (if off % 16 = 0 then x.sqHead + x.sqTail * 0x10000 else x.cqHead + x.cqTail * 0x10000)
      else if off % 16 = 0 then x.sqWord.toNat - fld x.sqWord.toNat 10 8 * 256 + code * 256
      else x.cqWord.toNat

/-- A memory write to one line of the doorbell page: its enabled bytes must form whole fields, which are applied in
ascending order (R207). -/
def doorbellLine (s : State) (seat off : Nat) (mask : BitVec 64) (data : List Byte) : State :=
  let fields := List.range 8
  let part := fun (i : Nat) => (List.range 8).filter fun j => mask.getLsbD (8 * i + j)
  if fields.any fun i => (part i).length ≠ 0 ∧ (part i).length ≠ 8 then dbBad s
  else (fields.filter fun i => (part i).length = 8).foldl (fun t i => putField t seat (off + 8 * i) (numAt data (8 * i) 8)) s

/-- One doorbell field written through the doorbell hank, or through page `p` of a function's BAR4 (R206, R208): `off` is
the field's offset within the page, `row` the command. -/
def doorbell (s : State) (m : M2S ⊕ (Fn × Nat)) (row : Instr) (off v : Nat) : State :=
  match m with
  | .inl m => m2sGate s m row true false fun s =>
    match decodeM2S s m with
    | none => refuseM2S s m .wr
    | some d =>
      if isDoorbell s d && d.dla % 0x1000 / 64 == off / 64 then
        sendNdr (putField (leavesIngress s m true) d.seat off v) (msgOf s m (some d) .wr [] 0) .cmp 0
      else s
  | .inr (f, page) =>
    if !linkUpAt s f.port f.link then s
    else fnGate s f row fun s => if fnSeat s f = some page then putField s page off v else dbBad s

/-- SQ_TAIL_DOORBELL (R207). -/
def execSqTailDoorbell (m : M2S ⊕ (Fn × Nat)) (local_ : Fin 64) (val : BitVec 64) (s : State) :
    Host.Outcome State Fault Refusal := .next (doorbell s m (.sqTailDoorbell m local_ val) (16 * local_) val.toNat)

/-- CQ_HEAD_DOORBELL (R207). -/
def execCqHeadDoorbell (m : M2S ⊕ (Fn × Nat)) (local_ : Fin 64) (val : BitVec 64) (s : State) :
    Host.Outcome State Fault Refusal := .next (doorbell s m (.cqHeadDoorbell m local_ val) (16 * local_ + 8) val.toNat)

/-- RING_ENABLE (R207): an SQ setup word with ENABLE 1. -/
def execRingEnable (m : M2S ⊕ (Fn × Nat)) (local_ : Fin 64) (val : BitVec 64) (s : State) :
    Host.Outcome State Fault Refusal := .next (doorbell s m (.ringEnable m local_ val) (0x400 + 16 * local_) (val ||| 1).toNat)

/-- RING_DISABLE (R226): an SQ setup word with ENABLE 0. -/
def execRingDisable (m : M2S ⊕ (Fn × Nat)) (local_ : Fin 64) (val : BitVec 64) (s : State) :
    Host.Outcome State Fault Refusal := .next (doorbell s m (.ringDisable m local_ val) (0x400 + 16 * local_) (val &&& ~~~(1 : BitVec 64)).toNat)

/-- CQ_SETUP (R207). -/
def execCqSetup (m : M2S ⊕ (Fn × Nat)) (local_ : Fin 64) (val : BitVec 64) (s : State) :
    Host.Outcome State Fault Refusal := .next (doorbell s m (.cqSetup m local_ val) (0x400 + 16 * local_ + 8) val.toNat)

/-! ## Checks of a taken descriptor (R485) -/

/-- Conditions of BAD_DESC that depend on the descriptor alone (R214, R215, R217, R219, R220). -/
def badDesc (b : List Byte) : Bool :=
  let op := dOp b
  let f := dFlags b
  let p := dP0 b
  let a := dA b
  let bb := dB b
  let c := dC b
  let la := dLenA b
  let lb := dLenB b
  let g0 := dArg0 b
  let g1 := dArg1 b
  let zero := fun (l : List Nat) => l.all (· == 0)
  let count := fld la 31 0
  let start := fld la 63 32
  let own := fld f 7 4
  bitOf f 3 || fld (dHint b) 6 4 != 0 || fld a 63 52 != 0 || fld bb 63 52 != 0 || fld c 63 52 != 0 ||
  !(match op with
    | 0 => zero [own, p, a, bb, c, la, lb, g0, g1]
    | 1 => zero [own, p, c, lb, g0, g1]
    | 2 => zero [own, p, a, c, lb, g1]
    | 3 => zero [own, fld p 7 1, a, c, lb, g0, g1]
    | 4 => zero [own, g0, g1, fld c 11 1] && decide (fld p 5 4 < 3)
    | 5 => zero [own, g0, g1, fld c 11 1, fld p 3 0] && decide (fld p 5 4 < 3)
    | 6 => zero [own, fld p 7 1, bb, c, lb, g1, fld g0 63 32]
    | 7 => zero [own, p, c, g0, g1] && decide (1 ≤ lb) && decide (lb ≤ 512)
    | 8 => fld f 7 5 == 0 && decide (fld p 3 0 < 12) &&
        (bitOf p 7 || (start % 8 == 0 && decide (ceilDiv count 8 - start / 8 ≤ lb)))
    | 9 => zero [own, fld p 6 3, g0, g1] && decide (fld p 2 0 < 7)
    | 10 => zero [own, p, bb, c, lb, g0, g1] && a % 4096 == 0 && la % 4096 == 0
    | 11 => zero [own, p, bb, c, lb, g0, g1] && a % 4096 == 0 && la % 4096 == 0
    | 12 => zero [own, p, bb, c, la, lb, g0, g1]
    | 13 => zero [own, p, c, g0, g1] && a % 64 == 0 && la % 64 == 0
    | _ => false)

/-- The length of R215 is 0: COUNT for SCAN and GATHER, LEN_A elsewhere; NOP and REKEY have no length. -/
def zeroLength (b : List Byte) : Bool :=
  match dOp b with
  | 0 => false
  | 12 => false
  | 8 => fld (dLenA b) 31 0 == 0
  | 9 => fld (dLenA b) 31 0 == 0
  | _ => dLenA b == 0

/-- The operand ranges of a descriptor (R215): address and length. -/
def operandRanges (b : List Byte) : List (Nat × Nat) :=
  let la := dLenA b
  let lb := dLenB b
  let c := dC b
  let count := fld la 31 0
  match dOp b with
  | 1 => [(dA b, la), (dB b, la)]
  | 2 => [(dB b, la)]
  | 3 => [(dB b, la)]
  | 4 => [(dA b, la), (dB b, lb)] ++ (if bitOf c 0 then [(fld c 51 12 * 4096, 4096)] else [])
  | 5 => [(dA b, la), (dB b, lb)] ++ (if bitOf c 0 then [(fld c 51 12 * 4096, 4096)] else [])
  | 6 => [(dA b, la)]
  | 7 => [(dA b, la), (dB b, lb)]
  | 8 => [(dA b, if bitOf (dFlags b) 4 then 1 else count * 2 ^ fld (dP0 b) 5 4), (dB b, lb)] ++
      (if bitOf c 0 then [(c - 1, ceilDiv count 8)] else [])
  | 9 => [(dA b, 1), (dB b, lb), (c, if bitOf (dP0 b) 7 then ceilDiv count 8 else 4 * count)]
  | 10 => [(dA b, la)]
  | 11 => [(dA b, la)]
  | 12 => [(dA b, 1)]
  | 13 => [(dA b, la), (dB b, lb)]
  | _ => []

/-- The status a taken descriptor completes with before it starts, if any (R485). -/
def descCheck (s : State) (r : Nat) (b : List Byte) : Option Nat :=
  let x := ringAt s r
  if badDesc b then some stBadDesc
  else if !x.ops.getLsbD (dOp b) then some stAccess
  else if zeroLength b then some stOk
  else if (operandRanges b).any (fun q => (seatRange s x.seat q.1 q.2).isNone) then some stAccess
  else none

/-! ## Taking (R209) -/

/-- The service may take a descriptor from the ring. -/
def takeable (x : Ring) : Bool := ringWaits x && decide (x.inflight < 32) && cqRoom x

/-- A budgeted class whose buckets hold, in total, less than 64 bytes for each ONLINE channel (R275). -/
def classDry (s : State) (k : Nat) : Bool :=
  let chs := (List.range 16).filter fun c => (chAt s c).st = .online
  !unbudgeted s k && decide ((chs.map fun c => bucketDepth s k c - bucketSpent s k c).foldl (· + ·) 0 < 64 * chs.length)

/-- The service passes over a class (R275): it is dry and another class has a descriptor waiting. -/
def passedOver (s : State) (k : Nat) : Bool :=
  classDry s k && s.rings.any fun e => e.2.qc != k && ringWaits e.2

/-- The ring the service visits: class order, round-robin by ring number within a class. -/
def pickRing (s : State) : Option Nat :=
  ((List.range 16).filter fun k => !passedOver s k).findSome? fun k =>
    let l := (s.rings.filter fun e => e.2.qc == k && takeable e.2).map (·.1)
    let last := tabGet 0 s.qos.rr k
    match l.find? fun r => decide (last ≤ r) with
    | some r => some r
    | none => l.head?

/-- DESCRIPTOR_TAKE (R209, R485). -/
def execDescriptorTake (s : State) : Host.Outcome State Fault Refusal :=
  match pickRing s with
  | none => .next s
  | some r =>
    match fetchAt s r with
    | none => .next (haltRing s r)
    | some (w, dla) =>
      let n := agentKey (0x10000 + r)
      let (s, ready) := agentLines (agentOpen s n) n w dla 64 false
      if !ready then .next s
      else
        let x := ringAt s r
        let (s, d) := agentRead (agentClose s n) w dla x.qc x.seat
        let s := { s with qos := { s.qos with rr := tabSet 0 s.qos.rr x.qc (r + 1) } }
        let k := descKey r x.sqHead
        match d with
        | none => .next (endDesc (takeDesc s r []) k stPoison 0 0 0)
        | some raw =>
          let s := takeDesc s r raw
          match descCheck s r raw with
          | some st => .next (endDesc s k st 0 0 0)
          | none => .next (tryStart s k)

/-! ## Completion records (R223) -/

/-- The ended descriptor of a ring that completed first. -/
def firstEnded (s : State) (r : Nat) : Option Nat :=
  (s.descs.foldl (fun b e => match e.2 with
    | none => b
    | some d =>
      if ringOfKey e.1 = r ∧ d.st = .ended then
        match b with
        | none => some (e.1, d.endOrd)
        | some (k, o) => if d.endOrd < o then some (e.1, d.endOrd) else some (k, o)
      else b) none).map (·.1)

/-- The descriptor is over: it no longer counts in INFLIGHT. -/
def dropDesc (s : State) (r k : Nat) : State :=
  modRing (modDesc s k fun _ => none) r fun x => { x with inflight := x.inflight - 1 }

/-- The bytes of a completion record (R223). -/
def recordBytes (d : Desc) (index : Nat) (phase : Bool) : List Byte :=
  le 4 d.tag ++ le 2 index ++ le 1 d.status ++ le 1 (b2n phase) ++ le 8 d.r0 ++ le 8 d.r1 ++ le 8 d.r2

/-- A descriptor that was taken at a disable has its fetch read before its record is written (R210, R226): true once it is. -/
def lateFetch (s : State) (r k : Nat) : State × Bool :=
  match descAt s k with
  | none => (s, true)
  | some d =>
    match d.late with
    | none => (s, true)
    | some (w, dla) =>
      let (s, ready) := agentLines s k w dla 64 false
      if !ready then (s, false)
      else
        let (s, b) := agentRead s w dla (ringAt s r).qc (ringAt s r).seat
        let raw := b.getD []
        (modDesc s k fun o => o.map fun d => { d with raw := raw, tag := numAt raw 4 4, late := none, lines := [] }, true)

/-- Writes the record of an ended descriptor at CQ_TAIL (R223): one that cannot be written is dropped, and the ring halts. -/
def putRecord (s : State) (r k index : Nat) (d : Desc) : State :=
  let x := ringAt s r
  match seatRange s x.seat (x.cqBase * 4096 + x.cqTail * 32) 32 with
  | none => haltRing (dropDesc s r k) r
  | some (w, dla) =>
    if accessStatus s w dla 32 (if d.startOrd = 0 then s.stamp else d.startOrd) ≠ stOk then haltRing (dropDesc s r k) r
    else
      let (s, ready) := agentPrepare s k w dla 32 x.qc
      if !ready then s
      else
        match agentPut s k w dla x.qc x.seat (recordBytes d index x.phase) (fun _ => false) with
        | (s, n) =>
          let s := dropDesc s r k
          if n < 32 then haltRing s r
          else
            let wraps := x.cqTail + 1 = ringE x
            let s := modRing s r fun x => { x with
              cqTail := (x.cqTail + 1) % ringE x, phase := if wraps then !x.phase else x.phase }
            let call := (bitOf (dFlags d.raw) 1 || d.status != stOk) && x.vector != 0 && seatServed (seatAt s x.seat)
            if call then msix s x.seat x.vector else s

/-- COMPLETION_RECORD_WRITE (R117, R205, R212, R213, R222, R223). -/
def execCompletionRecordWrite (ring : Fin 8192) (index : Nat) (s : State) : Host.Outcome State Fault Refusal :=
  let r := ring.val
  let k := descKey r index
  match descAt s k with
  | none => .next s
  | some d =>
    if d.st ≠ .ended ∨ firstEnded s r ≠ some k then .next s
    else if bitOf (dFlags d.raw) 2 ∧ d.status = stOk then .next (dropDesc s r k)
    else match lateFetch s r k with
      | (s, false) => .next s
      | (s, true) =>
        match descAt s k with
        | none => .next s
        | some d => .next (putRecord s r k index d)

/-- RING_DRAIN_COMPLETE (R205). -/
def execRingDrainComplete (ring : Fin 8192) (s : State) : Host.Outcome State Fault Refusal :=
  let x := ringAt s ring
  if x.st ≠ .disabling ∨ x.inflight ≠ 0 then .next s
  else if x.removed then .next (modRing s ring fun _ => {})
  else .next (ringEvent (modRing s ring fun x => { x with st := .disabled }) ring sevInfo 2)

end Sys2Proof.Machine
end

