-- ==== Sys2Proof/Machine/Stream.lean ====
section
/-! DEFINITION. The stream service (R156–R169): which contexts a descriptor takes, the history buffer, and what a stream
descriptor does to them. -/

namespace Sys2Proof.Machine

open Sys2Proof

/-! ## Contexts (R161–R163) -/

/-- LEVEL as the format takes it (R156). -/
def normLevel (fmt level : Nat) : Nat := clampN 1 (if fmt = 0 then 3 else 9) level

/-- The context may not be loaded (R163). -/
def ctxRefused (s : State) (c : List Byte) : Bool :=
  let ver := numAt c 0 2
  decide (1 < ver) || (ver == 1 && (numAt c 12 4 != ctxCheck c || numAt c 6 1 != s.boot.stepMajor)) ||
  numAt c 5 1 == 2 || numAt c 5 1 == 3

/-- What a stream descriptor asks for (R156). -/
structure StreamOp where
  comp  : Bool
  fmt   : Nat
  level : Nat
  final : Bool
  flush : Bool
  deriving DecidableEq, Repr

/-- The operation of a descriptor's bytes. -/
def streamOp (raw : List Byte) (comp : Bool) : StreamOp :=
  let p := dP0 raw
  let fmt := fld p 5 4
  { comp := comp, fmt := fmt, level := if comp then normLevel fmt (fld p 3 0) else 0, final := bitOf p 6, flush := bitOf p 7 }

/-- The stream's own operation, format and level are not the descriptor's (R161). -/
def ctxDiffers (c : List Byte) (op : StreamOp) : Bool :=
  numAt c 0 2 == 1 && (numAt c 2 1 != op.fmt || numAt c 3 1 != b2n (!op.comp) || numAt c 4 1 != op.level)

/-! ## The stream (R158–R169) -/

/-- Window of the encoder (R158, R159): a stateless descriptor has no history buffer to bound it. -/
def encWindow (fmt : Nat) (log : Option Nat) : Nat :=
  if fmt = 1 then 32768 else match log with
    | none => 0x100000
    | some l => min 0x100000 (2 ^ l)

/-- Runs the stream: `past` is what came before, reversed, and `log` the size of the history buffer, if there is one. -/
def streamGo (op : StreamOp) (c : Ctx) (past : List Byte) (log : Option Nat) (room : Nat) (input : List Byte) (final flush : Bool) :
    StreamRes :=
  if op.comp then
    streamEncode { fmt := op.fmt, level := op.level, window := encWindow op.fmt log } c past room input final flush
  else if op.fmt = 0 then plzDecompress c room input final
  else if op.fmt = 1 then deflDecompress c (past.take 32768) room input final
  else zstdDecompress c past (match log with
    | none => 0x800000
    | some l => 2 ^ l) room input final

/-- A stream that meets a poisoned input line ends with POISON unless it has ended before that line (R168). -/
def poisonEnd (r : StreamRes) : StreamRes := if r.status = stOk && r.st != 2 then { r with status := stPoison, st := 1 } else r

/-- A stream that stops for storage that does not exist ends with CAPACITY, at its checkpoint (R213). -/
def capacityEnd (r : StreamRes) : StreamRes := if r.st = 1 then { r with status := stCapacity } else r

/-- The checkpoint where the stream stands, with nothing done (R168): a new stream is initialised (R161). -/
def streamStill (op : StreamOp) (c : Ctx) (log : Option Nat) (status : Nat) : StreamRes :=
  { status := status, ctx := if c.ver = 0 then (streamGo op c [] log 0 [] false false).ctx else c }

/-- The context after a descriptor (R162): its totals, its history, and how it ended. -/
def ctxAfter (op : StreamOp) (c : Ctx) (r : StreamRes) : Ctx :=
  let moved := if op.fmt = 0 then 0 else if op.comp then r.used else r.out.length
  { r.ctx with
    ver := 1, fmt := op.fmt, dir := b2n (!op.comp), level := op.level, st := r.st, err := r.err, errOff := r.errOff,
    tin := c.tin + r.used, tout := c.tout + r.out.length, histAddr := c.histAddr, histLog := c.histLog,
    histPos := (c.histPos + moved) % 2 ^ c.histLog, histFill := min (2 ^ c.histLog) (c.histFill + moved) }

/-! ## The history buffer (R164) -/

/-- What a history buffer holds, newest first: `buf` are its first HIST_FILL bytes. -/
def histPast (c : Ctx) (buf : List Byte) : List Byte :=
  let n := 2 ^ c.histLog
  (List.range c.histFill).map fun i => buf.getD ((c.histPos + n - 1 - i % n) % n) 0

/-- Writes bytes into the history buffer at `dla`, circularly from HIST_POS: true where all are written. -/
def histPut (s : State) (k w dla : Nat) (c : Ctx) (qc seat : Nat) (b : List Byte) : State × Bool :=
  let n := 2 ^ c.histLog
  let kept := b.drop (b.length - n)
  let pos := (c.histPos + (b.length - kept.length)) % n
  let first := kept.take (n - pos)
  let (s, x) := agentPut s k w (dla + pos) qc seat first fun _ => false
  let (s, y) := agentPut s k w dla qc seat (kept.drop first.length) fun _ => false
  (s, decide (x = first.length) && decide (y = kept.length - first.length))

end Sys2Proof.Machine
end

