-- ==== Sys2Proof/Machine/RingOps.lean ====
section
/-! DEFINITION. The operations of ring descriptors (R215–R222), one meaning for each opcode, and the ring-op limit
(R225). -/

namespace Sys2Proof.Machine

open Sys2Proof

/-- What a running descriptor names: its key, bytes, ring and the stamp of its start. -/
structure Running where
  k     : Nat
  b     : List Byte
  seat  : Nat
  qc    : Nat
  since : Nat
  deriving DecidableEq, Repr

/-- The descriptor of opcode `op` that is running at an SQ index of a ring. -/
def running (s : State) (r i op : Nat) : Option Running :=
  match descAt s (descKey r i) with
  | some d =>
    if d.st = .started ∧ d.metaWait = 0 ∧ dOp d.raw = op then
      some { k := descKey r i, b := d.raw, seat := (ringAt s r).seat, qc := (ringAt s r).qc, since := d.startOrd }
    else none
  | none => none

/-- Runs the meaning of a descriptor, where it is running. -/
def onDesc (s : State) (r i op : Nat) (f : Running → State → State) : State :=
  match running s r i op with
  | some d => f d s
  | none => s

/-- Station of the spindle that runs a descriptor (R289). -/
def descStation (s : State) (d : Running) : Nat :=
  (spindles.find? fun n => (spnAt s n).slots.any fun x => x.2.job == .desc (ringOfKey d.k) (d.k % 0x10000)).getD 0

/-- Station that answers for a flit which does not reach its port: the one before the first failed link, else the port's own
(R300, R301). -/
def flitStop (s : State) (src dst lp : Nat) : Option Nat :=
  if flitReaches s src dst lp then none else some ((routeBreak s src dst).getD dst)

/-- Station that stops an access to a line on its way from a spindle: to its creel slice in an HDM-DB window, to its skein
slice, and from there to the channels of what is stored (R12, R300, R301). -/
def lineBreak (s : State) (src w dla : Nat) : Option Nat :=
  let skn := sliceStation (sknSlice dla)
  let lines := match skeinPeek s w dla with
    | .hot line _ _ => [line]
    | .comp run o len _ => runLines run o (8 * len)
    | _ => []
  ((if isDb s w then flitStop s src (sliceStation (crlSlice dla)) 1 else none).or (flitStop s src skn 2)).or
    (lines.findSome? fun l => flitStop s skn (chStation (chOfLine s l)) 1)

/-- The first line of a range whose access is stopped, and the station that stops it. -/
def rangeBreak (s : State) (src w dla len : Nat) : Option (Nat × Nat) :=
  if s.stations.all fun e => e.2.dead == 0 && e.2.linkFail == 0 then none
  else (List.range (spanLines dla len)).findSome? fun i =>
    (lineBreak s src w ((dla / 64 + i) * 64)).map fun u => ((dla / 64 + i) * 64, u)

/-- A descriptor's access gets an error response of a station, counted there and logged (R89, R300, R306). -/
def descError (s : State) (d : Running) (w dla u : Nat) : State :=
  logEvFor (errorResponse s u 0 0 false) 0 0x3002 sevErr (le 2 d.seat ++ le 8 dla ++ kindByte 89 1) [d.seat] [w]

/-- No error response can come back for a range: its own route crosses a failed link (R301). -/
def unanswered (s : State) (d : Running) (w dla len : Nat) : Bool :=
  match rangeBreak s (descStation s d) w dla len with
  | some (_, u) => (routeBreak s u (descStation s d)).isSome
  | none => false

/-- An operand range, with the status of touching it now (R210, R224): its window and DLA. -/
def operand (s : State) (d : Running) (hpa len : Nat) : Except Nat (Nat × Nat) :=
  match seatRange s d.seat hpa len with
  | none => .error stAccess
  | some (w, dla) =>
    let st := accessStatus s w dla len d.since
    if st ≠ stOk then .error st
    else if (rangeBreak s (descStation s d) w dla len).isSome then .error stAborted
    else .ok (w, dla)

/-- What touching a range with a status leaves: the error response of an ABORTED one, counted and logged; none where no answer
comes, so that the descriptor runs on until its limit (R225, R301). -/
def operandNote (s : State) (d : Running) (hpa len st : Nat) : Option State :=
  if st ≠ stAborted then some s
  else match seatRange s d.seat hpa len with
    | none => some s
    | some (w, dla) =>
      if unanswered s d w dla len then none
      else match rangeBreak s (descStation s d) w dla len with
        | some (l, u) => some (descError s d w l u)
        | none => some s

/-- A range may not be touched: the descriptor ends with the status. -/
def operandFails (s : State) (d : Running) (hpa len st r2 : Nat) : State :=
  match operandNote s d hpa len st with
  | some t => endDesc t d.k st 0 0 r2
  | none => s

/-- With two operand ranges that may be touched. -/
def withOperand (s : State) (d : Running) (hpa len : Nat) (f : Nat → Nat → State) : State :=
  match operand s d hpa len with
  | .error st => operandFails s d hpa len st 0
  | .ok (w, dla) => f w dla

/-- The lines of a range as the descriptor's seat reads them: a seat without PERF_READ sees zeros in the telemetry buffers
(R453). -/
def descSpan (s : State) (d : Running) (w dla len : Nat) : State × List (Option (List Byte)) :=
  let (s, ls) := agentSpan s w dla len d.qc d.seat
  if (seatAt s d.seat).perfRead then (s, ls)
  else (s, (List.range ls.length).map fun i =>
    if isTelemetry s w ((dla / 64 + i) * 64) then some zeroLine else ls.getD i none)

/-- A range meets the telemetry buffers while dumps run (R453). -/
def telemetryMet (s : State) (w dla len : Nat) : Bool :=
  s.pmu.en && (List.range (spanLines dla len)).any fun i => isTelemetry s w ((dla / 64 + i) * 64)

/-- With an operand range that the descriptor writes: one that meets the telemetry buffers while dumps run ends it with
ACCESS (R453). -/
def withTarget (s : State) (d : Running) (hpa len : Nat) (f : Nat → Nat → State) : State :=
  withOperand s d hpa len fun w dla =>
    if telemetryMet s w dla len then
      endDesc s d.k stAccess 0 0 0
    else f w dla

/-- Writes the result of an operation: where storage is missing it ends with CAPACITY and the results that `short` gives for
the bytes written, else as `fin` says (R213, R215). -/
def putResult (s : State) (d : Running) (w dla : Nat) (bytes : List Byte) (bad : Nat → Bool) (short : Nat → Nat × Nat × Nat)
    (fin : State → State) : State :=
  let (s, n) := agentPut s d.k w dla d.qc d.seat bytes bad
  if n < bytes.length then endDesc s d.k stCapacity (short n).1 (short n).2.1 (short n).2.2
  else fin s

/-! ## NOP, COPY, FILL, ZERO (R215, R216) -/

/-- NOP (R215). -/
def execNop (ring : Fin 8192) (index : Nat) (s : State) : Host.Outcome State Fault Refusal :=
  .next (onDesc s ring index 0 fun d s => endDesc s d.k stOk 0 0 0)

/-- COPY (R216): through a temporary buffer; poisoned source lines poison what they are written to. -/
def execCopy (ring : Fin 8192) (index : Nat) (s : State) : Host.Outcome State Fault Refusal :=
  .next (onDesc s ring index 1 fun d s =>
    let len := dLenA d.b
    withOperand s d (dA d.b) len fun wa a => withTarget s d (dB d.b) len fun wb b =>
      let (s, r1) := agentLines s d.k wa a len false
      let (s, r2) := agentPrepare s d.k wb b len d.qc
      if !(r1 && r2) then s
      else
        let (s, ls) := descSpan s d wa a len
        let bytes := spanBytes ls a len
        let poisoned := fun (i : Nat) => (ls.getD ((a + i) / 64 - a / 64) (some [])).isNone
        let bad := fun (l : Nat) =>
          let lo := l * 64 - b
          let hi := min len (l * 64 + 64 - b)
          poisoned lo || poisoned (hi - 1)
        let badIn := fun (done : Nat) =>
          ((List.range (spanLines b len)).filter fun i => bad (b / 64 + i) && decide ((b / 64 + i) * 64 < b + done)).length
        putResult s d wb b bytes bad (fun n => (n, badIn n, 0)) fun s =>
          endDesc s d.k (if badIn len = 0 then stOk else stPoison) len (badIn len) 0)

/-- FILL (R216): byte i takes byte (i mod 8) of ARG0. -/
def execFill (ring : Fin 8192) (index : Nat) (s : State) : Host.Outcome State Fault Refusal :=
  .next (onDesc s ring index 2 fun d s =>
    let len := dLenA d.b
    withTarget s d (dB d.b) len fun w dla =>
      let (s, ready) := agentPrepare s d.k w dla len d.qc
      if !ready then s
      else
        let pat := le 8 (dArg0 d.b)
        putResult s d w dla ((List.range len).map fun i => pat.getD (i % 8) 0) (fun _ => false) (fun n => (n, 0, 0))
          fun s => endDesc s d.k stOk len 0 0)

/-- Sends a META record to the partner, or sets DIRTY where the window is not in SYNC (R343): true where a record was
sent that the operation must wait for. -/
def sendMeta (s : State) (w kind dla : Nat) (desc : Option Nat) : State × Bool :=
  if mirrorPrimary s w then
    let b : PlyBody := .metaRec w kind dla
    match portFor s b with
    | some p =>
      if (winAt s w).ms = .sync then
        let q := nextSeq s p
        let s := plySend s p b
        ({ s with pair := { s.pair with ops := s.pair.ops ++ [(p, .metaRec w dla kind q desc)] } }, true)
      else (setDirty s w (hankOff s w dla), false)
    | none => (setDirty s w (hankOff s w dla), false)
  else (s, false)

/-- Whole aligned pages inside a DLA range. -/
def wholePages (dla len : Nat) : List Nat :=
  let first := ceilDiv dla 0x1000
  (List.range ((dla + len) / 0x1000 - first)).map fun i => (first + i) * 0x1000

/-- Unmaps pages, and tells the partner of each; the answer counts the records to wait for. -/
def unmapPages (w k : Nat) : List Nat → State → Nat → State × Nat
  | [], s, n => (s, n)
  | a :: t, s, n =>
    let s := unmapPage s w (hankOff s w a) (pageNo a)
    let (s, waits) := sendMeta s w 1 a (some k)
    unmapPages w k t s (n + b2n waits)

/-- A descriptor ends once the partner has acknowledged the `n` records that it sent (R343). -/
def endAfter (s : State) (k n status r0 r1 : Nat) : State :=
  if n = 0 then endDesc s k status r0 r1 0
  else modDesc s k fun o => o.map fun x => { x with metaWait := n, status := status, r0 := r0, r1 := r1 }

/-- ZERO (R216). With UNMAP, whole pages of an elastic window are unmapped and what lies outside them is zeroed. -/
def execZero (ring : Fin 8192) (index : Nat) (s : State) : Host.Outcome State Fault Refusal :=
  .next (onDesc s ring index 3 fun d s =>
    let len := dLenA d.b
    withTarget s d (dB d.b) len fun w dla =>
      let pages := if bitOf (dP0 d.b) 0 && (winAt s w).elastic then wholePages dla len else []
      let head := if pages = [] then len else pages.headD 0 - dla
      let tail := if pages = [] then 0 else dla + len - (pages.getLastD 0 + 0x1000)
      let (s, r1) := agentLines s d.k w dla len true
      let (s, r2) := agentReady d.k w d.qc (spanLines dla head) s (dla / 64 * 64)
      let (s, r3) := agentReady d.k w d.qc (spanLines (dla + len - tail) tail) s ((dla + len - tail) / 64 * 64)
      if !(r1 && r2 && r3) then s
      else
        let zeros := fun (n : Nat) => List.replicate n (0 : Byte)
        putResult s d w dla (zeros head) (fun _ => false) (fun n => (n, 0, 0)) fun s =>
          let (s, n) := unmapPages w d.k pages s 0
          let (s, m) := agentPut s d.k w (dla + len - tail) d.qc d.seat (zeros tail) fun _ => false
          endAfter s d.k n (if m < tail then stCapacity else stOk) (len - tail + m) pages.length)

/-! ## CRC and HASH (R217) -/

/-- Bytes of an input range before its first poisoned line. -/
def goodLen (ls : List (Option (List Byte))) (dla len : Nat) : Nat :=
  match spanPoison ls with
  | some i => min len ((dla / 64 + i) * 64 - dla)
  | none => len

/-- CRC (R217). -/
def execCrc (ring : Fin 8192) (index : Nat) (s : State) : Host.Outcome State Fault Refusal :=
  .next (onDesc s ring index 6 fun d s =>
    let len := dLenA d.b
    withOperand s d (dA d.b) len fun w dla =>
      let (s, ready) := agentLines s d.k w dla len false
      if !ready then s
      else
        let (s, ls) := descSpan s d w dla len
        let n := goodLen ls dla len
        let c := crcOf (if bitOf (dP0 d.b) 0 then poly32 else polyC) (dArg0 d.b) ((spanBytes ls dla len).take n)
        endDesc s d.k (if (spanPoison ls).isSome then stPoison else stOk) c n 0)

/-- HASH (R217). -/
def execHash (ring : Fin 8192) (index : Nat) (s : State) : Host.Outcome State Fault Refusal :=
  .next (onDesc s ring index 7 fun d s =>
    let len := dLenA d.b
    let out := dLenB d.b
    withOperand s d (dA d.b) len fun wa a => withTarget s d (dB d.b) out fun wb b =>
      let (s, r1) := agentLines s d.k wa a len false
      let (s, r2) := agentPrepare s d.k wb b out d.qc
      if !(r1 && r2) then s
      else
        let (s, ls) := descSpan s d wa a len
        if (spanPoison ls).isSome then endDesc s d.k stPoison (goodLen ls a len) 0 0
        else putResult s d wb b (shake256 (spanBytes ls a len) out) (fun _ => false) (fun n => (len, n, 0))
          fun s => endDesc s d.k stOk len out 0)

/-! ## COMPRESS and DECOMPRESS (R156–R169, R218) -/

/-- The input of a stream descriptor, up to its first poisoned line, and whether there is one (R168). -/
structure StreamIn where
  bytes : List Byte
  bad   : Bool
  deriving DecidableEq, Repr

/-- Reads the input of a stream descriptor. -/
def streamInput (s : State) (d : Running) (wa a : Nat) : State × StreamIn :=
  let (s, ls) := descSpan s d wa a (dLenA d.b)
  (s, { bytes := (spanBytes ls a (dLenA d.b)).take (goodLen ls a (dLenA d.b)), bad := (spanPoison ls).isSome })

/-- What the stream does with its input and `room` bytes of output: a poisoned line takes FINAL and FLUSH from it. -/
def streamTry (op : StreamOp) (c : Ctx) (past : List Byte) (log : Option Nat) (i : StreamIn) (final : Bool) (room : Nat) : StreamRes :=
  let r := streamGo op c past log room i.bytes (final && !i.bad) (op.flush && !i.bad)
  if i.bad then poisonEnd r else r

/-- Writes the output of a stream. Where storage is missing, the stream does what the room that there is allows (R213). -/
def streamOut (s : State) (d : Running) (wb b : Nat) (try_ : Nat → StreamRes) : State × StreamRes :=
  let r := try_ (dLenB d.b)
  let (t, n) := agentPut s d.k wb b d.qc d.seat r.out fun _ => false
  if n < r.out.length then
    let r := capacityEnd (try_ n)
    ((agentPut s d.k wb b d.qc d.seat r.out fun _ => false).1, r)
  else (t, r)

/-- A stream descriptor ends with its results (R169, R218). -/
def streamEnd (s : State) (d : Running) (r : StreamRes) : State :=
  endDesc s d.k r.status r.used r.out.length (r.err + r.errOff * 0x10000)

/-- A stateless stream descriptor: a COMPRESS carries its whole stream. -/
def streamAlone (s : State) (d : Running) (op : StreamOp) (wa a wb b : Nat) : State :=
  let (s, i) := streamInput s d wa a
  let (s, r) := streamOut s d wb b (streamTry op {} [] none i (op.final || op.comp))
  streamEnd s d r

/-- Writes the context back (R163), and ends the descriptor. -/
def streamSave (s : State) (d : Running) (op : StreamOp) (c : Ctx) (wc cd : Nat) (r : StreamRes) : State :=
  let (s, n) := agentPut s d.k wc cd d.qc d.seat (ctxBytes s.boot.stepMajor (ctxAfter op c r)) fun _ => false
  streamEnd s d (if n < 4096 then { r with status := stCapacity } else r)

/-- A stream descriptor with a context and, but for PLZ, a history buffer at `h` that it may touch: output, history and context
are written, in this order. Where the history cannot be, the stream stays where it stood (log entry 107). -/
def streamWith (s : State) (d : Running) (op : StreamOp) (c : Ctx) (wc cd : Nat) (h : Option (Nat × Nat)) (wa a wb b : Nat) : State :=
  let (s, buf) := match h with
    | none => (s, [])
    | some (wh, hd) => descSpan s d wh hd c.histFill
  let log := if op.fmt = 0 then none else some c.histLog
  let past := histPast c (spanBytes buf 0 c.histFill)
  if (spanPoison buf).isSome then streamSave s d op c wc cd (streamStill op c log stPoison)
  else
    let (s, i) := streamInput s d wa a
    let (t, r) := streamOut s d wb b (streamTry op c past log i op.final)
    match h with
    | none => streamSave t d op c wc cd r
    | some (wh, hd) =>
      let (t, ok) := histPut t d.k wh hd c d.qc d.seat (if op.comp then i.bytes.take r.used else r.out)
      if ok then streamSave t d op c wc cd r
      else streamSave s d op c wc cd (streamStill op c log stCapacity)

/-- A stream descriptor that has a context at `wc`, `cd`: the context is loaded and checked (R161, R163, R164). -/
def streamHeld (s : State) (d : Running) (op : StreamOp) (wc cd wa a wb b : Nat) : State :=
  let (s, cl) := descSpan s d wc cd 4096
  let raw := spanBytes cl cd 4096
  if (spanPoison cl).isSome then endDesc s d.k stPoison 0 0 0
  else if ctxRefused s raw || ctxDiffers raw op then endDesc s d.k stBadDesc 0 0 0
  else
    let c := ctxOf raw
    if op.fmt = 0 then streamWith s d op c wc cd none wa a wb b
    else if c.histLog < 15 ∨ 23 < c.histLog then endDesc s d.k stBadDesc 0 0 0
    else
      match operand s d c.histAddr (2 ^ c.histLog) with
      | .error st =>
        match operandNote s d c.histAddr (2 ^ c.histLog) st with
        | some s => streamSave s d op c wc cd (streamStill op c (some c.histLog) st)
        | none => s
      | .ok (wh, hd) =>
        let (s, ready) := agentPrepare s d.k wh hd (2 ^ c.histLog) d.qc
        if !ready then s else streamWith s d op c wc cd (some (wh, hd)) wa a wb b

/-- A stream descriptor (R156, R163, R218). -/
def streamDesc (s : State) (d : Running) (comp : Bool) : State :=
  let op := streamOp d.b comp
  let la := dLenA d.b
  let lb := dLenB d.b
  withOperand s d (dA d.b) la fun wa a => withTarget s d (dB d.b) lb fun wb b =>
    let (s, r1) := agentLines s d.k wa a la false
    let (s, r2) := agentPrepare s d.k wb b lb d.qc
    match dCtx d.b with
    | none => if !(r1 && r2) then s else streamAlone s d op wa a wb b
    | some p =>
      withOperand s d p 4096 fun wc cd =>
        let (s, r3) := agentPrepare s d.k wc cd 4096 d.qc
        if !(r1 && r2 && r3) then s else streamHeld s d op wc cd wa a wb b

/-- COMPRESS (R218). -/
def execCompress (ring : Fin 8192) (index : Nat) (s : State) : Host.Outcome State Fault Refusal :=
  .next (onDesc s ring index 4 fun d s => streamDesc s d true)

/-- DECOMPRESS (R218). -/
def execDecompress (ring : Fin 8192) (index : Nat) (s : State) : Host.Outcome State Fault Refusal :=
  .next (onDesc s ring index 5 fun d s => streamDesc s d false)

/-! ## SCAN (R219) -/

/-- A number of W bytes, read with the element's signedness. -/
def elemVal (w : Nat) (signed : Bool) (n : Nat) : Int :=
  let m := n % 2 ^ (8 * w)
  if signed && decide (2 ^ (8 * w - 1) ≤ m) then (m : Int) - 2 ^ (8 * w) else m

/-- The predicate PRED on an element's bits, with the comparison values' bits (R219). -/
def scanPred (pred w : Nat) (signed : Bool) (x a b : Nat) : Bool :=
  let m := 2 ^ (8 * w)
  let xv := elemVal w signed x
  let av := elemVal w signed a
  let bv := elemVal w signed b
  match pred with
  | 0 => decide (xv = av)
  | 1 => decide (xv ≠ av)
  | 2 => decide (xv < av)
  | 3 => decide (xv ≤ av)
  | 4 => decide (xv > av)
  | 5 => decide (xv ≥ av)
  | 6 => decide (av ≤ xv) && decide (xv ≤ bv)
  | 7 => decide (xv < av) || decide (xv > bv)
  | 8 => (x % m) &&& (a % m) == a % m
  | 9 => (x % m) &&& (a % m) != 0
  | 10 => (x % m) &&& (a % m) == 0
  | _ => true

/-- Emitted elements from `i` up to `n` (R219). -/
def scanEmit (test : Nat → Bool) : Nat → Nat → List Nat
  | 0, _ => []
  | n + 1, i => if test i then i :: scanEmit test n (i + 1) else scanEmit test n (i + 1)

/-- The output bitmap of elements START to `n` − 1 (R219). -/
def scanBitmap (hits : List Nat) (start n : Nat) : List Byte :=
  (List.range (ceilDiv n 8 - start / 8)).map fun k =>
    BitVec.ofNat 8 ((List.range 8).foldl (fun a j => if hits.contains (start + 8 * k + j) then a + 2 ^ j else a) 0)

/-- What the decoding of a framed column gave. -/
structure PlzCol where
  out  : List Byte
  /-- The status that ended it: where a line was poisoned, `out` ends at its record's start. -/
  st   : Nat := stOk
  /-- A read that must wait for its lines' holders: DLA and length (R210). -/
  wait : Option (Nat × Nat) := none
  deriving DecidableEq, Repr

/-- One read of a framed column, checked as it is made (R219). -/
def plzTouch (s : State) (d : Running) (w limit dla len : Nat) : State × PlzCol :=
  if limit < dla + len then (s, { out := [], st := stAccess })
  else if accessStatus s w dla len d.since ≠ stOk then (s, { out := [], st := accessStatus s w dla len d.since })
  else if unanswered s d w dla len || !(agentLines s d.k w dla len false).2 then (s, { out := [], wait := some (dla, len) })
  else match rangeBreak s (descStation s d) w dla len with
    | some (l, u) => (descError s d w l u, { out := [], st := stAborted })
    | none =>
      let (s, ls) := descSpan s d w dla len
      (s, { out := spanBytes ls dla len, st := if (spanPoison ls).isSome then stPoison else stOk })

/-- Decodes records of a PLZ framed column from DLA `dla` on, up to `need` bytes (R219). -/
def scanPlz (w limit need : Nat) (d : Running) : Nat → State → Nat → List Byte → State × PlzCol
  | 0, s, _, out => (s, { out := out })
  | n + 1, s, dla, out =>
    if need ≤ out.length then (s, { out := out })
    else
      let (s, h) := plzTouch s d w limit dla 4
      if h.st ≠ stOk ∨ h.wait ≠ none then (s, { h with out := out })
      else
        let enc := numAt h.out 0 2
        let dec := numAt h.out 2 2
        if 512 < enc ∨ dec = 0 ∨ 512 < dec ∨ dec < enc then (s, { out := out, st := stBadDesc })
        else
          let (s, r) := plzTouch s d w limit dla (4 + enc)
          if r.st ≠ stOk ∨ r.wait ≠ none then (s, { r with out := out })
          else
            let body := r.out.drop 4
            let x := if enc = 0 then some (List.replicate dec 0) else if enc = dec then some body else plzDecode body dec
            match x with
            | none => (s, { out := out, st := stBadDesc })
            | some x => scanPlz w limit need d n s (dla + 4 + enc) (out ++ x)

/-- Highest DLA a framed column may be read to: the end of its alias range. -/
def windowEnd (s : State) (w : Nat) : Nat := (winAt s w).dlaHank * 0x200000 + winBytes (winAt s w)

/-- SCAN (R219). -/
def execScan (ring : Fin 8192) (index : Nat) (s : State) : Host.Outcome State Fault Refusal :=
  .next (onDesc s ring index 8 fun d s =>
    let p := dP0 d.b
    let width := 2 ^ fld p 5 4
    let signed := bitOf p 6
    let list := bitOf p 7
    let plz := bitOf (dFlags d.b) 4
    let count := fld (dLenA d.b) 31 0
    let start := fld (dLenA d.b) 63 32
    let lb := dLenB d.b
    let colLen := if plz then 1 else count * width
    withOperand s d (dA d.b) colLen fun wa a => withTarget s d (dB d.b) lb fun wb b =>
      let selLen := ceilDiv count 8
      let sel := if bitOf (dC d.b) 0 then operand s d (dC d.b - 1) selLen else .ok (wa, a)
      match sel with
      | .error st => operandFails s d (dC d.b - 1) selLen st start
      | .ok (wc, c) =>
        let hasSel := bitOf (dC d.b) 0
        let outLen := if list then lb else ceilDiv count 8 - start / 8
        -- what is read begins at START, but for a framed column, which is decoded from its first record
        let lo := if plz then 0 else min start count
        let colAt := a + lo * width
        let readLen := if plz then 1 else (count - lo) * width
        let slo := min (start / 8) selLen
        let (s, r1) := agentLines s d.k wa colAt readLen false
        let (s, r2) := agentPrepare s d.k wb b outLen d.qc
        let (s, r3) := if hasSel then agentLines s d.k wc (c + slo) (selLen - slo) false else (s, true)
        let framed := scanPlz wa (windowEnd s wa) (count * width) d (count * width + 1) s a []
        if !(r1 && r2 && r3) then s
        else if plz && framed.2.wait.isSome then
          (match framed.2.wait with
            | some (dla, len) => (agentLines s d.k wa dla len false).1
            | none => s)
        else
          let (s, selLs) := if hasSel then descSpan s d wc (c + slo) (selLen - slo) else (s, [])
          let selB := spanBytes selLs (c + slo) (selLen - slo)
          let (s, col, st) :=
            if plz then
              let (s, f) := scanPlz wa (windowEnd s wa) (count * width) d (count * width + 1) s a []
              (s, f.out, f.st)
            else
              let (s, ls) := descSpan s d wa colAt readLen
              let n := goodLen ls colAt readLen
              (s, (spanBytes ls colAt readLen).take n, if (spanPoison ls).isSome then stPoison else stOk)
          -- elements that can be accounted for: a poisoned line stops at its first element (R219)
          let colGood := lo + col.length / width
          let selGood := if hasSel then (match spanPoison selLs with
            | some i => (((c + slo) / 64 + i) * 64 - c) * 8
            | none => count) else count
          let good := min count (min colGood selGood)
          let st := if good < count ∧ st = stOk then stPoison else if good = count then stOk else st
          let test := fun (i : Nat) =>
            (!hasSel || (selB.getD (i / 8 - slo) 0).getLsbD (i % 8)) &&
            scanPred (fld p 3 0) width signed (numAt col ((i - lo) * width) width) (dArg0 d.b) (dArg1 d.b)
          if list then
            let hits := scanEmit test (good - start) start
            let fits := hits.take (lb / 4)
            let full := fits.length < hits.length
            let next := if full then hits.getD fits.length 0 else max start good
            putResult s d wb b (fits.flatMap (le 4)) (fun _ => false) (fun n => (n / 4, n, fits.getD (n / 4) next)) fun s =>
              endDesc s d.k (if full then stOutputFull else st) fits.length (4 * fits.length) next
          else
            let upto := if st = stOk then count else max start (good / 8 * 8)
            let hits := scanEmit test (upto - start) start
            let out := scanBitmap hits start upto
            let below := fun (e : Nat) => (hits.filter fun i => decide (i < e)).length
            putResult s d wb b out (fun _ => false) (fun n => (below (start + 8 * n), n, start + 8 * n)) fun s =>
              endDesc s d.k st hits.length out.length (max start upto))

/-! ## GATHER (R220) -/

/-- What a GATHER has made so far. -/
structure Gath where
  out    : List Byte := []
  /-- Poisoned bytes of the output: whether each byte came from a poisoned line. -/
  bad    : List Bool := []
  n      : Nat := 0
  /-- The positions that yielded its elements, in order. -/
  pos    : List Nat := []
  poison : Bool := false
  deriving DecidableEq, Repr

/-- Consumes positions from `i` on (R220). The answer is what was made, the first position not consumed and the status. -/
def gatherLoop (d : Running) (width lb aHpa : Nat) (wa : Nat) (pick : Nat → Except Nat (Option Nat)) :
    Nat → State → Nat → Gath → State × Gath × Nat × Nat
  | 0, s, i, g => (s, g, i, if g.poison then stPoison else stOk)
  | n + 1, s, i, g =>
    match pick i with
    | .error st => (s, g, i, st)
    | .ok none => gatherLoop d width lb aHpa wa pick n s (i + 1) g
    | .ok (some e) =>
      if lb < g.out.length + width then (s, g, i, stOutputFull)
      else
        match seatRange s d.seat (aHpa + e * width) width with
        | none => (s, g, i, stAccess)
        | some (w, dla) =>
          let st := if w = wa then accessStatus s w dla width d.since else stAccess
          if st ≠ stOk then (s, g, i, st)
          else match rangeBreak s (descStation s d) w dla width with
          | some (l, u) => (descError s d w l u, g, i, stAborted)
          | none =>
            let (s, ls) := descSpan s d w dla width
            let p := (spanPoison ls).isSome
            gatherLoop d width lb aHpa wa pick n s (i + 1)
              { out := g.out ++ spanBytes ls dla width, bad := g.bad ++ List.replicate width p, n := g.n + 1,
                pos := g.pos ++ [i], poison := g.poison || p }

/-- GATHER (R220). -/
def execGather (ring : Fin 8192) (index : Nat) (s : State) : Host.Outcome State Fault Refusal :=
  .next (onDesc s ring index 9 fun d s =>
    let p := dP0 d.b
    let width := 2 ^ fld p 2 0
    let bits := bitOf p 7
    let count := fld (dLenA d.b) 31 0
    let start := fld (dLenA d.b) 63 32
    let lb := dLenB d.b
    let cl := if bits then ceilDiv count 8 else 4 * count
    withOperand s d (dA d.b) 1 fun wa _ => withTarget s d (dB d.b) lb fun wb b => withOperand s d (dC d.b) cl fun wc c =>
      -- what is read of C begins at START
      let lo := min cl (if bits then start / 8 else 4 * start)
      let (s, r1) := agentLines s d.k wc (c + lo) (cl - lo) false
      let (s, r2) := agentPrepare s d.k wb b lb d.qc
      if !(r1 && r2) then s
      else
        let (s, cls) := descSpan s d wc (c + lo) (cl - lo)
        let cb := spanBytes cls (c + lo) (cl - lo)
        let lineOk := fun (i : Nat) => (cls.getD ((c + i) / 64 - (c + lo) / 64) none).isSome
        let pick := fun (i : Nat) =>
          if bits then
            (if lineOk (i / 8) then .ok (if (cb.getD (i / 8 - lo) 0).getLsbD (i % 8) then some i else none) else .error stPoison)
          else if lineOk (4 * i) && lineOk (4 * i + 3) then .ok (some (numAt cb (4 * i - lo) 4)) else .error stPoison
        -- the column lines that the positions name are snooped before any is read
        let elems := (List.range (count - start)).filterMap fun j => match pick (start + j) with
          | .ok o => o
          | .error _ => none
        let (s, ready) := (elems.take (lb / width)).foldl (fun (q : State × Bool) e =>
          match seatRange q.1 d.seat (dA d.b + e * width) width with
          | some (w, dla) =>
            let (t, r) := agentLines q.1 d.k w dla width false
            (t, q.2 && r && !unanswered t d w dla width)
          | none => q) (s, true)
        if !ready then s
        else
          let (s, g, next, st) := gatherLoop d width lb (dA d.b) wa pick (count - start) s start {}
          let badLine := fun (l : Nat) => (List.range 64).any fun j =>
            decide (b ≤ l * 64 + j) && g.bad.getD (l * 64 + j - b) false
          putResult s d wb b g.out badLine (fun n => (n / width, n, g.pos.getD (n / width) next)) fun s =>
            endDesc s d.k st g.n g.out.length (max start next))

/-! ## PROMOTE and DEMOTE (R221) -/

/-- A descriptor promotes one page itself (R135). True where it changed the page. -/
def promoteNow (qc : Nat) (s : State) (w off pg : Nat) : State × Bool :=
  let pk := pageKey w off pg
  let h := hankAt s w off
  let p := pageAt s pk
  let (s, frame) := if h.guar then (s, some (homeFrame h pg)) else allocFrame s
  match frame with
  | none => (s, false)
  | some f =>
    let dla := pageDla s w off pg
    let (s, ls) := readUnit w off (some pg) p.kgen none qc (runGranules p.len * 4) s (p.addr * 4) []
    let (s, out) := decodePage w dla p ls 8 s []
    let k := slotOf s w
    let s := writeUnit k.cur k.gen qc s (frameLine f) out
    let s := dropLcache s dla 64
    let s := putPage s w off pg { p with tier := .hot, addr := f, kgen := k.gen, len := [], pmask := 0, incomp := false }
    let s := if runGranules p.len = 0 then s else freeRun s p.addr
    (tryDirect (bump s (cardBase + 0x40)) w off, true)

/-- A descriptor demotes one page itself (R137). True where it changed the page. -/
def demoteNow (qc : Nat) (s : State) (w off pg : Nat) : State × Bool :=
  let s := directToPaged s w off
  let pk := pageKey w off pg
  let p := pageAt s pk
  let (s, ls) := readUnit w off (some pg) p.kgen (some (pageDla s w off pg)) qc 64 s (frameLine p.addr) []
  if !ls.all Option.isSome then (tryDirect (bump s (cardBase + 0x48)) w off, false)
  else
    let b := ls.flatMap fun o => o.getD []
    let segs := (List.range 8).map fun i => encodeSegment (winAt s w).clevel (bytesAt b (512 * i) 512)
    let len : List Nat := segs.map (·.1)
    let k := runGranules len
    if 448 < (len.foldl (· + ·) 0 : Nat) then
      (tryDirect (bump (putEntry s w off pg fun p => { p with incomp := true }) (cardBase + 0x4C)) w off, false)
    else
      let (s, run) := if k = 0 then (s, some 0) else allocRun s k
      match run with
      | none => (tryDirect (bump s (cardBase + 0x48)) w off, false)
      | some g =>
        let sl := slotOf s w
        let bytes := segs.flatMap (·.2)
        let s := writeUnit sl.cur sl.gen qc s (g * 4) (linesOf (k * 4) (bytes ++ List.replicate (k * 256 - bytes.length) 0))
        let s := putPage s w off pg { p with tier := .compressed, addr := g, len := len, kgen := sl.gen, pmask := 0 }
        let s := bumpBy (bump s (cardBase + 0x44)) (cardBase + 0x58) (len.filter (· == 64)).length
        (if (hankAt s w off).guar then s else freeFrame s p.addr, true)

/-- The page may be promoted by a descriptor (R221). -/
def promotable (s : State) (w off pg : Nat) : Bool :=
  let p := pageOf s w off pg
  p.tier = .compressed && !p.promo && !p.demo && (!(winAt s w).elastic || decide (s.ledger.level < 2))

/-- The page may be demoted by a descriptor (R221). -/
def demotable (s : State) (w off pg : Nat) : Bool :=
  let p := pageOf s w off pg
  p.tier = .hot && !p.incomp && !p.promo && !p.demo && (winAt s w).clevel != 0 &&
    ((winAt s w).elastic || decide (s.ledger.level < 2))

/-- Visits pages in ascending order. The answer counts those changed. -/
def visitPages (w : Nat) (ok : State → Nat → Nat → Nat → Bool) (f : State → Nat → Nat → Nat → State × Bool) :
    Nat → State → Nat → Nat → State × Nat
  | 0, s, _, n => (s, n)
  | m + 1, s, dla, n =>
    let off := hankOff s w dla
    if ok s w off (pageNo dla) then
      let (s, done) := f s w off (pageNo dla)
      visitPages w ok f m s (dla + 0x1000) (n + b2n done)
    else visitPages w ok f m s (dla + 0x1000) n

/-- A PROMOTE or DEMOTE descriptor. A page under a REKEY's cursor holds it back (R178). -/
def tierDesc (s : State) (d : Running) (ok : State → Nat → Nat → Nat → Bool)
    (f : State → Nat → Nat → Nat → State × Bool) : State :=
  let len := dLenA d.b
  withOperand s d (dA d.b) len fun w dla =>
    let m := spanLines dla len / 64
    if (List.range m).any fun i => underCursor s w (hankOff s w (dla + i * 0x1000)) (pageNo (dla + i * 0x1000)) then s
    else
      let (s, n) := visitPages w ok f m s dla 0
      resume (endDesc s d.k stOk n (m - n) m)

/-- PROMOTE (R221). -/
def execPromote (ring : Fin 8192) (index : Nat) (s : State) : Host.Outcome State Fault Refusal :=
  .next (onDesc s ring index 10 fun d s => tierDesc s d promotable (promoteNow d.qc))

/-- DEMOTE (R221). -/
def execDemote (ring : Fin 8192) (index : Nat) (s : State) : Host.Outcome State Fault Refusal :=
  .next (onDesc s ring index 11 fun d s => tierDesc s d demotable (demoteNow d.qc))

/-! ## REKEY (R177, R179) -/

/-- Sends the new key set to the partner, where the window is mirrored and the pair link is up: the walk begins once the
partner has installed it. -/
def sendKeyset (s : State) (w : Nat) : State :=
  let k := (winAt s w).keySlot
  let x := slotAt s k
  let b : PlyBody := .keyset w x.gen x.cur
  match portFor s b with
  | some p =>
    let q := nextSeq s p
    let s := plySend s p b
    let s := { s with pair := { s.pair with ops := s.pair.ops ++ [(p, .keyset w q)] } }
    modSlot s k fun x => { x with peerKey := true }
  | none => s

/-- Starts a walk (R177 step 2). -/
def startWalk (s : State) (w : Nat) (by_ : Option (Nat × Nat)) (island : Bool) (ptag : Option Nat) (key : Nat) : State :=
  modSlot s (winAt s w).keySlot fun x => { x with
    gen := (x.gen + 1) % 16, st := .rekeying, old := some x.cur, cur := key, cursor := none, walk := 0, done := 0,
    by_ := by_, island := island, ptag := ptag, peerWalk := false, stopped := false, newKey := none }

/-- Step 1 of R177: the status with which a REKEY of a window completes at once, or none where it goes on. A secondary's REKEY
is submitted to the primary (R179): here every access to it ends with ACCESS (R337). While the partner's walk of the last one
runs, its slot is REKEYING (DEDUCED, log entry 97). -/
def rekeyRefused (s : State) (w : Nat) (owns : Bool) : Option Nat :=
  let x := winAt s w
  let k := slotOf s w
  if !owns || (x.mirror != 0 && x.secondary) then some stAccess
  else if k.st = .rekeying || k.peerWalk || !canDraw s then some stKey
  else if x.mirror != 0 && (x.ms = .degraded || x.ms = .mismatch) then some stLinkDown
  else if x.state ≠ .online then some stDisabled
  else none

/-- Steps 2 and 3 of R177 begin: the draw, and the partner's copy of the key set first. -/
def rekeyGo (s : State) (w : Nat) (by_ : Option (Nat × Nat)) (island : Bool) : State :=
  let (s, key) := drawKey s
  let s := startWalk s w by_ island none key
  if mirrorPrimary s w then sendKeyset s w else s

/-- REKEY (R177): a descriptor's, or one that the management island submits over MCTP. -/
def execRekey (src : RekeyBy) (index : Nat) (s : State) : Host.Outcome State Fault Refusal :=
  match src with
  | .ring ring =>
    .next (onDesc s ring index 12 fun d s =>
      match seatRange s d.seat (dA d.b) 1 with
      | none => endDesc s d.k stAccess 0 0 0
      | some (w, _) =>
        match rekeyRefused s w ((winSeats s w).contains d.seat) with
        | some st => endDesc s d.k st 0 0 0
        | none => rekeyGo s w (some (d.k / 0x10000, d.k % 0x10000)) false)
  | .island => mcGate s (.rekey src index) fun s =>
    if (winAt s index).size = 0 then .next (emit s (.rekeyDone index stAccess))
    else match rekeyRefused s index true with
      | some st => .next (emit s (.rekeyDone index st))
      | none => .next (rekeyGo s index none true)

/-! ## The ring-op limit (R225) -/

/-- RESULT2 of a descriptor that stops before it has begun: NEXT for SCAN and GATHER. -/
def nextAtStop (b : List Byte) : Nat := if dOp b = 8 ∨ dOp b = 9 then fld (dLenA b) 63 32 else 0

/-- A stream that stops before it has begun writes its context back where it stood (R163, R168). -/
def keepCheckpoint (s : State) (k : Nat) (run : Running) : State :=
  match ctxAt s k run.b with
  | none => s
  | some (w, cd) =>
    let op := streamOp run.b (decide (dOp run.b = 4))
    let (s, cl) := agentSpan s w cd 4096 run.qc run.seat
    let raw := spanBytes cl cd 4096
    if (spanPoison cl).isSome || ctxRefused s raw || ctxDiffers raw op then s
    else
      let c := ctxOf raw
      let r := streamStill op c (if op.fmt = 0 then none else some c.histLog) stTimeout
      (agentPut s k w cd run.qc run.seat (ctxBytes s.boot.stepMajor (ctxAfter op c r)) fun _ => false).1

/-- Ends a running descriptor with TIMEOUT at its resumable point (R225): a stream with a context keeps its checkpoint, and
a scrub pass reports the lines it has read. -/
def timeoutDesc (s : State) (k : Nat) : State :=
  match descAt s k with
  | none => s
  | some d =>
    let s := bump s (ringBase + 0x50)
    let by_ := ScrubBy.ring (ringOfKey k) (k % 0x10000)
    match s.passes.find? fun p => p.by_ == by_ with
    | some p => endDesc { s with passes := s.passes.filter fun q => q.by_ != by_ } k stTimeout p.lines p.corr (p.unc + p.pois)
    | none =>
      let run : Running := { k := k, b := d.raw, seat := (ringAt s (ringOfKey k)).seat, qc := (ringAt s (ringOfKey k)).qc,
                             since := d.startOrd }
      endDesc (keepCheckpoint s k run) k stTimeout 0 0 (nextAtStop d.raw)

/-- RING_OP_LIMIT_EXPIRY (R225). -/
def execRingOpLimitExpiry (ring : Fin 8192) (index : Nat) (s : State) : Host.Outcome State Fault Refusal :=
  let k := descKey ring index
  match descAt s k with
  | none => .next s
  | some d =>
    if d.st ≠ .started ∨ dOp d.raw = 12 then .next s
    else .next (timeoutDesc (advanceTo s (d.startAt + d.limitMs * 1000000)) k)

end Sys2Proof.Machine
end

