-- ==== Sys2Proof/Machine/Access.lean ====
section
/-! DEFINITION. Who reaches a register (R459), the port and the power domain its block stands behind (R289, R300, R357,
R462), and an access that waits for a domain to wake. -/

namespace Sys2Proof.Machine

open Sys2Proof

/-- The function is the admin seat's; before an image is applied, that of HP0.L0 (R42, R459). -/
def isAdminFn (s : State) (f : Fn) : Bool :=
  if s.img.st = .none then f.port.val == 0 && f.link.val == 0 && f.id == 0
  else match fnSeat s f with
    | some seat => (seatAt s seat).admin
    | none => false

/-- A function exists on its link and its link carries CXL.io: it is in L0. Only an MLD link has functions by ID. Until an
image is loaded every trained link answers CXL.io (R20), with one function (log entry 5). -/
def fnLive (s : State) (f : Fn) : Bool :=
  linkUpAt s f.port f.link && decide (f.id < 4096) && (linkKind s f.port f.link == 2 || f.id == 0) &&
  (s.img.st = .none || (fnSeat s f).isSome)

/-- GLB registers that every function reads (R459). -/
def openToAll (off : Nat) : Bool :=
  off == 0 || off == 0x200 || off == 0x204 || off == 0x208 || (decide (0x210 ≤ off) && decide (off < 0x230) && off % 4 == 0)

/-- The access reaches the register (R459). A message box is presented only to the function of its assigned seat (R418). -/
def mayAccess (s : State) (by_ : Agent) (off : Nat) : Bool :=
  match by_ with
  | .ctrl => (blockOf off).isSome
  | .fn f =>
    fnLive s f &&
    match blockOf off with
    | some (.mbx n, _) => decide (n < 16) && (mbxAt s n).en && fnSeat s f == some (mbxAt s n).seat
    | some _ => isAdminFn s f || openToAll off
    | none => false

/-- Domain that holds a block (R357). The central blocks lie in the fabric domains, which sleep and wake together (R298);
the model takes FABQ0 for them. -/
def domOfBlk : Blk → Nat
  | .pwr => 0
  | .hsw => 0
  | .mgmt => 1
  | .mbx _ => 1
  | .hp n => 2 + n
  | .st n => 6 + n / 12
  | .spn n => quadDom n
  | .ch n => 14 + n / 2
  | .crl _ => 22
  | .skn _ => 23
  | .ply n => 24 + n
  | _ => 6

/-- Station and local port of a block's endpoint (R289). -/
def portOfBlk : Blk → Option (Nat × Nat)
  | .spn n => some (n, 0)
  | .ch n => some (3 * n, 1)
  | .crl n => some (3 * n + 1, 1)
  | .skn n => some (3 * n + 1, 2)
  | .hp n => some (5 + 12 * n, 1)
  | .ply n => some (11 + 24 * n, 1)
  | .card => some (14, 1)
  | .ring => some (20, 1)
  | .mgmt => some (26, 1)
  | .mbx _ => some (26, 1)
  | _ => none

/-- A local port has been declared dead (R300). -/
def isDead (s : State) (st lp : Nat) : Bool := (stAt s st).dead.getLsbD lp

/-- A block that PX9-1024-S does not have (R1, R2). -/
def blkAbsent (s : State) (b : Blk) : Bool :=
  !s.boot.partH && match b with
    | .ply _ => true
    | .mbx n => decide (64 ≤ n)
    | _ => false

/-- The block is absent, its port is isolated, or its domain is OFF: reads return zeros and writes are discarded (R2, R462). -/
def blkGone (s : State) (b : Blk) : Bool :=
  blkAbsent s b || (domAt s (domOfBlk b)).st = .off ||
  match portOfBlk b with
  | some (st, lp) => isDead s st lp
  | none => false

/-- The domain is stopped or waking, or fenced on its way to sleep. -/
def blkSleeps (s : State) (b : Blk) : Bool := domShut s (domOfBlk b) && (domAt s (domOfBlk b)).st != .off

/-- A register access (R459, R462): `row` is the command, kept for the wake where its domain sleeps; `f` is what the access
does at its block. -/
def access (s : State) (by_ : Agent) (off : Nat) (row : Instr) (f : State → State) : State :=
  let go := fun (s : State) => match blockOf off with
    | none => s
    | some (b, _) =>
      if blkGone s b then s
      else if blkSleeps s b then holdFor s (domOfBlk b) row
      else f (unIdle s (domOfBlk b))
  if !mayAccess s by_ off then s
  else match by_ with
    | .ctrl => go s
    | .fn g => fnGate s g row go

end Sys2Proof.Machine
end

