-- ==== Sys2Proof/Machine/Channels.lean ====
section
/-! DEFINITION. The DRAM channels' own steps: command issue (R237, R273), refresh and temperature (R238), the
row-disturbance window (R239), merge timeouts (R241), training (R230–R232, R243–R245, R251) and rate changes (R246). -/

namespace Sys2Proof.Machine

open Sys2Proof

/-! ## Command issue (R237, R273) -/

/-- An activate of the row would come before its throttle allows (R240). -/
def heldByThrottle (s : State) (g : Geo) (who : Nat × Nat) : Bool :=
  !rowHit s g && (chAt s g.ch).throttles.any fun t =>
    throttles t (bankKey g) who && decide (s.now < t.last + rdtInterval s g.ch)

/-- A queued request is held by a throttle. -/
def qThrottled (s : State) (q : Qent) : Bool :=
  match geoOf s q.line with
  | some g => heldByThrottle s g (q.seat, q.qc)
  | none => false

/-- A queued request hits the open row of its bank. -/
def qHit (s : State) (q : Qent) : Bool :=
  match geoOf s q.line with
  | some g => rowHit s g
  | none => false

/-- Class priority of a queued request (R273). -/
def qPrio (s : State) (c : Nat) (q : Qent) : Nat :=
  let a := regN s (qosBase + 8 * q.qc)
  let rise := 4 * (s.now - q.start) / max 50 (fld a 15 0)
  if inBudget s q.qc c then min 31 (fld a 26 22 + rise) else min (fld (regN s (qosBase + 0xC0)) 12 8) rise

/-- The first of a list of requests by age. -/
def oldest : List Qent → Option Qent
  | [] => none
  | q :: t => some (t.foldl (fun b x => if x.ord < b.ord then x else b) q)

/-- WR_HI, WR_LO and HIT_CAP in force (R250). -/
def wrHi (s : State) (c : Nat) : Nat := clampN 2 128 (fld (regN s (chBase c + 0x20)) 15 8)
def wrLo (s : State) (c : Nat) : Nat := min (fld (regN s (chBase c + 0x20)) 7 0) (wrHi s c - 1)
def hitCap (s : State) (c : Nat) : Nat := max 1 (fld (regN s (chBase c + 0x20)) 31 24)

/-- Write drain starts at WR_HI entries and stops at WR_LO. -/
def drainNow (s : State) (c : Nat) : Bool :=
  let n := (chAt s c).wq.length
  if wrHi s c ≤ n then true else if n ≤ wrLo s c then false else (chAt s c).drain

/-- The request of a kind that issues first: the highest priority, then row hits up to HIT_CAP, then age. With it, whether
it passes an older request of its priority. -/
def pickKind (s : State) (c : Nat) (l : List Qent) : Option (Qent × Bool) :=
  let top := l.foldl (fun a q => max a (qPrio s c q)) 0
  let l := l.filter fun q => qPrio s c q == top
  let hit := if (chAt s c).hitRun < hitCap s c then oldest (l.filter (qHit s)) else none
  match hit, oldest l with
  | some h, some o => some (h, h.ord != o.ord)
  | none, some o => some (o, false)
  | _, none => none

/-- The request that issues in this slot. -/
def pickIssue (s : State) (c : Nat) (ready : List Nat) : Option (Qent × Bool) :=
  let x := chAt s c
  let able := fun (q : Qent) => ready.contains q.line && !qThrottled s q &&
    (q.write || !x.wq.any fun w => w.line == q.line && decide (w.ord < q.ord))
  let rq := x.rq.filter able
  let wq := x.wq.filter able
  match oldest ((rq ++ wq).filter fun q => q.qc == 0) with
  | some q => some (q, false)
  | none =>
    let first := if drainNow s c then wq else rq
    let other := if drainNow s c then rq else wq
    match pickKind s c first with
    | some r => some r
    | none => pickKind s c other

/-- CHANNEL_COMMAND_ISSUE (R237, R239, R240, R272–R274): `ready` lists the DPA lines that bank timing lets issue in this
slot. -/
def execChannelCommandIssue (ch : Fin 16) (ready : List Nat) (s : State) : Host.Outcome State Fault Refusal :=
  let c := ch.val
  if !chOnline s c then .next s
  else
    let s := modCh s c fun x => { x with drain := drainNow s c }
    let x := chAt s c
    let s := if (x.rq ++ x.wq).any fun q => ready.contains q.line && qThrottled s q then pmuEvent s 1 c 0x25 else s
    match pickIssue s c ready with
    | none => .next s
    | some (q, passes) =>
      let s := match q.entry with
        | some e => if q.write then s else
          let dl := devLoadAt s c q.qc
          modTrk s e fun o => o.map fun t => { t with devLoad := max t.devLoad dl }
        | none => s
      let s := modCh s c fun x => { x with
        rq := x.rq.filter fun y => y.ord != q.ord, wq := x.wq.filter fun y => y.ord != q.ord
        hitRun := if passes then x.hitRun + 1 else 0 }
      let s := casLine s q.line q.write q.qc q.seat
      .next (passBuffers (modCh s c fun x => { x with drain := drainNow s c }))

/-! ## Refresh, temperature, calibration (R238, R239) -/

/-- REFRESH (R238): an all-bank refresh at each tREFI; every bank is closed by it. -/
def execRefresh (ch : Fin 16) (s : State) : Host.Outcome State Fault Refusal :=
  let x := chAt s ch
  if x.st ≠ .online then .next s
  else
    let due := x.refAt + trefi x
    let s := advanceTo s due
    .next (modCh (pmuEvent s 1 ch 0x23) ch fun x => { x with refAt := due, openRow := [] })

/-- DIMM_THERMAL_POLL (R238): once in each aligned 1 ms of powered time, in channels that have reached ONLINE. -/
def execDimmThermalPoll (ch : Fin 16) (sensors : List Nat) (mr4 : Bool) (s : State) : Host.Outcome State Fault Refusal :=
  let c := ch.val
  let x := chAt s c
  if x.st ≠ .online ∧ x.st ≠ .offline ∧ x.st ≠ .selfref then .next s
  else
    let due := (x.pollAt / 1000000 + 1) * 1000000
    let s := advanceTo s due
    let top := sensors.foldl max 0
    let hot := if mr4 || decide (85 < top) then true else if top ≤ 83 then false else x.hot
    let s := modCh s c fun x => { x with pollAt := due, tmax := min 255 top, hot := hot }
    if hot = x.hot then .next s
    else
      let s := if hot then bump s (chBase c + 0x5C) else s
      .next (rescale (logEv s (srcOf (chBase c)) 0x6003 sevNote (le 2 c ++ kindByte 238 (b2n hot))))

/-- ZQ_CALIBRATION (R238): inside a refresh stall, once every 32 ms of powered time. -/
def execZqCalibration (ch : Fin 16) (s : State) : Host.Outcome State Fault Refusal :=
  let x := chAt s ch
  if x.st ≠ .online then .next s
  else
    let due := x.zqAt + 32000000
    .next (modCh (advanceTo s due) ch fun x => { x with zqAt := due })

/-- RDT_WINDOW_CLEAR (R239, R240). -/
def execRdtWindowClear (ch : Fin 16) (s : State) : Host.Outcome State Fault Refusal :=
  let x := chAt s ch
  if x.st = .absent ∨ x.st = .failed then .next s
  else
    let due := x.winAt + 8192 * trefi x
    .next (modCh (advanceTo s due) ch fun x => { x with winAt := due, rdt := [], throttles := [] })

/-- MERGE_ENTRY_TIMEOUT (R241): 2 µs after the entry's first partial write. -/
def execMergeEntryTimeout (ch : Fin 16) (line : Nat) (noise : List Byte) (s : State) : Host.Outcome State Fault Refusal :=
  match (chAt s ch).merge.find? fun e => e.line == line with
  | none => .next s
  | some e =>
    if !chOnline s ch then .next s
    else .next (passBuffers (flushEntry (advanceTo s (e.at_ + 2000)) ch e noise))

/-! ## Population and boot rate (R230–R232, R235) -/

/-- Rate codes R230 allows for a population. -/
def allowedRates (d : Dimms) : List Nat :=
  if d.mrdimm then (if d.slot1 then [] else [5, 6]) else if d.slot1 then [0, 1, 2] else [0, 1, 2, 3, 4, 5]

/-- Capacity of one DIMM by R235's formula. -/
def dimmBytes (d : Dimms) : Nat := 2 ^ (19 + d.heightLog + d.ranksLog + rowBits d)

/-- Organisations of R230, with the limits of R231 and R235. -/
def dimmSupported (d : Dimms) : Bool :=
  d.x4 && decide (d.densCode ≤ 2) && decide (d.heightLog ≤ 3) && decide (d.ranksLog ≤ 2) && !d.rfmNeeded &&
  decide (dimmBytes d ≤ (if d.mrdimm then 2 ^ 39 else 2 ^ 38)) && !(d.mrdimm && d.slot1) &&
  decide (dimmBytes d * (if d.slot1 then 2 else 1) ≤ 2 ^ 39) && dimmBytes d == d.capGib * 2 ^ 30

/-- What a channel's sockets come to: absent, unsupported, failed, or brought up. -/
inductive Popul where
  | absent | unsupported | failed | up (d : Dimms)
  deriving DecidableEq, Repr

/-- R230 and R231 applied to one channel. -/
def populOf : Option Dimms → Popul
  | none => .absent
  | some d =>
    if !d.slot0 then .absent
    else if d.slot1 && !d.matched then .failed
    else if dimmSupported d then .up d
    else .unsupported

/-- Rates a channel supports (R232). -/
def channelRates (d : Dimms) : List Nat := d.rates.filter fun r => (allowedRates d).contains r

/-- MAX_RATE in force; code 7 acts as 6 (R252). -/
def maxRate (s : State) : Nat := min 6 (fld (regN s (chBase 0 + 0x40)) 6 4)

/-- The boot rate (R232); none where no populated channel supports any rate. -/
def bootRate (s : State) (ups : List Dimms) : Option Nat :=
  let cand := (List.range 7).filter fun r => decide (r ≤ maxRate s)
  let n := fun (r : Nat) => (ups.filter fun d => (channelRates d).contains r).length
  cand.foldl (fun b r =>
    if n r = 0 then b
    else match b with
      | none => some r
      | some x => if n x ≤ n r then some r else some x) none

/-! ## Training (R243–R245) -/

/-- Last step of a training: step 8 is run on MRDIMMs. -/
def lastStep (x : Chan) : Nat := match x.dimms with
  | some d => if d.mrdimm then 8 else 7
  | none => 7

/-- A DVFS transition waits for training, or runs (R245, R370). -/
def dvfsBars (s : State) : Bool := s.power.dvfs.isSome

/-- Step 1 of R370 ends once no training step and no group transition is active: step 2 begins. Step 1 of a training holds
nothing (R245). -/
def dvfsGo (s : State) : State :=
  if s.power.dvfs = some 1 && s.power.trans.isNone && !(s.chans.any fun e => e.2.busy && e.2.step != 1) then
    { s with power := { s.power with dvfs := some 2, dvfsAt := s.now } }
  else s

/-- Every channel has ended its initial training: the reset sequence goes on to step 7 (R392). -/
def trainingSettled (s : State) : State :=
  if s.boot.phase = .training && !(s.chans.any fun e => e.2.st = .training) then
    { s with boot := { s.boot with phase := .image } }
  else s

/-- A channel comes ONLINE: its periods start where they have not run before. -/
def goOnline (s : State) (c : Nat) : State :=
  modCh s c fun x => { x with
    st := .online, refAt := s.now
    winAt := if x.winAt = 0 then s.now else x.winAt
    zqAt := if x.zqAt = 0 then s.now else x.zqAt
    pollAt := if x.pollAt = 0 then s.now else x.pollAt }

/-- A training ends with LAST code `res`. -/
def endTrain (s : State) (c res : Nat) : State :=
  modCh s c fun x => { x with
    busy := false, paused := false, tries := 0, lastRes := res, lastUs := us s % 0x1000000, start := false }

/-- An event of a channel's training or rate (R413). -/
def chanEvent (s : State) (c sev r k : Nat) : State := logEv s (srcOf (chBase c)) 0x6003 sev (le 2 c ++ kindByte r k)

/-- Starts a retraining from step 2 (R242, R243). -/
def beginTrain (s : State) (c : Nat) : State :=
  let s := if (chAt s c).st = .online then flushAll s c else s
  let s := modCh s c fun x => { x with
    st := .offline, busy := !dvfsBars s, paused := dvfsBars s, step := 2, tries := 0, initial := false, start := true, startNext := false }
  rescale s

/-- Stored STARTs run once nothing else holds their channel (R245). -/
def runStored (s : State) : State :=
  (List.range 16).foldl (fun t c =>
    if (chAt t c).startNext && (chAt t c).st = .online && !t.rate.busy && domAwake t (14 + c / 2) then beginTrain t c else t) s

/-- TRAIN_CTL.START written 1 (R242, R245, R251). -/
def startTrain (s : State) (c : Nat) : State :=
  let x := chAt s c
  if x.st = .absent || x.st = .failed then s
  else if x.st = .online && !s.rate.busy && domAwake s (14 + c / 2) then beginTrain s c
  else modCh s c fun x => { x with start := true, startNext := true }

/-- CHANNEL_RETRAIN (R242, R251). A CHG domain on its way to sleep keeps the request and refuses the sleep (R363). -/
def execChannelRetrain (by_ : Agent) (ch : Fin 16) (s : State) : Host.Outcome State Fault Refusal :=
  if (domAt s (14 + ch.val / 2)).st = .sleeping && mayAccess s by_ (chBase ch + 0x24) then .next (startTrain s ch)
  else .next (access s by_ (chBase ch + 0x24) (.channelRetrain by_ ch) fun s => startTrain s ch)

/-- TRAINING_RELEASE (R231, R232, R392 step 6). -/
def execTrainingRelease (dimms : List (Option Dimms)) (s : State) : Host.Outcome State Fault Refusal :=
  if s.boot.phase ≠ .training ∨ (s.chans.any fun e => e.2.st != .absent) = true then .next s
  else
    let pop := (List.range 16).map fun c => (c, populOf ((dimms.getD c none)))
    let ups := pop.filterMap fun p => match p.2 with
      | .up d => some d
      | _ => none
    let rate := bootRate s ups
    let s := match rate with
      | some r => { s with rate := { s.rate with cur := r, target := r } }
      | none => s
    let s := pop.foldl (fun t p =>
      match p.2 with
      | .absent => t
      | .unsupported => modCh t p.1 fun x => { x with dimms := none, st := .absent, kind3 := true }
      | .failed => modCh t p.1 fun x => { x with st := .failed }
      | .up d =>
        let ok := match rate with
          | some r => (channelRates d).contains r
          | none => false
        let t := modCh t p.1 fun x => { x with dimms := some d, trfc := d.trfc }
        if ok then
          modCh t p.1 fun x => { x with st := .training, busy := true, step := 1, tries := 0, initial := true }
        else chanEvent (modCh t p.1 fun x => { x with st := .failed, lastRes := 3 }) p.1 sevErr 232 0) s
    .next (trainingSettled s)

/-- The next step of a training, once the present one has ended (R245): it waits where a DVFS transition does. -/
def nextStep (s : State) (c : Nat) : State :=
  modCh s c fun x => { x with step := x.step + 1, tries := 0, busy := !dvfsBars s, paused := dvfsBars s }

/-- A training whose last step has been accepted (R244): the full set replaces the held set. -/
def trainDone (s : State) (c : Nat) : State :=
  let s := modCh (endTrain s c 0) c fun x => { x with held := if x.held.contains s.rate.cur then x.held else s.rate.cur :: x.held.take 1 }
  resume (runStored (trainingSettled (rescale (goOnline s c))))

/-- The third rejected result of a step (R244). -/
def trainFailed (s : State) (c : Nat) : State :=
  if (chAt s c).initial then
    let s := modCh (endTrain s c 3) c fun x => { x with st := .failed }
    trainingSettled (rescale (chanEvent s c sevErr 244 0))
  else resume (runStored (rescale (chanEvent (goOnline (endTrain s c 1) c) c sevWarn 244 1)))

/-- The channel trains at a new rate as part of a rate change. -/
def rateTrains (s : State) (c : Nat) : Bool := s.rate.busy && (chAt s c).st = .offline && !(chAt s c).held.contains s.rate.target

/-- TRAINING_STEP_RESULT (R243–R245). -/
def execTrainingStepResult (ch : Fin 16) (r : TrainResult) (s : State) : Host.Outcome State Fault Refusal :=
  let c := ch.val
  let x := chAt s c
  if !x.busy then .next s
  else match r with
    | .accepted =>
      if x.step < lastStep x then .next (dvfsGo (nextStep s c))
      else if rateTrains s c then .next (dvfsGo (endTrain s c 0))
      else .next (dvfsGo (trainDone s c))
    | .rejected =>
      let s := bump s (chBase c + 0x54)
      if x.tries + 1 < 3 then .next (modCh s c fun x => { x with tries := x.tries + 1 })
      else if rateTrains s c then .next (dvfsGo (endTrain s c 1))
      else .next (dvfsGo (trainFailed s c))

/-! ## Rate changes (R246, R252) -/

/-- Channels that a rate change takes through self-refresh. -/
def rateChans (s : State) : List Nat := (List.range 16).filter fun c => (chAt s c).st = .online || (chAt s c).st = .offline

/-- R230 allows the rate for every channel that is brought up. -/
def rateAllowed (s : State) (r : Nat) : Bool :=
  s.chans.all fun e => match e.2.dimms with
    | some d => e.2.st = .failed || (allowedRates d).contains r
    | none => true

/-- Step 2 of R246 for one channel: a training in progress is aborted (R245), the merge buffer is flushed, and the channel
trains at the new rate where it holds no values for it. -/
def rateStop (target : Nat) (s : State) (c : Nat) : State :=
  let x := chAt s c
  let s := if x.st = .online then flushAll s c else s
  let training := x.busy || x.paused
  let s := if training then modCh (endTrain s c 2) c fun y => { y with startNext := x.startNext || (x.st = .offline && x.held.contains target), start := x.start } else s
  if x.st = .training then modCh s c fun x => { x with step := 2, paused := true }
  else
    let trains := !x.held.contains target
    modCh s c fun x => { x with st := .offline, busy := trains && !dvfsBars s, paused := trains && dvfsBars s,
                                step := if trains then 2 else x.step, tries := 0 }

/-- Takes a target from step 1 of R246. -/
def takeTarget (s : State) (t : Nat) : State :=
  let t := min 6 t
  if maxRate s < t ∨ rateAllowed s t = false then chanEvent s 0 sevNote 246 0
  else if t = s.rate.cur then s
  else
    let chs := (List.range 16).filter fun c => (chAt s c).st = .online || (chAt s c).st = .offline || (chAt s c).st = .training
    let s := { s with rate := { s.rate with busy := true, target := t, prev := s.rate.cur, stored := none } }
    rescale (chs.foldl (rateStop t) s)

/-- A write of TARGET (R246, R252): stored while a change is in progress. -/
def putTarget (s : State) (t : Nat) : State :=
  if s.rate.busy then { s with rate := { s.rate with stored := some (min 6 t) } } else takeTarget s t

/-- RATE_CHANGE (R246). The register's MAX_RATE is not written by this command. -/
def execRateChange (by_ : Agent) (target : Fin 8) (s : State) : Host.Outcome State Fault Refusal :=
  .next (access s by_ (chBase 0 + 0x40) (.rateChange by_ target) fun s => putTarget s target)

/-- How the training of a channel at the new rate ended: by its step results, or as the command says; none while it still
runs. -/
def rateOutcome (s : State) (trained : List (Fin 16 × Bool)) (c : Nat) : Option Bool :=
  let x := chAt s c
  if x.held.contains s.rate.target then some true
  else if x.busy || x.paused then (trained.find? fun p => p.1.val == c).map (·.2)
  else some (x.lastRes == 0)

/-- RATE_CHANGE_COMPLETE (R246 steps 3–5): a channel that held no values has been trained, by TRAINING_STEP_RESULT or as
`trained` says. -/
def execRateChangeComplete (trained : List (Fin 16 × Bool)) (s : State) : Host.Outcome State Fault Refusal :=
  if !s.rate.busy then .next s
  else
    let chs := rateChans s
    let outs := chs.map fun c => (c, rateOutcome s trained c)
    if outs.any fun o => o.2.isNone then .next s
    else
      let ok := outs.all fun o => o.2 == some true
      let target := s.rate.target
      let prev := s.rate.prev
      let s := outs.foldl (fun t o =>
        let running := (chAt t o.1).busy || (chAt t o.1).paused
        let t := if running then endTrain t o.1 (if o.2 = some true then 0 else 1) else t
        let t := if running && o.2 = some false then bumpBy t (chBase o.1 + 0x54) 3 else t
        let t := modCh t o.1 fun x => { x with
          held := if ok then [target, prev]
                  else if o.2 = some true && !x.held.contains target then [prev, target] else x.held }
        goOnline t o.1) s
      let s := { s with rate := { s.rate with
        busy := false, cur := if ok then target else prev, target := if ok then target else prev
        alt := if ok then prev else s.rate.alt
        altV := ok || (s.rate.altV && chs.all fun c => (chAt s c).held.contains s.rate.alt) } }
      let s := (List.range 16).foldl (fun t c =>
        if (chAt t c).st = .training then modCh t c fun x => { x with busy := true, paused := false } else t) s
      let s := if ok then s else chanEvent s 0 sevErr 246 1
      let s := rescale s
      let s := match s.rate.stored with
        | some t => takeTarget { s with rate := { s.rate with stored := none } } t
        | none => s
      .next (dvfsGo (resume (runStored s)))

end Sys2Proof.Machine
end

