-- ==== Sys2Proof/Machine/Integrity.lean ====
section
/-! DEFINITION. Memory integrity beyond the demand read: the leaky bucket's leak (R260), the scrub service (R222,
R262–R264), fault injection (R270) and double-bit errors in SRAM (R266). -/

namespace Sys2Proof.Machine

open Sys2Proof

/-! ## The leaky bucket (R260, R267) -/

/-- INT_LEAK.MS in force (R267). -/
def leakMs (s : State) (c : Nat) : Nat := clampN 1 65000 (fld (regN s (chBase c + 0x8004)) 15 0)

/-- LEAKY_BUCKET_LEAK (R260): at the next whole multiple of MS of powered time. -/
def execLeakyBucketLeak (ch : Fin 16) (s : State) : Host.Outcome State Fault Refusal :=
  let t := leakMs s ch * 1000000
  let due := ((chAt s ch).lbLeak / t + 1) * t
  .next (modCh (advanceTo s due) ch fun x => { x with lbLevel := x.lbLevel - 1, lbLeak := due })

/-! ## The lines of a pass (R262) -/

/-- DLA of a record for a page-block or hank-table line: all ones (R264). -/
def noDla : Nat := 0xFFFFFFFFFFFFFFFF

/-- DLAs of the segments of a compressed page whose stored bytes overlap line `i` of its run. -/
def segsOnLine (len : List Nat) (dla i : Nat) : List Nat :=
  (List.range 8).filterMap fun k =>
    let a := segStart len k
    let n := segBytes len k
    if 0 < n ∧ a < i * 64 + 64 ∧ i * 64 < a + n then some (dla + 512 * k) else none

/-- The lines of a mapped page. -/
def pageScrub (s : State) (w off pg : Nat) : List (Nat × Nat × List Nat) :=
  let p := pageOf s w off pg
  let dla := pageDla s w off pg
  match p.tier with
  | .unmapped => []
  | .hot => (List.range 64).map fun i => (frameLine p.addr + i, dla + 64 * i, [])
  | .compressed => (List.range (runGranules p.len * 4)).map fun i =>
      let segs := segsOnLine p.len dla i
      (p.addr * 4 + i, segs.headD dla, segs)

/-- Data lines and page-block lines of a hank in a DLA range. The third component of a page-block line holds the skein
keys of its four entries. -/
def hankScrub (s : State) (w lo hi off : Nat) : List (Nat × Nat × List Nat) :=
  let base := hankDla s w off
  let a := max lo base - base
  let b := min hi (base + 0x200000) - base
  let h := hankAt s w off
  if b ≤ a then []
  else match h.mode with
    | .unmapped => []
    | .direct => (List.range ((b + 63) / 64 - a / 64)).map fun i =>
        (h.home * 0x8000 + a / 64 + i, base + (a / 64 + i) * 64, [])
    | .paged =>
      let p0 := a / 0x1000
      let p1 := (b - 1) / 0x1000
      ((List.range (p1 + 1 - p0)).flatMap fun i => pageScrub s w off (p0 + i)) ++
      (List.range (p1 / 4 + 1 - p0 / 4)).map fun i =>
        (h.block * 128 + p0 / 4 + i, noDla, (List.range 4).map fun j => 2 * pageKey w off ((p0 / 4 + i) * 4 + j) + 1)

/-- The hank table's line that holds entry `i`, with the skein keys of its four entries. -/
def hankTableItem (s : State) (i : Nat) : Nat × Nat × List Nat :=
  (hankTableFirst s + i / 4, noDla,
   (List.range 4).filterMap fun j => (hankOfEntry s (i / 4 * 4 + j)).map fun e => 2 * hankKey e.1 e.2)

/-- The storage lines that back a DLA range of a window: each once, data before the hank table. -/
def scrubLines (s : State) (w lo hi : Nat) : List (Nat × Nat × List Nat) :=
  let offs := (walkHanks s w 0).filter fun o => decide (lo < hankDla s w o + 0x200000) && decide (hankDla s w o < hi)
  offs.flatMap (hankScrub s w lo hi) ++
  (sortNat (offs.map fun o => (hankTableBase s w + o) / 4)).map fun q => hankTableItem s (4 * q)

/-- The range is still being scrubbed under this asker. -/
def passOf (s : State) (by_ : ScrubBy) : Option Pass := s.passes.find? fun p => p.by_ == by_

/-- Starts a pass. -/
def startPass (s : State) (by_ : ScrubBy) (todo : List (Nat × Nat × List Nat)) (whole : Bool) : State :=
  { s with passes := s.passes ++ [{ by_ := by_, todo := todo, start := us s, whole := whole }] }

/-- SCRUB (R222, R262): the pass over A starts; the summary goes to B when it ends. -/
def execScrub (ring : Fin 8192) (index : Nat) (s : State) : Host.Outcome State Fault Refusal :=
  .next (onDesc s ring index 13 fun d s =>
    let len := dLenA d.b
    withOperand s d (dA d.b) len fun w dla => withTarget s d (dB d.b) (dLenB d.b) fun _ _ =>
      if (passOf s (.ring ring index)).isSome then s
      else startPass s (.ring ring index) (scrubLines s w dla (dla + len)) false)

/-! ## One line (R263) -/

/-- A pass whose descriptor has ended otherwise is over. -/
def passLive (s : State) (p : Pass) : Bool :=
  match p.by_ with
  | .ring r i => (running s r i 13).isSome
  | _ => true

/-- The pass being served: the oldest. -/
def livePasses (s : State) : State := { s with passes := s.passes.filter (passLive s) }

/-- Changes the pass being served. -/
def modPass (s : State) (f : Pass → Pass) : State :=
  match s.passes with
  | [] => s
  | p :: t => { s with passes := f p :: t }

/-- Class and requester of a pass: its ring's class, or QC15 (R262). -/
def passClass (s : State) (p : Pass) : Nat :=
  match p.by_ with
  | .ring r _ => (ringAt s r).qc
  | _ => 15

/-- The line is a page-block or hank-table line. -/
def isMetaLine (dla : Nat) : Bool := dla == noDla

/-- The line still backs its DLA. -/
def backs (s : State) (line dla : Nat) : Bool :=
  isMetaLine dla ||
  match winOfDla s dla with
  | none => false
  | some w =>
    let p := pageOf s w (hankOff s w dla) (pageNo dla)
    match p.tier with
    | .unmapped => false
    | .hot => line == frameLine p.addr + dla / 64 % 64
    | .compressed => decide (p.addr * 4 ≤ line) && decide (line < p.addr * 4 + runGranules p.len * 4)

/-- The stored line: skein storage is always written. -/
def scrubStored (s : State) (line dla : Nat) : Option Stored :=
  if isMetaLine dla then some ((dramAt s line).getD {}) else dramAt s line

/-- A record of the summary (R264). -/
def addRec (s : State) (line dla kind dev bits : Nat) : State :=
  modPass s fun p => { p with recs := p.recs ++ [{ dpa := line * 64, dla := dla, kind := kind, dev := dev, bits := bits }] }

/-- The ranges by DLA that a bad line stands for: its own 64 bytes, or the segments of a run line. -/
def badRanges (dla : Nat) (segs : List Nat) (comp : Bool) : List (Nat × Nat) :=
  if isMetaLine dla || !comp then [(dla, 64)] else segs.map fun d => (d, 512)

/-- The line is one of a compressed run. -/
def onRun (s : State) (dla : Nat) : Bool :=
  match winOfDla s dla with
  | some w => (pageOf s w (hankOff s w dla) (pageNo dla)).tier = .compressed
  | none => false

/-- A line of kind 3 or 4 is a media error of the pass. -/
def addMedia (s : State) (dla : Nat) (segs : List Nat) : State :=
  modPass s fun p => { p with media := p.media ++ badRanges dla segs (onRun s dla) }

/-- Loses the range of a skein key (R130). -/
def loseKey (s : State) (k : Nat) : State :=
  let (w, off, page) := ofEntryKey k
  loseRange s w off page

/-- An uncorrectable line (R263): P is written; counted; the poison list and an ERR event. -/
def scrubUncorrectable (s : State) (line dla : Nat) (segs : List Nat) : State :=
  let c := chOfLine s line
  let s := bump s (chBase c + 0x8010)
  let s := writePoison s line
  let s := match geoOf s line with
    | some g => logEv s (srcOf (chBase c)) 0x6002 sevErr (le 2 c ++ le 1 g.rank ++ le 1 g.sub ++ le 8 (line * 64))
    | none => logEv s (srcOf (chBase c)) 0x6002 sevErr (le 2 c ++ le 2 0 ++ le 8 (line * 64))
  let s := if isMetaLine dla then segs.foldl loseKey s
    else (badRanges dla segs (onRun s dla)).foldl (fun t r => plAdd t r.1 r.2 srcMedia) s
  addMedia (addRec (modPass s fun p => { p with unc := p.unc + 1 }) line dla 3 0xFF 0) dla segs

/-- Writes the corrected code word back (R263): what the decoder left of the error stays, and the injection applies. -/
def writeBack (s : State) (line : Nat) (st : Stored) : State :=
  let c := chOfLine s line
  let inj := injOf s c
  injected (modDram s line fun _ => some { st with err := errAdd st.err (injError inj) }) c

/-- A write was accepted between the scrub read and the write-back: the line counts as corrected, as record kind
SUPERSEDED, and is done with (R263). -/
def scrubSuperseded (s : State) (line dla dev bits : Nat) : State :=
  addRec (modPass s fun p => { p with verify := none, corr := p.corr + 1 }) line dla 5 dev bits

/-- The write-back of a corrected line (R263), unless a write has been accepted since the scrub read. -/
def scrubWriteBack (s : State) (p : Pass) (line dla dev bits : Nat) (st : Stored) : State :=
  let t := modPass s fun p => { p with fix := none, cancelled := false }
  if p.cancelled || !backs s line dla then scrubSuperseded t line dla dev bits
  else if (geoOf s line).isSome && !chOnline s (chOfLine s line) then s
  else writeBack (casLine t line true (passClass s p) 1024) line st

/-- A line that holds P (R263, R265). -/
def scrubPoisoned (s : State) (line dla : Nat) (segs : List Nat) (faulty : Bool) (qc : Nat) : State :=
  let s := if faulty then writePoison (casLine s line true qc 1024) line else s
  let found := match s.passes with
    | p :: _ => p.whole && !isMetaLine dla
    | [] => false
  let s := if found then (badRanges dla segs (onRun s dla)).foldl (fun t r =>
      if plHolds t r.1 then t else plAdd t r.1 r.2 srcScrub) s else s
  addMedia (addRec (modPass s fun p => { p with pois := p.pois + 1 }) line dla 4 0xFF 0) dla segs

/-- SCRUB_LINE (R263). `noise` is what the DIMM adds on this read. A line that the read corrects is written back by the
SCRUB_LINE after it, so that a write accepted between the two cancels the write-back (log entry 46). -/
def execScrubLine (noise : List Byte) (s : State) : Host.Outcome State Fault Refusal :=
  let s := livePasses s
  match s.passes with
  | [] => .next s
  | p :: _ =>
    match p.verify, p.todo with
    | none, (line, dla, segs) :: rest =>
      if !backs s line dla then .next (modPass s fun p => { p with todo := rest })
      else if (geoOf s line).isSome && !chOnline s (chOfLine s line) then .next s
      else
        let qc := passClass s p
        let s := modPass s fun p => { p with todo := rest, lines := p.lines + 1 }
        let s := casLine (flushLine s line []) line false qc 1024
        let st := scrubStored s line dla
        let (w, r) := decodeStored st noise
        match r with
        | .uncorrectable => .next (scrubUncorrectable (casLine s line true qc 1024) line dla segs)
        | .clean => .next (if w = .poison then scrubPoisoned s line dla segs false qc else s)
        | .corrected dev syms =>
          let s := noteCorrected s line dev syms (w == .poison)
          if w = .poison then .next (scrubPoisoned s line dla segs true qc)
          else
            let x := st.getD {}
            .next (modPass s fun p => { p with
              verify := some (line, dla, segs, dev, corrBits syms)
              fix := some { x with err := errAfter (errAdd x.err noise) }
              cancelled := false })
    | some (line, dla, _, dev, bits), _ =>
      match p.fix with
      | none => .next s
      | some st => .next (scrubWriteBack s p line dla dev bits st)
    | none, [] => .next s

/-- A corrected line is done with: counted, with its record. -/
def scrubCorrected (s : State) (line dla dev bits : Nat) (recurrent : Bool) : State :=
  let s := if recurrent then bump s (chBase (chOfLine s line) + 0x8018) else s
  addRec (modPass s fun p => { p with corr := p.corr + 1, recur := p.recur + b2n recurrent })
    line dla (if recurrent then 2 else 1) dev bits

/-- SCRUB_VERIFY_READ (R263). A write accepted since the write-back cancels the read. -/
def execScrubVerifyRead (noise : List Byte) (s : State) : Host.Outcome State Fault Refusal :=
  let s := livePasses s
  match s.passes with
  | [] => .next s
  | p :: _ =>
    match p.fix, p.verify with
    | some _, _ => .next s
    | none, none => .next s
    | none, some (line, dla, segs, dev, bits) =>
      let t := modPass s fun p => { p with verify := none, cancelled := false }
      if p.cancelled || !backs s line dla then .next (scrubCorrected t line dla dev bits false)
      else if (geoOf s line).isSome && !chOnline s (chOfLine s line) then .next s
      else
        let qc := passClass s p
        let t := casLine t line false qc 1024
        let (w, r) := decodeStored (scrubStored t line dla) noise
        match r with
        | .clean => .next (scrubCorrected t line dla dev bits false)
        | .corrected d syms =>
          .next (scrubCorrected (noteCorrected t line d syms (w == .poison)) line dla dev bits true)
        | .uncorrectable => .next (scrubUncorrectable (casLine t line true qc 1024) line dla segs)

/-! ## The end of a pass (R264) -/

/-- The bytes of a record. -/
def recBytes (s : State) (x : ScrubRec) : List Byte :=
  let g := (geoOf s (x.dpa / 64)).getD {}
  le 8 x.dpa ++ le 8 x.dla ++ le 4 g.row ++ le 1 g.col ++ le 1 g.ch ++ le 1 (bankByte g + 32 * g.sub) ++ le 1 g.rank ++
  le 1 x.kind ++ le 1 x.dev ++ le 2 x.bits ++ le 4 0

/-- The summary: a header and as many whole records as fit in `room` bytes. -/
def summary (s : State) (p : Pass) (room : Nat) : List Byte × Bool :=
  let total := p.recs.length
  let n := min total ((room - 64) / 32)
  let head := le 2 1 ++ le 2 (b2n (decide (n < total))) ++ le 4 n ++ le 8 p.start ++ le 8 (us s) ++
    le 4 s.boot.bootCount ++ le 4 total ++ le 8 p.lines ++ le 8 p.corr ++ le 4 p.recur ++ le 4 p.unc ++ le 4 p.pois ++ le 4 0
  ((head ++ (p.recs.take n).flatMap (recBytes s)).take room, decide (room < 64 + 32 * total))

/-- Key of the island's own Scan Media results. -/
def islandMedia : Nat := 0x1000000

/-- A pass is over. -/
def dropPass (s : State) : State := { s with passes := s.passes.drop 1 }

/-- A whole-device pass without a refused entry clears the overflow flag (R265). -/
def clearOverflow (s : State) (p : Pass) : State :=
  if p.whole && !p.refused then { s with plist := { s.plist with overflow := false, firstUs := none } } else s

/-- SCRUB_PASS_COMPLETE (R222, R264, R265). -/
def execScrubPassComplete (s : State) : Host.Outcome State Fault Refusal :=
  let s := livePasses s
  match s.passes with
  | [] => .next s
  | p :: _ =>
    if p.todo ≠ [] ∨ p.verify ≠ none then .next s
    else match p.by_ with
      | .ring r i =>
        .next (onDesc s r i 13 fun d s =>
          let (bytes, cut) := summary s p (dLenB d.b)
          withTarget s d (dB d.b) (dLenB d.b) fun w dla =>
            let (s, ready) := agentPrepare s d.k w dla bytes.length d.qc
            if !ready then s
            else putResult (dropPass s) d w dla bytes (fun _ => false) (fun _ => (p.lines, p.corr, p.unc + p.pois)) fun s =>
              endDesc s d.k (if cut then stOutputFull else stOk) p.lines p.corr (p.unc + p.pois))
      | .mailbox f =>
        let s := { dropPass s with mgmt := { s.mgmt with media := tabSet [] s.mgmt.media (fnKey f) p.media } }
        .next (bgFinish s (.mailbox f) 0x4304 .success)
      | .island =>
        let s := clearOverflow { dropPass s with mgmt := { s.mgmt with media := tabSet [] s.mgmt.media islandMedia p.media } } p
        .next (bgFinish s .mctp 0x4304 .success)

/-! ## Fault injection (R270) -/

/-- A write of INT_INJ (R270, R436): ignored while the life cycle is FIELD or SCRAP. -/
def putInj (s : State) (c : Nat) (v : Word) : State :=
  if s.sec.lc = .field || s.sec.lc = .scrap then s else setReg s (chBase c + 0x8024) (v &&& 0xE0000FFF#32)

/-- FAULT_INJECT (R270). -/
def execFaultInject (by_ : Agent) (ch : Fin 16) (val : Word) (s : State) : Host.Outcome State Fault Refusal :=
  .next (access s by_ (chBase ch + 0x8024) (.faultInject by_ ch val) fun s => putInj s ch val)

/-! ## Double-bit errors in SRAM (R266) -/

/-- The record of a double-bit error (R266, R413). -/
def sramEvent (s : State) (src sev kind : Nat) : State := logEv s src 0x6002 sev (kindByte 266 kind)

/-- SRAM_DOUBLE_BIT_ERROR (R266). Which half of a creel entry has failed is a free value. -/
def execSramDoubleBitError (where_ : Sram) (s : State) : Host.Outcome State Fault Refusal :=
  match where_ with
  | .creel slice set way =>
    if 16384 ≤ set ∨ 16 ≤ way then .next s
    else .next (recoverEntries (nextFree s) slice [(set, way, freeBelow s 2 == 1)])
  | .skein win hank page =>
    if cached s (entryKey win hank page) = false then .next s
    else
      let s := match page with
        | some p => modPage s (pageKey win hank p) fun x => { x with rcnt := 0, rep := 0 }
        | none => modHank s win hank fun h => { h with heat := 0, cold := 0 }
      let s := logEvFor s (srcOf (sknBase (sknSlice (hankDla s win hank)))) 0x5001 sevNote
        (le 2 win ++ le 8 (hankDla s win hank) ++ kindByte 130 0) [] [win]
      .next (sramEvent s (srcOf (sknBase (sknSlice (hankDla s win hank)))) sevErr 1)
  | .lineCache slice line =>
    .next (sramEvent (modLcache s line fun _ => {}) (srcOf (crlBase slice)) sevErr 2)
  | .spindle n slot =>
    let s := bump s (spnBase n + 0x24)
    .next (resume (sramEvent (failUnit s n slot) (srcOf (spnBase n)) sevErr 3))
  | .tracker entry =>
    let s := sramEvent s (srcOf trkBase) sevErr 4
    match trkAt s entry with
    | none => .next s
    | some t => .next (resume (fabricError s entry t 3))
  | .merge ch line =>
    match (chAt s ch).merge.find? fun e => e.line == line with
    | none => .next s
    | some e =>
      let s := poisonLine (casLine s line true e.qc e.seat) line
      .next (resume (sramEvent (plAdd s e.dla 64 srcMedia) (srcOf (chBase ch)) sevErr 5))
  | .keySlot slot both =>
    if (slotAt s slot).st = .free then .next s
    else if both then .next (resume (sramEvent (modSlot s slot fun x => { x with failed := true }) (srcOf secBase) sevFatal 6))
    else .next (sramEvent s (srcOf secBase) sevErr 6)
  | .metaKey both =>
    if both then
      .next (resume (sramEvent { s with keys := { s.keys with metaFail := true } } (srcOf secBase) sevFatal 7))
    else .next (sramEvent s (srcOf secBase) sevErr 7)
  | .mgmt => .next (sramEvent s (srcOf mgmtBase) sevErr 8)
  | .fabric st => .next (sramEvent s (srcOf (stBase st)) sevErr 9)

end Sys2Proof.Machine
end

