-- ==== Sys2Proof/Machine/Qos.lean ====
section
/-! DEFINITION. The bandwidth ledger's writes (R276, R277) and the QoS commands of the FM API (R279). -/

namespace Sys2Proof.Machine

open Sys2Proof

/-- A write of CLASSk_B (R274, R276). -/
def putBudget (s : State) (k : Nat) (val : Word) : State :=
  let v := val &&& 0x80FF3FFF#32
  let key := qosBase + 4 + 8 * k
  let t := setReg s key v
  let refuse := if bitOf v.toNat 31 && fld v.toNat 13 0 == 0 then 2 else if s.qos.adm < guarSum t then 1 else 0
  if refuse ≠ 0 then
    logEv { s with qos := { s.qos with refuse := refuse } } (srcOf qosBase) 0x6003 sevWarn (le 2 k ++ kindByte 276 refuse)
  else
    let same := (v &&& 0x80003FFF#32) = (regAt s key &&& 0x80003FFF#32)
    if same then t else { t with qos := { t.qos with buckets := tabFilter (fun b _ => b / 16 != k) t.qos.buckets } }

/-- BUDGET_WRITE (R276, R277). -/
def execBudgetWrite (by_ : Agent) (k : Fin 16) (val : Word) (s : State) : Host.Outcome State Fault Refusal :=
  .next (access s by_ (qosBase + 4 + 8 * k.val) (.budgetWrite by_ k val) fun s => putBudget s k val)

/-- DevLoad values that the seat's responses carried during the last 1 ms of powered time (R279). -/
def recentLoads (s : State) (seat : Nat) : List Nat :=
  ((seatAt s seat).loads.filter fun x => decide (s.now < x.1 + 1000000)).map (·.2)

/-- GET_QOS_STATUS (R279): the mean, as the sum of the values and their number. Of a seat without a response in the last
1 ms it is a free value. -/
def execGetQosStatus (seat : Fin 1024) (s : State) : Host.Outcome State Fault Refusal :=
  mcGate s (.getQosStatus seat) fun s =>
  if (seatAt s seat).state = .none then .next (emit s (.answer none 0x279 .invalidInput []))
  else
    let l := recentLoads s seat
    if l = [] then .next (emit (nextFree s) (.answer none 0x279 .success [freeBelow s 4, 1]))
    else .next (emit s (.answer none 0x279 .success [l.foldl (· + ·) 0, l.length]))

/-- SET_QOS_CONTROL (R279): the values are stored and change nothing else. -/
def execSetQosControl (seat : Fin 1024) (values : List Nat) (s : State) : Host.Outcome State Fault Refusal :=
  mcGate s (.setQosControl seat values) fun s =>
  if (seatAt s seat).state = .none then .next (emit s (.answer none 0x27A .invalidInput []))
  else .next (emit (modSeat s seat fun x => { x with qosCtl := values }) (.answer none 0x27A .success []))

end Sys2Proof.Machine
end

