-- ==== Sys2Proof/Machine/Fabric.lean ====
section
/-! DEFINITION. The on-chip fabric: retries and failed links (R292, R301), epochs (R293, R294), fences and boundary
queues (R296, R297), dead ports (R299, R300). -/

namespace Sys2Proof.Machine

open Sys2Proof

/-! ## Ports and domains (R289, R296) -/

/-- Local ports at which a domain attaches: station and port. -/
def portsOfDom (d : Nat) : List (Nat × Nat) :=
  if d = 1 then [(26, 1)]
  else if 2 ≤ d ∧ d < 6 then [(5 + 12 * (d - 2), 1)]
  else if 10 ≤ d ∧ d < 14 then (List.range 12).map fun i => (12 * (d - 10) + i, 0)
  else if 14 ≤ d ∧ d < 22 then [(6 * (d - 14), 1), (6 * (d - 14) + 3, 1)]
  else if d = 22 then (List.range 16).map fun m => (3 * m + 1, 1)
  else if d = 23 then (List.range 16).map fun m => (3 * m + 1, 2)
  else if d = 24 ∨ d = 25 then [(11 + 24 * (d - 24), 1)]
  else []

/-- The port has an endpoint (R289, R303). -/
def hasEndpoint (st lp : Nat) : Bool :=
  if lp = 0 then true
  else if lp = 1 then !([2, 8, 23, 32, 38, 44, 47] : List Nat).contains st
  else if lp = 2 then st % 3 == 1
  else st == 0

/-- The domain of a port's endpoint; none for the central blocks, which lie in the fabric domains. -/
def portDom (st lp : Nat) : Option Nat := (List.range 26).find? fun d => (portsOfDom d).contains (st, lp)

/-- The boundary queue of a local port. -/
def bqOf (x : Station) (lp : Nat) : List (Option Nat × Bool) :=
  if lp = 0 then x.bq0 else if lp = 1 then x.bq1 else if lp = 2 then x.bq2 else x.bq3

/-- A station with the boundary queue of a port changed. -/
def setBq (x : Station) (lp : Nat) (q : List (Option Nat × Bool)) : Station :=
  if lp = 0 then { x with bq0 := q } else if lp = 1 then { x with bq1 := q }
  else if lp = 2 then { x with bq2 := q } else { x with bq3 := q }

/-- The fences of a domain's ports close or lift (R296, R297). -/
def setFences (s : State) (d : Nat) (on : Bool) : State :=
  (portsOfDom d).foldl (fun t p => modSt t p.1 fun x => { x with
    fenced := if on then x.fenced ||| (1#4 <<< p.2) else x.fenced &&& ~~~(1#4 <<< p.2) }) s

/-- The request a queued flit carries is answered with an error response (R89, R297, R300). -/
def answerFlit (s : State) (st lp dom : Nat) (entry : Option Nat) (asleep : Bool) : State :=
  let s := errorResponse s st lp dom asleep
  match entry with
  | none => s
  | some e => match trkAt s e with
    | none => s
    | some t => if t.st = .mirror then s else answerFrom s e t st (if asleep then 2 else 1)

/-- The wake of a domain has failed: its queued flits are answered ASLEEP, with an ERR event (R297). -/
def refuseQueues (s : State) (d : Nat) : State :=
  (portsOfDom d).foldl (fun t p =>
    let q := bqOf (stAt t p.1) p.2
    if q = [] then t
    else
      let t := modSt t p.1 fun x => setBq x p.2 []
      let t := q.foldl (fun u e => answerFlit u p.1 p.2 d e.1 true) t
      logEv t (srcOf (stBase p.1)) 0x7001 sevErr (le 2 p.1 ++ le 2 p.2 ++ kindByte 297 1)) s

/-- The fence has lifted: the queues are delivered in order (R297). -/
def deliverQueues (s : State) (d : Nat) : State :=
  (portsOfDom d).foldl (fun t p => modSt t p.1 fun x => setBq x p.2 []) s

/-! ## Links (R292, R301) -/

/-- FABRIC_FLIT_CRC_FAIL (R292): the sender replays. -/
def execFabricFlitCrcFail (st : Fin 48) (link : Fin 4) (s : State) : Host.Outcome State Fault Refusal :=
  if (stAt s st).linkFail.getLsbD link then .next s
  else .next (bump s (stBase st + 0x14))

/-- FABRIC_LINK_FAIL (R301): sixteen consecutive sends of a flit have failed. -/
def execFabricLinkFail (st : Fin 48) (link : Fin 4) (s : State) : Host.Outcome State Fault Refusal :=
  if (stAt s st).linkFail.getLsbD link then .next s
  else
    let s := modSt s st fun x => { x with linkFail := x.linkFail ||| (1#4 <<< link.val) }
    .next (logEv s (srcOf (stBase st)) 0x7001 sevFatal (le 2 st ++ le 2 link ++ kindByte 301 0))

/-! ## Epochs (R293, R294) -/

/-- Step 1 of R294: the new route table goes into every station's shadow table. -/
def loadShadow (s : State) (tables : List (List Nat)) : State :=
  let s := (List.range 48).foldl (fun t n => modSt t n fun x => { x with shadowV := true }) s
  { s with fabric := { s.fabric with shadow := tables, flipped := false, switched := false } }

/-- FLIP (R294 step 3): the station stamps the new epoch; `oldFlits` of the older one are still in it or on its links. -/
def execFlip (st : Fin 48) (oldFlits : Nat) (s : State) : Host.Outcome State Fault Refusal :=
  if !s.fabric.busy || !(stAt s st).shadowV then .next s
  else
    let s := modSt s st fun x => { x with epoch := !x.epoch, shadowV := false, oldCnt := min 0xFFFF oldFlits }
    if (List.range 48).any fun n => (stAt s n).shadowV then .next s
    else .next { s with fabric := { s.fabric with flipped := true, epoch := (stAt s 0).epoch } }

/-- SLOT_TABLE_SWITCH (R281, R294 step 4). -/
def execSlotTableSwitch (s : State) : Host.Outcome State Fault Refusal :=
  if !s.fabric.busy || !s.fabric.flipped || s.fabric.switched then .next s
  else .next { s with fabric := { s.fabric with slots := s.fabric.shadow, shadow := [], switched := true } }

/-- A flit of the old epoch is held in a boundary queue (R295). -/
def oldHeld (s : State) : Bool :=
  (List.range 48).any fun n =>
    let x := stAt s n
    (List.range 4).any fun lp => (bqOf x lp).any fun e => e.2 != x.epoch

/-- OLD_EPOCH_RETIRE (R294 steps 5 and 6): every flit of the old epoch has been delivered, absorbed or answered. -/
def execOldEpochRetire (s : State) : Host.Outcome State Fault Refusal :=
  if !s.fabric.busy || !s.fabric.flipped || !s.fabric.switched || oldHeld s then .next s
  else
    let s := { s with stations := tabMap {} (fun _ x => { x with oldCnt := 0 }) s.stations }
    .next { s with fabric := { s.fabric with busy := false } }

/-! ## Boundary queues (R297) -/

/-- BOUNDARY_QUEUE_ENTER (R297, R300): a REQ flit arrives at a port that is fenced, isolated, or of a domain that is OFF. -/
def execBoundaryQueueEnter (st : Fin 48) (lp : Fin 4) (entry : Option (Fin 24576)) (s : State) :
    Host.Outcome State Fault Refusal :=
  let e := entry.map Fin.val
  match portDom st lp with
  | none => if isDead s st lp then .next (answerFlit s st lp 6 e false) else .next s
  | some d =>
    if isDead s st lp then .next (answerFlit s st lp d e false)
    else if (domAt s d).st = .off then .next (answerFlit s st lp d e true)
    else if !(stAt s st).fenced.getLsbD lp then .next s
    else
      let q := bqOf (stAt s st) lp
      if 32 ≤ q.length then .next s
      else .next (askWake (modSt s st fun x => setBq x lp (q ++ [(e, x.epoch)])) d)

/-! ## Dead ports (R299, R300) -/

/-- The port signals HOLD, so that its credit timer stands still (R299). -/
def holds (s : State) (st lp : Nat) : Bool :=
  (stAt s st).fenced.getLsbD lp ||
  (match portDom st lp with
    | some d => (domAt s d).st = .waking
    | none => false) ||
  (lp == 1 && st % 3 == 0 && (chAt s (st / 3)).st != .online)

/-- Declares a port dead (R300): cause 1 credit timeout, 2 fatal parity. -/
def declareDead (s : State) (st lp cause : Nat) : State :=
  if !hasEndpoint st lp || isDead s st lp then s
  else
    let s := modSt s st fun x => { x with
      dead := x.dead ||| (1#4 <<< lp), cause := x.cause ||| (BitVec.ofNat 8 cause <<< (2 * lp)) }
    let s := if lp = 0 then failSpindle s st else s
    logEv s (srcOf (stBase st)) 0x7001 (if lp = 0 then sevErr else sevFatal) (le 2 st ++ le 2 lp ++ le 1 cause)

/-- PORT_CREDIT_TIMEOUT (R299, R300). -/
def execPortCreditTimeout (st : Fin 48) (lp : Fin 4) (s : State) : Host.Outcome State Fault Refusal :=
  if holds s st lp then .next s else .next (declareDead s st lp 1)

/-- ENDPOINT_FATAL_PARITY (R299, R300). -/
def execEndpointFatalParity (st : Fin 48) (lp : Fin 4) (s : State) : Host.Outcome State Fault Refusal :=
  .next (declareDead s st lp 2)

end Sys2Proof.Machine
end

