-- ==== Sys2Proof/Machine/Seats.lean ====
section
/-! DEFINITION. Seats and windows as they are enabled, disabled and drained (R48, R57, R58, R74, R75), and Dynamic
Capacity (R70–R73). -/

namespace Sys2Proof.Machine

open Sys2Proof

/-! ## Events (R413) -/

def seatCode : SeatState → Nat
  | .none => 0
  | .attached => 1
  | .detached => 2
  | .suspect => 3
  | .disabling => 4
  | .disabled => 5

def winCode : WinState → Nat
  | .offline => 0
  | .online => 1
  | .disabling => 2
  | .disabled => 3

/-- A seat's state change. -/
def seatEvent (s : State) (seat : Nat) : State :=
  logEvFor s (srcOf seatwinBase) 0x2003 sevInfo (le 2 seat ++ le 1 (seatCode (seatAt s seat).state)) [seat] []

/-- A window's state change, or a Dynamic Capacity step at a block. -/
def winEvent (s : State) (w block : Nat) : State :=
  logEvFor s (srcOf seatwinBase) 0x2003 sevInfo (le 2 w ++ le 1 (winCode (winAt s w).state) ++ le 4 block) [] [w]

/-! ## Windows (R74, R75) -/

/-- Pending blocks of a window are freed (R73). -/
def freePending (s : State) (w : Nat) : State :=
  ledgerPut { s with blocks := tabFilter (fun _ b => !(b.win == w && (b.st == 1 || b.st == 4))) s.blocks }

/-- A window begins to disable (R74, R75). A re-weave that removes a window which is DISABLING already takes the disable
over. Sanitize, Secure Erase and a life-cycle transition leave a DISABLED window DISABLED, and a window that is DISABLING
because of ENABLE goes on to DISABLED: R75 has no other row for them (DESIGN CHOICE, log entry 91). -/
def disableWindow (s : State) (w : Nat) (cause : DrainCause) : State :=
  let x := winAt s w
  match x.state with
  | .online =>
    let s := modWin s w fun x => { x with
      state := .disabling, enable := false, cause := some cause, disOrd := s.stamp, pendEn := none }
    let s := freePending (dumpWindowLeft (stampNext s) w) w
    if x.db then purgeRange s (x.dlaHank * 0x200000) (winBytes x) else s
  | .disabling =>
    match cause with
    | .enable => modWin s w fun x => { x with pendEn := some false }
    | .reweave => modWin s w fun x => { x with cause := some .reweave }
    | .sanitize => s
  | .disabled => s
  | .offline => s

/-- No window may come back before an image loads: a Sanitize, Secure Erase or life-cycle transition runs or has run since
the last load (R44, R75, R181). -/
def emptied (s : State) : Bool := s.img.sanitized || s.img.erased || s.mgmt.bg.isSome || lcRuns s

/-- ENABLE written 1 (R75). -/
def enableWindow (s : State) (w : Nat) : State :=
  let x := winAt s w
  match x.state with
  | .disabled =>
    if emptied s then s else modWin s w fun x => { x with state := .online, enable := true, cause := none }
  | .disabling => modWin s w fun x => { x with pendEn := some true }
  | _ => s

/-- A descriptor names the window. -/
def descNames (s : State) (k : Nat) (d : Desc) (w : Nat) : Bool :=
  (operandRanges d.raw).any fun r =>
    match seatRange s (ringAt s (ringOfKey k)).seat r.1 r.2 with
    | some (v, _) => v == w
    | none => false

/-- Nothing of the window is in flight any more (R74); a REKEY walk does not hold it (R178). -/
def winDrained (s : State) (w : Nat) : Bool :=
  !(s.trk.any fun e => match e.2 with
    | some t => t.m.win == w
    | none => false) &&
  !(s.descs.any fun e => match e.2 with
    | some d => d.st = .started && dOp d.raw != 12 && descNames s e.1 d w
    | none => false) &&
  !(s.xing.any fun e => match e.2 with
    | some x => x.win == w
    | none => false) &&
  !purgePending s fun line _ => winOfDla s (line * 64) == some w

/-- Every forwarded write of the window has been acknowledged. -/
def fwdsDone (s : State) (w : Nat) : Bool := !s.pair.fwds.any fun f => f.win == w && !f.rs

/-- WINDOW_ENABLE (R75, R463). -/
def execWindowEnable (by_ : Agent) (win : Fin 4096) (s : State) : Host.Outcome State Fault Refusal :=
  .next (access s by_ (seatwinBase + 0x1C) (.windowEnable by_ win) fun s => enableWindow s win)

/-- WINDOW_DISABLE (R74, R75). -/
def execWindowDisable (by_ : Agent) (win : Fin 4096) (s : State) : Host.Outcome State Fault Refusal :=
  .next (access s by_ (seatwinBase + 0x1C) (.windowDisable by_ win) fun s => disableWindow s win .enable)

/-- A mirror window whose role has changed to secondary has drained: HANDOVER goes to the partner (R348). -/
def sendHandover (s : State) (w : Nat) : State :=
  let s := modWin s w fun x => { x with sendHand := false }
  match portFor s (.handover w) with
  | some p => plySend s p (.handover w)
  | none => s

/-! ## Seats (R57, R58, R74) -/

/-- Rings of a seat. -/
def seatRings (s : State) (seat : Nat) : List Nat :=
  (s.rings.filter fun e => e.2.st != .none && e.2.seat == seat).map (·.1)

/-- ENABLE written 1 (R57, R58). -/
def enableSeat (s : State) (seat : Nat) : State :=
  let x := seatAt s seat
  match x.state with
  | .disabled => modSeat s seat fun x => { x with
      state := if seatUp s seat then .attached else .detached, enable := true, lostAt := none, gone := false }
  | .disabling => modSeat s seat fun x => { x with pendEn := some true }
  | _ => s

/-- A seat begins to disable (R74): its rings too (R205), and it is back-invalidated from every line it holds. -/
def disableSeat (s : State) (seat : Nat) (removing : Bool) : State :=
  let x := seatAt s seat
  match x.state with
  | .attached | .suspect | .detached =>
    let s := modSeat s seat fun y => { y with
      state := .disabling, enable := false, pendEn := none, removing := removing, gone := x.state = .detached }
    let s := (seatRings s seat).foldl (fun t r => disableRing t r false) s
    if x.state = .detached then s else purgeSeat s seat
  | .disabling => modSeat s seat fun y => { y with
      pendEn := if removing then y.pendEn else some false, removing := y.removing || removing }
  | .disabled => modSeat s seat fun y => { y with removing := y.removing || removing }
  | .none => s

/-- Nothing of the seat is in flight any more (R74). -/
def seatDrained (s : State) (seat : Nat) : Bool :=
  !(s.trk.any fun e => match e.2 with
    | some t => t.m.seat == seat
    | none => false) &&
  (seatRings s seat).all (fun r => (ringAt s r).inflight == 0) &&
  !(s.xing.any fun e => match e.2 with
    | some x => x.seat == seat
    | none => false) &&
  !purgePending s fun _ seats => seats.contains seat

/-- SEAT_ENABLE (R57). -/
def execSeatEnable (by_ : Agent) (seat : Fin 1024) (s : State) : Host.Outcome State Fault Refusal :=
  .next (access s by_ (seatwinBase + 0x0C) (.seatEnable by_ seat) fun s => enableSeat s seat)

/-- SEAT_DISABLE (R74). -/
def execSeatDisable (by_ : Agent) (seat : Fin 1024) (s : State) : Host.Outcome State Fault Refusal :=
  .next (access s by_ (seatwinBase + 0x0C) (.seatDisable by_ seat) fun s => disableSeat s seat false)

/-! ## A seat without a path (R48) -/

/-- One line of a seat that has lost its paths: a shared line loses the pointer, an exclusive one is poisoned. The count
grows by the lines poisoned. -/
def detachLine (seat : Nat) (q : State × Nat) (key : Nat) : State × Nat :=
  let (s, n) := q
  let c := creelAt s key
  let held := c.fmt = .ptr && c.ptrs.contains seat
  if !held || c.mir then (s, n)
  else match c.st with
    | .shared =>
      let ps := c.ptrs.filter (· != seat)
      (if ps = [] then freeCentry s key else setCentry s key { c with ptrs := ps }, n)
    | .exclusive =>
      (poisonHeld s c.line ((winOfDla s (c.line * 64)).getD 0) srcDetached, n + 1)
    | _ => (s, n)

/-- A stopped snoop to the seat completes on the same terms: the line it held exclusive is poisoned. A writeback that the
record already holds is applied instead, with the answer that the seat holds nothing. -/
def detachSnoop (seat : Nat) (q : State × Nat) (r : Nat) : State × Nat :=
  let (s, n) := q
  match xingAt s r with
  | none => (s, n)
  | some x =>
    if x.seat ≠ seat then (s, n)
    else if x.buf != [] then (modXing s r fun _ => some { x with ans := some (x.ans.getD .i) }, n)
    else
      let excl := match actAt s x.line with
        | some a => a.excl && !x.wbDone
        | none => false
      if excl then (breakLine s x.line x.win srcDetached, n + 1) else (snoopDone s r x .i, n)

/-- What the creel does for a seat that goes DETACHED (R48): the state and the number of lines poisoned. -/
def detachCreel (s : State) (seat : Nat) : State × Nat :=
  let q := ((s.creel.filter fun e => e.2.st = .shared || e.2.st = .exclusive).map (·.1)).foldl (detachLine seat) (s, 0)
  (q.1.xing.map (·.1)).foldl (detachSnoop seat) q

/-- SEAT_DETACH_TIMEOUT (R48, R57): 1 ms after the last path left L0. -/
def execSeatDetachTimeout (seat : Fin 1024) (s : State) : Host.Outcome State Fault Refusal :=
  let x := seatAt s seat
  match x.lostAt with
  | none => .next s
  | some t =>
    if !(x.state = .attached || x.state = .suspect || x.state = .disabling) || seatUp s seat then .next s
    else
      let s := advanceTo s (t + 1000000)
      let s := modSeat s seat fun y => { y with
        state := if y.state = .disabling then .disabling else .detached, lostAt := none, gone := true }
      let q := detachCreel s seat
      let s := logEvFor q.1 (srcOf (hpBase (x.lastPath / 4))) 0x1002 sevErr (le 2 seat ++ le 4 q.2) [seat.val] []
      let s := latchEvt s x.lastPath evtDetach
      .next (resume s)

/-! ## Dynamic Capacity (R70–R73) -/

/-- The blocks of extents of a window, by DLA block number; none where they leave the window. -/
def extBlocks (s : State) (w : Nat) (exts : List Extent) : Option (List Nat) :=
  let x := winAt s w
  if exts.all fun e => decide (0 < e.count) && decide ((e.first + e.count) * 128 ≤ x.size) then
    some (exts.flatMap fun e => (List.range e.count).map fun i => x.dlaHank / 128 + e.first + i)
  else none

/-- The window may take Dynamic Capacity commands (R70, R73). -/
def dcUsable (s : State) (w : Nat) : Bool :=
  let x := winAt s w
  x.dc && x.size != 0 && x.state = .online

/-- The blocks go to a state. -/
def setBlocks (s : State) (l : List Nat) (f : Block → Block) : State := l.foldl (fun t b => modBlock t b f) s

/-- Numbers the extents of an add in order, each with its own number (R69). -/
def numberExts (w seat st : Nat) : List Extent → State → State
  | [], s => s
  | e :: t, s =>
    let bs := (extBlocks s w [e]).getD []
    let n := s.nextExt
    let s := setBlocks s bs fun _ => { st := st, ext := n, win := w, seat := seat }
    numberExts w seat st t { s with nextExt := n + 1 }

/-- A Dynamic Capacity event to the seat's host (R71, R72), with the device's own record: kind 0x71 add, 0x72 release
request, 0x73 release complete. -/
def dcEvent (s : State) (w seat kind : Nat) (exts : List Extent) : State :=
  let s := emit s (.hostEvent seat kind (w :: exts.flatMap fun e => [e.first, e.count]))
  logEvFor s (srcOf seatwinBase) 0x2003 sevInfo
    (le 2 w ++ le 1 (winCode (winAt s w).state) ++ le 4 (match exts with
      | e :: _ => e.first
      | [] => 0)) [seat] [w]

/-- Blocks come online (R71); in a mirrored window the change goes to the partner as META, and the answer waits for its
acknowledgement (R343). The answer is whether anything must be waited for. -/
def blocksOnline (s : State) (w : Nat) (l : List Nat) : State × Bool :=
  l.foldl (fun (q : State × Bool) b =>
    let s := cdatChange (modBlock q.1 b fun x => { x with st := 2 }) w
    let (s, waits) := sendMeta s w 3 (b * 0x10000000) none
    (s, q.2 || waits)) (s, false)

/-- An add that both ledgers accept (R71 steps 3 and 5). -/
def addAccepted (s : State) (w seat : Nat) (exts : List Extent) : State :=
  let bs := (extBlocks s w exts).getD []
  let s := setBlocks s bs fun x => { x with st := 1 }
  let s := dcEvent s w seat 0x71 exts
  if isOwner s seat then s else (blocksOnline s w bs).1

/-- Answers a command of the fabric manager or the island (R71). -/
def dcAnswer (s : State) (src : FmSource) (op : Nat) (r : Ret) : State :=
  emit s (.answer (match src with
    | .fmApi => none
    | .island => some .mctp) op r [])

/-- INITIATE_DC_ADD (R67, R71, R73, R343). -/
def execInitiateDcAdd (src : FmSource) (seat : Fin 1024) (win : Fin 4096) (exts : List Extent) (s : State) :
    Host.Outcome State Fault Refusal :=
  mcGate s (.initiateDcAdd src seat win exts) fun s =>
  let w := win.val
  let x := winAt s w
  let ans := fun (s : State) (r : Ret) => dcAnswer s src 0x71 r
  match extBlocks s w exts with
  | none => .next (ans s .invalidInput)
  | some bs =>
    if !dcUsable s w || !reaches s seat w || exts = [] || !bs.Nodup || (bs.any fun b => (blockAt s b).st != 0) then
      .next (ans s .invalidInput)
    else if x.mirror ≠ 0 ∧ x.ms ≠ .sync then .next (ans s .resourcesExhausted)
    else
      let t := numberExts w seat (if x.mirror = 0 then 1 else 4) exts s
      let code := ledgerTry s t.blocks
      if code ≠ 0 then .next (ans (ledgerRefuse s code) .resourcesExhausted)
      else
        let t := ledgerPut t
        if x.mirror = 0 then .next (ans (addAccepted t w seat exts) .success)
        else
          let tag := t.pair.nextTag
          let b : PlyBody := .ledger tag w exts
          match portFor t b with
          | some p =>
            let t := plySend t p b
            .next { t with pair := { t.pair with
              nextTag := tag % 0xFFFF + 1, ops := t.pair.ops ++ [(p, .ledger tag w exts seat src)] } }
          | none => .next (ans s .resourcesExhausted)

/-- Frees pending blocks (R71). -/
def freeBlocks (s : State) (l : List Nat) : State := ledgerPut (setBlocks s l fun _ => {})

/-- Blocks whose release takes effect stop being online, and their sharers are back-invalidated (R72). -/
def startRelease (s : State) (w : Nat) (l : List Nat) (who : Option Cci) : State :=
  let s := setBlocks s l fun x => { x with st := 3, answer := who }
  let s := if l = [] then s else cdatChange s w
  if isDb s w then l.foldl (fun t b => purgeRange t (b * 0x10000000) 0x10000000) s else s

/-- INITIATE_DC_RELEASE (R71, R72): a request to the seat; pending blocks that it names are freed. -/
def execInitiateDcRelease (seat : Fin 1024) (win : Fin 4096) (exts : List Extent) (s : State) :
    Host.Outcome State Fault Refusal :=
  mcGate s (.initiateDcRelease seat win exts) fun s =>
  match extBlocks s win exts with
  | none => .next (emit s (.answer none 0x72 .invalidInput []))
  | some bs =>
    if !dcUsable s win || !reaches s seat win then .next (emit s (.answer none 0x72 .invalidInput []))
    else
      let pend := bs.filter fun b => (blockAt s b).st == 1
      let s := if pend = [] then s else freeBlocks s pend
      let s := if bs.any fun b => (blockAt s b).st == 2 then dcEvent s win seat 0x72 exts else s
      .next (emit s (.answer none 0x72 .success []))

/-- FORCED_DC_REMOVAL (R72): takes effect at once. -/
def execForcedDcRemoval (win : Fin 4096) (exts : List Extent) (s : State) : Host.Outcome State Fault Refusal :=
  mcGate s (.forcedDcRemoval win exts) fun s =>
  match extBlocks s win exts with
  | none => .next (emit s (.answer none 0x73 .invalidInput []))
  | some bs =>
    if !dcUsable s win then .next (emit s (.answer none 0x73 .invalidInput []))
    else
      let pend := bs.filter fun b => (blockAt s b).st == 1
      let on := bs.filter fun b => (blockAt s b).st == 2
      let s := if pend = [] then s else freeBlocks s pend
      .next (emit (startRelease s win on none) (.answer none 0x73 .success []))

/-- Requests to a block have completed and its sharers are gone (R72). -/
def blockDrained (s : State) (b : Nat) : Bool :=
  !(s.trk.any fun e => match e.2 with
    | some t => t.m.dla / 0x10000000 == b
    | none => false) &&
  !(s.xing.any fun e => match e.2 with
    | some x => x.line * 64 / 0x10000000 == b
    | none => false) &&
  !purgePending s fun line _ => line * 64 / 0x10000000 == b

/-- POISONED creel entries of a released block are freed: capacity newly given to the window reads zeros (R70; DEDUCED, log
entry 92). -/
def dropPoisoned (s : State) (b : Nat) : State :=
  (s.creel.filter fun e => e.2.st = .poisoned && !e.2.mir && e.2.line * 64 / 0x10000000 == b).foldl
    (fun t e => freeCentry t e.1) s

/-- A released block's mappings and storage go (R72 step 4). -/
def dropBlock (w : Nat) (s : State) (b : Nat) : State :=
  let s := dropPoisoned (dropBlockHanks s w b) b
  let (s, waits) := sendMeta s w 4 (b * 0x10000000) none
  modBlock s b fun x => if waits then { x with st := 5 } else {}

/-- Completes the commands that no longer wait for a block (R72, R343). -/
def dcAnswers (s : State) (w op : Nat) (l : List (Option Cci)) : State :=
  (l.eraseDups).foldl (fun t a => match a with
    | some c =>
      if t.blocks.any fun b => b.2.win == w && b.2.answer == some c then t
      else cciAnswer t c op .success []
    | none => t) s

/-- DC_RELEASE_COMPLETE (R72 step 4). -/
def execDcReleaseComplete (win : Fin 4096) (s : State) : Host.Outcome State Fault Refusal :=
  let w := win.val
  let rel := s.blocks.filter fun b => b.2.win == w && b.2.st == 3
  if rel = [] ∨ (rel.all fun b => blockDrained s b.1) = false then .next s
  else
    let s := rel.foldl (fun t b => dropBlock w t b.1) s
    let s := ledgerPut s
    let s := dcAnswers s w 0x4803 (rel.map fun b => b.2.answer)
    let s := if rel.any fun b => b.2.answer.isNone then winEvent s w (rel.headD (0, {})).1 else s
    .next (resume s)

/-- The partner has acknowledged a block's change (R343). -/
def metaAcked (s : State) (w kind dla : Nat) : State :=
  let b := dla / 0x10000000
  let a := (blockAt s b).answer
  if kind = 3 then
    dcAnswers (modBlock s b fun x => { x with answer := none }) w 0x4802 [a]
  else if kind = 4 then
    dcAnswers (modBlock s b fun x => if x.st = 5 then {} else x) w 0x4803 [a]
  else s

end Sys2Proof.Machine
end

