-- ==== Sys2Proof/Machine/Ply.lean ====
section
/-! DEFINITION. The ply ports as link layers: packets received (R329–R332), timers (R330, R331, R333), lanes (R334), link
down (R335) and pairing (R336). -/

namespace Sys2Proof.Machine

open Sys2Proof

/-! ## The port and its image -/

/-- The bytes of a section of the configuration in force (R310). -/
def imgSec (s : State) (ty : Nat) : List Byte :=
  match s.img.secs.find? fun e => e.1 == ty with
  | some e => e.2
  | none => []

/-- The port exists and the image enables it (R2, R310). -/
def plyEnabled (s : State) (p : Nat) : Bool := s.boot.partH && bitOf (numAt (imgSec s 0x0001) 5 1) p

/-- SHAKE256-256 digest of the device's identity public key (R434, R440). -/
def idDigest : List Byte := digest (bytesAt Config.identityKey 0 1793)

/-- Digest of the partner's key that the PLY section holds (R310). -/
def partnerDigest (s : State) : List Byte := bytesAt (imgSec s 0x000E) 0 32

/-- The device is the initiator: its digest is lower, compared from byte 0 (R336). -/
def isInitiator (s : State) : Bool :=
  decide (leNat idDigest.reverse < leNat (partnerDigest s).reverse)

def plyCode : PlySt → Nat
  | .down => 0
  | .training => 1
  | .pairing => 2
  | .up => 3
  | .authFail => 4

/-- The event record of a port (R413). -/
def plyEvent (s : State) (p sev : Nat) : State :=
  logEv s (srcOf (plyBase p)) 0xA001 sev (le 1 p ++ le 1 (plyCode (plyAt s p).st))

/-! ## Mirror tables and peer operations -/

def mirroredWins (s : State) : List Nat := (s.wins.filter fun e => e.2.size != 0 && e.2.mirror != 0).map (·.1)

/-- A window as MTAB lists it (R338). -/
def mtabEntry (s : State) (w : Nat) : MtabEntry :=
  let x := winAt s w
  { win := w, dlaHank := x.dlaHank, sizeHanks := x.size, hdmDb := x.db, elastic := x.elastic, dc := x.dc, owner := x.owner,
    group := x.group, mirror := x.mirror, secondary := x.secondary, syncId := x.syncId }

/-- Sends the mirror table, while the pair link is up (R338). -/
def sendMtab (s : State) : State :=
  let b : PlyBody := .mtab ((mirroredWins s).map (mtabEntry s))
  match portFor s b with
  | some p => plySend s p b
  | none => s

/-- A metadata record of a descriptor needs to be waited for no longer: the descriptor ends with the last (R343). -/
def metaDone (s : State) (desc : Option Nat) : State :=
  match desc with
  | none => s
  | some k =>
    match descAt s k with
    | none => s
    | some d =>
      let s := modDesc s k fun _ => some { d with metaWait := d.metaWait - 1 }
      if d.metaWait = 1 then endDesc s k d.status d.r0 d.r1 d.r2 else s

/-- The partner holds the key set of a new window, or cannot be reached: the window goes ONLINE (R179). -/
def peerReady (s : State) (w : Nat) : State :=
  let x := winAt s w
  if !x.waitPeer then s
  else if x.state = .offline && !s.img.sanitized && !s.img.erased then
    winEvent (modWin s w fun x => { x with waitPeer := false, state := .online, enable := true }) w 0
  else modWin s w fun x => { x with waitPeer := false }

/-- The partner's walk has ended: the REKEY is answered once this device's own walk has ended too (R179). -/
def peerWalkEnded (s : State) (w : Nat) : State :=
  let k := (winAt s w).keySlot
  let x := slotAt s k
  let s := modSlot s k fun y => { y with peerWalk := false }
  if x.peerWalk && x.st = .active then
    answerWalk (modSlot s k fun y => { y with by_ := none, island := false }) { x with ptag := none } stOk
  else s

/-- The synthetic completion LINK_DOWN of a peer operation (R335). -/
def opLinkDown (s : State) (o : PeerOp) : State :=
  match o with
  | .keyset w _ =>
    peerReady (modSlot s (winAt s w).keySlot fun x => { x with peerKey := false }) w
  | .metaRec w dla kind _ desc =>
    let s := degrade (setDirty s w (hankOff s w dla)) w
    metaAcked (metaDone s desc) w kind dla
  | .ledger _ w exts _ src => dcAnswer (freeBlocks s ((extBlocks s w exts).getD [])) src 0x71 .resourcesExhausted
  | .rekey _ w => peerWalkEnded s w
  | .pread _ => s
  | .mbox box _ => emit (modMbx s box fun x => { x with lnkDn := true }) (.mcIrq (0x4170 + box))

/-- A packet that R335 discards: what it changed is marked DIRTY and its window goes DEGRADED (R339, R340, R343). -/
def discardBody (s : State) (b : PlyBody) : State :=
  let mark := fun (dla : Nat) =>
    match winOfDla s dla with
    | some w => if mirrorPrimary s w then degrade (setDirty s w (hankOff s w dla)) w else s
    | none => s
  match b with
  | .mwr w => mark (w.dlaLine * 64)
  | .rsync w => mark (w.dlaLine * 64)
  | .metaRec _ _ dla => mark dla
  | .keyset w _ _ => degrade s w
  | .resyncStart w => degrade s w
  | .resyncEnd w _ => degrade s w
  | .handover w => degrade s w
  | .crec _ recs => recs.foldl (fun t r =>
      match winOfDla t (r.line * 64) with
      | some w => degrade t w
      | none => t) s
  | _ => s

/-! ## Link down (R335) -/

/-- The session of a port ends: sequence numbers, TXC, credits and pairing start afresh. -/
def plyFresh (x : Ply) (st : PlySt) (now : Nat) : Ply :=
  { x with st := st, init := false, seq := 0, acc := 0xFFFF, unacked := 0, unackAt := none, txc := 0, rxTxc := none,
           replay := [], timer := none, credReq := 0, credRsp := 0, queue := [], retReq := 0, retRsp := 0,
           step := 0, stepAt := now, frags := [], lane := none, rxLane := none, key := 0 }

/-- A port goes down (R335); it retrains unless its reference or its power is gone. -/
def plyDown (s : State) (p : Nat) (st : PlySt) : State :=
  let x := plyAt s p
  let lost := x.replay.map (·.2) ++ x.queue
  let ops := s.pair.ops.filter fun o => o.1 == p
  let s := modPly s p fun x => plyFresh x st s.now
  let s := { s with pair := { s.pair with
    ops := s.pair.ops.filter fun o => o.1 != p
    inq := s.pair.inq.map fun i => if i.port = p then { i with live := false } else i } }
  let s := lost.foldl discardBody s
  let s := { s with pair := { s.pair with
    fwds := s.pair.fwds.map fun f => if f.port = p then { f with seq := 0x10000 } else f } }
  let s := ops.foldl (fun t o => opLinkDown t o.2) s
  if x.st = .up then
    let s := plyEvent (bump s (plyBase p + 0x20)) p sevWarn
    let s := if pairUp s then s else (mirroredWins s).foldl degrade s
    resume s
  else s

/-! ## Receiving (R329–R332) -/

/-- MBOX messages of a port that have been acknowledged at link level count as sent (R421). -/
def boxesAcked (s : State) (p : Nat) : State :=
  let x := plyAt s p
  let held := x.replay.map (·.1) ++ (List.range x.queue.length).map fun i => (x.seq.toNat + i) % 0x10000
  { s with pair := { s.pair with ops := s.pair.ops.filter fun o =>
      match o.2 with
      | .mbox _ q => o.1 != p || held.contains q
      | _ => true } }

/-- After a packet received on a port whose queue held creel records in `s`: the grants that waited for one of them move
on (R344). -/
def passHeld (s : State) (p : Nat) (t : State) : State :=
  if (plyAt s p).queue.any fun b => match b with
    | .crec _ _ => true
    | _ => false then resume t else t

/-- Checks a packet and takes what its header says: CRC, tag and TXC, then credits and acknowledgement. False where the
packet is discarded. -/
def plyIn (s : State) (p : Nat) (h : PlyHdr) : State × Bool :=
  let s := unIdle s (24 + p)
  let x := plyAt s p
  let bad := fun (s : State) => modPly s p fun x => { x with tailErr := true }
  if !(x.st = .up || (x.st = .pairing && x.step == 6)) then (s, false)
  else if !h.crcOk then (bad (bump s (plyBase p + 0x10)), false)
  else if !h.tagOk then
    let s := bad (bump s (plyBase p + 0x14))
    let s := logEv s (srcOf (plyBase p)) 0xA001 sevErr (le 1 p ++ kindByte 329 0)
    (plyDown s p .training, false)
  else if (match x.rxTxc with
      | some t => decide (h.txc ≤ t)
      | none => false) then (bump s (plyBase p + 0x18), false)
  else
    let s := modPly s p fun x => { x with
      rxTxc := some h.txc, rcvdAt := s.now
      credReq := min 512 (x.credReq + h.credReq), credRsp := min 256 (x.credRsp + h.credRsp) }
    (boxesAcked (plyDrain (plyAcked s p h.ack.toNat) p) p, true)

/-- A standalone ACK. -/
def plyAckNow (s : State) (p : Nat) : State := plySendControl s p .ack

/-- Takes the next packet in order (R331, R332, R334): it is counted for the next acknowledgement, its credits return at
once, unless `later`, where they do once its buffer is free, and a lane change takes effect at its SEQ. -/
def plyTake (s : State) (p : Nat) (h : PlyHdr) (rsp later : Bool) : State :=
  let n := if later then 0 else max 1 (ceilDiv h.len 64)
  modPly s p fun x => { x with
    acc := h.seq, unacked := x.unacked + 1, unackAt := some (x.unackAt.getD s.now), tailErr := false
    retReq := if rsp then x.retReq else x.retReq + n
    retRsp := if rsp then x.retRsp + n else x.retRsp
    rxWidth := match x.rxLane with
      | some (e, w) => if e = h.seq.toNat then w else x.rxWidth
      | none => x.rxWidth
    rxLane := match x.rxLane with
      | some (e, w) => if e = h.seq.toNat then none else some (e, w)
      | none => none }

/-- An ACK goes at once after 64 packets that no packet sent has acknowledged (R331). -/
def plyAckDue (s : State) (p : Nat) : State := if 64 ≤ (plyAt s p).unacked then plyAckNow s p else s

/-- A sequenced packet (R331): accepted in order, answered at once where it is a duplicate, discarded where an earlier one
has been lost. `later`: its credits return once its buffer is free. -/
def plySeqIn (s : State) (p : Nat) (h : PlyHdr) (rsp later : Bool) (f : State → State) : State :=
  let (t, ok) := plyIn s p h
  let x := plyAt t p
  if !ok || x.st != .up then t
  else
    let d := (h.seq - x.acc).toNat
    passHeld s p (if d = 1 then plyAckDue (f (plyTake t p h rsp later)) p
      else if d = 0 ∨ 0x8000 ≤ d then plyAckNow (bump t (plyBase p + 0x18)) p
      else t)

/-- A control packet: accepted as soon as it has passed its checks, which ends a tail error of a port that is UP (R335). -/
def plyControlIn (s : State) (p : Nat) (h : PlyHdr) : State × Bool :=
  let (t, ok) := plyIn s p h
  if ok then (passHeld s p (if plyUp s p then modPly t p fun x => { x with tailErr := false } else t), true) else (t, false)

/-- PLY_ACK (R331). -/
def execPlyAck (p : Fin 2) (h : PlyHdr) (s : State) : Host.Outcome State Fault Refusal := .next (plyControlIn s p h).1

/-! ## Pairing (R336) -/

/-- Cuts a message into fragments of at most 256 bytes. -/
def cutMessage : Nat → List Byte → List (List Byte)
  | 0, _ => []
  | n + 1, l => if l = [] then [] else l.take 256 :: cutMessage n (l.drop 256)

/-- Sends the message of a pairing step in fragments. -/
def sendPair (s : State) (p step : Nat) (msg : List Byte) : State :=
  let fs := cutMessage (ceilDiv msg.length 256) msg
  (List.range fs.length).foldl (fun t i => plySendControl t p (.pair step i fs.length (fs.getD i []))) s

/-- Pairing stands at a step. -/
def atStep (s : State) (p step : Nat) : State :=
  modPly s p fun x => { x with st := .pairing, step := step, stepAt := s.now, frags := [] }

/-- Step 2: HELLO, the identity public key and a nonce. -/
def sendHello (s : State) (p : Nat) : State :=
  let nonce := Config.freeBytes s.free 32
  sendPair (nextFree (atStep s p 2)) p 2 (bytesAt Config.identityKey 0 1793 ++ nonce)

/-- Free bytes stand for a key-encapsulation message and its signature: `n` and 1,280 bytes (log entry 7). -/
def sendExchange (s : State) (p step n : Nat) : State :=
  sendPair (nextFree s) p step (Config.freeBytes s.free (n + 1280))

/-- Steps 5 and 6: the session keys, which come from a shared secret and are a free value (log entry 7), and an encrypted
KEEPALIVE with TXC 0. -/
def sendFirst (s : State) (p : Nat) : State :=
  plySendControl (modPly (nextFree (atStep s p 6)) p fun x => { x with key := s.free + 1, txc := 0, rxTxc := none, rcvdAt := s.now }) p .keepalive

/-- A digest mismatch or a failed signature. -/
def authFail (s : State) (p : Nat) : State :=
  plyEvent (modPly s p fun x => { plyFresh x .authFail s.now with tailErr := x.tailErr }) p sevErr

/-- A whole message of the awaited step has arrived. -/
def pairMessage (s : State) (p step : Nat) (sigOk : Bool) (msg : List Byte) : State :=
  match step with
  | 2 =>
    if digest (bytesAt msg 0 1793) != partnerDigest s || msg.length != 1825 then authFail s p
    else
      let i := isInitiator s
      let s := modPly (atStep s p 3) p fun x => { x with init := i }
      if i then sendExchange (atStep s p 4) p 3 1568 else s
  | 3 => if sigOk then sendFirst (sendExchange s p 4 1568) p else authFail s p
  | 4 => if sigOk then sendFirst s p else authFail s p
  | _ => s

/-- PAIR (R328, R336): a fragment of the message awaited. The responder awaits step 3, the initiator step 4. -/
def execPair (p : Fin 2) (h : PlyHdr) (step frag frags : Nat) (sigOk : Bool) (payload : List Byte) (s : State) :
    Host.Outcome State Fault Refusal :=
  let x := plyAt s p
  if x.st ≠ .pairing ∨ x.step = 6 then .next s
  else if !h.crcOk then .next (modPly (bump s (plyBase p + 0x10)) p fun x => { x with tailErr := true })
  else if step ≠ x.step ∨ frag ≠ x.frags.length then .next s
  else
    let got := x.frags ++ [payload.take 256]
    let s := modPly s p fun x => { x with frags := got, rcvdAt := s.now }
    if got.length < frags then .next s else .next (pairMessage s p step sigOk got.flatten)

/-- PLY_PHY_TRAINED (R326, R336 step 1). -/
def execPlyPhyTrained (p : Fin 2) (width : Nat) (s : State) : Host.Outcome State Fault Refusal :=
  let x := plyAt s p
  if !plyEnabled s p || !(x.st = .training || x.st = .down) || s.boot.refLost.getLsbD (4 + p.val) ||
      !domAwake s (24 + p.val) || !([1, 2, 4, 8, 16].contains width) then .next s
  else
    let n := min width x.maxWidth
    .next (sendHello (modPly s p fun x => { plyFresh x .pairing s.now with rxWidth := n, txWidth := n }) p)

/-- PAIRING_STEP_TIMEOUT (R336): a step past its latest time restarts pairing from step 2. -/
def execPairingStepTimeout (p : Fin 2) (s : State) : Host.Outcome State Fault Refusal :=
  let x := plyAt s p
  if x.st ≠ .pairing ∨ x.step < 2 ∨ 4 < x.step then .next s
  else
    let s := advanceTo s (x.stepAt + (if x.step = 2 then 1000000 else 20000000))
    .next (sendHello (modPly s p fun x => { x with init := false }) p)

/-- AUTH_FAIL_RETRY (R336). -/
def execAuthFailRetry (p : Fin 2) (s : State) : Host.Outcome State Fault Refusal :=
  let x := plyAt s p
  if x.st ≠ .authFail then .next s
  else
    let s := advanceTo s (x.stepAt + 1000000000)
    .next (modPly s p fun x => { x with st := .training, stepAt := s.now })

/-! ## Timers -/

/-- REPLAY_TIMER_EXPIRY (R330). -/
def execReplayTimerExpiry (p : Fin 2) (s : State) : Host.Outcome State Fault Refusal :=
  match (plyAt s p).timer with
  | some t => if plyUp s p then .next (plyReplay (advanceTo s (t + 2000)) p) else .next s
  | none => .next s

/-- ACK_TIMER (R331). -/
def execAckTimer (p : Fin 2) (s : State) : Host.Outcome State Fault Refusal :=
  match (plyAt s p).unackAt with
  | some t => if plyUp s p then .next (plyAckNow (advanceTo s (t + 500)) p) else .next s
  | none => .next s

/-- KEEPALIVE_TIMER (R333). -/
def execKeepaliveTimer (p : Fin 2) (s : State) : Host.Outcome State Fault Refusal :=
  let x := plyAt s p
  if x.st = .up || (x.st = .pairing && x.step == 6) then
    .next (plySendControl (advanceTo s (x.sentAt + 1000)) p .keepalive)
  else .next s

/-- PLY_RX_TIMEOUT (R333, R335): of a port that is UP, or that has its keys and waits for the partner's KEEPALIVE. -/
def execPlyRxTimeout (p : Fin 2) (s : State) : Host.Outcome State Fault Refusal :=
  if plyUp s p || ((plyAt s p).st = .pairing && (plyAt s p).step == 6) then .next (plyDown (advanceTo s ((plyAt s p).rcvdAt + 10000)) p .training) else .next s

/-- A port that is training, pairing or UP. -/
def plyRuns (s : State) (p : Nat) : Bool := (plyAt s p).st != .down

/-- PLY_PHY_DOWN (R333, R335). -/
def execPlyPhyDown (p : Fin 2) (s : State) : Host.Outcome State Fault Refusal :=
  if plyRuns s p then .next (plyDown s p .training) else .next s

/-- PLY_LANE_FAIL (R334, R335): the port goes down and retrains at the widest width still working. -/
def execPlyLaneFail (p : Fin 2) (s : State) : Host.Outcome State Fault Refusal :=
  if plyRuns s p then .next (plyDown s p .training) else .next s

/-! ## Lanes (R334) -/

/-- A width that the PLY section allows. -/
def widthOk (x : Ply) (w : Nat) : Bool := [1, 2, 4, 8, 16].contains w && decide (w ≤ x.maxWidth)

/-- Target transmit width (R352). -/
def laneTarget (s : State) (p : Nat) : Nat :=
  let w := fld (regN s (plyBase p + 4)) 4 0
  if widthOk (plyAt s p) w then w else (plyAt s p).maxWidth

/-- Starts a change to the target width where none runs: the effective SEQ is the one after LANESET's own (log entry 8). -/
def startLane (s : State) (p : Nat) : State :=
  let x := plyAt s p
  let w := laneTarget s p
  if x.st ≠ .up ∨ x.lane.isSome = true ∨ x.txWidth = w then s
  else
    let e := (nextSeq s p + 1) % 0x10000
    modPly (plySend s p (.laneset e w)) p fun x => { x with lane := some (e, w) }

/-- The port is UP (R336 step 6): the session's credits, the INFO event, and the mirror table. With it the pair link may
come up, and the partner's table is awaited afresh (R338, R350). A target width below the trained one is then changed to. -/
def goUp (s : State) (p : Nat) : State :=
  let s := if pairUp s then s else { s with pair := { s.pair with peerTab := [], peerTabIn := false } }
  let s := modPly s p fun x => { x with
    st := .up, step := 0, tailErr := false, crec := false, credReq := 512, credRsp := 256, rcvdAt := s.now }
  let s := sendMtab (plyEvent s p sevInfo)
  if laneTarget s p < (plyAt s p).txWidth then startLane s p else s

/-- KEEPALIVE (R333, R336). -/
def execKeepalive (p : Fin 2) (h : PlyHdr) (s : State) : Host.Outcome State Fault Refusal :=
  let (t, ok) := plyControlIn s p h
  if ok && (plyAt s p).st = .pairing then .next (goUp t p) else .next t

/-- LANE_WIDTH_CHANGE (R334, R352). -/
def execLaneWidthChange (by_ : Agent) (p : Fin 2) (width : Nat) (s : State) : Host.Outcome State Fault Refusal :=
  .next (access s by_ (plyBase p + 4) (.laneWidthChange by_ p width) fun s =>
    startLane (setReg s (plyBase p + 4) (word (width % 32))) p)

/-- LANESET (R334): answered always; a width that is not allowed is counted and not taken. -/
def execLaneset (p : Fin 2) (h : PlyHdr) (eff : BitVec 16) (width : Nat) (s : State) : Host.Outcome State Fault Refusal :=
  .next (plySeqIn s p h true false fun s =>
    let s := if widthOk (plyAt s p) width then modPly s p fun x => { x with rxLane := some (eff.toNat, width) }
      else bump s (plyBase p + 0x24)
    plySend s p (.lanesetAck eff.toNat))

/-- LANESET_ACK (R334). -/
def execLanesetAck (p : Fin 2) (h : PlyHdr) (eff : BitVec 16) (s : State) : Host.Outcome State Fault Refusal :=
  .next (plySeqIn s p h true false fun s =>
    match (plyAt s p).lane with
    | some (e, w) =>
      if e = eff.toNat then startLane (plyDrain (modPly s p fun x => { x with lane := none, txWidth := w }) p) p else s
    | none => s)

/-! ## Peer messages (R328, R417, R421) -/

/-- MBOX (R421): MBX64 for PP0, MBX65 for PP1. -/
def execMbox (p : Fin 2) (h : PlyHdr) (words : List Word) (s : State) : Host.Outcome State Fault Refusal :=
  .next (plySeqIn s p h false false fun s => boxPush s (64 + p.val) words)

/-- PREAD (R328): answered with PRSP; what it asks and what the answer holds is the management islands' own, so status and
contents are free. -/
def execPread (p : Fin 2) (h : PlyHdr) (tag : Nat) (request : List Byte) (s : State) : Host.Outcome State Fault Refusal :=
  .next (plySeqIn s p h false false fun s =>
    plySend (nextFree s) p (.prsp tag (freeBelow s 256) ((Config.freeBytes s.free request.length).map BitVec.toNat)))

end Sys2Proof.Machine
end

