-- ==== Sys2Proof/Machine/Mirror.lean ====
section
/-! DEFINITION. Mirrored windows (R337–R351): mirror states, forwarded writes and their acknowledgement, metadata, creel
records, promotion and rebuild, resync, and changes by re-weave. -/

namespace Sys2Proof.Machine

open Sys2Proof

/-! ## Mirror states (R338, R339, R349, R350) -/

/-- Hanks of a window that are mapped. -/
def mappedHanks (s : State) (w : Nat) : List Nat :=
  (s.hanks.filter fun e => e.1 / 0x1000000 == w && match e.2 with
    | some h => h.mode != .unmapped
    | none => false).map fun e => e.1 % 0x1000000

/-- Hanks of a window with DIRTY set. -/
def dirtyHanks (s : State) (w : Nat) : List Nat :=
  (s.hanks.filter fun e => e.1 / 0x1000000 == w && match e.2 with
    | some h => h.dirty
    | none => false).map fun e => e.1 % 0x1000000

/-- Sets DIRTY on every mapped hank. -/
def dirtyAll (s : State) (w : Nat) : State := (mappedHanks s w).foldl (fun t o => setDirty t w o) s

/-- Entries of a window, live or mirror ones. -/
def entriesOf (s : State) (w : Nat) (mir : Bool) : List Nat :=
  (s.creel.filter fun e => e.2.st != .invalid && e.2.mir == mir && winOfDla s (e.2.line * 64) == some w).map (·.1)

/-- Discards the mirror entries of a window (R339, R348). -/
def discardMirror (s : State) (w : Nat) : State := (entriesOf s w true).foldl (fun t k => modCreel t k fun _ => {}) s

/-- The partner lists the window with equal values of every field, the role apart, which is the opposite one. SYNC_ID is
not compared here: R350 decides what follows when it differs (DEDUCED, log entry 21). -/
def matchedBy (s : State) (w : Nat) (e : MtabEntry) : Bool :=
  e.win == w && decide (({ e with secondary := !e.secondary, syncId := (winAt s w).syncId } : MtabEntry) = mtabEntry s w)

def isMatched (s : State) (w : Nat) : Bool := s.pair.peerTab.any (matchedBy s w)

/-- The partner's SYNC_ID for a window. -/
def peerSync (s : State) (w : Nat) : Nat :=
  match s.pair.peerTab.find? fun e => e.win == w with
  | some e => e.syncId
  | none => 0

/-- Sends a control message, while the pair link is up. -/
def sendPeer (s : State) (b : PlyBody) : State :=
  match portFor s b with
  | some p => plySend s p b
  | none => s

/-- A primary in RESYNC with no DIRTY hank, its creel state sent and that batch acknowledged goes SYNC, with a new
SYNC_ID (R339). -/
def trySync (s : State) (w : Nat) : State :=
  let x := winAt s w
  let acked := match x.crecBatch, s.pair.batchAck with
    | none, _ => true
    | some b, some a => decide ((a + 0x10000 - b) % 0x10000 < 0x8000)
    | some _, none => false
  if mirrorPrimary s w && x.ms = .resync && x.crecSent && acked && dirtyHanks s w = [] then
    let id := freeBelow s (2 ^ 64)
    sendPeer (modWin (nextFree s) w fun x => { x with ms := .sync, syncId := id }) (.resyncEnd w id)
  else s

/-- A primary starts a resync (R339, R349, R350): RESYNC_START, then the creel state once. -/
def startResync (s : State) (w : Nat) : State :=
  let s := if peerSync s w = (winAt s w).syncId then s else dirtyAll s w
  let s := sendPeer (modWin s w fun x => { x with ms := .resync, crecSent := true, crecBatch := none }) (.resyncStart w)
  let ks := if (winAt s w).db then entriesOf s w false else []
  let s := ks.foldl (fun t k => sendCrec t (creelAt t k)) s
  trySync (modWin s w fun x => { x with crecBatch := if ks = [] then none else some s.pair.batch }) w

/-- The event record of a mirror state (R413). -/
def mirrorEvent (s : State) (w sev uncertain : Nat) : State :=
  let c := match (winAt s w).ms with
    | .off => 0
    | .sync => 1
    | .degraded => 2
    | .resync => 3
    | .mismatch => 4
  logEvFor s (srcOf (plyBase 0)) 0xA002 sev (le 2 w ++ le 1 c ++ le 1 uncertain) [] [w]

/-- The partner's table is matched with one window (R338, R339). -/
def matchWindow (s : State) (w : Nat) : State :=
  if isMatched s w then
    let s := if (winAt s w).ms = .mismatch then modWin s w fun x => { x with ms := .degraded } else s
    if mirrorPrimary s w && (winAt s w).ms = .degraded && pairUp s then startResync s w else s
  else if (winAt s w).ms = .mismatch then s
  else mirrorEvent (modWin (degrade s w) w fun x => { x with ms := .mismatch }) w sevErr 0

/-- CTRL_MTAB (R338). -/
def execCtrlMtab (p : Fin 2) (h : PlyHdr) (table : List MtabEntry) (s : State) : Host.Outcome State Fault Refusal :=
  .next (plySeqIn s p h false false fun s =>
    let s := { s with pair := { s.pair with peerTab := table, peerTabIn := true } }
    (mirroredWins s).foldl matchWindow s)

/-- CTRL_RESYNC_START (R339). -/
def execCtrlResyncStart (p : Fin 2) (h : PlyHdr) (win : Nat) (s : State) : Host.Outcome State Fault Refusal :=
  .next (plySeqIn s p h false false fun s =>
    if isSecondary s win && (winAt s win).ms = .degraded then
      discardMirror (modWin s win fun x => { x with ms := .resync }) win
    else s)

/-- CTRL_RESYNC_END (R339). -/
def execCtrlResyncEnd (p : Fin 2) (h : PlyHdr) (win syncId : Nat) (s : State) : Host.Outcome State Fault Refusal :=
  .next (plySeqIn s p h false false fun s =>
    if isSecondary s win && (winAt s win).ms = .resync then
      modWin s win fun x => { x with ms := .sync, syncId := syncId }
    else s)

/-- CTRL_HANDOVER (R348): one that comes before this device's own re-weave is remembered for it. -/
def execCtrlHandover (p : Fin 2) (h : PlyHdr) (win : Nat) (s : State) : Host.Outcome State Fault Refusal :=
  .next (plySeqIn s p h false false fun s => modWin s win fun x =>
    { x with waitHand := false, handed := x.mirror != 0 && x.secondary && !x.sendHand })

/-! ## Inbound writes and metadata (R340, R343) -/

/-- A received packet that is applied in its turn. -/
def takeInbound (s : State) (p : Nat) (h : PlyHdr) (b : PlyBody) : State :=
  plySeqIn s p h false true fun s =>
    resume { s with pair := { s.pair with inq := s.pair.inq ++
      [{ port := p, seq := h.seq.toNat, body := b, cost := max 1 (ceilDiv h.len 64) }] } }

/-- MWR (R340). -/
def execMwr (p : Fin 2) (h : PlyHdr) (w : PlyWrite) (s : State) : Host.Outcome State Fault Refusal :=
  .next (takeInbound s p h (.mwr w))

/-- RSYNC (R349). -/
def execRsync (p : Fin 2) (h : PlyHdr) (w : PlyWrite) (s : State) : Host.Outcome State Fault Refusal :=
  .next (takeInbound s p h (.rsync w))

/-- META (R343). -/
def execMetaRecord (p : Fin 2) (h : PlyHdr) (win kind dla : Nat) (s : State) : Host.Outcome State Fault Refusal :=
  .next (takeInbound s p h (.metaRec win kind dla))

/-! ## Key sets (R179, R342) -/

/-- Number that stands for a key set received from the partner: apart from those of the device's own draws. -/
def peerKeyNo (keys : List Byte) : Nat := 2 ^ 520 + leNat (bytesAt keys 0 64)

/-- KEYSET (R179): the key set of the slot's generation, or of the next one for the REKEY that follows. -/
def execKeyset (p : Fin 2) (h : PlyHdr) (win gen : Nat) (keys : List Byte) (s : State) : Host.Outcome State Fault Refusal :=
  .next (plySeqIn s p h false false fun s =>
    let k := (winAt s win).keySlot
    let x := slotAt s k
    let key := peerKeyNo keys
    let answer := fun (s : State) (st : Nat) => plySend s p (.mack h.seq.toNat st)
    let refuse := fun (s : State) => answer (degrade s win) mackFailed
    if !isSecondary s win || x.st != .active then refuse s
    else if gen = x.gen then answer (modSlot s k fun x => { x with cur := key, peer := true }) mackOk
    else if gen = (x.gen + 1) % 16 then answer (modSlot s k fun x => { x with newKey := some key, peer := true }) mackOk
    else refuse s)

/-- CTRL_REKEY (R179): the walk of this device's copy begins with the key set received before; answered when it ends. -/
def execCtrlRekey (p : Fin 2) (h : PlyHdr) (tag win : Nat) (s : State) : Host.Outcome State Fault Refusal :=
  .next (plySeqIn s p h false false fun s =>
    let x := slotOf s win
    match x.newKey with
    | some key =>
      if isSecondary s win && x.st = .active then startWalk s win none false (some tag) key
      else plySend s p (.prsp tag mackFailed [])
    | none => plySend s p (.prsp tag mackFailed []))

/-- The partner has installed a key set: a new window goes ONLINE, or a REKEY is forwarded and the walk begins (R179). -/
def keysetDone (s : State) (w : Nat) : State :=
  let k := (winAt s w).keySlot
  let s := peerReady s w
  if (slotAt s k).peerKey then
    let tag := s.pair.nextTag
    match portFor s (.rekey tag w) with
    | some q =>
      let s := plySend (modSlot s k fun x => { x with peerKey := false, peerWalk := true }) q (.rekey tag w)
      { s with pair := { s.pair with nextTag := tag % 0xFFFF + 1, ops := s.pair.ops ++ [(q, .rekey tag w)] } }
    | none => modSlot s k fun x => { x with peerKey := false }
  else s

/-- The partner has refused a key set: the walk goes on here alone. -/
def keysetFailed (s : State) (w : Nat) : State :=
  peerReady (degrade (modSlot s (winAt s w).keySlot fun x => { x with peerKey := false }) w) w

/-! ## Acknowledgements (R328, R340, R343) -/

/-- A MACK for a forwarded write (R340). -/
def fwdAcked (s : State) (f : Fwd) (status : Nat) : State :=
  let s := { s with pair := { s.pair with fwds := s.pair.fwds.filter fun g => g != f } }
  if status ≠ mackOk then degrade (setDirty s f.win f.hank) f.win
  else match f.entry with
    | none => s
    | some e =>
      match trkAt s e with
      | some t =>
        if t.st = .mirror && !(s.pair.fwds.any fun g => g.entry == some e) then
          passLine (endNdr s e t .cmp t.devLoad) (lineIdx t.m.dla)
        else s
      | none => s

/-- A MACK for a key set or a metadata record. -/
def opAcked (s : State) (o : PeerOp) (status : Nat) : State :=
  match o with
  | .keyset w _ => if status = mackOk then keysetDone s w else keysetFailed s w
  | .metaRec w dla kind _ desc =>
    let s := if status = mackOk then s else degrade (setDirty s w (hankOff s w dla)) w
    metaAcked (metaDone s desc) w kind dla
  | _ => s

/-- The operation that a MACK's SEQ answers. -/
def opSeq : PeerOp → Option Nat
  | .keyset _ q => some q
  | .metaRec _ _ _ q _ => some q
  | _ => none

/-- MACK (R340, R343). -/
def execMack (p : Fin 2) (h : PlyHdr) (seq : BitVec 16) (status : Nat) (s : State) : Host.Outcome State Fault Refusal :=
  .next (plySeqIn s p h true false fun s =>
    match s.pair.fwds.find? fun f => f.port == p.val && f.seq == seq.toNat with
    | some f => resume (fwdAcked s f status)
    | none =>
      match s.pair.ops.find? fun o => o.1 == p.val && opSeq o.2 == some seq.toNat with
      | some o => resume (opAcked { s with pair := { s.pair with ops := s.pair.ops.filter fun q => q != o } } o.2 status)
      | none => s)

/-! ## The capacity ledger of the partner (R343) -/

/-- CTRL_LEDGER (R343): the secondary's own check. -/
def execCtrlLedger (p : Fin 2) (h : PlyHdr) (tag win : Nat) (exts : List Extent) (s : State) :
    Host.Outcome State Fault Refusal :=
  .next (plySeqIn s p h false false fun s =>
    let no := fun (s : State) => plySend s p (.prsp tag mackFailed [])
    match extBlocks s win exts with
    | none => no s
    | some bs =>
      if !isSecondary s win || !(winAt s win).dc || exts = [] || (bs.any fun b => (blockAt s b).st != 0) then no s
      else
        let t := numberExts win 0 1 exts s
        let code := ledgerTry s t.blocks
        if code = 0 then plySend (ledgerPut t) p (.prsp tag 0 []) else no (ledgerRefuse s code))

/-- Tag of a peer operation. -/
def opTag : PeerOp → Option Nat
  | .ledger t _ _ _ _ => some t
  | .rekey t _ => some t
  | .pread t => some t
  | _ => none

/-- PRSP (R328, R343, R179): completes the operation that carries its tag. -/
def execPrsp (p : Fin 2) (h : PlyHdr) (tag status : Nat) (s : State) : Host.Outcome State Fault Refusal :=
  .next (plySeqIn s p h true false fun s =>
    match s.pair.ops.find? fun o => opTag o.2 == some tag with
    | none => s
    | some o =>
      let s := { s with pair := { s.pair with ops := s.pair.ops.filter fun q => q != o } }
      match o.2 with
      | .ledger _ w exts seat src =>
        if status = 0 then dcAnswer (addAccepted s w seat exts) src 0x71 .success
        else dcAnswer (freeBlocks s ((extBlocks s w exts).getD [])) src 0x71 .resourcesExhausted
      | .rekey _ w => peerWalkEnded s w
      | _ => s)

/-! ## Creel records (R344) -/

/-- CREC (R344): held in the staging buffer. -/
def execCrec (p : Fin 2) (h : PlyHdr) (_batch : Nat) (recs : List CrecRec) (s : State) : Host.Outcome State Fault Refusal :=
  .next (plySeqIn s p h true false fun s =>
    let s := modPly s p fun x => { x with crec := true }
    { s with pair := { s.pair with staging := s.pair.staging ++ recs } })

/-- The entry a record stands for (R96, R344). -/
def crecEntry (s : State) (r : CrecRec) : Centry :=
  let m := r.mid.toNat
  let fmt : Fmt := if fld m 4 3 = 0 then .ptr else if fld m 4 3 = 1 then .grp else .bcast
  { line := r.line
    st := match fld m 2 0 with
      | 0 => .invalid
      | 1 => .shared
      | 2 => .exclusive
      | 3 => .busy
      | _ => .poisoned
    fmt := fmt
    ptrs := if fmt = .ptr then (List.range (fld m 7 5)).map fun i => fld r.sharers.toNat (10 * i + 9) (10 * i) else []
    grp := if fmt = .grp then BitVec.ofNat 32 r.sharers.toNat else 0
    amask := BitVec.ofNat 4 (fld m 11 8)
    mir := true
    win := (winOfDla s (r.line * 64)).getD 0
    used := s.stamp }

/-- Key of the mirror entry of a line. -/
def findMirror (s : State) (line : Nat) : Option Nat :=
  let base := wayKey (crlSlice (line * 64)) (crlSet (line * 64)) 0
  ((List.range 16).map (base + ·)).find? fun k =>
    let c := creelAt s k
    c.st != .invalid && c.line == line && c.mir

/-- A replacement or a drop marks the set UNSURE and is counted. -/
def markUnsure (s : State) (line : Nat) : State :=
  bump (modSlice s (crlSlice (line * 64)) fun x => { x with unsure := insertNat (crlSet (line * 64)) x.unsure })
    (plyBase 0 + 0x58)

/-- Commits one record as a mirror entry. -/
def commitRec (s : State) (r : CrecRec) : State :=
  let c := crecEntry s r
  match secondaryOf s (r.line * 64) with
  | none => s
  | some _ =>
    match findMirror s r.line with
    | some k => modCreel s k fun _ => if c.st = .invalid then {} else c
    | none =>
      if c.st = .invalid then s
      else
        let base := wayKey (crlSlice (r.line * 64)) (crlSet (r.line * 64)) 0
        let keys := (List.range 16).map (base + ·)
        match keys.find? fun k => (creelAt s k).st = .invalid with
        | some k => modCreel s k fun _ => c
        | none =>
          match keys.find? fun k => (creelAt s k).mir with
          | some k => markUnsure (modCreel s k fun _ => c) r.line
          | none => markUnsure s r.line

/-- BATCH_END (R344). -/
def execBatchEnd (p : Fin 2) (h : PlyHdr) (batch : Nat) (s : State) : Host.Outcome State Fault Refusal :=
  .next (plySeqIn s p h true false fun s =>
    let s := s.pair.staging.foldl commitRec s
    plySend { s with pair := { s.pair with staging := [] } } p (.batchAck batch))

/-- BATCH_ACK (R339, R344). -/
def execBatchAck (p : Fin 2) (h : PlyHdr) (batch : Nat) (s : State) : Host.Outcome State Fault Refusal :=
  .next (plySeqIn s p h true false fun s =>
    let s := { s with pair := { s.pair with batchAck := some batch } }
    (mirroredWins s).foldl trySync s)

/-- CRL_BATCH_TIMER (R344, R355): the primary ends its open batch. -/
def execCrlBatchTimer (s : State) : Host.Outcome State Fault Refusal :=
  if !s.pair.batchUsed then .next s
  else
    let s := advanceTo s (s.pair.batchAt + clampN 1 20 (fld (regN s (plyBase 0 + 0x40)) 4 0) * 1000)
    let b := s.pair.batch
    .next (sendPeer { s with pair := { s.pair with batchUsed := false, batch := (b + 1) % 0x10000 } } (.batchEnd b))

/-! ## LAG (R341) -/

/-- LAG_LIMIT (R341). -/
def execLagLimit (win : Fin 4096) (s : State) : Host.Outcome State Fault Refusal :=
  let x := winAt s win
  match s.pair.fwds.find? fun f => f.win == win.val && !f.rs with
  | some f =>
    if x.mirror = 2 && (x.ms = .sync || x.ms = .resync) then .next (resume (degrade (advanceTo s (f.at_ + 64000)) win))
    else .next s
  | none => .next s

/-! ## Promotion (R345–R347) -/

/-- Records of the open batch for one line, the last of them and the union of their aliases and holders with those of the
committed entry: seats and aliases to snoop (R346 step 2). -/
def stagedTargets (s : State) (w line : Nat) : List Nat × List Nat :=
  let cs := (s.pair.staging.filter fun r => r.line == line).map (crecEntry s)
  let cs := match findMirror s line with
    | some k => creelAt s k :: cs
    | none => cs
  let seats := cs.foldl (fun l c => l ++ snoopSet s w c none) []
  let mask := cs.foldl (fun m c => m ||| c.amask) (0#4)
  (sortNat seats, (List.range 4).filter fun k => mask.getLsbD k)

/-- Re-snoops a line: its entry is live and BUSY meanwhile, and goes INVALID (R346). -/
def resnoop (s : State) (w line : Nat) (seats aliases : List Nat) : State :=
  let k := findMirror s line
  if seats = [] || aliases = [] then
    match k with
    | some k => modCreel s k fun _ => {}
    | none => s
  else
    let excl := match k with
      | some k => (creelAt s k).st = .exclusive
      | none => false
    let s := match k with
      | some k => modCreel s k fun c => { c with mir := false, st := .busy }
      | none => s
    startSnoops s line
      { who := .recover, kind := .invalidate, snp := .inv, seats := seats, todo := [], win := w, ali := 0, excl := excl } aliases

/-- Re-snoops the staged lines of the promoted windows (step 2). -/
def rebuildStaged (s : State) : State :=
  ((s.pair.staging.map (·.line)).eraseDups).foldl (fun t line =>
    match winOfDla t (line * 64) with
    | some w =>
      if t.pair.promoted.contains w then
        let (seats, aliases) := stagedTargets s w line
        resnoop t w line seats aliases
      else t
    | none => t) s

/-- Re-snoops mirror entries of a window in the states given (steps 3 and 4). An entry that the primary had BUSY is
re-snooped as an EXCLUSIVE one is (DEDUCED, log entry 21). -/
def rebuildSweep (w : Nat) (shared : Bool) (s : State) : State :=
  (entriesOf s w true).foldl (fun t k =>
    let c := creelAt t k
    if c.st = .exclusive || c.st = .busy || (shared && c.st = .shared) then
      resnoop t w c.line (snoopSet t w c none) (aliasesOf c)
    else t) s

/-- The remaining mirror entries of a window become live (step 5). They are taken at once, since hosts are served from
step 1 on (log entry 21). -/
def adoptMirror (s : State) (w : Nat) : State :=
  (entriesOf s w true).foldl (fun t k => modCreel t k fun c => { c with mir := false }) s

/-- The rebuild is uncertain (step 4). -/
def rebuildUncertain (s : State) : Bool :=
  ([0, 1].any fun p => (plyAt s p).tailErr && (plyAt s p).crec) ||
  (List.range 16).any fun i => (sliceAt s i).unsure != []

/-- Every set becomes UNSURE. -/
def allUnsure (s : State) : State :=
  (List.range 16).foldl (fun t i => modSlice t i fun x => { x with unsure := List.range 16384 }) s

/-- Makes windows primary and rebuilds the creel for those that were secondaries (R345, R346). -/
def promote (s : State) (ws : List Nat) : State :=
  let sec := ws.filter fun w => (winAt s w).mirror != 0 && (winAt s w).secondary
  let u := sec != [] && rebuildUncertain s
  let s := ws.foldl (fun t w => modWin t w fun x => { x with
    secondary := false, waitHand := false, sendHand := false, handed := false, ms := if x.waitHand then x.ms else .degraded }) s
  let s := { s with pair := { s.pair with
    rebuild := sec != [], uncertain := u, promoted := sortNat (s.pair.promoted ++ sec), nPromoted := ws.length } }
  let s := rebuildStaged s
  let s := sec.foldl (fun t w => adoptMirror (rebuildSweep w u t) w) s
  let keep := fun (r : CrecRec) => match winOfDla s (r.line * 64) with
    | some w => !sec.contains w
    | none => true
  let s := { s with pair := { s.pair with staging := s.pair.staging.filter keep } }
  if u then allUnsure s else s

/-- The answer to Ply Promote, with its reason. -/
def promoteAnswer (s : State) (src : Cci) (r : Ret) (body : Contents) : State := emit s (.answer (some src) 0xC500 r body)

/-- PLY_PROMOTE (R42, R345, R348, R423): it comes over MCTP, through the FM API or the CCI; in a mailbox its opcode is
Unsupported. -/
def execPlyPromote (src : Cci) (win : Nat) (s : State) : Host.Outcome State Fault Refusal :=
  let ok := fun (w : Nat) => (winAt s w).mirror != 0 && ((winAt s w).secondary || (winAt s w).waitHand)
  let ws := if win = 0xFFFF then (mirroredWins s).filter ok else [win]
  let live := match src with
    | .mailbox f => fnLive s f
    | .mctp => mcUp s
  if !live then .next s
  else if domShut s 1 then .next (holdFor s 1 (.plyPromote src win))
  else if src ≠ .mctp then .next (cciAnswer s src 0xC500 .unsupported [])
  else if !s.boot.partH then .next (promoteAnswer s src .unsupported [])
  else if pairUp s then .next (promoteAnswer s src .invalidInput [1])
  else if !ws.all ok then .next (promoteAnswer s src .invalidInput [2])
  else if s.img.rw.isSome || s.pair.rebuild then .next (promoteAnswer s src .busy [3])
  else .next (resume (promoteAnswer (promote s ws) src .success []))

/-- CREEL_REBUILD_COMPLETE (R346 step 5): when no snoop of the rebuild is left. -/
def execCreelRebuildComplete (s : State) : Host.Outcome State Fault Refusal :=
  let busy := s.acts.any fun e => match e.2 with
    | some a => a.who == .recover
    | none => false
  if busy || !s.pair.rebuild then .next s
  else
    let s := { s with pair := { s.pair with rebuild := false } }
    let u := s.pair.uncertain
    .next (resume (mirrorEvent s (s.pair.promoted.headD 0) (if u then sevWarn else sevInfo) (b2n u)))

/-! ## Resync (R349) -/

/-- Sends one line as RSYNC; its packet is watched as a forwarded write is (R340). -/
def sendRsync (s : State) (w off dlaLine : Nat) (d : Option (List Byte)) : State :=
  let pw : PlyWrite := { dlaLine := dlaLine, qc := resyncClass s, nlines := 1, poison := d.isNone, partialMask := none,
                         lines := match d with
                           | some b => [b]
                           | none => [] }
  match portFor s (.rsync pw) with
  | some p =>
    let q := nextSeq s p
    let s := plySend s p (.rsync pw)
    { s with pair := { s.pair with fwds := s.pair.fwds ++
      [{ port := p, seq := q, win := w, hank := off, at_ := s.now, entry := none, rs := true }] } }
  | none => setDirty s w off

/-- Sends consecutive lines. -/
def sendLines (w off : Nat) : State → Nat → List (Option (List Byte)) → State
  | s, _, [] => s
  | s, line, d :: t => sendLines w off (sendRsync s w off line d) (line + 1) t

/-- Sends an UNMAPPED page or hank as a META record. -/
def sendUnmapped (s : State) (w kind dla : Nat) : State :=
  match portFor s (.metaRec w kind dla) with
  | some p =>
    let q := nextSeq s p
    let s := plySend s p (.metaRec w kind dla)
    { s with pair := { s.pair with ops := s.pair.ops ++ [(p, .metaRec w dla kind q none)] } }
  | none => setDirty s w (hankOff s w dla)

/-- Copies one page, and answers what is left of the noise. -/
def copyPage (s : State) (w off pg : Nat) (noise : List (List Byte)) : State × List (List Byte) :=
  let dla := pageDla s w off pg
  let p := pageOf s w off pg
  let qc := resyncClass s
  match p.tier with
  | .unmapped => (sendUnmapped s w 1 dla, noise)
  | .hot =>
    let page := if (hankAt s w off).mode = .direct then none else some pg
    let (s, ls) := readUnit w off page p.kgen (some dla) qc 64 s (frameLine p.addr) noise
    (sendLines w off s (dla / 64) ls, noise.drop 64)
  | .compressed =>
    let n := runGranules p.len * 4
    let (s, ls) := readUnit w off (some pg) p.kgen none qc n s (p.addr * 4) noise
    let (s, out) := decodePage w dla p ls 8 s []
    (sendLines w off s (dla / 64) out, noise.drop n)

/-- Copies pages in order. -/
def copyPages (w off : Nat) : Nat → State → Nat → List (List Byte) → State
  | 0, s, _, _ => s
  | n + 1, s, pg, noise =>
    let (s, noise) := copyPage s w off pg noise
    copyPages w off n s (pg + 1) noise

/-- RESYNC_HANK_COPY (R349). A DEGRADED primary whose window is matched while the pair link is up starts its resync first
(R339, R351). -/
def execResyncHankCopy (win : Fin 4096) (hank : Nat) (noise : List (List Byte)) (s : State) :
    Host.Outcome State Fault Refusal :=
  let w := win.val
  if !mirrorPrimary s w || !pairUp s then .next s
  else
    let s := if (winAt s w).ms = .degraded && isMatched s w then startResync s w else s
    if (winAt s w).ms ≠ .resync ∨ (hankAt s w hank).dirty = false then .next s
    else
      .next (trySync (runUnit s (.resync w hank) 5 (resyncClass s) (sknSlice (hankDla s w hank)) fun s =>
        let s := putHank s w hank fun h => { h with dirty := false }
        if (hankAt s w hank).mode = .unmapped then sendUnmapped s w 2 (hankDla s w hank)
        else countSteps (copyPages w hank 512 s 0 noise) (.resync w hank) 511) w)

/-! ## Changes by image load and re-weave (R339, R348) -/

/-- MIRROR and ROLE of a window change in place (step 5 of R320). `first`: the window is created. -/
def changeMirror (s : State) (w mirror : Nat) (secondary first : Bool) : State :=
  let x := winAt s w
  let s := modWin s w fun x => { x with mirror := mirror, secondary := secondary && mirror != 0 }
  if mirror = 0 then
    if x.mirror = 0 then s
    else discardMirror (modWin s w fun x => { x with ms := .off, syncId := 0, waitHand := false, sendHand := false, handed := false }) w
  else if x.mirror = 0 || first then
    let s := modWin s w fun x => { x with ms := .degraded, syncId := 0 }
    if first then s else dirtyAll s w
  else if !x.secondary && secondary then
    let s := modWin s w fun x => { x with sendHand := true, waitHand := false, handed := false }
    if x.db then purgeRange s (x.dlaHank * 0x200000) (winBytes x) else s
  else if x.secondary && !secondary then modWin s w fun x => { x with waitHand := !x.handed, sendHand := false, handed := false }
  else s

end Sys2Proof.Machine
end

