-- ==== Sys2Proof/Machine/WarpCheck.lean ====
section
/-! DEFINITION. The warp image as bytes (R307–R310), the configuration it describes, and its checks (R311, R312, R318,
R319). -/

namespace Sys2Proof.Machine

open Sys2Proof

/-! ## Layout (R307–R310) -/

/-- Bytes `off` to `off + n` are zero. -/
def zerosAt (b : List Byte) (off n : Nat) : Bool := (bytesAt b off n).all (· == 0)

/-- Directory entry `i`: type, offset and length of its section. -/
def dirEntry (b : List Byte) (i : Nat) : Nat × Nat × Nat :=
  (numAt b (0x40 + 16 * i) 2, numAt b (0x48 + 16 * i) 4, numAt b (0x4C + 16 * i) 4)

/-- The directory. -/
def imgDir (b : List Byte) : List (Nat × Nat × Nat) := (List.range (numAt b 6 2)).map (dirEntry b)

/-- The sections of an image. -/
def imgSections (b : List Byte) : Sections := (imgDir b).map fun e => (e.1, bytesAt b e.2.1 e.2.2)

/-- Records of `size` bytes behind a COUNT. -/
def records (c : List Byte) (size : Nat) : List (List Byte) :=
  (List.range (numAt c 0 4)).map fun i => bytesAt c (4 + size * i) size

/-- Length and zero bytes of a section (R308, R310). Fields that the image may not set count among the latter. -/
def sectionOk (ty : Nat) (c : List Byte) : Bool :=
  match ty with
  | 1 => c.length == 64 && zerosAt c 6 58
  | 2 => c.length == 4 + 16 * numAt c 0 4 && (records c 16).all fun r => zerosAt r 2 6 && fld (numAt r 8 8) 63 38 == 0
  | 3 => c.length == 32768
  | 4 => c.length == 4 + 40 * numAt c 0 4 && (records c 40).all fun r =>
      let x := numAt r 8 32
      zerosAt r 2 6 && fld x 255 197 == 0 && fld x 195 172 == 0 && fld x 139 128 == 0 && fld x 111 109 == 0 &&
      fld x 63 56 == 0 && fld x 31 31 == 0
  | 5 => c.length == 4 && zerosAt c 1 3
  | 6 => c.length == 8 && numAt c 0 4 &&& 0xFE00FE00 == 0 && numAt c 4 4 &&& 0xFE00FE00 == 0
  | 7 => c.length == 192 && (List.range 8).all fun k => zerosAt c (24 * k + 20) 4
  | 8 => c.length == 192 && (List.range 48).all fun n => zerosAt c (4 * n + 2) 2
  | 9 => c.length == 8 + numAt c 4 4
  | 10 => c.length == 104 && (List.range 26).all fun n => zerosAt c (4 * n + 2) 2
  | 11 => c.length == 120
  | 12 => c.length == 4 + 8 * numAt c 0 4 && (records c 8).all fun r => fld (numAt r 6 2) 15 14 == 0
  | 13 => c.length == 4 + 4 * numAt c 0 4
  | 14 => c.length == 64 && zerosAt c 34 30
  | _ => false

/-- Bytes that no part of the image covers are zero. -/
def gapsZero (b : List Byte) (n sig : Nat) : Bool :=
  (List.range (sig - (64 + 16 * n))).all fun i =>
    let a := 64 + 16 * n + i
    b.getD a 0 == 0 || (imgDir b).any fun e => decide (e.2.1 ≤ a) && decide (a < e.2.1 + e.2.2)

/-- Bytes in a signature block (R309). -/
def sigBytes : Nat := 3088

/-- DELTA and ADV_SVN of an image (R307). -/
def isDelta (b : List Byte) : Bool := bitOf (numAt b 0x0C 4) 0
def advSvn (b : List Byte) : Bool := bitOf (numAt b 0x0C 4) 1

/-- Header (R307). -/
def headerOk (b : List Byte) : Bool :=
  decide (64 + sigBytes ≤ b.length) && bytesAt b 0 4 == [0x57, 0x41, 0x52, 0x50] && numAt b 4 2 == 1 &&
  decide (1 ≤ numAt b 6 2) && decide (numAt b 6 2 ≤ 15) && numAt b 8 4 == b.length && b.length % 16 == 0 &&
  decide (b.length ≤ 0x400000) && decide (numAt b 0x0C 4 < 4) && decide (numAt b 0x10 1 ≤ 64) &&
  decide (numAt b 0x11 1 ≤ 2) && zerosAt b 0x13 5 && (isDelta b || zerosAt b 0x20 32)

/-- Directory and sections (R308). -/
def directoryOk (b : List Byte) : Bool :=
  let n := numAt b 6 2
  let sig := b.length - sigBytes
  let d := imgDir b
  decide (64 + 16 * n ≤ sig) && (d.map (·.1)).Nodup &&
  (List.range n).all (fun i => numAt b (0x42 + 16 * i) 2 == 1 && zerosAt b (0x44 + 16 * i) 4) &&
  (d.all fun e => decide (1 ≤ e.1) && decide (e.1 ≤ 14) && e.2.1 % 64 == 0 && decide (64 + 16 * n ≤ e.2.1) &&
    decide (e.2.1 + e.2.2 ≤ sig)) &&
  (d.all fun e => d.all fun f => e.1 == f.1 || decide (e.2.1 + e.2.2 ≤ f.2.1) || decide (f.2.1 + f.2.2 ≤ e.2.1)) &&
  gapsZero b n sig && (imgSections b).all fun e => sectionOk e.1 e.2

/-- The signature block (R309). -/
def sigBlockOk (b : List Byte) : Bool :=
  let g := b.length - sigBytes
  g % 64 == 0 && numAt b g 2 == 1280 && numAt b (g + 2) 2 == 1793 && zerosAt b (g + 4) 4 && zerosAt b (g + 0x709) 7

def formatOk (b : List Byte) : Bool := headerOk b && directoryOk b && sigBlockOk b

/-- OWNER_KEY, and the signature's check (R309). -/
def ownerKey (b : List Byte) : List Byte := bytesAt b (b.length - sigBytes + 8) 1793
def signatureOk (b : List Byte) : Bool :=
  Config.sigVerifies (digest (ownerKey b)) (b.take (b.length - sigBytes)) (bytesAt b (b.length - sigBytes + 0x710) 1280)

/-! ## The configuration that sections describe -/

/-- A section of a configuration. -/
def secOf (c : Sections) (ty : Nat) : List Byte :=
  match c.find? fun e => e.1 == ty with
  | some e => e.2
  | none => []

def hasSec (c : Sections) (ty : Nat) : Bool := c.any fun e => e.1 == ty

/-- A path from its fields (R56): an MLD path is named by its LD-ID. -/
def mkPath (kind port link id : Nat) : Path :=
  { kind := kind, port := port, link := link, id := if kind = 1 then 0 else if kind = 2 then id % 16 else id }

/-- A seat-table entry from its image record (R56). -/
def mkSeat (x : Nat) : Seat :=
  { p0 := mkPath (fld x 1 0) (fld x 3 2) (fld x 5 4) (fld x 17 6)
    p1 := if fld x 19 18 = 0 then {} else mkPath (fld x 19 18) (fld x 21 20) (fld x 23 22) (fld x 35 24)
    admin := bitOf x 36
    perfRead := bitOf x 37 }

/-- A window-table entry from its image record (R60). -/
def mkWin (x : Nat) : Win :=
  { hpaHank := fld x 30 0, dlaHank := fld x 55 32, size := fld x 87 64, owner := fld x 97 88, group := bitOf x 98,
    db := bitOf x 99, elastic := bitOf x 100, aliasN := fld x 102 101, aliasSh := fld x 108 103,
    aliasQc := BitVec.ofNat 16 (fld x 127 112), mirror := fld x 141 140, secondary := bitOf x 142, napOk := bitOf x 143,
    pin := bitOf x 144, clevel := fld x 146 145, dbhV := bitOf x 147, dbhHank := fld x 171 148, dc := bitOf x 196 }

/-- Seats of a configuration. -/
def seatRecs (c : Sections) : List (Nat × Seat) :=
  ((records (secOf c 2) 16).map fun r => (numAt r 0 2, mkSeat (numAt r 8 8))).filter fun e => e.2.p0.kind != 0

/-- Windows of a configuration. -/
def winRecs (c : Sections) : List (Nat × Win) :=
  ((records (secOf c 4) 40).map fun r => (numAt r 0 2, mkWin (numAt r 8 32))).filter fun e => e.2.size != 0

/-- A ring of a configuration. -/
structure RingRec where
  ring : Nat
  seat : Nat
  lcl  : Nat
  qc   : Nat
  ops  : Nat
  deriving DecidableEq, Repr

def ringRecs (c : Sections) : List RingRec :=
  let mk := fun (r : List Byte) => RingRec.mk (numAt r 0 2) (numAt r 2 2) (numAt r 4 1) (numAt r 5 1) (numAt r 6 2)
  ((records (secOf c 12) 8).map mk).filter fun r => r.seat != 0xFFFF

/-- Key bindings: window and slot, 0xFFFF for ANY. -/
def keyRecs (c : Sections) : List (Nat × Nat) := (records (secOf c 13) 4).map fun r => (numAt r 0 2, numAt r 2 2)

/-- Members of sharing group `g`. -/
def groupSeats (c : Sections) (g : Nat) : List Nat :=
  let m := bytesAt (secOf c 3) (128 * g) 128
  (List.range 1024).filter fun i => (m.getD (i / 8) 0).getLsbD (i % 8)

/-- The seats, groups and windows of a configuration, as tables beside the rest of the state. -/
def confTables (s : State) (c : Sections) : State :=
  let s := { s with seats := [], groups := [], wins := [] }
  let s := (seatRecs c).foldl (fun t e => modSeat t e.1 fun _ => e.2) s
  let s := (List.range 256).foldl (fun t g => modGroup t g fun _ => groupSeats c g) s
  (winRecs c).foldl (fun t e => modWin t e.1 fun _ => e.2) s

/-- An interleave set (R233, R310). -/
structure IlSet where
  k     : Nat
  ways  : Nat
  grain : Nat
  bhash : Bool
  chs   : List Nat
  deriving DecidableEq, Repr

/-- The valid interleave sets, in set order. -/
def ilSets (c : Sections) : List IlSet :=
  ((List.range 8).filter fun k => numAt (secOf c 7) (24 * k) 1 != 0).map fun k =>
    let r := bytesAt (secOf c 7) (24 * k) 24
    { k := k, ways := numAt r 1 1, grain := numAt r 2 1, bhash := numAt r 3 1 != 0,
      chs := (List.range (2 ^ min 4 (numAt r 1 1))).map fun i => numAt r (4 + i) 1 }

/-- Merges records: those of `new` replace or join those of `old`, and the ones that `gone` names are left out. -/
def mergeRecs (size : Nat) (gone : List Byte → Bool) (old new : List Byte) : List Byte :=
  let n := records new size
  let keep := (records old size).filter fun r => !n.any fun x => numAt x 0 2 == numAt r 0 2
  let l := keep ++ n.filter fun r => !gone r
  le 4 l.length ++ l.flatten

/-- The configuration that results from a re-weave (R318). -/
def mergeSecs (old new : Sections) : Sections :=
  ((List.range 15).filter fun ty => hasSec old ty || hasSec new ty).map fun ty =>
    if !hasSec new ty then (ty, secOf old ty)
    else if ty = 2 then (ty, mergeRecs 16 (fun r => fld (numAt r 8 8) 1 0 == 0) (secOf old 2) (secOf new 2))
    else if ty = 4 then (ty, mergeRecs 40 (fun r => fld (numAt r 8 32) 87 64 == 0) (secOf old 4) (secOf new 4))
    else if ty = 12 then (ty, mergeRecs 8 (fun r => numAt r 2 2 == 0xFFFF) (secOf old 12) (secOf new 12))
    else (ty, secOf new ty)

/-! ## Structural rules (R311) -/

/-- A link that the bifurcation of its port gives (R28). -/
def linkExists (c : Sections) (port link : Nat) : Bool :=
  match numAt (secOf c 1) (1 + port) 1 with
  | 0 => link == 0
  | 1 => decide (link < 2)
  | 2 => decide (link < 4)
  | _ => false

/-- Two paths are the same: one link, and there one direct seat or one ID (R55). -/
def samePath (a b : Path) : Bool :=
  a.port == b.port && a.link == b.link && (a.kind == 1 || b.kind == 1 || a.id == b.id)

/-- Paths of a seat. -/
def pathsOf (x : Seat) : List Path := [x.p0, x.p1].filter fun p => p.kind != 0

def plyEn (c : Sections) : Nat := numAt (secOf c 1) 5 1

/-- R2, R28, R310 for TOPOLOGY. -/
def topologyOk (s : State) (c : Sections) : Bool :=
  let t := secOf c 1
  decide (numAt t 0 1 ≤ 1) && (List.range 4).all (fun p => numAt t (1 + p) 1 == (portAt s p).bifSts.toNat) &&
  decide (plyEn c ≤ 3) && (s.boot.partH || plyEn c == 0)

/-- R55, R56 for SEATS; `t` holds the configuration's tables. -/
def seatsOk (t : State) (c : Sections) : Bool :=
  let l := seatRecs c
  (l.map (·.1)).Nodup && (l.all fun e => decide (e.1 < 1024) && (pathsOf e.2).all fun p => linkExists c p.port p.link) &&
  (l.all fun a => l.all fun b => a.1 == b.1 || !(pathsOf a.2).any fun p => (pathsOf b.2).any (samePath p)) &&
  match l.filter fun e => e.2.admin with
  | [e] => isOwner t e.1
  | _ => false

/-- Alias ranges of a window: first byte and length. -/
def aliasRanges (x : Win) : List (Nat × Nat) := (List.range (x.aliasN + 1)).map fun k => (aliasBase x k, winBytes x)

/-- Windows that a seat reaches. -/
def seatWins (t : State) (seat : Nat) : List (Nat × Win) := t.wins.filter fun e => reaches t seat e.1

/-- Seats that reach some window. -/
def reachingSeats (t : State) : List Nat := sortNat (t.wins.flatMap fun e => winSeats t e.1)

/-- No two of the ranges overlap. -/
def disjointRanges : List (Nat × Nat) → Bool
  | [] => true
  | r :: t => (t.all fun q => decide (r.1 + r.2 ≤ q.1) || decide (q.1 + q.2 ≤ r.1)) && disjointRanges t

/-- DLA space of R61. -/
def dlaOk (t : State) : Bool := t.wins.all fun e => decide (e.2.dlaHank + e.2.size ≤ 0x1000000)

/-- The rest of R61. An alias ends below 2^52 where the first byte past it does: one whose last byte is 2^52 − 1 is refused
(DEDUCED, log entry 101). -/
def overlapOk (t : State) : Bool :=
  (t.wins.all fun e => !e.2.group || !e.2.dbhV) &&
  disjointRanges (t.wins.map fun e => (e.2.dlaHank, e.2.size)) &&
  (t.wins.all fun e => decide (winBytes e.2 ≤ 2 ^ e.2.aliasSh) &&
    (aliasRanges e.2).all fun r => decide (r.1 + r.2 < 2 ^ 52)) &&
  (reachingSeats t).all fun seat =>
    let ws := seatWins t seat
    let rs := ws.flatMap fun e => aliasRanges e.2
    disjointRanges rs && decide (ws.length ≤ 64) && (!isOwner t seat || decide (rs.length ≤ 32)) &&
    decide ((ws.filter fun e => e.2.dbhV).length ≤ 1)

/-- No seat reaches more than eight Dynamic Capacity windows (R70). -/
def dcOk (t : State) : Bool := (reachingSeats t).all fun seat => decide (((seatWins t seat).filter fun e => e.2.dc).length ≤ 8)

/-- Hanks that windows pin in a skein slice (R126). -/
def pinnedIn (t : State) (n : Nat) : Nat :=
  (t.wins.filter fun e => e.2.pin).foldl (fun a e =>
    a + ((List.range e.2.size).filter fun i => sknSlice ((e.2.dlaHank + i) * 0x200000) == n).length) 0

/-- R2, R59, R60, R70 and R126 of one window. -/
def windowOk (s : State) (x : Win) : Bool :=
  (!x.group || (x.db && decide (x.owner < 256))) && decide (x.mirror < 3) && (s.boot.partH || x.mirror == 0) &&
  decide (21 ≤ x.aliasSh) && decide (x.aliasSh ≤ 51) &&
  (!x.pin || (!x.elastic && x.clevel == 0 && (List.range (x.aliasN + 1)).any fun k => aliasClass x k == 0)) &&
  (!x.dc || (x.hpaHank % 128 == 0 && x.dlaHank % 128 == 0 && x.size % 128 == 0))

/-- R2, R59–R61, R70, R126 for WINDOWS. -/
def windowsOk (s t : State) (c : Sections) : Bool :=
  let l := winRecs c
  (l.map (·.1)).Nodup && (l.all fun e => decide (e.1 < 4096) && windowOk s e.2) && dlaOk t && overlapOk t && dcOk t &&
  (List.range 16).all fun n => decide (pinnedIn t n ≤ 65536)

/-- R79 for TRACKER. -/
def trackerOk (t : State) (c : Sections) : Bool :=
  let q := numAt (secOf c 6) 0 4
  let k := numAt (secOf c 6) 4 4
  let rq := fld q 8 0
  let wq := fld q 24 16
  let rk := fld k 8 0
  let wk := fld k 24 16
  decide (1 ≤ rq) && decide (rq ≤ 256) && decide (1 ≤ wq) && decide (wq ≤ 256) && decide (rk ≤ rq) && decide (wk ≤ wq) &&
  (List.range 4).all (fun p => decide (rk * (poolSeats t p).length ≤ 3968)) &&
  decide (wk * (poolSeats t 4).length ≤ 7680)

/-- R233, R248 for INTERLEAVE. -/
def interleaveOk (s : State) (c : Sections) : Bool :=
  let l := ilSets c
  (l.flatMap (·.chs)).Nodup && l.all fun x =>
    let r := bytesAt (secOf c 7) (24 * x.k) 24
    decide (numAt r 0 1 = 1) && decide (x.ways ≤ 4) && decide (x.grain ≤ 4) && decide (numAt r 3 1 ≤ 1) &&
    (List.range 16).all (fun i => decide (i < 2 ^ x.ways) || numAt r (4 + i) 1 == 0xFF) &&
    x.chs.all fun ch => decide (ch < 16) && (chAt s ch).st != .absent && capOf (chAt s ch) == capOf (chAt s (x.chs.headD 0))

/-- Home role and loans of a spindle in a configuration. -/
def spnHome (c : Sections) (n : Nat) : Nat := numAt (secOf c 8) (4 * n) 1
def spnLend (c : Sections) (n : Nat) : Nat := numAt (secOf c 8) (4 * n + 1) 1

/-- R189, R199 for SPINDLES. -/
def spindlesOk (c : Sections) : Bool :=
  let has := fun (r : Nat) => spindles.any fun n => spnHome c n == r
  spindles.all (fun n => decide (spnHome c n ≤ 5) && decide (spnLend c n < 64) &&
    !(spnHome c n == 1 && bitOf (spnLend c n) 5)) &&
  (!((winRecs c).any fun e => e.2.clevel != 0) || (has 1 && has 2 && has 3 && has 4)) &&
  (!((winRecs c).any fun e => !e.2.elastic) || has 4) && (ringRecs c == [] || has 5)

/-- Deepest state a domain may be given (R357): 0 RUN, 1 IDLE, 2 NAP, 3 DOZE. -/
def deepestAllowed (c : Sections) (n : Nat) : Nat :=
  if n = 0 then 0
  else if 10 ≤ n ∧ n < 14 then
    (if (List.range 12).any fun i => spnHome c (12 * (n - 10) + i) == 1 then 2 else 3)
  else if 24 ≤ n then 3
  else 2

/-- R357 for POWER. -/
def powerOk (c : Sections) : Bool :=
  (List.range 26).all fun n =>
    let g := numAt (secOf c 10) (4 * n + 1) 1
    decide (numAt (secOf c 10) (4 * n) 1 ≤ deepestAllowed c n) && (decide (g < 8) || g == 0xFF)

/-- A slot table's 64 slots (R287): bit 4 reserved, bits 3:0 the class. -/
def slotTable (c : List Byte) (net : Nat) : List Nat :=
  let x := numAt c (40 * net) 40
  (List.range 64).map fun i => fld x (5 * i + 4) (5 * i)

/-- R281 for one slot table. -/
def slotTableOk (l : List Nat) : Bool :=
  (List.range 64).all (fun i => (List.range 16).any fun j => l.getD ((i + j) % 64) 0 == 16) &&
  decide ((l.filter fun x => decide (16 ≤ x)).length ≤ 48)

/-- R203 for RINGS. -/
def ringsOk (t : State) (c : Sections) : Bool :=
  let l := ringRecs c
  (l.map (·.ring)).Nodup && (l.map fun r => (r.seat, r.lcl)).Nodup &&
  l.all fun r => decide (r.ring < 8192) && decide (r.lcl < 64) && decide (r.qc < 16) && (seatAt t r.seat).p0.kind != 0 &&
    t.wins.any fun e => e.2.dbhV && !e.2.group && e.2.owner == r.seat

/-- R175 for KEYS: `new` are the windows to be bound, `busy` the slots of windows that stay. -/
def keysOk (t : State) (c : Sections) (new busy : List Nat) : Bool :=
  let l := keyRecs c
  let named := (l.filter fun e => e.2 != 0xFFFF).map (·.2)
  (l.map (·.1)).Nodup && named.Nodup && (named.all fun k => decide (k < 4096) && !busy.contains k) &&
  (l.all fun e => (winAt t e.1).size != 0) && decide (new.length + busy.length ≤ 4096)

/-- R310 for PLY; on PX9-1024-S no image configures a ply port or a pair (R2). -/
def plySecOk (s : State) (c : Sections) : Bool :=
  if !s.boot.partH then !hasSec c 14
  else plyEn c == 0 || (hasSec c 14 && [32, 33].all fun i => [1, 2, 4, 8, 16].contains (numAt (secOf c 14) i 1))

/-- The first section, in order of TYPE, that breaks a rule; 0 where none does. `k` are the key records to check. -/
def firstBroken (s : State) (c k : Sections) (new busy : List Nat) : Nat :=
  let t := confTables s c
  let bad := fun (ty : Nat) (ok : Bool) (rest : Nat) => if !hasSec c ty || !ok then ty else rest
  bad 1 (topologyOk s c) <| bad 2 (seatsOk t c) <| bad 3 true <| bad 4 (windowsOk s t c) <|
  bad 5 (decide (4 ≤ numAt (secOf c 5) 0 1) && decide (numAt (secOf c 5) 0 1 ≤ 16)) <|
  bad 6 (trackerOk t c) <| bad 7 (interleaveOk s c) <| bad 8 (spindlesOk c) <|
  bad 9 (decide (numAt (secOf c 9) 4 4 ≤ 0x8000)) <| bad 10 (powerOk c) <|
  bad 11 ((List.range 3).all fun n => slotTableOk (slotTable (secOf c 11) n)) <|
  (if ringsOk t c then id else fun _ => 12) <|
  (if hasSec c 13 && keysOk t k new busy then id else fun _ => 13) <|
  (if plySecOk s c then 0 else 14)

/-! ## The checks in order (R312) -/

/-- Result codes of R324. -/
def irOk : Nat := 0
def irFormat : Nat := 1
def irSignature : Nat := 2
def irOwner : Nat := 3
def irRollback : Nat := 4
def irPart : Nat := 5
def irCheck : Nat := 6
def irLedger : Nat := 7
def irParent : Nat := 8
def irFixed : Nat := 9
def irBusy : Nat := 10
def irTrng : Nat := 11
def irState : Nat := 12
def irSource : Nat := 13

/-- Checks 1–6. -/
def checkFront (s : State) (b : List Byte) : Nat :=
  let part := numAt b 0x11 1
  if !(s.sec.lc = .prov || s.sec.lc = .field) then irState
  else if !formatOk b then irFormat
  else if digest (ownerKey b) ≠ s.sec.ownerDig then irOwner
  else if !signatureOk b then irSignature
  else if numAt b 0x10 1 < s.sec.osvn then irRollback
  else if (part ≠ 0 ∧ (part == 2) ≠ s.boot.partH) ∨ s.boot.stepMajor < numAt b 0x12 1 then irPart
  else irOk

/-- The fields of a window that a re-weave never changes (R319). -/
def winFixed (x : Win) : List Nat × List Bool :=
  ([x.hpaHank, x.dlaHank, x.size, x.owner, x.dbhHank], [x.group, x.db, x.elastic, x.dc, x.pin, x.dbhV])

/-- The section that breaks R319; 0 where none does. `old` is the configuration in force, `new` the image's sections. -/
def fixedBroken (s : State) (old new : Sections) : Nat :=
  let c := mergeSecs old new
  match [1, 6, 7, 14].find? fun ty => hasSec new ty && secOf new ty != secOf old ty with
  | some ty => ty
  | none =>
    if (winRecs c).any fun e => (winAt s e.1).size != 0 && winFixed (winAt s e.1) != winFixed e.2 then 4
    else if (ringRecs c).any fun r => (ringAt s r.ring).st != .none &&
        ((ringAt s r.ring).seat != r.seat || (ringAt s r.ring).lcl != r.lcl) then 12
    else if (keyRecs new).any fun k => (winAt s k.1).size != 0 then 13
    else 0

/-- Key slots that are being re-keyed (R182). -/
def rekeying (s : State) : Nat := (s.slots.filter fun e => e.2.st = .rekeying).length

/-- Windows of a configuration that do not exist yet, and the slots of those that stay. -/
def newWins (s : State) (c : Sections) : List Nat :=
  ((winRecs c).map (·.1)).filter fun w => (winAt s w).size == 0
def keptSlots (s : State) (c : Sections) : List Nat :=
  (((winRecs c).map (·.1)).filter fun w => (winAt s w).size != 0).map fun w => (winAt s w).keySlot

/-- P that the usable sets give: sets laid out in order, each with its base in hanks and whether it is usable (R233). -/
def layoutFrom (s : State) : List IlSet → Nat → List (IlSet × Nat × Bool) × Nat
  | [], base => ([], base)
  | x :: t, base =>
    let ok := x.chs.all fun ch => (chAt s ch).st = .online || (chAt s ch).st = .offline || (chAt s ch).st = .selfref
    let size := if ok then x.chs.length * capOf (chAt s (x.chs.headD 0)) / 0x200000 else 0
    let (l, p) := layoutFrom s t (base + size)
    ((x, if ok then base else 0, ok) :: l, p)

def layoutOf (s : State) (c : Sections) : List (IlSet × Nat × Bool) × Nat := layoutFrom s (ilSets c) 0

/-- The ledger's check of a configuration (check 9): its REFUSE code. Windows that a re-weave removes still count. -/
def ledgerOf (s : State) (c : Sections) (p : Nat) (load : Bool) : Nat :=
  let t := (confTables s c).wins
  let wins := if load then t else s.wins.foldl (fun a e =>
    if e.2.size != 0 && (tabGet ({} : Win) a e.1).size == 0 then tabSet {} a e.1 e.2 else a) t
  let (g, d, e) := ledgerSums wins (if load then [] else s.blocks)
  ledgerCheck p (numAt (secOf c 5) 0 1) g d e

/-- Checks 1–9 of an image: the result, its DETAIL, and the REFUSE code of LEDGER_STS where it has one. -/
def imgCheck (s : State) (b : List Byte) (load : Bool) : Nat × Nat × Nat :=
  let front := checkFront s b
  let new := imgSections b
  let old := s.img.secs
  let c := if load then new else mergeSecs old new
  if front ≠ irOk then (front, 0, 0)
  else if load && isDelta b then (irParent, 0, 0)
  else if !load && isDelta b && bytesAt b 0x20 32 != s.img.digest then (irParent, 0, 0)
  else if !load && fixedBroken s old new != 0 then (irFixed, fixedBroken s old new, 0)
  else if !load && hasSec new 9 && rekeying s != 0 then (irBusy, 0, 0)
  else
    let nw := if load then (winRecs c).map (·.1) else newWins s c
    let busy := if load then [] else keptSlots s c
    let k := if load || hasSec new 13 then new else [(13, le 4 0)]
    let f := firstBroken s c k nw busy
    if f ≠ 0 then
      let t := confTables s c
      (irCheck, f, if f ≠ 4 then 0 else if !dlaOk t then 3 else if !overlapOk t then 4 else 0)
    else
      let p := if load then (layoutOf s c).2 else s.ledger.p
      let code := ledgerOf s c p load
      if code ≠ 0 then (irLedger, 0, code) else (irOk, 0, 0)

end Sys2Proof.Machine
end

