-- ==== Sys2Proof/Machine/WarpImage.lean ====
section
/-! DEFINITION. The warp image applied: at load (R313–R316) and by re-weave (R317–R323), its status (R324, R325), and the
wait for a TRNG draw (R176). -/

namespace Sys2Proof.Machine

open Sys2Proof

/-! ## Results (R324) -/

/-- The event record of an image result (R413). -/
def imgEvent (s : State) (result detail sev : Nat) (b : List Byte) : State :=
  logEv s 0 0x9001 sev (le 1 result ++ le 1 detail ++ (digest b).take 8)

/-- Answers whoever presented the image: two words in MBX0 to the admin seat, or a message over MCTP (R316, R317). -/
def imgAnswer (s : State) (src : ImgFrom) (result : Nat) : State :=
  match src with
  | .boot _ _ => s
  | .full _ => emit s (.mctp 0x316 [result])
  | .island => emit s (.mctp 0x317 [result])
  | .admin => modMbx s 0 fun x => { x with fc := x.fc ++ ([word 0x57528001, word result].take (16 - x.fc.length)) }

/-- A request ends with a result other than OK. -/
def imgRefuse (s : State) (src : ImgFrom) (b : List Byte) (result detail refuse : Nat) : State :=
  let s := { s with img := { s.img with result := result, detail := detail } }
  let s := if result = irLedger then ledgerRefuse s refuse
    else if refuse = 0 then s else { s with ledger := { s.ledger with refuse := refuse } }
  imgAnswer (imgEvent s result detail sevWarn b) src result

/-! ## Parts that load and re-weave share -/

/-- The seat goes into the table (R57): new seats are served at once. -/
def putSeat (s : State) (n : Nat) (x : Seat) : State :=
  let old := seatAt s n
  if old.state = .none then
    let s := modSeat s n fun _ => { x with enable := true, state := .detached }
    if seatUp s n then modSeat s n fun y => { y with state := .attached } else s
  else
    let s := modSeat s n fun y => { y with p0 := x.p0, p1 := x.p1, admin := x.admin, perfRead := x.perfRead }
    modSeat s n fun y => { y with
      state := if y.state = .detached && seatUp s n then .attached else y.state
      lostAt := if seatUp s n then none else if y.state = .detached || y.state = .disabled then y.lostAt
        else some (y.lostAt.getD s.now) }

/-- The groups of a configuration. -/
def putGroups (s : State) (c : Sections) : State :=
  (List.range 256).foldl (fun t g => modGroup t g fun _ => groupSeats c g) s

/-- A window is created OFFLINE (R75, R125, R133): home hanks where it is guaranteed, its mirror state, and its slot. -/
def createWin (s : State) (w slot : Nat) (x : Win) : State :=
  let homes := if x.elastic then [] else homeRuns 0 x.size (takenRuns s)
  let s := modWin s w fun _ => { x with
    mirror := 0, secondary := false, state := .offline, born := s.carder.epoch, homes := homes, keySlot := slot }
  changeMirror s w x.mirror x.secondary true

/-- The primary of a new mirrored window sends the generation-0 key set while the pair link is up; the window waits for it
(R179). -/
def bindPeer (s : State) (w : Nat) : State :=
  let x := slotOf s w
  let b : PlyBody := .keyset w x.gen x.cur
  if !mirrorPrimary s w then s
  else match portFor s b with
    | none => s
    | some p =>
      let q := nextSeq s p
      let s := modWin (plySend s p b) w fun x => { x with waitPeer := true }
      { s with pair := { s.pair with ops := s.pair.ops ++ [(p, .keyset w q)] } }

/-- A new window goes ONLINE, unless the partner must install its key set first (R75, R179). -/
def winOnline (s : State) (w : Nat) : State :=
  if (winAt s w).waitPeer then modWin s w fun x => { x with enable := true }
  else modWin s w fun x => { x with state := .online, enable := true }

/-- Slot of each window to be bound (R175): the one its record names, else the lowest FREE one left, and then those that the
windows `gone` give up. -/
def slotPlan (s : State) (ws gone : List Nat) (k : List (Nat × Nat)) : List (Nat × Nat) :=
  let named := ws.filterMap fun w => match k.find? fun e => e.1 == w with
    | some e => if e.2 = 0xFFFF then none else some (w, e.2)
    | none => none
  let any := ws.filter fun w => !named.any fun e => e.1 == w
  let free := (List.range 4096).filter fun i => (slotAt s i).st = .free && !named.any fun e => e.2 == i
  let freed := (sortNat (gone.map fun w => (winAt s w).keySlot)).filter fun i => !named.any fun e => e.2 == i
  named ++ any.zip (free ++ freed)

/-- Binds a slot to a window with its generation-0 key set (R175): window, slot and key set. -/
def bindSlot (s : State) (a : Nat × Nat × Nat) : State :=
  modSlot s a.2.1 fun _ => { win := a.1, gen := 0, st := .active, cur := a.2.2 }

/-- Draws the generation-0 key sets of a plan (R175, R312 check 10). -/
def drawPlan : List (Nat × Nat) → State → State × List (Nat × Nat × Nat)
  | [], s => (s, [])
  | e :: t, s =>
    let (s, key) := drawKey s
    let (s, l) := drawPlan t s
    (s, (e.1, e.2, key) :: l)

/-- The power section (R310, R320): a domain that sleeps deeper than its new DEEPEST is woken. -/
def putPower (s : State) (c : Sections) : State :=
  (List.range 26).foldl (fun t n =>
    let d := numAt (secOf c 10) (4 * n) 1
    let g := numAt (secOf c 10) (4 * n + 1) 1
    let t := modDom t n fun x => { x with deepest := d, group := if g = 0xFF then 15 else g }
    let st := (domAt t n).st
    if (st = .nap && decide (d < 2)) || (st = .doze && decide (d < 3)) then askWake t n else t) s

/-- The rings of a configuration (R204). -/
def putRings (s : State) (c : Sections) : State :=
  (ringRecs c).foldl (fun t r => modRing t r.ring fun x =>
    if x.st = .none then { seat := r.seat, lcl := r.lcl, qc := r.qc, ops := BitVec.ofNat 16 r.ops, st := .disabled }
    else { x with qc := r.qc, ops := BitVec.ofNat 16 r.ops }) s

/-- Microcode goes into every local store (R197). -/
def putMicrocode (s : State) (c : Sections) : State :=
  let id := numAt (secOf c 9) 0 2 * 0x10000 + numAt (secOf c 9) 2 2
  spindles.foldl (fun t n => modSpn t n fun x => { x with ucode := id }) s

/-- Home roles and loans (R321): a spindle with admitted units takes them over once those have completed. -/
def putSpindles (s : State) (c : Sections) : State :=
  spindles.foldl (fun t n =>
    let r := spnHome c n
    let l := BitVec.ofNat 6 (spnLend c n)
    if (spnAt t n).home = r ∧ (spnAt t n).lend = l then t
    else settleSpn (modSpn t n fun x => { x with newRole := some (r, l) }) n) s

/-- The slot tables (R280). -/
def slotTables (c : Sections) : List (List Nat) := (List.range 3).map fun n => slotTable (secOf c 11) n

/-- MBX0 belongs to the admin seat while an image is applied (R317, R420). -/
def putAdminBox (s : State) : State :=
  match adminSeat s with
  | some a => modMbx s 0 fun x => { x with en := true, mode := false, seat := a }
  | none => s

/-! ## Load (R314–R316) -/

/-- Every RWL field takes its reset value, whatever software wrote (R315). -/
def rwlReset (s : State) : State :=
  s.regs.foldl (fun t e =>
    let m := word (regInfo (e.1 % copy1)).rwl
    if m = 0 then t else setReg t e.1 ((e.2 &&& ~~~m) ||| (regReset e.1 &&& m))) s

/-- The tables as an image load finds them: empty. -/
def clearConfig (s : State) : State :=
  let s := rwlReset s
  let s := (s.wins.map (·.1)).foldl dropWindow s
  let carder : Carder := { epoch := s.carder.epoch, epochAt := s.carder.epochAt, floor := true }
  { s with seats := [], groups := [], wins := [], blocks := [], rings := [], slots := [], hanks := [], pages := [],
           skein := [], used := [], lost := [], lcache := [], carder := carder
           ledger := { refuse := s.ledger.refuse } }

/-- Step 1 of R315: the interleave sets, the DPA layout, P, and the bandwidth that admission counts with (R275). -/
def applyInterleave (s : State) (c : Sections) : State :=
  let (l, p) := layoutOf s c
  let s := (List.range 16).foldl (fun t ch => modCh t ch fun x => { x with mapBase := 0, usable := false }) s
  let put := fun (t : State) (e : IlSet × Nat × Bool) =>
    let x := e.1
    (List.range x.chs.length).foldl (fun t i =>
      let ch := x.chs.getD i 0
      let v := b2n x.bhash * 2 ^ 31 + 2 ^ 30 + x.k * 2 ^ 27 + x.ways * 2 ^ 24 + x.grain * 2 ^ 21 + i * 2 ^ 17
      modCh (setReg t (chBase ch + 4) (word v)) ch fun y => { y with mapBase := e.2.1, usable := e.2.2 }) t
  let s := l.foldl put s
  let r := rateMts s.rate.cur
  let w := s.chans.foldl (fun a e => if e.2.usable then a + bwTimes r e.2.trfc 3900 else a) 0
  { s with ledger := { s.ledger with p := p }, qos := { s.qos with adm := limitOf w } }

/-- The ply ports that the image enables start to train (R326, R336). -/
def applyPly (s : State) (c : Sections) : State :=
  [0, 1].foldl (fun t p =>
    if bitOf (plyEn c) p && t.boot.partH then
      modPly t p fun x => { x with
        maxWidth := numAt (secOf c 14) (32 + p) 1
        st := if x.st = .down && !t.boot.refLost.getLsbD (4 + p) && domAwake t (24 + p) then .training else x.st
        stepAt := t.now }
    else t) s

/-- Applies an image as R315 orders it. -/
def applyLoad (s : State) (b : List Byte) : State :=
  let c := imgSections b
  let s := applyInterleave (clearConfig s) c
  let s := setReg s (seatwinBase + 0x100) (word (numAt (secOf c 5) 0 1))
  let s := { s with img := { s.img with secs := c, rw := none, req := none } }
  -- seats, groups and windows, the windows OFFLINE; key slots
  let s := (seatRecs c).foldl (fun t e => putSeat t e.1 e.2) s
  let s := putGroups s c
  let plan := slotPlan s ((winRecs c).map (·.1)) [] (keyRecs c)
  let s := (winRecs c).foldl (fun t e =>
    createWin t e.1 (match plan.find? fun q => q.1 == e.1 with
      | some q => q.2
      | none => 0) e.2) s
  let (s, bound) := drawPlan plan s
  let s := bound.foldl bindSlot s
  let s := ledgerPut s
  -- tracker, QoS, power and rings
  let s := setReg s trkBase (word (numAt (secOf c 6) 0 4))
  let s := setReg s (trkBase + 4) (word (numAt (secOf c 6) 4 4))
  let s := putRings (putPower s c) c
  -- microcode, roles and route tables, as epoch 0
  let s := putSpindles (putMicrocode s c) c
  let s := { s with
    stations := tabMap {} (fun _ x => { x with epoch := false, shadowV := false, oldCnt := 0 }) s.stations
    fabric := { ring2 := numAt (secOf c 1) 0 1 == 1, slots := slotTables c } }
  -- windows ONLINE
  let s := { s with img := { s.img with
    st := .loaded, locked := true, svn := numAt b 0x10 1, imgId := numAt b 0x18 8, digest := digest b,
    sanitized := false, erased := false, result := irOk, detail := 0 } }
  let s := (winRecs c).foldl (fun t e => winOnline (bindPeer t e.1) e.1) s
  rescale (putAdminBox (applyPly s c))

/-- The owner anti-rollback counter follows an applied image that asks for it (R313). -/
def advanceSvn (s : State) (adv : Bool) (svn : Nat) : State :=
  if adv then { s with sec := { s.sec with osvn := max s.sec.osvn (min 64 svn) } } else s

/-- The sequence of R392 is over. -/
def bootOver (s : State) : State := if s.boot.phase = .image then { s with boot := { s.boot with phase := .run } } else s

/-- A load is accepted: it is applied, with its INFO event. -/
def acceptLoad (s : State) (b : List Byte) (src : ImgFrom) : State :=
  let s := advanceSvn (applyLoad s b) (advSvn b) (numAt b 0x10 1)
  let bank := match src with
    | .boot k _ => k
    | .full k => k
    | _ => s.img.bank
  let s := { s with img := { s.img with bank := bank } }
  bootOver (imgAnswer (imgEvent s irOk 0 sevInfo b) src irOk)

/-- A load of an image (R312, R315): applied, refused, or waiting for the TRNG. The answer is the result where it has
ended. -/
def tryLoad (s : State) (b : List Byte) (src : ImgFrom) : State × Option Nat :=
  let (r, d, code) := imgCheck s b true
  if r ≠ irOk then (imgRefuse s src b r d code, some r)
  else if canDraw s then (acceptLoad s b src, some irOk)
  else ({ s with img := { s.img with req := some { image := b, src := src, since := s.now } } }, none)

/-- Both banks have failed (R314): the FATAL event carries both results. -/
def bothFailed (s : State) (r1 r2 : Nat) : State :=
  bootOver (logEv s 0 0x9001 sevFatal (le 1 r2 ++ le 1 0 ++ le 1 r1))

/-- The other bank's image (R314). -/
def bootSecond (s : State) (bank r1 : Nat) : State :=
  match tryLoad s (bankAt s bank).img (.boot bank (some r1)) with
  | (s, some r) => if r = irOk then s else bothFailed s r1 r
  | (s, none) => s

/-- The boot bank's image, then the other's (R314). -/
def bootFirst (s : State) : State :=
  let k := s.sec.bank
  match tryLoad s (bankAt s k).img (.boot k none) with
  | (s, some r) => if r = irOk then s else bootSecond s (1 - k) r
  | (s, none) => s

/-- WARP_IMAGE_LOAD (R314). -/
def execWarpImageLoad (s : State) : Host.Outcome State Fault Refusal :=
  if s.boot.phase ≠ .image ∨ s.img.req.isSome = true then .next s else .next (bootFirst s)

/-! ## Re-weave (R317–R323) -/

/-- Objects that a configuration removes. -/
def goneSeats (s : State) (c : Sections) : List Nat :=
  (s.seats.filter fun e => e.2.p0.kind != 0 && !(seatRecs c).any fun r => r.1 == e.1).map (·.1)
def goneWins (s : State) (c : Sections) : List Nat :=
  (s.wins.filter fun e => e.2.size != 0 && !(winRecs c).any fun r => r.1 == e.1).map (·.1)
def goneRings (s : State) (c : Sections) : List Nat :=
  (s.rings.filter fun e => e.2.st != .none && !(ringRecs c).any fun r => r.ring == e.1).map (·.1)

/-- A window that a re-weave removes starts to disable: a REKEY on it stops (R178), and forwarding for it stops (R351). -/
def startRemoval (s : State) (w : Nat) : State :=
  let s := stopWalk (disableWindow s w .reweave) (winAt s w).keySlot
  modWin s w fun x => { x with cause := some .reweave, ms := .off, waitPeer := false }

/-- Steps 1 and 2 of R320. A slot that a removed window still holds is bound to its new window when step 5 has freed it
(R175, R181). -/
def acceptReweave (s : State) (b : List Byte) (src : ImgFrom) : State :=
  let new := imgSections b
  let c := mergeSecs s.img.secs new
  let ws := newWins s c
  let gw := goneWins s c
  let plan := slotPlan s ws gw (keyRecs new)
  let base := ledgerSums s.wins s.blocks
  let wins := (winRecs c).foldl (fun a e => if ws.contains e.1 then tabSet {} a e.1 e.2 else a) s.wins
  let sums := ledgerSums wins s.blocks
  let gs := goneSeats s c
  let gr := goneRings s c
  let (s, added) := drawPlan plan s
  let s := (added.filter fun a => (slotAt s a.2.1).st = .free).foldl bindSlot s
  let rw : Reweave := {
    step := .removing, secs := c, digest := digest b, imgId := numAt b 0x18 8, svn := numAt b 0x10 1, advSvn := advSvn b
    seats := gs, wins := gw, rings := gr
    added := added
    micro := hasSec new 9, mbx := src == .admin
    extra := (sums.1 - base.1, sums.2.1 - base.2.1, sums.2.2 - base.2.2) }
  let s := { s with
    img := { s.img with st := .reweaving, rw := some rw, req := none }
    fabric := { s.fabric with busy := true, flipped := false } }
  let s := gr.foldl (fun t r => disableRing t r true) s
  let s := gw.foldl startRemoval s
  resume (gs.foldl (fun t x => disableSeat t x true) s)

/-- A re-weave is presented (R312, R317, R323). -/
def tryReweave (s : State) (b : List Byte) (src : ImgFrom) : State :=
  if s.img.rw.isSome || s.img.req.isSome || s.fabric.busy || s.mgmt.bg.isSome || lcRuns s then imgRefuse s src b irBusy 0 0
  else
    let (r, d, code) := if s.img.st = .none then (irParent, 0, 0) else imgCheck s b false
    if r ≠ irOk then imgRefuse s src b r d code
    else if (newWins s (mergeSecs s.img.secs (imgSections b)) = [] && s.keys.metaKey.isSome) || canDraw s then acceptReweave s b src
    else { s with img := { s.img with req := some { image := b, src := src, since := s.now } } }

/-- The agent number under which the device reads a presented image (R116). -/
def imgAgent : Nat := agentKey 1

/-- REWEAVE_REQUEST (R317). The lines of the image in an HDM-DB window are asked for as every agent's are; while a snoop is
outstanding the command is issued again. -/
def execReweaveRequest (f : Fn) (words : List Word) (s : State) : Host.Outcome State Fault Refusal :=
  let w := fun (i : Nat) => (words.getD i 0).toNat
  if !mcUp s || s.img.st = .none || !isAdminFn s f || words.length != 4 || w 0 != 0x57520001 then .next s
  else if domShut s (2 + f.port.val) then .next (holdFor s (2 + f.port.val) (.reweaveRequest f words))
  else if domShut s 1 then .next (holdFor s 1 (.reweaveRequest f words))
  else
    let len := w 3
    let hpa := w 1 + w 2 * 0x100000000
    match adminSeat s with
    | none => .next s
    | some seat =>
      if s.img.rw.isSome || s.img.req.isSome then .next (imgRefuse s .admin [] irBusy 0 0)
      else match seatRange s seat hpa len with
        | none => .next (imgRefuse s .admin [] irSource 0 0)
        | some (win, dla) =>
          if accessStatus s win dla len s.stamp ≠ stOk then .next (imgRefuse s .admin [] irSource 0 0)
          else if 0x400000 < len then .next (imgRefuse s .admin [] irFormat 0 0)
          else
            let s := agentOpen s imgAgent
            let (s, ready) := agentLines s imgAgent win dla len false
            if !ready then .next s
            else
              let (s, ls) := agentSpan s win dla len 15 1024
              let s := agentClose s imgAgent
              if (spanPoison ls).isSome then .next (imgRefuse s .admin [] irSource 0 0)
              else .next (tryReweave s (spanBytes ls dla len) .admin)

/-- MCTP_REWEAVE_REQUEST (R317). -/
def execMctpReweaveRequest (image : List Byte) (s : State) : Host.Outcome State Fault Refusal :=
  mcGate s (.mctpReweaveRequest image) fun s =>
  .next (tryReweave s image .island)

/-- Nothing of what the re-weave removes is left to drain. -/
def removalDone (s : State) (r : Reweave) : Bool :=
  (r.seats.all fun x => (seatAt s x).state = .disabled || (seatAt s x).state = .none) &&
  (r.wins.all fun w => winDrained s w) &&
  r.rings.all fun x => ((ringAt s x).st = .none || (ringAt s x).st = .disabled) && (ringAt s x).inflight == 0

/-- Step 4 of R320 begins: the shadow route tables are written. -/
def startFlip (s : State) (r : Reweave) : State :=
  loadShadow { s with img := { s.img with rw := some { r with step := .flipping } } } (slotTables r.secs)

/-- REWEAVE_REMOVAL_DRAINED (R320 step 2; step 3 where microcode is carried, R322). -/
def execReweaveRemovalDrained (s : State) : Host.Outcome State Fault Refusal :=
  match s.img.rw with
  | none => .next s
  | some r =>
    if r.step ≠ .removing ∨ removalDone s r = false then .next s
    else if r.micro then
      let s := { s with img := { s.img with rw := some { r with step := .microcode } } }
      let run := (s.descs.filter fun e => isDescKey e.1 && match e.2 with
        | some d => d.st = .started
        | none => false).map (·.1)
      .next (run.foldl timeoutDesc s)
    else .next (startFlip s r)

/-- MICROCODE_DRAIN_COMPLETE (R322): every slot is empty. -/
def execMicrocodeDrainComplete (s : State) : Host.Outcome State Fault Refusal :=
  match s.img.rw with
  | none => .next s
  | some r =>
    if r.step ≠ .microcode ∨ (s.spn.any fun e => e.2.slots != []) = true then .next s
    else .next (startFlip (putMicrocode s r.secs) r)

/-- A removed window's entry is zeroed, and the ledger frees it (R181, R320). -/
def removeWin (s : State) (w : Nat) : State :=
  let k := (winAt s w).keySlot
  let s := dropWindow (discardMirror s w) w
  let s := { s with
    blocks := tabFilter (fun _ b => b.win != w) s.blocks
    pair := { s.pair with fwds := s.pair.fwds.filter fun f => f.win != w, promoted := s.pair.promoted.filter (· != w) } }
  zeroSlot (modWin s w fun _ => {}) k

/-- A window that stays takes its changed fields (R319, R320, R348). -/
def changeWin (s : State) (w : Nat) (x : Win) : State :=
  let s := modWin s w fun y => { y with
    aliasN := x.aliasN, aliasSh := x.aliasSh, aliasQc := x.aliasQc, napOk := x.napOk, clevel := x.clevel }
  if (winAt s w).mirror = x.mirror ∧ (winAt s w).secondary = x.secondary then s
  else changeMirror s w x.mirror x.secondary false

/-- The windows of a seat as its CDAT lists them (R41): range, and whether they are shareable. -/
def seatView (s : State) (seat : Nat) : List (Nat × Nat × Nat × Bool) :=
  (s.wins.filter fun e => e.2.size != 0 && (winSeats s e.1).contains seat).map fun e => (e.1, e.2.dlaHank, e.2.size, e.2.db)

/-- Step 5 of R320. A changed mirror table goes to the partner, and the partner's last one is compared with it at once; a
window whose HANDOVER is still to be sent keeps its mirror state (R338, R339, R348; log entry 21). -/
def writeFields (s : State) (r : Reweave) : State :=
  let s0 := s
  let c := r.secs
  let mirrorOf := fun (s : State) => (mirroredWins s).map (mtabEntry s)
  let before := mirrorOf s
  let s := r.rings.foldl (fun t x => modRing t x fun _ => {}) s
  let s := r.wins.foldl removeWin s
  let s := (r.added.filter fun a => (slotAt s a.2.1).st = .free).foldl bindSlot s
  let s := r.seats.foldl (fun t x => modSeat t x fun _ => {}) s
  let s := (seatRecs c).foldl (fun t e => putSeat t e.1 e.2) s
  let s := putGroups s c
  let s := (winRecs c).foldl (fun t e =>
    match r.added.find? fun a => a.1 == e.1 with
    | some a => createWin t e.1 a.2.1 e.2
    | none => changeWin t e.1 e.2) s
  let s := setReg s (seatwinBase + 0x100) (word (numAt (secOf c 5) 0 1))
  let s := { s with img := { s.img with secs := c, rw := some { r with step := .retiring, extra := (0, 0, 0) } } }
  let s := putAdminBox (putSpindles (putRings (putPower (ledgerPut s) c) c) c)
  let s := s.seats.foldl (fun t e => if seatView s e.1 = seatView s0 e.1 then t else cdatSeat t e.1) s
  if mirrorOf s = before then s
  else
    let s := sendMtab s
    if pairUp s && s.pair.peerTabIn then
      ((mirroredWins s).filter fun w => !(winAt s w).sendHand).foldl matchWindow s
    else s

/-- REWEAVE_FLIPPED (R320 steps 4–6): every station has flipped; fields are written and added windows go ONLINE. -/
def execReweaveFlipped (s : State) : Host.Outcome State Fault Refusal :=
  match s.img.rw with
  | none => .next s
  | some r =>
    if r.step ≠ .flipping ∨ s.fabric.flipped = false then .next s
    else
      let s := writeFields s r
      .next (resume (r.added.foldl (fun t a => winOnline (bindPeer t a.1) a.1) s))

/-- REWEAVE_COMPLETE (R320 step 7): the old epoch has retired. -/
def execReweaveComplete (s : State) : Host.Outcome State Fault Refusal :=
  match s.img.rw with
  | none => .next s
  | some r =>
    if r.step ≠ .retiring ∨ s.fabric.busy = true then .next s
    else
      let s := { s with img := { s.img with
        st := .loaded, rw := none, digest := r.digest, imgId := r.imgId, svn := r.svn, result := irOk, detail := 0 } }
      let s := advanceSvn s r.advSvn r.svn
      let s := logEv s 0 0x9001 sevInfo (le 1 irOk ++ le 1 0 ++ r.digest.take 8)
      .next (imgAnswer s (if r.mbx then .admin else .island) irOk)

/-- FULL_IMAGE_TRANSFER (R316, R424, R425): one transfer runs at a time. The image that has arrived is checked and stored in
the bank that is not running, or the region is erased; it is loaded at once where no image is applied or a Sanitize or
Secure Erase has completed since the last load. -/
def execFullImageTransfer (image : List Byte) (s : State) : Host.Outcome State Fault Refusal :=
  mcGate s (.fullImageTransfer image) fun s =>
  let k := 1 - s.sec.bank
  if s.boot.phase ≠ .run then .next s
  else if bgRuns s || lcRuns s then .next (imgAnswer s (.full k) irBusy)
  else
    let r := checkFront s image
    if r ≠ irOk then
      .next (imgRefuse (fwEvent (modBank s k fun x => { x with img := [] }) k r) (.full k) image r 0 0)
    else
      let s := fwEvent (modBank s k fun x => { x with img := image }) k 0
      if s.img.st = .none || s.img.sanitized || s.img.erased then
        if s.img.rw.isSome || s.img.req.isSome || s.fabric.busy then .next (imgRefuse s (.full k) image irBusy 0 0)
        else .next (tryLoad s image (.full k)).1
      else .next (imgAnswer s (.full k) irOk)

/-! ## Waiting for the TRNG (R176, R184) -/

/-- A draw is possible again: the image that waits for one is checked once more and applied. -/
def resumeImage (s : State) : State :=
  match s.img.req with
  | none => s
  | some q =>
    if !canDraw s then s
    else
      let s := { s with img := { s.img with req := none } }
      match q.src with
      | .boot k r1 =>
        match tryLoad s q.image q.src, r1 with
        | (s, some r), none => if r = irOk then s else bootSecond s (1 - k) r
        | (s, some r), some r1 => if r = irOk then s else bothFailed s r1 r
        | (s, none), _ => s
      | .full _ => (tryLoad s q.image q.src).1
      | _ => tryReweave s q.image q.src

/-- TRNG_DRAW_TIMEOUT (R176): 100 ms after the wait began. -/
def execTrngDrawTimeout (s : State) : Host.Outcome State Fault Refusal :=
  match s.img.req with
  | none => .next s
  | some q =>
    let s := advanceTo s (q.since + 100000000)
    let s := { s with img := { s.img with req := none } }
    let s := keyEvent (imgRefuse s q.src q.image irTrng 0 0) 0 0 sevFatal irTrng
    match q.src with
    | .boot k none => .next (bootSecond s (1 - k) irTrng)
    | .boot _ (some r1) => .next (bothFailed s r1 irTrng)
    | _ => .next s

/-- TRNG_HEALTH_RECOVER (R176, R184): OK returns to 1; a metadata key and an image that wait for a draw have it. -/
def execTrngHealthRecover (s : State) : Host.Outcome State Fault Refusal :=
  if s.keys.trngOk then .next s
  else
    let s := { s with keys := { s.keys with trngOk := true, failing := false } }
    .next (resumeImage (drawMeta (logEv s (srcOf secBase) 0x9002 sevNote (le 3 0 ++ kindByte 184 1))))

end Sys2Proof.Machine
end

