-- ==== Sys2Proof/Machine/Power.lean ====
section
/-! DEFINITION. Power domains and operating points: idling (R359), group sleep (R361–R365), wakes (R366–R368), and DVFS
(R369–R371). -/

namespace Sys2Proof.Machine

open Sys2Proof

/-! ## Domains and groups (R357, R360) -/

/-- A spindle of the quadrant has home role DECODE (R357). -/
def holdsDecode (s : State) (d : Nat) : Bool := spindles.any fun n => quadDom n == d && (spnAt s n).home == 1

/-- Host-path domains (R357). -/
def hostPath (s : State) (d : Nat) : Bool :=
  (decide (2 ≤ d) && decide (d < 10)) || (decide (14 ≤ d) && decide (d < 24)) ||
  (decide (10 ≤ d) && decide (d < 14) && holdsDecode s d)

/-- Some seat that reaches the window has a path on the host port. -/
def winOnPort (s : State) (w n : Nat) : Bool :=
  (winSeats s w).any fun x =>
    let y := seatAt s x
    (y.p0.kind != 0 && y.p0.port == n) || (y.p1.kind != 0 && y.p1.port == n)

/-- NAPPERM (R360): every ONLINE window mapped to a host-path domain has NAP_OK set. -/
def napPerm (s : State) (d : Nat) : Bool :=
  !hostPath s d || s.wins.all fun e =>
    e.2.state != .online || e.2.napOk || (decide (2 ≤ d) && decide (d < 6) && !winOnPort s e.1 (d - 2))

/-- DEEPEST in force: a host-path domain goes no deeper than NAP (R196, R357). -/
def deepestOf (s : State) (d : Nat) : Nat := if hostPath s d then min 2 (domAt s d).deepest else (domAt s d).deepest

/-- Sleep group of a domain: 15 for none. -/
def grpOf (s : State) (d : Nat) : Nat := if 8 ≤ (domAt s d).group then 15 else (domAt s d).group

/-- The domains of a group, or a domain without one alone. An OFF domain takes no part. -/
def membersOf (s : State) (d : Nat) : List Nat :=
  (List.range 26).filter fun x => decide (0 < x) && (domAt s x).st != .off &&
    (x == d || (grpOf s d != 15 && grpOf s x == grpOf s d))

/-- The control register that governs a domain (R378, R379). -/
def ctlReg (s : State) (d : Nat) : Nat :=
  if grpOf s d = 15 then pwrBase + 0x80 + 4 * d else pwrBase + 0x100 + 4 * grpOf s d

/-- Key of a control register in the supervisor's list of requests: the domain, or 32 + the group. -/
def ctlKey (s : State) (d : Nat) : Nat := if grpOf s d = 15 then d else 32 + grpOf s d

/-- TARGET of a control register: 1 acts as 0. -/
def targetOf (s : State) (reg : Nat) : Nat := if fld (regN s reg) 29 28 = 1 then 0 else fld (regN s reg) 29 28

/-- IDLE_US of a control register in ns. -/
def idleNs (s : State) (reg : Nat) : Nat := max 1 (fld (regN s reg) 19 0) * 1000

/-- Sets or clears a bit of a control register: REQ is bit 30, WAKE bit 31. -/
def putCtlBit (s : State) (reg i : Nat) (v : Bool) : State :=
  setReg s reg (if v then regAt s reg ||| (1#32 <<< i) else regAt s reg &&& ~~~(1#32 <<< i))

/-- Something of the domain's is still outstanding (R296), or it has work of its own (R359). -/
def outstanding (s : State) (d : Nat) : Bool :=
  let anyTrk := fun (f : Trk → Bool) => s.trk.any fun e => match e.2 with
    | some t => f t
    | none => false
  if 2 ≤ d ∧ d < 6 then
    (ingressAt s (d - 2)) != [] || (anyTrk fun t => t.m.port == d - 2) || s.xing.any fun e => match e.2 with
      | some x => (x.sent.any fun k => k / 4 == d - 2) ||
        (x.issued && x.sent.isNone && (snoopPath s x.seat).any fun p => p.port == d - 2)
      | none => false
  else if d < 10 then anyTrk (fun _ => true) || !s.acts.isEmpty
  else if d < 14 then spindles.any fun n => quadDom n == d && (spnAt s n).slots != []
  else if d < 22 then
    [2 * (d - 14), 2 * (d - 14) + 1].any fun c =>
      (chAt s c).rq != [] || (chAt s c).wq != [] || (chAt s c).busy ||
      anyTrk fun t => t.accepted && isRead t.m.op && t.snap.any fun x => chOfLine s x.1 == c
  else if d = 22 then !s.acts.isEmpty || anyTrk fun t => isDb s t.m.win && !t.coherent
  else if d = 23 then anyTrk fun t => !t.accepted && (!isDb s t.m.win || t.coherent)
  else (plyAt s (d - 24)).replay != [] || (plyAt s (d - 24)).queue != []

/-- DOMAIN_IDLE (R359): 64 core cycles without work or a flit in its ports; never AON. -/
def execDomainIdle (dom : Fin 26) (s : State) : Host.Outcome State Fault Refusal :=
  if dom.val = 0 ∨ (domAt s dom).st ≠ .run ∨ outstanding s dom = true then .next s
  else .next (modDom s dom fun x => { x with st := .idle, idleAt := some s.now })

/-! ## Refusals (R363) -/

/-- Only spindles of the quadrant may take work of the role (R196). -/
def onlyIn (s : State) (d r : Nat) : Bool :=
  let can := spindles.filter fun n => servesRole s r n || (spnUsable s n && (spnAt s n).lending == some r)
  can != [] && can.all fun n => quadDom n == d

/-- A unit or a ring descriptor waits that only spindles of the quadrant may take (R187, R196). -/
def unitBound (s : State) (d : Nat) : Bool :=
  (s.units.any fun u => onlyIn s d u.role) ||
  (onlyIn s d 5 && ((s.rings.any fun e => takeable e.2) || s.descs.any fun e => match e.2 with
    | some x => isDescKey e.1 && descMayStart s e.1 x
    | none => false))

/-- The fabric domains sleep only in a group with every domain that attaches to their stations (R298). -/
def fabricAlone (s : State) (members : List Nat) (d : Nat) : Bool :=
  decide (6 ≤ d) && decide (d < 10) &&
  (List.range 26).any fun x => decide (2 ≤ x) && (domAt s x).st != .off && !members.contains x

/-- Reason for which a member refuses, the lowest code that holds (R363). -/
def refuseReason (s : State) (members : List Nat) (doze : Bool) (d : Nat) : Option Nat :=
  let chs := if 14 ≤ d ∧ d < 22 then [2 * (d - 14), 2 * (d - 14) + 1] else []
  if 10 ≤ d ∧ d < 14 ∧ (outstanding s d || unitBound s d) = true then some 1
  else if (chs.any fun c => (chAt s c).st = .training || (chAt s c).st = .offline || (chAt s c).startNext ||
      s.rate.busy || s.rate.stored.isSome) = true then some 2
  else if 24 ≤ d ∧ plyUp s (d - 24) = true ∧ ((mirroredWins s).any fun w => (winAt s w).ms != .off) = true then some 3
  else if (!napPerm s d || fabricAlone s members d) = true then some 4
  else if deepestOf s d < (if doze then 3 else 2) then some 5
  else if (s.power.waiting.any fun x => x.2 && members.contains x.1) = true then some 6
  else none

/-! ## Ends of transitions (R362, R364) -/

/-- PWR.GRP_LAST (R379). -/
def grpLast (s : State) (result dom reason group : Nat) : State :=
  { s with power := { s.power with lastResult := result, lastDomain := dom, lastReason := reason, lastGroup := group } }

/-- The event record of a group, domain and reason (R413). -/
def groupEvent (s : State) (sev group dom reason : Nat) : State :=
  logEv s (srcOf pwrBase) 0x8001 sev (le 1 group ++ le 1 dom ++ le 1 reason)

/-- The transition is over: REQ clears, unless one written since waits and the group is awake (R361, R378), WAKE of every domain that is awake clears, and a DVFS transition that waits goes
on. -/
def endTrans (s : State) : State :=
  let s := match s.power.trans with
    | some t => match t.members.head? with
      | some d =>
        let s := if t.members.any (domAsleep s) then { s with power := { s.power with
            waiting := s.power.waiting.filter (· != (ctlKey s d, false)) } } else s
        putCtlBit s (ctlReg s d) 30 (s.power.waiting.contains (ctlKey s d, false))
      | none => s
    | none => s
  let s := { s with power := { s.power with
    trans := none
    waiting := s.power.waiting.filter fun x => !x.2 || domAsleep s x.1 } }
  let s := (List.range 26).foldl (fun t d =>
    if domAwake t d then
      let t := if bitOf (regN t (pwrBase + 0x80 + 4 * d)) 31 then putCtlBit t (pwrBase + 0x80 + 4 * d) 31 false else t
      if bitOf (regN t (ctlReg t d)) 31 then putCtlBit t (ctlReg t d) 31 false else t
    else t) s
  dvfsGo s

/-- A refusal before COMMIT aborts the group: each member continues as before. -/
def abortSleep (s : State) (t : Trans) (dom reason : Nat) : State :=
  endTrans (bump (grpLast s 2 dom reason t.group) (pwrBase + 0x160))

/-- A wake of members begins (R367): step 1 in all of them. `late`: GRP_LAST keeps what it records. -/
def startWake (s : State) (members : List Nat) (group : Nat) (late : Option (Nat × Nat)) : State :=
  let dozed := members.filter fun d => (domAt s d).st = .doze
  let s := members.foldl (fun t d => modDom t d fun x => { x with st := .waking }) s
  { s with power := { s.power with trans := some {
      wake := true, members := members, group := group, doze := dozed != [], step := 1, at_ := s.now, stopped := dozed,
      late := late } } }

/-- A late REFUSE abandons the group (R364): unfenced members resume at once; fenced ones stop and then wake. -/
def lateRefuse (s : State) (t : Trans) (dom reason : Nat) : State :=
  let s := t.members.foldl (fun u d =>
    if t.fenced.contains d then u else modDom u d fun x => { x with st := .run, idleAt := none }) s
  let s := bump (grpLast s 3 dom reason t.group) (pwrBase + 0x160)
  let s := groupEvent s sevNote t.group dom reason
  let reg := ctlReg s dom
  let s := { s with power := { s.power with
    holdoff := tabSet 0 s.power.holdoff (ctlKey s dom) (s.now + idleNs s reg) } }
  let s :=
    if t.fenced = [] then endTrans s
    else if t.stopped.length = t.fenced.length then startWake s t.fenced t.group (some (dom, reason))
    else { s with power := { s.power with trans := some { t with members := t.fenced, late := some (dom, reason) } } }
  resume (runStored s)

/-- Wake requests that have come for a group on its way to sleep (R365). -/
def meetWakes (s : State) : State :=
  match s.power.trans with
  | none => s
  | some t =>
    if t.wake || t.late.isSome then s
    else match s.power.waiting.find? fun x => x.2 && t.members.contains x.1 with
      | none => s
      | some (d, _) => if t.step = 2 then abortSleep s t d 6 else lateRefuse s t d 6

/-! ## Sleep (R361, R362) -/

/-- PREPARE goes to every member (R362 step 1). -/
def startSleep (s : State) (d target : Nat) : State :=
  let ms := membersOf s d
  { s with power := { s.power with
    waiting := s.power.waiting.filter fun x => x != (ctlKey s d, false)
    trans := some { wake := false, members := ms, group := grpOf s d, doze := target == 3, step := 2, at_ := s.now } } }

/-- State asked for (R361): the shallower of TARGET and the shallowest DEEPEST; a REQ with TARGET 0 asks for NAP. A
request for a state that a DEEPEST forbids is refused by that member (R363). -/
def askedState (s : State) (d : Nat) (req : Bool) : Nat :=
  let tgt := targetOf s (ctlReg s d)
  let deep := (membersOf s d).foldl (fun a x => min a (deepestOf s x)) 3
  if tgt = 0 then (if req then 2 else 0) else if req then max 2 (min tgt deep) else min tgt deep

/-- No group transition and no DVFS transition runs (R361, R371). -/
def transFree (s : State) : Bool := s.power.trans.isNone && s.power.dvfs.isNone

/-- GROUP_SLEEP_REQUEST (R361): a REQ that has waited, or every member IDLE for IDLE_US. -/
def execGroupSleepRequest (dom : Fin 26) (s : State) : Host.Outcome State Fault Refusal :=
  let d := dom.val
  let ms := membersOf s d
  if d = 0 ∨ transFree s = false ∨ ms.contains d = false ∨ (ms.any fun x => !domAwake s x) = true then .next s
  else if s.power.waiting.contains (ctlKey s d, false) then .next (startSleep s d (askedState s d true))
  else
    let asked := askedState s d false
    if asked < 2 ∨ (ms.any fun x => (domAt s x).st != .idle) = true then .next s
    else
      let since := ms.foldl (fun a x => max a ((domAt s x).idleAt.getD 0)) 0
      let due := max (since + idleNs s (ctlReg s d)) (tabGet 0 s.power.holdoff (ctlKey s d))
      .next (startSleep (advanceTo s due) d asked)

/-- REQ written 1 to a control register (R361, R378). A grouped domain ignores its own REQ; a group that sleeps has nothing
to do, and one whose transition still runs is asked again once that ends. -/
def putSleepReq (s : State) (d : Nat) (group : Bool) : State :=
  let ms := membersOf s d
  if (!group && grpOf s d != 15) || d = 0 || ms = [] || ms.any (domAsleep s) then s
  else
    let s := putCtlBit s (ctlReg s d) 30 true
    let s := { s with power := { s.power with holdoff := tabSet 0 s.power.holdoff (ctlKey s d) 0 } }
    if transFree s && ms.all (domAwake s) then startSleep s d (askedState s d true)
    else if s.power.waiting.contains (ctlKey s d, false) then s
    else { s with power := { s.power with waiting := s.power.waiting ++ [(ctlKey s d, false)] } }

/-- A member of a group, the lowest-numbered: the supervisor treats all alike. -/
def headOf (s : State) (g : Nat) : Option Nat := (List.range 26).find? fun d => grpOf s d == g

/-- The register that a REQ or WAKE names. -/
def ctlOff : Fin 26 ⊕ Fin 8 → Nat
  | .inl d => pwrBase + 0x80 + 4 * d.val
  | .inr g => pwrBase + 0x100 + 4 * g.val

/-- REQ of either kind of register. -/
def reqAt (s : State) : Fin 26 ⊕ Fin 8 → State
  | .inl d => putSleepReq s d false
  | .inr g => match headOf s g with
    | some d => putSleepReq s d true
    | none => s

/-- SLEEP_REQ (R378, R379). -/
def execSleepReq (by_ : Agent) (reg : Fin 26 ⊕ Fin 8) (s : State) : Host.Outcome State Fault Refusal :=
  .next (access s by_ (ctlOff reg) (.sleepReq by_ reg) fun s => reqAt s reg)

/-- COMMIT (R362 step 3): every member drains. A CHG domain flushes its merge buffers. -/
def commitSleep (s : State) (t : Trans) : State :=
  let s := t.members.foldl (fun u d =>
    let u := modDom u d fun x => { x with st := .sleeping, idleAt := none }
    if 14 ≤ d ∧ d < 22 then flushAll (flushAll u (2 * (d - 14))) (2 * (d - 14) + 1) else u) s
  { s with power := { s.power with trans := some { t with step := 3, at_ := s.now } } }

/-- MEMBER_ANSWER (R362 step 2, R363). -/
def execMemberAnswer (dom : Fin 26) (s : State) : Host.Outcome State Fault Refusal :=
  let s := meetWakes s
  match s.power.trans with
  | none => .next s
  | some t =>
    let d := dom.val
    if t.wake || t.step != 2 || !t.members.contains d || t.accepted.contains d then .next s
    else match refuseReason s t.members t.doze d with
      | some r => .next (abortSleep s t d r)
      | none =>
        let t := { t with accepted := t.accepted ++ [d] }
        if t.members.all fun x => t.accepted.contains x then .next (commitSleep s t)
        else .next { s with power := { s.power with trans := some t } }

/-- PREPARE_TIMEOUT (R362): 10 µs after PREPARE; NO_ANSWER names the lowest silent member. -/
def execPrepareTimeout (s : State) : Host.Outcome State Fault Refusal :=
  let s := meetWakes s
  match s.power.trans with
  | none => .next s
  | some t =>
    if t.wake || t.step != 2 then .next s
    else
      let silent := t.members.filter fun x => !t.accepted.contains x
      .next (abortSleep (advanceTo s (t.at_ + 10000)) t (silent.headD 0) 7)

/-- A domain's fences close (R296 step 3): SKN empties its line cache (R14), and CHG channels leave ONLINE (R242). -/
def fenceDom (s : State) (d : Nat) : State :=
  let s := setFences s d true
  if d = 23 then { s with lcache := [] }
  else if 14 ≤ d ∧ d < 22 then
    rescale ([2 * (d - 14), 2 * (d - 14) + 1].foldl (fun t c =>
      if (chAt t c).st = .online then modCh (flushAll t c) c fun x => { x with st := .selfref, openRow := [] } else t) s)
  else s

/-- MEMBER_FENCED (R362 step 3): nothing is outstanding, and the member's ports are fenced. -/
def execMemberFenced (dom : Fin 26) (s : State) : Host.Outcome State Fault Refusal :=
  let s := meetWakes s
  match s.power.trans with
  | none => .next s
  | some t =>
    let d := dom.val
    if t.wake || t.late.isSome || t.step < 3 || !t.members.contains d || t.fenced.contains d || outstanding s d then .next s
    else
      let t := { t with fenced := t.fenced ++ [d] }
      let t := { t with step := if t.members.all fun x => t.fenced.contains x then 4 else 3 }
      .next { fenceDom s d with power := { (fenceDom s d).power with trans := some t } }

/-- A member has stopped (R359): a ply port goes down with its domain; in DOZE the SRAM contents and counters are lost
(R196, R449). -/
def stopDom (s : State) (d : Nat) (doze : Bool) : State :=
  let s := modDom s d fun x => { x with st := if doze then .doze else .nap }
  let s := if doze then loseCounters s d else s
  let s := if 24 ≤ d then plyDown s (d - 24) .down else s
  if 10 ≤ d ∧ d < 14 then
    spindles.foldl (fun t n => if quadDom n = d then
      modSpn t n fun x => { gateSpn t.now x with deposits := if doze then [] else x.deposits } else t) s
  else s

/-- MEMBER_STOPPED (R362 steps 4 and 5). -/
def execMemberStopped (dom : Fin 26) (s : State) : Host.Outcome State Fault Refusal :=
  let s := meetWakes s
  match s.power.trans with
  | none => .next s
  | some t =>
    let d := dom.val
    if t.wake || !t.fenced.contains d || t.stopped.contains d then .next s
    else
      let s := stopDom s d t.doze
      let t := { t with stopped := t.stopped ++ [d] }
      if t.members.all fun x => t.stopped.contains x then
        match t.late with
        | some l => .next (startWake s t.members t.group (some l))
        | none => .next (endTrans (grpLast s 1 0 0 t.group))
      else .next { s with power := { s.power with trans := some t } }

/-- LATE_REFUSE (R363, R364): the reason holds for the member. -/
def execLateRefuse (dom : Fin 26) (reason : Fin 256) (s : State) : Host.Outcome State Fault Refusal :=
  let s := meetWakes s
  match s.power.trans with
  | none => .next s
  | some t =>
    let d := dom.val
    if t.wake || t.late.isSome || t.step < 3 || !t.members.contains d ||
        refuseReason s t.members t.doze d != some reason.val then .next s
    else .next (lateRefuse s t d reason)

/-- DRAIN_TIMEOUT (R296, R363): a member's drain exceeds 100 µs. -/
def execDrainTimeout (dom : Fin 26) (s : State) : Host.Outcome State Fault Refusal :=
  let s := meetWakes s
  match s.power.trans with
  | none => .next s
  | some t =>
    let d := dom.val
    if t.wake || t.late.isSome || t.step != 3 || !t.members.contains d || t.fenced.contains d || !outstanding s d then .next s
    else .next (lateRefuse (advanceTo s (t.at_ + 100000)) t d 0xC)

/-! ## Wake (R365–R368) -/

/-- A wake is requested for a domain (R365, R366): it meets a running sleep of its group, or starts at once where nothing
else runs. -/
def requestWake (s : State) (d : Nat) : State :=
  let s := meetWakes (askWake s d)
  if domAsleep s d && transFree s then startWake s ((membersOf s d).filter (domAsleep s)) (grpOf s d) none else s

/-- GROUP_WAKE (R365–R367). -/
def execGroupWake (dom : Fin 26) (s : State) : Host.Outcome State Fault Refusal := .next (requestWake s dom)

/-- WAKE written 1 (R378): it wakes the domain's group, grouped or not. -/
def putWake (s : State) (d : Nat) (reg : Nat) : State :=
  if domAsleep s d || (domAt s d).st = .sleeping || (domAt s d).st = .waking then
    requestWake (putCtlBit s reg 31 true) d
  else s

/-- WAKE of either kind of register. -/
def wakeAt (s : State) (r : Fin 26 ⊕ Fin 8) : State :=
  match r with
  | .inl d => putWake s d (ctlOff r)
  | .inr g => match headOf s g with
    | some d => putWake s d (ctlOff r)
    | none => s

/-- WAKE_REQ (R378, R379). -/
def execWakeReq (by_ : Agent) (reg : Fin 26 ⊕ Fin 8) (s : State) : Host.Outcome State Fault Refusal :=
  .next (access s by_ (ctlOff reg) (.wakeReq by_ reg) fun s => wakeAt s reg)

/-- DOMAIN-class registers and counters return to their reset values on a wake from DOZE (R449, R461). -/
def domReset (s : State) (d : Nat) : State :=
  let mine := fun (key : Nat) => match blockOf (key % copy1) with
    | some (b, _) => regClass key == .domain && domOfBlk b == d
    | none => false
  let s := { s with
    regs := tabFilter (fun k _ => !mine k) s.regs, cnts := tabFilter (fun k _ => !mine k) s.cnts
    latches := tabFilter (fun k _ => !mine k) s.latches }
  spindles.foldl (fun t n => if quadDom n = d then modSpn t n fun x => { x with
    pcNew := false, pcSlot := 0, pcRole := 0, pc := 0 } else t) s

/-- The memory step (R367 step 3): channels leave self-refresh, with a ZQ calibration (R242). -/
def memoryStep (s : State) (d : Nat) : State :=
  if 14 ≤ d ∧ d < 22 then
    rescale ([2 * (d - 14), 2 * (d - 14) + 1].foldl (fun t c =>
      if (chAt t c).st = .selfref then modCh (goOnline t c) c fun x => { x with zqAt := t.now } else t) s)
  else s

/-- The logic step (R367 step 4): the fences lift, and the boundary queues are delivered; the watchdog of MGMT restarts from
zero (R401). -/
def logicStep (s : State) (dozed : List Nat) (d : Nat) : State :=
  let s := if dozed.contains d then domReset s d else s
  let s := modDom (deliverQueues (setFences s d false) d) d fun x => { x with st := .run, idleAt := none }
  let s := if d = 1 then { s with mgmt := { s.mgmt with wdtAt := s.now } } else s
  if 24 ≤ d ∧ plyEnabled s (d - 24) && !s.boot.refLost.getLsbD (4 + (d - 24)) then
    modPly s (d - 24) fun x => { x with st := .training, stepAt := s.now }
  else s

/-- Every member has raised the ready signal of the running step. -/
def wakeStepDone (s : State) (t : Trans) : State :=
  let s := if t.step = 3 then t.members.foldl memoryStep s else s
  if t.step < 4 then
    { s with power := { s.power with trans := some { t with step := t.step + 1, ready := [] } } }
  else
    let s := t.members.foldl (fun u d => logicStep u t.stopped d) s
    let s := if t.late.isNone then grpLast s 4 0 0 t.group else s
    resume (runStored (endTrans s))

/-- The ready signal of one member (R367). -/
def wakeReady (s : State) (d : Nat) : State :=
  match s.power.trans with
  | none => s
  | some t =>
    if !t.wake || !t.members.contains d || t.ready.contains d then s
    else
      let t := { t with ready := t.ready ++ [d] }
      if t.members.all fun x => t.ready.contains x then wakeStepDone s t
      else { s with power := { s.power with trans := some t } }

/-- Latest time of a wake step in ns (R367). -/
def wakeLatest (doze : Bool) (step : Nat) : Nat :=
  if doze then (if step = 1 then 8000 else if step = 2 then 28000 else if step = 3 then 38000 else 40000)
  else (if step = 1 then 200 else if step = 2 then 250 else if step = 3 then 1850 else 2000)

/-- A domain goes OFF (R368): its boundary queues are answered ASLEEP. -/
def domOff (s : State) (group step d : Nat) : State :=
  let s := refuseQueues (loseCounters (modDom s d fun x => { x with st := .off, idleAt := none }) d) d
  if hostPath s d then groupEvent s sevFatal group d (0x10 + step) else s

/-- A member is back in its stopped state after its memory step (R368 step 1): a CHG domain's DRAM in self-refresh. -/
def stopAgain (s : State) (d : Nat) : State :=
  if 14 ≤ d ∧ d < 22 then
    rescale ([2 * (d - 14), 2 * (d - 14) + 1].foldl (fun t c =>
      if (chAt t c).st = .online then modCh t c fun x => { x with st := .selfref, openRow := [] } else t) s)
  else s

/-- A ready signal has not risen by its latest time (R368): the wake is repeated once; then the failing members go OFF and
the others complete it. -/
def wakeFails (s : State) : State :=
  match s.power.trans with
  | none => s
  | some t =>
    let bad := t.members.filter fun x => !t.ready.contains x
    if !t.wake || bad = [] then s
    else
      let s := advanceTo s (t.at_ + wakeLatest t.doze t.step)
      let d := bad.headD 0
      let s := groupEvent (bump s (pwrBase + 0x164)) sevErr t.group d (0x10 + t.step)
      let s := grpLast s 5 d (0x10 + t.step) t.group
      if !t.again then
        let s := if t.step = 4 then t.members.foldl stopAgain s else s
        { s with power := { s.power with trans := some { t with
          step := 1, at_ := s.now, ready := [], again := true } } }
      else
        let s := bad.foldl (fun u x => domOff (if t.step = 4 then stopAgain u x else u) t.group t.step x) s
        let good := t.members.filter fun x => t.ready.contains x
        if good = [] then resume (endTrans s)
        else wakeStepDone s { t with members := good, late := some (d, 0x10 + t.step) }

/-! ## Operating points (R369–R371) -/

/-- The target has a higher frequency than the point in use (R369, R370). -/
def dvfsRaises (s : State) : Bool := decide (s.power.target < s.power.op)

/-- A transition begins (R370 step 1). -/
def startDvfs (s : State) (t : Nat) : State :=
  dvfsGo { s with power := { s.power with
    target := t, stored := none, dvfs := some 1, dvfsAt := s.now, pllOk := false, voltOk := false } }

/-- A write of TARGET (R370, R371): stored while BUSY. -/
def putDvfs (s : State) (t : Nat) : State :=
  if s.power.dvfs.isSome then { s with power := { s.power with stored := some t } } else startDvfs s t

/-- DVFS_TARGET (R370, R371, R380). -/
def execDvfsTarget (by_ : Agent) (target : Fin 4) (s : State) : Host.Outcome State Fault Refusal :=
  .next (access s by_ (pwrBase + 0x130) (.dvfsTarget by_ target) fun s => putDvfs s target)

/-- A transition ends with a RESULT (R371): trainings that waited go on, then a stored TARGET runs. -/
def endDvfs (s : State) (result : Nat) : State :=
  let s := { s with power := { s.power with dvfs := none, result := result, target := s.power.op } }
  let s := if result = 0 then bump s (pwrBase + 0x168)
    else logEv s (srcOf pwrBase) 0x8001 sevErr (le 1 15 ++ le 1 0 ++ le 1 result)
  let s := (List.range 16).foldl (fun t c =>
    if (chAt t c).paused && !(t.rate.busy && (chAt t c).st = .training) then
      modCh t c fun x => { x with busy := true, paused := false }
    else t) s
  match s.power.stored with
  | some t => startDvfs s t
  | none => s

/-- The core clock switches to the idle PLL (R370 step 3). -/
def switchClock (s : State) : State :=
  { s with power := { s.power with op := s.power.target, pllB := !s.power.pllB } }

/-- PLL_LOCK (R370): lowering then commands the voltage; raising switches once the voltage is confirmed too. -/
def execPllLock (s : State) : Host.Outcome State Fault Refusal :=
  if s.power.dvfs ≠ some 2 ∨ s.power.pllOk = true then .next s
  else
    let raises := dvfsRaises s
    let s := { s with power := { s.power with pllOk := true } }
    if raises then
      if s.power.voltOk then .next (endDvfs (switchClock s) 0) else .next s
    else
      let s := switchClock s
      .next { s with power := { s.power with dvfs := some 4, dvfsAt := s.now } }

/-- PLL_LOCK_TIMEOUT (R371): nothing is switched. -/
def execPllLockTimeout (s : State) : Host.Outcome State Fault Refusal :=
  if s.power.dvfs ≠ some 2 ∨ s.power.pllOk = true then .next s
  else .next (endDvfs (advanceTo s (s.power.dvfsAt + 20000)) 2)

/-- VOLTAGE_CONFIRM (R370). -/
def execVoltageConfirm (s : State) : Host.Outcome State Fault Refusal :=
  if s.power.dvfs = some 4 then .next (endDvfs s 0)
  else if s.power.dvfs = some 2 && dvfsRaises s && !s.power.voltOk then
    let s := { s with power := { s.power with voltOk := true } }
    if s.power.pllOk then .next (endDvfs (switchClock s) 0) else .next s
  else .next s

/-- VOLTAGE_CONFIRM_TIMEOUT (R371): a raise leaves the frequency; a lowering keeps the new one. -/
def execVoltageConfirmTimeout (s : State) : Host.Outcome State Fault Refusal :=
  if s.power.dvfs = some 4 || (s.power.dvfs = some 2 && dvfsRaises s && !s.power.voltOk) then
    .next (endDvfs (advanceTo s (s.power.dvfsAt + 100000)) 1)
  else .next s

end Sys2Proof.Machine
end

