-- ==== Sys2Proof/Machine/Links.lean ====
section
/-! DEFINITION. Links of the host ports: training and flit modes (R28–R32), credits (R33, R34), link events (R46–R48), IDE
(R38, R39), and features that are not implemented (R27). -/

namespace Sys2Proof.Machine

open Sys2Proof

/-! ## Training (R28–R32) -/

/-- Full width of a link under the sampled straps (R28, R29); 0 where the port has no such link. -/
def bifWidth (s : State) (port link : Nat) : Nat :=
  match (portAt s port).bifSts.toNat with
  | 0 => if link = 0 then 16 else 0
  | 1 => if link < 2 then 8 else 0
  | 2 => 4
  | _ => 0

/-- First physical lane of a link's range (R29). -/
def laneBase (s : State) (port link : Nat) : Nat := link * bifWidth s port link

/-- Physical lane that carries logical lane 0 of a link (R29): the first of its range, or the last in reversed order. -/
def laneZero (s : State) (port link : Nat) (reversed : Bool) : Nat :=
  laneBase s port link + if reversed then bifWidth s port link - 1 else 0

/-- Physical lane of logical lane `i` of a trained link (R29, R30). -/
def physLane (l : Link) (i : Nat) : Nat := if l.reversed then l.lane0 - i else l.lane0 + i

/-- Highest rate offered: codes 6 and 7 act as 5 (R50). -/
def maxLinkRate (s : State) (port : Nat) : Nat := min 5 (fld (regN s (hpBase port + 0x14)) 2 0)

/-- The flit mode both ends share at a rate: 3 latency-optimised, 2 standard, 1 68-byte, 0 none (R31, R32). -/
def flitAt (s : State) (port : Nat) (p : Partner) (rate : Nat) : Nat :=
  let cap := regN s (hpBase port + 0x14)
  if rate < 2 then 0
  else if p.flit256 then (if p.lopt && !bitOf cap 5 then 3 else 2)
  else if p.flit68 && !bitOf cap 4 && rate != 5 then 1
  else 0

/-- Rate and flit mode of a training (R32): the highest rate at which both ends share a flit mode; else 5 or 2.5 GT/s
without CXL.mem. -/
def negotiate (s : State) (port : Nat) (p : Partner) : Nat × Nat :=
  let top := min (maxLinkRate s port) p.maxRate
  match ((List.range (top + 1)).reverse).find? fun r => flitAt s port p r != 0 with
  | some r => (r, flitAt s port p r)
  | none => (min 1 top, 0)

/-- The host ports have left reset (R392 step 4). -/
def hostPortsOut (s : State) : Bool := mainOut s

/-- The link can train: its port is enabled and out of reset, its reference is there, and it is not held in Detect. -/
def canTrain (s : State) (port link : Nat) (p : Partner) : Bool :=
  hostPortsOut s && !(portAt s port).perst && !s.boot.refLost.getLsbD port &&
  ([1, 2, 4, 8, 16] : List Nat).contains p.width && decide (p.width ≤ bifWidth s port link)

/-- The trained link as its registers report it, with logical lane 0 on physical lane `lane0`, and the IDs of it whose
binding the partner does not hold (R57). -/
def trained (l : Link) (rate flit lane0 : Nat) (p : Partner) : Link :=
  { l with up := true, mem := flit != 0, rate := rate, flit := flit, width := p.width, reversed := p.reversed, lane0 := lane0,
           unbound := sortNat p.unbound.eraseDups,
           inv := BitVec.ofNat 16 (fld p.inverted.toNat (p.width - 1) 0), l0p := 0 }

/-- A path of a seat has returned: its stopped snoops are issued again (R48). The timer goes on from where it stood (DESIGN
CHOICE, log entry 90). -/
def reissueSnoops (s : State) (seat : Nat) : State :=
  (s.xing.map (·.1)).foldl (fun t r =>
    match xingAt t r with
    | some x =>
      if x.seat = seat && x.issued && x.start.isNone then
        trySendSnoop (modXing t r fun _ => some { x with start := some t.now, sent := none }) r
      else t
    | none => t) s

/-- The path is in L0 and its binding is intact (R48, R57): on an MLD or PBR link the partner holds that of its ID. -/
def pathBound (s : State) (p : Path) : Bool :=
  pathUp s p && (p.kind == 1 || !(linkAt s (linkKey p.port p.link)).unbound.contains p.id)

/-- A seat has a path in L0 again (R48, R57): a DETACHED seat whose binding is intact is ATTACHED. -/
def seatReturns (s : State) (seat : Nat) : State :=
  let x := seatAt s seat
  if !pathUp s x.p0 && !pathUp s x.p1 then s
  else
    let s := modSeat s seat fun x => { x with lostAt := none }
    match x.state with
    | .detached => if !pathBound s x.p0 && !pathBound s x.p1 then s else seatEvent (modSeat s seat fun x => { x with state := .attached, gone := false }) seat
    | .attached => reissueSnoops s seat
    | .suspect => reissueSnoops s seat
    | .disabling => reissueSnoops s seat
    | _ => s

/-- Seats with a path on a link. -/
def linkSeats (s : State) (port link : Nat) : List Nat := (s.seats.filter fun e => seatOnLink e.2 port link).map (·.1)

/-- The functions of a link, enumerated afresh: their MSI-X is enabled again (the host does so in configuration space). -/
def enumerate (s : State) (port link : Nat) : State :=
  { s with fns := tabMap {} (fun k x => if k / 4096 = linkKey port link then { x with msixOff := false } else x) s.fns }

/-- A partner that insists on 68-byte flits at 64 GT/s: the link trains lower, and the attempt is counted (R27). -/
def insists68 (s : State) (port link : Nat) (p : Partner) : State :=
  if 5 ≤ p.maxRate ∧ p.flit68 = true ∧ p.flit256 = false then protoOccurrence s port link 1 else s

/-- LINK_UP (R27, R31–R33, R46, R48, R57). -/
def execLinkUp (port link : Fin 4) (p : Partner) (s : State) : Host.Outcome State Fault Refusal :=
  let k := linkKey port link
  if (linkAt s k).up || !canTrain s port link p then .next s
  else
    let (rate, flit) := negotiate s port p
    let s := insists68 (enumerate s port link) port link p
    let s := modLink s k fun l => { trained l rate flit (laneZero s port link p.reversed) p with
      credReq := if flit = 0 then 0 else 16 * p.width, credRwd := if flit = 0 then 0 else 8 * p.width
      credBi := if flit = 0 then 0 else 32 * p.width, credSnp := 0 }
    let s := emit (latchEvt s k evtUp) (.link port link rate flit)
    let s := linkEvent s port link 0x1001 (if flit = 0 then sevWarn else sevInfo) []
    .next (resume ((linkSeats s port link).foldl seatReturns s))

/-- FLIT_CRC_REPLAY (R46, R53): corrected by replay, or counted as failing the CRC after FEC. -/
def execFlitCrcReplay (port link : Fin 4) (replay : Bool) (s : State) : Host.Outcome State Fault Refusal :=
  let k := linkKey port link
  if (linkAt s k).up then .next (if replay then countReplay (countCrc s k) k else countCrc s k) else .next s

/-- L0P_WIDTH_CHANGE (R26, R46): at 64 GT/s in 256-byte flit mode. -/
def execL0pWidthChange (port link : Fin 4) (width : Nat) (s : State) : Host.Outcome State Fault Refusal :=
  let l := linkAt s (linkKey port link)
  if l.up && l.rate == 5 && decide (2 ≤ l.flit) && ([1, 2, 4, 8, 16] : List Nat).contains width && decide (width ≤ l.width) then
    .next (modLink s (linkKey port link) fun l => { l with l0p := width })
  else .next s

/-! ## Link down (R47, R48) -/

/-- A request of a link that has gone (R47 steps 2 and 3, R86): what has issued nothing, and a write that no channel has
accepted, frees at once; the rest is never answered, and what is no accepted write is ABANDONED. The manual speaks of reads
and writes only: MemInv, MemInvNT and MemClnEvct do as reads do, and are served later as R88 serves an abandoned one (DESIGN
CHOICE, log entry 82). -/
def dropRequest (s : State) (e : Nat) : State :=
  match trkAt s e with
  | none => s
  | some t =>
    let t := { t with silent := true }
    if t.st = .chained || (isWrite t.m.op && !t.accepted) then endEntry s e t fun s => s
    else modTrk s e fun _ => some (if isWrite t.m.op then t else { t with st := .abandoned })

/-- The BIConflict acknowledgements owed to a link that has gone are discarded (R47 step 1). -/
def dropAcks (s : State) (port link : Nat) : State :=
  { s with trk := tabMap none (fun _ o => o.map fun t => { t with
      acks := t.acks.filter fun a => !(a.1 == port && a.2.1 == link) }) s.trk }

/-- A snoop that had left on the link: what its writebacks and its answer had come to on the link is lost with it, and it goes
to the seat's other path, or stops with its timer (R48, R110). -/
def dropSnoop (k : Nat) (s : State) (r : Nat) : State :=
  match xingAt s r with
  | none => s
  | some x =>
    let x := { x with buf := x.buf.filter fun m => linkKey m.port m.link != k }
    let x := if x.sent = some k then { x with sent := none, ans := none, wbAhead := false } else x
    if seatUp s x.seat then trySendSnoop (modXing s r fun _ => some x) r
    else
      let x := match x.start with
        | some t => { x with start := none, ran := x.ran + (s.now - t) }
        | none => x
      modXing s r fun _ => some x

/-- A link leaves L0 (R47): in the order of that rule. -/
def takeLinkDown (s : State) (port link : Nat) : State :=
  let k := linkKey port link
  if !(linkAt s k).up then s
  else
    let on := fun (t : Trk) => t.m.port == port && t.m.link == link
    let s := modLink s k fun l => { l with
      up := false, mem := false, rate := 0, width := 0, flit := 0, reversed := false, lane0 := 0, inv := 0, l0p := 0
      unbound := [], credReq := 0, credRwd := 0, credBi := 0, credSnp := 0 }
    let s := { s with power := { s.power with held := s.power.held.filter fun h => heldLink h.2 != some (port, link) } }
    let s := modIngress s port fun q => q.filter fun m => m.link != link
    let s := (entriesWhere s on).foldl dropRequest (dropAcks s port link)
    let s := (s.xing.map (·.1)).foldl (dropSnoop k) s
    let s := (linkSeats s port link).foldl (fun t x =>
      let y := seatAt t x
      if seatUp t x || y.lostAt.isSome || !(y.state = .attached || y.state = .suspect || y.state = .disabling) then t
      else modSeat t x fun y => { y with lostAt := some t.now, lastPath := k }) s
    resume (linkEvent (latchEvt s k evtDown) port link 0x1001 sevWarn [])

/-- LINK_DOWN (R46, R47). -/
def execLinkDown (port link : Fin 4) (s : State) : Host.Outcome State Fault Refusal := .next (takeLinkDown s port link)

/-- Every link of a port goes down. -/
def portDown (s : State) (port : Nat) : State := ([0, 1, 2, 3] : List Nat).foldl (fun t l => takeLinkDown t port l) s

/-- LINK_RECOVERY (R46): one that loses CXL.mem where the link had it is a recovery that fails, and takes the link down. A link
that came up without CXL.mem keeps it off, though the recovery may find a flit mode that both ends share, which FLIT then
reports: CXL.mem is negotiated when a link comes up (DESIGN CHOICE, log entry 62). -/
def execLinkRecovery (port link : Fin 4) (p : Partner) (s : State) : Host.Outcome State Fault Refusal :=
  let k := linkKey port link
  let l := linkAt s k
  let (rate, flit) := negotiate s port p
  if !l.up then .next s
  else if !canTrain s port link p || (l.mem && flit == 0) then .next (takeLinkDown s port link)
  else
    let s := insists68 s port link p
    let s := modLink s k fun l => { trained l rate flit (laneZero s port link p.reversed) p with mem := l.mem }
    let s := if l.mem then (linkSeats s port link).foldl seatReturns s else s
    .next (linkEvent (emit (latchEvt s k evtRecovery) (.link port link rate flit)) port link 0x1001 sevInfo [])

/-- PERST_ASSERT (R473). -/
def execPerstAssert (port : Fin 4) (s : State) : Host.Outcome State Fault Refusal :=
  .next (modPort (portDown s port) port fun x => { x with perst := true })

/-- PERST_DEASSERT (R473). -/
def execPerstDeassert (port : Fin 4) (s : State) : Host.Outcome State Fault Refusal :=
  .next (modPort s port fun x => { x with perst := false })

/-! ## IDE (R38, R39) -/

/-- State of a stream, set. -/
def putIde (l : Link) (str : IdeStream) (v : Ide) : Link :=
  match str with
  | .cachemem => { l with ideMem := v }
  | .pcieLink => { l with ideLink := v }
  | .selective => { l with ideSel := v }

/-- Session key of a stream, set (R38, R180). -/
def putIdeKey (l : Link) (str : IdeStream) (k : Nat) : Link :=
  match str with
  | .cachemem => { l with keyMem := k }
  | .pcieLink => { l with keyLink := k }
  | .selective => { l with keySel := k }

def ideCode : IdeStream → Nat
  | .cachemem => 0
  | .pcieLink => 1
  | .selective => 2

/-- A function of the link has a secured SPDM session open (R38, R433). -/
def linkSession (s : State) (port link : Nat) : Bool :=
  s.fns.any fun e => e.1 / 4096 == linkKey port link && e.2.session

/-- IDE_KM_KEY_PROG (R27, R38, R180): the port holds the key that the host sends, a free value. -/
def execIdeKmKeyProg (port link : Fin 4) (str : IdeStream) (skid : Bool) (s : State) : Host.Outcome State Fault Refusal :=
  if !linkUpAt s port link || !linkSession s port link then .next s
  else if skid then .next (emit (protoOccurrence s port link 2) (.ideKm port link false))
  else
    let key := Config.freeNat s.free + 1
    .next (emit (modLink (nextFree s) (linkKey port link) fun l => putIdeKey (putIde l str .active) str key) (.ideKm port link true))

/-- IDE_INTEGRITY_FAILURE (R39, R46). -/
def execIdeIntegrityFailure (port link : Fin 4) (str : IdeStream) (s : State) : Host.Outcome State Fault Refusal :=
  let k := linkKey port link
  let l := linkAt s k
  let on := match str with
    | .cachemem => l.ideMem
    | .pcieLink => l.ideLink
    | .selective => l.ideSel
  if !l.up || on != .active then .next s
  else
    let s := latchEvt (modLink s k fun l => putIde l str .insecure) k evtIde
    let s := linkEvent s port link 0x1003 sevErr (kindByte 39 0 ++ le 1 (ideCode str))
    .next (takeLinkDown s port link)

/-! ## Features that are not implemented (R27) -/

/-- The functions of a link: those of its seats that own one, else the one it has before an image (R20). -/
def linkFns (s : State) (port link : Fin 4) : List Fn :=
  let l := (((linkSeats s port link).flatMap (seatFns s)).filter fun f => f.port == port && f.link == link).eraseDups
  if l = [] then [{ port := port, link := link, id := 0 }] else l

/-- An uncorrectable non-fatal error in the RAS capability of the link's functions, and in AER (R26, R27). -/
def rasLog (s : State) (port link : Fin 4) : State :=
  (linkFns s port link).foldl (fun t f => modFn t (fnKey f) fun x =>
    let x := putFnReg x 0x1200 (fnReg x 0x1200 ||| 0x200)
    putFnReg x (cfgKey 0x204) (fnReg x (cfgKey 0x204) ||| 0x400000)) (modLink s (linkKey port link) fun l => { l with ras := l.ras + 1 })

/-- CXL_CACHE_FLIT: discarded, and logged in the CXL RAS capability. -/
def execCxlCacheFlit (port link : Fin 4) (s : State) : Host.Outcome State Fault Refusal :=
  if !linkUpAt s port link then .next s
  else .next (protoOccurrence (rasLog s port link) port link 0)

/-- ASPM_ENTRY_REQUEST: rejected. -/
def execAspmEntryRequest (port link : Fin 4) (s : State) : Host.Outcome State Fault Refusal :=
  if !linkUpAt s port link then .next s else .next (protoOccurrence s port link 7)

end Sys2Proof.Machine
end

