-- ==== Sys2Proof/Machine/Reset.lean ====
section
/-! DEFINITION. Resets (R373, R391–R395, R461): what each type keeps, the wake record (R374), and the reset of the
management island. -/

namespace Sys2Proof.Machine

open Sys2Proof

/-! ## Causes (R374, R393, R394) -/

def causeCold : Nat := 0
def causeBrownout : Nat := 1
def causeGlobal : Nat := 2
def causeWarm : Nat := 3
def causeSupply : Nat := 4
def causeRefclk : Nat := 5

/-- Order in which coinciding causes are recorded (R394). -/
def causeRank (c : Nat) : Nat :=
  if c = 1 then 0 else if c = 0 then 1 else if c = 4 then 2 else if c = 5 then 3 else if c = 2 then 4 else 5

/-- The main domains are held in reset, or not yet released. -/
def mainHeld (s : State) : Bool := !hostPortsOut s

/-- CAUSE after a reset of a type: while another reset is held, the first of the two in R394's order. -/
def newCause (s : State) (c : Nat) : Nat :=
  if mainHeld s && decide (causeRank s.boot.cause < causeRank c) then s.boot.cause else c

/-! ## Life-cycle burns that a reset meets (R438) -/

/-- The fuse bits of a transition are burnt: for PROV the owner digest too, for SCRAP DUS_KILL (R438 step 5). -/
def burnFuses (x : Sec) (r : LcRun) : Sec :=
  { x with
    lc := r.target
    ownerDig := if r.target = .prov then digest (bytesAt r.owner 0 1793) else x.ownerDig
    dusKilled := x.dusKilled || decide (r.target = .scrap) }

/-- A reset during the burn: none of the copies was burnt, some, which the ROM completes (LAST 3), or a majority; which, is
free (log entry 4). -/
def burnAtReset (s : State) : State :=
  match s.sec.run with
  | none => s
  | some r =>
    if r.step ≠ 5 then s
    else
      let v := freeBelow s 3
      let s := nextFree s
      if v = 0 then s
      else { s with sec := { burnFuses s.sec r with last := if v = 1 then 3 else 0 } }

/-! ## Resets of the main domains (R393, R461) -/

/-- Domains as the main reset leaves them: OFF by fuses (R2) or straps (R28), else RUN (R359). -/
def freshDoms (s : State) : Tab Dom :=
  (List.range 26).foldl (fun t d =>
    let off := (decide (24 ≤ d) && !s.boot.partH) ||
      (decide (2 ≤ d) && decide (d < 6) && (portAt s (d - 2)).strap == 3#2)
    if off then tabSet {} t d { st := .off } else t) []

/-- Where the power-up and reset sequence stands once a reset of the main domains is no longer asserted (R391, R392). -/
def phaseAfter (s : State) : Phase :=
  match s.boot.phase with
  | .aonOff => .aonOff
  | .ldo => .ldo
  | _ =>
    if !s.hsw.pg then .supervisor
    else if !s.boot.railsOk then .rails
    else if s.boot.refLost.getLsbD 6 then .held
    else .keyDraw

/-- The security block after a reset that is not WARM: fuses and the flash header stay (R426, R438). -/
def secKept (x : Sec) : Sec :=
  { lc := x.lc, ownerDig := x.ownerDig, vsvn := x.vsvn, osvn := x.osvn, seals := x.seals, dusKilled := x.dusKilled,
    last := if x.last = 3 then 3 else 0 }

/-- Every field that a reset of the main domains returns to its reset value (R461). Flash, fuses, straps, board pins, powered
time, the hot-swap supervisor and the LDO stay; all SRAM is zeroed (R25), and the keys with it (R181). -/
def mainReset (s : State) (cause : Nat) : State :=
  let s := burnAtReset { s with sec := { s.sec with last := 0 } }
  { State.reset with
    now := s.now, pending := s.pending, free := s.free, stamp := s.stamp, out := s.out, marks := s.marks
    boot := { s.boot with
      cause := newCause s cause, firstDue := true, warmSince := none, warmWaits := false, phase := phaseAfter s
      thermtrip := s.boot.thermtrip && !(cause == 0 || cause == 1 || cause == 4) }
    regs := tabFilter (fun k _ => regClass k == .cold) s.regs
    cnts := tabFilter (fun k _ => regClass k == .cold) s.cnts
    log := { flash := s.log.flash, sinceSeal := s.log.sinceSeal }
    ports := tabMap {} (fun _ x => { x with bifSts := x.strap }) s.ports
    carder := { epochAt := s.now }
    keys := { next := s.keys.next }
    doms := freshDoms s
    power := { ldoNormal := s.power.ldoNormal, ldoReady := s.power.ldoReady }
    hsw := s.hsw
    banks := s.banks
    sec := secKept s.sec
    mgmt := { wdtAt := s.now, active := s.mgmt.active } }

/-- A reset as a cold power-up (R8, R373, R391 step 1): powered time starts from zero, BOOT_COUNT is due to advance, and
the hot-swap supervisor starts from OFF with its registers at reset. -/
def coldReset (s : State) (cause : Nat) : State :=
  let s := mainReset { s with boot := { s.boot with phase := .aonOff } } cause
  { s with
    now := 0, marks := [], regs := [], cnts := [], carder := {}, hsw := {}, power := {}
    mgmt := { s.mgmt with wdtAt := 0 }
    boot := { s.boot with phase := .ldo, bumpDue := s.boot.bumpDue + 1, cause := cause, railsOk := false, refLost := 0 } }

/-- A GLOBAL reset (R393). -/
def globalReset (s : State) : State := mainReset s causeGlobal

/-- A SUPPLY reset (R384, R393): held until power-good and the rails have returned. -/
def supplyReset (s : State) : State :=
  mainReset { s with boot := { s.boot with railsOk := false } } causeSupply

/-! ## WARM (R395) -/

/-- A running transfer ends with Aborted; its region is erased (R425). Result 8 in its record stands for Aborted. -/
def abortXfer (s : State) : State :=
  match s.mgmt.xfer with
  | none => s
  | some x =>
    let k := 1 - s.sec.bank
    let s := modBank { s with mgmt := { s.mgmt with xfer := none } } k fun b =>
      if x.isImg then { b with img := [] } else { b with fw := [], pending := false, armed := false, tried := false }
    let s := match x.by_ with
      | some c => bgFinish s c 0x0201 .aborted
      | none => emit s (.mctp 0x424 [7])
    fwEvent s k 8

/-- The queue toward the persistent log is drained (R414). -/
def drainLog (s : State) : State :=
  { s with log := s.log.queue.foldl flashPut { s.log with queue := [] } }

/-- Only the MGMT domain is reset (R395): the ring of the event log and the poison list are lost, MGMT SRAM with them, and
the controller reboots from flash. -/
def warmReset (s : State) : State :=
  let s := drainLog (abortXfer s)
  let keep := fun (_ : Nat) (x : FnState) => ({ msixOff := x.msixOff, msixTab := x.msixTab, pba := x.pba, bar0 := x.bar0, cdatChg := x.cdatChg } : FnState)
  let s := burnAtReset s
  { s with
    boot := { s.boot with
      cause := newCause s causeWarm, firstDue := true, warmSince := some s.now, warmWaits := false }
    regs := tabFilter (fun k _ => regClass k != .warm) s.regs
    latches := tabFilter (fun k _ => regClass k != .warm) s.latches
    log := { s.log with ring := [], written := 0, lostRing := 0, lostFlash := 0, alert := false }
    fns := tabMap {} keep s.fns
    plist := { overflow := true, firstUs := some (us s) }
    passes := s.passes.filter fun p => match p.by_ with
      | .ring _ _ => true
      | _ => false
    sec := { s.sec with
      nonce := none, started := false, confirmed := false
      run := s.sec.run.filter fun r => decide (r.step = 7) }
    mgmt := { s.mgmt with
      wdtAt := s.now, calBusy := false, timestamp := 0, i3c := false, eid := none, media := [] } }

/-- A WARM asked for by register (R395): it waits for a Sanitize, Secure Erase or Transfer FW. -/
def askWarm (s : State) : State :=
  if bgRuns s then { s with boot := { s.boot with warmWaits := true } } else warmReset s

/-- A background command has ended: a WARM that waits for it follows. -/
def bgEnded (s : State) : State := if s.boot.warmWaits && !bgRuns s then warmReset s else s

/-! ## Function-level reset (R46) -/

/-- FUNCTION_LEVEL_RESET (R46): the mailbox and DOE forget their commands, MSI-X is disabled and its table is as at reset, and
the keys of the CXL.io streams are cleared; a transfer or Scan Media pass that the mailbox was running ends. -/
def execFunctionLevelReset (f : Fn) (s : State) : Host.Outcome State Fault Refusal :=
  if !fnLive s f then .next s
  else .next (fnGate s f (.functionLevelReset f) fun s =>
    let k := linkKey f.port f.link
    let s := modFn s (fnKey f) fun x => { x with
      bg := 0, bgDone := false, doeUntil := 0, falcon := false, session := false, msixOff := true
      msixTab := [], pba := 0 }
    let s := { s with passes := s.passes.filter fun p => p.by_ != .mailbox f }
    let clear := fun (i : Ide) => if i = .active then .off else i
    let s := modLink s k fun l => { l with
      ideLink := clear l.ideLink, ideSel := clear l.ideSel, keyLink := 0, keySel := 0 }
    let s := linkEvent s f.port f.link 0x1001 sevInfo []
    if s.mgmt.xfer.any fun x => x.by_ == some (.mailbox f) then bgEnded (abortXfer s) else s)

/-! ## Rows -/

/-- COLD_POWER_UP (R8, R374, R391): VAUX was away, so the wake record reads 0. -/
def execColdPowerUp (s : State) : Host.Outcome State Fault Refusal :=
  let s := coldReset s causeCold
  .next { s with boot := { s.boot with boSrc := 0, boCnt := 0, prevMs := 0, prevBoot := 0 } }

/-- Number of a brown-out source (R374). -/
def boCode : BoSrc → Nat
  | .lowPowerLimit => 1
  | .normalLimit => 2
  | .vauxLow => 3

/-- BROWNOUT (R373, R374): a limit can be met only in its own mode. -/
def execBrownout (src : BoSrc) (s : State) : Host.Outcome State Fault Refusal :=
  let fits := match src with
    | .lowPowerLimit => !s.power.ldoNormal
    | .normalLimit => s.power.ldoNormal
    | .vauxLow => true
  if !fits then .next s
  else
    let s := coldReset s causeBrownout
    .next { s with boot := { s.boot with boSrc := boCode src, boCnt := min 0xFFFF (s.boot.boCnt + 1) } }

/-- LDO_READY (R372, R391 step 2). -/
def execLdoReady (s : State) : Host.Outcome State Fault Refusal :=
  if s.power.ldoReady then .next s
  else
    let s := { s with power := { s.power with ldoNormal := true, ldoReady := true } }
    if s.boot.phase = .ldo then .next { s with boot := { s.boot with phase := .supervisor } } else .next s

/-- WAKE_RECORD_COPY (R374): every 1.024 ms of powered time. -/
def execWakeRecordCopy (s : State) : Host.Outcome State Fault Refusal :=
  let s := advanceTo s ((s.now / 1024000 + 1) * 1024000)
  .next { s with boot := { s.boot with prevMs := us s / 1024 % 0x100000000 } }

/-- GLOBAL_RESET_PIN (R393). -/
def execGlobalResetPin (s : State) : Host.Outcome State Fault Refusal := .next (globalReset s)

/-- A write of GLB.RST_CTL (R399): GLOBAL wins over WARM; without the key nothing happens. -/
def putRstCtl (s : State) (v : Nat) : State :=
  if fld v 31 24 ≠ 0x5A then s
  else if bitOf v 1 then globalReset s
  else if bitOf v 0 then askWarm s
  else s

/-- GLOBAL_RESET_REQUEST (R393, R399). -/
def execGlobalResetRequest (by_ : Agent) (val : Word) (s : State) : Host.Outcome State Fault Refusal :=
  .next (access s by_ 0x180 (.globalResetRequest by_ val) fun s => putRstCtl s val.toNat)

/-- WARM_RESET_REQUEST (R395, R399). -/
def execWarmResetRequest (by_ : Agent) (val : Word) (s : State) : Host.Outcome State Fault Refusal :=
  .next (access s by_ 0x180 (.warmResetRequest by_ val) fun s => putRstCtl s val.toNat)

/-- The watchdog's period in ns (R401). -/
def wdtNs (s : State) : Nat := max 1 (fld (regN s (mgmtBase + 0x10)) 7 0) * 100000000

/-- WATCHDOG_EXPIRY (R393, R395, R401): it counts while armed, with the controller running and MGMT not in NAP. -/
def execWatchdogExpiry (s : State) : Host.Outcome State Fault Refusal :=
  if !bitOf (regN s (mgmtBase + 0x10)) 16 || !mcUp s || !domAwake s 1 then .next s
  else
    let s := advanceTo s (s.mgmt.wdtAt + wdtNs s)
    .next (if s.mgmt.bg.isSome then globalReset s else warmReset s)

/-- KICK restarts the count; EN and TIMEOUT are stored with it (R401). -/
def putWdt (s : State) (v : Nat) : State :=
  let s := setReg s (mgmtBase + 0x10) (word (v % 0x100 + b2n (bitOf v 16) * 0x10000))
  if bitOf v 31 then { s with mgmt := { s.mgmt with wdtAt := s.now } } else s

/-- WATCHDOG_KICK (R401). -/
def execWatchdogKick (by_ : Agent) (val : Word) (s : State) : Host.Outcome State Fault Refusal :=
  .next (access s by_ (mgmtBase + 0x10) (.watchdogKick by_ val) fun s => putWdt s val.toNat)

/-- WARM_ESCALATION (R395): the controller has not restarted within 1 s. -/
def execWarmEscalation (s : State) : Host.Outcome State Fault Refusal :=
  match s.boot.warmSince with
  | none => .next s
  | some t => .next (globalReset (advanceTo s (t + 1000000000)))

/-! ## References (R376) -/

/-- Bit of a reference in `refLost`. -/
def refBit : RefClk → Nat
  | .hp n => n
  | .pp n => 4 + n
  | .core => 6

/-- REFCLK_LOSS (R376): the monitor runs while the main domains are powered. -/
def execRefclkLoss (r : RefClk) (s : State) : Host.Outcome State Fault Refusal :=
  if (mainHeld s && s.boot.phase != .held) || s.boot.refLost.getLsbD (refBit r) then .next s
  else
    let s := { s with boot := { s.boot with refLost := s.boot.refLost ||| (1#7 <<< refBit r) } }
    match r with
    | .hp n => .next (portDown s n)
    | .pp p => .next (if (plyAt s p).st = .down then s else plyDown s p .down)
    | .core => .next (mainReset s causeRefclk)

/-- REFCLK_RETURN (R376, R392): a lost port trains again; the core reference has been present for 1 ms. -/
def execRefclkReturn (r : RefClk) (s : State) : Host.Outcome State Fault Refusal :=
  if !s.boot.refLost.getLsbD (refBit r) then .next s
  else
    let s := { s with boot := { s.boot with refLost := s.boot.refLost &&& ~~~(1#7 <<< refBit r) } }
    match r with
    | .hp _ => .next s
    | .pp p =>
      if plyEnabled s p && (plyAt s p).st = .down && domAwake s (24 + p) then
        .next (modPly s p fun x => { x with st := .training, stepAt := s.now })
      else .next s
    | .core => .next (if s.boot.phase = .held then { s with boot := { s.boot with phase := .keyDraw } } else s)

/-! ## Rails (R391) -/

/-- RAILS_OK_QUALIFIED (R391 steps 4 and 5). -/
def execRailsOkQualified (s : State) : Host.Outcome State Fault Refusal :=
  let s := { s with boot := { s.boot with railsOk := true } }
  if s.boot.phase = .rails then
    .next { s with
      boot := { s.boot with phase := if s.boot.refLost.getLsbD 6 then .held else .keyDraw }
      ports := tabMap {} (fun _ x => { x with bifSts := x.strap }) s.ports
      doms := freshDoms s, carder := { s.carder with epochAt := s.now } }
  else .next s

/-- The supervisor returns the LDO to low-power mode once main power is gone and the pass FET is held off (R372). -/
def ldoLow (s : State) : State :=
  if s.hsw.st = .off || s.hsw.st = .latched then
    { s with power := { s.power with ldoNormal := false, ldoReady := false } }
  else s

/-- RAILS_OK_FALL (R372, R391): during steps 4 and 5 the main domains return to reset. -/
def execRailsOkFall (s : State) : Host.Outcome State Fault Refusal :=
  let s := { s with boot := { s.boot with railsOk := false } }
  if mainHeld s || s.boot.phase = .run then .next (ldoLow s)
  else .next (ldoLow (mainReset s s.boot.cause))

end Sys2Proof.Machine
end

