-- ==== Sys2Proof/Machine/Hsw.lean ====
section
/-! DEFINITION. The hot-swap supervisor (R382–R389, R396–R398). -/

namespace Sys2Proof.Machine

open Sys2Proof

/-! ## Settings (R383, R396, R398) -/

def hswCtl (s : State) : Nat := regN s hswBase
def hswFet (s : State) : Nat := regN s (hswBase + 4)

/-- Current-limit sense voltage in µV: ILIM outside 10–50 mV acts as the nearer limit. -/
def ilimUv (s : State) : Nat := clampN 10 50 (fld (hswCtl s) 15 8) * 1000

/-- Fault timer in µs: 1–250 units of 0.1 ms; 0 acts as 1, and more than 250 as 250. -/
def faultUs (s : State) : Nat := clampN 1 250 (fld (hswCtl s) 23 16) * 100

def retries (s : State) : Nat := fld (hswCtl s) 2 0

/-- A temperature in °C in the model's units. -/
def degC (n : Int) : Int := n * 1000000000000

/-- VIN lies in its window (R383): it enters above 10.8 V and leaves below 10.2 V or above 13.8 V. -/
def vinIn (was : Bool) (vin : Nat) : Bool :=
  decide (vin ≤ 13800) && (if was then decide (10200 ≤ vin) else decide (10800 < vin))

/-- Reference temperature of the FET model (R387): `ntc` in milli-degrees. -/
def tref (s : State) (ntc : Int) : Int :=
  if bitOf (hswCtl s) 4 && decide (-40000 ≤ ntc) && decide (ntc ≤ 150000) then ntc * 1000000000
  else degC (fld (hswCtl s) 31 24)

/-- The FET model after 1 µs (R387): power in the FET while the gate is driven, and what the package leads away. -/
def fetStep (s : State) (r : HswRead) : Int :=
  let cth := (max 1 (fld (hswFet s) 7 0) : Int)
  let rth := (max 1 (fld (hswFet s) 15 8) : Int)
  let rs := (max 1 (fld (regN s (hswBase + 0x10)) 15 0) : Int)
  let t := s.hsw.t
  let p := if s.hsw.gate then ((r.vin : Int) - r.vout) * r.vsn * 100000 / (rs * cth) else 0
  t + p - (t - tref s r.temp) / (5000 * rth * cth)

/-! ## Transitions (R384) -/

/-- Power-good is withdrawn: HS_PG goes low, and a SUPPLY reset is held (R384, R393). -/
def dropPg (s : State) : State :=
  if s.hsw.pg then supplyReset { s with hsw := { s.hsw with pg := false } } else s

/-- A trip (R384): 1 fault timer, 2 breaker, 3 FET model. -/
def trip (s : State) (cause : Nat) : State :=
  let n := s.hsw.tries + 1
  let s := bump s (hswBase + 0x14)
  dropPg { s with hsw := { s.hsw with
    st := if retries s < n then .latched else .trip, cause := cause, tries := min 8 n, gate := false, flt := true
    tripAt := s.now, timing := false, timer := 0, good := 0 } }

/-- VIN leaves its window (R384): not a trip. -/
def vinLost (s : State) : State :=
  dropPg { s with hsw := { s.hsw with st := .off, gate := false, timing := false, timer := 0, good := 0, vinOkAt := none } }

/-- The supervisor is in RAMP or ON. -/
def driving (s : State) : Bool := s.hsw.st = .ramp || s.hsw.st = .on

/-- The gate starts to rise (R384). -/
def startRamp (s : State) : State :=
  { s with hsw := { s.hsw with st := .ramp, gate := true, flt := false, timing := false, timer := 0, good := 0 } }

/-- Power-good is given: HS_PG is released (R384, R385). -/
def givePower (s : State) : State :=
  let s := { s with hsw := { s.hsw with st := .on, pg := true, pgAt := s.now, good := 0 } }
  if s.boot.phase = .supervisor then { s with boot := { s.boot with phase := .rails } } else s

/-- VIN_QUALIFIED (R384): VIN in window for 10 ms, with the LDO ready. -/
def execVinQualified (s : State) : Host.Outcome State Fault Refusal :=
  if s.hsw.st ≠ .off ∨ s.power.ldoReady = false then .next s
  else
    let s := match s.hsw.vinOkAt with
      | some t => advanceTo s (t + 10000000)
      | none => s
    .next (startRamp s)

/-- VIN_OUT_OF_WINDOW (R384). -/
def execVinOutOfWindow (s : State) : Host.Outcome State Fault Refusal :=
  if driving s then .next (vinLost s) else .next { s with hsw := { s.hsw with vinOkAt := none } }

/-- The conditions of power-good that a sample shows (R385). -/
def pgConditions (r : HswRead) (timing : Bool) : Bool :=
  decide (9 * r.vin < 10 * r.vout) && decide (r.vin + 8000 ≤ r.vgate) && !timing

/-- What a sample does in RAMP and ON, the trips first. Power-good comes with the sample 1 ms after the first good one; the
sample at which the fault timer clears is not counted (R385). `ran`: the timer was running before the sample. -/
def sampleDriving (s : State) (r : HswRead) (ran : Bool) : State :=
  if !vinIn true r.vin then vinLost s
  else if 2 * ilimUv s ≤ r.vsn then trip s 2
  else if faultUs s ≤ s.hsw.timer then trip s 1
  else if degC (fld (hswFet s) 23 16) < s.hsw.t then trip s 3
  else
    let ok := pgConditions r s.hsw.timing
    if s.hsw.st = .on then
      if ok then s else dropPg { s with hsw := { s.hsw with st := .ramp, good := 0 } }
    else if !ok || ran then { s with hsw := { s.hsw with good := 0 } }
    else if 1000 ≤ s.hsw.good then givePower s
    else { s with hsw := { s.hsw with good := s.hsw.good + 1 } }

/-- HSW_SAMPLE (R382–R387): once every 1 µs. -/
def execHswSample (r : HswRead) (s : State) : Host.Outcome State Fault Refusal :=
  let s := advanceTo s ((s.now / 1000 + 1) * 1000)
  let lim := decide (ilimUv s ≤ r.vsn)
  let inWin := vinIn s.hsw.vinOkAt.isSome r.vin
  let t := fetStep s r
  let ran := s.hsw.timing
  let s := { s with hsw := { s.hsw with
    t := t, vin := r.vin, vout := r.vout, vsn := r.vsn
    timing := lim && driving s, timer := if lim && driving s then s.hsw.timer + 1 else 0
    vinOkAt := if inWin then some (s.hsw.vinOkAt.getD s.now) else none } }
  if driving s then .next (sampleDriving s r ran) else .next s

/-- FAULT_TIMER_EXPIRY (R384, R385). -/
def execFaultTimerExpiry (s : State) : Host.Outcome State Fault Refusal :=
  if !driving s || !s.hsw.timing then .next s
  else .next (trip (advanceBy s ((faultUs s - s.hsw.timer) * 1000)) 1)

/-- CIRCUIT_BREAKER (R386): in every state in which the gate is driven. -/
def execCircuitBreaker (s : State) : Host.Outcome State Fault Refusal := if driving s then .next (trip s 2) else .next s

/-- POWER_GOOD (R384, R385): the conditions have held for what was left of 1 ms. -/
def execPowerGood (s : State) : Host.Outcome State Fault Refusal :=
  if s.hsw.st ≠ .ramp ∨ s.hsw.timing = true then .next s
  else .next (givePower (advanceBy s ((1001 - s.hsw.good) * 1000)))

/-- COOLDOWN_END (R384, R388): at least 100 ms after the trip, with T at most TCOOL. A supervisor whose RETRIES has been lowered
below TRIES since the trip stays in TRIP: LATCHED is entered with the trip alone. -/
def execCooldownEnd (s : State) : Host.Outcome State Fault Refusal :=
  if s.hsw.st ≠ .trip ∨ degC (fld (hswFet s) 31 24) < s.hsw.t then .next s
  else
    let s := advanceTo s (s.hsw.tripAt + 100000000)
    if retries s < s.hsw.tries then .next s else .next (startRamp s)

/-- TRIES_RESET (R384): HS_PG released for 10 s of powered time. -/
def execTriesReset (s : State) : Host.Outcome State Fault Refusal :=
  if s.hsw.st ≠ .on then .next s
  else .next (let s := advanceTo s (s.hsw.pgAt + 10000000000); { s with hsw := { s.hsw with tries := 0 } })

end Sys2Proof.Machine
end

