-- ==== Sys2Proof/Machine/Cci.lean ====
section
/-! DEFINITION. The CXL mailbox and the CCI over MCTP (R42–R44): event records, firmware transfer (R424, R425), timestamp, logs,
capacities, poison list, Scan Media, Sanitize and Secure Erase (R44, R181), the seat's side of Dynamic Capacity (R71, R72),
and a window's drain (R75), which Sanitize waits for. -/

namespace Sys2Proof.Machine

open Sys2Proof

/-! ## Who may command (R42) -/

/-- A mailbox is reached through its function, once the boot ROM has a bank to start (R20, R430). -/
def mailboxLive (s : State) (f : Fn) : Bool := hostPortsOut s && fnLive s f && s.boot.phase != .noFirmware

/-- The sender has admin rights (R42). -/
def cciAdmin (s : State) : Cci → Bool
  | .mailbox f => isAdminFn s f
  | .mctp => true

/-- The seat of a mailbox's function; the CCI has none. -/
def cciSeat (s : State) : Cci → Option Nat
  | .mailbox f => fnSeat s f
  | .mctp => none

/-- An admin command from another mailbox (R42): Unsupported, and a NOTE event. -/
def notAdmin (s : State) (c : Cci) (op : Nat) : State :=
  logUncoded (cciAnswer s c op .unsupported []) (srcOf mgmtBase) 42 sevNote (le 2 op)
    ((cciSeat s c).toList) []

/-- Takes a command (R42, R395): a mailbox answers Busy while the controller does not run, and MCTP does not answer then.
Where MGMT sleeps the command wakes it and waits (R421); `row` is the command. -/
def cciRun (s : State) (c : Cci) (row : Instr) (op : Nat) (admin : Bool) (f : State → State) : State :=
  let live := match c with
    | .mailbox g => mailboxLive s g
    | .mctp => mcUp s
  let go := fun (s : State) =>
    if !mcUp s then cciAnswer s c op .busy []
    else if (domAt s 1).st = .off then s
    else if domShut s 1 then holdFor s 1 row
    else if admin && !cciAdmin s c then notAdmin (unIdle s 1) c op
    else f (unIdle s 1)
  if !live then s
  else match c with
    | .mailbox g => fnGate s g row go
    | .mctp => go s

/-- Answers at once. -/
def cciSimple (s : State) (c : Cci) (row : Instr) (op : Nat) (body : State → Contents) : State :=
  cciRun s c row op false fun s => cciAnswer s c op .success (body s)

/-- Opcodes of R42 that only admin mailboxes and the CCI may send. -/
def adminOps : List Nat := [0x0201, 0x0202, 0x4301, 0x4302, 0x4400, 0x4401]

/-- Every opcode of R42, and those of R437. -/
def allOps : List Nat :=
  [0x0100, 0x0101, 0x0102, 0x0103, 0x0200, 0x0300, 0x0301, 0x0400, 0x0401, 0x4000, 0x4300, 0x4303, 0x4304, 0x4305,
   0x4800, 0x4801, 0x4802, 0x4803] ++ adminOps ++ [0xC510, 0xC511, 0xC512]

/-- MAILBOX_UNSUPPORTED_OPCODE (R42). -/
def execMailboxUnsupportedOpcode (c : Cci) (opcode : Nat) (s : State) : Host.Outcome State Fault Refusal :=
  if allOps.contains opcode || (opcode == 0xC500 && c == .mctp) then .next s
  else .next (cciRun s c (.mailboxUnsupportedOpcode c opcode) opcode false fun s => cciAnswer s c opcode .unsupported [])

/-! ## Event records (R42, R43, R414) -/

/-- Where the records cleared from a view are kept: one list for a seat, whichever of its functions clears. -/
def viewKey (s : State) (c : Cci) : Nat :=
  match cciSeat s c with
  | some seat => match (seatFns s seat).head? with
    | some f => fnKey f
    | none => cciKey c
  | none => cciKey c

/-- The record is one of the sender's (R42, R414): of its seat's view; before an image there is no seat, and only ERR and
FATAL records are in view; the board sees every record. -/
def cciSees (s : State) (c : Cci) (e : Event) : Bool :=
  match c with
  | .mctp => true
  | .mailbox f => match fnSeat s f with
    | some seat => inView s seat e
    | none => decide (sevErr ≤ e.sev)

/-- Records in view and not cleared from it, with their running numbers. -/
def viewRecs (s : State) (c : Cci) : List (Nat × Event) :=
  s.log.ring.filter fun r => cciSees s c r.2 && !(fnAt s (viewKey s c)).cleared.contains r.1

/-- A CXL event record: its handle, timestamp in ns of powered time (R43), and the fields of R411. -/
def recContents (r : Nat × Event) : Contents :=
  [r.1, r.2.us * 1000, r.2.boot, r.2.source, r.2.code, r.2.sev] ++ r.2.payload.map (·.toNat)

/-- GET_EVENT_RECORDS (R42, R43). The board has read what raised SMB_ALERT_N (R473). -/
def execGetEventRecords (c : Cci) (s : State) : Host.Outcome State Fault Refusal :=
  .next (cciRun s c (.getEventRecords c) 0x0100 false fun s =>
    let s := if c = .mctp then { s with log := { s.log with alert := false } } else s
    cciAnswer s c 0x0100 .success ((viewRecs s c).flatMap recContents))

/-- CLEAR_EVENT_RECORDS (R42). -/
def execClearEventRecords (c : Cci) (handles : List Nat) (s : State) : Host.Outcome State Fault Refusal :=
  .next (cciRun s c (.clearEventRecords c handles) 0x0101 false fun s =>
    if handles.all fun h => (viewRecs s c).any fun r => r.1 == h then
      cciAnswer (modFn s (viewKey s c) fun x => { x with cleared := x.cleared ++ handles }) c 0x0101 .success []
    else cciAnswer s c 0x0101 .invalidInput [])

/-- GET_EVENT_INTERRUPT_POLICY (R42). -/
def execGetEventInterruptPolicy (c : Cci) (s : State) : Host.Outcome State Fault Refusal :=
  .next (cciSimple s c (.getEventInterruptPolicy c) 0x0102 fun s => [(fnAt s (cciKey c)).evtPolicy])

/-- SET_EVENT_INTERRUPT_POLICY (R42). -/
def execSetEventInterruptPolicy (c : Cci) (policy : Nat) (s : State) : Host.Outcome State Fault Refusal :=
  .next (cciRun s c (.setEventInterruptPolicy c policy) 0x0103 false fun s =>
    cciAnswer (modFn s (cciKey c) fun x => { x with evtPolicy := policy }) c 0x0103 .success [])

/-! ## Firmware (R42, R424, R425) -/

/-- VERSION of a firmware container (R429). -/
def fwVersion (s : State) (k : Nat) : Nat := numAt (bankAt s k).fw 0x10 4

/-- GET_FW_INFO (R42): two slots, the one running, the one armed to boot next (2 for none), and their versions. -/
def execGetFwInfo (c : Cci) (s : State) : Host.Outcome State Fault Refusal :=
  .next (cciSimple s c (.getFwInfo c) 0x0200 fun s =>
    let next := match [0, 1].find? fun k => (bankAt s k).armed with
      | some k => k
      | none => 2
    [2, s.sec.bank, next, fwVersion s 0, fwVersion s 1])

/-- A transfer may not start: another of the commands of R44 runs, or a life-cycle transition (R425, R437). -/
def xferBusy (s : State) : Bool := bgRuns s || lcRuns s

/-- Starts a transfer into the bank that is not running: its region is erased (R424 step 1). -/
def startXfer (s : State) (by_ : Option Cci) (data : List Byte) : State :=
  let s := modBank s (1 - s.sec.bank) fun b => { b with fw := [], pending := false, armed := false, tried := false }
  { s with mgmt := { s.mgmt with xfer := some { by_ := by_, isImg := false, data := data, pages := 0 } } }

/-- TRANSFER_FW (R42, R44, R424). -/
def execTransferFw (c : Cci) (container : List Byte) (s : State) : Host.Outcome State Fault Refusal :=
  .next (cciRun s c (.transferFw c container) 0x0201 true fun s =>
    if xferBusy s || (fnAt s (cciKey c)).bg != 0 then cciAnswer s c 0x0201 .busy []
    else bgStart (startXfer s (some c) container) c 0x0201)

/-- Pages of a transfer. -/
def xferPages (x : Xfer) : Nat := (x.data.length + 255) / 256

/-- FLASH_PAGE_PROGRAM (R403): log records go first. -/
def execFlashPageProgram (s : State) : Host.Outcome State Fault Refusal :=
  match s.mgmt.xfer with
  | none => .next s
  | some x =>
    if s.log.queue ≠ [] ∨ xferPages x ≤ x.pages ∨ mcUp s = false then .next s
    else
      let n := x.pages + 1
      let s := { s with mgmt := { s.mgmt with xfer := some { x with pages := n } } }
      .next (modBank s (1 - s.sec.bank) fun b => { b with fw := x.data.take (256 * n) })

/-! ## Firmware containers (R429, R430) -/

/-- LENGTH and SVN of a container. -/
def fwLength (b : List Byte) : Nat := numAt b 8 4
def fwSvnOf (b : List Byte) : Nat := numAt b 0x0C 1

/-- The container of a region: LENGTH bytes of it. -/
def fwContainer (b : List Byte) : List Byte := b.take (fwLength b)

/-- Header fields as R429 constrains them, and the signature block as R309 lays it out. -/
def fwFormatOk (b : List Byte) : Bool :=
  decide (64 + sigBytes ≤ fwLength b) && decide (fwLength b ≤ b.length) && decide (fwLength b ≤ 0x800000) &&
  decide (fwLength b % 16 = 0) && bytesAt b 0 4 == [0x50, 0x58, 0x46, 0x57] && numAt b 4 2 == 1 &&
  decide (numAt b 6 2 < 2) && decide (fwSvnOf b ≤ 64) && zerosAt b 0x0E 2 && zerosAt b 0x14 44 &&
  sigBlockOk (fwContainer b)

/-- The check of a container (R430): 0 where it passes, else the first failing result code. -/
def fwCheck (s : State) (region : List Byte) : Nat :=
  let b := fwContainer region
  if !fwFormatOk region then 1
  else if digest (ownerKey b) != Config.vendorKeyDigest then 2
  else if !signatureOk b then 3
  else if fwSvnOf b < s.sec.vsvn then 4
  else if s.boot.stepMajor < numAt b 0x0D 1 then 5
  else 0

/-- TRANSFER_FW_COMPLETE (R424 steps 2 and 3, R431). -/
def execTransferFwComplete (s : State) : Host.Outcome State Fault Refusal :=
  match s.mgmt.xfer with
  | none => .next s
  | some x =>
    if x.pages < xferPages x ∨ mcUp s = false then .next s
    else
      let k := 1 - s.sec.bank
      let r := fwCheck s (bankAt s k).fw
      let s := { s with mgmt := { s.mgmt with xfer := none } }
      let s := modBank s k fun b => if r = 0 then { b with pending := true } else { b with fw := [] }
      let s := match x.by_ with
        | some c => bgFinish s c 0x0201 (if r = 0 then .success else .failed)
        | none => emit s (.mctp 0x424 [r])
      .next (bgEnded (fwEvent s k r))

/-- Arms the pending bank (R424 step 3); the answer is whether there was one. -/
def armPending (s : State) : State × Bool :=
  let k := 1 - s.sec.bank
  if (bankAt s k).pending then (fwEvent (modBank s k fun b => { b with armed := true }) k 0, true) else (s, false)

/-- ACTIVATE_FW (R42, R424). -/
def execActivateFw (c : Cci) (s : State) : Host.Outcome State Fault Refusal :=
  .next (cciRun s c (.activateFw c) 0x0202 true fun s =>
    let (s, ok) := armPending s
    cciAnswer s c 0x0202 (if ok then .success else .invalidInput) [])

/-! ## Timestamp (R10, R42, R43, R415) -/

/-- GET_TIMESTAMP (R42). -/
def execGetTimestamp (c : Cci) (s : State) : Host.Outcome State Fault Refusal :=
  .next (cciSimple s c (.getTimestamp c) 0x0300 fun s => [s.mgmt.timestamp])

/-- SET_TIMESTAMP (R415): the annotation, with the seat that made it. -/
def execSetTimestamp (c : Cci) (value : Nat) (s : State) : Host.Outcome State Fault Refusal :=
  .next (cciRun s c (.setTimestamp c value) 0x0301 false fun s =>
    let v := value % 2 ^ 64
    let seat := cciSeat s c
    let s := { s with mgmt := { s.mgmt with timestamp := v } }
    let s := logEvFor s 0xFF00 0xC001 sevInfo (le 8 v ++ le 2 (seat.getD 0)) seat.toList []
    cciAnswer s c 0x0301 .success [])

/-! ## Logs (R42, R438) -/

/-- GET_SUPPORTED_LOGS (R42): 0 the CEL, 1 the vendor log of the seat's events. -/
def execGetSupportedLogs (c : Cci) (s : State) : Host.Outcome State Fault Refusal :=
  .next (cciSimple s c (.getSupportedLogs c) 0x0400 fun _ => [0, 1])

def lcCode : Lc → Nat
  | .blank => 0
  | .prov => 1
  | .field => 2
  | .rma => 3
  | .scrap => 4

/-- A seal block as Get Log returns it (R438). -/
def sealContents (x : Seal) : Contents :=
  Config.identityRecord.map (·.toNat) ++ [lcCode x.old, lcCode x.new, x.boot, x.us] ++ x.digest.map (·.toNat)

/-- GET_LOG (R42, R438): the seal blocks come from an admin mailbox only. -/
def execGetLog (c : Cci) (log : LogId) (s : State) : Host.Outcome State Fault Refusal :=
  .next (cciRun s c (.getLog c log) 0x0401 false fun s =>
    match log with
    | .cel => cciAnswer s c 0x0401 .success (if cciAdmin s c then allOps else allOps.filter fun o =>
        !adminOps.contains o && decide (o < 0xC000))
    | .vendor => cciAnswer s c 0x0401 .success ((s.log.ring.filter fun r => cciSees s c r.2).flatMap recContents)
    | .seal =>
      if cciAdmin s c then cciAnswer s c 0x0401 .success (s.sec.seals.flatMap sealContents)
      else cciAnswer s c 0x0401 .invalidInput [])

/-! ## Windows as a mailbox sees them (R42) -/

/-- The windows that a command speaks of: those the seat reaches; over the CCI, all. -/
def cciWins (s : State) (c : Cci) : List (Nat × Win) :=
  match c with
  | .mctp => s.wins.filter fun e => e.2.size != 0
  | .mailbox f => match fnSeat s f with
    | some seat => s.wins.filter fun e => reaches s seat e.1
    | none => []

/-- IDENTIFY_MEMORY_DEVICE (R42): each window with its capacity in bytes; of a DC window, what is online. -/
def execIdentifyMemoryDevice (c : Cci) (s : State) : Host.Outcome State Fault Refusal :=
  .next (cciSimple s c (.identifyMemoryDevice c) 0x4000 fun s => (cciWins s c).flatMap fun e =>
    [e.1, if e.2.dc then 0x10000000 * (s.blocks.filter fun b => b.2.win == e.1 && b.2.st == 2).length else winBytes e.2])

/-! ## Poison (R42, R265) -/

/-- An entry lies in a window. -/
def pentIn (p : Pent) (x : Win) : Bool :=
  decide (x.dlaHank * 0x200000 ≤ p.dla) && decide (p.dla < x.dlaHank * 0x200000 + winBytes x)

/-- GET_POISON_LIST (R265): whether the list is incomplete and since when, then the entries. -/
def execGetPoisonList (c : Cci) (s : State) : Host.Outcome State Fault Refusal :=
  .next (cciSimple s c (.getPoisonList c) 0x4300 fun s =>
    [b2n s.plist.overflow, s.plist.firstUs.getD 0] ++
    (s.plist.ents.filter fun p => (cciWins s c).any fun e => pentIn p e.2).flatMap fun p => [p.dla, p.len, p.src, p.us])

/-- The window of a line, where its storage can be reached: its key slot is bound. -/
def lineWin (s : State) (dla : Nat) : Option Nat :=
  (winOfDla s dla).filter fun w => (slotOf s w).st != .free && rangeOnline s w dla 1

/-- INJECT_POISON (R42, R265). -/
def execInjectPoison (c : Cci) (dla : Nat) (s : State) : Host.Outcome State Fault Refusal :=
  .next (cciRun s c (.injectPoison c dla) 0x4301 true fun s =>
    match lineWin s dla with
    | some w => cciAnswer (resume (poisonDla s w (dla / 64 * 64) srcInjected)) c 0x4301 .success []
    | none => cciAnswer s c 0x4301 .invalidInput [])

/-- The agent number under which Clear Poison writes (R116). -/
def clearAgent : Nat := agentKey 2

/-- CLEAR_POISON (R42, R265): the line is written with zeros as an agent without caches writes; until its holders have
answered and its page can take the write, the command is issued again. -/
def execClearPoison (c : Cci) (dla : Nat) (s : State) : Host.Outcome State Fault Refusal :=
  .next (cciRun s c (.clearPoison c dla) 0x4302 true fun s =>
    let line := dla / 64 * 64
    match lineWin s dla with
    | none => cciAnswer s c 0x4302 .invalidInput []
    | some w =>
      let (s, ready) := agentPrepare (agentOpen s clearAgent) clearAgent w line 64 15
      if !ready then s
      else
        let (s, n) := agentPut s clearAgent w line 15 1024 zeroLine fun _ => false
        let s := agentClose s clearAgent
        if n < 64 then resume (cciAnswer s c 0x4302 .resourcesExhausted [])
        else resume (cciAnswer (plDropRange s line 64) c 0x4302 .success []))

/-! ## Scan Media (R42, R262, R264) -/

/-- SCAN_MEDIA_CAPABILITIES (R42): the DLA ranges a pass may name. -/
def execScanMediaCapabilities (c : Cci) (s : State) : Host.Outcome State Fault Refusal :=
  .next (cciSimple s c (.scanMediaCapabilities c) 0x4303 fun s =>
    (cciWins s c).flatMap fun e => [e.2.dlaHank * 0x200000, winBytes e.2])

/-- Who a pass is run for. -/
def scanBy : Cci → ScrubBy
  | .mailbox f => .mailbox f
  | .mctp => .island

/-- SCAN_MEDIA_START (R42, R44, R262). -/
def execScanMediaStart (c : Cci) (dla len : Nat) (whole : Bool) (s : State) : Host.Outcome State Fault Refusal :=
  .next (cciRun s c (.scanMediaStart c dla len whole) 0x4304 false fun s =>
    if (fnAt s (cciKey c)).bg ≠ 0 then cciAnswer s c 0x4304 .busy []
    else if whole && c == .mctp then
      let lines := ((s.wins.map (·.1)).flatMap fun w => scrubLines s w 0 (2 ^ 64)).eraseDups
      bgStart (startPass s (scanBy c) lines true) c 0x4304
    else match (cciWins s c).find? fun e =>
        decide (e.2.dlaHank * 0x200000 ≤ dla) && decide (dla + len ≤ e.2.dlaHank * 0x200000 + winBytes e.2) with
      | some e =>
        if whole || len == 0 then cciAnswer s c 0x4304 .invalidInput []
        else bgStart (startPass s (scanBy c) (scrubLines s e.1 dla (dla + len)) false) c 0x4304
      | none => cciAnswer s c 0x4304 .invalidInput [])

/-- SCAN_MEDIA_RESULTS (R264): media errors, by DLA. -/
def execScanMediaResults (c : Cci) (s : State) : Host.Outcome State Fault Refusal :=
  .next (cciSimple s c (.scanMediaResults c) 0x4305 fun s =>
    let k := match c with
      | .mailbox f => fnKey f
      | .mctp => islandMedia
    (tabGet [] s.mgmt.media k).flatMap fun r => [r.1, r.2])

/-! ## Everything offline (R44, R75, R181, R438) -/

/-- Every window is taken offline (R44 step 1). -/
def allOffline (s : State) : State :=
  (s.wins.map (·.1)).foldl (fun t w => stopWalk (disableWindow t w .sanitize) (winAt t w).keySlot) s

/-- The skein tables written under the old metadata key are never read again (R173); the key slots and the metadata key are
zeroed, and a new one is drawn as soon as the TRNG can supply it (R176, R181). The poison list keeps its entries here. -/
def destroyKeys (s : State) : State :=
  let pl := s.plist
  let s := (s.wins.map (·.1)).foldl (fun t w => modWin (dropWindow t w) w fun x => { x with ms := .off }) s
  resumeImage (drawMeta (zeroKeys { s with plist := pl }))

/-- A debug unlock has run its two steps (R439). -/
def unlocked (s : State) (r : LcRun) : State :=
  let s := { s with sec := { s.sec with debug := true, run := none } }
  bgFinish (logUncoded s (srcOf secBase) 439 sevErr [] [] []) r.by_ 0xC512 .success

/-- Once no window is ONLINE or DISABLING any more: step 2 of Sanitize, of Secure Erase, or of a transition or unlock (R44, R181, R438,
R439). -/
def offlineDone (s : State) : State :=
  if s.wins.any fun e => e.2.state = .online || e.2.state = .disabling then s
  else
    let s := match s.mgmt.bg with
      | some (.sanitize c) => destroyKeys { s with mgmt := { s.mgmt with bg := some (.overwrite c) } }
      | some (.erase c) =>
        let s := destroyKeys { s with mgmt := { s.mgmt with bg := none } }
        bgEnded (cciAnswer { s with img := { s.img with erased := true } } c 0x4401 .success [])
      | _ => s
    match s.sec.run with
    | some r =>
      if r.step ≠ 1 then s
      else
        let s := destroyKeys s
        if r.debug then unlocked s r
        else { s with sec := { s.sec with run := some { r with step := if r.overwrite then 3 else 4, at_ := s.now } } }
    | none => s

/-- WINDOW_DRAIN_COMPLETE (R75; R348 for a role change). A window that a re-weave removes keeps its entry until step 5 of
R320 zeroes it. -/
def execWindowDrainComplete (win : Fin 4096) (s : State) : Host.Outcome State Fault Refusal :=
  let w := win.val
  let x := winAt s w
  if !winDrained s w then .next s
  else if x.state = .disabling then
    match x.cause with
    | some .reweave => .next s
    | some .sanitize =>
      .next (offlineDone (modWin s w fun x => { x with state := .offline, cause := none, pendEn := none }))
    | _ =>
      let s := modWin s w fun x => { x with state := .disabled, cause := none, pendEn := none }
      let s := winEvent s w 0
      .next (if x.pendEn = some true then enableWindow s w else s)
  else if x.sendHand && fwdsDone s w then .next (sendHandover s w)
  else .next s

/-- A Sanitize or Secure Erase may not start (R44, R323, R437). -/
def eraseBusy (s : State) : Bool := bgRuns s || lcRuns s || s.img.rw.isSome

/-- SANITIZE (R44). -/
def execSanitize (c : Cci) (s : State) : Host.Outcome State Fault Refusal :=
  .next (cciRun s c (.sanitize c) 0x4400 true fun s =>
    if eraseBusy s || (fnAt s (cciKey c)).bg != 0 then cciAnswer s c 0x4400 .busy []
    else
      let s := bgStart { s with mgmt := { s.mgmt with bg := some (.sanitize c) } } c 0x4400
      resume (offlineDone (allOffline s)))

/-- All installed DRAM has been overwritten (R44 step 3): nothing of it is readable, and nothing is listed as poison
(R265). -/
def overwriteDram (s : State) : State :=
  { s with dram := [], lcache := [], lost := [], plist := {}, chans := tabMap {} (fun _ x => { x with merge := [] }) s.chans }

/-- SANITIZE_COMPLETE (R44). -/
def execSanitizeComplete (s : State) : Host.Outcome State Fault Refusal :=
  match s.mgmt.bg with
  | some (.overwrite c) =>
    let s := overwriteDram { s with mgmt := { s.mgmt with bg := none }, img := { s.img with sanitized := true } }
    .next (bgEnded (bgFinish s c 0x4400 .success))
  | _ => .next s

/-- SECURE_ERASE (R42, R44, R181): answered when the keys are zeroed. -/
def execSecureErase (c : Cci) (s : State) : Host.Outcome State Fault Refusal :=
  .next (cciRun s c (.secureErase c) 0x4401 true fun s =>
    if eraseBusy s then cciAnswer s c 0x4401 .busy []
    else resume (offlineDone (allOffline { s with mgmt := { s.mgmt with bg := some (.erase c) } })))

/-! ## Dynamic Capacity, the seat's side (R71, R72) -/

/-- GET_DC_CONFIG (R42, R70): the DC windows: number, first DLA block, and blocks. -/
def execGetDcConfig (c : Cci) (s : State) : Host.Outcome State Fault Refusal :=
  .next (cciSimple s c (.getDcConfig c) 0x4800 fun s =>
    ((cciWins s c).filter fun e => e.2.dc).flatMap fun e => [e.1, e.2.dlaHank / 128, e.2.size / 128])

/-- Blocks the sender may speak for: those added for its seat. -/
def cciBlock (s : State) (c : Cci) (b : Block) : Bool :=
  match c with
  | .mctp => true
  | .mailbox _ => cciSeat s c == some b.seat

/-- GET_DC_EXTENT_LIST (R42, R70): online blocks with their window and extent. -/
def execGetDcExtentList (c : Cci) (s : State) : Host.Outcome State Fault Refusal :=
  .next (cciSimple s c (.getDcExtentList c) 0x4801 fun s =>
    (s.blocks.filter fun e => e.2.st == 2 && cciBlock s c e.2).flatMap fun e => [e.2.win, e.1, e.2.ext])

/-- ADD_DC_RESPONSE (R71 step 4, R73, R343): what it omits of the seat's pending blocks of the window is freed. In a mirrored
window the answer waits for the partner's acknowledgement. -/
def execAddDcResponse (c : Cci) (win : Fin 4096) (accepted : List Extent) (s : State) : Host.Outcome State Fault Refusal :=
  let w := win.val
  .next (cciRun s c (.addDcResponse c win accepted) 0x4802 false fun s =>
    let pend := (s.blocks.filter fun e => e.2.win == w && e.2.st == 1 && cciBlock s c e.2).map (·.1)
    match extBlocks s w accepted with
    | none => cciAnswer s c 0x4802 .invalidInput []
    | some bs =>
      if !dcUsable s w || pend = [] || !bs.all pend.contains then cciAnswer s c 0x4802 .invalidInput []
      else
        let omitted := pend.filter fun b => !bs.contains b
        let s := if omitted = [] then s else freeBlocks s omitted
        let (s, waits) := blocksOnline (setBlocks s bs fun b => { b with answer := some c }) w bs
        if waits then resume s
        else resume (cciAnswer (setBlocks s bs fun b => { b with answer := none }) c 0x4802 .success []))

/-- RELEASE_DC (R72, R73): answered when the release has completed. -/
def execReleaseDc (c : Cci) (win : Fin 4096) (exts : List Extent) (s : State) : Host.Outcome State Fault Refusal :=
  let w := win.val
  .next (cciRun s c (.releaseDc c win exts) 0x4803 false fun s =>
    match extBlocks s w exts with
    | none => cciAnswer s c 0x4803 .invalidInput []
    | some bs =>
      if !dcUsable s w || bs = [] || !bs.all fun b => (blockAt s b).st == 2 && cciBlock s c (blockAt s b) then
        cciAnswer s c 0x4803 .invalidInput []
      else resume (startRelease s w bs (some c)))

end Sys2Proof.Machine
end

