-- ==== Sys2Proof/Machine/Mgmt.lean ====
section
/-! DEFINITION. The management island (R400–R425) apart from mailbox, message boxes and watchdog: sensors and thermal trip
(R404–R406), calibration (R407–R410), the persistent log (R414), the board link, MCTP and PLDM (R422–R424). -/

namespace Sys2Proof.Machine

open Sys2Proof

/-! ## Sensors (R404, R405) -/

/-- Main power is present: the sensor sequencer runs. -/
def mainPower (s : State) : Bool := s.hsw.pg && s.boot.phase != .aonOff && s.boot.phase != .ldo

/-- Voltage of an operating point in mV (R369). -/
def opMv (op : Nat) : Nat := if op = 0 then 850 else if op = 1 then 770 else if op = 2 then 700 else 650

/-- Alarm limits of rail `m` in units of 5 µV (R404): low and high. -/
def railLimits (s : State) (m : Nat) : Nat × Nat :=
  let pct := fun (mv : Nat) => (mv * 2 * 95, mv * 2 * 105)
  let (lo, hi) := match m with
    | 0 => pct (opMv s.power.op)
    | 1 => pct 800
    | 2 => pct 1100
    | 3 => pct 750
    | 4 => pct 1200
    | 5 => pct 1800
    | 6 => (600000, 720000)
    | _ => (247500, 252500)
  (lo, hi)

/-- A reading in mV lies below, or above, its limits. -/
def railLow (s : State) (m mv : Nat) : Bool := decide (mv * 200 < (railLimits s m).1)
def railHigh (s : State) (m mv : Nat) : Bool := decide ((railLimits s m).2 < mv * 200)

/-- Samples of VDD core before the regulator has confirmed its voltage are not checked (R404). -/
def railChecked (s : State) (m : Nat) : Bool := !(m == 0 && s.power.dvfs.isSome && !s.power.voltOk)

/-- THERM_THR in force, in °C (R406): CRIT, then WARN. -/
def critC (s : State) : Nat := min 114 (fld (regN s (mgmtBase + 0x20)) 15 8)
def warnC (s : State) : Nat := min (critC s) (fld (regN s (mgmtBase + 0x20)) 7 0)

/-- A temperature in 0.125 °C units lies above a threshold in °C; 2 °C below it. -/
def aboveC (t : Int) (c : Nat) : Bool := decide (8 * (c : Int) < t)
def backC (t : Int) (c : Nat) : Bool := decide (t ≤ 8 * ((c : Int) - 2))

/-- A threshold record (R413): the sensor, TSn as n and VMONm as 0x80 + m in the free numbering of log entry 16, and the
reading. -/
def sensorEvent (s : State) (sev n : Nat) (reading : Int) : State :=
  logEv s (srcOf mgmtBase) 0x8003 sev (kindByte 405 n ++ le 2 (BitVec.ofInt 16 reading).toNat)

/-- One temperature against one threshold (R405): the sensors above it, after. -/
def checkTemp (s : State) (n : Nat) (t : Int) (c sev : Nat) (over_ : List Nat) : State × List Nat :=
  if over_.contains n then
    if backC t c then (sensorEvent s sevNote n t, over_.filter (· != n)) else (s, over_)
  else if aboveC t c then (sensorEvent s sev n t, over_ ++ [n])
  else (s, over_)

/-- WARN and CRIT of one sensor. -/
def checkSensor (t : List Int) (s : State) (n : Nat) : State :=
  let x := t.getD n 0
  let (s, w) := checkTemp s n x (warnC s) sevWarn s.mgmt.warned
  let (s, c) := checkTemp s n x (critC s) sevErr s.mgmt.crit
  { s with mgmt := { s.mgmt with warned := w, crit := c } }

/-- The thermal trip (R405): a sensor at 115 °C or more on two consecutive scans. -/
def checkTrip (s : State) (t : List Int) : State :=
  let hot := (List.range 24).filter fun n => decide (920 ≤ t.getD n 0)
  let trip := hot.find? fun n => s.mgmt.hot115.contains n
  let s := { s with mgmt := { s.mgmt with hot115 := hot } }
  match trip with
  | none => s
  | some n =>
    if s.boot.thermtrip then s
    else sensorEvent { s with boot := { s.boot with thermtrip := true } } sevFatal n (t.getD n 0)

/-- One rail (R405): outside its limits on two consecutive scans, or back inside. -/
def checkRail (v : List Nat) (s : State) (m : Nat) : State :=
  let x := v.getD m 0
  if !railChecked s m then s
  else if railLow s m x || railHigh s m x then
    if s.mgmt.railErr.contains m then s
    else if s.mgmt.railBad.contains m then
      sensorEvent { s with mgmt := { s.mgmt with railErr := s.mgmt.railErr ++ [m] } } sevErr (0x80 + m) (x : Int)
    else { s with mgmt := { s.mgmt with railBad := s.mgmt.railBad ++ [m] } }
  else
    let was := s.mgmt.railErr.contains m
    let s := { s with mgmt := { s.mgmt with
      railBad := s.mgmt.railBad.filter (· != m), railErr := s.mgmt.railErr.filter (· != m) } }
    if was then sensorEvent s sevNote (0x80 + m) (x : Int) else s

/-- SENSOR_SCAN (R404, R405): every 1 ms. While a calibration runs the registers hold their readings (R408), and only the
trip is evaluated (R409). -/
def execSensorScan (r : Scan) (s : State) : Host.Outcome State Fault Refusal :=
  if !mainPower s then .next s
  else
    let s := if s.mgmt.scanOk then advanceTo s (s.mgmt.scanAt + 1000000) else s
    let t := (List.range 24).map fun n => r.temps.getD n 0
    let v := (List.range 8).map fun n => r.rails.getD n 0
    let s := checkTrip { s with mgmt := { s.mgmt with scanAt := s.now } } t
    if s.mgmt.calBusy then .next s
    else
      let s := { s with mgmt := { s.mgmt with temps := t, rails := v, scanOk := true } }
      let s := (List.range 24).foldl (checkSensor t) s
      .next ((List.range 8).foldl (checkRail v) s)

/-! ## Calibration (R407–R410) -/

/-- A calibration starts, unless one is running (R407). -/
def startCal (s : State) : State :=
  if s.mgmt.calBusy then s else { s with mgmt := { s.mgmt with calBusy := true, calAt := s.now } }

/-- A write of CAL_CTL (R410). -/
def putCal (s : State) (v : Nat) : State :=
  let s := setReg s (mgmtBase + 0x30) (word (fld v 15 0))
  if bitOf v 31 then startCal s else s

/-- CALIBRATION_START (R407, R410). -/
def execCalibrationStart (by_ : Agent) (val : Word) (s : State) : Host.Outcome State Fault Refusal :=
  .next (access s by_ (mgmtBase + 0x30) (.calibrationStart by_ val) fun s => putCal s val.toNat)

/-- CALIBRATION_PERIOD_TIMER (R407): at the next whole multiple of PERIOD_S of powered time. -/
def execCalibrationPeriodTimer (s : State) : Host.Outcome State Fault Refusal :=
  let p := fld (regN s (mgmtBase + 0x30)) 15 0 * 1000000000
  if p = 0 ∨ mcUp s = false then .next s
  else .next (startCal (advanceTo s ((s.now / p + 1) * p)))

/-- CAL_REF is missing or out of tolerance: step 2 is rejected (R409). -/
def calRefBad (s : State) : Bool :=
  s.mgmt.scanOk && (railLow s 7 (s.mgmt.rails.getD 7 0) || railHigh s 7 (s.mgmt.rails.getD 7 0))

/-- The code of each step (R408, R410): 0 accepted, 1 rejected, 2 NOT_RUN. -/
def calCodes (s : State) (steps : List Bool) : List Nat :=
  let ok := fun (i : Nat) => steps.getD i false
  let a := b2n !ok 0
  let b := b2n (!ok 1 || calRefBad s)
  [a, b] ++ (if a = 0 ∧ b = 0 then [b2n !ok 2, b2n !ok 3] else [2, 2])

/-- CALIBRATION_COMPLETE (R408). `steps` says of each step whether its result kept its limits. -/
def execCalibrationComplete (steps : List Bool) (s : State) : Host.Outcome State Fault Refusal :=
  if !s.mgmt.calBusy then .next s
  else
    let codes := calCodes s steps
    let sts := (List.range 4).foldl (fun a i => a + codes.getD i 0 * 4 ^ i) 0
    let new := (List.range 4).filter fun i => codes.getD i 1 == 0 && !s.mgmt.trims.contains i
    let s := { s with mgmt := { s.mgmt with calBusy := false, calSteps := sts, trims := s.mgmt.trims ++ new } }
    let s := if sts = 0 then
        { s with mgmt := { s.mgmt with calCount := min 0xFFFFFFFF (s.mgmt.calCount + 1), calLast := us s } }
      else s
    .next (logEv s (srcOf mgmtBase) 0x8004 (if sts = 0 then sevInfo else sevWarn) (le 1 sts ++ le 4 s.mgmt.calCount))

/-! ## The persistent log (R402, R403, R414) -/

/-- PERSISTENT_LOG_WRITE (R414). -/
def execPersistentLogWrite (s : State) : Host.Outcome State Fault Refusal :=
  if !mcUp s then .next s
  else match s.log.queue with
    | [] => .next s
    | e :: rest => .next { s with log := flashPut { s.log with queue := rest } e }

/-! ## The board link, MCTP and PLDM (R422–R424) -/

/-- MCTP control commands, as DSP0236 numbers them (PRESUMED, log entry 22). -/
def mctpSetEid : Nat := 1
def mctpGetEid : Nat := 2
def mctpVersion : Nat := 4
def mctpTypes : Nat := 5

/-- An MCTP command: answered while the controller runs; where MGMT sleeps it wakes it and waits. -/
def mctpRun (s : State) (row : Instr) (f : State → State) : State :=
  if !mcUp s || (domAt s 1).st = .off then s
  else if domShut s 1 then holdFor s 1 row
  else f (unIdle s 1)

/-- I3C_ADDRESS_ASSIGN (R422). -/
def execI3cAddressAssign (s : State) : Host.Outcome State Fault Refusal :=
  .next (if hostPortsOut s then { s with mgmt := { s.mgmt with i3c := true } } else s)

/-- SET_ENDPOINT_ID (R422). -/
def execSetEndpointId (eid : Byte) (s : State) : Host.Outcome State Fault Refusal :=
  .next (mctpRun s (.setEndpointId eid) fun s =>
    emit { s with mgmt := { s.mgmt with eid := some eid.toNat } } (.mctp mctpSetEid [eid.toNat]))

/-- GET_ENDPOINT_ID (R422, R423): the device holds no static EID; 0 until one is assigned. -/
def execGetEndpointId (s : State) : Host.Outcome State Fault Refusal :=
  .next (mctpRun s .getEndpointId fun s => emit s (.mctp mctpGetEid [s.mgmt.eid.getD 0]))

/-- MCTP_GET_VERSION (R423): which versions, the manual leaves to DSP0236; a free value. -/
def execMctpGetVersion (s : State) : Host.Outcome State Fault Refusal :=
  .next (mctpRun s .mctpGetVersion fun s => emit (nextFree s) (.mctp mctpVersion [Config.freeNat s.free]))

/-- GET_MESSAGE_TYPE_SUPPORT (R423). -/
def execGetMessageTypeSupport (s : State) : Host.Outcome State Fault Refusal :=
  .next (mctpRun s .getMessageTypeSupport fun s => emit s (.mctp mctpTypes [0x00, 0x01, 0x05, 0x06, 0x07, 0x08]))

/-- MCTP_UNSUPPORTED_TYPE (R423): discarded. -/
def execMctpUnsupportedType (_ty : Nat) (s : State) : Host.Outcome State Fault Refusal := .next s

/-- PLDM_FIRMWARE_UPDATE (R424, R425): it counts as Transfer FW. -/
def execPldmFirmwareUpdate (container : List Byte) (s : State) : Host.Outcome State Fault Refusal :=
  .next (mctpRun s (.pldmFirmwareUpdate container) fun s =>
    if xferBusy s then emit s (.mctp 0x424 [irBusy]) else startXfer s none container)

/-- PLDM_ACTIVATE_FIRMWARE (R424). -/
def execPldmActivateFirmware (s : State) : Host.Outcome State Fault Refusal :=
  .next (mctpRun s .pldmActivateFirmware fun s =>
    let (s, ok) := armPending s
    emit s (.mctp 0x4240 [b2n ok]))

def hswCode : HswSt → Nat
  | .off => 0
  | .ramp => 1
  | .on => 2
  | .trip => 3
  | .latched => 4

def imgCode : ImgState → Nat
  | .none => 0
  | .loaded => 1
  | .reweaving => 2

def chanCode : ChState → Nat
  | .absent => 0
  | .training => 1
  | .online => 2
  | .offline => 3
  | .selfref => 4
  | .failed => 5

/-- The reading of a sensor, as its register shows it (R406, R397, R324, R247), with the thresholds that apply (R423). -/
def pldmReading (s : State) : PldmSensor → Contents
  | .ts n => [(BitVec.ofInt 12 (s.mgmt.temps.getD n 0)).toNat, warnC s, critC s]
  | .vmon n => [s.mgmt.rails.getD n 0, (railLimits s n).1 / 200, (railLimits s n).2 / 200]
  | .hswVsn => [s.hsw.vsn]
  | .hswState => [hswCode s.hsw.st]
  | .imageState => [imgCode s.img.st]
  | .chanState n => [chanCode (chAt s n).st]

/-- PLDM_GET_SENSOR_READING (R423). -/
def execPldmGetSensorReading (sensor : PldmSensor) (s : State) : Host.Outcome State Fault Refusal :=
  .next (mctpRun s (.pldmGetSensorReading sensor) fun s => emit s (.mctp 0x4230 (pldmReading s sensor)))

end Sys2Proof.Machine
end

