-- ==== Sys2Proof/Machine/Security.lean ====
section
/-! DEFINITION. Boot (R429–R431), DOE and attestation (R40, R41, R433–R435), the life cycle (R436–R438) and debug (R439). -/

namespace Sys2Proof.Machine

open Sys2Proof

/-! ## The boot ROM (R430) -/

/-- Banks in the order the ROM tries them, each with whether it is tried as the pending one. A pending bank is tried first once
Activate FW has armed it, and not by WARM (R424). -/
def bootOrder (s : State) : List (Nat × Bool) :=
  let a := s.mgmt.active
  let pend := ([0, 1] : List Nat).filter fun k =>
    (bankAt s k).pending && (bankAt s k).armed && !(bankAt s k).tried && s.boot.warmSince.isNone
  pend.map (fun k => (k, true)) ++ ((([a, 1 - a] : List Nat).filter fun k => !pend.contains k).map fun k => (k, false))

/-- Result of one bank (R430): 7 where it was tried and never confirmed. -/
def bankResult (s : State) (k : Nat) : Nat :=
  if (bankAt s k).tried then 7 else fwCheck s (bankAt s k).fw

/-- Records the result of a bank. -/
def putResult_ (s : State) (k r : Nat) : State :=
  { s with sec := if k = 0 then { s.sec with resA := r } else { s.sec with resB := r } }

/-- Tries the banks: the state with their results, and the bank started. -/
def tryBanks : List (Nat × Bool) → State → State × Option Nat
  | [], s => (s, none)
  | (k, p) :: t, s =>
    let r := bankResult s k
    let s := putResult_ s k r
    if r = 0 then (if p then modBank s k fun b => { b with tried := true } else s, some k) else tryBanks t s

/-- FIRMWARE_START (R392 step 5, R395, R407, R430): at a reset of the main domains, or as a WARM reset reboots the
controller. -/
def execFirmwareStart (s : State) : Host.Outcome State Fault Refusal :=
  if s.boot.phase ≠ .firmware ∧ s.boot.warmSince.isNone then .next s
  else
    let s := { s with sec := { s.sec with resA := 6, resB := 6 } }
    match tryBanks (bootOrder s) (bumpBoot s) with
    | (s, none) =>
      .next (if s.boot.warmSince.isSome then s else { s with boot := { s.boot with phase := .noFirmware } })
    | (s, some k) =>
      let s := { s with
        sec := { s.sec with bank := k, started := true, confirmed := false, fwSvn := fwSvnOf (bankAt s k).fw }
        boot := { s.boot with
          warmSince := none, phase := if s.boot.phase = .firmware then .training else s.boot.phase }
        mgmt := { s.mgmt with wdtAt := s.now } }
      .next (resume (startCal s))

/-- A write of BOOT_CTL.CONFIRM (R431, R442). -/
def putConfirm (s : State) : State :=
  if !s.sec.started || s.sec.confirmed then s
  else
    let k := s.sec.bank
    let b := bankAt s k
    let s := if b.pending then
        modBank { s with mgmt := { s.mgmt with active := k } } k fun b =>
          { b with pending := false, armed := false, tried := false }
      else s
    let v := if bitOf (numAt b.fw 6 2) 0 then max s.sec.vsvn (min 64 (fwSvnOf b.fw)) else s.sec.vsvn
    { s with sec := { s.sec with confirmed := true, vsvn := v } }

/-- BOOT_CONFIRM (R431, R442). -/
def execBootConfirm (by_ : Agent) (s : State) : Host.Outcome State Fault Refusal :=
  .next (access s by_ (secBase + 0x2C) (.bootConfirm by_) putConfirm)

/-! ## DOE (R40) -/

/-- Codes of DOE answers that are not SPDM's (the model's own). -/
def doeProtocols : Nat := 0x100
def doeBusy : Nat := 0x101
def doeCdat : Nat := 0x102

/-- Sends a DOE or SPDM answer; a function raises vector 2 (R45). -/
def doeAnswer (s : State) (r : Responder) (code : Nat) (body : Contents) : State :=
  let s := emit s (.spdm r code body)
  match r with
  | .doe f => fnIrq s f 2
  | .mctp => s

/-- Takes a DOE request that is answered within `bound` ns (R40). Until the bound of the request before it has passed,
whether that one is still being processed is free; then the DOE Busy bit is set and the request is not taken. -/
def doeTake (s : State) (f : Fn) (row : Instr) (bound : Nat) (go : State → State) : State :=
  if !mailboxLive s f then s
  else fnGate s f row fun s =>
    if !mcUp s then emit s (.spdm (.doe f) doeBusy [])
    else if domShut s 1 then holdFor s 1 row
    else
      let s := unIdle s 1
      let take := fun (s : State) => go (modFn s (fnKey f) fun x => { x with doeUntil := s.now + bound })
      if s.now < (fnAt s (fnKey f)).doeUntil then
        if freeBelow s 2 = 1 then emit (nextFree s) (.spdm (.doe f) doeBusy []) else take (nextFree s)
      else take s

/-- 100 ms, or 1 s for a request that needs a signature (R40). -/
def doePlain : Nat := 100000000
def doeSigned : Nat := 1000000000

/-- DOE_DISCOVERY (R40): discovery, CMA/SPDM, secured CMA/SPDM, CDAT table access. -/
def execDoeDiscovery (f : Fn) (s : State) : Host.Outcome State Fault Refusal :=
  .next (doeTake s f (.doeDiscovery f) doePlain fun s => doeAnswer s (.doe f) doeProtocols [0, 1, 2, 3])

/-- Raw rate of a x16 link in GB/s by rate code (R31). -/
def rawRate (code : Nat) : Nat :=
  if code = 5 then 128 else if code = 4 then 64 else if code = 3 then 32 else if code = 2 then 16 else if code = 1 then 10 else 5

/-- A DSLBIS bandwidth in MB/s, scaled from a x16 link at 64 GT/s (R41). -/
def scaledBw (l : Link) (mbs : Nat) : Nat := mbs * rawRate l.rate * l.width / (128 * 16)

/-- The CDAT of a function (R41): a DSMAS for each window (number, DLA, bytes, shareable), then the DSLBIS. -/
def cdatOf (s : State) (f : Fn) : Contents :=
  let l := linkAt s (linkKey f.port f.link)
  (cciWins s (.mailbox f)).flatMap (fun e => [e.1, e.2.dlaHank * 0x200000, winBytes e.2, b2n e.2.db]) ++
  [184, 184, scaledBw l 117500, scaledBw l 115000]

/-- CDAT_READ (R41). -/
def execCdatRead (f : Fn) (s : State) : Host.Outcome State Fault Refusal :=
  .next (doeTake s f (.cdatRead f) doePlain fun s =>
    modFn (doeAnswer s (.doe f) doeCdat (cdatOf s f)) (fnKey f) fun x => { x with cdatChg := false })

/-! ## SPDM (R433) -/

/-- SPDM response codes, as DSP0274 numbers them (PRESUMED, log entry 22). -/
def spVersion : Nat := 0x04
def spCapabilities : Nat := 0x61
def spAlgorithms : Nat := 0x63
def spCertificate : Nat := 0x02
def spChallengeAuth : Nat := 0x03
def spMeasurements : Nat := 0x60
def spKeyExchange : Nat := 0x64
def spHeartbeatAck : Nat := 0x68
def spError : Nat := 0x7F

/-- Key in `State.fns` of a responder. -/
def respKey : Responder → Nat
  | .doe f => fnKey f
  | .mctp => mctpKey

/-- Takes an SPDM request (R40, R433); over MCTP it is answered while the controller runs. -/
def spdmRun (s : State) (r : Responder) (row : Instr) (signed : Bool) (go : State → State) : State :=
  match r with
  | .doe f => doeTake s f row (if signed then doeSigned else doePlain) go
  | .mctp => if !mcUp s then s else if domShut s 1 then holdFor s 1 row else go (unIdle s 1)

/-- Requests beyond the first four (R433, R436): the requester has offered Falcon-1024, and the state is not SCRAP. -/
def spdmFull (s : State) (r : Responder) : Bool := (fnAt s (respKey r)).falcon && s.sec.lc != .scrap

/-- SEC signs (R436, R439). -/
def canSign (s : State) : Bool := s.sec.lc != .scrap && !s.sec.debug && !s.sec.dusKilled

/-- A request that is refused. -/
def spdmError (s : State) (r : Responder) : State := doeAnswer s r spError []

/-- GET_VERSION (R433). -/
def execGetVersion (r : Responder) (s : State) : Host.Outcome State Fault Refusal :=
  .next (spdmRun s r (.getVersion r) false fun s => doeAnswer s r spVersion [0x12, 0x13])

/-- GET_CAPABILITIES (R433): CERT, CHAL, MEAS with signature, KEY_EX, ENCRYPT, MAC and HBEAT, numbered 1–7. -/
def execGetCapabilities (r : Responder) (s : State) : Host.Outcome State Fault Refusal :=
  .next (spdmRun s r (.getCapabilities r) false fun s => doeAnswer s r spCapabilities [1, 2, 3, 4, 5, 6, 7])

/-- NEGOTIATE_ALGORITHMS (R433): 1 Falcon-1024 where the requester offers it, SHA3-256, secp384r1 and AES-256-GCM. -/
def execNegotiateAlgorithms (r : Responder) (falcon : Bool) (s : State) : Host.Outcome State Fault Refusal :=
  .next (spdmRun s r (.negotiateAlgorithms r falcon) false fun s =>
    doeAnswer (modFn s (respKey r) fun x => { x with falcon := falcon }) r spAlgorithms [b2n falcon, 256, 384, 256])

/-- GET_CERTIFICATE (R433): slot 0 holds the vendor root and the device certificate, which carries the identity record and
key; slots 1–7 are empty. -/
def execGetCertificate (r : Responder) (slot : Nat) (s : State) : Host.Outcome State Fault Refusal :=
  .next (spdmRun s r (.getCertificate r slot) false fun s =>
    if spdmFull s r && slot == 0 then
      doeAnswer s r spCertificate (2 :: (Config.identityRecord ++ Config.identityKey).map (·.toNat))
    else spdmError s r)

/-- CHALLENGE (R433): signed by the identity key. -/
def execChallenge (r : Responder) (slot : Nat) (s : State) : Host.Outcome State Fault Refusal :=
  .next (spdmRun s r (.challenge r slot) true fun s =>
    if spdmFull s r && canSign s && slot == 0 then doeAnswer s r spChallengeAuth [1] else spdmError s r)

/-- The security record of R435. -/
def secRecord (s : State) : List Byte :=
  let pend := (bankAt s 0).pending || (bankAt s 1).pending
  le 1 (lcCode s.sec.lc) ++ le 1 (b2n s.sec.debug + 2 * b2n pend) ++ le 1 s.sec.vsvn ++ le 1 s.sec.osvn ++
  le 4 s.boot.bootCount ++ (if s.sec.lc = .blank then List.replicate 32 0 else bytesAt s.sec.ownerDig 0 32) ++
  List.replicate 8 0

/-- GLB.IMG_DIGEST (R309): zeros when no image is applied. -/
def imgDigest (s : State) : List Byte := if s.img.st = .none then List.replicate 32 0 else bytesAt s.img.digest 0 32

/-- Measurement block `i` (R434): index, type byte, value. -/
def measurement (s : State) (i : Nat) : Contents :=
  let v := match i with
    | 1 => (0x80, bytesAt Config.romDigest 0 32)
    | 2 => (0x81, digest (fwContainer (bankAt s s.sec.bank).fw))
    | 3 => (0x83, imgDigest s)
    | _ => (0x82, secRecord s)
  [i, v.1] ++ v.2.map (·.toNat)

/-- GET_MEASUREMENTS (R433, R434, R436, R439): unsigned, any requester may use it. The last number says whether a signature
follows. An index that names no block is an error. -/
def execGetMeasurements (r : Responder) (index : Nat) (signed : Bool) (s : State) : Host.Outcome State Fault Refusal :=
  .next (spdmRun s r (.getMeasurements r index signed) signed fun s =>
    if signed && !(spdmFull s r && canSign s) then spdmError s r
    else if index = 0xFF then
      doeAnswer s r spMeasurements (([1, 2, 3, 4] : List Nat).flatMap (measurement s) ++ [b2n signed])
    else if 1 ≤ index ∧ index ≤ 4 then doeAnswer s r spMeasurements (measurement s index ++ [b2n signed])
    else spdmError s r)

/-- KEY_EXCHANGE (R433): its response is signed, so it needs what CHALLENGE needs. -/
def execKeyExchange (r : Responder) (s : State) : Host.Outcome State Fault Refusal :=
  .next (spdmRun s r (.keyExchange r) true fun s =>
    if spdmFull s r && canSign s then
      doeAnswer (modFn s (respKey r) fun x => { x with session := true }) r spKeyExchange [1]
    else spdmError s r)

/-- HEARTBEAT (R433): within a session. -/
def execHeartbeat (r : Responder) (s : State) : Host.Outcome State Fault Refusal :=
  .next (spdmRun s r (.heartbeat r) false fun s =>
    if spdmFull s r && (fnAt s (respKey r)).session then doeAnswer s r spHeartbeatAck [] else spdmError s r)

/-- Bytes of the request object that a DOE instance holds (R40). -/
def doeLimit : Nat := 0x10000

/-- SET_CERTIFICATE, an object of `bytes` (R40, R433): refused; a DOE instance takes none above 64 KiB. -/
def execSetCertificate (q : CertReq) (s : State) : Host.Outcome State Fault Refusal :=
  .next (if q.by_ != .mctp && decide (doeLimit < q.bytes) then s
    else spdmRun s q.by_ (.setCertificate q) false fun s => spdmError s q.by_)

/-! ## Life cycle (R436–R438) -/

/-- GET_LC_CHALLENGE (R437): a nonce drawn from the TRNG. -/
def execGetLcChallenge (c : Cci) (s : State) : Host.Outcome State Fault Refusal :=
  .next (cciRun s c (.getLcChallenge c) 0xC510 true fun s =>
    let n := Config.freeNat s.free % 2 ^ 256
    cciAnswer { nextFree s with sec := { s.sec with nonce := some n } } c 0xC510 .success [n])

/-- The signatures are those of the authority that R436 asks for a transition. -/
def mayTransition (lc target : Lc) (t : Token) : Bool :=
  match lc, target with
  | .blank, .prov => t.sigA == .ownerBeingEnrolled && t.ownerKey.length == 1793
  | .blank, .scrap => true
  | .prov, .field => t.sigA == .owner
  | .prov, .rma => t.sigA == .vendor && t.sigB == .owner
  | .prov, .scrap => t.sigA == .owner
  | .field, .rma => t.sigA == .vendor && t.sigB == .owner
  | .field, .scrap => t.sigA == .owner
  | .rma, .scrap => t.sigA == .vendor || t.sigA == .owner
  | _, _ => false

/-- The same for a debug unlock. -/
def mayUnlock (lc : Lc) (t : Token) : Bool :=
  match lc with
  | .blank => t.sigA == .vendor
  | .prov => t.sigA == .owner || (t.sigA == .vendor && t.sigB == .owner)
  | .rma => t.sigA == .vendor
  | .field => false
  | .scrap => false

/-- The state a TARGET code names. -/
def lcOf (n : Nat) : Option Lc :=
  match n with
  | 0 => some .blank
  | 1 => some .prov
  | 2 => some .field
  | 3 => some .rma
  | 4 => some .scrap
  | _ => none

/-- What every token must say (R437): the current nonce, this device, and zeros where the layout has them. -/
def tokenOk (s : State) (t : Token) (kind : Nat) : Bool :=
  t.kind == kind && decide (t.opts < 2) && t.zero.all (· == 0) && s.sec.nonce == some t.nonce &&
  t.serial == numAt Config.identityRecord 0x10 8 && t.idkey == idDigest

/-- The attempt is refused (R437, R441): the nonce is consumed. -/
def lcRefuse (s : State) (c : Cci) (op : Nat) : State :=
  cciAnswer { s with sec := { s.sec with nonce := none, last := 2 } } c op .invalidInput []

/-- The attempt is accepted and runs in the background (R437, R438 step 1). -/
def lcAccept (s : State) (c : Cci) (op : Nat) (run : LcRun) : State :=
  let s := { s with sec := { s.sec with nonce := none, last := 1, run := some run } }
  resume (offlineDone (allOffline (bgStart s c op)))

/-- LC_TRANSITION (R436, R437). -/
def execLcTransition (c : Cci) (t : Token) (s : State) : Host.Outcome State Fault Refusal :=
  .next (cciRun s c (.lcTransition c t) 0xC511 true fun s =>
    if s.sec.debug || eraseBusy s || (fnAt s (cciKey c)).bg != 0 then cciAnswer s c 0xC511 .busy []
    else match lcOf t.target with
      | none => lcRefuse s c 0xC511
      | some target =>
        if tokenOk s t 1 && mayTransition s.sec.lc target t then
          lcAccept s c 0xC511 { target := target, overwrite := bitOf t.opts 0, debug := false, step := 1, by_ := c,
                                owner := t.ownerKey }
        else lcRefuse s c 0xC511)

/-- DEBUG_UNLOCK (R436, R437, R439). -/
def execDebugUnlock (c : Cci) (t : Token) (s : State) : Host.Outcome State Fault Refusal :=
  .next (cciRun s c (.debugUnlock c t) 0xC512 true fun s =>
    if eraseBusy s || (fnAt s (cciKey c)).bg != 0 then cciAnswer s c 0xC512 .busy []
    else if tokenOk s t 2 && t.target == 0xFF && mayUnlock s.sec.lc t then
      lcAccept s c 0xC512 { target := s.sec.lc, overwrite := false, debug := true, step := 1, by_ := c, owner := [] }
    else lcRefuse s c 0xC512)

/-- A step of the running transition ends. -/
def lcStep (s : State) (n : Nat) : State :=
  { s with sec := { s.sec with run := s.sec.run.map fun r => { r with step := n, at_ := s.now } } }

/-- The transition stands at a step. -/
def lcAt (s : State) (n : Nat) : Option LcRun := s.sec.run.filter fun r => decide (r.step = n)

/-- LC_OVERWRITE_COMPLETE (R438 step 3). -/
def execLcOverwriteComplete (s : State) : Host.Outcome State Fault Refusal :=
  match lcAt s 3 with
  | none => .next s
  | some _ => .next (lcStep (overwriteDram s) 4)

/-- LC_SEAL_WRITTEN (R438 step 4): the digest covers the records of the persistent log since the last seal and the event of
this transition; the flash header holds the last eight seals. -/
def execLcSealWritten (s : State) : Host.Outcome State Fault Refusal :=
  match lcAt s 4 with
  | none => .next s
  | some r =>
    let s := logUncoded s (srcOf secBase) 438 sevInfo (le 1 (lcCode s.sec.lc) ++ le 1 (lcCode r.target)) [] []
    let this := match s.log.ring.getLast? with
      | some e => [e.2]
      | none => []
    let d := digest ((s.log.sinceSeal ++ this).flatMap eventBytes)
    let block : Seal := { old := s.sec.lc, new := r.target, boot := s.boot.bootCount, us := us s, digest := d }
    let all := s.sec.seals ++ [block]
    let s := { s with
      log := { s.log with sinceSeal := [] }
      sec := { s.sec with seals := all.drop (all.length - 8) } }
    .next (lcStep s 5)

/-- LC_FUSE_BURN (R438 steps 5 and 6). -/
def execLcFuseBurn (s : State) : Host.Outcome State Fault Refusal :=
  match lcAt s 5 with
  | none => .next s
  | some r =>
    let s := lcStep { s with sec := burnFuses s.sec r } 7
    .next (bgFinish s r.by_ 0xC511 .success)

/-- LC_RESET (R438 step 7): 10 ms after the command completed. -/
def execLcReset (s : State) : Host.Outcome State Fault Refusal :=
  match lcAt s 7 with
  | none => .next s
  | some r => .next (globalReset (advanceTo s (r.at_ + 10000000)))

/-! ## Debug (R439) -/

/-- Boundary-scan instructions act in every state. -/
def isBoundary : JtagInstr → Bool
  | .bypass => true
  | .idcode => true
  | .sample => true
  | .extest => true
  | .privateScan => false
  | .privateDebug => false

/-- JTAG_INSTRUCTION (R439). -/
def execJtagInstruction (i : JtagInstr) (s : State) : Host.Outcome State Fault Refusal :=
  .next (if isBoundary i || s.sec.debug then emit s (.jtag i) else s)

end Sys2Proof.Machine
end

