-- ==== Sys2Proof/Machine/Pmu.lean ====
section
/-! DEFINITION. Performance counters and telemetry (R443–R457) beyond the counting itself, which is in Ops.lean. -/

namespace Sys2Proof.Machine

open Sys2Proof

/-! ## Counters as registers (R444, R455) -/

/-- The cycle count of a domain's blocks. -/
def cycleCount (s : State) (d : Nat) : Nat := s.pmu.cyc.getD d 0 / 1000 % 2 ^ 64

/-- Bits 31:16 of HI. -/
def ctrCtl (c : Ctr) : Nat := b2n c.ovf * 0x8000000 + b2n c.en * 0x4000000 + b2n c.irq * 0x2000000 +
  b2n c.edge * 0x1000000 + c.event % 256 * 0x10000

/-- LO and HI of a programmable counter. -/
def ctrLo (c : Ctr) : Nat := c.count % 0x100000000
def ctrHi (c : Ctr) : Nat := ctrCtl c + c.count / 0x100000000 % 0x10000

/-- A write of LO: count bits 31:0. -/
def putCtrLo (s : State) (k v : Nat) : State :=
  modCtr s k fun c => { c with count := c.count / 0x100000000 * 0x100000000 + v % 0x100000000 }

/-- A write of HI: count bits 47:32, the control fields, and a 1 to OVF. -/
def putCtrHi (s : State) (k v : Nat) : State :=
  modCtr s k fun c => { c with
    count := fld v 15 0 * 0x100000000 + c.count % 0x100000000
    ovf := c.ovf && !bitOf v 27, en := bitOf v 26, irq := bitOf v 25, edge := bitOf v 24, event := fld v 23 16
    last := c.last && c.event == fld v 23 16 && c.en }

/-- What a copy of PMU.SEL names (R455): none where it names no counter; counter 8 is the cycle counter. -/
def ctrSel (sel : Nat) : Option (Nat × Nat × Nat) :=
  let k := fld sel 14 12
  let i := fld sel 11 6
  let c := fld sel 3 0
  if k < 6 ∧ i < instsOf k ∧ (c < ctrsOf k ∨ c = 8) then some (k, i, c) else none

/-- The 64 bits, LO and HI, of the counter that a selection names. -/
def ctrPair (s : State) (sel : Nat) : Nat × Nat :=
  match ctrSel sel with
  | none => (0, 0)
  | some (k, i, c) =>
    if c = 8 then (cycleCount s (ctrDom k i) % 0x100000000, cycleCount s (ctrDom k i) / 0x100000000)
    else (ctrLo (ctrAt s (ctrKey k i c)), ctrHi (ctrAt s (ctrKey k i c)))

/-- PMU_FREEZE (R445, R455). -/
def execPmuFreeze (by_ : Agent) (freeze : Bool) (s : State) : Host.Outcome State Fault Refusal :=
  .next (access s by_ pmuBase (.pmuFreeze by_ freeze) fun s =>
    setReg s pmuBase (word (regN s pmuBase / 2 * 2 + b2n freeze)))

/-- COUNTER_WRAP (R447, R448): the next count of a counter that stands at its maximum. A counter that is stopped or frozen,
or stands elsewhere, does not wrap. -/
def execCounterWrap (kind : Fin 6) (inst : Fin 48) (cnt : Fin 8) (s : State) : Host.Outcome State Fault Refusal :=
  let k := ctrKey kind inst cnt
  let c := ctrAt s k
  if instsOf kind ≤ inst.val ∨ ctrsOf kind ≤ cnt.val ∨ c.en = false ∨ bitOf (regN s pmuBase) 0 = true ∨
      c.count ≠ 2 ^ 48 - 1 ∨ clockOn s (ctrDom kind inst) = false then .next s
  else .next (countUp s k)

/-- Blocks in the order of R451, as KIND and instance. -/
def dumpBlocks : List (Nat × Nat) :=
  ([0, 1, 2, 3, 4, 5] : List Nat).flatMap fun k => (List.range (instsOf k)).map fun i => (k, i)

/-- A block holds a set OVF (R457). -/
def blockOvf (s : State) (k i : Nat) : Bool := (List.range (ctrsOf k)).any fun c => (ctrAt s (ctrKey k i c)).ovf

/-- PMU.OVF_SUMn (R457). -/
def ovfSum (s : State) (n : Nat) : Nat :=
  (List.range 32).foldl (fun a j => match dumpBlocks[n * 32 + j]? with
    | some (k, i) => if blockOvf s k i then a + 2 ^ j else a
    | none => a) 0

/-! ## The dump (R450–R452) -/

/-- SOURCE of a monitored block (R412). -/
def blockSource (k i : Nat) : Nat :=
  srcOf (if k = 0 then hpBase i else if k = 1 then chBase i else if k = 2 then crlBase i else if k = 3 then sknBase i
    else if k = 4 then spnBase i else stBase i)

/-- A block record (R452): 128 bytes with 8 counters, 64 with 4. -/
def blockRecord (s : State) (k i : Nat) : List Byte :=
  let size := if ctrsOf k = 8 then 128 else 64
  let d := ctrDom k i
  let live := (domAt s d).st != .doze && (domAt s d).st != .off
  let one := fun (c : Nat) =>
    let x := ctrAt s (ctrKey k i c)
    le 6 x.count ++ le 1 x.event ++ le 1 (b2n x.edge + 2 * b2n x.irq + 4 * b2n x.en + 8 * b2n x.ovf)
  if !live then List.replicate size 0
  else bytesAt (le 2 (blockSource k i) ++ le 1 (1 + 2 * b2n (bitOf (regN s pmuBase) 0)) ++ le 1 (ctrsOf k) ++ le 4 0 ++
    le 8 (cycleCount s d) ++ (List.range (ctrsOf k)).flatMap one) 0 size

/-- PERIOD in force (R456). -/
def dumpPeriod (s : State) : Nat := clampN 1 1000000 (fld (regN s (pmuBase + 0x40)) 19 0)

/-- The header (R451) with a value of SEQ. -/
def dumpHeader (s : State) (seq : Nat) : List Byte :=
  le 8 seq ++ le 8 (us s) ++ le 4 s.boot.bootCount ++ le 4 (dumpPeriod s) ++ le 4 (min 0xFFFFFFFF s.pmu.skipped) ++
  le 1 s.power.op ++ le 1 1 ++ le 2 12928 ++ List.replicate 32 0

/-- The buffer of one dump, latched at one instant (R450 step 1). -/
def dumpBytes (s : State) (seq : Nat) : List Byte :=
  dumpHeader s seq ++ zeroLine ++ dumpBlocks.flatMap fun b => blockRecord s b.1 b.2

/-- The window may hold the telemetry hank (R454). -/
def dumpWindowOk (s : State) : Bool :=
  let x := winAt s (fld (regN s (pmuBase + 0x44)) 11 0)
  x.size != 0 && x.state = .online && !x.elastic && x.clevel == 0 &&
  decide (fld (regN s (pmuBase + 0x48)) 23 0 < x.size)

/-- A write of DUMP_CTL (R454, R456): the first dump falls due one PERIOD later. -/
def putDump (s : State) (v : Nat) : State :=
  let s := setReg s (pmuBase + 0x40) (word (v % 0x1000000))
  if !bitOf v 31 then { s with pmu := { s.pmu with en := false, busy := false, latched := [] } }
  else if s.pmu.en then s
  else if dumpWindowOk s then
    { s with pmu := { s.pmu with en := true, stop := 0, seq := 0, skipped := 0, dueAt := s.now + dumpPeriod s * 1000 } }
  else stopDump s 1

/-- DUMP_ENABLE (R454, R456). -/
def execDumpEnable (by_ : Agent) (val : Word) (s : State) : Host.Outcome State Fault Refusal :=
  .next (access s by_ (pmuBase + 0x40) (.dumpEnable by_ val) fun s => putDump s val.toNat)

/-- The agent number under which a dump writes (R116). -/
def dumpAgent : Nat := agentKey 3

/-- Writes the latched dump (R450 steps 2 and 3): the header with SEQ 0, the records, the header with SEQ. Where a holder
must still answer, the dump stays BUSY and goes on when the command is issued again. -/
def writeDump (s : State) : State × Bool :=
  let w := fld (regN s (pmuBase + 0x44)) 11 0
  let qc := fld (regN s (pmuBase + 0x40)) 23 20
  let dla := hankDla s w (fld (regN s (pmuBase + 0x48)) 23 0) + s.pmu.seq % 2 * 0x4000
  let b := s.pmu.latched
  let (s, ready) := agentPrepare (agentOpen s dumpAgent) dumpAgent w dla b.length qc
  if !ready then (s, false)
  else
    let put := fun (s : State) (off : Nat) (x : List Byte) => (agentPut s nobody w (dla + off) qc 1024 x fun _ => false).1
    let s := put s 0 (le 8 0 ++ (b.take 64).drop 8)
    let s := put s 64 (b.drop 64)
    let s := agentClose (put s 0 (b.take 64)) dumpAgent
    (resume { s with pmu := { s.pmu with busy := false, latched := [], skipped := 0 } }, true)

/-- A dump falls due: at its instant, while the dump before it has ended. -/
def dumpDue (s : State) : State :=
  let s := advanceTo s s.pmu.dueAt
  let s := { s with pmu := { s.pmu with dueAt := s.pmu.dueAt + dumpPeriod s * 1000 } }
  if s.pmu.busy then
    bump { s with pmu := { s.pmu with skipped := s.pmu.skipped + 1 } } (pmuBase + 0x50)
  else
    let seq := s.pmu.seq + 1
    let s := { s with pmu := { s.pmu with busy := true, seq := seq, latched := dumpBytes s seq } }
    (writeDump s).1

/-- TELEMETRY_DUMP (R450): a dump that waits goes on where it can; else the next one falls due. -/
def execTelemetryDump (s : State) : Host.Outcome State Fault Refusal :=
  if !s.pmu.en then .next s
  else if s.pmu.busy then
    match writeDump s with
    | (t, true) => .next t
    | (t, false) => .next (dumpDue t)
  else .next (dumpDue s)

end Sys2Proof.Machine
end

