-- ==== Sys2Proof/Machine/Mailbox.lean ====
section
/-! DEFINITION. Message boxes (R417–R421, R467): the far end's and the controller's view, memory mode, assignment. -/

namespace Sys2Proof.Machine

open Sys2Proof

/-! ## Registers (R418) -/

/-- Key of a plain register of a box in the view of an agent: the controller has copies of its own. -/
def boxKey (by_ : Agent) (n r : Nat) : Nat :=
  mbxBase n + r + (if by_ = .ctrl ∧ (r = 0x18 ∨ r = 0x1C) then copy1 else 0)

/-- CTL.VEC. -/
def boxVec (s : State) (n : Nat) : Nat := fld (regN s (mbxBase n)) 21 17

/-- CTL. -/
def boxCtl (s : State) (n : Nat) : Nat :=
  let x := mbxAt s n
  b2n x.en * 0x80000000 + boxVec s n * 0x20000 + b2n x.mode * 0x10000 + x.seat % 1024

/-- Interrupts the far end of a host box on CTL.VEC (R417). -/
def boxIrqFar (s : State) (n : Nat) : State :=
  if 16 ≤ n ∨ boxVec s n = 0 ∨ (mbxAt s n).en = false then s else msix s (mbxAt s n).seat (boxVec s n)

/-- Interrupts the controller. -/
def boxIrqCtrl (s : State) (n : Nat) : State := emit s (.mcIrq (0x4170 + n))

/-- STS. What a box without a far end in BAR2 has discarded, the controller sees. -/
def boxSts (s : State) (by_ : Agent) (n : Nat) : Nat :=
  let x := mbxAt s n
  let ctrl := by_ == .ctrl
  let ovf := if ctrl then x.ovfC || (decide (16 ≤ n) && x.ovf) else x.ovf
  let unf := if ctrl then x.unfC else x.unf
  let fc := if ctrl then x.tc.length else x.fc.length
  let tc := if ctrl then x.fc.length else x.tc.length
  b2n ovf * 0x80000000 + b2n unf * 0x40000000 + b2n x.lnkDn * 0x20000000 + fc * 0x100 + tc

/-- A peer box's message (R421): one MBOX packet; where its port is not UP, or the pair of parts has no ply ports, it is
discarded (R335). -/
def peerSend (s : State) (n : Nat) (ws : List Word) : State :=
  let p := n - 64
  if plyUp s p then
    let q := nextSeq s p
    let s := plySend s p (.mbox ws)
    { s with pair := { s.pair with ops := s.pair.ops ++ [(p, .mbox n q)] } }
  else boxIrqCtrl (modMbx s n fun x => { x with lnkDn := true }) n

/-- A PUSH (R418): the far end's goes to TC, the controller's to FC, or to the partner. -/
def putPush (s : State) (by_ : Agent) (n : Nat) (w : Word) : State :=
  match by_ with
  | .fn _ => boxPush s n [w]
  | .ctrl =>
    if 64 ≤ n then peerSend s n [w]
    else modMbx s n fun x =>
      if x.fc.length < 16 then { x with fc := x.fc ++ [w] } else { x with ovfC := true }

/-- A POP (R418): the far end's takes from FC, the controller's from TC. The word, and the state after; a sender whose FIFO
becomes empty is interrupted where its TC_EMPTY is set (R417). -/
def takePop (s : State) (by_ : Agent) (n : Nat) : State × Word :=
  let x := mbxAt s n
  match by_ with
  | .fn _ =>
    match x.fc with
    | [] => (modMbx s n fun x => { x with unf := true }, 0)
    | w :: t =>
      let s := modMbx s n fun x => { x with fc := t }
      (if t = [] && bitOf (regN s (boxKey .ctrl n 0x1C)) 0 then boxIrqCtrl s n else s, w)
  | .ctrl =>
    match x.tc with
    | [] => (modMbx s n fun x => { x with unfC := true }, 0)
    | w :: t =>
      let s := modMbx s n fun x => { x with tc := t }
      (if t = [] && bitOf (regN s (mbxBase n + 0x1C)) 0 then boxIrqFar s n else s, w)

/-- A ring of doorbell bits (R418): those that the other end's mask lets through interrupt it. -/
def putRing (s : State) (by_ : Agent) (n : Nat) (bits : Word) : State :=
  match by_ with
  | .fn _ =>
    let s := modMbx s n fun x => { x with dbTc := x.dbTc ||| bits }
    if bits &&& regAt s (boxKey .ctrl n 0x18) = 0 then s else boxIrqCtrl s n
  | .ctrl =>
    let s := modMbx s n fun x => { x with dbFc := x.dbFc ||| bits }
    if bits &&& regAt s (mbxBase n + 0x18) = 0 then s else boxIrqFar s n

/-- A write of a box register (R418). -/
def putBox (s : State) (by_ : Agent) (n r v : Nat) : State :=
  let w := word v
  let ctrl := by_ == .ctrl
  match r with
  | 0x00 => setReg s (mbxBase n) (w &&& 0x3E0000#32)
  | 0x04 => modMbx s n fun x => { x with
      ovf := x.ovf && !(bitOf v 31 && (!ctrl || decide (16 ≤ n)))
      ovfC := x.ovfC && !(bitOf v 31 && ctrl)
      unf := x.unf && !(bitOf v 30 && !ctrl)
      unfC := x.unfC && !(bitOf v 30 && ctrl)
      lnkDn := x.lnkDn && !bitOf v 29 }
  | 0x08 => putPush s by_ n w
  | 0x10 => putRing s by_ n w
  | 0x14 => modMbx s n fun x => if ctrl then { x with dbTc := x.dbTc &&& ~~~w } else { x with dbFc := x.dbFc &&& ~~~w }
  | 0x18 => setReg s (boxKey by_ n 0x18) w
  | 0x1C => setReg s (boxKey by_ n 0x1C) (w &&& 1)
  | _ => s

/-- A read of a box register (R418): the state after it and the word. -/
def getBox (s : State) (by_ : Agent) (n r : Nat) : State × Nat :=
  let x := mbxAt s n
  let ctrl := by_ == .ctrl
  match r with
  | 0x00 => (s, boxCtl s n)
  | 0x04 => (s, boxSts s by_ n)
  | 0x0C => let (s, w) := takePop s by_ n; (s, w.toNat)
  | 0x10 => (s, (if ctrl then x.dbFc else x.dbTc).toNat)
  | 0x14 => (s, (if ctrl then x.dbTc else x.dbFc).toNat)
  | 0x18 => (s, regN s (boxKey by_ n 0x18))
  | 0x1C => (s, regN s (boxKey by_ n 0x1C))
  | _ => (s, 0)

/-- MBX_PUSH (R418). -/
def execMbxPush (by_ : Agent) (box : Fin 66) (word : Word) (s : State) : Host.Outcome State Fault Refusal :=
  .next (access s by_ (mbxBase box + 0x08) (.mbxPush by_ box word) fun s => putPush s by_ box word)

/-- MBX_POP (R418): the word goes to the reader. -/
def execMbxPop (by_ : Agent) (box : Fin 66) (s : State) : Host.Outcome State Fault Refusal :=
  .next (if mayAccess s by_ (mbxBase box + 0x0C) && blkGone s (.mbx box) then emit s (.regData by_ [0])
    else access s by_ (mbxBase box + 0x0C) (.mbxPop by_ box) fun s =>
      let (s, w) := takePop s by_ box
      emit s (.regData by_ [w]))

/-- MBX_DB_RING (R418). -/
def execMbxDbRing (by_ : Agent) (box : Fin 66) (bits : Word) (s : State) : Host.Outcome State Fault Refusal :=
  .next (access s by_ (mbxBase box + 0x10) (.mbxDbRing by_ box bits) fun s => putRing s by_ box bits)

/-! ## Assignment (R420, R467) -/

/-- A line lies in an ONLINE window of the seat. -/
def lineOk (s : State) (seat hpa : Nat) : Bool :=
  match seatRange s seat hpa 64 with
  | some (w, dla) => accessStatus s w dla 64 s.stamp == stOk
  | none => false

/-- BOX_ASSIGN (R419, R420): MBX1–MBX15; a memory-mode assignment takes up the two line addresses. The box of a seat that is no
link owner runs in memory mode, whatever is asked. -/
def execBoxAssign (box : Fin 66) (seat : Fin 1024) (memoryMode : Bool) (s : State) : Host.Outcome State Fault Refusal :=
  let n := box.val
  let x := mbxAt s n
  let memoryMode := memoryMode || !isOwner s seat
  if !mcUp s || n = 0 || decide (16 ≤ n) || (seatAt s seat).state = .none ||
      (memoryMode && !(lineOk s seat x.inNext && lineOk s seat x.outNext)) then .next s
  else .next (modMbx s n fun x => { x with
    en := true, mode := memoryMode, seat := seat
    inHpa := if memoryMode then x.inNext else 0, outHpa := if memoryMode then x.outNext else 0
    lastIn := 0, outSeq := 0, ackDue := false })

/-- The boxes of a seat that has been disabled are unassigned and emptied (R420); MBX0 stays the admin seat's. -/
def unassignBoxes (s : State) (seat : Nat) : State :=
  let mine := (s.mbx.filter fun e => e.2.en && e.2.seat == seat && e.1 != 0).map (·.1)
  mine.foldl (fun t n => modMbx t n fun x => { inNext := x.inNext, outNext := x.outNext }) s

/-- SEAT_DRAIN_COMPLETE (R57, R58, R74, R420). -/
def execSeatDrainComplete (seat : Fin 1024) (s : State) : Host.Outcome State Fault Refusal :=
  let x := seatAt s seat
  if x.state ≠ .disabling ∨ seatDrained s seat = false then .next s
  else
    let s := seatEvent (modSeat s seat fun x => { x with state := .disabled, pendEn := none, lostAt := none }) seat
    let s := unassignBoxes s seat
    .next (if x.pendEn = some true && !x.removing then enableSeat s seat else s)

/-! ## Memory mode (R419) -/

/-- The agent number under which the controller uses the lines of box `n` (R116). -/
def boxAgent (n : Nat) : Nat := agentKey (0x100 + n)

/-- Reads the 64 bytes of a line as a current read; the answer is none where it must wait, and some none where the line
cannot be read or reads poison. -/
def boxLine (s : State) (n hpa : Nat) : State × Option (Option (List Byte)) :=
  match seatRange s (mbxAt s n).seat hpa 64 with
  | none => (s, some none)
  | some (w, dla) =>
    if accessStatus s w dla 64 s.stamp ≠ stOk then (s, some none)
    else
      let (s, ready) := agentLines (agentOpen s (boxAgent n)) (boxAgent n) w dla 64 false
      if !ready then (s, none)
      else
        let (s, ls) := agentSpan s w dla 64 15 1024
        let s := agentClose s (boxAgent n)
        if (spanPoison ls).isSome then (logUncoded s (0x100 + n) 419 sevErr [] [(mbxAt s n).seat] [w], some none)
        else (s, some (some (spanBytes ls dla 64)))

/-- Words and bits of a line with a new SEQ go to the controller. -/
def boxTake (s : State) (n : Nat) (b : List Byte) : State :=
  let seq := numAt b 0 1
  if seq = (mbxAt s n).lastIn then s
  else
    let k := min 14 (numAt b 1 1)
    let ws := (List.range k).map fun i => word (numAt b (8 + 4 * i) 4)
    let bits := word (numAt b 4 4)
    let s := modMbx (boxPush s n ws) n fun x => { x with lastIn := seq, ackDue := true, dbTc := x.dbTc ||| bits }
    if bits &&& regAt s (boxKey .ctrl n 0x18) = 0 then s else boxIrqCtrl s n

/-- The OUT line as the controller would write it now. -/
def boxOut (x : Mbx) : List Byte :=
  let ws := x.fc.take 14
  bytesAt (le 1 (x.outSeq + 1) ++ le 1 ws.length ++ le 1 x.lastIn ++ le 1 0 ++ le 4 x.dbFc.toNat ++
    ws.flatMap fun w => le 4 w.toNat) 0 64

/-- The controller writes the OUT line, where it has something to send and the IN line has acknowledged what it sent
before. -/
def boxGive (s : State) (n ack : Nat) : State :=
  let x := mbxAt s n
  if ack ≠ x.outSeq ∨ (x.fc = [] ∧ x.dbFc = 0 ∧ x.ackDue = false) then s
  else match seatRange s x.seat x.outHpa 64 with
    | none => s
    | some (w, dla) =>
      if accessStatus s w dla 64 s.stamp ≠ stOk then s
      else
        let (s, ready) := agentPrepare (agentOpen s (boxAgent n)) (boxAgent n) w dla 64 15
        if !ready then s
        else
          let s := (agentPut s (boxAgent n) w dla 15 1024 (boxOut x) fun _ => false).1
          let s := modMbx (agentClose s (boxAgent n)) n fun y => { y with
            fc := y.fc.drop 14, dbFc := 0, ackDue := false, outSeq := (y.outSeq + 1) % 256 }
          if x.fc != [] && (mbxAt s n).fc == [] && bitOf (regN s (boxKey .ctrl n 0x1C)) 0 then boxIrqCtrl s n else s

/-- One box of a poll. -/
def pollBox (s : State) (n : Nat) : State :=
  match boxLine s n (mbxAt s n).inHpa with
  | (s, some (some b)) => boxGive (boxTake s n b) n (numAt b 2 1)
  | (s, _) => s

/-- BOX_POLL.US in ns (R467). -/
def pollNs (s : State) : Nat := max 1 (fld (regN s (mgmtBase + 0x214)) 15 0) * 1000

/-- BOX_POLL (R419): at the next whole multiple of US of powered time. A line whose holders must still answer is read at a
later poll. -/
def execBoxPoll (s : State) : Host.Outcome State Fault Refusal :=
  let s := advanceTo s ((s.now / pollNs s + 1) * pollNs s)
  if !mcUp s then .next s
  else .next (resume ((((s.mbx.filter fun e => e.2.en && e.2.mode).map (·.1)).foldl pollBox s)))

end Sys2Proof.Machine
end

