-- ==== Sys2Proof/Machine/RegView.lean ====
section
/-! DEFINITION. What every register reads as (R5, R463–R465, R467 and the register rules of each chapter), with the effects
that a read has: a LO latches its HI, a first data register takes a copy of its entry, a POP takes a word. -/

namespace Sys2Proof.Machine

open Sys2Proof

/-! ## Copies (R464) and latches (R444, R463) -/

/-- The copy of a selection register and of its latches that an agent uses. -/
def viewOf (by_ : Agent) : Nat := match by_ with
  | .ctrl => copy1
  | .fn _ => 0

/-- A selection register as an agent sees it. -/
def selAt (s : State) (by_ : Agent) (off : Nat) : Nat := regN s (off + viewOf by_)

def setLatch (s : State) (key v : Nat) : State := { s with latches := tabSet 0 s.latches key v }

/-- A read of LO: its value, with HI latched under the key of HI. -/
def readLo (s : State) (hiKey lo hi : Nat) : State × Nat := (setLatch s hiKey (hi + 1), lo)

/-- A read of HI: the latched value where a read of LO has latched one since the last read of HI, else the value now
(DEDUCED, log entry 23). -/
def readHi (s : State) (hiKey hi : Nat) : State × Nat :=
  match tabGet 0 s.latches hiKey with
  | 0 => (s, hi)
  | n + 1 => (setLatch s hiKey 0, n)

/-- Word `i` of a number. -/
def wordOf (n i : Nat) : Nat := n / 2 ^ (32 * i) % 0x100000000

/-- A read of the first data register of an entry of `words` registers: a copy of the whole entry is taken. -/
def readFirst (s : State) (key words entry : Nat) : State × Nat :=
  ((List.range words).foldl (fun t i => setLatch t (key + 4 * i) (wordOf entry i + 1)) s, wordOf entry 0)

/-- A read of another data register: the copy; zero while none has been taken. -/
def readCopy (s : State) (key : Nat) : Nat := tabGet 0 s.latches key - 1

/-! ## Entries as numbers -/

/-- Bits 17:0 of a path. -/
def pathBits (p : Path) : Nat := p.kind % 4 + p.port % 4 * 4 + p.link % 4 * 0x10 + p.id % 4096 * 0x40

/-- A seat-table entry (R56). -/
def seatEntry (x : Seat) : Nat :=
  x.raw.getD (pathBits x.p0 + pathBits x.p1 * 2 ^ 18 + b2n x.admin * 2 ^ 36 + b2n x.perfRead * 2 ^ 37) +
  seatCode x.state * 2 ^ 64 + b2n (x.pendEn.getD x.enable) * 2 ^ 67

/-- A window-table entry (R60). -/
def winEntry (x : Win) : Nat :=
  x.hpaHank % 2 ^ 31 + x.dlaHank % 2 ^ 24 * 2 ^ 32 + x.size % 2 ^ 24 * 2 ^ 64 + x.owner % 1024 * 2 ^ 88 +
  b2n x.group * 2 ^ 98 + b2n x.db * 2 ^ 99 + b2n x.elastic * 2 ^ 100 + x.aliasN % 4 * 2 ^ 101 + x.aliasSh % 64 * 2 ^ 103 +
  x.aliasQc.toNat * 2 ^ 112 + x.keySlot % 4096 * 2 ^ 128 + x.mirror % 4 * 2 ^ 140 + b2n x.secondary * 2 ^ 142 +
  b2n x.napOk * 2 ^ 143 + b2n x.pin * 2 ^ 144 + x.clevel % 4 * 2 ^ 145 + b2n x.dbhV * 2 ^ 147 +
  x.dbhHank % 2 ^ 24 * 2 ^ 148 + winCode x.state * 2 ^ 192 + b2n (x.pendEn.getD x.enable) * 2 ^ 195 + b2n x.dc * 2 ^ 196

/-- Part `p` of a sharing group's mask (R59, R465): seats 256p to 256p + 255. -/
def groupPart (s : State) (g p : Nat) : Nat :=
  (groupAt s g).eraseDups.foldl (fun a n => if n / 256 = p then a + 2 ^ (n % 256) else a) 0

def ringCode : RingState → Nat
  | .none => 0
  | .disabled => 1
  | .enabled => 2
  | .disabling => 3
  | .halted => 4

/-- A ring-table entry (R204). -/
def ringEntry (x : Ring) : Nat :=
  x.seat % 1024 + x.lcl % 64 * 2 ^ 16 + x.qc % 16 * 2 ^ 24 + b2n x.enable * 2 ^ 28 + ringCode x.st * 2 ^ 29 +
  x.ops.toNat % 2 ^ 14 * 2 ^ 32 + x.sqBase % 2 ^ 40 * 2 ^ 48 + x.cqBase % 2 ^ 40 * 2 ^ 88 + x.size % 16 * 2 ^ 136 +
  x.vector % 32 * 2 ^ 140 + x.inflight % 64 * 2 ^ 145 + b2n x.phase * 2 ^ 151 + x.sqHead % 2 ^ 16 * 2 ^ 160 +
  x.sqTail % 2 ^ 16 * 2 ^ 176 + x.cqHead % 2 ^ 16 * 2 ^ 192 + x.cqTail % 2 ^ 16 * 2 ^ 208

def ksCode : KsState → Nat
  | .free => 0
  | .active => 1
  | .rekeying => 2

/-- A key slot's status entry (R174). -/
def slotEntry (x : Slot) : Nat :=
  x.win % 4096 + x.gen % 16 * 2 ^ 16 + ksCode x.st * 2 ^ 20 + b2n x.peer * 2 ^ 23 + x.rekeys % 2 ^ 16 * 2 ^ 32 +
  x.done % 2 ^ 24 * 2 ^ 64

/-- A creel entry (R96). -/
def creelEntry (c : Centry) : Nat :=
  c.line % 2 ^ 39 + centryMid c % 2 ^ 12 * 2 ^ 39 + centrySharers c % 2 ^ 40 * 2 ^ 64

/-- The table entry that a SEATWIN selection names (R465), with its number of words; none where it selects nothing. -/
def seatwinEntry (s : State) (sel : Nat) : Nat × Nat :=
  let i := fld sel 11 0
  match fld sel 31 30 with
  | 0 => if i < 1024 then (4, seatEntry (seatAt s i)) else (4, 0)
  | 1 => (8, winEntry (winAt s i))
  | 2 => if i < 1024 then (8, groupPart s (i / 4) (i % 4)) else (8, 0)
  | _ => (8, 0)

/-- The skein entry that a selection names: fetched into the cache where it is not there (R147). A hank of another slice,
a hank outside the window and a page of a hank that is not PAGED read as zeros. -/
def skeinEntry (s : State) (n sel off : Nat) : State × Nat :=
  let w := fld sel 23 12
  let off := fld off 23 0
  let pg := fld sel 8 0
  if (winAt s w).size ≤ off ∨ sknSlice (hankDla s w off) ≠ n then (s, 0)
  else
    let s := if cached s (entryKey w off none) then s else fetchKey s w off none false
    if bitOf sel 31 then
      if (hankAt s w off).mode = .paged then
        (if cached s (entryKey w off (some pg)) then s else fetchKey s w off (some pg) false, pageEntry (pageAt s (pageKey w off pg)))
      else (s, 0)
    else (s, hankEntry (hankAt s w off))

/-! ## Counters and plain registers -/

/-- A 31-bit statistics counter with SAT lies here (R53). -/
def isCounter : Blk → Nat → Bool
  | .pmu, r => r == 0x50
  | .pwr, r => r == 0x160 || r == 0x164 || r == 0x168
  | .hsw, r => r == 0x14
  | .qos, r => r == 0xD4
  | .trk, r => r == 0x14
  | .seatwin, r => r == 0x11C
  | .ring, r => r == 0x48 || r == 0x4C || r == 0x50 || r == 0x54
  | .card, r => decide (0x40 ≤ r) && decide (r ≤ 0x58) && r % 4 == 0
  | .crl _, r => r == 0x08 || r == 0x0C || r == 0x10
  | .skn _, r => r == 0x08 || r == 0x0C
  | .spn _, r => r == 0x1C || r == 0x20 || r == 0x24
  | .ch _, r => r == 0x50 || r == 0x54 || r == 0x58 || r == 0x5C || r == 0x800C || r == 0x8010 || r == 0x8014 || r == 0x8018
  | .st _, r => r == 0x10 || r == 0x14 || r == 0x18
  | .ply n, r => (decide (0x10 ≤ r) && decide (r ≤ 0x24) && r % 4 == 0) || (n == 0 && r == 0x58)
  | _, _ => false

/-- Word `i` of a byte list. -/
def byteWord (b : List Byte) (i : Nat) : Nat := numAt b (4 * i) 4

/-! ## The central blocks -/

/-- GLB (R3, R324, R325, R399). -/
def getGlb (s : State) (r : Nat) : Option (State × Nat) :=
  if r = 0 then
    some (s, 0x9A1 * 0x100000 + (if s.boot.partH then 2 else 1) * 0x10000 + s.boot.stepMajor % 16 * 0x1000 +
      s.boot.stepMinor % 16 * 0x100)
  else if r = 0x180 then some (s, 0)
  else if r = 0x200 then
    some (s, imgCode s.img.st * 0x40000000 + b2n s.img.locked * 0x20000000 + s.img.bank % 2 * 0x10000000 +
      s.img.result % 16 * 0x1000000 + s.img.detail % 256 * 0x10000 + s.img.svn % 256 * 0x100)
  else if r = 0x204 then some (s, wordOf s.img.imgId 0)
  else if r = 0x208 then some (s, wordOf s.img.imgId 1)
  else if r = 0x210 then some (readFirst s 0x210 8 (leNat (imgDigest s)))
  else if 0x214 ≤ r ∧ r < 0x230 ∧ r % 4 = 0 then some (s, readCopy s r)
  else none

/-- PMU (R455–R457). -/
def getPmu (s : State) (by_ : Agent) (r : Nat) : Option (State × Nat) :=
  let (lo, hi) := ctrPair s (selAt s by_ (pmuBase + 8))
  match r with
  | 0x04 => some (s, b2n s.pmu.irqSamp * 2 + b2n s.pmu.irqOvf)
  | 0x08 => some (s, selAt s by_ (pmuBase + 8))
  | 0x0C => some (readLo s (pmuBase + 0x10 + viewOf by_) lo hi)
  | 0x10 => some (readHi s (pmuBase + 0x10 + viewOf by_) hi)
  | 0x40 => some (s, regN s (pmuBase + 0x40) % 0x1000000 + b2n s.pmu.en * 0x80000000)
  | 0x4C => some (s, b2n s.pmu.busy * 0x80000000 + s.pmu.stop % 8 * 0x10000000)
  | _ => if 0x20 ≤ r ∧ r ≤ 0x30 ∧ r % 4 = 0 then some (s, ovfSum s ((r - 0x20) / 4)) else none

/-- SEC (R182–R184, R440–R442). -/
def getSec (s : State) (by_ : Agent) (r : Nat) : Option (State × Nat) :=
  let v := viewOf by_
  match r with
  | 0x20 => some (s, lcCode s.sec.lc * 0x20000000 + b2n s.sec.debug * 0x10000000 + b2n (lcRuns s) * 0x8000000 +
      s.sec.last % 8 * 0x1000000)
  | 0x24 => some (s, s.sec.fwSvn % 256 * 0x10000 + s.sec.osvn % 256 * 0x100 + s.sec.vsvn % 256)
  | 0x28 => some (s, s.sec.bank % 2 * 0x80000000 + b2n s.sec.started * 0x40000000 + b2n s.sec.confirmed * 0x20000000 +
      s.sec.resB % 16 * 0x10 + s.sec.resA % 16)
  | 0x2C => some (s, b2n s.sec.confirmed)
  | 0x100 => some (s, selAt s by_ (secBase + 0x100))
  | 0x104 => some (readFirst s (secBase + 0x104 + v) 4 (slotEntry (slotAt s (fld (selAt s by_ (secBase + 0x100)) 11 0))))
  | 0x114 => some (s, (s.slots.filter fun e => e.2.st == .rekeying).length * 0x10000 +
      (s.slots.filter fun e => e.2.st != .free).length)
  | 0x118 => some (s, b2n (decide (0xFFFF ≤ s.keys.fails)) * 0x80000000 + b2n s.keys.failSeen * 0x40000000 +
      b2n s.keys.trngOk * 0x10000 + s.keys.fails % 0x10000)
  | _ =>
    if r < 0x18 ∧ r % 4 = 0 then some (s, byteWord (bytesAt Config.identityRecord 0 24) (r / 4))
    else if 0x40 ≤ r ∧ r < 0x60 ∧ r % 4 = 0 then some (s, byteWord idDigest ((r - 0x40) / 4))
    else if 0x60 ≤ r ∧ r < 0x80 ∧ r % 4 = 0 then
      some (s, if s.sec.lc = .blank then 0 else byteWord (bytesAt s.sec.ownerDig 0 32) ((r - 0x60) / 4))
    else if 0x108 ≤ r ∧ r ≤ 0x110 ∧ r % 4 = 0 then some (s, readCopy s (secBase + r + v))
    else none

def domCode : DomSt → Nat
  | .run => 0
  | .idle => 1
  | .nap => 2
  | .doze => 3
  | .off => 4
  | .sleeping => 5
  | .waking => 6

/-- PWR (R374, R377–R380). -/
def getPwr (s : State) (r : Nat) : Option (State × Nat) :=
  match r with
  | 0x120 => some (s, s.power.lastResult % 8 * 0x20000000 + s.power.lastDomain % 32 * 0x1000000 +
      s.power.lastReason % 256 * 0x10000 + s.power.lastGroup % 16 * 0x1000)
  | 0x130 => some (s, b2n s.power.dvfs.isSome * 0x80000000 + s.power.result % 4 * 0x4000000 + s.power.op % 4 * 0x10 +
      s.power.stored.getD s.power.target % 4)
  | 0x134 => some (s, b2n s.power.ldoNormal * 0x80000000 + b2n s.power.ldoReady * 0x40000000)
  | 0x140 => some (s, b2n (decide (0xFFFF ≤ s.boot.boCnt)) * 0x80000000 + s.boot.boCnt % 0x10000 * 0x100 +
      s.boot.boSrc % 16 * 0x10 + s.boot.cause % 16)
  | 0x144 => some (s, s.boot.prevMs % 0x100000000)
  | 0x148 => some (s, s.boot.prevBoot % 0x100000000)
  | 0x150 => some (readLo s (pwrBase + 0x154) (wordOf (us s) 0) (wordOf (us s) 1))
  | 0x154 => some (readHi s (pwrBase + 0x154) (wordOf (us s) 1))
  | 0x158 => some (s, s.boot.bootCount % 0x100000000)
  | _ =>
    if r < 4 * 26 ∧ r % 4 = 0 then
      let d := r / 4
      some (s, domCode (domAt s d).st * 0x20000000 + b2n (hostPath s d) * 0x10000000 + b2n (napPerm s d) * 0x8000000 +
        (domAt s d).deepest % 4 * 0x2000000 + grpOf s d % 16 * 0x200000)
    else if ((0x80 ≤ r ∧ r < 0x80 + 4 * 26) ∨ (0x100 ≤ r ∧ r < 0x120)) ∧ r % 4 = 0 then some (s, regN s (pwrBase + r))
    else none

/-- HSW (R397). -/
def getHsw (s : State) (r : Nat) : Option (State × Nat) :=
  let h := s.hsw
  match r with
  | 0x08 => some (s, hswCode h.st * 0x20000000 + b2n h.pg * 0x10000000 + h.cause % 4 * 0x4000000 + h.tries % 16 * 0x400000 +
      (h.t / 1000000000000).toNat % 256 * 0x100)
  | 0x0C => some (s, h.vin / 20 % 1024 * 0x400000 + h.vout / 20 % 1024 * 0x1000 + h.vsn / 25 % 4096)
  | _ => none

/-- The record at a ring index (R414). -/
def logRecord (s : State) (i : Nat) : List Byte :=
  match s.log.ring.find? fun e => e.1 % 8192 == i with
  | some e => eventBytes e.2
  | none => []

/-- MGMT (R401, R406, R410, R416, R467). -/
def getMgmt (s : State) (by_ : Agent) (r : Nat) : Option (State × Nat) :=
  let v := viewOf by_
  let box := selAt s by_ (mgmtBase + 0x200)
  let boxOk := decide (1 ≤ box) && decide (box ≤ 15)
  match r with
  | 0x30 => some (s, regN s (mgmtBase + 0x30) % 0x10000 + b2n s.mgmt.calBusy * 0x80000000)
  | 0x34 => some (s, b2n s.mgmt.calBusy * 0x80000000 + s.mgmt.calSteps % 256)
  | 0x38 => some (s, s.mgmt.calCount % 0x100000000)
  | 0x3C => some (readLo s (mgmtBase + 0x40) (wordOf s.mgmt.calLast 0) (wordOf s.mgmt.calLast 1))
  | 0x40 => some (readHi s (mgmtBase + 0x40) (wordOf s.mgmt.calLast 1))
  | 0x50 => some (s, s.log.written % 8192)
  | 0x54 => some (s, b2n (decide (0x7FFF ≤ s.log.lostFlash) || decide (0xFFFF ≤ s.log.lostRing)) * 0x80000000 +
      s.log.lostFlash % 0x8000 * 0x10000 + s.log.lostRing % 0x10000)
  | 0x58 => some (s, selAt s by_ (mgmtBase + 0x58))
  | 0x5C => some (readFirst s (mgmtBase + 0x5C + v) 8 (leNat (logRecord s (fld (selAt s by_ (mgmtBase + 0x58)) 12 0))))
  | 0x200 => some (s, box)
  | 0x204 => some (s, if boxOk then wordOf (mbxAt s box).inNext 0 else 0)
  | 0x208 => some (s, if boxOk then wordOf (mbxAt s box).inNext 1 else 0)
  | 0x20C => some (s, if boxOk then wordOf (mbxAt s box).outNext 0 else 0)
  | 0x210 => some (s, if boxOk then wordOf (mbxAt s box).outNext 1 else 0)
  | _ =>
    if 0x60 ≤ r ∧ r ≤ 0x78 ∧ r % 4 = 0 then some (s, readCopy s (mgmtBase + r + v))
    else if 0x100 ≤ r ∧ r < 0x100 + 4 * 24 ∧ r % 4 = 0 then
      some (s, b2n s.mgmt.scanOk * 0x8000 + (s.mgmt.temps.getD ((r - 0x100) / 4) 0 % 4096).toNat)
    else if 0x180 ≤ r ∧ r < 0x1A0 ∧ r % 4 = 0 then
      let m := (r - 0x180) / 4
      let mv := s.mgmt.rails.getD m 0
      some (s, b2n (s.mgmt.scanOk && railHigh s m mv) * 0x20000 + b2n (s.mgmt.scanOk && railLow s m mv) * 0x10000 +
        mv % 0x10000)
    else none

/-- A slot table as a number (R287). -/
def slotBits : List Nat → Nat
  | [] => 0
  | x :: t => x % 32 + 32 * slotBits t

/-- QOS (R284–R287). -/
def getQos (s : State) (by_ : Agent) (r : Nat) : Option (State × Nat) :=
  let net := fld (selAt s by_ (qosBase + 0x100)) 1 0
  match r with
  | 0xC4 => some (s, s.qos.adm % 0x10000)
  | 0xC8 => some (s, limitOf (wTimes s) % 0x10000)
  | 0xCC => some (s, b2n (decide (s.qos.scale < 1024)) * 0x80000000 + s.qos.refuse % 4 * 0x20000000 +
      s.qos.scale % 2048 * 0x10000 + guarSum s % 0x4000)
  | 0xD0 => some (s, b2n s.qos.qc0Over)
  | 0x100 => some (s, selAt s by_ (qosBase + 0x100))
  | _ => if 0x104 ≤ r ∧ r ≤ 0x128 ∧ r % 4 = 0 then
      some (s, wordOf (slotBits (s.fabric.slots.getD net [])) ((r - 0x104) / 4)) else none

/-- TRK (R85). -/
def getTrk (s : State) (r : Nat) : Option (State × Nat) :=
  if 0x40 ≤ r ∧ r ≤ 0x50 ∧ r % 4 = 0 then
    some (s, reserveUsed s ((r - 0x40) / 4) * 0x10000 + generalUsed s ((r - 0x40) / 4))
  else none

/-- SEATWIN (R68, R465). -/
def getSeatwin (s : State) (by_ : Agent) (r : Nat) : Option (State × Nat) :=
  let v := viewOf by_
  let e := seatwinEntry s (selAt s by_ seatwinBase)
  match r with
  | 0x00 => some (s, selAt s by_ seatwinBase)
  | 0x04 => some (readFirst s (seatwinBase + 4 + v) 8 e.2)
  | 0x104 => some (s, s.ledger.p % 0x2000000)
  | 0x108 => some (s, s.ledger.g % 0x2000000)
  | 0x10C => some (s, s.ledger.d % 0x2000000)
  | 0x110 => some (s, s.ledger.elim % 0x2000000)
  | 0x114 => some (s, s.ledger.e % 0x2000000)
  | 0x118 => some (s, s.ledger.refuse % 8 * 0x10 + s.ledger.level % 4)
  | _ => if 0x08 ≤ r ∧ r ≤ 0x20 ∧ r % 4 = 0 then some (s, readCopy s (seatwinBase + r + v)) else none

/-- RING (R227, R228). -/
def getRing (s : State) (by_ : Agent) (r : Nat) : Option (State × Nat) :=
  let v := viewOf by_
  match r with
  | 0x00 => some (s, selAt s by_ ringBase)
  | 0x04 => some (readFirst s (ringBase + 4 + v) 8 (ringEntry (ringAt s (fld (selAt s by_ ringBase) 12 0))))
  | 0x44 => some (s, (s.rings.filter fun e => e.2.st == .enabled).length * 0x10000 +
      s.spn.foldl (fun a e => a + (e.2.slots.filter fun x => match x.2.job with
        | .desc _ _ => true
        | _ => false).length) 0)
  | _ => if 0x08 ≤ r ∧ r ≤ 0x20 ∧ r % 4 = 0 then some (s, readCopy s (ringBase + r + v)) else none

/-- Guaranteed hanks with FILL set (R125, R145): those that nothing has changed yet, and those listed with FILL. -/
def fillPend (s : State) : Nat :=
  s.wins.foldl (fun a e =>
    if e.2.size = 0 ∨ e.2.elastic then a
    else
      let listed := s.hanks.filter fun h => decide (hankKey e.1 0 ≤ h.1) && decide (h.1 < hankKey e.1 0 + e.2.size)
      a + (e.2.size - listed.length) + (listed.filter fun h => match h.2 with
        | some x => x.fill
        | none => true).length) 0

/-- CARD (R145). -/
def getCard (s : State) (r : Nat) : Option (State × Nat) :=
  match r with
  | 0x28 => some (s, redHanks s % 0x2000000)
  | 0x2C => some (s, freeF s / 16 % 0x100000000)
  | 0x30 => some (s, s.carder.demo.length % 0x2000 * 0x10000 + promoQ s % 0x2000)
  | 0x34 => some (s, fillPend s % 0x2000000)
  | _ => none

/-! ## The replicated blocks -/

/-- HPn (R49–R54). -/
def getHp (s : State) (n r : Nat) : Option (State × Nat) :=
  let l := linkAt s (linkKey n (r / 0x40 % 4))
  if r = 0x10 then some (s, (portAt s n).bifSts.toNat)
  else if r < 0x100 ∨ 0x200 ≤ r then none
  else match r % 0x40 with
    | 0 => some (s, l.inv.toNat * 0x10000 + b2n l.mem * 0x8000 + b2n l.reversed * 0x4000 + l.flit % 4 * 0x1000 +
        l.rate % 8 * 0x200 + l.width % 32 * 0x10 + b2n (l.ideMem = .active) * 2 + b2n (l.ideLink = .active) * 4 +
        b2n (l.ideSel = .active) * 8 + b2n l.up)
    | 4 => some (s, l.evt.toNat)
    | 8 => some (s, b2n (decide (31 ≤ l.proto)) * 0x80000000 + b2n (decide (4095 ≤ l.replay)) * 0x40000000 +
        b2n (decide (4095 ≤ l.crc)) * 0x20000000 + l.proto % 32 * 0x1000000 + l.replay % 4096 * 0x1000 + l.crc % 4096)
    | _ => none

/-- CRLn (R119, R121, R122). -/
def getCrl (s : State) (by_ : Agent) (n r : Nat) : Option (State × Nat) :=
  let v := viewOf by_
  let x := sliceAt s n
  let sel := selAt s by_ (crlBase n + 0x20)
  match r with
  | 0x04 => some (s, b2n x.ready * 0x80000000 + b2n x.recov * 0x40000000 + x.rr % 1024 * 0x100000 +
      x.confq.length % 1024 * 0x100 + (xingsOf s n).length % 256)
  | 0x20 => some (s, sel)
  | 0x24 => some (readFirst s (crlBase n + 0x24 + v) 4 (creelEntry (creelAt s (wayKey n (fld sel 13 0) (fld sel 19 16)))))
  | 0x40 => some (s, if n = 0 then serialCause s % 16 * 0x10 + regN s (crlBase 0 + 0x40) % 2 else 0)
  | _ => if 0x28 ≤ r ∧ r ≤ 0x30 ∧ r % 4 = 0 then some (s, readCopy s (crlBase n + r + v)) else none

/-- Pinned hanks of a slice (R126): those listed with PIN. -/
def pinnedOf (s : State) (n : Nat) : List Nat :=
  (s.wins.filter fun e => e.2.size != 0 && e.2.pin).flatMap fun e =>
    (s.hanks.filter fun h => decide (hankKey e.1 0 ≤ h.1) && decide (h.1 < hankKey e.1 0 + e.2.size) &&
      sknSlice (hankDla s e.1 (h.1 - hankKey e.1 0)) == n && match h.2 with
        | some x => x.pin
        | none => false).map (·.1)

/-- SKNn (R147). READY: an image is applied and every pinned entry is in the cache (DEDUCED, log entry 23). -/
def getSkn (s : State) (by_ : Agent) (n r : Nat) : Option (State × Nat) :=
  let v := viewOf by_
  match r with
  | 0x00 => some (s, b2n (s.img.st != .none && (pinnedOf s n).all fun k => cached s (2 * k)) * 0x80000000 +
      (pinnedOf s n).length % 0x20000)
  | 0x20 => some (s, selAt s by_ (sknBase n + 0x20))
  | 0x34 => some (s, selAt s by_ (sknBase n + 0x34))
  | 0x24 =>
    let (s, e) := skeinEntry s n (selAt s by_ (sknBase n + 0x20)) (selAt s by_ (sknBase n + 0x34))
    some (readFirst s (sknBase n + 0x24 + v) 4 e)
  | _ => if 0x28 ≤ r ∧ r ≤ 0x30 ∧ r % 4 = 0 then some (s, readCopy s (sknBase n + r + v)) else none

/-- STATE of a spindle (R195, R199): FAILED stays, then DOZE with its quadrant, and an OFF spindle is gated (DEDUCED, log
entry 102). -/
def spnState (s : State) (n : Nat) : SpnState :=
  let x := spnAt s n
  if x.st = .failed then .failed
  else if (domAt s (quadDom n)).st = .doze then .doze
  else if x.home = 0 then .gated
  else x.st

/-- CUR_ROLE (R199): the role being lent to while only borrowed units are in slots, else the home role (DEDUCED, log entry
104). -/
def curRole (x : Spindle) : Nat :=
  if homeUnits x = 0 then (match x.slots with
    | (_, u) :: _ => u.role
    | [] => x.home) else x.home

def spnCode : SpnState → Nat
  | .run => 0
  | .gated => 1
  | .doze => 2
  | .failed => 3

/-- SPNn (R199–R201, R444). -/
def getSpn (s : State) (n r : Nat) : Option (State × Nat) :=
  let x := spnAt s n
  let cyc := cycleCount s (quadDom n)
  match r with
  | 0x00 => some (s, spnCode (spnState s n) * 0x40000000 + curRole x % 8 * 0x4000000 + x.slots.length % 64 * 0x10000)
  | 0x04 => some (s, (x.newRole.getD (x.home, x.lend)).1 % 8 * 0x10000 +
      (x.newRole.getD (x.home, x.lend)).2.toNat * 0x100)
  | 0x10 => some (s, x.ucode % 0x100000000)
  | 0x14 => some (s, b2n x.pcNew * 0x80000000 + x.pcSlot % 32 * 0x4000000 + x.pcRole % 8 * 0x800000 + x.pc % 0x2000)
  | 0x28 => some (readLo s (spnBase n + 0x2C) (wordOf cyc 0) (wordOf cyc 1))
  | 0x2C => some (readHi s (spnBase n + 0x2C) (wordOf cyc 1))
  | _ =>
    if 0x30 ≤ r ∧ r < 0x50 ∧ r % 4 = 0 then
      let c := ctrAt s (ctrKey 4 n ((r - 0x30) / 8))
      if r % 8 = 0 then some (readLo s (spnBase n + r + 4) (ctrLo c) (ctrHi c))
      else some (readHi s (spnBase n + r) (ctrHi c))
    else none

/-- CHn (R235, R247–R252, R258–R260). -/
def getCh (s : State) (n r : Nat) : Option (State × Nat) :=
  let x := chAt s n
  match r with
  | 0x00 =>
    let d := x.dimms.elim 0 fun d => (1 + b2n d.slot1) * 0x4000000 + (if d.mrdimm then 2 else 1) * 0x1000000 +
      d.densCode % 4 * 0x400000 + rselOf d % 8 * 0x80000 + capOf x / 0x40000000 % 1024 * 0x200
    some (s, chanCode x.st * 0x20000000 + b2n x.hot * 0x10000000 + d + (if x.kind3 then 0x3000000 else 0))
  | 0x08 => some (s, x.mapBase % 0x400000)
  | 0x10 => some (s, x.trfc % 0x10000 * 0x10000 + (if x.hot then 1950 else 3900))
  | 0x14 => some (s, x.tmax % 256)
  | 0x1C => some (s, b2n (x.throttles.any fun t => t.who.isNone) * 0x40 + (x.throttles.filter fun t => t.who.isSome).length % 64)
  | 0x24 => some (s, b2n (x.start || x.startNext))
  | 0x28 => some (s, b2n x.busy * 0x80000000 + x.step % 16 * 0x8000000 + x.lastRes % 8 * 0x1000000 + x.lastUs % 0x1000000)
  | 0x40 => some (s, if n = 0 then
      b2n s.rate.busy * 0x80000000 + s.rate.alt % 8 * 0x1000 + b2n s.rate.altV * 0x800 + s.rate.cur % 8 * 0x100 +
      fld (regN s (chBase 0 + 0x40)) 6 4 * 0x10 + s.rate.stored.getD s.rate.target % 8 else 0)
  | 0x8008 => some (s, b2n x.lbOvf * 0x80000000 + x.lbLevel % 0x10000)
  | 0x801C => some (s, x.ceBits % 128 * 0x40000 + x.ceCol % 128 * 0x800 + x.ceRank % 32 * 0x40 + x.ceSub % 2 * 0x20 +
      b2n x.ceV * 0x10 + x.ceDev % 16)
  | 0x8020 => some (s, x.ceBank % 32 * 0x40000 + x.ceRow % 0x40000)
  | _ => none

/-- Ports of a station with an endpoint. -/
def portBits (n : Nat) : Nat := (List.range 4).foldl (fun a i => if hasEndpoint n i then a + 2 ^ i else a) 0

/-- STn (R303–R305). -/
def getSt (s : State) (n r : Nat) : Option (State × Nat) :=
  let x := stAt s n
  match r with
  | 0x00 => some (s, b2n s.fabric.ring2 * 0x10000 + portBits n * 0x1000 + n / 12 % 4 * 0x100 + n / 8 % 8 * 0x10 + n % 8)
  | 0x04 => some (s, b2n x.epoch * 0x80000000 + b2n x.shadowV * 0x40000000 + x.oldCnt % 0x10000)
  | 0x08 => some (s, x.linkFail.toNat * 0x10000 + x.cause.toNat * 0x100 + x.dead.toNat)
  | 0x0C => some (s, x.fenced.toNat * 0x10000000 +
      ((List.range 4).foldl (fun a i => a + (bqOf x i).length % 64 * 64 ^ i) 0))
  | 0x1C => some (s, if n = 0 then b2n s.fabric.busy * 0x80000000 + b2n s.fabric.flipped * 0x40000000 +
      b2n s.fabric.epoch * 0x20000000 + ((List.range 48).filter fun i => (stAt s i).oldCnt != 0).length else 0)
  | _ => none

def msCode : MState → Nat
  | .off => 0
  | .sync => 1
  | .degraded => 2
  | .resync => 3
  | .mismatch => 4

/-- Lag of a window in µs (R340, R341): the age of its oldest write that has no MACK. -/
def lagUs (s : State) (w : Nat) : Nat :=
  min 64 (((s.pair.fwds.filter fun f => f.win == w && !f.rs).map fun f => (s.now - f.at_) / 1000).foldl max 0)

/-- PLYn (R352–R356). -/
def getPly (s : State) (by_ : Agent) (n r : Nat) : Option (State × Nat) :=
  let x := plyAt s n
  let w := fld (selAt s by_ (plyBase 0 + 0x44)) 11 0
  match r with
  | 0x00 => some (s, plyCode x.st * 0x20000000 + b2n x.init * 0x10000000 + b2n x.tailErr * 0x8000000 +
      x.rxWidth % 32 * 0x400 + x.txWidth % 32 * 0x20 + x.maxWidth % 32)
  | 0x08 => some (s, x.replay.length % 2048 * 0x400 + x.credRsp % 1024)
  | _ =>
    if n ≠ 0 then none
    else match r with
      | 0x44 => some (s, selAt s by_ (plyBase 0 + 0x44))
      | 0x48 => some (s, msCode (winAt s w).ms * 0x20000000 + b2n (winAt s w).secondary * 0x10000000 +
          (dirtyHanks s w).length % 0x2000000)
      | 0x4C => some (s, lagUs s w)
      | 0x50 => some (s, b2n s.pair.rebuild * 0x80000000 + b2n s.pair.uncertain * 0x40000000 + s.pair.nPromoted % 4096)
      | _ => none

/-! ## Any register -/

/-- A register with a value of its own at an offset of a block. -/
def getSpecial (s : State) (by_ : Agent) (b : Blk) (r : Nat) : Option (State × Nat) :=
  match b with
  | .glb => getGlb s r
  | .pmu => getPmu s by_ r
  | .sec => getSec s by_ r
  | .pwr => getPwr s r
  | .hsw => getHsw s r
  | .mgmt => getMgmt s by_ r
  | .qos => getQos s by_ r
  | .trk => getTrk s r
  | .seatwin => getSeatwin s by_ r
  | .ring => getRing s by_ r
  | .card => getCard s r
  | .hp n => getHp s n r
  | .crl n => getCrl s by_ n r
  | .skn n => getSkn s by_ n r
  | .spn n => getSpn s n r
  | .ch n => getCh s n r
  | .st n => getSt s n r
  | .ply n => getPly s by_ n r
  | .mbx n => if r < 0x20 ∧ r % 4 = 0 then some (getBox s by_ n r) else none

/-- A plain register lies at an offset of a block. -/
def isPlain (b : Blk) (r : Nat) : Bool := (regInfoAt b r).rw != 0 || (regInfoAt b r).rwl != 0

/-- The state after a read of one register, and what it returns. Where no register that the manual names lies, a function
reads zeros; the controller may find one of the vendor test registers, whose contents the manual does not give (R460,
DESIGN CHOICE, log entry 24). -/
def getReg (s : State) (by_ : Agent) (off : Nat) : State × Nat :=
  match blockOf off with
  | none => (s, 0)
  | some (b, r) =>
    match getSpecial s by_ b r with
    | some x => x
    | none =>
      if isCounter b r then (s, cntImage s off)
      else if isPlain b r then (s, regN s off)
      else match by_ with
        | .ctrl => (nextFree s, Config.freeNat s.free % 0x100000000)
        | .fn _ => (s, 0)

end Sys2Proof.Machine
end

