-- ==== Sys2Proof/Machine/Bar0.lean ====
section
/-! DEFINITION. What a link-owner function holds beside BAR2: BAR0 with the component registers (HDM decoders, RAS, IDE), the
device registers, the MSI-X table and its pending bits (R26, R45, R64, R458), BAR4 with the doorbell pages (R208, R466), and the
part of its configuration space that the manual speaks of (R26, R27, R45, R46). REGISTER_READ and REGISTER_WRITE reach them at
offsets of their own (DESIGN CHOICE, log entry 99); the places of the structures within BAR0 and the configuration space, and
their layouts, are those of CXL and PCIe (PRESUMED, log entry 100). -/

namespace Sys2Proof.Machine

open Sys2Proof

/-- Spaces of a function, by the high bits of an access's offset (log entry 99). -/
inductive FnSpace where
  | bar0 | bar4 | config
  deriving DecidableEq, Repr

/-- The space of a function that an access names, and the offset within it: none for BAR2 and for the controller. -/
def fnSpace (by_ : Agent) (off : Nat) : Option (Fn × FnSpace × Nat) :=
  match by_, off / 0x10000000 with
  | .fn f, 1 => if off % 0x10000000 < 0x10000 then some (f, .bar0, off % 0x10000000) else none
  | .fn f, 2 => if off % 0x10000000 < 0x400000 then some (f, .bar4, off % 0x10000000) else none
  | .fn f, 3 => if off % 0x10000000 < 0x1000 then some (f, .config, off % 0x10000000) else none
  | _, _ => none

/-! ## HDM decoders (R64) -/

/-- An alias range as a function reports it: base, size, and whether the window is HDM-DB. -/
structure Decoder where
  base : Nat := 0
  size : Nat := 0
  db   : Bool := false
  deriving DecidableEq, Repr

/-- The HDM decoders of a function: one for each alias range of its seat, in window-table order (R64). -/
def decoders (s : State) (f : Fn) : List Decoder :=
  match fnSeat s f with
  | none => []
  | some seat => (s.wins.filter fun e => reaches s seat e.1).flatMap fun e =>
      (List.range (e.2.aliasN + 1)).map fun k => { base := aliasBase e.2 k, size := winBytes e.2, db := e.2.db }

/-- First HDM decoder register, and the decoders that the space before the device registers holds. -/
def hdmBase : Nat := 0x1400
def hdmRoom : Nat := 351

/-- Decoder Count of the HDM Decoder Capability: the least value that counts all of them. -/
def decoderCode (n : Nat) : Nat :=
  ((List.range 13).find? fun i => decide (n ≤ ([1, 2, 4, 6, 8, 10, 12, 14, 16, 20, 24, 28, 32] : List Nat).getD i 0)).getD 12

/-- A register of decoder `d`: base, size and control, with Lock On Commit, Commit and Committed set and interleave ways 1 (R64). -/
def decoderReg (d : Decoder) (r : Nat) : Nat :=
  match r with
  | 0x00 => wordOf d.base 0
  | 0x04 => wordOf d.base 1
  | 0x08 => wordOf d.size 0
  | 0x0C => wordOf d.size 1
  | 0x10 => if d.size = 0 then 0 else 0x700 + b2n (!d.db) * 0x1000 + b2n d.db * 0x2000
  | _ => 0

/-- A read of the HDM decoder capability at offset `r`. Nothing there is ever written: every decoder is locked (R64). -/
def hdmReg (s : State) (f : Fn) (r : Nat) : Nat :=
  if r = 0 then decoderCode (decoders s f).length
  else if r < 0x10 ∨ hdmRoom ≤ (r - 0x10) / 0x20 then 0
  else decoderReg ((decoders s f).getD ((r - 0x10) / 0x20) {}) ((r - 0x10) % 0x20)

/-! ## BAR0 (R26, R45) -/

/-- RAS capability registers that a write changes: those of which a 1 clears a bit, and those that store. -/
def rasClears (off : Nat) : Bool := off == 0x1200 || off == 0x120C
def rasStores (off : Nat) : Bool := off == 0x1204 || off == 0x1208 || off == 0x1210 || off == 0x1214

/-- Status of the CXL.cachemem stream in the IDE capability: containment mode when active, else insecure (R38, R39). -/
def ideStatus (l : Link) : Nat := if l.ideMem = .active then 0x11 else 0x44

/-- The capability array of the component registers: CXL, RAS, HDM decoder and IDE. -/
def componentHeader (off : Nat) : Nat :=
  match off with
  | 0x1000 => 0x03110001
  | 0x1004 => 0x20020002
  | 0x1008 => 0x40030005
  | 0x100C => 0x30020007
  | _ => 0

/-- Bits of the event status register: a record of each severity in view. -/
def eventStatus (s : State) (f : Fn) : Nat :=
  let has := fun (p : Event → Bool) => b2n (s.log.ring.any fun r =>
    (match fnSeat s f with
      | some seat => inView s seat r.2
      | none => decide (sevErr ≤ r.2.sev)) && p r.2)
  has (fun e => decide (e.sev ≤ sevNote)) + has (fun e => e.sev == sevWarn) * 2 + has (fun e => e.sev == sevErr) * 4 +
  has (fun e => e.sev == sevFatal) * 8

/-- The device registers at 0x4000: the capability array, the device status, the primary mailbox, whose commands are rows of
their own, and the memory device status. -/
def deviceReg (s : State) (f : Fn) (off : Nat) : Nat :=
  let x := fnAt s (fnKey f)
  match off with
  | 0x4000 => 0x01010000
  | 0x4004 => 3
  | 0x4010 => 0x00010001
  | 0x4014 => 0x80
  | 0x4018 => 8
  | 0x4020 => 0x00010002
  | 0x4024 => 0x100
  | 0x4028 => 0x820
  | 0x4030 => 0x00014000
  | 0x4034 => 0x90
  | 0x4038 => 8
  | 0x4080 => eventStatus s f
  | 0x4090 => b2n (mcUp s) * 0x10 + 4
  | 0x4100 => 0x6B
  | 0x4110 => b2n (x.bg != 0)
  | 0x4118 => x.bg % 0x10000
  | _ => 0

/-- A read of a register of BAR0. -/
def bar0Get (s : State) (f : Fn) (off : Nat) : Nat :=
  let x := fnAt s (fnKey f)
  if off < 0x1200 then componentHeader off
  else if rasClears off || rasStores off then (fnReg x off).toNat
  else if off = 0x1300 then 1
  else if off = 0x1308 then ideStatus (linkAt s (linkKey f.port f.link))
  else if hdmBase ≤ off ∧ off < 0x4000 then hdmReg s f (off - hdmBase)
  else if 0x4000 ≤ off ∧ off < 0x8000 then deviceReg s f off
  else if 0x8000 ≤ off ∧ off < 0x8200 then (msixWord x ((off - 0x8000) / 4)).toNat
  else if off = 0x9000 then x.pba.toNat
  else 0

/-- Sends the vectors that are pending and no longer masked (R45). -/
def sendPending (s : State) (f : Fn) : State :=
  let x := fnAt s (fnKey f)
  if x.msixOff then s
  else
    let due := (List.range 32).filter fun v => x.pba.getLsbD v && !msixMasked x v
    if due = [] then s
    else emitAll (modFn s (fnKey f) fun x => { x with pba := due.foldl (fun p v => p &&& ~~~(1#32 <<< v)) x.pba })
      (due.map fun v => .fnMsix f v)

/-- A write to a register of BAR0: the decoders are locked and every capability is read-only (R64). -/
def bar0Put (s : State) (f : Fn) (off v : Nat) : State :=
  let k := fnKey f
  if rasClears off then modFn s k fun x => putFnReg x off (fnReg x off &&& ~~~(word v))
  else if rasStores off then modFn s k fun x => putFnReg x off (word v)
  else if 0x8000 ≤ off ∧ off < 0x8200 then
    let i := (off - 0x8000) / 4
    let v := if i % 4 = 3 then v % 2 else if i % 4 = 0 then v / 4 * 4 else v
    sendPending (modFn s k fun x => { x with msixTab := tabSet (if i % 4 = 3 then 1 else 0) x.msixTab i (word v) }) f
  else s

/-! ## Configuration space (R26, R27, R45, R46) -/

/-- Status registers of AER that a 1 clears, and its other stored registers. -/
def aerClears (off : Nat) : Bool := off == 0x204 || off == 0x210
def aerStores (off : Nat) : Bool := off == 0x208 || off == 0x20C || off == 0x214

/-- The MSI-X capability, whose control has the table's size and MSI-X Enable; the table and pending bits lie in BAR0. -/
def msixCap (x : FnState) : Nat := b2n (!x.msixOff) * 0x80000000 + 31 * 0x10000 + 0x11

/-- A read of a register of the configuration space: the MSI-X capability, the DVSEC for CXL devices with CXL Reset and
CXL.cache clear, the Register Locator, and AER. -/
def cfgGet (s : State) (f : Fn) (off : Nat) : Nat :=
  let x := fnAt s (fnKey f)
  match off with
  | 0x040 => msixCap x
  | 0x044 => 0x8000
  | 0x048 => 0x9000
  | 0x100 => 0x14010023
  | 0x104 => 0x03C1E98
  | 0x108 => 0x00060000
  | 0x140 => 0x20010023
  | 0x144 => 0x01C1E98
  | 0x148 => 0x00000008
  | 0x14C => 0x00000100
  | 0x154 => 0x00004300
  | 0x200 => 0x00020001
  | _ => if aerClears off || aerStores off then (fnReg x (cfgKey off)).toNat else 0

/-- A write to the CXL Reset control is ignored: the capability is not advertised (R27). -/
def cxlReset (s : State) (f : Fn) : State := protoOccurrence s f.port f.link 6

/-- A write to a register of the configuration space. -/
def cfgPut (s : State) (f : Fn) (off v : Nat) : State :=
  let k := fnKey f
  if off = 0x040 then sendPending (modFn s k fun x => { x with msixOff := !bitOf v 31 }) f
  else if off = 0x110 then (if bitOf v 2 then cxlReset s f else s)
  else if aerClears off then
    modFn s k fun x => putFnReg x (cfgKey off) (fnReg x (cfgKey off) &&& ~~~(word v))
  else if aerStores off then modFn s k fun x => putFnReg x (cfgKey off) (word v)
  else s

/-! ## BAR4 (R208, R466) -/

/-- A read of a word of BAR4: the page of the function's own seat mirrors its doorbell page; every other reads as zeros. -/
def bar4Get (s : State) (f : Fn) (off : Nat) : Nat :=
  if fnSeat s f = some (off / 0x1000) then wordOf (getField s (off / 0x1000) (off % 0x1000 / 8 * 8)) (off / 4 % 2) else 0

/-- A write to BAR4: whole fields of the function's own page are applied in ascending order; a part of a field, or another
page, is discarded and counted (R207, R208, R466). -/
def bar4Put (s : State) (f : Fn) (off size v : Nat) : State :=
  let page := off / 0x1000
  if fnSeat s f ≠ some page ∨ off % 8 ≠ 0 ∨ size % 8 ≠ 0 then dbBad s
  else (List.range (min (size / 8) ((0x1000 - off % 0x1000) / 8))).foldl (fun t i =>
    putField t page (off % 0x1000 + 8 * i) (v / 2 ^ (64 * i) % 2 ^ 64)) s

/-! ## Accesses -/

/-- The words that an access covers: in BAR4 whole words, elsewhere as R7 has them. -/
def spaceOffs (sp : FnSpace) (off size : Nat) : List Nat :=
  if sp = .bar4 then
    (if off % 4 = 0 ∧ size % 4 = 0 then (List.range (min (size / 4) ((0x1000 - off % 0x1000) / 4))).map fun i => off + 4 * i else [])
  else if size = 4 ∧ off % 4 = 0 then [off] else if size = 8 ∧ off % 8 = 0 then [off, off + 4] else []

/-- A read of one word. -/
def spaceGet (s : State) (f : Fn) (sp : FnSpace) (off : Nat) : Nat :=
  match sp with
  | .bar0 => bar0Get s f off
  | .bar4 => bar4Get s f off
  | .config => cfgGet s f off

/-- A read of a function's space outside BAR2. -/
def spaceRead (s : State) (f : Fn) (sp : FnSpace) (off size : Nat) (row : Instr) : State :=
  if fnLive s f then
    fnGate s f row fun s => emit s (.regData (.fn f) (((spaceOffs sp off size).map fun o => word (spaceGet s f sp o))))
  else s

/-- A write to a function's space outside BAR2. -/
def spaceWrite (s : State) (f : Fn) (sp : FnSpace) (off size v : Nat) (row : Instr) : State :=
  if fnLive s f then
    fnGate s f row fun s => match sp with
      | .bar4 => bar4Put s f off size v
      | .bar0 => (spaceOffs sp off size).foldl (fun t o => bar0Put t f o (wordOf v ((o - off) / 4))) s
      | .config => (spaceOffs sp off size).foldl (fun t o => cfgPut t f o (wordOf v ((o - off) / 4))) s
  else s

end Sys2Proof.Machine
end

