-- ==== Sys2Proof/Machine/Regs.lean ====
section
/-! DEFINITION. Register writes and reads from BAR2 and from the management controller (R4–R7, R459–R467). A register with a
command of its own is written here through the same operation. -/

namespace Sys2Proof.Machine

open Sys2Proof

/-! ## Writes -/

/-- The bits of a plain register that a write stores: RW, and RWL until the image locks them (R5, R315). -/
def writeMask (s : State) (off : Nat) : Word :=
  word ((regInfo off).rw ||| if s.img.locked then 0 else (regInfo off).rwl)

/-- A plain write: bits outside the mask keep their values. -/
def putPlain (s : State) (key v : Nat) : State :=
  let m := writeMask s (key % copy1)
  setReg s key ((regAt s key &&& ~~~m) ||| (word v &&& m))

/-- `entry` with word `i` written. -/
def withWord (entry i v : Nat) : Nat := entry - wordOf entry i * 2 ^ (32 * i) + v * 2 ^ (32 * i)

/-- A write to word `i` of a seat entry (R56, R58, R465). -/
def putSeatWord (s : State) (n i v : Nat) : State :=
  if 1024 ≤ n then s
  else if i = 2 then (if bitOf v 3 then enableSeat s n else disableSeat s n false)
  else if s.img.locked ∨ 2 ≤ i then s
  else modSeat s n fun x =>
    let e := withWord (seatEntry x) i v % 2 ^ 38
    let y := mkSeat e
    { x with raw := some e, p0 := y.p0, p1 := y.p1, admin := y.admin, perfRead := y.perfRead }

/-- A write to word `i` of a window entry (R60, R75, R465): ENABLE lies in word 6. -/
def putWinWord (s : State) (n i v : Nat) : State :=
  let s := if s.img.locked then s
    else modWin s n fun x =>
      let y := mkWin (withWord (winEntry x) i v)
      { x with hpaHank := y.hpaHank, dlaHank := y.dlaHank, size := y.size, owner := y.owner, group := y.group, db := y.db,
               elastic := y.elastic, aliasN := y.aliasN, aliasSh := y.aliasSh, aliasQc := y.aliasQc, mirror := y.mirror,
               secondary := y.secondary, napOk := y.napOk, pin := y.pin, clevel := y.clevel, dbhV := y.dbhV,
               dbhHank := y.dbhHank, dc := y.dc }
  if i ≠ 6 then s
  else if bitOf v 3 then enableWindow s n else disableWindow s n .enable

/-- A write to SEATWIN.TBL_DATAi. -/
def putSeatwinWord (s : State) (sel i v : Nat) : State :=
  match fld sel 31 30 with
  | 0 => if i < 4 then putSeatWord s (fld sel 11 0) i v else s
  | 1 => putWinWord s (fld sel 11 0) i v
  | _ => s

/-- A write to RING.TBL_DATAi (R204, R207, R227): the queue fields while the ring is DISABLED, the RWL fields before an
image, and ENABLE. -/
def putRingWord (s : State) (n i v : Nat) : State :=
  let e := withWord (ringEntry (ringAt s n)) i v
  let s := if s.img.locked then s
    else modRing s n fun x => { x with
      seat := fld e 9 0, lcl := fld e 21 16, qc := fld e 27 24, ops := BitVec.ofNat 16 (fld e 45 32) }
  let s := if (ringAt s n).st = .disabled then
      modRing s n fun x => { x with
        sqBase := fld e 87 48, cqBase := fld e 127 88, size := fld e 139 136, vector := fld e 144 140 }
    else s
  if i ≠ 0 then s
  else if bitOf v 28 then (if (ringAt s n).st = .disabled then enableRing s n else s)
  else disableRing s n false

/-- A write to DOMn_CTL (R378): a grouped domain ignores every field but WAKE. -/
def putDomCtl (s : State) (d : Fin 26) (v : Nat) : State :=
  let alone := grpOf s d.val == 15
  let s := if alone then putPlain s (ctlOff (.inl d)) v else s
  let s := if alone && bitOf v 30 then reqAt s (.inl d) else s
  if bitOf v 31 then wakeAt s (.inl d) else s

/-- A write to GRPg_CTL (R379). -/
def putGrpCtl (s : State) (g : Fin 8) (v : Nat) : State :=
  let s := putPlain s (ctlOff (.inr g)) v
  let s := if bitOf v 30 then reqAt s (.inr g) else s
  if bitOf v 31 then wakeAt s (.inr g) else s

/-- A half of a 64-bit value written. -/
def setHalf (x i v : Nat) : Nat := if i = 0 then x / 0x100000000 * 0x100000000 + v else v * 0x100000000 + x % 0x100000000

/-- A write to BOX_IN or BOX_OUT of the selected box (R467): HPA bits 51:6. -/
def putBoxLine (s : State) (box : Nat) (out : Bool) (i v : Nat) : State :=
  if box < 1 ∨ 15 < box then s
  else
    let v := if i = 0 then v / 64 * 64 else v % 0x100000
    modMbx s box fun x => if out then { x with outNext := setHalf x.outNext i v } else { x with inNext := setHalf x.inNext i v }

/-- A write to Lk_ERRCNT (R53): each SAT clears with its count. -/
def putErrCnt (l : Link) (v : Nat) : Link :=
  { l with proto := if bitOf v 31 then 0 else l.proto, replay := if bitOf v 30 then 0 else l.replay,
           crc := if bitOf v 29 then 0 else l.crc }

/-- A write to a programmable counter pair; a HI that a read of LO has latched is dropped. -/
def putCtr (s : State) (hiKey : Nat) (c : Nat × Nat × Nat) (hi : Bool) (v : Nat) : State :=
  if c.2.2 = 8 then s
  else if hi then putCtrHi (setLatch s hiKey 0) (ctrKey c.1 c.2.1 c.2.2) v
  else putCtrLo s (ctrKey c.1 c.2.1 c.2.2) v

/-- A write to PMU (R455–R457). -/
def putPmu (s : State) (by_ : Agent) (r v : Nat) : Option State :=
  let c := ctrSel (selAt s by_ (pmuBase + 8))
  let hk := pmuBase + 0x10 + viewOf by_
  match r with
  | 0x04 => some { s with pmu := { s.pmu with irqSamp := s.pmu.irqSamp && !bitOf v 1, irqOvf := s.pmu.irqOvf && !bitOf v 0 } }
  | 0x0C => some (c.elim s fun c => putCtr s hk c false v)
  | 0x10 => some (c.elim s fun c => putCtr s hk c true v)
  | 0x40 => some (putDump s v)
  | 0x44 | 0x48 => if s.pmu.en then some s else none
  | _ => none

/-- A write to MGMT (R401, R410, R416, R467). -/
def putMgmt (s : State) (by_ : Agent) (r v : Nat) : Option State :=
  let box := selAt s by_ (mgmtBase + 0x200)
  match r with
  | 0x10 => some (putWdt s v)
  | 0x30 => some (putCal s v)
  | 0x54 => some (if bitOf v 31 then { s with log := { s.log with lostFlash := 0, lostRing := 0 } } else s)
  | 0x204 => some (putBoxLine s box false 0 v)
  | 0x208 => some (putBoxLine s box false 1 v)
  | 0x20C => some (putBoxLine s box true 0 v)
  | 0x210 => some (putBoxLine s box true 1 v)
  | _ => none

/-- A write to PWR (R374, R378–R380). -/
def putPwr (s : State) (r v : Nat) : Option State :=
  if 0x80 ≤ r ∧ r < 0x80 + 4 * 26 ∧ r % 4 = 0 then some (putDomCtl s (Fin.ofNat 26 ((r - 0x80) / 4)) v)
  else if 0x100 ≤ r ∧ r < 0x120 ∧ r % 4 = 0 then some (putGrpCtl s (Fin.ofNat 8 ((r - 0x100) / 4)) v)
  else if r = 0x130 then some (putDvfs s (v % 4))
  else if r = 0x140 then some (if bitOf v 31 then { s with boot := { s.boot with boCnt := 0 } } else s)
  else none

/-- A write to HPn (R50–R54). -/
def putHp (s : State) (n r v : Nat) : Option State :=
  let k := linkKey n (r / 0x40 % 4)
  if r < 0x100 ∨ 0x200 ≤ r then none
  else match r % 0x40 with
    | 4 => some (modLink s k fun l => { l with evt := l.evt &&& ~~~(BitVec.ofNat 5 v) })
    | 8 => some (modLink s k fun l => putErrCnt l v)
    | _ => none

/-- A write to SPNn (R195, R198–R201, R444): FORCE_ON starts a stopped clock, and EN starts a sample period. ROLE is written before an image only. -/
def putSpn (s : State) (n r v : Nat) : Option State :=
  if r = 0x04 then some (if s.img.locked then s
    else modSpn s n (setHome s.now (fld v 18 16) (BitVec.ofNat 6 (fld v 13 8))))
  else if r = 0x0C then
    let s := putPlain s (spnBase n + 0x0C) v
    some (if bitOf v 0 then modSpn s n (ungateSpn s.now) else s)
  else if r = 0x18 then
    let on := bitOf (regN s (spnBase n + 0x18)) 0
    let s := putPlain s (spnBase n + 0x18) v
    some (if bitOf v 0 && !on then modSpn s n fun x => { x with pcAt := s.now, pcRan := x.pcRan.map fun _ => 0 } else s)
  else if r = 0x14 then some (modSpn s n fun x => { x with pcNew := x.pcNew && !bitOf v 31 })
  else if 0x30 ≤ r ∧ r < 0x50 ∧ r % 4 = 0 then
    some (putCtr s (spnBase n + r) (4, n, (r - 0x30) / 8) (r % 8 == 4) v)
  else none

/-- A write to CHn (R251, R252, R258, R270). -/
def putCh (s : State) (n r v : Nat) : Option State :=
  if r = 0x24 then some (if bitOf v 0 then startTrain s n else s)
  else if r = 0x40 ∧ n = 0 then some (putTarget (putPlain s (chBase 0 + 0x40) v) (v % 8))
  else if r = 0x8008 then some (modCh s n fun x => { x with lbOvf := x.lbOvf && !bitOf v 31 })
  else if r = 0x8024 then some (putInj s n (word v))
  else none

/-- A write to a register with an effect of its own; none where the register is plain, a counter, read-only or unnamed. -/
def putSpecial (s : State) (by_ : Agent) (b : Blk) (r v : Nat) : Option State :=
  match b with
  | .glb => if r = 0x180 then some (putRstCtl s v) else none
  | .pmu => putPmu s by_ r v
  | .sec =>
    if r = 0x2C then some (if bitOf v 0 then putConfirm s else s)
    else if r = 0x118 then
      some { s with keys := { s.keys with
        fails := if bitOf v 31 then 0 else s.keys.fails, failSeen := s.keys.failSeen && !bitOf v 30 } }
    else none
  | .pwr => putPwr s r v
  | .mgmt => putMgmt s by_ r v
  | .qos =>
    if r < 0x80 ∧ r % 8 = 4 then some (putBudget s (r / 8) (word v))
    else if r = 0xD0 then some { s with qos := { s.qos with qc0Over := s.qos.qc0Over && !bitOf v 0 } }
    else none
  | .seatwin =>
    if 4 ≤ r ∧ r ≤ 0x20 ∧ r % 4 = 0 then some (putSeatwinWord s (selAt s by_ seatwinBase) (r / 4 - 1) v) else none
  | .ring =>
    if 4 ≤ r ∧ r ≤ 0x20 ∧ r % 4 = 0 then some (putRingWord s (fld (selAt s by_ ringBase) 12 0) (r / 4 - 1) v) else none
  | .hp n => putHp s n r v
  | .spn n => putSpn s n r v
  | .ch n => putCh s n r v
  | .ply n => if r = 4 then some (startLane (putPlain s (plyBase n + 4) v) n) else none
  | .mbx n => some (putBox s by_ n r v)
  | _ => none

/-- Writes one register. -/
def putReg (s : State) (by_ : Agent) (off v : Nat) : State :=
  match blockOf off with
  | none => s
  | some (b, r) =>
    match putSpecial s by_ b r v with
    | some t => t
    | none =>
      if isCounter b r then (if bitOf v 31 then clearCnt s off else s)
      else if isPlain b r then putPlain s (off + if (regInfoAt b r).copies then viewOf by_ else 0) v
      else s

/-! ## Accesses (R7, R459, R462) -/

/-- The registers that an access covers, lower offset first; none for a size or alignment outside R7. -/
def accessOffs (off size : Nat) : List Nat :=
  if size = 4 ∧ off % 4 = 0 then [off] else if size = 8 ∧ off % 8 = 0 then [off, off + 4] else []

/-- A write within BAR2, or by the controller. -/
def bar2Write (s : State) (by_ : Agent) (off size val : Nat) : State :=
  match (accessOffs off size).filter (mayAccess s by_) with
  | [] => s
  | o :: _ => access s by_ o (.registerWrite by_ off size val) fun s =>
      (accessOffs off size).foldl (fun t o =>
        if mayAccess t by_ o then putReg t by_ o (wordOf val ((o - off) / 4)) else t) s

/-- REGISTER_WRITE (R5–R7, R45, R459, R462, R466). -/
def execRegisterWrite (by_ : Agent) (off : Nat) (size : Nat) (val : Nat) (s : State) : Host.Outcome State Fault Refusal :=
  .next (match fnSpace by_ off with
    | some (f, sp, o) => spaceWrite s f sp o size val (.registerWrite by_ off size val)
    | none => bar2Write s by_ off size val)

/-- The agent has a way to the registers at all. -/
def agentLive (s : State) : Agent → Bool
  | .ctrl => true
  | .fn f => fnLive s f

/-- A read of several registers, lower offset first. -/
def readRegs (by_ : Agent) : List Nat → State → State × List Nat
  | [], s => (s, [])
  | o :: t, s =>
    let (s, v) := if mayAccess s by_ o then getReg s by_ o else (s, 0)
    let (s, vs) := readRegs by_ t s
    (s, v :: vs)

/-- A read within BAR2, or by the controller. -/
def bar2Read (s : State) (by_ : Agent) (off size : Nat) : State :=
  let zeros := Out.regData by_ (List.replicate (if size ≤ 4 then 1 else 2) 0)
  if !agentLive s by_ then s
  else match (accessOffs off size).filter (mayAccess s by_) with
    | [] => emit s zeros
    | o :: _ =>
      if (blockOf o).any fun b => blkGone s b.1 then emit s zeros
      else access s by_ o (.registerRead by_ off size) fun s =>
        let (s, vs) := readRegs by_ (accessOffs off size) s
        emit s (.regData by_ (vs.map word))

/-- REGISTER_READ (R5, R7, R45, R64, R208, R444, R459, R462–R464). -/
def execRegisterRead (by_ : Agent) (off : Nat) (size : Nat) (s : State) : Host.Outcome State Fault Refusal :=
  .next (match fnSpace by_ off with
    | some (f, sp, o) => spaceRead s f sp o size (.registerRead by_ off size)
    | none => bar2Read s by_ off size)

/-- SERIAL_MODE_TEST (R114, R122): CRL0.SER_CTL.TEST. -/
def execSerialModeTest (by_ : Agent) (test : Bool) (s : State) : Host.Outcome State Fault Refusal :=
  .next (access s by_ (crlBase 0 + 0x40) (.serialModeTest by_ test) fun s => putPlain s (crlBase 0 + 0x40) (b2n test))

end Sys2Proof.Machine
end

