-- ==== Sys2Proof/Machine/HostPort.lean ====
section
/-! DEFINITION. The M2S messages of the host ports (R27, R36–R39, R62, R105, R107). -/

namespace Sys2Proof.Machine

open Sys2Proof

/-! ## Requests -/

/-- A request to the doorbell page (R206, R207): a read returns the fields and grants nothing, a write applies them, and everything else
completes with Cmp and has no effect. -/
def doorbellRequest (s : State) (m : M2S) (d : Dec) (op : ReqOp) (data : List Byte) (mask : BitVec 64) : State :=
  let s := leavesIngress s m (isWrite op)
  let x := msgOf s m (some d) op data mask
  let off := d.dla % 0x1000 / 64 * 64
  if isRead op then
    let b := (List.range 8).flatMap fun i => le 8 (getField s d.seat (off + 8 * i))
    sendDrs s x (some b) 0
  else if isWrite op then sendNdr (doorbellLine s d.seat off mask data) x .cmp 0
  else sendNdr s x .cmp 0

/-- The crossing record to which a write is a crossing writeback (R107): the port has sent the seat a snoop for the line on
this link, and it has not been answered. -/
def crossingOf (s : State) (m : M2S) : Option (Nat × Xing × Dec) :=
  match seatOf s m.port m.link m.id with
  | none => none
  | some seat =>
    match findWin s seat m.hpa with
    | none => none
    | some (w, ali) =>
      let x := winAt s w
      let dla := x.dlaHank * 0x200000 + (m.hpa - aliasBase x ali)
      (findXing s fun r => r.line == lineIdx dla && r.seat == seat && r.ans.isNone &&
        r.sent == some (linkKey m.port m.link)).map fun r =>
          (r.1, r.2, { seat := seat, win := w, ali := ali, dla := dla, qc := aliasClass x ali })

/-- Decodes a request and serves it (R36, R62): refused, to the doorbell page, answered at once where an HDM-H window has
nothing to do (DEDUCED for MemClnEvct, log entry 25), or into the ingress buffer. -/
def hostRequest (s : State) (m : M2S) (op : ReqOp) (data : List Byte) (mask : BitVec 64) : State :=
  match decodeM2S s m with
  | none => refuseM2S s m op
  | some d =>
    if isDoorbell s d then doorbellRequest s m d op data mask
    else if !isRead op && !isWrite op && !isDb s d.win then
      sendNdr (leavesIngress s m false) (msgOf s m (some d) op [] 0) .cmp 0
    else resume (arrive s (msgOf s m (some d) op (lineOf data) mask))

/-- A write: a crossing writeback goes into its record's buffer; every other write is a request. -/
def hostWrite (s : State) (m : M2S) (op : ReqOp) (data : List Byte) (mask : BitVec 64) : State :=
  match crossingOf s m with
  | some (r, x, d) =>
    let msg := { msgOf s m (some d) op (lineOf data) mask with cred := false }
    resume (modXing (leavesIngress s m true) r fun _ => some { x with buf := x.buf ++ [msg] })
  | none => hostRequest s m op data mask

/-- MEM_RD (R36, R98). -/
def execMemRd (m : M2S) (snp : SnpType) (s : State) : Host.Outcome State Fault Refusal :=
  .next (m2sGate s m (.memRd m snp) false false fun s => hostRequest s m (.rd snp) [] 0)

/-- MEM_RD_DATA (R36, R98). -/
def execMemRdData (m : M2S) (s : State) : Host.Outcome State Fault Refusal :=
  .next (m2sGate s m (.memRdData m) false false fun s => hostRequest s m .rdData [] 0)

/-- MEM_INV (R36, R98). -/
def execMemInv (m : M2S) (s : State) : Host.Outcome State Fault Refusal :=
  .next (m2sGate s m (.memInv m) false false fun s => hostRequest s m .inv [] 0)

/-- MEM_INV_NT (R36, R98). -/
def execMemInvNt (m : M2S) (s : State) : Host.Outcome State Fault Refusal :=
  .next (m2sGate s m (.memInvNt m) false false fun s => hostRequest s m .invNT [] 0)

/-- MEM_CLN_EVCT (R36, R98). -/
def execMemClnEvct (m : M2S) (s : State) : Host.Outcome State Fault Refusal :=
  .next (m2sGate s m (.memClnEvct m) false false fun s => hostRequest s m .clnEvct [] 0)

/-- MEM_WR (R36, R107): a whole line. -/
def execMemWr (m : M2S) (data : List Byte) (s : State) : Host.Outcome State Fault Refusal :=
  .next (m2sGate s m (.memWr m data) true false fun s => hostWrite s m .wr data (BitVec.allOnes 64))

/-- MEM_WR_PTL (R15, R36, R107): the bytes that the mask enables. -/
def execMemWrPtl (m : M2S) (mask : BitVec 64) (data : List Byte) (s : State) : Host.Outcome State Fault Refusal :=
  .next (m2sGate s m (.memWrPtl m mask data) true false fun s => hostWrite s m .wrPtl data mask)

/-! ## Hints and conflicts -/

/-- The read commands of a speculative read that start early, while the channels are ONLINE. -/
def specEarly (s : State) (d : Dec) (lines : List Nat) : State :=
  if lines.all fun l => chOnline s (chOfLine s l) then casLines s lines false d.qc d.seat else s

/-- A read hint (R36): below 75 % occupancy of the port's read pool the DRAM read of a resolved line, or of the run lines of a
compressed segment, starts early, which the channels' rows and counters see; it returns nothing. -/
def specRead (s : State) (m : M2S) : State :=
  match decodeM2S s m with
  | none => countRefusal (leavesIngress s m false) m
  | some d =>
    let s := leavesIngress s m false
    if poolSize m.port * 3 ≤ (generalUsed s m.port + reserveUsed s m.port) * 4 ∨ isDoorbell s d then s
    else match skeinLook s d.win d.dla with
      | .hot line _ _ => specEarly s d [line]
      | .comp run off len _ => if lcacheAt s (lineIdx d.dla) = [] then specEarly s d (runLines run off (8 * len)) else s
      | _ => s

/-- MEM_SPEC_RD (R36): never answered. -/
def execMemSpecRd (m : M2S) (s : State) : Host.Outcome State Fault Refusal :=
  .next (m2sGate s m (.memSpecRd m) false true fun s => specRead s m)

/-- A BIConflict (R105): after the grant of the seat's request to the line where that has been granted and not yet
answered, else at once. One that is refused gets the Cmp of any write-class message (R36, R62). -/
def conflict (s : State) (m : M2S) : State :=
  let s0 := leavesIngress s m true
  match decodeM2S s m with
  | none => sendNdr (countRefusal s0 m) (msgOf s m none .wr [] 0) .cmp 0
  | some d =>
    let granted := entriesWhere s fun t => t.m.seat == d.seat && lineIdx t.m.dla == lineIdx d.dla && t.coherent && !t.silent
    match isDb s d.win, granted.getLast? with
    | true, some e => modTrk s0 e fun o => o.map fun t => { t with acks := t.acks ++ [(m.port.val, m.link.val, m.id, m.tag)] }
    | _, _ => sendNdr s0 (msgOf s m (some d) .wr [] 0) .biConflictAck 0

/-- BI_CONFLICT (R36, R105). -/
def execBiConflict (m : M2S) (s : State) : Host.Outcome State Fault Refusal :=
  .next (m2sGate s m (.biConflict m) true false fun s => conflict s m)

/-- UNSUPPORTED_M2S_OPCODE (R27). -/
def execUnsupportedM2sOpcode (m : M2S) (write : Bool) (s : State) : Host.Outcome State Fault Refusal :=
  .next (m2sGate s m (.unsupportedM2sOpcode m write) write false fun s =>
    turnAway (protoOccurrence s m.port m.link protoOpcode) m write)

end Sys2Proof.Machine
end

