-- ==== Sys2Proof/Machine/Wake.lean ====
section
/-! DEFINITION. The last rows of a group wake (R367, R368): when its domains run again, the commands that waited for them
are carried out in the order in which they came (R358, R421, R462). -/

namespace Sys2Proof.Machine

open Sys2Proof

/-- A command that waited for a domain, carried out. Only the rows listed ever wait. -/
def replayRow (i : Instr) (s : State) : Host.Outcome State Fault Refusal :=
  match i with
  | .registerWrite by_ off size val => execRegisterWrite by_ off size val s
  | .memRd m snp => execMemRd m snp s
  | .memRdData m => execMemRdData m s
  | .memSpecRd m => execMemSpecRd m s
  | .memInv m => execMemInv m s
  | .memInvNt m => execMemInvNt m s
  | .memClnEvct m => execMemClnEvct m s
  | .biConflict m => execBiConflict m s
  | .memWr m data => execMemWr m data s
  | .memWrPtl m mask data => execMemWrPtl m mask data s
  | .biRsp m ans => execBiRsp m ans s
  | .unsupportedM2sOpcode m write => execUnsupportedM2sOpcode m write s
  | .functionLevelReset f => execFunctionLevelReset f s
  | .doeDiscovery f => execDoeDiscovery f s
  | .cdatRead f => execCdatRead f s
  | .getVersion r => execGetVersion r s
  | .getCapabilities r => execGetCapabilities r s
  | .negotiateAlgorithms r falcon => execNegotiateAlgorithms r falcon s
  | .getCertificate r slot => execGetCertificate r slot s
  | .challenge r slot => execChallenge r slot s
  | .getMeasurements r index signed => execGetMeasurements r index signed s
  | .keyExchange r => execKeyExchange r s
  | .heartbeat r => execHeartbeat r s
  | .setCertificate q => execSetCertificate q s
  | .mailboxUnsupportedOpcode c opcode => execMailboxUnsupportedOpcode c opcode s
  | .getEventRecords c => execGetEventRecords c s
  | .clearEventRecords c handles => execClearEventRecords c handles s
  | .getEventInterruptPolicy c => execGetEventInterruptPolicy c s
  | .setEventInterruptPolicy c policy => execSetEventInterruptPolicy c policy s
  | .getFwInfo c => execGetFwInfo c s
  | .transferFw c container => execTransferFw c container s
  | .activateFw c => execActivateFw c s
  | .getTimestamp c => execGetTimestamp c s
  | .setTimestamp c value => execSetTimestamp c value s
  | .getSupportedLogs c => execGetSupportedLogs c s
  | .getLog c log => execGetLog c log s
  | .identifyMemoryDevice c => execIdentifyMemoryDevice c s
  | .getPoisonList c => execGetPoisonList c s
  | .injectPoison c dla => execInjectPoison c dla s
  | .clearPoison c dla => execClearPoison c dla s
  | .scanMediaCapabilities c => execScanMediaCapabilities c s
  | .scanMediaStart c dla len whole => execScanMediaStart c dla len whole s
  | .scanMediaResults c => execScanMediaResults c s
  | .sanitize c => execSanitize c s
  | .secureErase c => execSecureErase c s
  | .getDcConfig c => execGetDcConfig c s
  | .getDcExtentList c => execGetDcExtentList c s
  | .addDcResponse c win accepted => execAddDcResponse c win accepted s
  | .releaseDc c win exts => execReleaseDc c win exts s
  | .initiateDcAdd src seat win exts => execInitiateDcAdd src seat win exts s
  | .initiateDcRelease seat win exts => execInitiateDcRelease seat win exts s
  | .forcedDcRemoval win exts => execForcedDcRemoval win exts s
  | .seatEnable by_ seat => execSeatEnable by_ seat s
  | .seatDisable by_ seat => execSeatDisable by_ seat s
  | .windowEnable by_ win => execWindowEnable by_ win s
  | .windowDisable by_ win => execWindowDisable by_ win s
  | .serialModeTest by_ test => execSerialModeTest by_ test s
  | .sqTailDoorbell m local_ val => execSqTailDoorbell m local_ val s
  | .cqHeadDoorbell m local_ val => execCqHeadDoorbell m local_ val s
  | .ringEnable m local_ val => execRingEnable m local_ val s
  | .ringDisable m local_ val => execRingDisable m local_ val s
  | .cqSetup m local_ val => execCqSetup m local_ val s
  | .channelRetrain by_ ch => execChannelRetrain by_ ch s
  | .rateChange by_ target => execRateChange by_ target s
  | .faultInject by_ ch val => execFaultInject by_ ch val s
  | .budgetWrite by_ k val => execBudgetWrite by_ k val s
  | .getQosStatus seat => execGetQosStatus seat s
  | .setQosControl seat values => execSetQosControl seat values s
  | .reweaveRequest f words => execReweaveRequest f words s
  | .mctpReweaveRequest image => execMctpReweaveRequest image s
  | .fullImageTransfer image => execFullImageTransfer image s
  | .laneWidthChange by_ p width => execLaneWidthChange by_ p width s
  | .plyPromote src win => execPlyPromote src win s
  | .sleepReq by_ reg => execSleepReq by_ reg s
  | .wakeReq by_ reg => execWakeReq by_ reg s
  | .dvfsTarget by_ target => execDvfsTarget by_ target s
  | .globalResetRequest by_ val => execGlobalResetRequest by_ val s
  | .warmResetRequest by_ val => execWarmResetRequest by_ val s
  | .watchdogKick by_ val => execWatchdogKick by_ val s
  | .bootConfirm by_ => execBootConfirm by_ s
  | .calibrationStart by_ val => execCalibrationStart by_ val s
  | .mbxPush by_ box word => execMbxPush by_ box word s
  | .mbxPop by_ box => execMbxPop by_ box s
  | .mbxDbRing by_ box bits => execMbxDbRing by_ box bits s
  | .setEndpointId eid => execSetEndpointId eid s
  | .pldmFirmwareUpdate container => execPldmFirmwareUpdate container s
  | .pldmGetSensorReading sensor => execPldmGetSensorReading sensor s
  | .getLcChallenge c => execGetLcChallenge c s
  | .lcTransition c t => execLcTransition c t s
  | .debugUnlock c t => execDebugUnlock c t s
  | .dumpEnable by_ val => execDumpEnable by_ val s
  | .pmuFreeze by_ freeze => execPmuFreeze by_ freeze s
  | .registerRead by_ off size => execRegisterRead by_ off size s
  | .getEndpointId => execGetEndpointId s
  | .mctpGetVersion => execMctpGetVersion s
  | .getMessageTypeSupport => execGetMessageTypeSupport s
  | .pldmActivateFirmware => execPldmActivateFirmware s
  | _ => .next s

/-- The state after it. -/
def replayOne (s : State) (i : Instr) : State :=
  match replayRow i s with
  | .next t => t
  | _ => s

/-- The domain no longer keeps a command waiting: it runs, or it has gone OFF. -/
def lets (s : State) (d : Nat) : Bool := !domShut s d || (domAt s d).st = .off

/-- Carries out every waiting command whose domain is back, oldest first. -/
def replayHeld (s : State) : State :=
  let ready := (s.power.held.filter fun h => lets s h.1).map (·.2)
  ready.foldl replayOne { s with power := { s.power with held := s.power.held.filter fun h => !lets s h.1 } }

/-- WAKE_STEP_READY (R367). -/
def execWakeStepReady (dom : Fin 26) (s : State) : Host.Outcome State Fault Refusal := .next (replayHeld (wakeReady s dom))

/-- WAKE_STEP_TIMEOUT (R368). -/
def execWakeStepTimeout (s : State) : Host.Outcome State Fault Refusal := .next (replayHeld (wakeFails s))

end Sys2Proof.Machine
end

