-- ==== Sys2Proof/Machine/Dispatch.lean ====
section
/-! DEFINITION. Dispatch: one arm per command. -/

namespace Sys2Proof.Machine

open Sys2Proof

/-- The effect of a command on everything but the queue. -/
def exec (i : Instr) (s : State) : Host.Outcome State Fault Refusal :=
  match i with
  | .registerWrite by_ off size val => Sys2Proof.Machine.execRegisterWrite by_ off size val s
  | .memRd m snp => Sys2Proof.Machine.execMemRd m snp s
  | .memRdData m => Sys2Proof.Machine.execMemRdData m s
  | .memSpecRd m => Sys2Proof.Machine.execMemSpecRd m s
  | .memInv m => Sys2Proof.Machine.execMemInv m s
  | .memInvNt m => Sys2Proof.Machine.execMemInvNt m s
  | .memClnEvct m => Sys2Proof.Machine.execMemClnEvct m s
  | .biConflict m => Sys2Proof.Machine.execBiConflict m s
  | .memWr m data => Sys2Proof.Machine.execMemWr m data s
  | .memWrPtl m mask data => Sys2Proof.Machine.execMemWrPtl m mask data s
  | .biRsp m ans => Sys2Proof.Machine.execBiRsp m ans s
  | .unsupportedM2sOpcode m write => Sys2Proof.Machine.execUnsupportedM2sOpcode m write s
  | .cxlCacheFlit port link => Sys2Proof.Machine.execCxlCacheFlit port link s
  | .aspmEntryRequest port link => Sys2Proof.Machine.execAspmEntryRequest port link s
  | .ideKmKeyProg port link str skid => Sys2Proof.Machine.execIdeKmKeyProg port link str skid s
  | .bisnpCreditGrant port link n => Sys2Proof.Machine.execBisnpCreditGrant port link n s
  | .linkUp port link p => Sys2Proof.Machine.execLinkUp port link p s
  | .flitCrcReplay port link replay => Sys2Proof.Machine.execFlitCrcReplay port link replay s
  | .linkRecovery port link p => Sys2Proof.Machine.execLinkRecovery port link p s
  | .l0pWidthChange port link width => Sys2Proof.Machine.execL0pWidthChange port link width s
  | .linkDown port link => Sys2Proof.Machine.execLinkDown port link s
  | .perstAssert port => Sys2Proof.Machine.execPerstAssert port s
  | .functionLevelReset f => Sys2Proof.Machine.execFunctionLevelReset f s
  | .ideIntegrityFailure port link str => Sys2Proof.Machine.execIdeIntegrityFailure port link str s
  | .seatDetachTimeout seat => Sys2Proof.Machine.execSeatDetachTimeout seat s
  | .doeDiscovery f => Sys2Proof.Machine.execDoeDiscovery f s
  | .cdatRead f => Sys2Proof.Machine.execCdatRead f s
  | .getVersion r => Sys2Proof.Machine.execGetVersion r s
  | .getCapabilities r => Sys2Proof.Machine.execGetCapabilities r s
  | .negotiateAlgorithms r falcon => Sys2Proof.Machine.execNegotiateAlgorithms r falcon s
  | .getCertificate r slot => Sys2Proof.Machine.execGetCertificate r slot s
  | .challenge r slot => Sys2Proof.Machine.execChallenge r slot s
  | .getMeasurements r index signed => Sys2Proof.Machine.execGetMeasurements r index signed s
  | .keyExchange r => Sys2Proof.Machine.execKeyExchange r s
  | .heartbeat r => Sys2Proof.Machine.execHeartbeat r s
  | .setCertificate q => Sys2Proof.Machine.execSetCertificate q s
  | .mailboxUnsupportedOpcode c opcode => Sys2Proof.Machine.execMailboxUnsupportedOpcode c opcode s
  | .getEventRecords c => Sys2Proof.Machine.execGetEventRecords c s
  | .clearEventRecords c handles => Sys2Proof.Machine.execClearEventRecords c handles s
  | .getEventInterruptPolicy c => Sys2Proof.Machine.execGetEventInterruptPolicy c s
  | .setEventInterruptPolicy c policy => Sys2Proof.Machine.execSetEventInterruptPolicy c policy s
  | .getFwInfo c => Sys2Proof.Machine.execGetFwInfo c s
  | .transferFw c container => Sys2Proof.Machine.execTransferFw c container s
  | .activateFw c => Sys2Proof.Machine.execActivateFw c s
  | .getTimestamp c => Sys2Proof.Machine.execGetTimestamp c s
  | .setTimestamp c value => Sys2Proof.Machine.execSetTimestamp c value s
  | .getSupportedLogs c => Sys2Proof.Machine.execGetSupportedLogs c s
  | .getLog c log => Sys2Proof.Machine.execGetLog c log s
  | .identifyMemoryDevice c => Sys2Proof.Machine.execIdentifyMemoryDevice c s
  | .getPoisonList c => Sys2Proof.Machine.execGetPoisonList c s
  | .injectPoison c dla => Sys2Proof.Machine.execInjectPoison c dla s
  | .clearPoison c dla => Sys2Proof.Machine.execClearPoison c dla s
  | .scanMediaCapabilities c => Sys2Proof.Machine.execScanMediaCapabilities c s
  | .scanMediaStart c dla len whole => Sys2Proof.Machine.execScanMediaStart c dla len whole s
  | .scanMediaResults c => Sys2Proof.Machine.execScanMediaResults c s
  | .sanitize c => Sys2Proof.Machine.execSanitize c s
  | .secureErase c => Sys2Proof.Machine.execSecureErase c s
  | .getDcConfig c => Sys2Proof.Machine.execGetDcConfig c s
  | .getDcExtentList c => Sys2Proof.Machine.execGetDcExtentList c s
  | .addDcResponse c win accepted => Sys2Proof.Machine.execAddDcResponse c win accepted s
  | .releaseDc c win exts => Sys2Proof.Machine.execReleaseDc c win exts s
  | .initiateDcAdd src seat win exts => Sys2Proof.Machine.execInitiateDcAdd src seat win exts s
  | .initiateDcRelease seat win exts => Sys2Proof.Machine.execInitiateDcRelease seat win exts s
  | .forcedDcRemoval win exts => Sys2Proof.Machine.execForcedDcRemoval win exts s
  | .dcReleaseComplete win => Sys2Proof.Machine.execDcReleaseComplete win s
  | .seatEnable by_ seat => Sys2Proof.Machine.execSeatEnable by_ seat s
  | .seatDisable by_ seat => Sys2Proof.Machine.execSeatDisable by_ seat s
  | .seatDrainComplete seat => Sys2Proof.Machine.execSeatDrainComplete seat s
  | .windowEnable by_ win => Sys2Proof.Machine.execWindowEnable by_ win s
  | .windowDisable by_ win => Sys2Proof.Machine.execWindowDisable by_ win s
  | .windowDrainComplete win => Sys2Proof.Machine.execWindowDrainComplete win s
  | .trackerEntryGrant port => Sys2Proof.Machine.execTrackerEntryGrant port s
  | .seatIdle seat pool => Sys2Proof.Machine.execSeatIdle seat pool s
  | .readDataReturn entry noise => Sys2Proof.Machine.execReadDataReturn entry noise s
  | .writeAccepted entry => Sys2Proof.Machine.execWriteAccepted entry s
  | .responseCeilingExpiry entry => Sys2Proof.Machine.execResponseCeilingExpiry entry s
  | .fabricErrorResponse entry asleep => Sys2Proof.Machine.execFabricErrorResponse entry asleep s
  | .creelRequest slice entries => Sys2Proof.Machine.execCreelRequest slice entries s
  | .conflictQueueAdvance slice line => Sys2Proof.Machine.execConflictQueueAdvance slice line s
  | .bisnpIssue slice rec_ => Sys2Proof.Machine.execBisnpIssue slice rec_ s
  | .biTimeout slice rec_ => Sys2Proof.Machine.execBiTimeout slice rec_ s
  | .writeRetry entry => Sys2Proof.Machine.execWriteRetry entry s
  | .creelEntryEccError slice damaged => Sys2Proof.Machine.execCreelEntryEccError slice damaged s
  | .creelRecoveryComplete slice => Sys2Proof.Machine.execCreelRecoveryComplete slice s
  | .creelSliceReady slice => Sys2Proof.Machine.execCreelSliceReady slice s
  | .serialModeTest by_ test => Sys2Proof.Machine.execSerialModeTest by_ test s
  | .skeinMissFill win hank page uncorrectable => Sys2Proof.Machine.execSkeinMissFill win hank page uncorrectable s
  | .skeinCacheEccError win hank page uncorrectable => Sys2Proof.Machine.execSkeinCacheEccError win hank page uncorrectable s
  | .homeFill win hank page => Sys2Proof.Machine.execHomeFill win hank page s
  | .promotion win hank page noise => Sys2Proof.Machine.execPromotion win hank page noise s
  | .promotionComplete win hank page => Sys2Proof.Machine.execPromotionComplete win hank page s
  | .demotion win hank page noise => Sys2Proof.Machine.execDemotion win hank page noise s
  | .demotionComplete win hank page => Sys2Proof.Machine.execDemotionComplete win hank page s
  | .compactionMove win hank page => Sys2Proof.Machine.execCompactionMove win hank page s
  | .compactionComplete win hank page => Sys2Proof.Machine.execCompactionComplete win hank page s
  | .segmentDecode entry noise => Sys2Proof.Machine.execSegmentDecode entry noise s
  | .rekeyUnitConvert win noise => Sys2Proof.Machine.execRekeyUnitConvert win noise s
  | .spindleClockGate n => Sys2Proof.Machine.execSpindleClockGate n s
  | .spindleLendStart n role => Sys2Proof.Machine.execSpindleLendStart n role s
  | .localStoreError n area correctable => Sys2Proof.Machine.execLocalStoreError n area correctable s
  | .spindlePcSample n slot pc => Sys2Proof.Machine.execSpindlePcSample n slot pc s
  | .sqTailDoorbell m local_ val => Sys2Proof.Machine.execSqTailDoorbell m local_ val s
  | .cqHeadDoorbell m local_ val => Sys2Proof.Machine.execCqHeadDoorbell m local_ val s
  | .ringEnable m local_ val => Sys2Proof.Machine.execRingEnable m local_ val s
  | .ringDisable m local_ val => Sys2Proof.Machine.execRingDisable m local_ val s
  | .cqSetup m local_ val => Sys2Proof.Machine.execCqSetup m local_ val s
  | .nop ring index => Sys2Proof.Machine.execNop ring index s
  | .copy ring index => Sys2Proof.Machine.execCopy ring index s
  | .fill ring index => Sys2Proof.Machine.execFill ring index s
  | .zero ring index => Sys2Proof.Machine.execZero ring index s
  | .compress ring index => Sys2Proof.Machine.execCompress ring index s
  | .decompress ring index => Sys2Proof.Machine.execDecompress ring index s
  | .crc ring index => Sys2Proof.Machine.execCrc ring index s
  | .hash ring index => Sys2Proof.Machine.execHash ring index s
  | .scan ring index => Sys2Proof.Machine.execScan ring index s
  | .gather ring index => Sys2Proof.Machine.execGather ring index s
  | .promote ring index => Sys2Proof.Machine.execPromote ring index s
  | .demote ring index => Sys2Proof.Machine.execDemote ring index s
  | .rekey src index => Sys2Proof.Machine.execRekey src index s
  | .scrub ring index => Sys2Proof.Machine.execScrub ring index s
  | .completionRecordWrite ring index => Sys2Proof.Machine.execCompletionRecordWrite ring index s
  | .ringOpLimitExpiry ring index => Sys2Proof.Machine.execRingOpLimitExpiry ring index s
  | .ringDrainComplete ring => Sys2Proof.Machine.execRingDrainComplete ring s
  | .channelCommandIssue ch ready => Sys2Proof.Machine.execChannelCommandIssue ch ready s
  | .refresh ch => Sys2Proof.Machine.execRefresh ch s
  | .dimmThermalPoll ch sensors mr4 => Sys2Proof.Machine.execDimmThermalPoll ch sensors mr4 s
  | .zqCalibration ch => Sys2Proof.Machine.execZqCalibration ch s
  | .rdtWindowClear ch => Sys2Proof.Machine.execRdtWindowClear ch s
  | .mergeEntryTimeout ch line noise => Sys2Proof.Machine.execMergeEntryTimeout ch line noise s
  | .channelRetrain by_ ch => Sys2Proof.Machine.execChannelRetrain by_ ch s
  | .trainingStepResult ch r => Sys2Proof.Machine.execTrainingStepResult ch r s
  | .rateChange by_ target => Sys2Proof.Machine.execRateChange by_ target s
  | .rateChangeComplete trained => Sys2Proof.Machine.execRateChangeComplete trained s
  | .leakyBucketLeak ch => Sys2Proof.Machine.execLeakyBucketLeak ch s
  | .scrubLine noise => Sys2Proof.Machine.execScrubLine noise s
  | .scrubVerifyRead noise => Sys2Proof.Machine.execScrubVerifyRead noise s
  | .faultInject by_ ch val => Sys2Proof.Machine.execFaultInject by_ ch val s
  | .sramDoubleBitError where_ => Sys2Proof.Machine.execSramDoubleBitError where_ s
  | .budgetWrite by_ k val => Sys2Proof.Machine.execBudgetWrite by_ k val s
  | .getQosStatus seat => Sys2Proof.Machine.execGetQosStatus seat s
  | .setQosControl seat values => Sys2Proof.Machine.execSetQosControl seat values s
  | .fabricFlitCrcFail st link => Sys2Proof.Machine.execFabricFlitCrcFail st link s
  | .fabricLinkFail st link => Sys2Proof.Machine.execFabricLinkFail st link s
  | .flip st oldFlits => Sys2Proof.Machine.execFlip st oldFlits s
  | .drainTimeout dom => Sys2Proof.Machine.execDrainTimeout dom s
  | .boundaryQueueEnter st lp entry => Sys2Proof.Machine.execBoundaryQueueEnter st lp entry s
  | .portCreditTimeout st lp => Sys2Proof.Machine.execPortCreditTimeout st lp s
  | .endpointFatalParity st lp => Sys2Proof.Machine.execEndpointFatalParity st lp s
  | .reweaveRequest f words => Sys2Proof.Machine.execReweaveRequest f words s
  | .mctpReweaveRequest image => Sys2Proof.Machine.execMctpReweaveRequest image s
  | .fullImageTransfer image => Sys2Proof.Machine.execFullImageTransfer image s
  | .plyAck p h => Sys2Proof.Machine.execPlyAck p h s
  | .keepalive p h => Sys2Proof.Machine.execKeepalive p h s
  | .pair p h step frag frags sigOk payload => Sys2Proof.Machine.execPair p h step frag frags sigOk payload s
  | .mwr p h w => Sys2Proof.Machine.execMwr p h w s
  | .rsync p h w => Sys2Proof.Machine.execRsync p h w s
  | .metaRecord p h win kind dla => Sys2Proof.Machine.execMetaRecord p h win kind dla s
  | .keyset p h win gen keys => Sys2Proof.Machine.execKeyset p h win gen keys s
  | .pread p h tag request => Sys2Proof.Machine.execPread p h tag request s
  | .mbox p h words => Sys2Proof.Machine.execMbox p h words s
  | .ctrlMtab p h table => Sys2Proof.Machine.execCtrlMtab p h table s
  | .ctrlResyncStart p h win => Sys2Proof.Machine.execCtrlResyncStart p h win s
  | .ctrlResyncEnd p h win syncId => Sys2Proof.Machine.execCtrlResyncEnd p h win syncId s
  | .ctrlHandover p h win => Sys2Proof.Machine.execCtrlHandover p h win s
  | .ctrlLedger p h tag win exts => Sys2Proof.Machine.execCtrlLedger p h tag win exts s
  | .ctrlRekey p h tag win => Sys2Proof.Machine.execCtrlRekey p h tag win s
  | .mack p h seq status => Sys2Proof.Machine.execMack p h seq status s
  | .crec p h batch recs => Sys2Proof.Machine.execCrec p h batch recs s
  | .batchEnd p h batch => Sys2Proof.Machine.execBatchEnd p h batch s
  | .batchAck p h batch => Sys2Proof.Machine.execBatchAck p h batch s
  | .prsp p h tag status => Sys2Proof.Machine.execPrsp p h tag status s
  | .laneset p h eff width => Sys2Proof.Machine.execLaneset p h eff width s
  | .lanesetAck p h eff => Sys2Proof.Machine.execLanesetAck p h eff s
  | .replayTimerExpiry p => Sys2Proof.Machine.execReplayTimerExpiry p s
  | .ackTimer p => Sys2Proof.Machine.execAckTimer p s
  | .keepaliveTimer p => Sys2Proof.Machine.execKeepaliveTimer p s
  | .plyRxTimeout p => Sys2Proof.Machine.execPlyRxTimeout p s
  | .plyPhyDown p => Sys2Proof.Machine.execPlyPhyDown p s
  | .plyPhyTrained p width => Sys2Proof.Machine.execPlyPhyTrained p width s
  | .pairingStepTimeout p => Sys2Proof.Machine.execPairingStepTimeout p s
  | .authFailRetry p => Sys2Proof.Machine.execAuthFailRetry p s
  | .laneWidthChange by_ p width => Sys2Proof.Machine.execLaneWidthChange by_ p width s
  | .plyLaneFail p => Sys2Proof.Machine.execPlyLaneFail p s
  | .lagLimit win => Sys2Proof.Machine.execLagLimit win s
  | .plyPromote src win => Sys2Proof.Machine.execPlyPromote src win s
  | .resyncHankCopy win hank noise => Sys2Proof.Machine.execResyncHankCopy win hank noise s
  | .domainIdle dom => Sys2Proof.Machine.execDomainIdle dom s
  | .groupSleepRequest dom => Sys2Proof.Machine.execGroupSleepRequest dom s
  | .sleepReq by_ reg => Sys2Proof.Machine.execSleepReq by_ reg s
  | .wakeReq by_ reg => Sys2Proof.Machine.execWakeReq by_ reg s
  | .memberAnswer dom => Sys2Proof.Machine.execMemberAnswer dom s
  | .memberFenced dom => Sys2Proof.Machine.execMemberFenced dom s
  | .memberStopped dom => Sys2Proof.Machine.execMemberStopped dom s
  | .lateRefuse dom reason => Sys2Proof.Machine.execLateRefuse dom reason s
  | .groupWake dom => Sys2Proof.Machine.execGroupWake dom s
  | .wakeStepReady dom => Sys2Proof.Machine.execWakeStepReady dom s
  | .dvfsTarget by_ target => Sys2Proof.Machine.execDvfsTarget by_ target s
  | .brownout src => Sys2Proof.Machine.execBrownout src s
  | .refclkLoss r => Sys2Proof.Machine.execRefclkLoss r s
  | .refclkReturn r => Sys2Proof.Machine.execRefclkReturn r s
  | .hswSample r => Sys2Proof.Machine.execHswSample r s
  | .globalResetRequest by_ val => Sys2Proof.Machine.execGlobalResetRequest by_ val s
  | .warmResetRequest by_ val => Sys2Proof.Machine.execWarmResetRequest by_ val s
  | .watchdogKick by_ val => Sys2Proof.Machine.execWatchdogKick by_ val s
  | .trainingRelease dimms => Sys2Proof.Machine.execTrainingRelease dimms s
  | .bootConfirm by_ => Sys2Proof.Machine.execBootConfirm by_ s
  | .sensorScan r => Sys2Proof.Machine.execSensorScan r s
  | .calibrationStart by_ val => Sys2Proof.Machine.execCalibrationStart by_ val s
  | .calibrationComplete steps => Sys2Proof.Machine.execCalibrationComplete steps s
  | .mbxPush by_ box word => Sys2Proof.Machine.execMbxPush by_ box word s
  | .mbxPop by_ box => Sys2Proof.Machine.execMbxPop by_ box s
  | .mbxDbRing by_ box bits => Sys2Proof.Machine.execMbxDbRing by_ box bits s
  | .boxAssign box seat memoryMode => Sys2Proof.Machine.execBoxAssign box seat memoryMode s
  | .setEndpointId eid => Sys2Proof.Machine.execSetEndpointId eid s
  | .mctpUnsupportedType ty => Sys2Proof.Machine.execMctpUnsupportedType ty s
  | .pldmFirmwareUpdate container => Sys2Proof.Machine.execPldmFirmwareUpdate container s
  | .pldmGetSensorReading sensor => Sys2Proof.Machine.execPldmGetSensorReading sensor s
  | .getLcChallenge c => Sys2Proof.Machine.execGetLcChallenge c s
  | .lcTransition c t => Sys2Proof.Machine.execLcTransition c t s
  | .debugUnlock c t => Sys2Proof.Machine.execDebugUnlock c t s
  | .jtagInstruction instr => Sys2Proof.Machine.execJtagInstruction instr s
  | .dumpEnable by_ val => Sys2Proof.Machine.execDumpEnable by_ val s
  | .pmuFreeze by_ freeze => Sys2Proof.Machine.execPmuFreeze by_ freeze s
  | .counterWrap kind inst cnt => Sys2Proof.Machine.execCounterWrap kind inst cnt s
  | .perstDeassert port => Sys2Proof.Machine.execPerstDeassert port s
  | .registerRead by_ off size => Sys2Proof.Machine.execRegisterRead by_ off size s
  | .transferFwComplete => Sys2Proof.Machine.execTransferFwComplete s
  | .sanitizeComplete => Sys2Proof.Machine.execSanitizeComplete s
  | .epochEnd => Sys2Proof.Machine.execEpochEnd s
  | .trngHealthFail => Sys2Proof.Machine.execTrngHealthFail s
  | .trngHealthRecover => Sys2Proof.Machine.execTrngHealthRecover s
  | .spindleUnitAdmit => Sys2Proof.Machine.execSpindleUnitAdmit s
  | .descriptorTake => Sys2Proof.Machine.execDescriptorTake s
  | .scrubPassComplete => Sys2Proof.Machine.execScrubPassComplete s
  | .slotTableSwitch => Sys2Proof.Machine.execSlotTableSwitch s
  | .oldEpochRetire => Sys2Proof.Machine.execOldEpochRetire s
  | .warpImageLoad => Sys2Proof.Machine.execWarpImageLoad s
  | .reweaveRemovalDrained => Sys2Proof.Machine.execReweaveRemovalDrained s
  | .microcodeDrainComplete => Sys2Proof.Machine.execMicrocodeDrainComplete s
  | .reweaveFlipped => Sys2Proof.Machine.execReweaveFlipped s
  | .reweaveComplete => Sys2Proof.Machine.execReweaveComplete s
  | .crlBatchTimer => Sys2Proof.Machine.execCrlBatchTimer s
  | .creelRebuildComplete => Sys2Proof.Machine.execCreelRebuildComplete s
  | .prepareTimeout => Sys2Proof.Machine.execPrepareTimeout s
  | .wakeStepTimeout => Sys2Proof.Machine.execWakeStepTimeout s
  | .pllLock => Sys2Proof.Machine.execPllLock s
  | .pllLockTimeout => Sys2Proof.Machine.execPllLockTimeout s
  | .voltageConfirm => Sys2Proof.Machine.execVoltageConfirm s
  | .voltageConfirmTimeout => Sys2Proof.Machine.execVoltageConfirmTimeout s
  | .ldoReady => Sys2Proof.Machine.execLdoReady s
  | .wakeRecordCopy => Sys2Proof.Machine.execWakeRecordCopy s
  | .vinQualified => Sys2Proof.Machine.execVinQualified s
  | .vinOutOfWindow => Sys2Proof.Machine.execVinOutOfWindow s
  | .faultTimerExpiry => Sys2Proof.Machine.execFaultTimerExpiry s
  | .circuitBreaker => Sys2Proof.Machine.execCircuitBreaker s
  | .powerGood => Sys2Proof.Machine.execPowerGood s
  | .cooldownEnd => Sys2Proof.Machine.execCooldownEnd s
  | .triesReset => Sys2Proof.Machine.execTriesReset s
  | .railsOkQualified => Sys2Proof.Machine.execRailsOkQualified s
  | .railsOkFall => Sys2Proof.Machine.execRailsOkFall s
  | .coldPowerUp => Sys2Proof.Machine.execColdPowerUp s
  | .globalResetPin => Sys2Proof.Machine.execGlobalResetPin s
  | .watchdogExpiry => Sys2Proof.Machine.execWatchdogExpiry s
  | .warmEscalation => Sys2Proof.Machine.execWarmEscalation s
  | .trngKeyDraw => Sys2Proof.Machine.execTrngKeyDraw s
  | .firmwareStart => Sys2Proof.Machine.execFirmwareStart s
  | .calibrationPeriodTimer => Sys2Proof.Machine.execCalibrationPeriodTimer s
  | .persistentLogWrite => Sys2Proof.Machine.execPersistentLogWrite s
  | .flashPageProgram => Sys2Proof.Machine.execFlashPageProgram s
  | .boxPoll => Sys2Proof.Machine.execBoxPoll s
  | .i3cAddressAssign => Sys2Proof.Machine.execI3cAddressAssign s
  | .getEndpointId => Sys2Proof.Machine.execGetEndpointId s
  | .mctpGetVersion => Sys2Proof.Machine.execMctpGetVersion s
  | .getMessageTypeSupport => Sys2Proof.Machine.execGetMessageTypeSupport s
  | .pldmActivateFirmware => Sys2Proof.Machine.execPldmActivateFirmware s
  | .lcOverwriteComplete => Sys2Proof.Machine.execLcOverwriteComplete s
  | .lcSealWritten => Sys2Proof.Machine.execLcSealWritten s
  | .lcFuseBurn => Sys2Proof.Machine.execLcFuseBurn s
  | .lcReset => Sys2Proof.Machine.execLcReset s
  | .telemetryDump => Sys2Proof.Machine.execTelemetryDump s
  | .trngDrawTimeout => Sys2Proof.Machine.execTrngDrawTimeout s

end Sys2Proof.Machine
end

