-- ==== Sys2Proof/Safety.lean ====
section
/-! DEFINITION. What counts as a safe run: every step answers a next state, and the state stays sound: every table is
in canonical form, and the counts and queues that the manual bounds stay within their bounds. -/

namespace Sys2Proof.Machine

/-- The step answers a next state: the device neither stops nor meets a command without a meaning. -/
def Advances (s : State) : Prop := ∃ t, step s = .next t

/-- The plain registers: keys strictly rising, and none listed that holds its reset value. -/
def regsWf : Tab Word → Bool
  | [] => true
  | (k, v) :: t => tabAbove k t && decide (v ≠ regReset k) && regsWf t

/-- No statistics counter is beyond all ones (R53). -/
def cntsOk (t : Tab Nat) : Bool := t.all fun e => decide (e.2 ≤ cntMax)

/-- No programmable counter is 48 bits or more (R445). -/
def ctrsOk (t : Tab Ctr) : Bool := t.all fun e => decide (e.2.count < 2 ^ 48)

/-- A sound state: every table in canonical form (addresses strictly rising, no entry equal to what an unlisted one
reads as); the event log's ring, queue and flash within their sizes (R414); statistics counters saturated (R53) and
programmable counters wrapped (R445). -/
structure Sound (s : State) : Prop where
  regs : regsWf s.regs = true
  cnts : tabWf 0 s.cnts = true
  latches : tabWf 0 s.latches = true
  ports : tabWf {} s.ports = true
  links : tabWf {} s.links = true
  fns : tabWf {} s.fns = true
  seats : tabWf {} s.seats = true
  groups : tabWf [] s.groups = true
  wins : tabWf {} s.wins = true
  blocks : tabWf {} s.blocks = true
  ingress : tabWf [] s.ingress = true
  trk : tabWf none s.trk = true
  use : tabWf {} s.use = true
  creel : tabWf {} s.creel = true
  acts : tabWf none s.acts = true
  xing : tabWf none s.xing = true
  slices : tabWf {} s.slices = true
  hanks : tabWf none s.hanks = true
  pages : tabWf {} s.pages = true
  skein : tabWf false s.skein = true
  acc : tabWf 0 s.acc = true
  lcache : tabWf {} s.lcache = true
  used : tabWf none s.used = true
  dram : tabWf none s.dram = true
  slots : tabWf {} s.slots = true
  spn : tabWf {} s.spn = true
  rings : tabWf {} s.rings = true
  descs : tabWf none s.descs = true
  chans : tabWf {} s.chans = true
  stations : tabWf {} s.stations = true
  ply : tabWf {} s.ply = true
  doms : tabWf {} s.doms = true
  mbx : tabWf {} s.mbx = true
  banks : tabWf {} s.banks = true
  ctrs : tabWf {} s.pmu.ctrs = true
  holdoff : tabWf 0 s.power.holdoff = true
  media : tabWf [] s.mgmt.media = true
  buckets : tabWf (0, 0) s.qos.buckets = true
  rr : tabWf 0 s.qos.rr = true
  counts : cntsOk s.cnts = true
  cycles : ctrsOk s.pmu.ctrs = true
  ring : s.log.ring.length ≤ 8192
  queue : s.log.queue.length ≤ 256
  flash : s.log.flash.length ≤ 131072

/-! ## When a command reaches what it is for -/

/-- The management controller runs and MGMT is awake: commands for it are taken (R392, R395, R421). -/
def mcServed (s : State) : Bool := mcUp s && domAwake s 1

/-- The state in which the controller takes a command: MGMT's clocks run again if they were gated (R359). -/
def mcAwake (s : State) : State := unIdle s 1

/-- A function's host port is awake (R358). -/
def fnServed (s : State) (f : Fn) : Bool := domAwake s (2 + f.port.val)

/-- The state in which a function's host port takes what the function sends (R359). -/
def fnAwake (s : State) (f : Fn) : State := unIdle s (2 + f.port.val)

/-- A mailbox or CCI command is served (R42, R395): the controller runs, MGMT is awake, and so is the mailbox's port, whose
function can be reached. -/
def cciServed (s : State) (c : Cci) : Bool :=
  mcServed s && match c with
    | .mailbox f => mailboxLive s f && fnServed s f
    | .mctp => true

/-- The state in which the command is served. -/
def cciAwake (s : State) : Cci → State
  | .mailbox f => mcAwake (fnAwake s f)
  | .mctp => mcAwake s

/-- A DOE or SPDM request is taken (R40, R433): the controller runs, MGMT is awake, and over DOE the function can be reached,
its port is awake, and the bound of the request before it has passed. -/
def responderServed (s : State) : Responder → Bool
  | .doe f => mcServed s && mailboxLive s f && fnServed s f && decide ((fnAt s (fnKey f)).doeUntil ≤ s.now)
  | .mctp => mcServed s

/-- The state in which the request is answered: over DOE the bound of this request runs (R40). -/
def responderAwake (s : State) (r : Responder) (bound : Nat) : State :=
  match r with
  | .doe f => modFn (mcAwake (fnAwake s f)) (fnKey f) fun x => { x with doeUntil := s.now + bound }
  | .mctp => mcAwake s

/-- A register access reaches its block (R2, R459, R462): the agent may make it, the part has the block, its port is not isolated, and
its domain and the function's host port are awake. -/
def regServed (s : State) (by_ : Agent) (off : Nat) : Bool :=
  match blockOf off with
  | none => false
  | some (b, _) =>
    mayAccess s by_ off && domAwake s (domOfBlk b) && !blkAbsent s b &&
    (match portOfBlk b with
      | some (st, lp) => !isDead s st lp
      | none => true) &&
    match by_ with
    | .ctrl => true
    | .fn g => fnServed s g

/-- The state in which the access is made. -/
def regAwake (s : State) (by_ : Agent) (off : Nat) : State :=
  let s := match by_ with
    | .ctrl => s
    | .fn g => fnAwake s g
  match blockOf off with
  | none => s
  | some (b, _) => unIdle s (domOfBlk b)

/-- A REKEY of a window is granted its walk (R177 step 1): the window is not a mirrored one's secondary copy and its pair link
is up, its slot is in no walk here or on the partner, the TRNG can draw, and the window is ONLINE. -/
def rekeyFree (s : State) (w : Nat) : Prop :=
  ((winAt s w).mirror ≠ 0 → (winAt s w).secondary = false ∧ (winAt s w).ms ≠ .degraded ∧ (winAt s w).ms ≠ .mismatch) ∧
  (slotOf s w).st ≠ .rekeying ∧ (slotOf s w).peerWalk = false ∧ canDraw s = true ∧ (winAt s w).state = .online

/-- An M2S message enters its port (R31, R33, R38, R358): the link is in L0 with CXL.mem, the host holds a credit, the port
is awake, IDE is active or not required, and the message is for this device and carries no TEE attribute (R27). -/
def m2sServed (s : State) (m : M2S) (rwd : Bool) : Bool :=
  let l := linkAt s (linkKey m.port m.link)
  l.up && l.mem && creditsLeft s m.port m.link rwd != 0 && domAwake s (2 + m.port.val) &&
  !(bitOf (regN s (hpBase m.port + 0x10C + 0x40 * m.link.val)) 0 && l.ideMem != .active) && !m.tee && !m.other

/-- The state in which the port takes the message: its clocks and the fabric's run (R359). -/
def m2sAwake (s : State) (m : M2S) : State := unIdleFabric (unIdle s (2 + m.port.val))

/-- A sequenced packet of the partner is accepted (R329, R331): the port is UP, CRC and tag hold, TXC is above the last one
and SEQ follows the last one accepted. -/
def plyNext (s : State) (p : Fin 2) (h : PlyHdr) : Bool :=
  let x := plyAt s p
  x.st == .up && h.crcOk && h.tagOk && x.rxTxc.all (fun t => decide (t < h.txc)) && h.seq == x.acc + 1

/-- The state in which an accepted packet has its effect: its header has been taken (R329–R332), and so has its SEQ. -/
def plyTaken (s : State) (p : Fin 2) (h : PlyHdr) (rsp later : Bool) : State := plyTake (plyIn s p h).1 p h rsp later

end Sys2Proof.Machine
end

