-- ==== Sys2Proof/Certificates/Slice0/Obligations.lean ====
section
/-! DEFINITION. The statements for the provers. Each is about every state; its premises are conditions on the state and the
operands alone, and its conclusion is the next state. -/

open Sys2Proof Sys2Proof.Machine

/-- A step takes the command at the front of the queue: it is that command's effect on the state with the queue's rest. On
an empty queue the device idles for one nanosecond of powered time (the model's choice, log entry 14), in which the
programmable counters count and may interrupt. -/
def Obligations.StepTakesTheFront : Prop :=
  ∀ (s : State),
    (∀ c rest, s.pending = c :: rest → step s = exec c { s with pending := rest }) ∧
    (s.pending = [] → ∃ pmu fns out, step s = .next { s with now := s.now + 1, pmu := pmu, fns := fns, out := out })

/-- The state after reset is sound. -/
def Obligations.ResetIsSound : Prop := Sound State.reset

/-- Every command completes in every state: there is no command that stops the device. From a sound state it leaves the
queue to the step, and the part option, which is fused, as it is. -/
def Obligations.EveryCommandCompletes : Prop :=
  ∀ (c : Instr) (s : State), ∃ t, exec c s = .next t ∧
    (Sound s → t.pending = s.pending ∧ t.boot.partH = s.boot.partH)

/-- Soundness is kept by every step: every table stays in its canonical form, memory among them; the event log stays
within its ring, its queue and its flash region (R414); every statistics counter saturates (R53) and every programmable
counter wraps at 48 bits (R445). -/
def Obligations.StepKeepsSound : Prop :=
  ∀ (s t : State), Sound s → step s = .next t → Sound t

/-- R8: powered time runs on through every command but two, a cold power-up and a brown-out, which start it from zero;
every other reset leaves it running. -/
def Obligations.PoweredTimeRunsOn : Prop :=
  (∀ (c : Instr) (s t : State), Sound s → exec c s = .next t → c ≠ .coldPowerUp → (∀ src, c ≠ .brownout src) →
    s.now ≤ t.now) ∧
  (∀ s, ∃ t, exec .coldPowerUp s = .next t ∧ us t = 0) ∧
  (∀ (src : BoSrc) s, (src = .lowPowerLimit → s.power.ldoNormal = false) → (src = .normalLimit → s.power.ldoNormal = true) →
    ∃ t, exec (.brownout src) s = .next t ∧ us t = 0) ∧
  (∀ s, ∃ t, exec .globalResetPin s = .next t ∧ t.now = s.now)

/-- R40, R42, R423, R433, R435: the queries. A mailbox, MCTP, DOE or SPDM command that only asks changes nothing but what
the device sends, the responder's own marks (the bound of a request, the session, the CDAT mark), the clocks of the
domains it passes, the wake and the wait of a command that finds its domain stopped, and the number of the next free
value: every register, every table, every line of memory and every other flag reads as before. -/
def Obligations.QueriesChangeNothing : Prop :=
  ∀ (c : Instr) (s t : State), exec c s = .next t →
    ((∃ x, c = .getEventInterruptPolicy x ∨ c = .getFwInfo x ∨ c = .getTimestamp x ∨ c = .getSupportedLogs x ∨
        c = .identifyMemoryDevice x ∨ c = .getPoisonList x ∨ c = .scanMediaCapabilities x ∨ c = .scanMediaResults x ∨
        c = .getDcConfig x ∨ c = .getDcExtentList x ∨ (∃ l, c = .getLog x l) ∨ ∃ o, c = .mailboxUnsupportedOpcode x o) ∨
      (∃ f, c = .doeDiscovery f ∨ c = .cdatRead f) ∨
      (∃ r, c = .getVersion r ∨ c = .getCapabilities r ∨ (∃ n, c = .getCertificate r n) ∨ (∃ n, c = .challenge r n) ∨
        c = .heartbeat r ∨ ∃ n, c = .setCertificate { by_ := r, bytes := n }) ∨
      c = .getEndpointId ∨ c = .mctpGetVersion ∨ c = .getMessageTypeSupport ∨ (∃ n, c = .pldmGetSensorReading n) ∨
      ∃ n, c = .mctpUnsupportedType n) →
    ∃ out doms fns free waiting held, t = { s with
      out := out, doms := doms, fns := fns, free := free,
      power := { s.power with waiting := waiting, held := held } }

/-- R5–R7, R64, R122, R459, R462–R464: registers. A write of 4 bytes, or of 8 aligned ones, changes the register that its
agent may reach as that register says; a read answers its value; a read of what cannot be reached answers zeros;
SER_CTL.TEST is one bit. A function's HDM decoders, which are locked, answer the alias ranges and take no write (their
place in the function's space is the model's, log entries 99 and 100). Forms whose completion it states: registerWrite,
serialModeTest, registerRead. -/
def Obligations.RegisterSteps : Prop :=
  (∀ (s : State) (g : Fn) (o : Nat), fnLive s g = true → fnServed s g = true → o % 4 = 0 → hdmBase ≤ o → o < 0x4000 →
    (∀ val, exec (.registerWrite (.fn g) (0x10000000 + o) 4 val) s = .next (fnAwake s g)) ∧
    exec (.registerRead (.fn g) (0x10000000 + o) 4) s =
      .next (emit (fnAwake s g) (.regData (.fn g) [word (hdmReg s g (o - hdmBase))]))) ∧
  ∀ (s : State) (by_ : Agent) (off : Nat), regServed s by_ off = true → off % 4 = 0 →
    let u := regAwake s by_ off
    (∀ val, exec (.registerWrite by_ off 4 val) s = .next (putReg u by_ off (wordOf val 0))) ∧
    exec (.registerRead by_ off 4) s = .next (emit (getReg u by_ off).1 (.regData by_ [word (getReg u by_ off).2])) ∧
    (∀ off', agentLive s by_ = true → off' % 4 ≠ 0 → off' < 0x10000000 →
      exec (.registerRead by_ off' 4) s = .next (emit s (.regData by_ [0]))) ∧
    (∀ b r v, blockOf off = some (b, r) → putSpecial u by_ b r v = none → isCounter b r = false → isPlain b r = true →
      (regInfoAt b r).copies = false →
      putReg u by_ off v = setReg u off ((regAt s off &&& ~~~(writeMask s off)) ||| (word v &&& writeMask s off))) ∧
    (off = crlBase 0 + 0x40 → ∀ test, exec (.serialModeTest by_ test) s = .next (putPlain u off (b2n test)))

/-- R80, R81, R90, R118, R141: the registers of the request path, of snoops and of the Carder that hold a number. Each
holds its reset value after reset; a write changes the bits of its fields and nothing else of the registers, and of a
locked field nothing; and the number in force is the field's, or the nearer limit where the field lies outside. Forms
whose completion it states: registerWrite. -/
def Obligations.NumberRegisters : Prop :=
  (∀ off mask reset lockable,
    (off, mask, reset, lockable) ∈
      ([(trkBase, 0x1FF01FF, 32 * 0x10000 + 64, true), (trkBase + 4, 0x1FF01FF, 0x10000 + 2, true),
        (trkBase + 0x10, 0xFF, 20, false), (cardBase, 0xFFFF, 1000, false)] ++
        (List.range 16).map fun n => (crlBase n, 0x3FFF, 50, false) : List (Nat × Nat × Nat × Bool)) →
    regAt State.reset off = word reset ∧
    ∀ (s : State) (by_ : Agent) (val : Nat), regServed s by_ off = true →
      ∃ t, exec (.registerWrite by_ off 4 val) s = .next t ∧ t.out = s.out ∧ t.log = s.log ∧
        (∀ k, k ≠ off → regAt t k = regAt s k) ∧
        regAt t off = if lockable && s.img.locked then regAt s off
          else (regAt s off &&& ~~~(word mask)) ||| (word (wordOf val 0) &&& word mask)) ∧
  ∀ s : State,
    (∀ p, p < 4 → quotaOf s p = fld (regN s trkBase) 8 0 ∧ keepOf s p = fld (regN s (trkBase + 4)) 8 0) ∧
    quotaOf s 4 = fld (regN s trkBase) 24 16 ∧ keepOf s 4 = fld (regN s (trkBase + 4)) 24 16 ∧
    (let v := fld (regN s (trkBase + 0x10)) 7 0
     ceilUs s = if v < 2 then 2 else if 200 < v then 200 else v) ∧
    (∀ slice, let v := fld (regN s (crlBase slice)) 13 0
              biTimeout s slice = if v < 10 then 10 else if 10000 < v then 10000 else v) ∧
    (let v := fld (regN s cardBase) 15 0
     epochNs s = (if v < 100 then 100 else v) * 1000000)

/-- R440: SEC.ID0–ID5 return the identity record, IDKEY_DIGEST0–7 the identity key's digest and OWNER_DIGEST0–7 the owner
key's digest, which reads as zeros in BLANK; register i holds bytes 4i to 4i + 3, little-endian. They are read-only: a
write changes nothing but what the access itself wakes. Forms whose completion it states: registerWrite, registerRead. -/
def Obligations.IdentityRegisters : Prop :=
  ∀ (s : State) (by_ : Agent) (i : Nat),
    let holds := fun (off : Nat) (b : List Byte) => regServed s by_ off = true →
      exec (.registerRead by_ off 4) s = .next (emit (regAwake s by_ off) (.regData by_ [word (numAt b (4 * i) 4)])) ∧
      ∀ val, exec (.registerWrite by_ off 4 val) s = .next (regAwake s by_ off)
    (i < 6 → holds (secBase + 4 * i) (bytesAt Config.identityRecord 0 24)) ∧
    (i < 8 → holds (secBase + 0x40 + 4 * i) idDigest) ∧
    (i < 8 → holds (secBase + 0x60 + 4 * i) (if s.sec.lc = .blank then List.replicate 32 0 else bytesAt s.sec.ownerDig 0 32))

/-- R42: the mailbox commands that only report. Served, each answers Success with the contents named here, raises vector 0
of a mailbox, and changes nothing else but clocks that were gated. Forms whose completion it states:
mailboxUnsupportedOpcode, getEventInterruptPolicy, getFwInfo, getTimestamp, getSupportedLogs, getLog,
identifyMemoryDevice, getPoisonList, scanMediaCapabilities, scanMediaResults, getDcConfig, getDcExtentList. -/
def Obligations.MailboxQueriesAnswer : Prop :=
  ∀ (s : State) (c : Cci), cciServed s c = true →
    let ok := fun (op : Nat) (body : Contents) => Host.Outcome.next (cciAnswer (cciAwake s c) c op .success body)
    exec (.getEventInterruptPolicy c) s = ok 0x0102 [(fnAt s (cciKey c)).evtPolicy] ∧
    exec (.getFwInfo c) s = ok 0x0200 [2, s.sec.bank, (([0, 1].find? fun k => (bankAt s k).armed).getD 2),
      fwVersion s 0, fwVersion s 1] ∧
    exec (.getTimestamp c) s = ok 0x0300 [s.mgmt.timestamp] ∧
    exec (.getSupportedLogs c) s = ok 0x0400 [0, 1] ∧
    exec (.getLog c .vendor) s = ok 0x0401 ((s.log.ring.filter fun r => cciSees s c r.2).flatMap recContents) ∧
    exec (.identifyMemoryDevice c) s = ok 0x4000 ((cciWins s c).flatMap fun e => [e.1,
      if e.2.dc then 0x10000000 * (s.blocks.filter fun b => b.2.win == e.1 && b.2.st == 2).length else winBytes e.2]) ∧
    exec (.getPoisonList c) s = ok 0x4300 ([b2n s.plist.overflow, s.plist.firstUs.getD 0] ++
      (s.plist.ents.filter fun p => (cciWins s c).any fun e => pentIn p e.2).flatMap
        fun p => [p.dla, p.len, p.src, p.us]) ∧
    exec (.scanMediaCapabilities c) s = ok 0x4303 ((cciWins s c).flatMap fun e => [e.2.dlaHank * 0x200000, winBytes e.2]) ∧
    exec (.scanMediaResults c) s = ok 0x4305 ((tabGet [] s.mgmt.media (match c with
      | .mailbox f => fnKey f
      | .mctp => islandMedia)).flatMap fun r => [r.1, r.2]) ∧
    exec (.getDcConfig c) s = ok 0x4800 (((cciWins s c).filter fun e => e.2.dc).flatMap
      fun e => [e.1, e.2.dlaHank / 128, e.2.size / 128]) ∧
    exec (.getDcExtentList c) s = ok 0x4801 ((s.blocks.filter fun e => e.2.st == 2 && cciBlock s c e.2).flatMap
      fun e => [e.2.win, e.1, e.2.ext]) ∧
    (∀ op, allOps.contains op = false → (op ≠ 0xC500 ∨ c ≠ .mctp) →
      exec (.mailboxUnsupportedOpcode c op) s = .next (cciAnswer (cciAwake s c) c op .unsupported []))

/-- R42, R415: the mailbox commands that store something for their sender. Get Event Records clears SMB_ALERT_N where the
board reads it (R473); Clear Event Records takes records from the view only; Set Timestamp keeps the value and logs it.
Forms whose completion it states: getEventRecords, clearEventRecords, setEventInterruptPolicy, setTimestamp. -/
def Obligations.MailboxSettings : Prop :=
  ∀ (s : State) (c : Cci), cciServed s c = true →
    let t := cciAwake s c
    exec (.getEventRecords c) s = .next (cciAnswer
      (if c = .mctp then { t with log := { s.log with alert := false } } else t) c 0x0100 .success
      ((viewRecs s c).flatMap recContents)) ∧
    (∀ hs : List Nat, (∀ h ∈ hs, h ∈ (viewRecs s c).map (·.1)) →
      exec (.clearEventRecords c hs) s = .next (cciAnswer (modFn t (viewKey s c) fun x =>
        { x with cleared := x.cleared ++ hs }) c 0x0101 .success [])) ∧
    (∀ pol, exec (.setEventInterruptPolicy c pol) s =
      .next (cciAnswer (modFn t (cciKey c) fun x => { x with evtPolicy := pol }) c 0x0103 .success [])) ∧
    (∀ v, v < 2 ^ 64 → exec (.setTimestamp c v) s =
      .next (cciAnswer (logEvFor { t with mgmt := { s.mgmt with timestamp := v } } 0xFF00 0xC001 sevInfo
        (le 8 v ++ le 2 ((cciSeat s c).getD 0)) (cciSeat s c).toList []) c 0x0301 .success []))

/-- R424, R430, R44: the steps of a firmware transfer by mailbox or PLDM. A transfer erases the region of the bank that is
not running; pages are programmed once no event record waits; a completed transfer is marked pending where it passes its
check and erased where it does not; activation arms the pending bank. Forms whose completion it states: transferFw,
activateFw, transferFwComplete, flashPageProgram. -/
def Obligations.FirmwareTransfer : Prop :=
  ∀ (s : State) (c : Cci), cciServed s c = true →
    let t := cciAwake s c
    let k := 1 - s.sec.bank
    (∀ d, cciAdmin s c = true → xferBusy s = false → (fnAt s (cciKey c)).bg = 0 →
      exec (.transferFw c d) s = .next (bgStart (startXfer t (some c) d) c 0x0201)) ∧
    (cciAdmin s c = true → (bankAt s k).pending = true →
      exec (.activateFw c) s = .next (cciAnswer
        (fwEvent (modBank t k fun b => { b with armed := true }) k 0) c 0x0202 .success [])) ∧
    (∀ x, s.mgmt.xfer = some x → s.log.queue = [] → x.pages < xferPages x →
      exec .flashPageProgram s = .next (modBank { s with mgmt := { s.mgmt with
          xfer := some { x with pages := x.pages + 1 } } } k fun b => { b with fw := x.data.take (256 * (x.pages + 1)) })) ∧
    (∀ x, s.mgmt.xfer = some x → xferPages x ≤ x.pages → x.by_ = some c →
      let r := fwCheck s (bankAt s k).fw
      exec .transferFwComplete s = .next (bgEnded (fwEvent (bgFinish (modBank { s with mgmt := { s.mgmt with xfer := none } }
        k fun b => if r = 0 then { b with pending := true } else { b with fw := [] }) c 0x0201
        (if r = 0 then .success else .failed)) k r)))

/-- R42, R44, R116, R181, R262, R265: Scan Media over a range of the sender's windows starts a pass (the board may ask for
the whole device). Inject Poison and Clear Poison act on a line whose window is online, from a sender with admin rights;
Clear Poison writes zeros as an agent without caches does and removes the entry. Sanitize and Secure Erase take every
window offline; with no window left to drain the keys are destroyed at once; the overwrite of a Sanitize ends with all
DRAM lost and the command complete. Forms whose completion it states: injectPoison, clearPoison, scanMediaStart, sanitize,
secureErase, sanitizeComplete. -/
def Obligations.MediaCommands : Prop :=
  ∀ (s : State),
    (∀ (c : Cci) (e : Nat × Win) (dla len : Nat), cciServed s c = true → (fnAt s (cciKey c)).bg = 0 →
      (cciWins s c).find? (fun e => decide (e.2.dlaHank * 0x200000 ≤ dla) &&
        decide (dla + len ≤ e.2.dlaHank * 0x200000 + winBytes e.2)) = some e → len ≠ 0 →
      exec (.scanMediaStart c dla len false) s = .next
        (bgStart (startPass (cciAwake s c) (scanBy c) (scrubLines s e.1 dla (dla + len)) false) c 0x4304)) ∧
    (∀ (c : Cci) (dla w : Nat), cciServed s c = true → cciAdmin s c = true → lineWin s dla = some w →
      exec (.injectPoison c dla) s = .next (cciAnswer (resume
        (poisonDla (cciAwake s c) w (dla / 64 * 64) srcInjected)) c 0x4301 .success []) ∧
      (∀ u v, agentPrepare (agentOpen (cciAwake s c) clearAgent) clearAgent w (dla / 64 * 64) 64 15 = (u, true) →
        agentPut u clearAgent w (dla / 64 * 64) 15 1024 zeroLine (fun _ => false) = (v, 64) →
        exec (.clearPoison c dla) s = .next (resume (cciAnswer
          (plDropRange (agentClose v clearAgent) (dla / 64 * 64) 64) c 0x4302 .success [])))) ∧
    (∀ (c : Cci), cciServed s c = true →
      (cciAdmin s c = true → eraseBusy s = false → (fnAt s (cciKey c)).bg = 0 →
        exec (.sanitize c) s = .next (resume (offlineDone (allOffline
          (bgStart { cciAwake s c with mgmt := { s.mgmt with bg := some (.sanitize c) } } c 0x4400))))) ∧
      (cciAdmin s c = true → eraseBusy s = false →
        exec (.secureErase c) s = .next (resume (offlineDone (allOffline
          { cciAwake s c with mgmt := { s.mgmt with bg := some (.erase c) } })))) ∧
      (s.mgmt.bg = some (.overwrite c) →
        exec .sanitizeComplete s = .next (bgEnded (bgFinish (overwriteDram
          { s with mgmt := { s.mgmt with bg := none }, img := { s.img with sanitized := true } }) c 0x4400 .success))))

/-- R431, R436–R438: the life-cycle commands and the steps of a run. Get LC Challenge draws a fresh nonce; a token that is
accepted consumes it and starts a run, which waits for every window to be offline. The later steps follow: the overwrite
ends, the seal is written, the fuses are burnt and the command completes, and 10 ms after that the device performs a
GLOBAL reset. The nonce is a free value, below 2^256. Forms whose completion it states: getLcChallenge, lcTransition,
debugUnlock, lcOverwriteComplete, lcSealWritten, lcFuseBurn, lcReset. -/
def Obligations.LifeCycle : Prop :=
  ∀ (s : State),
    (∀ (c : Cci), cciServed s c = true → cciAdmin s c = true →
      let t := cciAwake s c
      exec (.getLcChallenge c) s = .next (cciAnswer { nextFree t with sec := { s.sec with
        nonce := some (Config.freeNat s.free % 2 ^ 256) } } c 0xC510 .success [Config.freeNat s.free % 2 ^ 256]) ∧
      (∀ (k : Token) (target : Lc), s.sec.debug = false → eraseBusy s = false → (fnAt s (cciKey c)).bg = 0 →
        lcOf k.target = some target → tokenOk s k 1 = true → mayTransition s.sec.lc target k = true →
        exec (.lcTransition c k) s = .next (lcAccept t c 0xC511
          { target := target, overwrite := bitOf k.opts 0, debug := false, step := 1, by_ := c, owner := k.ownerKey })) ∧
      (∀ k : Token, eraseBusy s = false → (fnAt s (cciKey c)).bg = 0 → tokenOk s k 2 = true → k.target = 0xFF →
        mayUnlock s.sec.lc k = true →
        exec (.debugUnlock c k) s = .next (lcAccept t c 0xC512
          { target := s.sec.lc, overwrite := false, debug := true, step := 1, by_ := c, owner := [] }))) ∧
    (∀ (r : LcRun), s.sec.run = some r →
      (r.step = 3 → exec .lcOverwriteComplete s = .next (lcStep (overwriteDram s) 4)) ∧
      (r.step = 4 → ∃ t, exec .lcSealWritten s = .next (lcStep t 5) ∧ t.log.sinceSeal = [] ∧ t.sec.seals.length ≤ 8 ∧
        (t.sec.seals.getLast?.map fun b => (b.old, b.new)) = some (s.sec.lc, r.target)) ∧
      (r.step = 5 → exec .lcFuseBurn s = .next (bgFinish (lcStep { s with sec := burnFuses s.sec r } 7) r.by_ 0xC511
        .success)) ∧
      (r.step = 7 → exec .lcReset s = .next (globalReset (advanceTo s (r.at_ + 10000000)))))

/-- R40, R41, R433–R436, R439: DOE and SPDM. A responder that takes a request answers it: discovery with the four
protocols, CDAT with the tables of the function's seat, the first four SPDM requests and unsigned measurements in every
state, and the rest once Falcon-1024 has been agreed and the device may sign. SET_CERTIFICATE is refused. Forms whose
completion it states: doeDiscovery, cdatRead, getVersion, getCapabilities, negotiateAlgorithms, getCertificate, challenge,
getMeasurements, keyExchange, heartbeat, setCertificate. -/
def Obligations.AttestationAnswers : Prop :=
  ∀ (s : State) (r : Responder), responderServed s r = true →
    let t := responderAwake s r
    exec (.getVersion r) s = .next (doeAnswer (t doePlain) r spVersion [0x12, 0x13]) ∧
    exec (.getCapabilities r) s = .next (doeAnswer (t doePlain) r spCapabilities [1, 2, 3, 4, 5, 6, 7]) ∧
    (∀ falcon, exec (.negotiateAlgorithms r falcon) s = .next (doeAnswer (modFn (t doePlain) (respKey r) fun x =>
      { x with falcon := falcon }) r spAlgorithms [b2n falcon, 256, 384, 256])) ∧
    (∀ i, 1 ≤ i → i ≤ 4 → exec (.getMeasurements r i false) s =
      .next (doeAnswer (t doePlain) r spMeasurements (measurement s i ++ [0]))) ∧
    (∀ slot bytes, (bytes ≤ doeLimit ∨ r = .mctp →
        exec (.setCertificate { by_ := r, bytes := bytes }) s = .next (spdmError (t doePlain) r)) ∧
      (spdmFull s r = true → slot = 0 → exec (.getCertificate r slot) s = .next (doeAnswer (t doePlain) r spCertificate
        (2 :: (Config.identityRecord ++ Config.identityKey).map (·.toNat)))) ∧
      (spdmFull s r = true → canSign s = true → slot = 0 →
        exec (.challenge r slot) s = .next (doeAnswer (t doeSigned) r spChallengeAuth [1]))) ∧
    (spdmFull s r = true → canSign s = true → exec (.keyExchange r) s =
      .next (doeAnswer (modFn (t doeSigned) (respKey r) fun x => { x with session := true }) r spKeyExchange [1])) ∧
    (spdmFull s r = true → (fnAt s (respKey r)).session = true →
      exec (.heartbeat r) s = .next (doeAnswer (t doePlain) r spHeartbeatAck [])) ∧
    (∀ f, r = .doe f →
      exec (.doeDiscovery f) s = .next (doeAnswer (t doePlain) r doeProtocols [0, 1, 2, 3]) ∧
      exec (.cdatRead f) s = .next (modFn (doeAnswer (t doePlain) r doeCdat (cdatOf s f)) (fnKey f) fun x =>
        { x with cdatChg := false }))

/-- R430, R392, R431, R439: the boot ROM tries the banks in their order and starts the first that passes; CONFIRM makes a
started pending bank the active one and may raise the vendor counter; a JTAG instruction acts if it is a boundary-scan
instruction or debug is unlocked. Forms whose completion it states: bootConfirm, jtagInstruction, firmwareStart. -/
def Obligations.BootAndDebug : Prop :=
  ∀ (s : State),
    (s.boot.phase = .firmware → s.boot.warmSince = none →
      let q := tryBanks (bootOrder s) (bumpBoot { s with sec := { s.sec with resA := 6, resB := 6 } })
      ∃ v, match q.2 with
        | none => exec .firmwareStart s = .next { q.1 with boot := { q.1.boot with phase := .noFirmware } }
        | some k => exec .firmwareStart s = .next (resume (startCal v)) ∧ v.sec.bank = k ∧ v.sec.started = true ∧
            v.sec.confirmed = false ∧ v.mgmt.wdtAt = s.now ∧ v.boot.phase = .training) ∧
    (∀ by_, regServed s by_ (secBase + 0x2C) = true → s.sec.started = true → s.sec.confirmed = false →
      (bankAt s s.sec.bank).pending = true →
      ∃ t, exec (.bootConfirm by_) s = .next t ∧ t.mgmt.active = s.sec.bank ∧ t.sec.confirmed = true ∧
        bankAt t s.sec.bank = { bankAt s s.sec.bank with pending := false, armed := false, tried := false } ∧
        s.sec.vsvn ≤ t.sec.vsvn) ∧
    (∀ j, isBoundary j = true ∨ s.sec.debug = true → exec (.jtagInstruction j) s = .next (emit s (.jtag j)))

/-- R77, R78, R86, R88, R89: the tracker's steps. A message that ingress may grant leaves it with the lowest free entry of
its pool and goes on; a seat without requests of a kind becomes IDLE at its time; data that return end their read and free
the requests behind it; a write that its channel takes is complete; a ceiling that passes answers with poison or Cmp and
leaves the entry ABANDONED; an error response of the fabric ends the request. Forms whose completion it states:
trackerEntryGrant, seatIdle, readDataReturn, writeAccepted, responseCeilingExpiry, fabricErrorResponse. -/
def Obligations.TrackerSteps : Prop :=
  ∀ (s : State),
    (∀ (port : Fin 4) (before rest : List Msg) (m : Msg) (way : Bool × Option Nat),
      pickIngress s [] (ingressAt s port) = some (before, m, rest) → staleDecode s m = false →
      grantWay s m = some way →
      exec (.trackerEntryGrant port) s = .next (entryPass
        (takeEntry (modIngress s port fun _ => before ++ rest) m way).1 (freeEntry s (poolOf m)))) ∧
    (∀ (seat : Fin 1024) (pool : Fin 5), (poolCount s pool fun t => t.m.seat == seat.val) = 0 →
      exec (.seatIdle seat pool) s = .next (modUse (advanceTo s ((useAt s (useKey pool seat)).last +
        max 1 (fld (regN s (trkBase + 8)) 16 4) * 1000)) (useKey pool seat) fun u => { u with idle := true })) ∧
    (∀ (e : Fin 24576) (t : Trk) (noise : List (List Byte)), trkAt s e = some t →
      t.accepted = true → t.decoding = false → isRead t.m.op = true → readIssued s e = true → t.lost = false →
      (∀ x ∈ t.snap, chOnline s (chOfLine s x.line) = true) →
      flitReaches s (chStation (chOfLine s ((t.snap.map (·.line)).headD 0))) (hpStation t.m.port) 1 = true →
      (∀ line key gen, t.loc = some (.hot line key gen) →
        let r := readLines s (some t.m.dla) t.snap noise
        exec (.readDataReturn e noise) s = .next (passLine (endRead r.1 e t r.2 t.devLoad) (lineIdx t.m.dla))) ∧
      (∀ gran o len, t.loc = some (.comp gran o len) →
        let r := readLines s none t.snap noise
        (∀ b, r.2 = some b → exec (.readDataReturn e noise) s = .next (passLine
          (endRead r.1 e t (some (bytesAt b (o % 64 + t.m.dla / 64 % 8 * 64) 64)) t.devLoad) (lineIdx t.m.dla))) ∧
        (r.2 = none → exec (.readDataReturn e noise) s =
          .next (passAll (poisonWaiters (segmentError r.1 t.m.win t.m.dla 2) t.m.win t.m.dla))))) ∧
    (∀ (e : Fin 24576) (t : Trk) (line key gen : Nat), trkAt s e = some t → isWrite t.m.op = true → t.accepted = false →
      t.loc.isSome = true → (t.st = .issued ∨ t.st = .abandoned) → blocked s t.ord t.m.seat (lineIdx t.m.dla) = false →
      (isDb s t.m.win = true → writeAhead s (lineIdx t.m.dla) t.gord = false) →
      pageQueued s t.m.win t.m.dla t.waitOrd = false →
      freshTarget s t.m.win t.m.dla = some (line, key, gen) → writeRoom s line = true →
      flitReaches s (sliceStation (sknSlice t.m.dla)) (chStation (chOfLine s line)) 1 = true →
      let u₁ := writeTouch s t.m.win (hankOff s t.m.win t.m.dla) (pageNo t.m.dla)
      let u₂ := storeMsg (if isDb u₁ t.m.win then u₁ else forwardWrite u₁ e t t.poisonWr) t.m line key gen t.poisonWr
      let u := if t.m.op = .wr || t.poisonWr then queueWrite u₂ line t.m.qc t.m.seat t.granted (some e) else u₂
      let t' : Trk := { t with accepted := true, serial := true, devLoad := devLoadAt u (chOfLine u line) t.m.qc }
      let v := modTrk u e fun _ => some t'
      let ch := chStation (chOfLine v line)
      let strict := t.strict = true ∧ (winAt v t.m.win).ms = .sync ∧
        (v.pair.fwds.any fun f => f.entry == some e.val) = true ∧ t.silent = false ∧ t.st = .issued
      (strict → exec (.writeAccepted e) s = .next (passLine (modTrk v e fun _ => some { t' with st := .mirror })
        (lineIdx t.m.dla))) ∧
      (¬ strict → t.silent = true ∨ t.st = .abandoned ∨ flitReaches v ch (hpStation t.m.port) 1 = true →
        exec (.writeAccepted e) s = .next (passLine (endNdr v e t' .cmp t'.devLoad) (lineIdx t.m.dla))) ∧
      (¬ strict → t.silent = false → t.st ≠ .abandoned → flitReaches v ch (hpStation t.m.port) 1 = false →
        exec (.writeAccepted e) s = .next (passLine (modTrk (absorbFlit v ch (hpStation t.m.port)) e
          fun _ => some { t' with lost := true }) (lineIdx t.m.dla)))) ∧
    (∀ (e : Fin 24576) (t : Trk), trkAt s e = some t → t.st ≠ .abandoned → t.st ≠ .mirror → t.silent = false →
      ∃ u, exec (.responseCeilingExpiry e) s = .next (modTrk
        (if isRead t.m.op then sendDrs (if isDb u t.m.win then sendNdr u t.m .cmp 3 else u) t.m none 3
          else sendNdr u t.m .cmp 3) e
        fun _ => some { t with st := .abandoned, poisonWr := isWrite t.m.op }) ∧
        u.now = max s.now t.deadline ∧ u.trk = s.trk ∧ u.dram = s.dram ∧
        cntAt u (trkBase + 0x14) = min cntMax (cntAt s (trkBase + 0x14) + 1)) ∧
    (∀ (e : Fin 24576) (t : Trk) (asleep : Bool), trkAt s e = some t → t.st ≠ .mirror →
      let p := targetPort s t
      let at_ := answerer s t p.1
      let u := errorResponse s at_ p.2.1 p.2.2 asleep
      (routeBreak s at_ (hpStation t.m.port) = none →
        exec (.fabricErrorResponse e asleep) s = .next (fabricError u e t (if asleep then 2 else 1))) ∧
      (routeBreak s at_ (hpStation t.m.port) ≠ none → exec (.fabricErrorResponse e asleep) s = .next u))

/-- R35, R106–R112: snoops. A record is issued once, its timer running from then while its seat has a path in L0; it
leaves where the host has granted a credit; the answer of its seat completes it, or waits behind a writeback that is held;
an answer that no record waits for is discarded, counted and logged; a record whose BI timeout passes poisons its line,
makes the seat SUSPECT and writes an ERR event. Forms whose completion it states: biRsp, bisnpCreditGrant, bisnpIssue,
biTimeout. -/
def Obligations.SnoopSteps : Prop :=
  ∀ (s : State),
    (∀ (slice : Fin 16) (n : Fin 128) (x : Xing), xingAt s (slice.val * 128 + n.val) = some x → x.issued = false →
      exec (.bisnpIssue slice n) s = .next (trySendSnoop (pmuEvent (modXing s (slice.val * 128 + n.val) fun _ =>
        some { x with issued := true, start := if seatUp s x.seat then some s.now else none }) 2 slice 0x31)
        (slice.val * 128 + n.val))) ∧
    (∀ (port link : Fin 4) (n : Nat), linkUpAt s port link = true →
      exec (.bisnpCreditGrant port link n) s = .next ((s.xing.map (·.1)).foldl trySendSnoop
        (modLink s (linkKey port link) fun l => { l with credSnp := l.credSnp + n }))) ∧
    (∀ (m : M2S) (ans : BiAns) (seat w ali : Nat), (linkAt s (linkKey m.port m.link)).up = true →
      (linkAt s (linkKey m.port m.link)).mem = true → domAwake s (2 + m.port.val) = true →
      seatOf s m.port m.link m.id = some seat → findWin s seat m.hpa = some (w, ali) →
      let dla := (winAt s w).dlaHank * 0x200000 + (m.hpa - aliasBase (winAt s w) ali)
      let mine := fun x : Xing => x.line == lineIdx dla && x.seat == seat && x.ali == ali &&
        x.sent == some (linkKey m.port m.link) && x.ans.isNone
      (findXing s mine = none → exec (.biRsp m ans) s = .next (lateBiRsp s seat dla)) ∧
      (∀ r x, findXing s mine = some (r, x) → writeFirst (noteAnswered s seat) x = false → exec (.biRsp m ans) s =
        .next (snoopDone (noteAnswered s seat) r x (if x.pclr && ans = .e then .i else ans))) ∧
      (∀ r x, findXing s mine = some (r, x) → writeFirst (noteAnswered s seat) x = true → exec (.biRsp m ans) s =
        .next (modXing (noteAnswered s seat) r fun _ => some { x with ans := some ans, wbAhead := true }))) ∧
    (∀ (slice : Fin 16) (n : Fin 128) (x : Xing) (t0 : Nat), xingAt s (slice.val * 128 + n.val) = some x →
      x.start = some t0 →
      let u := modSeat (advanceTo s (t0 + clampN 10 10000 (fld (regN s (crlBase slice)) 13 0) * 1000 - x.ran)) x.seat
        fun y => { y with state := if y.state = .attached then .suspect else y.state, answered := 0 }
      exec (.biTimeout slice n) s = .next (logEvFor (bump (breakLine u x.line x.win srcTimeout) (crlBase slice + 8))
        (srcOf (crlBase slice)) 0x4001 sevErr (le 2 x.seat ++ le 8 (x.line * 64) ++ le 2 slice) [x.seat] [x.win]))

/-- R98–R104, R114, R115, R119: the creel's steps, each of which completes. CREEL_REQUEST: a write of the line's EXCLUSIVE
holder is granted at once and frees the entry, one of another seat than the holder is returned; any other request reaches
its slice, where a current read of a line without an entry is granted at once. WRITE_RETRY: a returned write is sent
again. CONFLICT_QUEUE_ADVANCE: the line's first waiting request is served, and leaves the queue once it no longer waits.
CREEL_ENTRY_ECC_ERROR starts a recovery, which CREEL_RECOVERY_COMPLETE ends when its last snoop has ended, and
CREEL_SLICE_READY ends a slice's initialisation. Forms whose completion it states: creelRequest, conflictQueueAdvance,
writeRetry, creelEntryEccError, creelRecoveryComplete, creelSliceReady. -/
def Obligations.CreelSteps : Prop :=
  ∀ (s : State) (slice : Fin 16),
    (∀ (e : Fin 24576) (t : Trk), trkAt s e = some t → creelReady s slice e = true → requestArrives s slice e = true →
      (isWrite t.m.op = true → t.resent = false → serialMode s = s.serialIn →
        let line := lineIdx t.m.dla
        snoopedWriter s t = false → actAt s line = none →
        (∀ k, findEntry s line = some k → (creelAt s k).st = .exclusive → (creelAt s k).ptrs = [t.m.seat] →
          t.m.seat < 1024 →
          exec (.creelRequest slice [e]) s = .next (grantTrk
            (freeCentry (pmuEvent s 2 (crlSlice (line * 64)) 0x30) k) e (some .cmp) false)) ∧
        (∀ k, findEntry s line = some k → (creelAt s k).ptrs ≠ [t.m.seat] →
          exec (.creelRequest slice [e]) s = .next (modTrk s e fun _ => some { t with returned := true }))) ∧
      (isWrite t.m.op = false ∨ t.resent = true →
        let u := serialSwitch s
        let line := lineIdx t.m.dla
        exec (.creelRequest slice [e]) s = .next (creelRequest u line t.m.win (.trk e) (kindOf t) t.m.seat t.m.ali) ∧
        (kindOf t = .current → serialMode s = s.serialIn → actAt s line = none → victimFor s line = false →
          ((sliceAt s (crlSlice (line * 64))).confq.any fun x => x.1 == line) = false →
          findEntry s line = none → missBroadcasts s t.m.win (line * 64) = false →
          exec (.creelRequest slice [e]) s = .next (grantTrk
            (pmuEvent (unIdle (unIdleFabric s) 22) 2 (crlSlice (line * 64)) 0x30) e none false)))) ∧
    (∀ (e : Fin 24576) (t : Trk), trkAt s e = some t → t.returned = true →
      ∃ u, exec (.writeRetry e) s = .next u ∧ trkAt u e = some { t with resent := true } ∧
        u = { s with trk := tabSet none s.trk e (some { t with resent := true }) }) ∧
    (∀ line, crlSlice (line * 64) = slice.val → actAt s line = none → victimFor s line = false →
      ((sliceAt s slice).purges.find? fun p => p.1 == line) = none →
      ∀ e t k seat ali, trkAt s e = some t →
        ((sliceAt s slice).confq.find? fun x => x.1 == line) = some (line, .trk e, k, seat, ali) →
        let v := creelServe s line ((winOfDla s (line * 64)).getD 0) (.trk e) (kindOf t) seat ali false
        (stillWaits v line (.trk e) = true → exec (.conflictQueueAdvance slice line) s = .next v) ∧
        (stillWaits v line (.trk e) = false → exec (.conflictQueueAdvance slice line) s =
          .next (modSlice v slice fun x => { x with confq := x.confq.filter fun y => !(y.1 == line && y.2.1 == .trk e) })) ∧
        (kindOf t = .current → findEntry s line = none → missBroadcasts s ((winOfDla s (line * 64)).getD 0) (line * 64) = false →
          v = grantTrk (pmuEvent s 2 slice 0x30) e none false)) ∧
    (∀ dam : List (Nat × Nat × Bool), dam ≠ [] → (∀ d ∈ dam, d.1 < 16384 ∧ d.2.1 < 16) →
      exec (.creelEntryEccError slice dam) s = .next (recoverEntries s slice dam)) ∧
    ((sliceAt s slice).recov = true → (∀ e a, (e, some a) ∈ s.acts → a.who = .recover → crlSlice (e * 64) ≠ slice.val) →
      (∀ p ∈ (sliceAt s slice).purges, p.2 ≠ 1025) →
      exec (.creelRecoveryComplete slice) s =
        .next { s with slices := tabMod {} s.slices slice fun x => { x with recov := false, damaged := [] } }) ∧
    exec (.creelSliceReady slice) s = .next { s with slices := tabMod {} s.slices slice fun x => { x with ready := true } }

/-- R33, R36, R62, R83, R98, R206, R207: a read, an invalidate or an eviction notice that its port takes. Refused where it
decodes to nothing; served by the doorbell page where its line lies there; in an HDM-H window, where there is no coherence
to keep, everything but a read completes at once; every other one takes a credit and joins the ingress buffer, and leaves
an empty one at once where it is granted a tracker entry. Forms whose completion it states: memRd, memRdData, memInv,
memInvNt, memClnEvct. -/
def Obligations.HostRequests : Prop :=
  ∀ (s : State) (m : M2S), m2sServed s m false = true →
    let t := m2sAwake s m
    let takes := fun (op : ReqOp) => match decodeM2S s m with
      | none => refuseM2S t m op
      | some d =>
        let u := leavesIngress t m false
        let msg := msgOf t m (some d) op [] 0
        if isDoorbell s d = true then
          (if isRead op then sendDrs u msg (some ((List.range 8).flatMap fun i => le 8 (getField u d.seat (d.dla % 0x1000 / 64 * 64 + 8 * i)))) 0
           else sendNdr u msg .cmp 0)
        else if isRead op = false ∧ isDb s d.win = false then sendNdr u msg .cmp 0
        else resume (arrive t (msgOf t m (some d) op (lineOf []) 0))
    (∀ snp, exec (.memRd m snp) s = .next (takes (.rd snp))) ∧
    exec (.memRdData m) s = .next (takes .rdData) ∧
    exec (.memInv m) s = .next (takes .inv) ∧
    exec (.memInvNt m) s = .next (takes .invNT) ∧
    exec (.memClnEvct m) s = .next (takes .clnEvct) ∧
    (∀ d op way, let msg := msgOf t m (some d) op (lineOf []) 0
      let u := noteUse (modLink t (linkKey m.port m.link) fun l => { l with credReq := l.credReq - 1 }) (poolOf msg) msg.seat
      let v := modIngress u m.port fun q => q ++ [msg]
      isWrite op = false → ingressAt s m.port = [] → staleDecode v msg = false → grantWay v msg = some way →
      let w := takeEntry (modIngress v m.port fun _ => []) msg way
      arrive t msg = entryPass w.1 w.2)

/-- R15, R36, R62, R107, R206: a write that its port takes. A crossing writeback goes into the buffer of the record that
snoops its line; any other write is refused, serves the doorbell page, or is a request. Forms whose completion it states:
memWr, memWrPtl. -/
def Obligations.HostWrites : Prop :=
  ∀ (s : State) (m : M2S) (data : List Byte), m2sServed s m true = true →
    let t := m2sAwake s m
    let takes := fun (op : ReqOp) (mask : BitVec 64) => match crossingOf s m with
      | some (r, x, d) => resume (modXing (leavesIngress t m true) r fun _ =>
          some { x with buf := x.buf ++ [{ msgOf t m (some d) op (lineOf data) mask with cred := false }] })
      | none => match decodeM2S s m with
        | none => refuseM2S t m op
        | some d =>
          if isDoorbell s d = true then
            sendNdr (doorbellLine (leavesIngress t m true) d.seat (d.dla % 0x1000 / 64 * 64) mask data) (msgOf t m (some d) op data mask) .cmp 0
          else resume (arrive t (msgOf t m (some d) op (lineOf data) mask))
    exec (.memWr m data) s = .next (takes .wr (BitVec.allOnes 64)) ∧
    (∀ mask, exec (.memWrPtl m mask data) s = .next (takes .wrPtl mask))

/-- R27, R36, R105: the other M2S messages. A read hint returns nothing and starts a DRAM read only below 75 % occupancy
of the port's read pool, of a hot line or of a compressed segment's run; a BIConflict is acknowledged at once, or after
the grant of the request it names; an unsupported opcode is a protocol occurrence whose request completes with poison or
Cmp. Forms whose completion it states: memSpecRd, biConflict, unsupportedM2sOpcode. -/
def Obligations.HintsAndConflicts : Prop :=
  ∀ (s : State) (m : M2S),
    let t := m2sAwake s m
    let u := fun rwd => leavesIngress t m rwd
    (m2sServed s m false = true →
      (decodeM2S s m = none → exec (.memSpecRd m) s = .next (countRefusal (u false) m)) ∧
      (∀ d, decodeM2S s m = some d →
        (poolSize m.port * 3 ≤ (generalUsed s m.port + reserveUsed s m.port) * 4 ∨ isDoorbell s d = true →
          exec (.memSpecRd m) s = .next (u false)) ∧
        (¬ poolSize m.port * 3 ≤ (generalUsed s m.port + reserveUsed s m.port) * 4 → isDoorbell s d = false →
          (∀ line kgen page, skeinLook s d.win d.dla = .hot line kgen page → chOnline s (chOfLine s line) = true →
            exec (.memSpecRd m) s = .next (casLines (u false) [line] false d.qc d.seat)) ∧
          (∀ run off len kgen, skeinLook s d.win d.dla = .comp run off len kgen → lcacheAt s (lineIdx d.dla) = [] →
            (∀ l ∈ runLines run off (8 * len), chOnline s (chOfLine s l) = true) →
            exec (.memSpecRd m) s = .next (casLines (u false) (runLines run off (8 * len)) false d.qc d.seat))))) ∧
    (m2sServed s m true = true →
      (decodeM2S s m = none → exec (.biConflict m) s =
        .next (sendNdr (countRefusal (u true) m) (msgOf t m none .wr [] 0) .cmp 0)) ∧
      (∀ d, decodeM2S s m = some d →
        let granted := entriesWhere s fun x => x.m.seat == d.seat && lineIdx x.m.dla == lineIdx d.dla && x.coherent && !x.silent
        (∀ e, isDb s d.win = true → granted.getLast? = some e → exec (.biConflict m) s = .next (modTrk (u true) e fun o =>
          o.map fun x => { x with acks := x.acks ++ [(m.port.val, m.link.val, m.id, m.tag)] })) ∧
        (isDb s d.win = false ∨ granted = [] → exec (.biConflict m) s =
          .next (sendNdr (u true) (msgOf t m (some d) .wr [] 0) .biConflictAck 0)))) ∧
    (∀ rwd, m2sServed s m rwd = true → exec (.unsupportedM2sOpcode m rwd) s =
      .next (turnAway (protoOccurrence t m.port m.link protoOpcode) m rwd))

/-- R125, R129, R130, R133, R136: fills and epochs. An entry that is missing is brought into the skein cache, or its range
is lost where its DRAM copy is uncorrectable; a parity error of a cached entry loses the fields that live there alone, and
the entry is fetched again; a home fill that has its slot maps an unmapped page of a thick window to zeros; the end of an
epoch sweeps every hank entry's HEAT and COLD and queues what is due. Forms whose completion it states: skeinMissFill,
skeinCacheEccError, homeFill, epochEnd. -/
def Obligations.SkeinAndEpochs : Prop :=
  ∀ (s : State),
    (∀ (win : Fin 4096) (hank : Nat) (page : Option (Fin 512)) (bad : Bool), hank < (winAt s win).size →
      let key := entryKey win hank (pageArg page)
      (cached s key = false → exec (.skeinMissFill win hank page bad) s =
        .next (resume (fetchEntry s win hank (pageArg page) bad))) ∧
      (cached s key = true →
        let u := match page with
          | some p => modPage s (pageKey win hank p) fun x => { x with rcnt := 0, rep := 0 }
          | none => modHank s win hank fun h => { h with heat := 0, cold := 0 }
        let dla := match page with
          | some p => pageDla u win hank p
          | none => hankDla u win hank
        let v := logEvFor u (srcOf (sknBase (sknSlice dla))) 0x5001 sevNote (le 2 win ++ le 8 dla ++ kindByte 130 0) [] [win.val]
        exec (.skeinCacheEccError win hank page bad) s = .next (resume (fetchKey v win hank (pageArg page) bad)))) ∧
    (∀ (win : Fin 4096) (hank : Nat) (page : Fin 512), (winAt s win).elastic = false → hank < (winAt s win).size →
      (pageOf s win hank page).tier = .unmapped → (winAt s win).state ≠ .offline → (winAt s win).cause ≠ some .reweave →
      let j := Job.fill (pageKey win hank page)
      let u := giveUnit s j 4 15 0
      inSlot u j = true → exec (.homeFill win hank page) s = .next (resume (leaveSlot
        (mapHotZero u win hank page (homeFrame (hankAt s win hank) page) 15) j true))) ∧
    ∃ p fz o, advanceTo s (s.carder.epochAt + epochNs s) =
        { s with now := max s.now (s.carder.epochAt + epochNs s), pmu := p, fns := fz, out := o } ∧
      let u : State := { s with
        now := max s.now (s.carder.epochAt + epochNs s), pmu := p, fns := fz, out := o
        hanks := tabMap none (fun _ h => h.map (sweepHank (clampN 1 16 (fld (regN s (cardBase + 4)) 12 8)))) s.hanks
        carder := { s.carder with epoch := s.carder.epoch + 1, epochAt := s.carder.epochAt + epochNs s } }
      exec .epochEnd s = .next ((u.hanks.map (·.1)).foldl sweepHome ((u.hanks.map (·.1)).foldl sweepDemote u))

/-- R135, R137: promotion and demotion of a page that its spindle holds. A promotion decodes the run into a frame and
becomes visible at its end, when the entry switches to HOT and the run is freed; a demotion that finds all lines readable
and at most 448 units of 8 bytes writes its run at its end, when the entry switches to COMPRESSED. Forms whose completion
it states: promotion, promotionComplete, demotion, demotionComplete. -/
def Obligations.TierChanges : Prop :=
  ∀ (s : State) (win : Fin 4096) (hank : Nat) (page : Fin 512) (noise : List (List Byte)),
    let pk := pageKey win hank page
    underCursor s win hank page = false →
    ((s.carder.promo.any fun q => q.key == pk && !q.run) = true → inSlot s (.promo pk) = true →
      (pageAt s pk).tier = .compressed →
      (∀ u f, (if (hankAt s win hank).guar then (s, some (homeFrame (hankAt s win hank) page)) else allocFrame s) = (u, some f) →
        let p := pageAt s pk
        let qc := match u.carder.promo.find? fun q => q.key == pk with
          | some { why := .write qc, .. } => qc
          | _ => tierClass u
        let a := readUnit win hank (some page.val) p.kgen none qc (runGranules p.len * 4) u (p.addr * 4) noise
        let b := decodePage win (pageDla u win hank page) p a.2 8 a.1 []
        let k := slotOf b.1 win
        let v := writeUnit k.cur k.gen qc b.1 (frameLine f) b.2
        exec (.promotion win hank page noise) s = .next { v with carder := { v.carder with
          promo := v.carder.promo.map fun q => if q.key == pk then { q with run := true, frame := some f, gen := k.gen } else q } }) ∧
      (∀ u, (if (hankAt s win hank).guar then (s, some (homeFrame (hankAt s win hank) page)) else allocFrame s) = (u, none) →
        exec (.promotion win hank page noise) s = .next (resume (endPromo u pk false)))) ∧
    (∀ q, (s.carder.promo.find? fun q => q.key == pk && q.run) = some q →
      let p := pageAt s pk
      let u := putPage (poisonMasked (dropLcache s (pageDla s win hank page) 64) (frameLine (q.frame.getD 0)) p.pmask) win hank page { p with
        tier := .hot, addr := q.frame.getD 0, kgen := q.gen, len := [], pmask := 0, promo := false, incomp := false }
      exec (.promotionComplete win hank page) s = .next (resume (tryDirect (bump (endPromo
        (if runGranules p.len = 0 then u else freeRun u p.addr) pk true) (cardBase + 0x40)) win hank))) ∧
    ((s.carder.demo.any fun q => q.key == pk && q.enc.isNone && !q.run) = true → inSlot s (.demo pk) = true →
      moving s pk = false → (pageOf s win hank page).tier = .hot →
      let u := putEntry (directToPaged s win hank) win hank page fun p => { p with demo := true }
      let p := pageAt u pk
      let a := readUnit win hank (some page.val) p.kgen (some (pageDla u win hank page)) (tierClass u) 64 u (frameLine p.addr) noise
      let segs := (List.range 8).map fun i =>
        encodeSegment (winAt a.1 win).clevel (bytesAt (a.2.flatMap fun o => o.getD []) (512 * i) 512)
      let len : List Nat := segs.map (·.1)
      exec (.demotion win hank page noise) s = .next (
        if (a.1.carder.demo.any fun q => q.key == pk) = false then resume a.1
        else if a.2.all Option.isSome = false then resume (bump (endDemo a.1 pk false false) (cardBase + 0x48))
        else if 448 < (len.foldl (· + ·) 0 : Nat) then resume (bump (endDemo a.1 pk true false) (cardBase + 0x4C))
        else { a.1 with carder := { a.1.carder with demo := a.1.carder.demo.map fun q =>
          if q.key == pk then { q with run := true, enc := some (len, segs.flatMap (·.2)) } else q } })) ∧
    (∀ q len bytes u g, (s.carder.demo.find? fun q => q.key == pk && q.run) = some q → q.enc = some (len, bytes) →
      let k := runGranules len
      (if k = 0 then (s, some 0) else allocRun s k) = (u, some g) →
      let p := pageAt u pk
      let sl := slotOf u win
      let v := endDemo (putPage (writeUnit sl.cur sl.gen (tierClass u) u (g * 4)
          (linesOf (k * 4) (bytes ++ List.replicate (k * 256 - bytes.length) 0))) win hank page { p with
        tier := .compressed, addr := g, len := len, kgen := sl.gen, pmask := 0, demo := false, promo := false }) pk false true
      let x := bumpBy (bump v (cardBase + 0x44)) (cardBase + 0x58) (len.filter (· == 64)).length
      exec (.demotionComplete win hank page) s =
        .next (if (hankAt x win hank).guar then x else freeFrame x p.addr))

/-- R14, R138, R154: compaction and segment decodes. A move that has its slot copies one unit out of the source hank into
another of its kind; its next command switches the page entry to the copy; the old storage is freed when no read that was
issued with its address is in flight. A decode answers the requested line and keeps the segment in the line cache, or ends
every read of the segment with poison. Forms whose completion it states: compactionMove, compactionComplete,
segmentDecode. -/
def Obligations.CompactionAndDecode : Prop :=
  ∀ (s : State),
    (∀ (win : Fin 4096) (hank : Nat) (page : Fin 512),
      let pk := pageKey win hank page
      (∀ m, (s.carder.moves.find? fun m => m.key == pk) = some m → m.switched = false →
        underCursor s win hank page = false → inSlot s (.move pk) = true →
        let u := putPage s win hank page { pageOf s win hank page with addr := m.newAddr }
        exec (.compactionMove win hank page) s = .next (resume (leaveSlot { u with carder := { u.carder with
          moves := u.carder.moves.map fun x => if x.key == m.key && !x.switched then { x with switched := true } else x } }
          (.move m.key) true))) ∧
      ((s.carder.moves.find? fun m => m.key == pk) = none → canMove s win hank page = true →
        let g := giveUnit s (.move pk) 4 (tierClass s) 0
        let p := pageOf g win hank page
        inSlot g (.move pk) = true → ∀ u v a, usedAt g (storeHank p) = some u → moveTarget g (storeHank p) u = (v, some a) →
          let r := readUnit win hank (some page.val) p.kgen none (tierClass v) (storeLines p) v (storeFirst p p.addr) []
          let x := writeUnit (keyOfGen r.1 win p.kgen) p.kgen (tierClass r.1) r.1 (storeFirst p a) r.2
          exec (.compactionMove win hank page) s = .next { x with carder := { x.carder with moves := x.carder.moves ++
            [{ key := pk, oldAddr := p.addr, newAddr := a, isRun := p.tier == .compressed }] } }) ∧
      (∀ m, (s.carder.moves.find? fun m => m.key == pk && m.switched) = some m → readsOld s m = false →
        let u := { s with carder := { s.carder with moves := s.carder.moves.filter fun x => x.key != pk } }
        exec (.compactionComplete win hank page) s = .next (if m.isRun then freeRun u m.oldAddr else freeFrame u m.oldAddr))) ∧
    (∀ (e : Fin 24576) (t : Trk) (noise : List (List Byte)) (run o len : Nat), trkAt s e = some t →
      t.accepted = true → t.decoding = true → inSlot s (.decode e) = true → readIssued s e = true →
      (∀ x ∈ t.snap, chOnline s (chOfLine s x.line) = true) → t.loc = some (.comp run o len) →
      let r := readLines s none t.snap noise
      let v := leaveSlot r.1 (.decode e) true
      (∀ b seg, r.2 = some b → plzDecode (bytesAt b (o % 64) (8 * len)) 512 = some seg →
        let x := endRead v e t (some (bytesAt seg (t.m.dla / 64 % 8 * 64) 64)) t.devLoad
        let p := pageOf x t.m.win (hankOff x t.m.win t.m.dla) (pageNo t.m.dla)
        exec (.segmentDecode e noise) s = .next (passLine
          (if p.tier = .compressed && p.addr == run then fillLcache x t.m.dla seg else x) (lineIdx t.m.dla))) ∧
      (∀ b, r.2 = some b → plzDecode (bytesAt b (o % 64) (8 * len)) 512 = none → exec (.segmentDecode e noise) s =
        .next (passAll (poisonWaiters (segmentError v t.m.win t.m.dla 1) t.m.win t.m.dla))) ∧
      (r.2 = none → exec (.segmentDecode e noise) s =
        .next (passAll (poisonWaiters (segmentError v t.m.win t.m.dla 2) t.m.win t.m.dla))))

/-- R176–R178, R184, R187, R188, R392: key walks and the TRNG. A REKEY converts its next unit line by line in a slot of a
SERVICE spindle, writes GEN through to the unit's entry when the last line is done, and retires the old generation when no
unit is left. A failing health test stops draws and is logged once in 1 ms; a due metadata key is drawn when the tests
have passed. Forms whose completion it states: rekeyUnitConvert, trngHealthFail, trngKeyDraw. -/
def Obligations.KeyWalksAndTrng : Prop :=
  ∀ (s : State),
    (∀ (win : Fin 4096) (noise : List (List Byte)) (u : State), (slotOf s win).st = .rekeying → (slotOf s win).win = win.val →
      (slotOf s win).peerKey = false → (slotOf s win).stopped = false →
      ((slotOf s win).cursor = none → walkOn (walkHanks s win (slotOf s win).walk) s win = (u, none) →
        exec (.rekeyUnitConvert win noise) s = .next (resume (retireWalk u win))) ∧
      (∀ off page first n line, (((slotOf s win).cursor = some (off, page, line) ∧ u = s) ∨
          ((slotOf s win).cursor = none ∧ walkOn (walkHanks s win (slotOf s win).walk) s win = (u, some (off, page)) ∧
            line = first)) →
        tierBusy u win off page = false →
        let g := giveUnit u (.rekey win) 5 (walkClass u (slotOf s win)) 0
        inSlot g (.rekey win) = true → unitLines g win off page = (first, n) →
        let left := first + n - line
        let v := fun k => walkSteps (convertLines win k g line noise) win (stepsDone page (line - first) (line + k - first) n)
          (decide (k = left) || (page.isNone && (line + k - first) % 64 == 0))
        (noise = [] ∨ left ≤ noise.length → exec (.rekeyUnitConvert win noise) s = .next (resume (tryDirect
          (modSlot (setUnitGen (v left) win off page) (winAt (v left) win).keySlot fun y => { y with cursor := none }) win off))) ∧
        (noise ≠ [] → noise.length < left → exec (.rekeyUnitConvert win noise) s =
          .next (modSlot (v noise.length) (winAt (v noise.length) win).keySlot fun y =>
            { y with cursor := some (off, page, line + noise.length) })))) ∧
    (let u := { s with keys := { s.keys with trngOk := false, failing := true, failSeen := true, fails := min 0xFFFF (s.keys.fails + 1) } }
     exec .trngHealthFail s = .next (if firstInMs s 184 0 then
        logEv (markMs u 184 0) (srcOf secBase) 0x9002 sevErr (le 3 0 ++ kindByte 184 0) else u)) ∧
    (s.keys.metaDue = true → s.keys.failing = false →
      (s.boot.phase = .keyDraw → exec .trngKeyDraw s = .next { s with
        keys := { s.keys with trngOk := true, next := s.keys.next + 1, metaKey := some s.keys.next, metaDue := false, metaFail := false }
        boot := { s.boot with phase := .firmware } }) ∧
      ((s.boot.phase = .firmware ∨ s.boot.phase = .training ∨ s.boot.phase = .run) → exec .trngKeyDraw s = .next { s with
        keys := { s.keys with trngOk := true, next := s.keys.next + 1, metaKey := some s.keys.next, metaDue := false,
                              metaFail := false } }))

/-- R187, R190–R193, R195, R198: the spindles' own steps. The unit or descriptor that ranks first is admitted where a
spindle may take it; an idle spindle gates its clock at GATE_CYC; it lends to the role with the deepest queue at IDLE_NS;
a local-store error is counted and ends what it hit; a sample is taken at the end of its period where SAMPLE_EN is set.
Forms whose completion it states: spindleClockGate, spindleLendStart, localStoreError, spindlePcSample, spindleUnitAdmit.
-/
def Obligations.SpindleSteps : Prop :=
  ∀ (s : State),
    (admissionStopped s = false →
      let d := if (pickSpindle s 5 0 48 4).isSome then nextDesc s else none
      (∀ u, nextUnit s = some u → (∀ k v, d = some (k, v) → ranksAhead v u = false) →
        exec .spindleUnitAdmit s = .next (admitUnit s u) ∧
        (∀ n, pickSpindle s u.role u.slice u.avoid u.bq = some n → exec .spindleUnitAdmit s =
          .next (placeUnit (touchHome { s with units := s.units.filter fun x => x.job != u.job } u.role) n u))) ∧
      (∀ k v, d = some (k, v) → (∀ u, nextUnit s = some u → ranksAhead v u = true) →
        exec .spindleUnitAdmit s = .next (tryStart s k) ∧
        (∀ x n, descAt s k = some x → descMayStart s k x = true → pickSpindle s 5 0 48 4 = some n →
          exec .spindleUnitAdmit s = .next (startDesc s k n x))) ∧
      (nextUnit s = none → d = none → exec .spindleUnitAdmit s = .next ((s.units.map (·.role)).eraseDups.foldl noteWait s))) ∧
    (∀ n : Fin 48, (spnAt s n).st = .run → (spnAt s n).slots = [] →
      (bitOf (regN s (spnBase n + 0xC)) 0 = false ∨ (spnAt s n).home = 0) →
      let u := advanceTo s ((spnAt s n).empty + cycNs s (max 8 (fld (regN s (spnBase n + 0xC)) 15 8)))
      exec (.spindleClockGate n) s = .next (modSpn u n (gateSpn u.now))) ∧
    (∀ (n : Fin 48) (role : Fin 6), spnUsable s n = true → homeUnits (spnAt s n) = 0 → roleWaits s (spnAt s n).home = false →
      borrowedUnits (spnAt s n) = 0 → mayLend s n role = true →
      (∀ r, r < 6 → mayLend s n r = true → roleQueue s r * homesOf s role ≤ roleQueue s role * homesOf s r) →
      exec (.spindleLendStart n role) s = .next (modSpn (advanceTo s ((spnAt s n).homeIdle + spnIdleNs s n)) n fun x => { x with lending := some role.val })) ∧
    (∀ (n : Fin 48) (area : LsArea),
      let u := bump s (spnBase n + 0x24)
      exec (.localStoreError n area true) s = .next u ∧
      exec (.localStoreError n area false) s = .next (match area with
        | .slotArea slot => failUnit u n slot
        | .working slot => failUnit u n slot
        | .deposit i => modSpn u n fun x => { x with deposits := x.deposits.eraseIdx i }
        | .microcode => logEv (failSpindle u n) (srcOf (spnBase n)) 0xB001 sevErr (le 2 n ++ kindByte 193 0))) ∧
    (∀ (n : Fin 48) (slot : Fin 32) (pc : BitVec 13), bitOf (regN s (spnBase n + 0x18)) 0 = true → (spnAt s n).st = .run →
      let role := match (spnAt s n).slots.find? fun e => e.1 == slot.val with
        | some (_, u) => u.role
        | none => (spnAt s n).home
      let due := (spnAt s n).pcAt + sampNs s n
      let u := modSpn (advanceTo s due) n fun x => { x with
        pcNew := true, pcSlot := slot, pcRole := role, pc := pc.toNat, pcAt := due }
      exec (.spindlePcSample n slot pc) s = .next (if bitOf (regN s (spnBase n + 0x18)) 1 then pmuIrq u true else u))

/-- R206–R208, R226: the doorbells. A field of a seat's doorbell page is written by a host write into the doorbell hank or
by a write into the page of a function's BAR4. The first reaches the owner's page and is answered with Cmp; the second
reaches the page only where it is the function's own, and is counted as refused elsewhere. Forms whose completion it
states: sqTailDoorbell, cqHeadDoorbell, ringEnable, ringDisable, cqSetup. -/
def Obligations.DoorbellRoutes : Prop :=
  ∀ (s : State) (k : Fin 64) (val : BitVec 64),
    (∀ (m : M2S) (d : Dec), m2sServed s m true = true → decodeM2S s m = some d → isDoorbell s d = true →
      let t := m2sAwake s m
      let put := fun (off v : Nat) => sendNdr (putField (leavesIngress t m true) d.seat off v) (msgOf t m (some d) .wr [] 0) .cmp 0
      (d.dla % 0x1000 / 64 = 16 * k.val / 64 → exec (.sqTailDoorbell (.inl m) k val) s = .next (put (16 * k.val) val.toNat)) ∧
      (d.dla % 0x1000 / 64 = (16 * k.val + 8) / 64 →
        exec (.cqHeadDoorbell (.inl m) k val) s = .next (put (16 * k.val + 8) val.toNat)) ∧
      (d.dla % 0x1000 / 64 = (0x400 + 16 * k.val) / 64 →
        exec (.ringEnable (.inl m) k val) s = .next (put (0x400 + 16 * k.val) (val ||| 1).toNat) ∧
        exec (.ringDisable (.inl m) k val) s = .next (put (0x400 + 16 * k.val) (val &&& ~~~(1 : BitVec 64)).toNat)) ∧
      (d.dla % 0x1000 / 64 = (0x400 + 16 * k.val + 8) / 64 →
        exec (.cqSetup (.inl m) k val) s = .next (put (0x400 + 16 * k.val + 8) val.toNat))) ∧
    (∀ (f : Fn) (page : Nat), linkUpAt s f.port f.link = true → fnServed s f = true →
      let put := fun (off v : Nat) =>
        if fnSeat s f = some page then putField (fnAwake s f) page off v else bump (fnAwake s f) (ringBase + 0x54)
      exec (.sqTailDoorbell (.inr (f, page)) k val) s = .next (put (16 * k.val) val.toNat) ∧
      exec (.cqHeadDoorbell (.inr (f, page)) k val) s = .next (put (16 * k.val + 8) val.toNat) ∧
      exec (.ringEnable (.inr (f, page)) k val) s = .next (put (0x400 + 16 * k.val) (val ||| 1).toNat) ∧
      exec (.ringDisable (.inr (f, page)) k val) s = .next (put (0x400 + 16 * k.val) (val &&& ~~~(1 : BitVec 64)).toNat) ∧
      exec (.cqSetup (.inr (f, page)) k val) s = .next (put (0x400 + 16 * k.val + 8) val.toNat))

/-- R205–R207, R226: what a doorbell field of an existing ring does when an attached seat writes it. A tail must lie in
the queue and leave room, a head must not pass the tail; a value out of range is counted and noted and changes nothing of
the ring. A setup word configures a DISABLED ring and enables it where every check passes, with its indices at 0 and PHASE
1; with ENABLE 0 it disables one that runs. The five commands do so through the seat's own page of BAR4. Forms whose
completion it states: sqTailDoorbell, cqHeadDoorbell, ringEnable, ringDisable, cqSetup. -/
def Obligations.DoorbellFields : Prop :=
  ∀ (s : State) (seat lcl v r : Nat), lcl < 64 → (seatAt s seat).state ≠ .disabling → (seatAt s seat).state ≠ .disabled →
    ringOf s seat lcl = some r →
    let x := ringAt s r
    let e := ringE x
    (x.st ≠ .disabling → v < e → (v + e - x.sqHead) % e + x.since ≤ e - 1 → putField s seat (16 * lcl) v =
      { s with rings := tabMod {} s.rings r fun x => { x with sqTail := v, since := 0 } }) ∧
    (x.st ≠ .disabling → e ≤ v → ∃ b l m fz o c, putField s seat (16 * lcl) v =
      { s with boot := b, log := l, marks := m, fns := fz, out := o, cnts := c } ∧
      tabGet 0 c (ringBase + 0x54) = min cntMax (cntAt s (ringBase + 0x54) + 1)) ∧
    (v < e → (v + e - x.cqHead) % e ≤ (x.cqTail + e - x.cqHead) % e → putField s seat (16 * lcl + 8) v =
      { s with rings := tabMod {} s.rings r fun x => { x with cqHead := v } }) ∧
    (x.st = .disabled → bitOf v 0 = true →
      let u := modRing s r fun x => { x with sqWord := BitVec.ofNat 64 v, sqBase := fld v 51 12, size := fld v 7 4 }
      putField s seat (0x400 + 16 * lcl) v = if enableOk u (ringAt u r) then
        modRing u r fun x => { x with
          st := .enabled, enable := true, sqHead := 0, sqTail := 0, cqHead := 0, cqTail := 0, phase := true, since := 0 }
        else dbRefuse u r) ∧
    (x.st ≠ .disabled → bitOf v 0 = false → putField s seat (0x400 + 16 * lcl) v =
      modRing (disableRing s r false) r fun x => { x with sqWord := x.sqWord &&& ~~~(1 : BitVec 64) }) ∧
    (x.st = .disabled → putField s seat (0x400 + 16 * lcl + 8) v = { s with rings := tabMod {} s.rings r fun x =>
      { x with cqWord := BitVec.ofNat 64 v, cqBase := fld v 51 12, vector := fld v 4 0 } }) ∧
    (∀ (f : Fn) (k : Fin 64) (val : BitVec 64), k.val = lcl → linkUpAt s f.port f.link = true → fnServed s f = true →
      fnSeat s f = some seat →
      let w := fnAwake s f
      (val.toNat = v → x.st ≠ .disabling → v < e → (v + e - x.sqHead) % e + x.since ≤ e - 1 →
        exec (.sqTailDoorbell (.inr (f, seat)) k val) s =
          .next { w with rings := tabMod {} s.rings r fun x => { x with sqTail := v, since := 0 } }) ∧
      (val.toNat = v → v < e → (v + e - x.cqHead) % e ≤ (x.cqTail + e - x.cqHead) % e →
        exec (.cqHeadDoorbell (.inr (f, seat)) k val) s =
          .next { w with rings := tabMod {} s.rings r fun x => { x with cqHead := v } }) ∧
      ((val ||| 1).toNat = v → bitOf v 0 = true → x.st = .disabled →
        let u := modRing w r fun x => { x with sqWord := BitVec.ofNat 64 v, sqBase := fld v 51 12, size := fld v 7 4 }
        enableOk u (ringAt u r) = true → exec (.ringEnable (.inr (f, seat)) k val) s = .next (modRing u r fun x => { x with
          st := .enabled, enable := true, sqHead := 0, sqTail := 0, cqHead := 0, cqTail := 0, phase := true, since := 0 })) ∧
      ((val &&& ~~~(1 : BitVec 64)).toNat = v → bitOf v 0 = false → x.st ≠ .disabled →
        exec (.ringDisable (.inr (f, seat)) k val) s =
          .next (modRing (disableRing w r false) r fun x => { x with sqWord := x.sqWord &&& ~~~(1 : BitVec 64) })) ∧
      (val.toNat = v → x.st = .disabled → exec (.cqSetup (.inr (f, seat)) k val) s =
        .next { w with rings := tabMod {} s.rings r fun x =>
          { x with cqWord := BitVec.ofNat 64 v, cqBase := fld v 51 12, vector := fld v 4 0 } }))

/-- R205, R209, R212, R213, R223, R225, R485: the ring service. It takes the next descriptor, ends it at once where a
check fails and starts it otherwise; a completion record is written at CQ_TAIL, with MSI-X where it is asked for or the
status is not OK; a drained ring goes DISABLED; a descriptor past its limit ends with TIMEOUT. Forms whose completion it
states: completionRecordWrite, ringOpLimitExpiry, ringDrainComplete, descriptorTake. -/
def Obligations.RingService : Prop :=
  ∀ (s : State),
    (∀ r w dla u v d, pickRing s = some r → fetchAt s r = some (w, dla) →
      let n := agentKey (0x10000 + r)
      agentLines (agentOpen s n) n w dla 64 false = (u, true) →
      let x := ringAt u r
      agentRead (agentClose u n) w dla x.qc x.seat = (v, d) →
      let y := { v with qos := { v.qos with rr := tabSet 0 v.qos.rr x.qc (r + 1) } }
      let k := descKey r x.sqHead
      (d = none → exec .descriptorTake s = .next (endDesc (takeDesc y r []) k stPoison 0 0 0)) ∧
      (∀ raw, d = some raw → (∀ st, descCheck (takeDesc y r raw) r raw = some st →
          exec .descriptorTake s = .next (endDesc (takeDesc y r raw) k st 0 0 0)) ∧
        (descCheck (takeDesc y r raw) r raw = none → exec .descriptorTake s = .next (tryStart (takeDesc y r raw) k)))) ∧
    (∀ r, pickRing s = some r → fetchAt s r = none → exec .descriptorTake s = .next (haltRing s r)) ∧
    (∀ (ring : Fin 8192) (i : Nat) (d : Desc), descAt s (descKey ring i) = some d → d.st = .ended →
      firstEnded s ring = some (descKey ring i) → d.late = none →
      let x := ringAt s ring
      (bitOf (dFlags d.raw) 2 = true → d.status = stOk →
        exec (.completionRecordWrite ring i) s = .next (dropDesc s ring (descKey ring i))) ∧
      (¬ (bitOf (dFlags d.raw) 2 = true ∧ d.status = stOk) → ∀ w dla u v,
        seatRange s x.seat (x.cqBase * 4096 + x.cqTail * 32) 32 = some (w, dla) →
        accessStatus s w dla 32 (if d.startOrd = 0 then s.stamp else d.startOrd) = stOk →
        agentPrepare s (descKey ring i) w dla 32 x.qc = (u, true) →
        agentPut u (descKey ring i) w dla x.qc x.seat (recordBytes d i x.phase) (fun _ => false) = (v, 32) →
        let y := modRing (dropDesc v ring (descKey ring i)) ring fun z => { z with
          cqTail := (z.cqTail + 1) % ringE z, phase := if x.cqTail + 1 = ringE x then !z.phase else z.phase }
        let call := (bitOf (dFlags d.raw) 1 || d.status != stOk) && x.vector != 0 && seatServed (seatAt y x.seat)
        exec (.completionRecordWrite ring i) s = .next (if call then msix y x.seat x.vector else y))) ∧
    (∀ ring : Fin 8192, (ringAt s ring).st = .disabling → (ringAt s ring).inflight = 0 →
      exec (.ringDrainComplete ring) s = .next (if (ringAt s ring).removed then modRing s ring fun _ => {}
        else ringEvent (modRing s ring fun x => { x with st := .disabled }) ring sevInfo 2)) ∧
    (∀ (ring : Fin 8192) (i : Nat) (d : Desc), descAt s (descKey ring i) = some d → d.st = .started → dOp d.raw ≠ 12 →
      let k := descKey ring i
      let u := bump (advanceTo s (d.startAt + d.limitMs * 1000000)) (ringBase + 0x50)
      (∀ p, (s.passes.find? fun p => p.by_ == .ring (ringOfKey k) (k % 0x10000)) = some p → exec (.ringOpLimitExpiry ring i) s =
        .next (endDesc { u with passes := s.passes.filter fun q => q.by_ != .ring (ringOfKey k) (k % 0x10000) } k stTimeout p.lines
          p.corr (p.unc + p.pois))) ∧
      ((s.passes.find? fun p => p.by_ == .ring (ringOfKey k) (k % 0x10000)) = none →
        let run : Running := { k := k, b := d.raw, seat := (ringAt s (ringOfKey k)).seat, qc := (ringAt s (ringOfKey k)).qc, since := d.startOrd }
        exec (.ringOpLimitExpiry ring i) s = .next (endDesc (keepCheckpoint u k run) k stTimeout 0 0 (nextAtStop d.raw))))

/-- R215–R217: NOP, COPY, FILL, CRC, HASH of a running descriptor whose operands may be touched and whose lines and pages
are ready, each with its result and what it writes. R224, R301, R453: what may not be touched. The access status ends FILL
and CRC, and a write that meets the telemetry buffers while dumps run ends with ACCESS; a range behind a dead port or a
failed link ends with ABORTED, the error response counted and logged, unless no answer can come back. Forms whose
completion it states: nop, copy, fill, crc, hash. -/
def Obligations.CopyFillDigest : Prop :=
  ∀ (s : State) (ring : Fin 8192) (i : Nat) (d : Running),
    (running s ring i 0 = some d → exec (.nop ring i) s = .next (endDesc s d.k stOk 0 0 0)) ∧
    (∀ wa a wb b u v x ls, running s ring i 1 = some d →
      let len := dLenA d.b
      operand s d (dA d.b) len = .ok (wa, a) → operand s d (dB d.b) len = .ok (wb, b) → telemetryMet s wb b len = false →
      agentLines s d.k wa a len false = (u, true) → agentPrepare u d.k wb b len d.qc = (v, true) →
      descSpan v d wa a len = (x, ls) →
      let poisoned := fun (j : Nat) => (ls.getD ((a + j) / 64 - a / 64) (some [])).isNone
      let bad := fun (l : Nat) => poisoned (l * 64 - b) || poisoned (min len (l * 64 + 64 - b) - 1)
      let badIn := fun (n : Nat) =>
        ((List.range (spanLines b len)).filter fun j => bad (b / 64 + j) && decide ((b / 64 + j) * 64 < b + n)).length
      exec (.copy ring i) s = .next (putResult x d wb b (spanBytes ls a len) bad (fun n => (n, badIn n, 0))
        fun y => endDesc y d.k (if badIn len = 0 then stOk else stPoison) len (badIn len) 0)) ∧
    (∀ w dla u, running s ring i 2 = some d →
      let len := dLenA d.b
      operand s d (dB d.b) len = .ok (w, dla) → telemetryMet s w dla len = false → agentPrepare s d.k w dla len d.qc = (u, true) →
      exec (.fill ring i) s = .next (putResult u d w dla ((List.range len).map fun j => (le 8 (dArg0 d.b)).getD (j % 8) 0)
        (fun _ => false) (fun n => (n, 0, 0)) fun y => endDesc y d.k stOk len 0 0)) ∧
    (∀ w dla u x ls, running s ring i 6 = some d →
      let len := dLenA d.b
      operand s d (dA d.b) len = .ok (w, dla) → agentLines s d.k w dla len false = (u, true) →
      descSpan u d w dla len = (x, ls) →
      exec (.crc ring i) s = .next (endDesc x d.k (if (spanPoison ls).isSome then stPoison else stOk)
        (crcOf (if bitOf (dP0 d.b) 0 then poly32 else polyC) (dArg0 d.b) ((spanBytes ls dla len).take (goodLen ls dla len)))
        (goodLen ls dla len) 0)) ∧
    (∀ wa a wb b u v x ls, running s ring i 7 = some d →
      let len := dLenA d.b
      let out := dLenB d.b
      operand s d (dA d.b) len = .ok (wa, a) → operand s d (dB d.b) out = .ok (wb, b) → telemetryMet s wb b out = false →
      agentLines s d.k wa a len false = (u, true) → agentPrepare u d.k wb b out d.qc = (v, true) →
      descSpan v d wa a len = (x, ls) →
      ((spanPoison ls).isSome = false → exec (.hash ring i) s = .next (putResult x d wb b
        (shake256 (spanBytes ls a len) out) (fun _ => false) (fun n => (len, n, 0))
          fun y => endDesc y d.k stOk len out 0)) ∧
      ((spanPoison ls).isSome = true → exec (.hash ring i) s = .next (endDesc x d.k stPoison (goodLen ls a len) 0 0))) ∧
    (∀ st t, running s ring i 2 = some d → operand s d (dB d.b) (dLenA d.b) = .error st →
      operandNote s d (dB d.b) (dLenA d.b) st = some t → exec (.fill ring i) s = .next (endDesc t d.k st 0 0 0)) ∧
    (∀ st t, running s ring i 6 = some d → operand s d (dA d.b) (dLenA d.b) = .error st →
      operandNote s d (dA d.b) (dLenA d.b) st = some t → exec (.crc ring i) s = .next (endDesc t d.k st 0 0 0)) ∧
    (∀ w dla, running s ring i 2 = some d → operand s d (dB d.b) (dLenA d.b) = .ok (w, dla) →
      telemetryMet s w dla (dLenA d.b) = true → exec (.fill ring i) s = .next (endDesc s d.k stAccess 0 0 0)) ∧
    (∀ hpa len w dla l u, seatRange s d.seat hpa len = some (w, dla) → accessStatus s w dla len d.since = stOk →
      rangeBreak s (descStation s d) w dla len = some (l, u) →
      operand s d hpa len = .error stAborted ∧
      (routeBreak s u (descStation s d) = none →
        operandNote s d hpa len stAborted = some (descError s d w l u)) ∧
      (routeBreak s u (descStation s d) ≠ none → operandNote s d hpa len stAborted = none))

/-- R177, R179, R216, R221: ZERO, PROMOTE, DEMOTE and REKEY of a running descriptor. ZERO zeroes what lies outside the
whole pages that UNMAP unmaps; PROMOTE and DEMOTE visit pages in ascending order unless a REKEY's cursor holds one; REKEY,
a descriptor's or the management island's, draws a key set and starts the walk, telling the partner of a mirrored window.
Forms whose completion it states: zero, promote, demote, rekey. -/
def Obligations.ZeroTierRekey : Prop :=
  ∀ (s : State) (ring : Fin 8192) (i : Nat) (d : Running),
    (∀ w dla u v x, running s ring i 3 = some d →
      let len := dLenA d.b
      operand s d (dB d.b) len = .ok (w, dla) → telemetryMet s w dla len = false →
      let pages := if bitOf (dP0 d.b) 0 && (winAt s w).elastic then wholePages dla len else []
      let head := if pages = [] then len else pages.headD 0 - dla
      let tail := if pages = [] then 0 else dla + len - (pages.getLastD 0 + 0x1000)
      agentLines s d.k w dla len true = (u, true) →
      agentReady d.k w d.qc (spanLines dla head) u (dla / 64 * 64) = (v, true) →
      agentReady d.k w d.qc (spanLines (dla + len - tail) tail) v ((dla + len - tail) / 64 * 64) = (x, true) →
      exec (.zero ring i) s = .next (putResult x d w dla (List.replicate head 0) (fun _ => false) (fun n => (n, 0, 0)) fun y =>
        let p := unmapPages w d.k pages y 0
        let q := agentPut p.1 d.k w (dla + len - tail) d.qc d.seat (List.replicate tail 0) fun _ => false
        endAfter q.1 d.k p.2 (if q.2 < tail then stCapacity else stOk) (len - tail + q.2) pages.length)) ∧
    (∀ w dla, operand s d (dA d.b) (dLenA d.b) = .ok (w, dla) →
      let m := spanLines dla (dLenA d.b) / 64
      (∀ j, j < m → underCursor s w (hankOff s w (dla + j * 0x1000)) (pageNo (dla + j * 0x1000)) = false) →
      (running s ring i 10 = some d →
        let r := visitPages w promotable (promoteNow d.qc) m s dla 0
        exec (.promote ring i) s = .next (resume (endDesc r.1 d.k stOk r.2 (m - r.2) m))) ∧
      (running s ring i 11 = some d →
        let r := visitPages w demotable (demoteNow d.qc) m s dla 0
        exec (.demote ring i) s = .next (resume (endDesc r.1 d.k stOk r.2 (m - r.2) m)))) ∧
    (∀ w dla, running s ring i 12 = some d → seatRange s d.seat (dA d.b) 1 = some (w, dla) →
      (winSeats s w).contains d.seat = true → rekeyFree s w →
      let u := startWalk { s with keys := { s.keys with next := s.keys.next + 1 } } w
        (some (d.k / 0x10000, d.k % 0x10000)) false none s.keys.next
      exec (.rekey (.ring ring) i) s = .next (if mirrorPrimary s w then sendKeyset u w else u)) ∧
    (mcServed s = true → (winAt s i).size ≠ 0 → rekeyFree (mcAwake s) i →
      let t := mcAwake s
      let u := startWalk { t with keys := { t.keys with next := t.keys.next + 1 } } i none true none t.keys.next
      exec (.rekey .island i) s = .next (if mirrorPrimary t i then sendKeyset u i else u))

/-- R156–R169, R218: COMPRESS and DECOMPRESS of a running descriptor. Without a context the stream runs on the readable
input and its status, its counts and its error are the results; with one, the context and the history are checked and
loaded first and written back after. Forms whose completion it states: compress, decompress. -/
def Obligations.StreamOps : Prop :=
  ∀ (s : State) (ring : Fin 8192) (i : Nat) (d : Running) (comp : Bool),
    let runs := fun (t : State) =>
      (comp = true → running s ring i 4 = some d → exec (.compress ring i) s = .next t) ∧
      (comp = false → running s ring i 5 = some d → exec (.decompress ring i) s = .next t)
    ∀ (wa a wb b : Nat) (u v : State),
      let op := streamOp d.b comp
      let la := dLenA d.b
      let lb := dLenB d.b
      operand s d (dA d.b) la = .ok (wa, a) → operand s d (dB d.b) lb = .ok (wb, b) → telemetryMet s wb b lb = false →
      agentLines s d.k wa a la false = (u, true) → agentPrepare u d.k wb b lb d.qc = (v, true) →
      (∀ x ls y r, dCtx d.b = none → descSpan v d wa a la = (x, ls) →
        let input : StreamIn := { bytes := (spanBytes ls a la).take (goodLen ls a la), bad := (spanPoison ls).isSome }
        streamOut x d wb b (streamTry op {} [] none input (op.final || comp)) = (y, r) →
        runs (endDesc y d.k r.status r.used r.out.length (r.err + r.errOff * 0x10000))) ∧
      (∀ cx wc cd v₂ x cl, dCtx d.b = some cx → operand v d cx 4096 = .ok (wc, cd) →
        agentPrepare v d.k wc cd 4096 d.qc = (v₂, true) → descSpan v₂ d wc cd 4096 = (x, cl) →
        let raw := spanBytes cl cd 4096
        let ctx := ctxOf raw
        let save := fun (t : State) (r : StreamRes) =>
          let p := agentPut t d.k wc cd d.qc d.seat (ctxBytes t.boot.stepMajor (ctxAfter op ctx r)) fun _ => false
          endDesc p.1 d.k (if p.2 < 4096 then stCapacity else r.status) r.used r.out.length (r.err + r.errOff * 0x10000)
        ((spanPoison cl).isSome = true → runs (endDesc x d.k stPoison 0 0 0)) ∧
        ((spanPoison cl).isSome = false →
          (ctxRefused x raw = true ∨ ctxDiffers raw op = true ∨ op.fmt ≠ 0 ∧ (ctx.histLog < 15 ∨ 23 < ctx.histLog)) →
          runs (endDesc x d.k stBadDesc 0 0 0)) ∧
        ((spanPoison cl).isSome = false → ctxRefused x raw = false → ctxDiffers raw op = false →
          (∀ y ls z r, op.fmt = 0 → descSpan x d wa a la = (y, ls) →
            let input : StreamIn := { bytes := (spanBytes ls a la).take (goodLen ls a la), bad := (spanPoison ls).isSome }
            streamOut y d wb b (streamTry op ctx (histPast ctx (spanBytes [] 0 ctx.histFill)) none input op.final) = (z, r) →
            runs (save z r)) ∧
          (op.fmt ≠ 0 → 15 ≤ ctx.histLog → ctx.histLog ≤ 23 →
            (∀ st n, operand x d ctx.histAddr (2 ^ ctx.histLog) = .error st →
              operandNote x d ctx.histAddr (2 ^ ctx.histLog) st = some n →
              runs (save n (streamStill op ctx (some ctx.histLog) st))) ∧
            (∀ wh hd x₂ x₃ hl y ls z r t, operand x d ctx.histAddr (2 ^ ctx.histLog) = .ok (wh, hd) →
              agentPrepare x d.k wh hd (2 ^ ctx.histLog) d.qc = (x₂, true) →
              descSpan x₂ d wh hd ctx.histFill = (x₃, hl) → (spanPoison hl).isSome = false →
              descSpan x₃ d wa a la = (y, ls) →
              let input : StreamIn := { bytes := (spanBytes ls a la).take (goodLen ls a la), bad := (spanPoison ls).isSome }
              streamOut y d wb b (streamTry op ctx (histPast ctx (spanBytes hl 0 ctx.histFill)) (some ctx.histLog) input
                op.final) = (z, r) →
              histPut z d.k wh hd ctx d.qc d.seat (if comp then input.bytes.take r.used else r.out) = (t, true) →
              runs (save t r)))))

/-- R219, R220: SCAN and GATHER of a running descriptor whose operands may be touched and whose lines are ready. SCAN
tests the elements that can be accounted for, in order, and writes a list of indices while it fits or a bitmap; GATHER
writes the elements at its positions, in order, with the count, the bytes and the next position as results. Forms whose
completion it states: scan, gather. -/
def Obligations.ScanAndGather : Prop :=
  ∀ (s : State),
    (∀ (ring : Fin 8192) (i : Nat) (d : Running), running s ring i 8 = some d →
      let p := dP0 d.b
      let width := 2 ^ fld p 5 4
      let plz := bitOf (dFlags d.b) 4
      let count := fld (dLenA d.b) 31 0
      let start := fld (dLenA d.b) 63 32
      let lb := dLenB d.b
      let colLen := if plz then 1 else count * width
      let hasSel := bitOf (dC d.b) 0
      let selLen := ceilDiv count 8
      let lo := if plz then 0 else min start count
      let readLen := if plz then 1 else (count - lo) * width
      let slo := min (start / 8) selLen
      ∀ (wa a wb b wc c : Nat) (u v x y z : State) (selLs : List (Option (List Byte))) (col : List Byte) (st₀ : Nat),
        operand s d (dA d.b) colLen = .ok (wa, a) → operand s d (dB d.b) lb = .ok (wb, b) → telemetryMet s wb b lb = false →
        (if hasSel then operand s d (dC d.b - 1) selLen else .ok (wa, a)) = .ok (wc, c) →
        agentLines s d.k wa (a + lo * width) readLen false = (u, true) →
        agentPrepare u d.k wb b (if bitOf p 7 then lb else ceilDiv count 8 - start / 8) d.qc = (v, true) →
        (if hasSel then agentLines v d.k wc (c + slo) (selLen - slo) false else (v, true)) = (x, true) →
        (if hasSel then descSpan x d wc (c + slo) (selLen - slo) else (x, [])) = (y, selLs) →
        let framed := scanPlz wa (windowEnd x wa) (count * width) d (count * width + 1) x a []
        (plz = true → framed.2.wait = none) →
        (if plz then
            let f := scanPlz wa (windowEnd y wa) (count * width) d (count * width + 1) y a []
            (f.1, f.2.out, f.2.st)
          else
            let q := descSpan y d wa (a + lo * width) readLen
            (q.1, (spanBytes q.2 (a + lo * width) readLen).take (goodLen q.2 (a + lo * width) readLen),
              if (spanPoison q.2).isSome then stPoison else stOk)) = (z, col, st₀) →
        let selGood := if hasSel then (match spanPoison selLs with
          | some i => (((c + slo) / 64 + i) * 64 - c) * 8
          | none => count) else count
        let good := min count (min (lo + col.length / width) selGood)
        let st := if good < count ∧ st₀ = stOk then stPoison else if good = count then stOk else st₀
        let test := fun (j : Nat) => (!hasSel || ((spanBytes selLs (c + slo) (selLen - slo)).getD (j / 8 - slo) 0).getLsbD (j % 8)) &&
          scanPred (fld p 3 0) width (bitOf p 6) (numAt col ((j - lo) * width) width) (dArg0 d.b) (dArg1 d.b)
        (bitOf p 7 = true →
          let hits := scanEmit test (good - start) start
          let fits := hits.take (lb / 4)
          let full := fits.length < hits.length
          let next := if full then hits.getD fits.length 0 else max start good
          exec (.scan ring i) s = .next (putResult z d wb b (fits.flatMap (le 4)) (fun _ => false)
            (fun n => (n / 4, n, fits.getD (n / 4) next)) fun q =>
            endDesc q d.k (if full then stOutputFull else st) fits.length (4 * fits.length) next)) ∧
        (bitOf p 7 = false →
          let upto := if st = stOk then count else max start (good / 8 * 8)
          let hits := scanEmit test (upto - start) start
          let out := scanBitmap hits start upto
          exec (.scan ring i) s = .next (putResult z d wb b out (fun _ => false)
            (fun n => ((hits.filter fun j => decide (j < start + 8 * n)).length, n, start + 8 * n)) fun q =>
            endDesc q d.k st hits.length out.length (max start upto)))) ∧
    (∀ (ring : Fin 8192) (i : Nat) (d : Running), running s ring i 9 = some d →
      let p := dP0 d.b
      let width := 2 ^ fld p 2 0
      let bits := bitOf p 7
      let count := fld (dLenA d.b) 31 0
      let start := fld (dLenA d.b) 63 32
      let lb := dLenB d.b
      let cl := if bits then ceilDiv count 8 else 4 * count
      let lo := min cl (if bits then start / 8 else 4 * start)
      ∀ (wa a wb b wc c : Nat) (u v x y z : State) (cls : List (Option (List Byte))) (g : Gath) (next st : Nat),
        operand s d (dA d.b) 1 = .ok (wa, a) → operand s d (dB d.b) lb = .ok (wb, b) → telemetryMet s wb b lb = false →
        operand s d (dC d.b) cl = .ok (wc, c) →
        agentLines s d.k wc (c + lo) (cl - lo) false = (u, true) → agentPrepare u d.k wb b lb d.qc = (v, true) →
        descSpan v d wc (c + lo) (cl - lo) = (x, cls) →
        let cb := spanBytes cls (c + lo) (cl - lo)
        let lineOk := fun (j : Nat) => (cls.getD ((c + j) / 64 - (c + lo) / 64) none).isSome
        let pick := fun (j : Nat) =>
          if bits then
            (if lineOk (j / 8) then .ok (if (cb.getD (j / 8 - lo) 0).getLsbD (j % 8) then some j else none) else .error stPoison)
          else if lineOk (4 * j) && lineOk (4 * j + 3) then .ok (some (numAt cb (4 * j - lo) 4)) else .error stPoison
        let elems := (List.range (count - start)).filterMap fun j => match pick (start + j) with
          | .ok o => o
          | .error _ => none
        ((elems.take (lb / width)).foldl (fun (q : State × Bool) e =>
          match seatRange q.1 d.seat (dA d.b + e * width) width with
          | some (w, dla) =>
            let r := agentLines q.1 d.k w dla width false
            (r.1, q.2 && r.2 && !unanswered r.1 d w dla width)
          | none => q) (x, true)) = (y, true) →
        gatherLoop d width lb (dA d.b) wa pick (count - start) y start {} = (z, g, next, st) →
        exec (.gather ring i) s = .next (putResult z d wb b g.out
          (fun l => (List.range 64).any fun j => decide (b ≤ l * 64 + j) && g.bad.getD (l * 64 + j - b) false)
          (fun n => (n / width, n, g.pos.getD (n / width) next))
          fun q => endDesc q d.k st g.n g.out.length (max start next)))

/-- R238–R241, R260: what a channel does at its own times. Each row advances the clock to the instant it is due and,
beside what the passing of time counts, changes only its channel: a refresh closes every bank, a calibration sets the next
one, the end of a disturbance window clears the counters, the bucket leaks by one; a poll keeps the highest reading, and a
change of the refresh rate is counted, logged and rescales the ledger; a merge entry is flushed. Forms whose completion it
states: refresh, dimmThermalPoll, zqCalibration, rdtWindowClear, mergeEntryTimeout, leakyBucketLeak. -/
def Obligations.ChannelPeriods : Prop :=
  ∀ (s : State) (ch : Fin 16),
    let x := chAt s ch
    (x.st = .online → ∃ p fz o, exec (.refresh ch) s = .next { s with
      now := max s.now (x.refAt + trefi x), pmu := p, fns := fz, out := o
      chans := tabMod {} s.chans ch fun y => { y with refAt := x.refAt + trefi x, openRow := [] } }) ∧
    (x.st = .online → ∃ p fz o, exec (.zqCalibration ch) s = .next { s with
      now := max s.now (x.zqAt + 32000000), pmu := p, fns := fz, out := o
      chans := tabMod {} s.chans ch fun y => { y with zqAt := x.zqAt + 32000000 } }) ∧
    (x.st ≠ .absent → x.st ≠ .failed → ∃ p fz o, exec (.rdtWindowClear ch) s = .next { s with
      now := max s.now (x.winAt + 8192 * trefi x), pmu := p, fns := fz, out := o
      chans := tabMod {} s.chans ch fun y => { y with winAt := x.winAt + 8192 * trefi x, rdt := [], throttles := [] } }) ∧
    (let t := clampN 1 65000 (fld (regN s (chBase ch + 0x8004)) 15 0) * 1000000
     ∃ p fz o, exec (.leakyBucketLeak ch) s = .next { s with
      now := max s.now ((x.lbLeak / t + 1) * t), pmu := p, fns := fz, out := o
      chans := tabMod {} s.chans ch fun y => { y with lbLevel := y.lbLevel - 1, lbLeak := (x.lbLeak / t + 1) * t } }) ∧
    (∀ (sensors : List Nat) (mr4 : Bool), (x.st = .online ∨ x.st = .offline ∨ x.st = .selfref) →
      let due := (x.pollAt / 1000000 + 1) * 1000000
      let top := sensors.foldl max 0
      let hot := if mr4 = true ∨ 85 < top then true else if top ≤ 83 then false else x.hot
      ∃ p fz o, let u : State := { s with
          now := max s.now due, pmu := p, fns := fz, out := o
          chans := tabMod {} s.chans ch fun y => { y with pollAt := due, tmax := min 255 top, hot := hot } }
        (hot = x.hot → exec (.dimmThermalPoll ch sensors mr4) s = .next u) ∧
        (hot ≠ x.hot → exec (.dimmThermalPoll ch sensors mr4) s = .next (rescale (logEv
          (if hot then bump u (chBase ch + 0x5C) else u) (srcOf (chBase ch)) 0x6003 sevNote (le 2 ch ++ kindByte 238 (b2n hot)))))) ∧
    (∀ (line : Nat) (noise : List Byte) (e : Merge), (x.merge.find? fun e => e.line == line) = some e → chOnline s ch = true →
      exec (.mergeEntryTimeout ch line noise) s = .next (passBuffers (flushEntry (advanceTo s (e.at_ + 2000)) ch e noise)))

/-- R230–R232, R237, R242–R246, R273: channel issue, training and rate changes. The request that the scheduler ranks first
issues its command; a step that is accepted leads to the next one or ends the training, and a third rejection fails it; a
START begins a retraining at once or is kept; a rate change stops every channel, and completes when the last has trained.
Forms whose completion it states: channelCommandIssue, channelRetrain, trainingStepResult, rateChange, rateChangeComplete,
trainingRelease. -/
def Obligations.ChannelWork : Prop :=
  ∀ (s : State) (ch : Fin 16),
    (∀ ready q passes, chOnline s ch = true →
      let u := modCh s ch fun x => { x with drain := drainNow s ch }
      let v := if ((chAt u ch).rq ++ (chAt u ch).wq).any fun q => ready.contains q.line && qThrottled u q
        then pmuEvent u 1 ch 0x25 else u
      pickIssue v ch ready = some (q, passes) →
      let w := match q.entry with
        | some e => if q.write then v else modTrk v e fun o => o.map fun t =>
            { t with devLoad := max t.devLoad (devLoadAt v ch q.qc) }
        | none => v
      let y := casLine (modCh w ch fun x => { x with
        rq := x.rq.filter fun y => y.ord != q.ord, wq := x.wq.filter fun y => y.ord != q.ord
        hitRun := if passes then x.hitRun + 1 else 0 }) q.line q.write q.qc q.seat
      exec (.channelCommandIssue ch ready) s = .next (passBuffers (modCh y ch fun x => { x with drain := drainNow y ch }))) ∧
    (∀ by_, regServed s by_ (chBase ch + 0x24) = true →
      exec (.channelRetrain by_ ch) s = .next (startTrain (regAwake s by_ (chBase ch + 0x24)) ch)) ∧
    (∀ by_ (t : Fin 8), regServed s by_ (chBase 0 + 0x40) = true →
      exec (.rateChange by_ t) s = .next (putTarget (regAwake s by_ (chBase 0 + 0x40)) t)) ∧
    (let x := chAt s ch
     x.busy = true →
      (x.step < lastStep x → exec (.trainingStepResult ch .accepted) s = .next (dvfsGo (modCh s ch fun y =>
        { y with step := y.step + 1, tries := 0, busy := !dvfsBars s, paused := dvfsBars s }))) ∧
      (lastStep x ≤ x.step → exec (.trainingStepResult ch .accepted) s =
        .next (dvfsGo (if rateTrains s ch then endTrain s ch 0 else trainDone s ch))) ∧
      (let u := bump s (chBase ch + 0x54)
       (x.tries < 2 → exec (.trainingStepResult ch .rejected) s = .next (modCh u ch fun y => { y with tries := y.tries + 1 })) ∧
       (2 ≤ x.tries → exec (.trainingStepResult ch .rejected) s =
        .next (dvfsGo (if rateTrains u ch then endTrain u ch 1 else trainFailed u ch))))) ∧
    (∀ dimms : List (Option Dimms), s.boot.phase = .training → (∀ e ∈ s.chans, e.2.st = .absent) →
      ∃ t, exec (.trainingRelease dimms) s = .next (trainingSettled t) ∧
        t.rate.cur = ((bootRate s ((List.range 16).filterMap fun c => match populOf (dimms.getD c none) with
          | .up d => some d
          | _ => none)).getD s.rate.cur)) ∧
    (∀ trained, s.rate.busy = true → (∀ c ∈ rateChans s, rateOutcome s trained c ≠ none) → s.rate.stored = none →
      ∃ t, exec (.rateChangeComplete trained) s = .next (dvfsGo (resume (runStored (rescale t)))) ∧ t.rate.busy = false ∧
        t.rate.cur = (if (∀ c ∈ rateChans s, rateOutcome s trained c = some true) then s.rate.target else s.rate.prev))

/-- R222, R262–R266, R270: scrubbing and errors. SCRUB starts a pass over the lines that back its range; each line is read
once and corrected, poisoned or found clean; a corrected line is written back, unless a write has come since, and then
read again; a pass that is done writes its summary or its results. That the write-back is a SCRUB_LINE of its own is the
model's (log entry 46). A write of INT_INJ is kept unless the life cycle is FIELD or SCRAP (R436). A double-bit error is
logged and loses what its SRAM held. Forms whose completion it states: scrub, scrubLine, scrubVerifyRead, faultInject,
sramDoubleBitError, scrubPassComplete. -/
def Obligations.ScrubAndErrors : Prop :=
  ∀ (s : State),
    (∀ (ring : Fin 8192) (i : Nat) (d : Running) (w dla wb b : Nat), running s ring i 13 = some d →
      operand s d (dA d.b) (dLenA d.b) = .ok (w, dla) → operand s d (dB d.b) (dLenB d.b) = .ok (wb, b) →
      telemetryMet s wb b (dLenB d.b) = false → passOf s (.ring ring i) = none → exec (.scrub ring i) s = .next { s with passes := s.passes ++
        [{ by_ := .ring ring i, todo := scrubLines s w dla (dla + dLenA d.b), start := us s, whole := false }] }) ∧
    (∀ (noise : List Byte) (p : Pass) (rest : List Pass) (line dla : Nat) (segs : List Nat) (todo : List (Nat × Nat × List Nat)),
      (livePasses s).passes = p :: rest → p.verify = none → p.todo = (line, dla, segs) :: todo →
      let u := livePasses s
      (backs u line dla = false → exec (.scrubLine noise) s = .next (modPass u fun p => { p with todo := todo })) ∧
      (backs u line dla = true → ((geoOf u line).isSome = true → chOnline u (chOfLine u line) = true) →
        let qc := passClass u p
        let v := casLine (flushLine (modPass u fun p => { p with todo := todo, lines := p.lines + 1 }) line []) line false qc 1024
        let r := decodeStored (scrubStored v line dla) noise
        (r.2 = .uncorrectable → exec (.scrubLine noise) s = .next (scrubUncorrectable (casLine v line true qc 1024) line dla segs)) ∧
        (r.2 = .clean → exec (.scrubLine noise) s = .next (if r.1 = .poison then scrubPoisoned v line dla segs false qc else v)) ∧
        (∀ dev syms, r.2 = .corrected dev syms →
          let n := noteCorrected v line dev syms (r.1 == .poison)
          let x := (scrubStored v line dla).getD {}
          exec (.scrubLine noise) s = .next (if r.1 = .poison then scrubPoisoned n line dla segs true qc
            else modPass n fun p => { p with
              verify := some (line, dla, segs, dev, corrBits syms)
              fix := some { x with err := errAfter (errAdd x.err noise) }
              cancelled := false })))) ∧
    (∀ (noise : List Byte) (p : Pass) (rest : List Pass) (line dla : Nat) (segs : List Nat) (dev bits : Nat) (st : Stored),
      (livePasses s).passes = p :: rest → p.verify = some (line, dla, segs, dev, bits) → p.fix = some st →
      let u := livePasses s
      let t := modPass u fun p => { p with fix := none, cancelled := false }
      (p.cancelled = true ∨ backs u line dla = false → exec (.scrubLine noise) s = .next
        (addRec (modPass t fun p => { p with verify := none, corr := p.corr + 1 }) line dla 5 dev bits)) ∧
      (p.cancelled = false → backs u line dla = true → ((geoOf u line).isSome = true → chOnline u (chOfLine u line) = true) →
        exec (.scrubLine noise) s = .next (writeBack (casLine t line true (passClass u p) 1024) line st))) ∧
    (∀ (noise : List Byte) (p : Pass) (rest : List Pass) (line dla : Nat) (segs : List Nat) (dev bits : Nat),
      (livePasses s).passes = p :: rest → p.verify = some (line, dla, segs, dev, bits) → p.fix = none →
      let u := livePasses s
      let t := modPass u fun p => { p with verify := none, cancelled := false }
      (p.cancelled = true ∨ backs u line dla = false →
        exec (.scrubVerifyRead noise) s = .next (scrubCorrected t line dla dev bits false)) ∧
      (p.cancelled = false → backs u line dla = true → ((geoOf u line).isSome = true → chOnline u (chOfLine u line) = true) →
        let v := casLine t line false (passClass u p) 1024
        let r := decodeStored (scrubStored v line dla) noise
        exec (.scrubVerifyRead noise) s = .next (match r.2 with
          | .clean => scrubCorrected v line dla dev bits false
          | .corrected d syms => scrubCorrected (noteCorrected v line d syms (r.1 == .poison)) line dla dev bits true
          | .uncorrectable => scrubUncorrectable (casLine v line true (passClass u p) 1024) line dla segs))) ∧
    (∀ (p : Pass) (rest : List Pass), (livePasses s).passes = p :: rest → p.todo = [] → p.verify = none →
      let u := livePasses s
      let kept := fun (k : Nat) => { dropPass u with mgmt := { u.mgmt with media := tabSet [] u.mgmt.media k p.media } }
      (∀ f, p.by_ = .mailbox f → exec .scrubPassComplete s = .next (bgFinish (kept (fnKey f)) (.mailbox f) 0x4304 .success)) ∧
      (p.by_ = .island → exec .scrubPassComplete s = .next (bgFinish (clearOverflow (kept islandMedia) p) .mctp 0x4304 .success)) ∧
      (∀ r i d w dla v, p.by_ = .ring r i → running u r i 13 = some d → operand u d (dB d.b) (dLenB d.b) = .ok (w, dla) →
        telemetryMet u w dla (dLenB d.b) = false → agentPrepare u d.k w dla (summary u p (dLenB d.b)).1.length d.qc = (v, true) →
        exec .scrubPassComplete s = .next (putResult (dropPass v) d w dla (summary u p (dLenB d.b)).1 (fun _ => false)
          (fun _ => (p.lines, p.corr, p.unc + p.pois)) fun y => endDesc y d.k (if (summary u p (dLenB d.b)).2 then stOutputFull else stOk) p.lines p.corr (p.unc + p.pois)))) ∧
    (∀ (by_ : Agent) (ch : Fin 16) (v : Word), regServed s by_ (chBase ch + 0x8024) = true →
      let u := regAwake s by_ (chBase ch + 0x8024)
      exec (.faultInject by_ ch v) s = .next (if s.sec.lc = .field ∨ s.sec.lc = .scrap then u else
        setReg u (chBase ch + 0x8024) (v &&& 0xE0000FFF#32))) ∧
    (exec (.sramDoubleBitError .mgmt) s = .next (sramEvent s (srcOf mgmtBase) sevErr 8) ∧
     (∀ (e : Fin 24576) t, trkAt s e = some t → ∃ u, exec (.sramDoubleBitError (.tracker e)) s =
        .next (resume (fabricError u e t 3))) ∧
     (∀ slot, (slotAt s slot).st ≠ .free → exec (.sramDoubleBitError (.keySlot slot true)) s = .next (resume (sramEvent
        (modSlot s slot fun x => { x with failed := true }) (srcOf secBase) sevFatal 6))) ∧
     (∀ slice set way, set < 16384 → way < 16 → exec (.sramDoubleBitError (.creel slice set way)) s =
        .next (recoverEntries (nextFree s) slice [(set, way, freeBelow s 2 == 1)])))

/-- R274–R279: the bandwidth ledger and the QoS commands of the FM API. A budget that would exceed what the channels can
admit, or is none, is refused with its cause and a WARN event; any other is kept, and refills the class's buckets where it
changes. The mean of a seat's recent DevLoad values is reported; a control is stored and changes nothing else. Forms whose
completion it states: budgetWrite, getQosStatus, setQosControl. -/
def Obligations.BudgetsAndQos : Prop :=
  ∀ (s : State),
    (∀ (by_ : Agent) (k : Fin 16) (val : Word), regServed s by_ (qosBase + 4 + 8 * k.val) = true →
      let u := regAwake s by_ (qosBase + 4 + 8 * k.val)
      let v := val &&& 0x80FF3FFF#32
      let t := setReg u (qosBase + 4 + 8 * k.val) v
      let refuse := if bitOf v.toNat 31 && fld v.toNat 13 0 == 0 then 2 else if u.qos.adm < guarSum t then 1 else 0
      (refuse ≠ 0 → exec (.budgetWrite by_ k val) s = .next (logEv { u with qos := { u.qos with refuse := refuse } }
        (srcOf qosBase) 0x6003 sevWarn (le 2 k ++ kindByte 276 refuse))) ∧
      (refuse = 0 → exec (.budgetWrite by_ k val) s = .next
        (if (v &&& 0x80003FFF#32) = (regAt u (qosBase + 4 + 8 * k.val) &&& 0x80003FFF#32) then t
          else { t with qos := { t.qos with buckets := tabFilter (fun b _ => b / 16 != k.val) t.qos.buckets } }))) ∧
    (∀ seat : Fin 1024, mcServed s = true → (seatAt s seat).state ≠ .none →
      let l := ((seatAt s seat).loads.filter fun x => decide (s.now < x.1 + 1000000)).map (·.2)
      (l ≠ [] → exec (.getQosStatus seat) s =
        .next (emit (mcAwake s) (.answer none 0x279 .success [l.foldl (· + ·) 0, l.length]))) ∧
      (l = [] → exec (.getQosStatus seat) s =
        .next (emit (nextFree (mcAwake s)) (.answer none 0x279 .success [freeBelow s 4, 1]))) ∧
      (∀ values, exec (.setQosControl seat values) s = .next { mcAwake s with
        seats := tabMod {} s.seats seat fun x => { x with qosCtl := values }
        out := s.out ++ [.answer none 0x27A .success []] }))

/-- R292–R301: the fabric. A flit that fails its CRC is counted; a failed link and a dead port are marked and logged once;
the stations flip to the new epoch one by one, then the slot tables switch, then the old epoch is over; a flit at a fenced
port waits in its queue and wakes the domain, and one at a dead port or an OFF domain gets an error response. Forms whose
completion it states: fabricFlitCrcFail, fabricLinkFail, flip, boundaryQueueEnter, portCreditTimeout, endpointFatalParity,
slotTableSwitch, oldEpochRetire. -/
def Obligations.FabricSteps : Prop :=
  ∀ (s : State) (st : Fin 48),
    (∀ link : Fin 4, (stAt s st).linkFail.getLsbD link = false →
      exec (.fabricFlitCrcFail st link) s =
        .next { s with cnts := tabSet 0 s.cnts (stBase st + 0x14) (min cntMax (cntAt s (stBase st + 0x14) + 1)) } ∧
      exec (.fabricLinkFail st link) s = .next (logEv
        (modSt s st fun x => { x with linkFail := x.linkFail ||| (1#4 <<< link.val) })
        (srcOf (stBase st)) 0x7001 sevFatal (le 2 st ++ le 2 link ++ kindByte 301 0))) ∧
    (∀ n, s.fabric.busy = true → (stAt s st).shadowV = true →
      let u := modSt s st fun x => { x with epoch := !x.epoch, shadowV := false, oldCnt := min 0xFFFF n }
      exec (.flip st n) s = .next (if (List.range 48).any fun k => (stAt u k).shadowV then u
        else { u with fabric := { u.fabric with flipped := true, epoch := (stAt u 0).epoch } })) ∧
    (s.fabric.busy = true → s.fabric.flipped = true → s.fabric.switched = false → exec .slotTableSwitch s =
      .next { s with fabric := { s.fabric with slots := s.fabric.shadow, shadow := [], switched := true } }) ∧
    (s.fabric.busy = true → s.fabric.flipped = true → s.fabric.switched = true → oldHeld s = false →
      exec .oldEpochRetire s = .next { s with
        stations := tabMap {} (fun _ x => { x with oldCnt := 0 }) s.stations, fabric := { s.fabric with busy := false } }) ∧
    (∀ (lp : Fin 4) (entry : Option (Fin 24576)) (d : Nat), portDom st lp = some d →
      (isDead s st lp = true →
        exec (.boundaryQueueEnter st lp entry) s = .next (answerFlit s st lp d (entry.map Fin.val) false)) ∧
      (isDead s st lp = false → (domAt s d).st = .off →
        exec (.boundaryQueueEnter st lp entry) s = .next (answerFlit s st lp d (entry.map Fin.val) true)) ∧
      (isDead s st lp = false → (domAt s d).st ≠ .off → (stAt s st).fenced.getLsbD lp = true →
        (bqOf (stAt s st) lp).length < 32 → exec (.boundaryQueueEnter st lp entry) s = .next (askWake
          (modSt s st fun x => setBq x lp (bqOf (stAt s st) lp ++ [(entry.map Fin.val, x.epoch)])) d))) ∧
    (∀ lp : Fin 4, hasEndpoint st lp = true → isDead s st lp = false →
      let u := fun (cause : Nat) => modSt s st fun x => { x with
        dead := x.dead ||| (1#4 <<< lp.val), cause := x.cause ||| (BitVec.ofNat 8 cause <<< (2 * lp.val)) }
      let v := fun (cause : Nat) => logEv (if lp = 0 then failSpindle (u cause) st else u cause) (srcOf (stBase st)) 0x7001
        (if lp = 0 then sevErr else sevFatal) (le 2 st ++ le 2 lp ++ le 1 cause)
      (holds s st lp = false → exec (.portCreditTimeout st lp) s = .next (v 1)) ∧
      exec (.endpointFatalParity st lp) s = .next (v 2))

/-- R48, R57, R58, R74, R75: windows and seats. ENABLE brings a DISABLED window ONLINE unless the device is sanitized or
erased or is being so (the model's choice where R75 is silent, log entry 91), and a DISABLED seat ATTACHED or DETACHED by
its paths; during a drain it is kept for the drain's end. Disabling an ONLINE window stamps it and, in an HDM-DB window,
back-invalidates its holders; the drain ends DISABLED. A seat that has been without a path for 1 ms is DETACHED, its
exclusive lines are poisoned, and an event counts them. Forms whose completion it states: seatDetachTimeout, seatEnable,
seatDisable, windowEnable, windowDisable, windowDrainComplete. -/
def Obligations.SeatAndWindowStates : Prop :=
  ∀ (s : State),
    (∀ (by_ : Agent) (w : Fin 4096), regServed s by_ (seatwinBase + 0x1C) = true →
      let u := regAwake s by_ (seatwinBase + 0x1C)
      ((winAt s w).state = .disabled → emptied s = false → exec (.windowEnable by_ w) s =
        .next { u with wins := tabMod {} s.wins w fun x => { x with state := .online, enable := true, cause := none } }) ∧
      ((winAt s w).state = .disabled → emptied s = true → exec (.windowEnable by_ w) s = .next u) ∧
      ((winAt s w).state = .disabling → exec (.windowEnable by_ w) s =
        .next { u with wins := tabMod {} s.wins w fun x => { x with pendEn := some true } }) ∧
      ((winAt s w).state = .online →
        let v := freePending (dumpWindowLeft (stampNext (modWin u w fun x => { x with
          state := .disabling, enable := false, cause := some .enable, disOrd := s.stamp, pendEn := none })) w) w
        exec (.windowDisable by_ w) s = .next (if (winAt s w).db then
          purgeRange v ((winAt s w).dlaHank * 0x200000) (winBytes (winAt s w)) else v)) ∧
      ((winAt s w).state = .disabling → exec (.windowDisable by_ w) s =
        .next { u with wins := tabMod {} s.wins w fun x => { x with pendEn := some false } })) ∧
    (∀ (by_ : Agent) (n : Fin 1024), regServed s by_ (seatwinBase + 0x0C) = true →
      let u := regAwake s by_ (seatwinBase + 0x0C)
      ((seatAt s n).state = .disabled → exec (.seatEnable by_ n) s = .next { u with
        seats := tabMod {} s.seats n fun x => { x with
          state := if seatUp s n then .attached else .detached, enable := true, lostAt := none, gone := false } }) ∧
      ((seatAt s n).state = .disabling → exec (.seatEnable by_ n) s =
        .next { u with seats := tabMod {} s.seats n fun x => { x with pendEn := some true } }) ∧
      ((seatAt s n).state = .attached ∨ (seatAt s n).state = .suspect →
        let v := modSeat u n fun y => { y with
          state := .disabling, enable := false, pendEn := none, removing := false, gone := false }
        exec (.seatDisable by_ n) s = .next (purgeSeat ((seatRings v n).foldl (fun t r => disableRing t r false) v) n)) ∧
      ((seatAt s n).state = .detached →
        let v := modSeat u n fun y => { y with
          state := .disabling, enable := false, pendEn := none, removing := false, gone := true }
        exec (.seatDisable by_ n) s = .next ((seatRings v n).foldl (fun t r => disableRing t r false) v))) ∧
    (∀ (n : Fin 1024) (t : Nat), (seatAt s n).lostAt = some t → seatUp s n = false →
      ((seatAt s n).state = .attached ∨ (seatAt s n).state = .suspect ∨ (seatAt s n).state = .disabling) →
      let q := detachCreel (modSeat (advanceTo s (t + 1000000)) n fun y => { y with
        state := if y.state = .disabling then .disabling else .detached, lostAt := none, gone := true }) n
      exec (.seatDetachTimeout n) s = .next (resume (latchEvt (logEvFor q.1 (srcOf (hpBase ((seatAt s n).lastPath / 4))) 0x1002
        sevErr (le 2 n ++ le 4 q.2) [n.val] []) (seatAt s n).lastPath evtDetach))) ∧
    (∀ w : Fin 4096, winDrained s w = true →
      ((winAt s w).state = .disabling → (winAt s w).cause = some .sanitize → exec (.windowDrainComplete w) s =
        .next (offlineDone (modWin s w fun x => { x with state := .offline, cause := none, pendEn := none }))) ∧
      ((winAt s w).state = .disabling → (winAt s w).cause ≠ some .sanitize → (winAt s w).cause ≠ some .reweave →
        let u := winEvent (modWin s w fun x => { x with state := .disabled, cause := none, pendEn := none }) w 0
        exec (.windowDrainComplete w) s = .next (if (winAt s w).pendEn = some true then enableWindow u w else u)) ∧
      ((winAt s w).state ≠ .disabling → (winAt s w).sendHand = true → fwdsDone s w = true →
        exec (.windowDrainComplete w) s = .next (sendHandover s w)))

/-- R67, R71–R73: Dynamic Capacity. An add that the ledger accepts marks its blocks pending and tells the seat's host, in
a mirrored window after the partner's ledger has accepted it too; the host's response brings what it accepts online and
frees the rest; a release or a forced removal back-invalidates the blocks' sharers, and when they are gone the mappings
and the storage go and the command that waits is answered. Forms whose completion it states: addDcResponse, releaseDc,
initiateDcAdd, initiateDcRelease, forcedDcRemoval, dcReleaseComplete. -/
def Obligations.DynamicCapacity : Prop :=
  ∀ (s : State),
    (∀ (src : FmSource) (seat : Fin 1024) (w : Fin 4096) (exts : List Extent) (bs : List Nat), mcServed s = true →
      let u := mcAwake s
      extBlocks s w exts = some bs → dcUsable s w = true → reaches s seat w = true → exts ≠ [] → bs.Nodup →
      (∀ b ∈ bs, (blockAt s b).st = 0) → ((winAt s w).mirror = 0 ∨ (winAt s w).ms = .sync) →
      let t := numberExts w seat (if (winAt s w).mirror = 0 then 1 else 4) exts u
      (ledgerTry u t.blocks ≠ 0 → exec (.initiateDcAdd src seat w exts) s =
        .next (dcAnswer (ledgerRefuse u (ledgerTry u t.blocks)) src 0x71 .resourcesExhausted)) ∧
      (ledgerTry u t.blocks = 0 → (winAt s w).mirror = 0 → exec (.initiateDcAdd src seat w exts) s =
        .next (dcAnswer (addAccepted (ledgerPut t) w seat exts) src 0x71 .success)) ∧
      (∀ p, ledgerTry u t.blocks = 0 → (winAt s w).mirror ≠ 0 →
        let v := ledgerPut t
        portFor v (.ledger v.pair.nextTag w exts) = some p →
        let y := plySend v p (.ledger v.pair.nextTag w exts)
        exec (.initiateDcAdd src seat w exts) s = .next { y with pair := { y.pair with
          nextTag := v.pair.nextTag % 0xFFFF + 1, ops := y.pair.ops ++ [(p, .ledger v.pair.nextTag w exts seat src)] } })) ∧
    (∀ (w : Fin 4096) (exts : List Extent) (bs : List Nat), mcServed s = true → extBlocks s w exts = some bs →
      dcUsable s w = true →
      let u := mcAwake s
      let pend := bs.filter fun b => (blockAt s b).st == 1
      let v := if pend = [] then u else freeBlocks u pend
      (∀ seat : Fin 1024, reaches s seat w = true → exec (.initiateDcRelease seat w exts) s = .next (emit
        (if bs.any fun b => (blockAt v b).st == 2 then dcEvent v w seat 0x72 exts else v) (.answer none 0x72 .success []))) ∧
      exec (.forcedDcRemoval w exts) s = .next (emit
        (startRelease v w (bs.filter fun b => (blockAt s b).st == 2) none) (.answer none 0x73 .success []))) ∧
    (∀ (c : Cci) (w : Fin 4096) (exts : List Extent) (bs : List Nat), cciServed s c = true → extBlocks s w exts = some bs →
      dcUsable s w = true →
      let u := cciAwake s c
      let pend := (s.blocks.filter fun e => e.2.win == w.val && e.2.st == 1 && cciBlock s c e.2).map (·.1)
      (pend ≠ [] → (∀ b ∈ bs, b ∈ pend) →
        let omitted := pend.filter fun b => !bs.contains b
        let q := blocksOnline (setBlocks (if omitted = [] then u else freeBlocks u omitted) bs fun b => { b with answer := some c }) w bs
        exec (.addDcResponse c w exts) s = .next (resume (if q.2 then q.1
          else cciAnswer (setBlocks q.1 bs fun b => { b with answer := none }) c 0x4802 .success []))) ∧
      (bs ≠ [] → (∀ b ∈ bs, (blockAt s b).st = 2 ∧ cciBlock s c (blockAt s b) = true) →
        exec (.releaseDc c w exts) s = .next (resume (startRelease u w bs (some c))))) ∧
    (∀ w : Fin 4096,
      let rel := s.blocks.filter fun b => b.2.win == w.val && b.2.st == 3
      rel ≠ [] → (∀ b ∈ rel, blockDrained s b.1 = true) →
      let v := dcAnswers (ledgerPut (rel.foldl (fun t b => dropBlock w t b.1) s)) w 0x4803 (rel.map fun b => b.2.answer)
      exec (.dcReleaseComplete w) s = .next (resume
        (if rel.any fun b => b.2.answer.isNone then winEvent v w (rel.headD (0, {})).1 else v)))

/-- R329–R334, R336, R421: packets between the pair. ACK and KEEPALIVE carry a header only, which is taken where CRC and
tag hold and TXC is above the last one, and ends a tail error of a port that is UP; KEEPALIVE ends pairing at step 6; PAIR
brings the next fragment of the message awaited; LANESET is always answered; LANESET_ACK ends the sender's change; an MBOX
packet goes into the island's box; PREAD is answered with PRSP. A sequenced packet that is next in order has its effect,
and an ACK goes at once where 64 wait. Forms whose completion it states: plyAck, keepalive, pair, pread, mbox, laneset,
lanesetAck. -/
def Obligations.PlyPackets : Prop :=
  ∀ (s : State) (p : Fin 2) (h : PlyHdr),
    let x := plyAt s p
    let fresh := x.rxTxc.all (fun t => decide (t < h.txc)) = true
    let u := unIdle s (24 + p)
    let got := boxesAcked (plyDrain (plyAcked (modPly u p fun x => { x with
      rxTxc := some h.txc, rcvdAt := s.now,
      credReq := min 512 (x.credReq + h.credReq), credRsp := min 256 (x.credRsp + h.credRsp) }) p h.ack.toNat) p) p
    let heard := passHeld s p (if x.st = .up then modPly got p fun y => { y with tailErr := false } else got)
    (x.st = .up → h.crcOk = true → h.tagOk = true → fresh →
      exec (.plyAck p h) s = .next heard ∧ exec (.keepalive p h) s = .next heard) ∧
    (x.st = .pairing → x.step = 6 → h.crcOk = true → h.tagOk = true → fresh →
      exec (.keepalive p h) s = .next (goUp heard p)) ∧
    (x.st = .up → h.crcOk = false → exec (.plyAck p h) s =
      .next (modPly (bump u (plyBase p + 0x10)) p fun x => { x with tailErr := true })) ∧
    (x.st = .up → h.crcOk = true → h.tagOk = true → ¬ fresh →
      exec (.plyAck p h) s = .next (bump u (plyBase p + 0x18))) ∧
    (∀ (step frag frags : Nat) (sigOk : Bool) (payload : List Byte), x.st = .pairing → x.step ≠ 6 → h.crcOk = true →
      step = x.step → frag = x.frags.length →
      let got := x.frags ++ [payload.take 256]
      let v := modPly s p fun x => { x with frags := got, rcvdAt := s.now }
      (got.length < frags → exec (.pair p h step frag frags sigOk payload) s = .next v) ∧
      (frags ≤ got.length → exec (.pair p h step frag frags sigOk payload) s =
        .next (pairMessage v p step sigOk got.flatten))) ∧
    (plyNext s p h = true →
      (∀ (eff : BitVec 16) (width : Nat), let v := plyTaken s p h true false
        exec (.laneset p h eff width) s = .next (passHeld s p <| plyAckDue (plySend
          (if widthOk (plyAt v p) width then modPly v p fun x => { x with rxLane := some (eff.toNat, width) }
            else bump v (plyBase p + 0x24)) p (.lanesetAck eff.toNat)) p)) ∧
      (∀ (eff : BitVec 16) (w : Nat), let v := plyTaken s p h true false
        (plyAt v p).lane = some (eff.toNat, w) → exec (.lanesetAck p h eff) s = .next (passHeld s p <| plyAckDue (startLane
          (plyDrain (modPly v p fun x => { x with lane := none, txWidth := w }) p) p) p)) ∧
      (∀ ws : List Word, exec (.mbox p h ws) s =
        .next (passHeld s p <| plyAckDue (boxPush (plyTaken s p h false false) (64 + p.val) ws) p)) ∧
      (∀ (tag : Nat) (rq : List Byte), ∃ st bytes, exec (.pread p h tag rq) s = .next (passHeld s p <| plyAckDue
        (plySend (nextFree (plyTaken s p h false false)) p (.prsp tag st bytes)) p) ∧ bytes.length = rq.length))

/-- R326, R330, R331, R333–R336, R352: a port's life. Lanes that have trained start pairing, as do a pairing step past its
time and, after AUTH_FAIL, the retry; the replay timer replays what is held, the ACK timer acknowledges, KEEPALIVE goes
after 1 µs of silence; 10 µs without a packet, a dead link or a failed lane take the port down; a controller's write asks
for another transmit width. Forms whose completion it states: replayTimerExpiry, ackTimer, keepaliveTimer, plyRxTimeout,
plyPhyDown, plyPhyTrained, pairingStepTimeout, authFailRetry, laneWidthChange, plyLaneFail. -/
def Obligations.PlyPortSteps : Prop :=
  ∀ (s : State) (p : Fin 2),
    let x := plyAt s p
    (∀ width, plyEnabled s p = true → (x.st = .training ∨ x.st = .down) → s.boot.refLost.getLsbD (4 + p.val) = false →
      domAwake s (24 + p.val) = true → width ∈ [1, 2, 4, 8, 16] →
      exec (.plyPhyTrained p width) s = .next (sendHello (modPly s p fun y =>
        { plyFresh y .pairing s.now with rxWidth := min width x.maxWidth, txWidth := min width x.maxWidth }) p)) ∧
    (x.st = .pairing → 2 ≤ x.step → x.step ≤ 4 → exec (.pairingStepTimeout p) s =
      .next (sendHello (modPly (advanceTo s (x.stepAt + (if x.step = 2 then 1000000 else 20000000))) p
        fun x => { x with init := false }) p)) ∧
    (x.st = .authFail → exec (.authFailRetry p) s = .next (modPly (advanceTo s (x.stepAt + 1000000000)) p
      fun y => { y with st := .training, stepAt := max s.now (x.stepAt + 1000000000) })) ∧
    (∀ t, x.st = .up → x.timer = some t → exec (.replayTimerExpiry p) s = .next (plyReplay (advanceTo s (t + 2000)) p)) ∧
    (∀ t, x.st = .up → x.unackAt = some t →
      exec (.ackTimer p) s = .next (plyAckNow (advanceTo s (t + 500)) p)) ∧
    ((x.st = .up ∨ x.st = .pairing ∧ x.step = 6) →
      exec (.keepaliveTimer p) s = .next (plySendControl (advanceTo s (x.sentAt + 1000)) p .keepalive) ∧
      exec (.plyRxTimeout p) s = .next (plyDown (advanceTo s (x.rcvdAt + 10000)) p .training)) ∧
    (x.st ≠ .down → exec (.plyPhyDown p) s = .next (plyDown s p .training) ∧
      exec (.plyLaneFail p) s = .next (plyDown s p .training)) ∧
    (∀ (by_ : Agent) (width : Nat), regServed s by_ (plyBase p + 4) = true →
      exec (.laneWidthChange by_ p width) s = .next (startLane
        (setReg (regAwake s by_ (plyBase p + 4)) (plyBase p + 4) (word (width % 32))) p))

/-- R338, R339, R348: control messages of mirrored windows. The partner's table is kept and matched with every mirrored
window; RESYNC_START makes a DEGRADED secondary discard its mirror entries, RESYNC_END makes it SYNC with the number it
carries; HANDOVER ends the wait of a new primary, or is remembered for the re-weave that will make the device the primary.
Forms whose completion it states: ctrlMtab, ctrlResyncStart, ctrlResyncEnd, ctrlHandover. -/
def Obligations.MirrorControl : Prop :=
  ∀ (s : State) (p : Fin 2) (h : PlyHdr), plyNext s p h = true →
    let v := plyTaken s p h false false
    (∀ table, exec (.ctrlMtab p h table) s = .next (passHeld s p <| plyAckDue (let t := { v with pair := { v.pair with peerTab := table, peerTabIn := true } }
      (mirroredWins t).foldl matchWindow t) p)) ∧
    (∀ win, isSecondary v win = true → (winAt v win).ms = .degraded → exec (.ctrlResyncStart p h win) s =
      .next (passHeld s p <| plyAckDue (discardMirror (modWin v win fun x => { x with ms := .resync }) win) p)) ∧
    (∀ win id, isSecondary v win = true → (winAt v win).ms = .resync → exec (.ctrlResyncEnd p h win id) s =
      .next (passHeld s p <| plyAckDue (modWin v win fun x => { x with ms := .sync, syncId := id }) p)) ∧
    (∀ win, exec (.ctrlHandover p h win) s =
      .next (passHeld s p <| plyAckDue (modWin v win fun x =>
        { x with waitHand := false, handed := x.mirror != 0 && x.secondary && !x.sendHand }) p))

/-- R340, R343, R349: a forwarded write, a resync line and a metadata record wait in the receive buffer for their turn;
the credits return with the buffer. R179: a key set is installed and answered; REKEY starts the walk of this device's
copy. R343: the secondary runs its own capacity check and answers. Forms whose completion it states: mwr, rsync,
metaRecord, keyset, ctrlLedger, ctrlRekey. -/
def Obligations.MirrorRequests : Prop :=
  ∀ (s : State) (p : Fin 2) (h : PlyHdr), plyNext s p h = true →
    (let v := plyTaken s p h false true
     let take := fun (b : PlyBody) => plyAckDue (resume { v with pair := { v.pair with inq := v.pair.inq ++
       [{ port := p, seq := h.seq.toNat, body := b, cost := max 1 (ceilDiv h.len 64) }] } }) p
     (∀ w, exec (.mwr p h w) s = .next (passHeld s p <| take (.mwr w)) ∧ exec (.rsync p h w) s = .next (passHeld s p <| take (.rsync w))) ∧
     (∀ win kind dla, exec (.metaRecord p h win kind dla) s = .next (passHeld s p <| take (.metaRec win kind dla)))) ∧
    (let v := plyTaken s p h false false
     (∀ win gen keys, isSecondary v win = true → (slotOf v win).st = .active →
       (gen = (slotOf v win).gen → exec (.keyset p h win gen keys) s = .next (passHeld s p <| plyAckDue (plySend
         (modSlot v (winAt v win).keySlot fun x => { x with cur := peerKeyNo keys, peer := true }) p
         (.mack h.seq.toNat mackOk)) p)) ∧
       (gen = ((slotOf v win).gen + 1) % 16 → gen ≠ (slotOf v win).gen → exec (.keyset p h win gen keys) s =
         .next (passHeld s p <| plyAckDue (plySend (modSlot v (winAt v win).keySlot fun x =>
           { x with newKey := some (peerKeyNo keys), peer := true }) p (.mack h.seq.toNat mackOk)) p))) ∧
     (∀ tag win key, isSecondary v win = true → (slotOf v win).st = .active → (slotOf v win).newKey = some key →
       exec (.ctrlRekey p h tag win) s = .next (passHeld s p <| plyAckDue (startWalk v win none false (some tag) key) p)) ∧
     (∀ tag win exts bs, isSecondary v win = true → (winAt v win).dc = true → exts ≠ [] →
       extBlocks v win exts = some bs → (∀ b ∈ bs, (blockAt v b).st = 0) →
       let t := numberExts win 0 1 exts v
       let code := ledgerTry v t.blocks
       (code = 0 → exec (.ctrlLedger p h tag win exts) s =
         .next (passHeld s p <| plyAckDue (plySend (ledgerPut t) p (.prsp tag 0 [])) p)) ∧
       (code ≠ 0 → exec (.ctrlLedger p h tag win exts) s =
         .next (passHeld s p <| plyAckDue (plySend (ledgerRefuse v code) p (.prsp tag mackFailed [])) p))))

/-- R340, R343, R344: the partner's answers. MACK ends the forwarded write or the operation with that SEQ, PRSP the
operation with that tag; creel records wait in the staging buffer until BATCH_END commits them, which is acknowledged;
BATCH_ACK lets a resync end; the open batch ends at its time. Forms whose completion it states: mack, crec, batchEnd,
batchAck, prsp, crlBatchTimer. -/
def Obligations.MirrorAnswers : Prop :=
  ∀ (s : State),
    (∀ (p : Fin 2) (h : PlyHdr), plyNext s p h = true →
      let v := plyTaken s p h true false
      let drop := fun (o : Nat × PeerOp) =>
        { v with pair := { v.pair with ops := v.pair.ops.filter fun q => q != o } }
      (∀ seq status f, (v.pair.fwds.find? fun f => f.port == p.val && f.seq == BitVec.toNat seq) = some f →
        exec (.mack p h seq status) s = .next (passHeld s p <| plyAckDue (resume (fwdAcked v f status)) p)) ∧
      (∀ seq status o, (v.pair.fwds.find? fun f => f.port == p.val && f.seq == BitVec.toNat seq) = none →
        (v.pair.ops.find? fun o => o.1 == p.val && opSeq o.2 == some seq.toNat) = some o →
        exec (.mack p h seq status) s = .next (passHeld s p <| plyAckDue (resume (opAcked (drop o) o.2 status)) p)) ∧
      (∀ tag status o, (v.pair.ops.find? fun o => opTag o.2 == some tag) = some o →
        (∀ t w exts seat src, o.2 = .ledger t w exts seat src →
          (status = 0 → exec (.prsp p h tag status) s =
            .next (passHeld s p <| plyAckDue (dcAnswer (addAccepted (drop o) w seat exts) src 0x71 .success) p)) ∧
          (status ≠ 0 → exec (.prsp p h tag status) s = .next (passHeld s p <| plyAckDue
            (dcAnswer (freeBlocks (drop o) ((extBlocks (drop o) w exts).getD [])) src 0x71 .resourcesExhausted) p))) ∧
        (∀ t w, o.2 = .rekey t w → exec (.prsp p h tag status) s = .next (passHeld s p <| plyAckDue (peerWalkEnded (drop o) w) p)) ∧
        (∀ t, o.2 = .pread t → exec (.prsp p h tag status) s = .next (passHeld s p <| plyAckDue (drop o) p))) ∧
      (∀ batch recs, exec (.crec p h batch recs) s = .next (passHeld s p <| plyAckDue
        (let u := modPly v p fun x => { x with crec := true }
         { u with pair := { u.pair with staging := u.pair.staging ++ recs } }) p)) ∧
      (∀ batch, exec (.batchEnd p h batch) s = .next (passHeld s p <| plyAckDue
        (let u := v.pair.staging.foldl commitRec v
         plySend { u with pair := { u.pair with staging := [] } } p (.batchAck batch)) p)) ∧
      (∀ batch, exec (.batchAck p h batch) s = .next (passHeld s p <| plyAckDue
        (let u := { v with pair := { v.pair with batchAck := some batch } }
         (mirroredWins u).foldl trySync u) p))) ∧
    (s.pair.batchUsed = true →
      let u := advanceTo s (s.pair.batchAt + clampN 1 20 (fld (regN s (plyBase 0 + 0x40)) 4 0) * 1000)
      exec .crlBatchTimer s = .next (sendPeer { u with pair := { u.pair with
        batchUsed := false, batch := (u.pair.batch + 1) % 0x10000 } } (.batchEnd u.pair.batch)))

/-- R341, R345–R349: a LAG window whose oldest write waits 64 µs is degraded; a promotion makes windows primary while the
pair link is down; the rebuild ends with its last snoop; a resync copies a DIRTY hank. Forms whose completion it states:
lagLimit, plyPromote, resyncHankCopy, creelRebuildComplete. -/
def Obligations.PromotionAndResync : Prop :=
  ∀ (s : State),
    (∀ (win : Fin 4096) f, (s.pair.fwds.find? fun f => f.win == win.val && !f.rs) = some f → (winAt s win).mirror = 2 →
      ((winAt s win).ms = .sync ∨ (winAt s win).ms = .resync) →
      exec (.lagLimit win) s = .next (resume (degrade (advanceTo s (f.at_ + 64000)) win))) ∧
    (∀ win, mcServed s = true → s.boot.partH = true → pairUp s = false →
      let ok := fun (w : Nat) => (winAt s w).mirror != 0 && ((winAt s w).secondary || (winAt s w).waitHand)
      let ws := if win = 0xFFFF then (mirroredWins s).filter ok else [win]
      (ws.all ok = true → s.img.rw.isSome = false → s.pair.rebuild = false →
        exec (.plyPromote .mctp win) s = .next (resume (promoteAnswer (promote s ws) .mctp .success []))) ∧
      (ws.all ok = false → exec (.plyPromote .mctp win) s = .next (promoteAnswer s .mctp .invalidInput [2]))) ∧
    (s.pair.rebuild = true → (∀ e a, (e, some a) ∈ s.acts → a.who ≠ .recover) →
      exec .creelRebuildComplete s = .next (resume (mirrorEvent { s with pair := { s.pair with rebuild := false } }
        (s.pair.promoted.headD 0) (if s.pair.uncertain then sevWarn else sevInfo) (b2n s.pair.uncertain)))) ∧
    (∀ (win : Fin 4096) hank noise, mirrorPrimary s win = true → pairUp s = true → (winAt s win).ms = .resync →
      (hankAt s win hank).dirty = true →
      exec (.resyncHankCopy win hank noise) s = .next (trySync (runUnit s (.resync win hank) 5 (resyncClass s)
        (sknSlice (hankDla s win hank)) fun u =>
          let v := putHank u win hank fun h => { h with dirty := false }
          if (hankAt v win hank).mode = .unmapped then sendUnmapped v win 2 (hankDla v win hank)
          else countSteps (copyPages win hank 512 v 0 noise) (.resync win hank) 511) win))

/-- R176, R184, R312, R314–R316: loading an image. At start-up the boot bank's image is applied, or refused and the other
bank's tried; a full image that arrives is checked, stored in the bank that is not running and, where nothing is applied
or everything has been erased, loaded at once; an image that waits for a random draw is refused after 100 ms, or taken
when the generator is well again. Forms whose completion it states: fullImageTransfer, trngHealthRecover, warpImageLoad,
trngDrawTimeout. -/
def Obligations.ImageLoad : Prop :=
  ∀ (s : State),
    (s.boot.phase = .image → s.img.req = none →
      let k := s.sec.bank
      let b := (bankAt s k).img
      let c := imgCheck s b true
      exec .warpImageLoad s = .next (
        if c.1 ≠ irOk then bootSecond (imgRefuse s (.boot k none) b c.1 c.2.1 c.2.2) (1 - k) c.1
        else if canDraw s then acceptLoad s b (.boot k none)
        else { s with img := { s.img with req := some { image := b, src := .boot k none, since := s.now } } })) ∧
    (∀ image, mcServed s = true → s.boot.phase = .run →
      let u := mcAwake s
      let k := 1 - s.sec.bank
      (bgRuns u = true ∨ lcRuns u = true → exec (.fullImageTransfer image) s = .next (imgAnswer u (.full k) irBusy)) ∧
      (bgRuns u = false → lcRuns u = false →
        let r := checkFront u image
        let v := fwEvent (modBank u k fun x => { x with img := image }) k 0
        exec (.fullImageTransfer image) s = .next (
          if r ≠ irOk then imgRefuse (fwEvent (modBank u k fun x => { x with img := [] }) k r) (.full k) image r 0 0
          else if s.img.st ≠ .none ∧ s.img.sanitized = false ∧ s.img.erased = false then imgAnswer v (.full k) irOk
          else if s.img.rw.isSome ∨ s.img.req.isSome ∨ s.fabric.busy = true then imgRefuse v (.full k) image irBusy 0 0
          else (tryLoad v image (.full k)).1))) ∧
    (∀ q, s.img.req = some q →
      let t := advanceTo s (q.since + 100000000)
      let u := keyEvent (imgRefuse { t with img := { t.img with req := none } } q.src q.image irTrng 0 0) 0 0 sevFatal irTrng
      (∀ k, q.src = .boot k none → exec .trngDrawTimeout s = .next (bootSecond u (1 - k) irTrng)) ∧
      (∀ k r, q.src = .boot k (some r) → exec .trngDrawTimeout s = .next (bothFailed u r irTrng)) ∧
      (q.src = .admin ∨ q.src = .island ∨ (∃ k, q.src = .full k) → exec .trngDrawTimeout s = .next u)) ∧
    (s.keys.trngOk = false → exec .trngHealthRecover s = .next (resumeImage (drawMeta (logEv
      { s with keys := { s.keys with trngOk := true, failing := false } } (srcOf secBase) 0x9002 sevNote (le 3 0 ++ kindByte 184 1)))))

/-- R317–R323: a re-weave. The admin seat's request names bytes of its own window, which are read as an agent reads them;
the management island brings the image itself. When what the image removes has drained, running units stop where microcode
is carried, else the shadow tables are written; when the stations have flipped, the fields are written and added windows
go ONLINE; when the old epoch has retired the result is reported. Forms whose completion it states: reweaveRequest,
mctpReweaveRequest, reweaveRemovalDrained, microcodeDrainComplete, reweaveFlipped, reweaveComplete. -/
def Obligations.ReweaveSteps : Prop :=
  ∀ (s : State),
    (∀ (f : Fn) (lo hi len : Word) (seat win dla : Nat), mcUp s = true → s.img.st ≠ .none → isAdminFn s f = true →
      domShut s (2 + f.port.val) = false → domShut s 1 = false → adminSeat s = some seat →
      let request := exec (.reweaveRequest f [0x57520001#32, lo, hi, len]) s
      (s.img.rw.isSome = true ∨ s.img.req.isSome = true → request = .next (imgRefuse s .admin [] irBusy 0 0)) ∧
      (s.img.rw = none → s.img.req = none →
        (seatRange s seat (lo.toNat + hi.toNat * 0x100000000) len.toNat = none →
          request = .next (imgRefuse s .admin [] irSource 0 0)) ∧
        (seatRange s seat (lo.toNat + hi.toNat * 0x100000000) len.toNat = some (win, dla) →
          accessStatus s win dla len.toNat s.stamp = stOk → len.toNat ≤ 0x400000 →
          let a := agentLines (agentOpen s imgAgent) imgAgent win dla len.toNat false
          a.2 = true →
            let r := agentSpan a.1 win dla len.toNat 15 1024
            let u := agentClose r.1 imgAgent
            ((spanPoison r.2).isSome = true → request = .next (imgRefuse u .admin [] irSource 0 0)) ∧
            (spanPoison r.2 = none → request = .next (tryReweave u (spanBytes r.2 dla len.toNat) .admin))))) ∧
    (∀ image, mcServed s = true → exec (.mctpReweaveRequest image) s = .next (tryReweave (mcAwake s) image .island)) ∧
    (∀ r, s.img.rw = some r →
      (r.step = .removing → removalDone s r = true → r.micro = false →
        exec .reweaveRemovalDrained s = .next (startFlip s r)) ∧
      (r.step = .removing → removalDone s r = true → r.micro = true →
        let run := (s.descs.filter fun e => isDescKey e.1 && e.2.any fun d => d.st == .started).map (·.1)
        exec .reweaveRemovalDrained s = .next (run.foldl timeoutDesc
          { s with img := { s.img with rw := some { r with step := .microcode } } })) ∧
      (r.step = .microcode → (∀ e ∈ s.spn, e.2.slots = []) →
        exec .microcodeDrainComplete s = .next (startFlip (putMicrocode s r.secs) r)) ∧
      (r.step = .flipping → s.fabric.flipped = true → exec .reweaveFlipped s = .next (resume
        (r.added.foldl (fun t a => winOnline (bindPeer t a.1) a.1) (writeFields s r)))) ∧
      (r.step = .retiring → s.fabric.busy = false →
        let t := { s with img := { s.img with st := .loaded, rw := none, digest := r.digest, imgId := r.imgId,
                                              svn := r.svn, result := irOk, detail := 0 } }
        exec .reweaveComplete s = .next (imgAnswer (logEv (advanceSvn t r.advSvn r.svn) 0 0x9001 sevInfo
          (le 1 irOk ++ le 1 0 ++ r.digest.take 8)) (if r.mbx then .admin else .island) irOk)))

/-- R359, R361–R365, R378: sleep. A domain with nothing to do stops its clocks; a group whose members have all idled long
enough, or for which REQ has been written, is asked; a member answers, the group commits, its members drain, fence and
stop; a member that stays silent, a wake that comes, a late refusal and a drain past its time end it. Forms whose
completion it states: drainTimeout, domainIdle, groupSleepRequest, sleepReq, wakeReq, memberAnswer, memberFenced,
memberStopped, lateRefuse, prepareTimeout. -/
def Obligations.SleepSteps : Prop :=
  ∀ (s : State) (dom : Fin 26),
    (dom.val ≠ 0 → (domAt s dom).st = .run → outstanding s dom = false →
      exec (.domainIdle dom) s = .next (modDom s dom fun x => { x with st := .idle, idleAt := some s.now })) ∧
    (dom.val ≠ 0 → transFree s = true → dom.val ∈ membersOf s dom → (∀ x ∈ membersOf s dom, domAwake s x = true) →
      (s.power.waiting.contains (ctlKey s dom, false) = true →
        exec (.groupSleepRequest dom) s = .next (startSleep s dom (askedState s dom true))) ∧
      (s.power.waiting.contains (ctlKey s dom, false) = false → 2 ≤ askedState s dom false →
        (∀ x ∈ membersOf s dom, (domAt s x).st = .idle) →
        let since := (membersOf s dom).foldl (fun a x => max a ((domAt s x).idleAt.getD 0)) 0
        exec (.groupSleepRequest dom) s = .next (startSleep (advanceTo s (max (since + idleNs s (ctlReg s dom))
          (tabGet 0 s.power.holdoff (ctlKey s dom)))) dom (askedState s dom false)))) ∧
    (∀ (by_ : Agent) (reg : Fin 26 ⊕ Fin 8), regServed s by_ (ctlOff reg) = true →
      let u := regAwake s by_ (ctlOff reg)
      exec (.sleepReq by_ reg) s = .next (reqAt u reg) ∧
      exec (.wakeReq by_ reg) s = .next (wakeAt u reg) ∧
      (∀ d : Fin 26, (reg = .inl d ∧ grpOf u d = 15 ∨ ∃ g, reg = .inr g ∧ headOf u g = some d.val) → d.val ≠ 0 → membersOf u d ≠ [] →
        (∀ x ∈ membersOf u d, domAwake u x = true) →
        let v := putCtlBit u (ctlReg u d) 30 true
        let w := { v with power := { v.power with holdoff := tabSet 0 v.power.holdoff (ctlKey v d) 0 } }
        transFree w = true → exec (.sleepReq by_ reg) s = .next (startSleep w d (askedState w d true))) ∧
      (∀ d : Fin 26, (reg = .inl d ∨ ∃ g, reg = .inr g ∧ headOf u g = some d.val) → domAsleep u d = true →
        exec (.wakeReq by_ reg) s = .next (requestWake (putCtlBit u (ctlOff reg) 31 true) d))) ∧
    (let u := meetWakes s
     ∀ t, u.power.trans = some t → t.wake = false →
      (t.step = 2 → dom.val ∈ t.members → t.accepted.contains dom.val = false →
        (∀ r, refuseReason u t.members t.doze dom = some r →
          exec (.memberAnswer dom) s = .next (abortSleep u t dom r)) ∧
        (refuseReason u t.members t.doze dom = none →
          let t' : Trans := { t with accepted := t.accepted ++ [dom.val] }
          ((∀ x ∈ t.members, x ∈ t'.accepted) → exec (.memberAnswer dom) s = .next (commitSleep u t')) ∧
          (¬ (∀ x ∈ t.members, x ∈ t'.accepted) →
            exec (.memberAnswer dom) s = .next { u with power := { u.power with trans := some t' } }))) ∧
      (t.step = 2 → exec .prepareTimeout s = .next (abortSleep (advanceTo u (t.at_ + 10000)) t
        ((t.members.filter fun x => !t.accepted.contains x).headD 0) 7)) ∧
      (3 ≤ t.step → t.late = none → dom.val ∈ t.members → t.fenced.contains dom.val = false → outstanding u dom = false →
        let fenced := t.fenced ++ [dom.val]
        let v := fenceDom u dom
        exec (.memberFenced dom) s = .next { v with power := { v.power with trans := some { t with
          fenced := fenced, step := if t.members.all fun x => fenced.contains x then 4 else 3 } } }) ∧
      (dom.val ∈ t.fenced → t.stopped.contains dom.val = false →
        let v := stopDom u dom t.doze
        let t' : Trans := { t with stopped := t.stopped ++ [dom.val] }
        ((∃ x ∈ t.members, x ∉ t'.stopped) →
          exec (.memberStopped dom) s = .next { v with power := { v.power with trans := some t' } }) ∧
        ((∀ x ∈ t.members, x ∈ t'.stopped) → t.late = none →
          exec (.memberStopped dom) s = .next (endTrans (grpLast v 1 0 0 t.group))) ∧
        ((∀ x ∈ t.members, x ∈ t'.stopped) → ∀ l, t.late = some l →
          exec (.memberStopped dom) s = .next (startWake v t.members t.group (some l)))) ∧
      (∀ reason : Fin 256, 3 ≤ t.step → t.late = none → dom.val ∈ t.members →
        refuseReason u t.members t.doze dom = some reason.val →
        exec (.lateRefuse dom reason) s = .next (lateRefuse u t dom reason)) ∧
      (t.step = 3 → t.late = none → dom.val ∈ t.members → t.fenced.contains dom.val = false → outstanding u dom = true →
        exec (.drainTimeout dom) s = .next (lateRefuse (advanceTo u (t.at_ + 100000)) t dom 0xC)))

/-- R365–R371, R380: wakes and operating points. A wake asks for the whole group; a step goes on when every member is
ready, and one that is late is repeated once before its members go OFF. TARGET starts a transition or is stored; the PLL's
lock and the voltage's confirmation move it on; each has a time after which the transition fails. Forms whose completion
it states: groupWake, wakeStepReady, dvfsTarget, wakeStepTimeout, pllLock, pllLockTimeout, voltageConfirm,
voltageConfirmTimeout. -/
def Obligations.WakesAndDvfs : Prop :=
  ∀ (s : State),
    (∀ dom : Fin 26, exec (.groupWake dom) s = .next (
      let t := meetWakes (askWake s dom)
      if domAsleep t dom && transFree t then startWake t ((membersOf t dom).filter (domAsleep t)) (grpOf t dom) none else t)) ∧
    (∀ t, s.power.trans = some t → t.wake = true →
      (∀ dom : Fin 26, dom.val ∈ t.members → t.ready.contains dom.val = false →
        let t' : Trans := { t with ready := t.ready ++ [dom.val] }
        ((∀ x ∈ t.members, x ∈ t'.ready) → exec (.wakeStepReady dom) s = .next (replayHeld (wakeStepDone s t'))) ∧
        ((∃ x ∈ t.members, x ∉ t'.ready) →
          exec (.wakeStepReady dom) s =
            .next (replayHeld { s with power := { s.power with trans := some t' } }))) ∧
      (∀ d bad, (t.members.filter fun x => !t.ready.contains x) = d :: bad →
        let u := advanceTo s (t.at_ + wakeLatest t.doze t.step)
        let v := grpLast (groupEvent (bump u (pwrBase + 0x164)) sevErr t.group d (0x10 + t.step)) 5 d (0x10 + t.step)
          t.group
        let v' := if t.step = 4 then t.members.foldl stopAgain v else v
        (t.again = false → exec .wakeStepTimeout s = .next (replayHeld { v' with
          power := { v'.power with trans := some { t with step := 1, at_ := v'.now, ready := [], again := true } } })) ∧
        (t.again = true →
          let w := (d :: bad).foldl (fun u x => domOff (if t.step = 4 then stopAgain u x else u) t.group t.step x) v
          let good := t.members.filter fun x => t.ready.contains x
          (good = [] → exec .wakeStepTimeout s = .next (replayHeld (resume (endTrans w)))) ∧
          (good ≠ [] → exec .wakeStepTimeout s =
            .next (replayHeld (wakeStepDone w { t with members := good, late := some (d, 0x10 + t.step) })))))) ∧
    (∀ (by_ : Agent) (target : Fin 4), regServed s by_ (pwrBase + 0x130) = true →
      let u := regAwake s by_ (pwrBase + 0x130)
      (s.power.dvfs = none → exec (.dvfsTarget by_ target) s = .next (startDvfs u target)) ∧
      (s.power.dvfs.isSome = true → exec (.dvfsTarget by_ target) s =
        .next { u with power := { u.power with stored := some target.val } })) ∧
    (s.power.dvfs = some 2 → s.power.pllOk = false →
      let u := { s with power := { s.power with pllOk := true } }
      exec .pllLockTimeout s = .next (endDvfs (advanceTo s (s.power.dvfsAt + 20000)) 2) ∧
      (s.power.op ≤ s.power.target → exec .pllLock s =
        .next (let v := switchClock u
               { v with power := { v.power with dvfs := some 4, dvfsAt := s.now } })) ∧
      (s.power.target < s.power.op → s.power.voltOk = false → exec .pllLock s = .next u) ∧
      (s.power.target < s.power.op → s.power.voltOk = true → exec .pllLock s = .next (endDvfs (switchClock u) 0))) ∧
    (s.power.dvfs = some 4 → exec .voltageConfirm s = .next (endDvfs s 0)) ∧
    (s.power.dvfs = some 2 → s.power.target < s.power.op → s.power.voltOk = false →
      let u := { s with power := { s.power with voltOk := true } }
      (s.power.pllOk = false → exec .voltageConfirm s = .next u) ∧
      (s.power.pllOk = true → exec .voltageConfirm s = .next (endDvfs (switchClock u) 0))) ∧
    (s.power.dvfs = some 4 ∨ s.power.dvfs = some 2 ∧ s.power.target < s.power.op ∧ s.power.voltOk = false →
      exec .voltageConfirmTimeout s = .next (endDvfs (advanceTo s (s.power.dvfsAt + 100000)) 1))

/-- R26–R33, R38, R39, R46–R48, R473: links. Training takes the highest rate at which both ends share a flit mode, with
the credits of its width; CRC errors count, L0p changes the width in use, recovery trains again; PERST# holds a port's
links in Detect; keys (their value free) make an IDE stream secure and a failed check takes the link down; a CXL.cache
flit and a request for ASPM are rejected and counted. Forms whose completion it states: cxlCacheFlit, aspmEntryRequest,
ideKmKeyProg, linkUp, flitCrcReplay, linkRecovery, l0pWidthChange, linkDown, perstAssert, ideIntegrityFailure,
perstDeassert. -/
def Obligations.LinkSteps : Prop :=
  ∀ (s : State) (port link : Fin 4),
    let k := linkKey port link
    let l := linkAt s k
    (∀ p, l.up = false → canTrain s port link p = true →
      let n := negotiate s port p
      let a := if n.2 = 0 then 0 else 1
      let e := if 5 ≤ p.maxRate ∧ p.flit68 = true ∧ p.flit256 = false then protoOccurrence (enumerate s port link) port link 1
        else enumerate s port link
      let t := modLink e k fun l => { trained l n.1 n.2 (laneZero s port link p.reversed) p with
        credReq := a * 16 * p.width, credRwd := a * 8 * p.width, credBi := a * 32 * p.width, credSnp := 0 }
      let v := linkEvent (emit (latchEvt t k evtUp) (.link port link n.1 n.2)) port link 0x1001
        (if n.2 = 0 then sevWarn else sevInfo) []
      exec (.linkUp port link p) s = .next (resume ((linkSeats v port link).foldl seatReturns v))) ∧
    (l.up = true → exec (.flitCrcReplay port link true) s = .next (countReplay (countCrc s k) k) ∧
      exec (.flitCrcReplay port link false) s = .next (countCrc s k)) ∧
    (∀ width, l.up = true → l.rate = 5 → 2 ≤ l.flit → width ∈ [1, 2, 4, 8, 16] → width ≤ l.width →
      exec (.l0pWidthChange port link width) s = .next (modLink s k fun l => { l with l0p := width })) ∧
    exec (.linkDown port link) s = .next (takeLinkDown s port link) ∧
    (l.up = true →
      let a := modLink s k fun l => { l with
        up := false, mem := false, rate := 0, width := 0, flit := 0, reversed := false, lane0 := 0, inv := 0, l0p := 0
        unbound := [], credReq := 0, credRwd := 0, credBi := 0, credSnp := 0 }
      let b := modIngress { a with power := { a.power with held := a.power.held.filter fun h => heldLink h.2 != some (port.val, link.val) } }
        port fun q => q.filter fun m => m.link != link
      let c := (entriesWhere b fun t => t.m.port == port && t.m.link == link).foldl dropRequest (dropAcks b port link)
      let d := (c.xing.map (·.1)).foldl (dropSnoop k) c
      let e := (linkSeats d port link).foldl (fun t x =>
        let y := seatAt t x
        if seatUp t x || y.lostAt.isSome || !(y.state = .attached || y.state = .suspect || y.state = .disabling) then t
        else modSeat t x fun y => { y with lostAt := some t.now, lastPath := k }) d
      exec (.linkDown port link) s = .next (resume (linkEvent (latchEvt e k evtDown) port link 0x1001 sevWarn []))) ∧
    (∀ p, l.up = true →
      let n := negotiate s port p
      (canTrain s port link p = true → (l.mem = false ∨ n.2 ≠ 0) → exec (.linkRecovery port link p) s =
        .next (let e := if 5 ≤ p.maxRate ∧ p.flit68 = true ∧ p.flit256 = false then protoOccurrence s port link 1 else s
          let t := modLink e k fun l => { trained l n.1 n.2 (laneZero s port link p.reversed) p with mem := l.mem }
          let v := if l.mem = true then (linkSeats t port link).foldl seatReturns t else t
          linkEvent (emit (latchEvt v k evtRecovery) (.link port link n.1 n.2)) port link 0x1001 sevInfo [])) ∧
      (canTrain s port link p = false ∨ l.mem = true ∧ n.2 = 0 →
        exec (.linkRecovery port link p) s = .next (takeLinkDown s port link))) ∧
    exec (.perstAssert port) s = .next (modPort (portDown s port) port fun x => { x with perst := true }) ∧
    exec (.perstDeassert port) s = .next (modPort s port fun x => { x with perst := false }) ∧
    (l.up = true → linkSession s port link = true → ∀ str,
      exec (.ideKmKeyProg port link str false) s =
        .next (emit (modLink (nextFree s) k fun l => putIdeKey (putIde l str .active) str (Config.freeNat s.free + 1))
          (.ideKm port link true)) ∧
      exec (.ideKmKeyProg port link str true) s =
        .next (emit (protoOccurrence s port link 2) (.ideKm port link false))) ∧
    (∀ str, l.up = true → (str = .cachemem → l.ideMem = .active) → (str = .pcieLink → l.ideLink = .active) →
      (str = .selective → l.ideSel = .active) → exec (.ideIntegrityFailure port link str) s = .next (takeLinkDown
        (linkEvent (latchEvt (modLink s k fun l => putIde l str .insecure) k evtIde) port link 0x1003 sevErr
          (kindByte 39 0 ++ le 1 (ideCode str))) port link)) ∧
    (l.up = true → exec (.cxlCacheFlit port link) s =
        .next (protoOccurrence (rasLog s port link) port link 0) ∧
      exec (.aspmEntryRequest port link) s = .next (protoOccurrence s port link 7))

/-- R46, R373, R374, R393–R395, R401, R461: resets. Each kind names its cause and keeps what its class keeps; a cold
power-up and a brown-out start powered time afresh; the watchdog resets MGMT, or everything while a background command
runs; a WARM that takes longer than 1 s becomes GLOBAL; a function-level reset forgets the mailbox's and DOE's commands.
Forms whose completion it states: functionLevelReset, brownout, watchdogKick, coldPowerUp, globalResetPin, watchdogExpiry,
warmEscalation. -/
def Obligations.Resets : Prop :=
  ∀ (s : State),
    (∃ u, exec .coldPowerUp s = .next u ∧ u.now = 0 ∧ u.boot.cause = causeCold ∧ u.boot.bumpDue = s.boot.bumpDue + 1 ∧
      u.boot.phase = .ldo ∧ u.boot.boCnt = 0 ∧ u.boot.prevMs = 0 ∧ u.regs = [] ∧ u.dram = [] ∧ u.hsw = {} ∧
      u.log.flash = s.log.flash ∧ u.banks = s.banks ∧ (s.sec.run = none → u.sec.lc = s.sec.lc)) ∧
    (∀ src, (src = .lowPowerLimit → s.power.ldoNormal = false) → (src = .normalLimit → s.power.ldoNormal = true) →
      ∃ u, exec (.brownout src) s = .next u ∧ u.now = 0 ∧ u.boot.cause = causeBrownout ∧ u.boot.boSrc = boCode src ∧
        u.boot.boCnt = min 0xFFFF (s.boot.boCnt + 1) ∧ u.regs = [] ∧ u.dram = [] ∧ u.log.flash = s.log.flash) ∧
    (exec .globalResetPin s = .next (mainReset s causeGlobal) ∧ (mainReset s causeGlobal).dram = [] ∧
      (mainReset s causeGlobal).boot.cause = (if mainHeld s && decide (causeRank s.boot.cause < causeRank causeGlobal) then s.boot.cause
        else causeGlobal)) ∧
    (bitOf (regN s (mgmtBase + 0x10)) 16 = true → mcServed s = true →
      exec .watchdogExpiry s = .next (let u := advanceTo s (s.mgmt.wdtAt + wdtNs s)
                                      if s.mgmt.bg.isSome then globalReset u else warmReset u)) ∧
    (∀ (by_ : Agent) (val : Word), regServed s by_ (mgmtBase + 0x10) = true →
      let u := setReg (regAwake s by_ (mgmtBase + 0x10)) (mgmtBase + 0x10)
        (word (val.toNat % 0x100 + b2n (bitOf val.toNat 16) * 0x10000))
      exec (.watchdogKick by_ val) s =
        .next (if bitOf val.toNat 31 then { u with mgmt := { u.mgmt with wdtAt := s.now } } else u)) ∧
    (∀ t, s.boot.warmSince = some t → exec .warmEscalation s = .next (globalReset (advanceTo s (t + 1000000000)))) ∧
    (∀ f, fnLive s f = true → fnServed s f = true →
      let u := modFn (fnAwake s f) (fnKey f) fun x =>
        { x with bg := 0, bgDone := false, doeUntil := 0, falcon := false, session := false, msixOff := true, msixTab := [], pba := 0 }
      let v := { u with passes := u.passes.filter fun p => p.by_ != .mailbox f }
      let clear := fun (i : Ide) => if i = .active then .off else i
      let w := linkEvent (modLink v (linkKey f.port f.link) fun l =>
        { l with ideLink := clear l.ideLink, ideSel := clear l.ideSel, keyLink := 0, keySel := 0 }) f.port f.link 0x1001 sevInfo []
      exec (.functionLevelReset f) s = .next
        (if w.mgmt.xfer.any fun x => x.by_ == some (.mailbox f) then bgEnded (abortXfer w) else w))

/-- R399: GLB.RST_CTL at offset 0x180. A write by any of the three rows whose KEY is not 0x5A is ignored; with the key,
GLOBAL resets the device, also where WARM is set beside it, and WARM alone asks for a WARM reset; a write with neither bit
set does nothing. Each field is write-only: a read answers zeros. Forms whose completion it states: registerWrite,
globalResetRequest, warmResetRequest, registerRead. -/
def Obligations.ResetControl : Prop :=
  ∀ (s : State) (by_ : Agent) (val : Word), regServed s by_ 0x180 = true →
    let u := regAwake s by_ 0x180
    let does := fun (t : State) => exec (.globalResetRequest by_ val) s = .next t ∧
      exec (.warmResetRequest by_ val) s = .next t ∧ exec (.registerWrite by_ 0x180 4 val.toNat) s = .next t
    (fld val.toNat 31 24 ≠ 0x5A → does u) ∧
    (fld val.toNat 31 24 = 0x5A → bitOf val.toNat 1 = true → does (mainReset u causeGlobal)) ∧
    (fld val.toNat 31 24 = 0x5A → bitOf val.toNat 1 = false → bitOf val.toNat 0 = true →
      (bgRuns u = false → does (warmReset u)) ∧
      (bgRuns u = true → does { u with boot := { u.boot with warmWaits := true } })) ∧
    (fld val.toNat 31 24 = 0x5A → bitOf val.toNat 1 = false → bitOf val.toNat 0 = false → does u) ∧
    exec (.registerRead by_ 0x180 4) s = .next (emit u (.regData by_ [0]))

/-- R372, R374, R376, R391, R392: power-up. The LDO's ready signal starts the supervisor, qualified rails the reference's
check; the wake record is copied every 1.024 ms; a reference that stops takes down its port, or holds all domains in
reset, until it returns; rails that fall return the domains to reset and the LDO to its low-power mode. Forms whose
completion it states: refclkLoss, refclkReturn, ldoReady, wakeRecordCopy, railsOkQualified, railsOkFall. -/
def Obligations.PowerUp : Prop :=
  ∀ (s : State),
    (s.power.ldoReady = false → ∃ u, exec .ldoReady s = .next u ∧ u.power.ldoNormal = true ∧ u.power.ldoReady = true ∧
      u.boot.phase = (if s.boot.phase = .ldo then .supervisor else s.boot.phase) ∧ u.regs = s.regs) ∧
    (∃ u, exec .wakeRecordCopy s = .next u ∧ u.now = (s.now / 1024000 + 1) * 1024000 ∧
      u.boot.prevMs = u.now / 1000 / 1024 % 0x100000000) ∧
    (s.boot.phase = .rails → ∃ u, exec .railsOkQualified s = .next u ∧ u.boot.railsOk = true ∧
      u.boot.phase = (if s.boot.refLost.getLsbD 6 then .held else .keyDraw) ∧ u.regs = s.regs) ∧
    (s.boot.phase ≠ .rails → exec .railsOkQualified s = .next { s with boot := { s.boot with railsOk := true } }) ∧
    (let u := { s with boot := { s.boot with railsOk := false } }
     (mainHeld s = true ∨ s.boot.phase = .run → exec .railsOkFall s = .next (ldoLow u)) ∧
     (mainHeld s = false → s.boot.phase ≠ .run →
       exec .railsOkFall s = .next (ldoLow (mainReset u s.boot.cause)))) ∧
    (∀ r, (mainHeld s = false ∨ s.boot.phase = .held) → s.boot.refLost.getLsbD (refBit r) = false →
      let u := { s with boot := { s.boot with refLost := s.boot.refLost ||| (1#7 <<< refBit r) } }
      (∀ n, r = .hp n → exec (.refclkLoss r) s = .next (portDown u n)) ∧
      (∀ p, r = .pp p → (plyAt s p).st ≠ .down → exec (.refclkLoss r) s = .next (plyDown u p .down)) ∧
      (r = .core → exec (.refclkLoss r) s = .next (mainReset u causeRefclk))) ∧
    (∀ r, s.boot.refLost.getLsbD (refBit r) = true →
      let u := { s with boot := { s.boot with refLost := s.boot.refLost &&& ~~~(1#7 <<< refBit r) } }
      (∀ n, r = .hp n → exec (.refclkReturn r) s = .next u) ∧
      (∀ p, r = .pp p → plyEnabled s p = true → (plyAt s p).st = .down → domAwake s (24 + p) = true →
        exec (.refclkReturn r) s = .next (modPly u p fun x => { x with st := .training, stepAt := s.now })) ∧
      (r = .core → s.boot.phase = .held →
        exec (.refclkReturn r) s = .next { u with boot := { u.boot with phase := .keyDraw } }))

/-- R382–R389, R396, R398: the hot-swap supervisor. VIN in its window for 10 ms lets the gate rise, and VIN outside it
shuts the gate; each sample runs the FET model and the fault timer; a sense voltage of twice the limit, the fault timer's
end and a FET that is too hot trip; power-good follows 1 ms of its conditions; a trip cools down for 100 ms and is retried
as often as allowed, a trip beyond the retries latches, and one whose RETRIES has been lowered since stays where it is;
ten seconds of power-good clear the tries. Forms whose completion it states: hswSample, vinQualified, vinOutOfWindow,
faultTimerExpiry, circuitBreaker, powerGood, cooldownEnd, triesReset. -/
def Obligations.HotSwapSteps : Prop :=
  ∀ (s : State),
    (∀ t, s.hsw.st = .off → s.power.ldoReady = true → s.hsw.vinOkAt = some t →
      exec .vinQualified s = .next (startRamp (advanceTo s (t + 10000000)))) ∧
    (driving s = true → exec .vinOutOfWindow s = .next (vinLost s) ∧ exec .circuitBreaker s = .next (trip s 2)) ∧
    (driving s = false →
      exec .vinOutOfWindow s = .next { s with hsw := { s.hsw with vinOkAt := none } }) ∧
    (∀ r, let u := advanceTo s ((s.now / 1000 + 1) * 1000)
      let lim := decide (ilimUv s ≤ r.vsn) && driving s
      let v := { u with hsw := { s.hsw with
        t := fetStep s r, vin := r.vin, vout := r.vout, vsn := r.vsn,
        timing := lim, timer := if lim then s.hsw.timer + 1 else 0,
        vinOkAt := if vinIn s.hsw.vinOkAt.isSome r.vin then some (s.hsw.vinOkAt.getD u.now) else none } }
      exec (.hswSample r) s = .next (if driving s then sampleDriving v r s.hsw.timing else v)) ∧
    (∀ v r ran, driving v = true →
      (vinIn true r.vin = false → sampleDriving v r ran = vinLost v) ∧
      (vinIn true r.vin = true → 2 * ilimUv v ≤ r.vsn → sampleDriving v r ran = trip v 2) ∧
      (vinIn true r.vin = true → r.vsn < 2 * ilimUv v → faultUs v ≤ v.hsw.timer → sampleDriving v r ran = trip v 1) ∧
      (vinIn true r.vin = true → r.vsn < 2 * ilimUv v → v.hsw.timer < faultUs v →
        (degC (fld (hswFet v) 23 16) < v.hsw.t → sampleDriving v r ran = trip v 3) ∧
        (v.hsw.t ≤ degC (fld (hswFet v) 23 16) → v.hsw.st = .ramp →
          let good := fun n => { v with hsw := { v.hsw with good := n } }
          (pgConditions r v.hsw.timing = false ∨ ran = true → sampleDriving v r ran = good 0) ∧
          (pgConditions r v.hsw.timing = true → ran = false → v.hsw.good < 1000 →
            sampleDriving v r ran = good (v.hsw.good + 1)) ∧
          (pgConditions r v.hsw.timing = true → ran = false → 1000 ≤ v.hsw.good →
            sampleDriving v r ran = givePower v)))) ∧
    (driving s = true → s.hsw.timing = true → exec .faultTimerExpiry s =
      .next (trip (advanceBy s ((faultUs s - s.hsw.timer) * 1000)) 1)) ∧
    (s.hsw.st = .ramp → s.hsw.timing = false →
      exec .powerGood s = .next (givePower (advanceBy s ((1001 - s.hsw.good) * 1000)))) ∧
    (s.hsw.st = .trip → s.hsw.t ≤ degC (fld (hswFet s) 31 24) →
      let u := advanceTo s (s.hsw.tripAt + 100000000)
      (s.hsw.tries ≤ retries s → exec .cooldownEnd s = .next (startRamp u)) ∧
      (retries s < s.hsw.tries → exec .cooldownEnd s = .next u)) ∧
    (s.hsw.st = .trip → degC (fld (hswFet s) 31 24) < s.hsw.t → exec .cooldownEnd s = .next s) ∧
    (∀ v cause, (trip v cause).hsw.st = (if retries v < v.hsw.tries + 1 then .latched else .trip) ∧
      (trip v cause).hsw.gate = false ∧ (trip v cause).hsw.flt = true ∧ (trip v cause).hsw.cause = cause) ∧
    (s.hsw.st = .on → ∃ u, exec .triesReset s = .next u ∧ u.hsw = { s.hsw with tries := 0 } ∧
      u.now = max s.now (s.hsw.pgAt + 10000000000) ∧ u.dram = s.dram ∧ u.regs = s.regs)

/-- R404–R410, R413, R414: the management island's own work. A scan checks every sensor against its thresholds and the
trip; a calibration starts where none runs, by its bit or at its period, and ends with a code for each step, counted and
dated where all were accepted; the queue toward the persistent log is written one record at a time. Forms whose completion
it states: sensorScan, calibrationStart, calibrationComplete, calibrationPeriodTimer, persistentLogWrite. -/
def Obligations.SensorsAndCalibration : Prop :=
  ∀ (s : State),
    (∀ r, mainPower s = true → s.mgmt.calBusy = false →
      let u := if s.mgmt.scanOk then advanceTo s (s.mgmt.scanAt + 1000000) else s
      let t := (List.range 24).map fun n => r.temps.getD n 0
      let v := (List.range 8).map fun n => r.rails.getD n 0
      let w := checkTrip { u with mgmt := { u.mgmt with scanAt := u.now } } t
      let x := { w with mgmt := { w.mgmt with temps := t, rails := v, scanOk := true } }
      w.mgmt.calBusy = false ∧ exec (.sensorScan r) s =
        .next ((List.range 8).foldl (checkRail v) ((List.range 24).foldl (checkSensor t) x))) ∧
    (∀ (by_ : Agent) (val : Word), regServed s by_ (mgmtBase + 0x30) = true →
      let u := setReg (regAwake s by_ (mgmtBase + 0x30)) (mgmtBase + 0x30) (word (fld val.toNat 15 0))
      exec (.calibrationStart by_ val) s = .next (if bitOf val.toNat 31 then startCal u else u)) ∧
    (let p := fld (regN s (mgmtBase + 0x30)) 15 0 * 1000000000
     p ≠ 0 → mcUp s = true →
       exec .calibrationPeriodTimer s = .next (startCal (advanceTo s ((s.now / p + 1) * p)))) ∧
    (s.mgmt.calBusy = false → startCal s = { s with mgmt := { s.mgmt with calBusy := true, calAt := s.now } }) ∧
    (∀ steps, s.mgmt.calBusy = true →
      let codes := calCodes s steps
      let sts := codes.getD 0 0 + codes.getD 1 0 * 4 + codes.getD 2 0 * 16 + codes.getD 3 0 * 64
      ∃ m : Mgmt, m.calBusy = false ∧ m.calSteps = sts ∧
        m.calCount = (if sts = 0 then min 0xFFFFFFFF (s.mgmt.calCount + 1) else s.mgmt.calCount) ∧
        m.calLast = (if sts = 0 then us s else s.mgmt.calLast) ∧
        (∀ i, i ∈ m.trims ↔ i ∈ s.mgmt.trims ∨ i < 4 ∧ codes.getD i 1 = 0) ∧
        exec (.calibrationComplete steps) s = .next (logEv { s with mgmt := m } (srcOf mgmtBase) 0x8004
          (if sts = 0 then sevInfo else sevWarn) (le 1 sts ++ le 4 m.calCount))) ∧
    (∀ e rest, mcUp s = true → s.log.queue = e :: rest → exec .persistentLogWrite s =
      .next { s with log := flashPut { s.log with queue := rest } e })

/-- R422–R424: the board link. An I3C address is taken when the main domains are out of reset; the endpoint identity is
stored and reported; the message types answered are the six of R423, and others are discarded; PLDM updates firmware as
Transfer FW does, activates it, and reports the sensors as their registers show them. Forms whose completion it states:
setEndpointId, mctpUnsupportedType, pldmFirmwareUpdate, pldmGetSensorReading, i3cAddressAssign, getEndpointId,
mctpGetVersion, getMessageTypeSupport, pldmActivateFirmware. -/
def Obligations.BoardLink : Prop :=
  ∀ (s : State),
    (hostPortsOut s = true → exec .i3cAddressAssign s = .next { s with mgmt := { s.mgmt with i3c := true } }) ∧
    (mcServed s = true →
      let u := mcAwake s
      (∀ eid : Byte, exec (.setEndpointId eid) s = .next (emit { u with mgmt := { u.mgmt with eid := some eid.toNat } }
        (.mctp mctpSetEid [eid.toNat]))) ∧
      exec .getEndpointId s = .next (emit u (.mctp mctpGetEid [s.mgmt.eid.getD 0])) ∧
      (∃ v, exec .mctpGetVersion s = .next (emit (nextFree u) (.mctp mctpVersion [v]))) ∧
      exec .getMessageTypeSupport s = .next (emit u (.mctp mctpTypes [0x00, 0x01, 0x05, 0x06, 0x07, 0x08])) ∧
      (∀ c, (xferBusy u = true → exec (.pldmFirmwareUpdate c) s = .next (emit u (.mctp 0x424 [irBusy]))) ∧
        (xferBusy u = false → exec (.pldmFirmwareUpdate c) s = .next (startXfer u none c))) ∧
      exec .pldmActivateFirmware s = .next (emit (armPending u).1 (.mctp 0x4240 [b2n (armPending u).2])) ∧
      (∀ sensor, exec (.pldmGetSensorReading sensor) s = .next (emit u (.mctp 0x4230 (pldmReading s sensor))))) ∧
    (∀ ty, exec (.mctpUnsupportedType ty) s = .next s)

/-- R444–R448, R450, R454–R456: counters and telemetry. A freeze is a bit of PMU.CTL; a counter at its maximum wraps to
zero with OVF; a write of DUMP_CTL starts the dump, the first one PERIOD later, stops it, or refuses it where the window
will not do; a dump that falls due is latched with the next SEQ and written, or skipped while the one before is busy.
Forms whose completion it states: dumpEnable, pmuFreeze, counterWrap, telemetryDump. -/
def Obligations.CountersAndTelemetry : Prop :=
  ∀ (s : State),
    (∀ (by_ : Agent) (freeze : Bool), regServed s by_ pmuBase = true → exec (.pmuFreeze by_ freeze) s =
      .next (setReg (regAwake s by_ pmuBase) pmuBase (word (regN s pmuBase / 2 * 2 + b2n freeze)))) ∧
    (∀ (kind : Fin 6) (inst : Fin 48) (cnt : Fin 8), inst.val < instsOf kind → cnt.val < ctrsOf kind →
      let k := ctrKey kind inst cnt
      (ctrAt s k).en = true → bitOf (regN s pmuBase) 0 = false → (ctrAt s k).count = 2 ^ 48 - 1 →
      clockOn s (ctrDom kind inst) = true → exec (.counterWrap kind inst cnt) s = .next (countUp s k) ∧
        (ctrAt (countUp s k) k).count = 0 ∧ (ctrAt (countUp s k) k).ovf = true) ∧
    (∀ (by_ : Agent) (val : Word), regServed s by_ (pmuBase + 0x40) = true →
      let u := setReg (regAwake s by_ (pmuBase + 0x40)) (pmuBase + 0x40) (word (val.toNat % 0x1000000))
      (bitOf val.toNat 31 = false → exec (.dumpEnable by_ val) s =
        .next { u with pmu := { u.pmu with en := false, busy := false, latched := [] } }) ∧
      (bitOf val.toNat 31 = true → s.pmu.en = true → exec (.dumpEnable by_ val) s = .next u) ∧
      (bitOf val.toNat 31 = true → s.pmu.en = false → dumpWindowOk u = true → exec (.dumpEnable by_ val) s =
        .next { u with pmu := { u.pmu with
                                en := true, stop := 0, seq := 0, skipped := 0, dueAt := s.now + dumpPeriod u * 1000 } }) ∧
      (bitOf val.toNat 31 = true → s.pmu.en = false → dumpWindowOk u = false →
        exec (.dumpEnable by_ val) s = .next (stopDump u 1))) ∧
    (s.pmu.en = true →
      (s.pmu.busy = false →
        ∃ t, t.pmu.dueAt = s.pmu.dueAt + dumpPeriod s * 1000 ∧ t.pmu.busy = true ∧ t.pmu.seq = s.pmu.seq + 1 ∧
          t.now = max s.now s.pmu.dueAt ∧ exec .telemetryDump s = .next (writeDump t).1) ∧
      (s.pmu.busy = true → (writeDump s).2 = true → exec .telemetryDump s = .next (writeDump s).1))

/-- R57, R58, R417–R421: message boxes. A word pushed goes into the receiver's FIFO or is lost with OVF; a pop takes the
oldest word, or reads zero with UNF; doorbell bits gather, and those that are not masked interrupt; a box is given to a
seat; a seat that has drained loses its boxes; a poll reads every box in memory mode. Forms whose completion it states:
seatDrainComplete, mbxPush, mbxPop, mbxDbRing, boxAssign, boxPoll. -/
def Obligations.BoxSteps : Prop :=
  ∀ (s : State),
    (∀ (by_ : Agent) (box : Fin 66) (w : Word), regServed s by_ (mbxBase box + 0x08) = true →
      let u := regAwake s by_ (mbxBase box + 0x08)
      exec (.mbxPush by_ box w) s = .next (putPush u by_ box w) ∧
      (by_ ≠ .ctrl → (mbxAt s box).tc.length < 16 →
        mbxAt (putPush u by_ box w) box = { mbxAt s box with tc := (mbxAt s box).tc ++ [w] }) ∧
      (by_ ≠ .ctrl → 16 ≤ (mbxAt s box).tc.length →
        mbxAt (putPush u by_ box w) box = { mbxAt s box with ovf := true })) ∧
    (∀ (by_ : Agent) (box : Fin 66), regServed s by_ (mbxBase box + 0x0C) = true →
      let u := regAwake s by_ (mbxBase box + 0x0C)
      let r := takePop u by_ box
      exec (.mbxPop by_ box) s = .next (emit r.1 (.regData by_ [r.2])) ∧
      (by_ = .ctrl → (mbxAt s box).tc = [] → r = (modMbx u box fun x => { x with unfC := true }, 0)) ∧
      (by_ ≠ .ctrl → (mbxAt s box).fc = [] → r = (modMbx u box fun x => { x with unf := true }, 0)) ∧
      (∀ w l, by_ = .ctrl → (mbxAt s box).tc = w :: l → r.2 = w) ∧
      (∀ w l, by_ ≠ .ctrl → (mbxAt s box).fc = w :: l → r.2 = w)) ∧
    (∀ (by_ : Agent) (box : Fin 66) (bits : Word), regServed s by_ (mbxBase box + 0x10) = true →
      let u := regAwake s by_ (mbxBase box + 0x10)
      (by_ = .ctrl → exec (.mbxDbRing by_ box bits) s =
        .next (let v := modMbx u box fun x => { x with dbFc := x.dbFc ||| bits }
               if bits &&& regAt s (mbxBase box + 0x18) = 0 then v else boxIrqFar v box)) ∧
      (by_ ≠ .ctrl → exec (.mbxDbRing by_ box bits) s =
        .next (let v := modMbx u box fun x => { x with dbTc := x.dbTc ||| bits }
               if bits &&& regAt s (boxKey .ctrl box 0x18) = 0 then v else boxIrqCtrl v box))) ∧
    (∀ (box : Fin 66) (seat : Fin 1024) (mode : Bool), mcUp s = true → 1 ≤ box.val → box.val ≤ 15 →
      (seatAt s seat).state ≠ .none →
      let memory := mode || !isOwner s seat
      (memory = true → lineOk s seat (mbxAt s box).inNext = true ∧ lineOk s seat (mbxAt s box).outNext = true) →
      exec (.boxAssign box seat mode) s = .next (modMbx s box fun x => { x with
        en := true, mode := memory, seat := seat, inHpa := if memory then x.inNext else 0,
        outHpa := if memory then x.outNext else 0, lastIn := 0, outSeq := 0, ackDue := false })) ∧
    (∀ seat : Fin 1024, (seatAt s seat).state = .disabling → seatDrained s seat = true →
      let u := unassignBoxes (seatEvent (modSeat s seat fun x =>
        { x with state := .disabled, pendEn := none, lostAt := none }) seat) seat
      exec (.seatDrainComplete seat) s =
        .next (if (seatAt s seat).pendEn = some true ∧ (seatAt s seat).removing = false then enableSeat u seat else u)) ∧
    (mcUp s = true →
      let u := advanceTo s ((s.now / pollNs s + 1) * pollNs s)
      exec .boxPoll s = .next (resume (((s.mbx.filter fun e => e.2.en && e.2.mode).map (·.1)).foldl pollBox u)))
end

