-- ==== Sys2Proof/Laws/Frames.lean ====
section
/-! SUPPORT. What the shared operations of Machine/Ops.lean can change: each lemma names the fields, and says that the rest
of the state stays. -/

set_option Elab.async false

namespace Sys2Proof.Machine

open Sys2Proof

theorem modFn_frame (s : State) (k : Nat) (g : FnState → FnState) : ∃ f, modFn s k g = { s with fns := f } := ⟨_, rfl⟩

/-- An interrupt changes what is sent, or the pending bits of a masked vector. -/
theorem fnIrq_frame (s : State) (f : Fn) (vec : Nat) : ∃ fs o, fnIrq s f vec = { s with fns := fs, out := o } := by
  unfold fnIrq
  dsimp only
  split
  · exact ⟨s.fns, s.out, rfl⟩
  · split
    · exact ⟨_, s.out, rfl⟩
    · exact ⟨s.fns, _, rfl⟩

/-- A fold whose every step changes only the functions and what the device has sent changes only those. -/
theorem foldl_out {β : Type} (g : State → β → State) (l : List β) (s : State)
    (hg : ∀ t x, ∃ f o, g t x = { t with fns := f, out := o }) : ∃ f o, l.foldl g s = { s with fns := f, out := o } := by
  induction l generalizing s with
  | nil => exact ⟨s.fns, s.out, rfl⟩
  | cons x l ih =>
    obtain ⟨f, o, e⟩ := hg s x
    obtain ⟨f', o', e'⟩ := ih (g s x)
    exact ⟨f', o', by rw [List.foldl_cons, e', e]⟩

theorem msix_frame (s : State) (seat vec : Nat) : ∃ f o, msix s seat vec = { s with fns := f, out := o } :=
  foldl_out _ _ s fun t x => fnIrq_frame t x vec

theorem eventIrqs_frame (s : State) (e : Event) : ∃ f o, eventIrqs s e = { s with fns := f, out := o } := by
  unfold eventIrqs
  apply foldl_out
  intro t x
  dsimp only
  repeat' split
  all_goals first
    | exact fnIrq_frame _ _ _
    | exact ⟨t.fns, t.out, rfl⟩

/-- Writing a record changes the log, the first-in-1-ms marks and what is sent. -/
theorem putEvent_frame (s : State) (e : Event) :
    ∃ l m f o, putEvent s e = { s with log := l, marks := m, fns := f, out := o } := by
  unfold putEvent
  dsimp only
  generalize hx : (if sevErr ≤ e.sev then _ else _ : State) = x
  have hf : ∃ l m, x = { s with log := l, marks := m } := by
    subst hx
    split
    · split
      · exact ⟨_, _, rfl⟩
      · split <;> exact ⟨_, _, rfl⟩
    · exact ⟨_, _, rfl⟩
  obtain ⟨l, m, rfl⟩ := hf
  obtain ⟨f, o, e'⟩ := eventIrqs_frame { s with log := l, marks := m } e
  exact ⟨l, m, f, o, e'⟩

/-- Logging an event changes the log, the marks, the functions' pending vectors, what is sent, and the boot marks that the first record after a reset
moves. -/
theorem logEvFor_frame (s : State) (source code sev : Nat) (payload : List Byte) (seats wins : List Nat) :
    ∃ b l m f o, logEvFor s source code sev payload seats wins = { s with boot := b, log := l, marks := m, fns := f, out := o } := by
  unfold logEvFor
  dsimp only
  generalize hb : bumpBoot s = t
  have ht : ∃ b, t = { s with boot := b } := by
    subst hb
    unfold bumpBoot
    split
    · exact ⟨s.boot, rfl⟩
    · exact ⟨_, rfl⟩
  obtain ⟨b, rfl⟩ := ht
  split
  · obtain ⟨l, m, f, o, e⟩ := putEvent_frame { { s with boot := b } with boot := { b with firstDue := false } }
      { us := us { s with boot := b }, boot := b.bootCount, source := 0, code := 0x8002, sev := sevInfo,
        payload := bytesAt (le 1 b.cause ++ le 1 b.boSrc) 0 15, seats := [], wins := [] }
    rw [e]
    obtain ⟨l', m', f', o', e'⟩ := putEvent_frame
      { s with boot := { b with firstDue := false }, log := l, marks := m, fns := f, out := o }
      { us := us { s with boot := b }, boot := b.bootCount, source := source, code := code, sev := sev,
        payload := bytesAt payload 0 15, seats := seats, wins := wins }
    exact ⟨_, _, _, _, _, e'⟩
  · obtain ⟨l', m', f', o', e'⟩ := putEvent_frame { s with boot := b }
      { us := us { s with boot := b }, boot := b.bootCount, source := source, code := code, sev := sev,
        payload := bytesAt payload 0 15, seats := seats, wins := wins }
    exact ⟨_, _, _, _, _, e'⟩

theorem logEv_frame (s : State) (source code sev : Nat) (payload : List Byte) :
    ∃ b l m f o, logEv s source code sev payload = { s with boot := b, log := l, marks := m, fns := f, out := o } :=
  logEvFor_frame s source code sev payload [] []

theorem logUncoded_frame (s : State) (source rule sev : Nat) (payload : List Byte) (seats wins : List Nat) :
    ∃ b l m f o, logUncoded s source rule sev payload seats wins = { s with boot := b, log := l, marks := m, fns := f, out := o } :=
  logEvFor_frame s source _ sev payload seats wins

theorem fwEvent_frame (s : State) (bank result : Nat) :
    ∃ b l m f o, fwEvent s bank result = { s with boot := b, log := l, marks := m, fns := f, out := o } := logEv_frame _ _ _ _ _

/-- An answer to a mailbox or CCI command goes out, with its interrupt. -/
theorem cciAnswer_frame (s : State) (c : Cci) (op : Nat) (r : Ret) (body : Contents) :
    ∃ f o, cciAnswer s c op r body = { s with fns := f, out := o } := by
  unfold cciAnswer
  cases c with
  | mctp => exact ⟨s.fns, _, rfl⟩
  | mailbox f =>
    obtain ⟨g, o, e⟩ := fnIrq_frame (emit s (.answer (some (.mailbox f)) op r body)) f 0
    exact ⟨g, o, e⟩

theorem bgFinish_frame (s : State) (c : Cci) (op : Nat) (r : Ret) :
    ∃ f o, bgFinish s c op r = { s with fns := f, out := o } := by
  unfold bgFinish
  split
  · obtain ⟨f, o, e⟩ := cciAnswer_frame (modFn s (cciKey c) fun x => { x with bg := 0, bgDone := true }) c op r []
    exact ⟨f, o, e⟩
  · exact ⟨s.fns, s.out, rfl⟩

theorem bgStart_frame (s : State) (c : Cci) (op : Nat) : ∃ f o, bgStart s c op = { s with fns := f, out := o } := by
  obtain ⟨f, o, e⟩ := cciAnswer_frame (modFn s (cciKey c) fun x => { x with bg := op, bgDone := false }) c op .background []
  exact ⟨f, o, e⟩

theorem pmuIrq_frame (s : State) (b : Bool) : ∃ p f o, pmuIrq s b = { s with pmu := p, fns := f, out := o } := by
  unfold pmuIrq emit
  dsimp only
  generalize (if b = true then _ else _ : Pmu) = q
  generalize (if b = true then _ else _ : Nat) = v
  split
  · split
    · exact ⟨_, s.fns, _, rfl⟩
    · obtain ⟨f, o, e⟩ := msix_frame _ _ _
      exact ⟨_, f, o, e⟩
  · exact ⟨_, s.fns, _, rfl⟩

theorem foldl_pmu {β : Type} (g : State → β → State) (l : List β) (s : State)
    (hg : ∀ t x, ∃ p f o, g t x = { t with pmu := p, fns := f, out := o }) : ∃ p f o, l.foldl g s = { s with pmu := p, fns := f, out := o } := by
  induction l generalizing s with
  | nil => exact ⟨s.pmu, s.fns, s.out, rfl⟩
  | cons x l ih =>
    obtain ⟨p, f, o, e⟩ := hg s x
    obtain ⟨p', f', o', e'⟩ := ih (g s x)
    exact ⟨p', f', o', by rw [List.foldl_cons, e', e]⟩

/-- A count changes the PMU and what is sent. -/
theorem countUp_frame (s : State) (k : Nat) : ∃ p f o, countUp s k = { s with pmu := p, fns := f, out := o } := by
  unfold countUp
  dsimp only
  split
  · exact ⟨_, s.fns, s.out, rfl⟩
  · split
    · obtain ⟨p, f, o, e⟩ := pmuIrq_frame (modCtr s k fun c => { c with count := 0, ovf := true }) false
      exact ⟨p, f, o, e⟩
    · exact ⟨_, s.fns, s.out, rfl⟩

theorem pmuEvent_frame (s : State) (kind inst code : Nat) :
    ∃ p f o, pmuEvent s kind inst code = { s with pmu := p, fns := f, out := o } := by
  unfold pmuEvent
  split
  · exact ⟨s.pmu, s.fns, s.out, rfl⟩
  · apply foldl_pmu
    intro t x
    dsimp only
    split
    · exact countUp_frame _ _
    · exact ⟨t.pmu, t.fns, t.out, rfl⟩

theorem tickCtr_frame (ns : Nat) (s : State) (k : Nat) : ∃ p f o, tickCtr ns s k = { s with pmu := p, fns := f, out := o } := by
  unfold tickCtr
  dsimp only
  generalize (if (!_ || _ || _ || _) = true then 0 else _ : Nat) = n
  split
  · obtain ⟨p, f, o, e⟩ := pmuIrq_frame (modCtr s k fun c => { c with
      count := (c.count + n) % 2 ^ 48, ovf := c.ovf || decide (2 ^ 48 ≤ c.count + n),
      last := levelOn s (k / 1024) (k / 16 % 64) (ctrAt s k).event }) false
    exact ⟨p, f, o, e⟩
  · exact ⟨_, s.fns, s.out, rfl⟩

theorem tick_frame (s : State) (ns : Nat) : ∃ p f o, tick s ns = { s with pmu := p, fns := f, out := o } := by
  unfold tick
  split
  · exact ⟨s.pmu, s.fns, s.out, rfl⟩
  · obtain ⟨p, f, o, e⟩ := foldl_pmu (tickCtr ns) (s.pmu.ctrs.map (·.1)) s fun t x => tickCtr_frame ns t x
    dsimp only
    rw [e]
    exact ⟨_, _, _, rfl⟩

/-- The passing of time changes the clock, the PMU and what is sent. -/
theorem advanceBy_frame (s : State) (ns : Nat) :
    ∃ p f o, advanceBy s ns = { s with now := s.now + ns, pmu := p, fns := f, out := o } := by
  obtain ⟨p, f, o, e⟩ := tick_frame s ns
  unfold advanceBy
  rw [e]
  exact ⟨p, f, o, rfl⟩

theorem advanceTo_frame (s : State) (t : Nat) :
    ∃ p f o, advanceTo s t = { s with now := max s.now t, pmu := p, fns := f, out := o } := by
  obtain ⟨p, f, o, e⟩ := advanceBy_frame s (t - s.now)
  refine ⟨p, f, o, ?_⟩
  unfold advanceTo
  rw [e, show s.now + (t - s.now) = max s.now t by omega]

/-- What the dump is: all of the PMU's state apart from counters and interrupt bits. -/
def dumpOf (p : Pmu) : Pmu := { p with ctrs := [], cyc := [], irqOvf := false, irqSamp := false }

theorem dumpOf_pmuIrq (s : State) (b : Bool) : dumpOf (pmuIrq s b).pmu = dumpOf s.pmu := by
  unfold pmuIrq
  dsimp only
  generalize hu : emit _ _ = u
  have h : dumpOf u.pmu = dumpOf s.pmu := by rw [← hu]; cases b <;> rfl
  generalize fld (regN u pmuBase) 5 1 = vec
  cases adminSeat u with
  | none => exact h
  | some a =>
    dsimp only
    by_cases hv : vec = 0
    · rw [if_pos hv]; exact h
    · rw [if_neg hv]
      obtain ⟨f, o, e⟩ := msix_frame u a vec
      rw [e]; exact h

theorem dumpOf_tickCtr (ns : Nat) (s : State) (k : Nat) : dumpOf (tickCtr ns s k).pmu = dumpOf s.pmu := by
  unfold tickCtr
  dsimp only
  generalize (if (!_ || _ || _ || _) = true then 0 else _ : Nat) = n
  split
  · rw [dumpOf_pmuIrq]; rfl
  · rfl

/-- The passing of time leaves the dump as it is. -/
theorem dumpOf_advanceTo (s : State) (t : Nat) : dumpOf (advanceTo s t).pmu = dumpOf s.pmu := by
  unfold advanceTo advanceBy
  show dumpOf (tick s (t - s.now)).pmu = _
  unfold tick
  split
  · rfl
  · have h : ∀ (l : List Nat) (u : State), dumpOf (l.foldl (tickCtr (t - s.now)) u).pmu = dumpOf u.pmu := by
      intro l
      induction l with
      | nil => intro u; rfl
      | cons k l ih => intro u; rw [List.foldl_cons, ih, dumpOf_tickCtr]
    exact h _ s

end Sys2Proof.Machine
end

