-- ==== Sys2Proof/Laws/Tab.lean ====
section
/-! SUPPORT. The laws of sparse tables: what a read after a write gives, and that every operation keeps the canonical
form. -/

set_option Elab.async false

namespace Sys2Proof.Machine

variable {α : Type}

/-! ## Reads after writes -/

theorem tabGet_erase_same (d : α) (t : Tab α) (n : Nat) : tabGet d (tabErase t n) n = d := by
  induction t with
  | nil => rfl
  | cons e t ih =>
    obtain ⟨k, v⟩ := e
    by_cases h : k = n
    · simp [tabErase, h, ih]
    · simp [tabErase, h, tabGet, ih]

theorem tabGet_erase_other (d : α) (t : Tab α) {n m : Nat} (h : m ≠ n) : tabGet d (tabErase t n) m = tabGet d t m := by
  induction t with
  | nil => rfl
  | cons e t ih =>
    obtain ⟨k, v⟩ := e
    by_cases hk : k = n
    · rw [tabErase, if_pos hk, ih, tabGet, if_neg (fun e => h (e.symm.trans hk))]
    · rw [tabErase, if_neg hk, tabGet, tabGet, ih]

theorem tabGet_insert_same (d : α) (t : Tab α) (n : Nat) (v : α)
    (hn : ∀ e ∈ t, e.1 ≠ n) : tabGet d (tabInsert t n v) n = v := by
  induction t with
  | nil => simp [tabInsert, tabGet]
  | cons e t ih =>
    obtain ⟨k, w⟩ := e
    have hk : k ≠ n := hn (k, w) (by simp)
    have := ih fun e he => hn e (by simp [he])
    by_cases hl : n < k <;> simp [tabInsert, hl, tabGet, hk, this]

theorem tabGet_insert_other (d : α) (t : Tab α) {n m : Nat} (v : α) (h : m ≠ n) :
    tabGet d (tabInsert t n v) m = tabGet d t m := by
  induction t with
  | nil => simp [tabInsert, tabGet, Ne.symm h]
  | cons e t ih =>
    obtain ⟨k, w⟩ := e
    by_cases hl : n < k
    · simp [tabInsert, hl, tabGet, Ne.symm h]
    · simp [tabInsert, hl, tabGet, ih]

theorem tabErase_keys (t : Tab α) (n : Nat) : ∀ e ∈ tabErase t n, e.1 ≠ n ∧ e ∈ t := by
  induction t with
  | nil => simp [tabErase]
  | cons e t ih =>
    obtain ⟨k, v⟩ := e
    intro x hx
    by_cases h : k = n
    · simp only [tabErase, h, if_true] at hx
      exact ⟨(ih x hx).1, List.mem_cons_of_mem _ (ih x hx).2⟩
    · simp only [tabErase, h, if_false, List.mem_cons] at hx
      rcases hx with rfl | hx
      · exact ⟨h, by simp⟩
      · exact ⟨(ih x hx).1, List.mem_cons_of_mem _ (ih x hx).2⟩

@[simp] theorem tabGet_set_same [DecidableEq α] (d : α) (t : Tab α) (n : Nat) (v : α) :
    tabGet d (tabSet d t n v) n = v := by
  unfold tabSet
  split
  · rename_i h; rw [h]; exact tabGet_erase_same d t n
  · exact tabGet_insert_same d _ n v fun e he => (tabErase_keys t n e he).1

theorem tabGet_set_other [DecidableEq α] (d : α) (t : Tab α) {n m : Nat} (v : α) (h : m ≠ n) :
    tabGet d (tabSet d t n v) m = tabGet d t m := by
  unfold tabSet
  split
  · exact tabGet_erase_other d t h
  · rw [tabGet_insert_other d _ v h, tabGet_erase_other d t h]

theorem tabGet_set [DecidableEq α] (d : α) (t : Tab α) (n m : Nat) (v : α) :
    tabGet d (tabSet d t n v) m = if m = n then v else tabGet d t m := by
  by_cases h : m = n
  · simp [h]
  · simp [h, tabGet_set_other]

@[simp] theorem tabGet_mod_same [DecidableEq α] (d : α) (t : Tab α) (n : Nat) (f : α → α) :
    tabGet d (tabMod d t n f) n = f (tabGet d t n) := by simp [tabMod]

theorem tabGet_mod_other [DecidableEq α] (d : α) (t : Tab α) {n m : Nat} (f : α → α) (h : m ≠ n) :
    tabGet d (tabMod d t n f) m = tabGet d t m := by simp [tabMod, tabGet_set_other, h]

theorem tabGet_mod [DecidableEq α] (d : α) (t : Tab α) (n m : Nat) (f : α → α) :
    tabGet d (tabMod d t n f) m = if m = n then f (tabGet d t m) else tabGet d t m := by
  by_cases h : m = n
  · subst h; simp
  · simp [h, tabGet_mod_other]

/-! ## The canonical form -/

theorem tabAbove_iff (n : Nat) (t : Tab α) : tabAbove n t = true ↔ ∀ e ∈ t, n < e.1 := by
  induction t with
  | nil => simp [tabAbove]
  | cons e t ih => obtain ⟨k, v⟩ := e; simp [tabAbove, ih]

theorem tabWf_cons [DecidableEq α] (d : α) (k : Nat) (v : α) (t : Tab α) :
    tabWf d ((k, v) :: t) = true ↔ (∀ e ∈ t, k < e.1) ∧ v ≠ d ∧ tabWf d t = true := by
  simp [tabWf, tabAbove_iff, and_assoc]

theorem tabWf_nil [DecidableEq α] (d : α) : tabWf d [] = true := rfl

theorem tabWf_filterList [DecidableEq α] {d : α} {t : Tab α} (g : Nat × α → Bool) (h : tabWf d t = true) :
    tabWf d (t.filter g) = true := by
  induction t with
  | nil => rfl
  | cons e t ih =>
    obtain ⟨k, v⟩ := e
    rw [tabWf_cons] at h
    by_cases hg : g (k, v) = true
    · rw [List.filter_cons_of_pos hg, tabWf_cons]
      exact ⟨fun e he => h.1 e (List.mem_of_mem_filter he), h.2.1, ih h.2.2⟩
    · rw [List.filter_cons_of_neg hg]; exact ih h.2.2

theorem tabWf_filter [DecidableEq α] {d : α} {t : Tab α} (g : Nat → α → Bool) (h : tabWf d t = true) :
    tabWf d (tabFilter g t) = true := tabWf_filterList _ h

theorem tabErase_eq_filter (t : Tab α) (n : Nat) : tabErase t n = t.filter fun e => decide (e.1 ≠ n) := by
  induction t with
  | nil => rfl
  | cons e t ih =>
    obtain ⟨k, v⟩ := e
    by_cases h : k = n <;> simp [tabErase, h, ih]

theorem tabWf_erase [DecidableEq α] {d : α} {t : Tab α} (n : Nat) (h : tabWf d t = true) :
    tabWf d (tabErase t n) = true := by rw [tabErase_eq_filter]; exact tabWf_filterList _ h

theorem mem_tabInsert {t : Tab α} {n : Nat} {v : α} {e : Nat × α} (h : e ∈ tabInsert t n v) : e = (n, v) ∨ e ∈ t := by
  induction t with
  | nil => simpa [tabInsert] using h
  | cons x t ih =>
    obtain ⟨k, w⟩ := x
    by_cases hl : n < k
    · simpa [tabInsert, hl] using h
    · simp only [tabInsert, hl, if_false, List.mem_cons] at h
      rcases h with h | h
      · exact .inr (by simp [h])
      · rcases ih h with h | h
        · exact .inl h
        · exact .inr (by simp [h])

theorem tabWf_insert [DecidableEq α] {d : α} {t : Tab α} {n : Nat} {v : α} (h : tabWf d t = true)
    (hn : ∀ e ∈ t, e.1 ≠ n) (hv : v ≠ d) : tabWf d (tabInsert t n v) = true := by
  induction t with
  | nil => simp [tabInsert, tabWf, tabAbove, hv]
  | cons x t ih =>
    obtain ⟨k, w⟩ := x
    rw [tabWf_cons] at h
    have hk : k ≠ n := hn (k, w) (by simp)
    by_cases hl : n < k
    · simp only [tabInsert, hl, if_true]
      rw [tabWf_cons, tabWf_cons]
      refine ⟨?_, hv, h⟩
      intro e he
      rcases List.mem_cons.1 he with rfl | he
      · exact hl
      · exact Nat.lt_trans hl (h.1 e he)
    · simp only [tabInsert, hl, if_false]
      rw [tabWf_cons]
      refine ⟨?_, h.2.1, ih h.2.2 fun e he => hn e (by simp [he])⟩
      intro e he
      rcases mem_tabInsert he with rfl | he
      · exact Nat.lt_of_le_of_ne (Nat.le_of_not_lt hl) hk
      · exact h.1 e he

/-- A write keeps the canonical form. -/
theorem tabWf_set [DecidableEq α] {d : α} {t : Tab α} (n : Nat) (v : α) (h : tabWf d t = true) :
    tabWf d (tabSet d t n v) = true := by
  unfold tabSet
  split
  · exact tabWf_erase n h
  · rename_i hv; exact tabWf_insert (tabWf_erase n h) (fun e he => (tabErase_keys t n e he).1) hv

/-- A change of one entry keeps the canonical form. -/
theorem tabWf_mod [DecidableEq α] {d : α} {t : Tab α} (n : Nat) (f : α → α) (h : tabWf d t = true) :
    tabWf d (tabMod d t n f) = true := tabWf_set n _ h

/-- A change of every listed entry keeps the canonical form. -/
theorem tabWf_map [DecidableEq α] {d : α} {t : Tab α} (f : Nat → α → α) (h : tabWf d t = true) :
    tabWf d (tabMap d f t) = true := by
  unfold tabMap
  induction t with
  | nil => rfl
  | cons e t ih =>
    obtain ⟨k, v⟩ := e
    rw [tabWf_cons] at h
    simp only [List.map_cons, List.filter_cons]
    split
    · rename_i hv
      rw [tabWf_cons]
      refine ⟨?_, by simpa using hv, ih h.2.2⟩
      intro e he
      have := List.mem_of_mem_filter he
      rw [List.mem_map] at this
      obtain ⟨x, hx, rfl⟩ := this
      exact h.1 x hx
    · exact ih h.2.2

/-- A key below every listed one reads as the default. -/
theorem tabGet_above (d : α) {t : Tab α} {n : Nat} (h : ∀ e ∈ t, n < e.1) : tabGet d t n = d := by
  induction t with
  | nil => rfl
  | cons e t ih =>
    obtain ⟨k, v⟩ := e
    have hk : n < k := h (k, v) (by simp)
    simp [tabGet, Nat.ne_of_gt hk, ih fun e he => h e (by simp [he])]

/-- Two canonical tables that read the same everywhere are the same data. -/
theorem tab_ext [DecidableEq α] (d : α) {t u : Tab α} (ht : tabWf d t = true) (hu : tabWf d u = true)
    (h : ∀ n, tabGet d t n = tabGet d u n) : t = u := by
  induction t generalizing u with
  | nil =>
    cases u with
    | nil => rfl
    | cons e u =>
      obtain ⟨k, v⟩ := e
      have := h k
      rw [tabWf_cons] at hu
      simp [tabGet] at this
      exact absurd this.symm hu.2.1
  | cons e t ih =>
    obtain ⟨k, v⟩ := e
    have ht' := ht
    rw [tabWf_cons] at ht
    cases u with
    | nil =>
      have := h k
      simp [tabGet] at this
      exact absurd this ht.2.1
    | cons f u =>
      obtain ⟨j, w⟩ := f
      have hu' := hu
      rw [tabWf_cons] at hu
      have key : k = j := by
        rcases Nat.lt_trichotomy k j with hl | he | hl
        · have := h k
          rw [tabGet_above d (t := (j, w) :: u) (fun e he => by
            rcases List.mem_cons.1 he with rfl | he
            · exact hl
            · exact Nat.lt_trans hl (hu.1 e he))] at this
          simp [tabGet] at this
          exact absurd this ht.2.1
        · exact he
        · have := h j
          rw [tabGet_above d (t := (k, v) :: t) (fun e he => by
            rcases List.mem_cons.1 he with rfl | he
            · exact hl
            · exact Nat.lt_trans hl (ht.1 e he))] at this
          simp [tabGet] at this
          exact absurd this.symm hu.2.1
      subst key
      have hv : v = w := by simpa [tabGet] using h k
      subst hv
      have : t = u := by
        apply ih ht.2.2 hu.2.2
        intro n
        by_cases hn : k = n
        · subst hn; rw [tabGet_above d ht.1, tabGet_above d hu.1]
        · simpa [tabGet, hn] using h n
      rw [this]

end Sys2Proof.Machine
end

