-- ==== Sys2Proof/Laws/Gates.lean ====
section
/-! SUPPORT. What each gate that a command passes does: where the command is served, it acts on the state with the clocks
of its domains running. -/

set_option Elab.async false

namespace Sys2Proof.Machine

open Sys2Proof

theorem domAwake_iff (s : State) (d : Nat) :
    domAwake s d = true ↔ (domAt s d).st = .run ∨ (domAt s d).st = .idle := by
  unfold domAwake; simp

/-- An awake domain is not OFF. -/
theorem not_off {s : State} {d : Nat} (h : domAwake s d = true) : (domAt s d).st ≠ .off := by
  rcases (domAwake_iff s d).1 h with h | h <;> simp [h]

/-- An awake domain takes what comes for it. -/
theorem not_shut {s : State} {d : Nat} (h : domAwake s d = true) : domShut s d = false := by
  unfold domShut
  rcases (domAwake_iff s d).1 h with h | h <;> simp [h]

/-- Waking the clocks of one domain leaves another as it is. -/
theorem domAt_unIdle (s : State) (d e : Nat) :
    domAt (unIdle s d) e = if e = d then (if (domAt s e).st = .idle then { domAt s e with st := .run, idleAt := none }
      else domAt s e) else domAt s e := by
  have h := tabGet_mod ({} : Dom) s.doms d e fun x => if x.st = .idle then { x with st := .run, idleAt := none } else x
  exact h

/-- Waking the clocks of one domain changes the domains and nothing else. -/
theorem unIdle_eq (s : State) (d : Nat) : unIdle s d = { s with doms := (unIdle s d).doms } := rfl

/-- Waking the fabric's clocks changes the domains and nothing else. -/
theorem unIdleFabric_eq (s : State) : unIdleFabric s = { s with doms := (unIdleFabric s).doms } := by
  unfold unIdleFabric
  generalize [6, 7, 8, 9] = l
  induction l generalizing s with
  | nil => rfl
  | cons d l ih =>
    rw [List.foldl_cons, ih]
    generalize (l.foldl unIdle (unIdle s d)).doms = x
    rfl

/-- Waking clocks keeps awake domains awake. -/
theorem domAwake_unIdle {s : State} {d e : Nat} (h : domAwake s e = true) : domAwake (unIdle s d) e = true := by
  rw [domAwake_iff] at *
  rw [domAt_unIdle]
  split
  · rcases h with h | h <;> simp [h]
  · exact h

/-- Waking the fabric's clocks keeps awake domains awake. -/
theorem domAwake_unIdleFabric {s : State} {d : Nat} (h : domAwake s d = true) :
    domAwake (unIdleFabric s) d = true := by
  unfold unIdleFabric
  generalize [6, 7, 8, 9] = l
  induction l generalizing s with
  | nil => exact h
  | cons e l ih => exact ih (domAwake_unIdle h)

theorem domOff_unIdle {s : State} {d e : Nat} (h : domAwake s e = true) :
    ((domAt (unIdle s d) e).st = .off) = False := eq_false (not_off (domAwake_unIdle h))

/-- What the awake states differ from the state in: the domains. -/
theorem mcAwake_eq (s : State) : ∃ d, mcAwake s = { s with doms := d } := ⟨_, rfl⟩

theorem fnAwake_eq (s : State) (f : Fn) : ∃ d, fnAwake s f = { s with doms := d } := ⟨_, rfl⟩

theorem cciAwake_eq (s : State) (c : Cci) : ∃ d, cciAwake s c = { s with doms := d } := by
  cases c <;> exact ⟨_, rfl⟩

theorem regAwake_eq (s : State) (by_ : Agent) (off : Nat) : ∃ d, regAwake s by_ off = { s with doms := d } := by
  unfold regAwake
  cases by_ <;> cases blockOf off <;> exact ⟨_, rfl⟩

theorem m2sAwake_eq (s : State) (m : M2S) : ∃ d, m2sAwake s m = { s with doms := d } := by
  refine ⟨(m2sAwake s m).doms, ?_⟩
  unfold m2sAwake
  rw [unIdleFabric_eq]
  generalize (unIdleFabric (unIdle s (2 + m.port.val))).doms = x
  rfl

/-- A function whose port is awake acts at once. -/
theorem fnGate_served {s : State} {f : Fn} (h : fnServed s f = true) (row : Instr) (go : State → State) :
    fnGate s f row go = go (fnAwake s f) := by
  unfold fnServed at h
  unfold fnGate fnAwake
  rw [if_neg (not_off h), not_shut h]; rfl

/-- A controller that runs, with MGMT awake, acts at once. -/
theorem mcGate_served {s : State} (h : mcServed s = true) (row : Instr)
    (go : State → Host.Outcome State Fault Refusal) : mcGate s row go = go (mcAwake s) := by
  unfold mcServed at h
  rw [Bool.and_eq_true] at h
  unfold mcGate mcAwake
  rw [h.1, not_shut h.2]; rfl

/-- A mailbox or CCI command that is served acts at once; an admin command, where its sender has the right. -/
theorem cciRun_served {s : State} {c : Cci} (h : cciServed s c = true) {admin : Bool}
    (ha : admin = true → cciAdmin s c = true) (row : Instr) (op : Nat) (f : State → State) :
    cciRun s c row op admin f = f (cciAwake s c) := by
  unfold cciServed mcServed at h
  rw [Bool.and_eq_true, Bool.and_eq_true] at h
  obtain ⟨⟨hu, hd⟩, hc⟩ := h
  have hb : ∀ t : State, cciAdmin t c = cciAdmin s c → (admin && !cciAdmin t c) = false := by
    intro t e
    rw [e]
    cases admin with
    | false => rfl
    | true => rw [ha rfl]; rfl
  cases c with
  | mctp =>
    unfold cciRun cciAwake mcAwake
    dsimp only
    rw [hu, not_shut hd, hb s rfl, if_neg (not_off hd)]; rfl
  | mailbox g =>
    rw [Bool.and_eq_true] at hc
    unfold cciRun cciAwake
    dsimp only
    rw [hc.1, fnGate_served hc.2]
    have hu' : mcUp (fnAwake s g) = true := hu
    have hd' : domAwake (fnAwake s g) 1 = true := domAwake_unIdle hd
    rw [hu', not_shut hd', hb (fnAwake s g) rfl, if_neg (not_off hd')]; rfl

/-- A DOE or SPDM request that is taken acts at once. -/
theorem spdmRun_served {s : State} {r : Responder} (h : responderServed s r = true) (row : Instr) (signed : Bool)
    (go : State → State) :
    spdmRun s r row signed go = go (responderAwake s r (if signed then doeSigned else doePlain)) := by
  cases r with
  | mctp =>
    have h : mcServed s = true := h
    unfold mcServed at h
    rw [Bool.and_eq_true] at h
    unfold spdmRun responderAwake mcAwake
    dsimp only
    rw [h.1, not_shut h.2]; rfl
  | doe f =>
    unfold responderServed mcServed at h
    dsimp only at h
    rw [Bool.and_eq_true, Bool.and_eq_true, Bool.and_eq_true, Bool.and_eq_true, decide_eq_true_eq] at h
    obtain ⟨⟨⟨⟨hu, hd⟩, hm⟩, hf⟩, ht⟩ := h
    unfold spdmRun doeTake responderAwake
    dsimp only
    rw [hm, fnGate_served hf]
    have hu' : mcUp (fnAwake s f) = true := hu
    have hd' : domAwake (fnAwake s f) 1 = true := domAwake_unIdle hd
    have ht' : ¬ (unIdle (fnAwake s f) 1).now < (fnAt (unIdle (fnAwake s f) 1) (fnKey f)).doeUntil := Nat.not_lt.2 ht
    rw [hu', not_shut hd', if_neg ht']; rfl

/-- What the responder's state differs from the state in: the domains, and over DOE the bound of the request. -/
theorem responderAwake_eq (s : State) (r : Responder) (b : Nat) :
    ∃ d fn, responderAwake s r b = { s with doms := d, fns := fn } ∧
      (tabGet {} fn (respKey r)).falcon = (fnAt s (respKey r)).falcon ∧
      (tabGet {} fn (respKey r)).session = (fnAt s (respKey r)).session := by
  cases r with
  | mctp => exact ⟨_, _, rfl, rfl, rfl⟩
  | doe f =>
    obtain ⟨d, e⟩ := cciAwake_eq s (.mailbox f)
    have e : mcAwake (fnAwake s f) = { s with doms := d } := e
    have h := tabGet_mod_same ({} : FnState) s.fns (fnKey f) fun x => { x with doeUntil := s.now + b }
    unfold responderAwake
    dsimp only
    rw [e]
    refine ⟨d, tabMod {} s.fns (fnKey f) fun x => { x with doeUntil := s.now + b }, rfl, ?_, ?_⟩
    · rw [show respKey (.doe f) = fnKey f from rfl, h]; rfl
    · rw [show respKey (.doe f) = fnKey f from rfl, h]; rfl

/-- A DOE request that is taken acts at once. -/
theorem doeTake_served {s : State} {f : Fn} (h : responderServed s (.doe f) = true) (row : Instr) (signed : Bool)
    (go : State → State) :
    doeTake s f row (if signed then doeSigned else doePlain) go =
      go (responderAwake s (.doe f) (if signed then doeSigned else doePlain)) := spdmRun_served h row signed go

/-- A register access that is served is made at once. -/
theorem access_served {s : State} {by_ : Agent} {off : Nat} (h : regServed s by_ off = true) (row : Instr)
    (f : State → State) : access s by_ off row f = f (regAwake s by_ off) := by
  unfold regServed at h
  cases hb : blockOf off with
  | none => rw [hb] at h; exact absurd h (by simp)
  | some b =>
    obtain ⟨b, r⟩ := b
    rw [hb] at h
    simp only [Bool.and_eq_true] at h
    obtain ⟨⟨⟨⟨hm, hd⟩, ha⟩, hp⟩, hf⟩ := h
    have key : ∀ t : State, domAwake t (domOfBlk b) = true → t.stations = s.stations → t.boot = s.boot →
        (if blkGone t b then t else if blkSleeps t b then holdFor t (domOfBlk b) row
          else f (unIdle t (domOfBlk b))) = f (unIdle t (domOfBlk b)) := by
      intro t ht hs hb
      have h1 : blkGone t b = false := by
        have ha' : blkAbsent t b = false := by
          unfold blkAbsent at *
          rw [hb]; simpa only [Bool.not_eq_true'] using ha
        unfold blkGone
        rw [decide_eq_false (not_off ht), ha', Bool.false_or, Bool.false_or]
        split
        · rename_i st lp e
          rw [e] at hp
          unfold isDead stAt at *
          rw [hs]; simpa using hp
        · rfl
      have h2 : blkSleeps t b = false := by unfold blkSleeps; rw [not_shut ht]; rfl
      rw [h1, h2]; rfl
    unfold access regAwake
    rw [hm, hb]
    cases by_ with
    | ctrl => simpa using key s hd rfl rfl
    | fn g =>
      simp only [Bool.not_true, Bool.false_eq_true, if_false]
      rw [fnGate_served hf]
      exact key _ (domAwake_unIdle hd) rfl rfl

/-- An M2S message that its port takes acts at once. -/
theorem m2sGate_served {s : State} {m : M2S} {rwd : Bool} (h : m2sServed s m rwd = true) (row : Instr) (hint : Bool)
    (f : State → State) : m2sGate s m row rwd hint f = f (m2sAwake s m) := by
  unfold m2sServed at h
  simp only [Bool.and_eq_true, Bool.not_eq_true', bne_iff_ne, ne_eq] at h
  obtain ⟨⟨⟨⟨⟨⟨h1, h2⟩, h3⟩, h4⟩, h5⟩, h6⟩, h7⟩ := h
  unfold m2sGate m2sAwake
  dsimp only
  have hoff := not_off h4
  have h5' : (bitOf (regN (unIdleFabric (unIdle s (2 + m.port.val))) (hpBase m.port + 0x10C + 0x40 * m.link.val)) 0 &&
      (linkAt s (linkKey m.port m.link)).ideMem != .active) = false := by
    have hr : (unIdleFabric (unIdle s (2 + m.port.val))).regs = s.regs := by rw [unIdleFabric_eq]; rfl
    unfold regN regAt at h5 ⊢
    rw [hr]
    exact h5
  rw [if_neg (by simp [h1, h2, h3, hoff]), not_shut h4, h6, h7]
  generalize unIdleFabric (unIdle s (2 + m.port.val)) = t at h5' ⊢
  rw [h5']; rfl

/-- What the link layer keeps while it sends: whether the port is UP, and the last SEQ accepted. -/
def plyKeeps (p : Nat) (s t : State) : Prop := (plyAt t p).st = (plyAt s p).st ∧ (plyAt t p).acc = (plyAt s p).acc

theorem plyKeeps_refl (p : Nat) (s : State) : plyKeeps p s s := ⟨rfl, rfl⟩

theorem plyKeeps_trans {p : Nat} {s t u : State} (h : plyKeeps p s t) (k : plyKeeps p t u) : plyKeeps p s u :=
  ⟨k.1.trans h.1, k.2.trans h.2⟩

theorem plyAt_modPly (s : State) (p : Nat) (f : Ply → Ply) : plyAt (modPly s p f) p = f (plyAt s p) :=
  tabGet_mod_same ({} : Ply) s.ply p f

theorem plyKeeps_mod (p : Nat) (s : State) (f : Ply → Ply) (h : ∀ x, (f x).st = x.st ∧ (f x).acc = x.acc) :
    plyKeeps p s (modPly s p f) := by
  unfold plyKeeps; rw [plyAt_modPly]; exact h _

theorem plyKeeps_of_ply {p : Nat} {s t : State} (h : t.ply = s.ply) : plyKeeps p s t := by
  unfold plyKeeps plyAt; rw [h]; exact ⟨rfl, rfl⟩

theorem plyKeeps_put (p : Nat) (s : State) (q : Nat) (b : PlyBody) : plyKeeps p s (plyPut s p q b) := by
  unfold plyPut
  dsimp only
  refine plyKeeps_trans ?_ (plyKeeps_mod p _ _ ?_)
  · exact plyKeeps_of_ply rfl
  · intro x; exact ⟨rfl, rfl⟩

theorem plyKeeps_emitSeq (p : Nat) (s : State) (b : PlyBody) : plyKeeps p s (plyEmitSeq s p b) := by
  unfold plyEmitSeq
  dsimp only
  refine plyKeeps_trans (plyKeeps_put p s _ b) (plyKeeps_mod p _ _ ?_)
  intro x; exact ⟨rfl, rfl⟩

theorem plyKeeps_drain (p n : Nat) (s : State) : plyKeeps p s (plyDrainAux n s p) := by
  induction n generalizing s with
  | zero => exact plyKeeps_refl p s
  | succ n ih =>
    unfold plyDrainAux
    split
    · split
      · refine plyKeeps_trans (plyKeeps_trans (plyKeeps_mod p s _ ?_) (plyKeeps_emitSeq p _ _)) (ih _)
        intro x; exact ⟨rfl, rfl⟩
      · exact plyKeeps_refl p s
    · exact plyKeeps_refl p s

theorem plyKeeps_acked (p a : Nat) (s : State) : plyKeeps p s (plyAcked s p a) := by
  unfold plyAcked
  dsimp only
  split
  · exact plyKeeps_refl p s
  · split
    · exact plyKeeps_refl p s
    · refine plyKeeps_trans (plyKeeps_mod p s _ ?_) (plyKeeps_drain p _ _)
      intro x; exact ⟨rfl, rfl⟩

/-- An accepted packet's header is taken, and the port stays UP with its last SEQ. -/
theorem plyIn_next {s : State} {p : Fin 2} {h : PlyHdr} (hn : plyNext s p h = true) :
    (plyIn s p h).2 = true ∧ (plyAt (plyIn s p h).1 p).st = .up ∧ h.seq = (plyAt (plyIn s p h).1 p).acc + 1 := by
  unfold plyNext at hn
  simp only [Bool.and_eq_true, beq_iff_eq] at hn
  obtain ⟨⟨⟨⟨h1, h2⟩, h3⟩, h4⟩, h5⟩ := hn
  have hx : plyAt (unIdle s (24 + p)) p = plyAt s p := rfl
  have key : ∃ u, plyIn s p h = (u, true) ∧ plyKeeps p s u := by
    unfold plyIn
    dsimp only
    rw [hx, h1, h2, h3]
    cases e : (plyAt s p).rxTxc with
    | none =>
      refine ⟨_, rfl, ?_⟩
      refine plyKeeps_trans (plyKeeps_trans (plyKeeps_trans (plyKeeps_trans (t := unIdle s (24 + p)) (plyKeeps_of_ply rfl)
        (plyKeeps_mod p _ _ ?_)) (plyKeeps_acked p _ _)) (plyKeeps_drain p _ _)) (plyKeeps_of_ply rfl)
      intro x; exact ⟨rfl, rfl⟩
    | some t =>
      rw [e] at h4
      have h4 : ¬ h.txc ≤ t := by simpa using h4
      dsimp only
      rw [if_neg (by simp), if_neg (by simp), if_neg (by simp), if_neg (by simpa using h4)]
      refine ⟨_, rfl, ?_⟩
      refine plyKeeps_trans (plyKeeps_trans (plyKeeps_trans (plyKeeps_trans (t := unIdle s (24 + p)) (plyKeeps_of_ply rfl)
        (plyKeeps_mod p _ _ ?_)) (plyKeeps_acked p _ _)) (plyKeeps_drain p _ _)) (plyKeeps_of_ply rfl)
      intro x; exact ⟨rfl, rfl⟩
  obtain ⟨u, e, k⟩ := key
  rw [e]
  exact ⟨rfl, k.1.trans h1, by rw [k.2]; exact h5⟩

/-- A packet that is next in order has its effect; an ACK goes at once where 64 packets wait for one. -/
theorem plySeqIn_next {s : State} {p : Fin 2} {h : PlyHdr} (hn : plyNext s p h = true) (rsp later : Bool)
    (f : State → State) : plySeqIn s p h rsp later f = passHeld s p (plyAckDue (f (plyTaken s p h rsp later)) p) := by
  obtain ⟨h1, h2, h3⟩ := plyIn_next hn
  unfold plySeqIn plyTaken
  generalize plyIn s p h = u at h1 h2 h3 ⊢
  obtain ⟨u, ok⟩ := u
  dsimp only at h1 h2 h3 ⊢
  have hd : (h.seq - (plyAt u p).acc).toNat = 1 := by
    rw [h3]
    generalize (plyAt u p).acc = a
    have : a + 1 - a = 1 := by bv_omega
    rw [this]; rfl
  rw [h1, h2, hd]
  rfl

end Sys2Proof.Machine
end

