-- ==== Sys2Proof/Laws/Good.lean ====
section
/-! SUPPORT. What every meaning keeps: the queue, the part option, and the soundness of the state. `Good q p fl s` says all
three, and that the clock has not run back; one lemma per operation says that the operation keeps it. -/

set_option Elab.async false

namespace Sys2Proof.Machine

open Sys2Proof

/-- The state is sound, its queue is `q` and its part option is `p`; where `fl` gives an instant, the clock has not run
back behind it. -/
structure Good (q : List Instr) (p : Bool) (fl : Option Nat) (s : State) : Prop extends Sound s where
  pending : s.pending = q
  part : s.boot.partH = p
  clock : ∀ n, fl = some n → n ≤ s.now

/-- The outcome, if it is a next state, is good. -/
structure GoodX (q : List Instr) (p : Bool) (fl : Option Nat) (o : Host.Outcome State Fault Refusal) : Prop where
  good : ∀ t, o = .next t → Good q p fl t

/-- The state, if there is one, is good. -/
structure GoodO (q : List Instr) (p : Bool) (fl : Option Nat) (o : Option State) : Prop where
  good : ∀ t, o = some t → Good q p fl t

/-- The same, of a state with an answer. -/
structure GoodOP {β : Type} (q : List Instr) (p : Bool) (fl : Option Nat) (o : Option (State × β)) : Prop where
  good : ∀ t, o = some t → Good q p fl t.1

variable {q : List Instr} {p : Bool} {fl : Option Nat} {s : State}

theorem regsWf_erase {t : Tab Word} (n : Nat) (h : regsWf t = true) : regsWf (tabErase t n) = true := by
  induction t with
  | nil => rfl
  | cons e t ih =>
    obtain ⟨k, v⟩ := e
    simp only [regsWf, Bool.and_eq_true, decide_eq_true_eq] at h
    by_cases hk : k = n
    · simp only [tabErase, hk, if_true]; exact ih h.2
    · simp only [tabErase, hk, if_false, regsWf, Bool.and_eq_true, decide_eq_true_eq]
      refine ⟨⟨?_, h.1.2⟩, ih h.2⟩
      rw [tabAbove_iff] at *
      exact fun e he => h.1.1 e (tabErase_keys t n e he).2

theorem regsWf_insert {t : Tab Word} {n : Nat} {v : Word} (h : regsWf t = true) (hn : ∀ e ∈ t, e.1 ≠ n)
    (hv : v ≠ regReset n) : regsWf (tabInsert t n v) = true := by
  induction t with
  | nil => simp [tabInsert, regsWf, tabAbove, hv]
  | cons x t ih =>
    obtain ⟨k, w⟩ := x
    have hk : k ≠ n := hn (k, w) (by simp)
    have h' := h
    simp only [regsWf, Bool.and_eq_true, decide_eq_true_eq, tabAbove_iff] at h
    by_cases hl : n < k
    · simp only [tabInsert, hl, if_true]
      rw [regsWf, h']
      simp only [Bool.and_eq_true, decide_eq_true_eq, tabAbove_iff, and_true]
      refine ⟨?_, hv⟩
      intro e he
      rcases List.mem_cons.1 he with rfl | he
      · exact hl
      · exact Nat.lt_trans hl (h.1.1 e he)
    · simp only [tabInsert, hl, if_false, regsWf, Bool.and_eq_true, decide_eq_true_eq, tabAbove_iff]
      refine ⟨⟨?_, h.1.2⟩, ih h.2 fun e he => hn e (by simp [he])⟩
      intro e he
      rcases mem_tabInsert he with rfl | he
      · exact Nat.lt_of_le_of_ne (Nat.le_of_not_lt hl) hk
      · exact h.1.1 e he

theorem regsWf_filter {t : Tab Word} (g : Nat → Word → Bool) (h : regsWf t = true) :
    regsWf (tabFilter g t) = true := by
  unfold tabFilter
  induction t with
  | nil => rfl
  | cons e t ih =>
    obtain ⟨k, v⟩ := e
    simp only [regsWf, Bool.and_eq_true, decide_eq_true_eq, tabAbove_iff] at h
    rw [List.filter_cons]
    split
    · simp only [regsWf, Bool.and_eq_true, decide_eq_true_eq, tabAbove_iff]
      exact ⟨⟨fun e he => h.1.1 e (List.mem_of_mem_filter he), h.1.2⟩, ih h.2⟩
    · exact ih h.2

theorem regsWf_set {t : Tab Word} (n : Nat) (v : Word) (h : regsWf t = true) :
    regsWf (tabSet (regReset n) t n v) = true := by
  unfold tabSet
  split
  · exact regsWf_erase n h
  · rename_i hv; exact regsWf_insert (regsWf_erase n h) (fun e he => (tabErase_keys t n e he).1) hv

theorem regsWf_nil : regsWf [] = true := rfl

theorem cntsOk_nil : cntsOk [] = true := rfl

theorem cntsOk_filter {t : Tab Nat} {g : Nat → Nat → Bool} (h : cntsOk t = true) : cntsOk (tabFilter g t) = true := by
  unfold cntsOk tabFilter at *
  rw [List.all_eq_true] at *
  exact fun e he => h e (List.mem_of_mem_filter he)

theorem ctrsOk_nil : ctrsOk [] = true := rfl

theorem GoodX.next {t : State} (h : Good q p fl t) : GoodX q p fl (.next t) := by
  refine ⟨fun u e => ?_⟩; cases e; exact h

theorem GoodX.ite {c : Prop} [Decidable c] {a b : Host.Outcome State Fault Refusal} (ha : GoodX q p fl a)
    (hb : GoodX q p fl b) : GoodX q p fl (if c then a else b) := by split <;> assumption

theorem GoodX.dite {c : Prop} [Decidable c] {a : c → Host.Outcome State Fault Refusal}
    {b : ¬c → Host.Outcome State Fault Refusal} (ha : ∀ h, GoodX q p fl (a h))
    (hb : ∀ h, GoodX q p fl (b h)) : GoodX q p fl (dite c a b) := by
  by_cases h : c
  · rw [dif_pos h]; exact ha h
  · rw [dif_neg h]; exact hb h

theorem GoodO.some {t : State} (h : Good q p fl t) : GoodO q p fl (some t) := by
  refine ⟨fun u e => ?_⟩; cases e; exact h

theorem GoodO.none : GoodO q p fl none := ⟨fun _ e => by cases e⟩

theorem GoodO.ite {c : Prop} [Decidable c] {a b : Option State} (ha : GoodO q p fl a)
    (hb : GoodO q p fl b) : GoodO q p fl (if c then a else b) := by split <;> assumption

theorem GoodOP.some {β : Type} {t : State} {x : β} (h : Good q p fl t) : GoodOP q p fl (some (t, x)) := by
  refine ⟨fun u e => ?_⟩; cases e; exact h

theorem GoodOP.none {β : Type} : GoodOP (β := β) q p fl none := ⟨fun _ e => by cases e⟩

theorem GoodOP.ite {β : Type} {c : Prop} [Decidable c] {a b : Option (State × β)} (ha : GoodOP q p fl a)
    (hb : GoodOP q p fl b) : GoodOP q p fl (if c then a else b) := by split <;> assumption

theorem Good.of_some {t : State} {o : Option State} (e : o = some t) (h : GoodO q p fl o) : Good q p fl t := h.good t e

theorem Good.of_some_pair {β : Type} {t : State} {x : β} {o : Option (State × β)} (e : o = some (t, x))
    (h : GoodOP q p fl o) : Good q p fl t := h.good (t, x) e

theorem Good.of_some_fst {β : Type} {t : State × β} {o : Option (State × β)} (e : o = some t)
    (h : GoodOP q p fl o) : Good q p fl t.1 := h.good t e

theorem Good.of_pair {β : Type} {t : State} {x : β} {o : State × β} (e : o = (t, x)) (h : Good q p fl o.1) : Good q p fl t := by
  cases e; exact h

theorem Good.ite {c : Prop} [Decidable c] {a b : State} (ha : Good q p fl a) (hb : Good q p fl b) :
    Good q p fl (if c then a else b) := by split <;> assumption

theorem Good.elim {β : Type} {o : Option β} {a : State} {g : β → State} (ha : Good q p fl a)
    (hg : ∀ x, Good q p fl (g x)) : Good q p fl (o.elim a g) := by
  cases o with
  | none => exact ha
  | some x => exact hg x

theorem Good.dite {c : Prop} [Decidable c] {a : c → State} {b : ¬c → State} (ha : ∀ h, Good q p fl (a h))
    (hb : ∀ h, Good q p fl (b h)) : Good q p fl (dite c a b) := by
  by_cases h : c
  · rw [dif_pos h]; exact ha h
  · rw [dif_neg h]; exact hb h

theorem Good.ite_fst {β : Type} {c : Prop} [Decidable c] {a b : State × β} (ha : Good q p fl a.1) (hb : Good q p fl b.1) :
    Good q p fl (if c then a else b).1 := by split <;> assumption

theorem Good.pair_fst {β : Type} {t : State} {x : β} (h : Good q p fl t) : Good q p fl (t, x).1 := h

theorem Good.foldl {β : Type} {g : State → β → State} {l : List β} (h : Good q p fl s)
    (hg : ∀ t x, Good q p fl t → Good q p fl (g t x)) : Good q p fl (l.foldl g s) := by
  induction l generalizing s with
  | nil => exact h
  | cons x l ih => exact ih (hg s x h)

theorem Good.foldl_fst {β γ : Type} {g : State × γ → β → State × γ} {l : List β} {z : State × γ} (h : Good q p fl z.1)
    (hg : ∀ t x, Good q p fl t.1 → Good q p fl (g t x).1) : Good q p fl (l.foldl g z).1 := by
  induction l generalizing z with
  | nil => exact h
  | cons x l ih => exact ih (hg z x h)

/-- An update that leaves every table alone. -/
theorem Good.upd {now' : Nat} {free' : Nat} {stamp' : Nat} {out' : List Out} {boot' : Boot} {marks' : List (Nat × Nat × Nat)} {log' : Log} {nextExt' : Nat} {ledger' : Ledger} {serialRr' : Nat} {serialIn' : Bool} {lost' : List Nat} {carder' : Carder} {keys' : Keys} {units' : List Unit_} {rate' : Rate} {passes' : List Pass} {plist' : Plist} {qos' : Qos} {fabric' : Fabric} {img' : Img} {pair' : Pair} {power' : Power} {hsw' : Hsw} {sec' : Sec} {mgmt' : Mgmt} {pmu' : Pmu}
    (h : Good q p fl s)
    (hring : Good q p fl s → log'.ring.length ≤ 8192 := by exact (·.ring))
    (hqueue : Good q p fl s → log'.queue.length ≤ 256 := by exact (·.queue))
    (hflash : Good q p fl s → log'.flash.length ≤ 131072 := by exact (·.flash))
    (hpart : Good q p fl s → boot'.partH = p := by exact (·.part))
    (hclock : Good q p fl s → ∀ n, fl = some n → n ≤ now' := by exact (·.clock))
    (hctrs : Good q p fl s → tabWf {} pmu'.ctrs = true := by exact (·.ctrs))
    (hcycles : Good q p fl s → ctrsOk pmu'.ctrs = true := by exact (·.cycles))
    (hholdoff : Good q p fl s → tabWf 0 power'.holdoff = true := by exact (·.holdoff))
    (hmedia : Good q p fl s → tabWf [] mgmt'.media = true := by exact (·.media))
    (hbuckets : Good q p fl s → tabWf (0, 0) qos'.buckets = true := by exact (·.buckets))
    (hrr : Good q p fl s → tabWf 0 qos'.rr = true := by exact (·.rr))
    : Good q p fl (State.mk now' s.pending free' stamp' out' boot' s.regs s.cnts s.latches marks' log' s.ports s.links s.fns s.seats s.groups s.wins s.blocks nextExt' ledger' s.ingress s.trk s.use s.creel s.acts s.xing s.slices serialRr' serialIn' s.hanks s.pages s.skein s.acc lost' s.lcache carder' s.used s.dram s.slots keys' s.spn units' s.rings s.descs s.chans rate' passes' plist' qos' s.stations fabric' img' s.ply pair' s.doms power' hsw' s.mbx s.banks sec' mgmt' pmu') where
  regs := h.regs
  cnts := h.cnts
  latches := h.latches
  ports := h.ports
  links := h.links
  fns := h.fns
  seats := h.seats
  groups := h.groups
  wins := h.wins
  blocks := h.blocks
  ingress := h.ingress
  trk := h.trk
  use := h.use
  creel := h.creel
  acts := h.acts
  xing := h.xing
  slices := h.slices
  hanks := h.hanks
  pages := h.pages
  skein := h.skein
  acc := h.acc
  lcache := h.lcache
  used := h.used
  dram := h.dram
  slots := h.slots
  spn := h.spn
  rings := h.rings
  descs := h.descs
  chans := h.chans
  stations := h.stations
  ply := h.ply
  doms := h.doms
  mbx := h.mbx
  banks := h.banks
  counts := h.counts
  pending := h.pending
  ring := hring h
  queue := hqueue h
  flash := hflash h
  part := hpart h
  clock := hclock h
  ctrs := hctrs h
  cycles := hcycles h
  holdoff := hholdoff h
  media := hmedia h
  buckets := hbuckets h
  rr := hrr h

/-- An update of any fields but the queue. -/
theorem Good.updAll {now' : Nat} {free' : Nat} {stamp' : Nat} {out' : List Out} {boot' : Boot} {regs' : Tab Word} {cnts' : Tab Nat} {latches' : Tab Nat} {marks' : List (Nat × Nat × Nat)} {log' : Log} {ports' : Tab Port} {links' : Tab Link} {fns' : Tab FnState} {seats' : Tab Seat} {groups' : Tab (List Nat)} {wins' : Tab Win} {blocks' : Tab Block} {nextExt' : Nat} {ledger' : Ledger} {ingress' : Tab (List Msg)} {trk' : Tab (Option Trk)} {use' : Tab Use} {creel' : Tab Centry} {acts' : Tab (Option Active)} {xing' : Tab (Option Xing)} {slices' : Tab Slice} {serialRr' : Nat} {serialIn' : Bool} {hanks' : Tab (Option Hank)} {pages' : Tab Page} {skein' : Tab Bool} {acc' : Tab Nat} {lost' : List Nat} {lcache' : Tab Lcl} {carder' : Carder} {used' : Tab (Option HankUse)} {dram' : Tab (Option Stored)} {slots' : Tab Slot} {keys' : Keys} {spn' : Tab Spindle} {units' : List Unit_} {rings' : Tab Ring} {descs' : Tab (Option Desc)} {chans' : Tab Chan} {rate' : Rate} {passes' : List Pass} {plist' : Plist} {qos' : Qos} {stations' : Tab Station} {fabric' : Fabric} {img' : Img} {ply' : Tab Ply} {pair' : Pair} {doms' : Tab Dom} {power' : Power} {hsw' : Hsw} {mbx' : Tab Mbx} {banks' : Tab Bank} {sec' : Sec} {mgmt' : Mgmt} {pmu' : Pmu}
    (h : Good q p fl s)
    (hregs : Good q p fl s → regsWf regs' = true := by
      intro h; first | exact h.regs | exact regsWf_nil | exact regsWf_filter _ h.regs)
    (hcnts : Good q p fl s → tabWf 0 cnts' = true := by
      intro h; first | exact h.cnts | exact tabWf_nil _ | exact tabWf_set _ _ h.cnts | exact tabWf_mod _ _ h.cnts |
        exact tabWf_filter _ h.cnts | exact tabWf_map _ h.cnts)
    (hlatches : Good q p fl s → tabWf 0 latches' = true := by
      intro h; first | exact h.latches | exact tabWf_nil _ | exact tabWf_set _ _ h.latches | exact tabWf_mod _ _ h.latches |
        exact tabWf_filter _ h.latches | exact tabWf_map _ h.latches)
    (hports : Good q p fl s → tabWf {} ports' = true := by
      intro h; first | exact h.ports | exact tabWf_nil _ | exact tabWf_set _ _ h.ports | exact tabWf_mod _ _ h.ports |
        exact tabWf_filter _ h.ports | exact tabWf_map _ h.ports)
    (hlinks : Good q p fl s → tabWf {} links' = true := by
      intro h; first | exact h.links | exact tabWf_nil _ | exact tabWf_set _ _ h.links | exact tabWf_mod _ _ h.links |
        exact tabWf_filter _ h.links | exact tabWf_map _ h.links)
    (hfns : Good q p fl s → tabWf {} fns' = true := by
      intro h; first | exact h.fns | exact tabWf_nil _ | exact tabWf_set _ _ h.fns | exact tabWf_mod _ _ h.fns |
        exact tabWf_filter _ h.fns | exact tabWf_map _ h.fns)
    (hseats : Good q p fl s → tabWf {} seats' = true := by
      intro h; first | exact h.seats | exact tabWf_nil _ | exact tabWf_set _ _ h.seats | exact tabWf_mod _ _ h.seats |
        exact tabWf_filter _ h.seats | exact tabWf_map _ h.seats)
    (hgroups : Good q p fl s → tabWf [] groups' = true := by
      intro h; first | exact h.groups | exact tabWf_nil _ | exact tabWf_set _ _ h.groups | exact tabWf_mod _ _ h.groups |
        exact tabWf_filter _ h.groups | exact tabWf_map _ h.groups)
    (hwins : Good q p fl s → tabWf {} wins' = true := by
      intro h; first | exact h.wins | exact tabWf_nil _ | exact tabWf_set _ _ h.wins | exact tabWf_mod _ _ h.wins |
        exact tabWf_filter _ h.wins | exact tabWf_map _ h.wins)
    (hblocks : Good q p fl s → tabWf {} blocks' = true := by
      intro h; first | exact h.blocks | exact tabWf_nil _ | exact tabWf_set _ _ h.blocks | exact tabWf_mod _ _ h.blocks |
        exact tabWf_filter _ h.blocks | exact tabWf_map _ h.blocks)
    (hingress : Good q p fl s → tabWf [] ingress' = true := by
      intro h; first | exact h.ingress | exact tabWf_nil _ | exact tabWf_set _ _ h.ingress | exact tabWf_mod _ _ h.ingress |
        exact tabWf_filter _ h.ingress | exact tabWf_map _ h.ingress)
    (htrk : Good q p fl s → tabWf none trk' = true := by
      intro h; first | exact h.trk | exact tabWf_nil _ | exact tabWf_set _ _ h.trk | exact tabWf_mod _ _ h.trk |
        exact tabWf_filter _ h.trk | exact tabWf_map _ h.trk)
    (huse : Good q p fl s → tabWf {} use' = true := by
      intro h; first | exact h.use | exact tabWf_nil _ | exact tabWf_set _ _ h.use | exact tabWf_mod _ _ h.use |
        exact tabWf_filter _ h.use | exact tabWf_map _ h.use)
    (hcreel : Good q p fl s → tabWf {} creel' = true := by
      intro h; first | exact h.creel | exact tabWf_nil _ | exact tabWf_set _ _ h.creel | exact tabWf_mod _ _ h.creel |
        exact tabWf_filter _ h.creel | exact tabWf_map _ h.creel)
    (hacts : Good q p fl s → tabWf none acts' = true := by
      intro h; first | exact h.acts | exact tabWf_nil _ | exact tabWf_set _ _ h.acts | exact tabWf_mod _ _ h.acts |
        exact tabWf_filter _ h.acts | exact tabWf_map _ h.acts)
    (hxing : Good q p fl s → tabWf none xing' = true := by
      intro h; first | exact h.xing | exact tabWf_nil _ | exact tabWf_set _ _ h.xing | exact tabWf_mod _ _ h.xing |
        exact tabWf_filter _ h.xing | exact tabWf_map _ h.xing)
    (hslices : Good q p fl s → tabWf {} slices' = true := by
      intro h; first | exact h.slices | exact tabWf_nil _ | exact tabWf_set _ _ h.slices | exact tabWf_mod _ _ h.slices |
        exact tabWf_filter _ h.slices | exact tabWf_map _ h.slices)
    (hhanks : Good q p fl s → tabWf none hanks' = true := by
      intro h; first | exact h.hanks | exact tabWf_nil _ | exact tabWf_set _ _ h.hanks | exact tabWf_mod _ _ h.hanks |
        exact tabWf_filter _ h.hanks | exact tabWf_map _ h.hanks)
    (hpages : Good q p fl s → tabWf {} pages' = true := by
      intro h; first | exact h.pages | exact tabWf_nil _ | exact tabWf_set _ _ h.pages | exact tabWf_mod _ _ h.pages |
        exact tabWf_filter _ h.pages | exact tabWf_map _ h.pages)
    (hskein : Good q p fl s → tabWf false skein' = true := by
      intro h; first | exact h.skein | exact tabWf_nil _ | exact tabWf_set _ _ h.skein | exact tabWf_mod _ _ h.skein |
        exact tabWf_filter _ h.skein | exact tabWf_map _ h.skein)
    (hacc : Good q p fl s → tabWf 0 acc' = true := by
      intro h; first | exact h.acc | exact tabWf_nil _ | exact tabWf_set _ _ h.acc | exact tabWf_mod _ _ h.acc |
        exact tabWf_filter _ h.acc | exact tabWf_map _ h.acc)
    (hlcache : Good q p fl s → tabWf {} lcache' = true := by
      intro h; first | exact h.lcache | exact tabWf_nil _ | exact tabWf_set _ _ h.lcache | exact tabWf_mod _ _ h.lcache |
        exact tabWf_filter _ h.lcache | exact tabWf_map _ h.lcache)
    (hused : Good q p fl s → tabWf none used' = true := by
      intro h; first | exact h.used | exact tabWf_nil _ | exact tabWf_set _ _ h.used | exact tabWf_mod _ _ h.used |
        exact tabWf_filter _ h.used | exact tabWf_map _ h.used)
    (hdram : Good q p fl s → tabWf none dram' = true := by
      intro h; first | exact h.dram | exact tabWf_nil _ | exact tabWf_set _ _ h.dram | exact tabWf_mod _ _ h.dram |
        exact tabWf_filter _ h.dram | exact tabWf_map _ h.dram)
    (hslots : Good q p fl s → tabWf {} slots' = true := by
      intro h; first | exact h.slots | exact tabWf_nil _ | exact tabWf_set _ _ h.slots | exact tabWf_mod _ _ h.slots |
        exact tabWf_filter _ h.slots | exact tabWf_map _ h.slots)
    (hspn : Good q p fl s → tabWf {} spn' = true := by
      intro h; first | exact h.spn | exact tabWf_nil _ | exact tabWf_set _ _ h.spn | exact tabWf_mod _ _ h.spn |
        exact tabWf_filter _ h.spn | exact tabWf_map _ h.spn)
    (hrings : Good q p fl s → tabWf {} rings' = true := by
      intro h; first | exact h.rings | exact tabWf_nil _ | exact tabWf_set _ _ h.rings | exact tabWf_mod _ _ h.rings |
        exact tabWf_filter _ h.rings | exact tabWf_map _ h.rings)
    (hdescs : Good q p fl s → tabWf none descs' = true := by
      intro h; first | exact h.descs | exact tabWf_nil _ | exact tabWf_set _ _ h.descs | exact tabWf_mod _ _ h.descs |
        exact tabWf_filter _ h.descs | exact tabWf_map _ h.descs)
    (hchans : Good q p fl s → tabWf {} chans' = true := by
      intro h; first | exact h.chans | exact tabWf_nil _ | exact tabWf_set _ _ h.chans | exact tabWf_mod _ _ h.chans |
        exact tabWf_filter _ h.chans | exact tabWf_map _ h.chans)
    (hstations : Good q p fl s → tabWf {} stations' = true := by
      intro h; first | exact h.stations | exact tabWf_nil _ | exact tabWf_set _ _ h.stations | exact tabWf_mod _ _ h.stations |
        exact tabWf_filter _ h.stations | exact tabWf_map _ h.stations)
    (hply : Good q p fl s → tabWf {} ply' = true := by
      intro h; first | exact h.ply | exact tabWf_nil _ | exact tabWf_set _ _ h.ply | exact tabWf_mod _ _ h.ply |
        exact tabWf_filter _ h.ply | exact tabWf_map _ h.ply)
    (hdoms : Good q p fl s → tabWf {} doms' = true := by
      intro h; first | exact h.doms | exact tabWf_nil _ | exact tabWf_set _ _ h.doms | exact tabWf_mod _ _ h.doms |
        exact tabWf_filter _ h.doms | exact tabWf_map _ h.doms)
    (hmbx : Good q p fl s → tabWf {} mbx' = true := by
      intro h; first | exact h.mbx | exact tabWf_nil _ | exact tabWf_set _ _ h.mbx | exact tabWf_mod _ _ h.mbx |
        exact tabWf_filter _ h.mbx | exact tabWf_map _ h.mbx)
    (hbanks : Good q p fl s → tabWf {} banks' = true := by
      intro h; first | exact h.banks | exact tabWf_nil _ | exact tabWf_set _ _ h.banks | exact tabWf_mod _ _ h.banks |
        exact tabWf_filter _ h.banks | exact tabWf_map _ h.banks)
    (hcounts : Good q p fl s → cntsOk cnts' = true := by
      intro h; first | exact h.counts | exact cntsOk_nil | exact cntsOk_filter h.counts)
    (hring : Good q p fl s → log'.ring.length ≤ 8192 := by
      intro h; (try dsimp only); first | exact h.ring | exact Nat.zero_le _)
    (hqueue : Good q p fl s → log'.queue.length ≤ 256 := by
      intro h; (try dsimp only); first | exact h.queue | exact Nat.zero_le _)
    (hflash : Good q p fl s → log'.flash.length ≤ 131072 := by
      intro h; (try dsimp only); first | exact h.flash | exact Nat.zero_le _)
    (hpart : Good q p fl s → boot'.partH = p := by
      intro h; (try dsimp only); exact h.part)
    (hclock : Good q p fl s → ∀ n, fl = some n → n ≤ now' := by
      intro h; (try dsimp only); exact h.clock)
    (hctrs : Good q p fl s → tabWf {} pmu'.ctrs = true := by
      intro h; (try dsimp only); first | exact h.ctrs | exact tabWf_nil _ | exact tabWf_set _ _ h.ctrs |
        exact tabWf_filter _ h.ctrs)
    (hcycles : Good q p fl s → ctrsOk pmu'.ctrs = true := by
      intro h; (try dsimp only); first | exact h.cycles | exact ctrsOk_nil)
    (hholdoff : Good q p fl s → tabWf 0 power'.holdoff = true := by
      intro h; (try dsimp only); first | exact h.holdoff | exact tabWf_nil _ | exact tabWf_set _ _ h.holdoff |
        exact tabWf_filter _ h.holdoff)
    (hmedia : Good q p fl s → tabWf [] mgmt'.media = true := by
      intro h; (try dsimp only); first | exact h.media | exact tabWf_nil _ | exact tabWf_set _ _ h.media |
        exact tabWf_filter _ h.media)
    (hbuckets : Good q p fl s → tabWf (0, 0) qos'.buckets = true := by
      intro h; (try dsimp only); first | exact h.buckets | exact tabWf_nil _ | exact tabWf_set _ _ h.buckets |
        exact tabWf_filter _ h.buckets)
    (hrr : Good q p fl s → tabWf 0 qos'.rr = true := by
      intro h; (try dsimp only); first | exact h.rr | exact tabWf_nil _ | exact tabWf_set _ _ h.rr |
        exact tabWf_filter _ h.rr)
    : Good q p fl (State.mk now' s.pending free' stamp' out' boot' regs' cnts' latches' marks' log' ports' links' fns' seats' groups' wins' blocks' nextExt' ledger' ingress' trk' use' creel' acts' xing' slices' serialRr' serialIn' hanks' pages' skein' acc' lost' lcache' carder' used' dram' slots' keys' spn' units' rings' descs' chans' rate' passes' plist' qos' stations' fabric' img' ply' pair' doms' power' hsw' mbx' banks' sec' mgmt' pmu') where
  regs := hregs h
  cnts := hcnts h
  latches := hlatches h
  ports := hports h
  links := hlinks h
  fns := hfns h
  seats := hseats h
  groups := hgroups h
  wins := hwins h
  blocks := hblocks h
  ingress := hingress h
  trk := htrk h
  use := huse h
  creel := hcreel h
  acts := hacts h
  xing := hxing h
  slices := hslices h
  hanks := hhanks h
  pages := hpages h
  skein := hskein h
  acc := hacc h
  lcache := hlcache h
  used := hused h
  dram := hdram h
  slots := hslots h
  spn := hspn h
  rings := hrings h
  descs := hdescs h
  chans := hchans h
  stations := hstations h
  ply := hply h
  doms := hdoms h
  mbx := hmbx h
  banks := hbanks h
  counts := hcounts h
  pending := h.pending
  ring := hring h
  queue := hqueue h
  flash := hflash h
  part := hpart h
  clock := hclock h
  ctrs := hctrs h
  cycles := hcycles h
  holdoff := hholdoff h
  media := hmedia h
  buckets := hbuckets h
  rr := hrr h

theorem Good.set_regs {t : Tab Word} (h : Good q p fl s) (ht : regsWf t = true) : Good q p fl { s with regs := t } :=
  ⟨{ h.toSound with regs := ht }, h.pending, h.part, h.clock⟩

theorem Good.set_cnts {t : Tab Nat} (h : Good q p fl s) (ht : tabWf 0 t = true) (ho : cntsOk t = true) : Good q p fl { s with cnts := t } :=
  ⟨{ h.toSound with cnts := ht, counts := ho }, h.pending, h.part, h.clock⟩

theorem Good.set_latches {t : Tab Nat} (h : Good q p fl s) (ht : tabWf 0 t = true) : Good q p fl { s with latches := t } :=
  ⟨{ h.toSound with latches := ht }, h.pending, h.part, h.clock⟩

theorem Good.set_ports {t : Tab Port} (h : Good q p fl s) (ht : tabWf {} t = true) : Good q p fl { s with ports := t } :=
  ⟨{ h.toSound with ports := ht }, h.pending, h.part, h.clock⟩

theorem Good.set_links {t : Tab Link} (h : Good q p fl s) (ht : tabWf {} t = true) : Good q p fl { s with links := t } :=
  ⟨{ h.toSound with links := ht }, h.pending, h.part, h.clock⟩

theorem Good.set_fns {t : Tab FnState} (h : Good q p fl s) (ht : tabWf {} t = true) : Good q p fl { s with fns := t } :=
  ⟨{ h.toSound with fns := ht }, h.pending, h.part, h.clock⟩

theorem Good.set_seats {t : Tab Seat} (h : Good q p fl s) (ht : tabWf {} t = true) : Good q p fl { s with seats := t } :=
  ⟨{ h.toSound with seats := ht }, h.pending, h.part, h.clock⟩

theorem Good.set_groups {t : Tab (List Nat)} (h : Good q p fl s) (ht : tabWf [] t = true) : Good q p fl { s with groups := t } :=
  ⟨{ h.toSound with groups := ht }, h.pending, h.part, h.clock⟩

theorem Good.set_wins {t : Tab Win} (h : Good q p fl s) (ht : tabWf {} t = true) : Good q p fl { s with wins := t } :=
  ⟨{ h.toSound with wins := ht }, h.pending, h.part, h.clock⟩

theorem Good.set_blocks {t : Tab Block} (h : Good q p fl s) (ht : tabWf {} t = true) : Good q p fl { s with blocks := t } :=
  ⟨{ h.toSound with blocks := ht }, h.pending, h.part, h.clock⟩

theorem Good.set_ingress {t : Tab (List Msg)} (h : Good q p fl s) (ht : tabWf [] t = true) : Good q p fl { s with ingress := t } :=
  ⟨{ h.toSound with ingress := ht }, h.pending, h.part, h.clock⟩

theorem Good.set_trk {t : Tab (Option Trk)} (h : Good q p fl s) (ht : tabWf none t = true) : Good q p fl { s with trk := t } :=
  ⟨{ h.toSound with trk := ht }, h.pending, h.part, h.clock⟩

theorem Good.set_use {t : Tab Use} (h : Good q p fl s) (ht : tabWf {} t = true) : Good q p fl { s with use := t } :=
  ⟨{ h.toSound with use := ht }, h.pending, h.part, h.clock⟩

theorem Good.set_creel {t : Tab Centry} (h : Good q p fl s) (ht : tabWf {} t = true) : Good q p fl { s with creel := t } :=
  ⟨{ h.toSound with creel := ht }, h.pending, h.part, h.clock⟩

theorem Good.set_acts {t : Tab (Option Active)} (h : Good q p fl s) (ht : tabWf none t = true) : Good q p fl { s with acts := t } :=
  ⟨{ h.toSound with acts := ht }, h.pending, h.part, h.clock⟩

theorem Good.set_xing {t : Tab (Option Xing)} (h : Good q p fl s) (ht : tabWf none t = true) : Good q p fl { s with xing := t } :=
  ⟨{ h.toSound with xing := ht }, h.pending, h.part, h.clock⟩

theorem Good.set_slices {t : Tab Slice} (h : Good q p fl s) (ht : tabWf {} t = true) : Good q p fl { s with slices := t } :=
  ⟨{ h.toSound with slices := ht }, h.pending, h.part, h.clock⟩

theorem Good.set_hanks {t : Tab (Option Hank)} (h : Good q p fl s) (ht : tabWf none t = true) : Good q p fl { s with hanks := t } :=
  ⟨{ h.toSound with hanks := ht }, h.pending, h.part, h.clock⟩

theorem Good.set_pages {t : Tab Page} (h : Good q p fl s) (ht : tabWf {} t = true) : Good q p fl { s with pages := t } :=
  ⟨{ h.toSound with pages := ht }, h.pending, h.part, h.clock⟩

theorem Good.set_skein {t : Tab Bool} (h : Good q p fl s) (ht : tabWf false t = true) : Good q p fl { s with skein := t } :=
  ⟨{ h.toSound with skein := ht }, h.pending, h.part, h.clock⟩

theorem Good.set_acc {t : Tab Nat} (h : Good q p fl s) (ht : tabWf 0 t = true) : Good q p fl { s with acc := t } :=
  ⟨{ h.toSound with acc := ht }, h.pending, h.part, h.clock⟩

theorem Good.set_lcache {t : Tab Lcl} (h : Good q p fl s) (ht : tabWf {} t = true) : Good q p fl { s with lcache := t } :=
  ⟨{ h.toSound with lcache := ht }, h.pending, h.part, h.clock⟩

theorem Good.set_used {t : Tab (Option HankUse)} (h : Good q p fl s) (ht : tabWf none t = true) : Good q p fl { s with used := t } :=
  ⟨{ h.toSound with used := ht }, h.pending, h.part, h.clock⟩

theorem Good.set_dram {t : Tab (Option Stored)} (h : Good q p fl s) (ht : tabWf none t = true) : Good q p fl { s with dram := t } :=
  ⟨{ h.toSound with dram := ht }, h.pending, h.part, h.clock⟩

theorem Good.set_slots {t : Tab Slot} (h : Good q p fl s) (ht : tabWf {} t = true) : Good q p fl { s with slots := t } :=
  ⟨{ h.toSound with slots := ht }, h.pending, h.part, h.clock⟩

theorem Good.set_spn {t : Tab Spindle} (h : Good q p fl s) (ht : tabWf {} t = true) : Good q p fl { s with spn := t } :=
  ⟨{ h.toSound with spn := ht }, h.pending, h.part, h.clock⟩

theorem Good.set_rings {t : Tab Ring} (h : Good q p fl s) (ht : tabWf {} t = true) : Good q p fl { s with rings := t } :=
  ⟨{ h.toSound with rings := ht }, h.pending, h.part, h.clock⟩

theorem Good.set_descs {t : Tab (Option Desc)} (h : Good q p fl s) (ht : tabWf none t = true) : Good q p fl { s with descs := t } :=
  ⟨{ h.toSound with descs := ht }, h.pending, h.part, h.clock⟩

theorem Good.set_chans {t : Tab Chan} (h : Good q p fl s) (ht : tabWf {} t = true) : Good q p fl { s with chans := t } :=
  ⟨{ h.toSound with chans := ht }, h.pending, h.part, h.clock⟩

theorem Good.set_stations {t : Tab Station} (h : Good q p fl s) (ht : tabWf {} t = true) : Good q p fl { s with stations := t } :=
  ⟨{ h.toSound with stations := ht }, h.pending, h.part, h.clock⟩

theorem Good.set_ply {t : Tab Ply} (h : Good q p fl s) (ht : tabWf {} t = true) : Good q p fl { s with ply := t } :=
  ⟨{ h.toSound with ply := ht }, h.pending, h.part, h.clock⟩

theorem Good.set_doms {t : Tab Dom} (h : Good q p fl s) (ht : tabWf {} t = true) : Good q p fl { s with doms := t } :=
  ⟨{ h.toSound with doms := ht }, h.pending, h.part, h.clock⟩

theorem Good.set_mbx {t : Tab Mbx} (h : Good q p fl s) (ht : tabWf {} t = true) : Good q p fl { s with mbx := t } :=
  ⟨{ h.toSound with mbx := ht }, h.pending, h.part, h.clock⟩

theorem Good.set_banks {t : Tab Bank} (h : Good q p fl s) (ht : tabWf {} t = true) : Good q p fl { s with banks := t } :=
  ⟨{ h.toSound with banks := ht }, h.pending, h.part, h.clock⟩

end Sys2Proof.Machine
end

