-- ==== Sys2Proof/Laws/GoodOps.lean ====
section
/-! SUPPORT. The operations of Machine/Ops.lean keep the state good (`Good`). -/

set_option linter.unusedTactic false
set_option linter.unreachableTactic false

set_option Elab.async false

namespace Sys2Proof.Machine

open Sys2Proof

theorem modPort_good {q₀ : List Instr} {p₀ : Bool} {c₀ : Option Nat} {s : State} {k : Nat} {f : Port → Port}
    (h₀ : Good q₀ p₀ c₀ s) :
    Good q₀ p₀ c₀ (modPort s k f) := by
  unfold modPort
  try dsimp only
  with_reducible
    repeat' first
      | exact h₀ | assumption | intro _ | exact h₀.set_ports (tabWf_mod _ _ h₀.ports) | dsimp only | split
      | refine Good.upd ?_

theorem modLink_good {q₀ : List Instr} {p₀ : Bool} {c₀ : Option Nat} {s : State} {k : Nat} {f : Link → Link}
    (h₀ : Good q₀ p₀ c₀ s) :
    Good q₀ p₀ c₀ (modLink s k f) := by
  unfold modLink
  try dsimp only
  with_reducible
    repeat' first
      | exact h₀ | assumption | intro _ | exact h₀.set_links (tabWf_mod _ _ h₀.links) | dsimp only | split
      | refine Good.upd ?_

theorem modFn_good {q₀ : List Instr} {p₀ : Bool} {c₀ : Option Nat} {s : State} {k : Nat} {f : FnState → FnState}
    (h₀ : Good q₀ p₀ c₀ s) :
    Good q₀ p₀ c₀ (modFn s k f) := by
  unfold modFn
  try dsimp only
  with_reducible
    repeat' first
      | exact h₀ | assumption | intro _ | exact h₀.set_fns (tabWf_mod _ _ h₀.fns) | dsimp only | split
      | refine Good.upd ?_

theorem modSeat_good {q₀ : List Instr} {p₀ : Bool} {c₀ : Option Nat} {s : State} {k : Nat} {f : Seat → Seat}
    (h₀ : Good q₀ p₀ c₀ s) :
    Good q₀ p₀ c₀ (modSeat s k f) := by
  unfold modSeat
  try dsimp only
  with_reducible
    repeat' first
      | exact h₀ | assumption | intro _ | exact h₀.set_seats (tabWf_mod _ _ h₀.seats) | dsimp only | split
      | refine Good.upd ?_

theorem modGroup_good {q₀ : List Instr} {p₀ : Bool} {c₀ : Option Nat} {s : State} {k : Nat}
    {f : List Nat → List Nat} (h₀ : Good q₀ p₀ c₀ s) :
    Good q₀ p₀ c₀ (modGroup s k f) := by
  unfold modGroup
  try dsimp only
  with_reducible
    repeat' first
      | exact h₀ | assumption | intro _ | exact h₀.set_groups (tabWf_mod _ _ h₀.groups) | dsimp only | split
      | refine Good.upd ?_

theorem modWin_good {q₀ : List Instr} {p₀ : Bool} {c₀ : Option Nat} {s : State} {k : Nat} {f : Win → Win}
    (h₀ : Good q₀ p₀ c₀ s) :
    Good q₀ p₀ c₀ (modWin s k f) := by
  unfold modWin
  try dsimp only
  with_reducible
    repeat' first
      | exact h₀ | assumption | intro _ | exact h₀.set_wins (tabWf_mod _ _ h₀.wins) | dsimp only | split
      | refine Good.upd ?_

theorem modBlock_good {q₀ : List Instr} {p₀ : Bool} {c₀ : Option Nat} {s : State} {k : Nat} {f : Block → Block}
    (h₀ : Good q₀ p₀ c₀ s) :
    Good q₀ p₀ c₀ (modBlock s k f) := by
  unfold modBlock
  try dsimp only
  with_reducible
    repeat' first
      | exact h₀ | assumption | intro _ | exact h₀.set_blocks (tabWf_mod _ _ h₀.blocks) | dsimp only | split
      | refine Good.upd ?_

theorem modIngress_good {q₀ : List Instr} {p₀ : Bool} {c₀ : Option Nat} {s : State} {k : Nat}
    {f : List Msg → List Msg} (h₀ : Good q₀ p₀ c₀ s) :
    Good q₀ p₀ c₀ (modIngress s k f) := by
  unfold modIngress
  try dsimp only
  with_reducible
    repeat' first
      | exact h₀ | assumption | intro _ | exact h₀.set_ingress (tabWf_mod _ _ h₀.ingress) | dsimp only | split
      | refine Good.upd ?_

theorem modTrk_good {q₀ : List Instr} {p₀ : Bool} {c₀ : Option Nat} {s : State} {k : Nat}
    {f : Option Trk → Option Trk} (h₀ : Good q₀ p₀ c₀ s) :
    Good q₀ p₀ c₀ (modTrk s k f) := by
  unfold modTrk
  try dsimp only
  with_reducible
    repeat' first
      | exact h₀ | assumption | intro _ | exact h₀.set_trk (tabWf_mod _ _ h₀.trk) | dsimp only | split
      | refine Good.upd ?_

theorem modUse_good {q₀ : List Instr} {p₀ : Bool} {c₀ : Option Nat} {s : State} {k : Nat} {f : Use → Use}
    (h₀ : Good q₀ p₀ c₀ s) :
    Good q₀ p₀ c₀ (modUse s k f) := by
  unfold modUse
  try dsimp only
  with_reducible
    repeat' first
      | exact h₀ | assumption | intro _ | exact h₀.set_use (tabWf_mod _ _ h₀.use) | dsimp only | split
      | refine Good.upd ?_

theorem modCreel_good {q₀ : List Instr} {p₀ : Bool} {c₀ : Option Nat} {s : State} {k : Nat} {f : Centry → Centry}
    (h₀ : Good q₀ p₀ c₀ s) :
    Good q₀ p₀ c₀ (modCreel s k f) := by
  unfold modCreel
  try dsimp only
  with_reducible
    repeat' first
      | exact h₀ | assumption | intro _ | exact h₀.set_creel (tabWf_mod _ _ h₀.creel) | dsimp only | split
      | refine Good.upd ?_

theorem modAct_good {q₀ : List Instr} {p₀ : Bool} {c₀ : Option Nat} {s : State} {k : Nat}
    {f : Option Active → Option Active} (h₀ : Good q₀ p₀ c₀ s) :
    Good q₀ p₀ c₀ (modAct s k f) := by
  unfold modAct
  try dsimp only
  with_reducible
    repeat' first
      | exact h₀ | assumption | intro _ | exact h₀.set_acts (tabWf_mod _ _ h₀.acts) | dsimp only | split
      | refine Good.upd ?_

theorem modXing_good {q₀ : List Instr} {p₀ : Bool} {c₀ : Option Nat} {s : State} {k : Nat}
    {f : Option Xing → Option Xing} (h₀ : Good q₀ p₀ c₀ s) :
    Good q₀ p₀ c₀ (modXing s k f) := by
  unfold modXing
  try dsimp only
  with_reducible
    repeat' first
      | exact h₀ | assumption | intro _ | exact h₀.set_xing (tabWf_mod _ _ h₀.xing) | dsimp only | split
      | refine Good.upd ?_

theorem modSlice_good {q₀ : List Instr} {p₀ : Bool} {c₀ : Option Nat} {s : State} {k : Nat} {f : Slice → Slice}
    (h₀ : Good q₀ p₀ c₀ s) :
    Good q₀ p₀ c₀ (modSlice s k f) := by
  unfold modSlice
  try dsimp only
  with_reducible
    repeat' first
      | exact h₀ | assumption | intro _ | exact h₀.set_slices (tabWf_mod _ _ h₀.slices) | dsimp only | split
      | refine Good.upd ?_

theorem modHankRaw_good {q₀ : List Instr} {p₀ : Bool} {c₀ : Option Nat} {s : State} {k : Nat}
    {f : Option Hank → Option Hank} (h₀ : Good q₀ p₀ c₀ s) :
    Good q₀ p₀ c₀ (modHankRaw s k f) := by
  unfold modHankRaw
  try dsimp only
  with_reducible
    repeat' first
      | exact h₀ | assumption | intro _ | exact h₀.set_hanks (tabWf_mod _ _ h₀.hanks) | dsimp only | split
      | refine Good.upd ?_

theorem modPage_good {q₀ : List Instr} {p₀ : Bool} {c₀ : Option Nat} {s : State} {k : Nat} {f : Page → Page}
    (h₀ : Good q₀ p₀ c₀ s) :
    Good q₀ p₀ c₀ (modPage s k f) := by
  unfold modPage
  try dsimp only
  with_reducible
    repeat' first
      | exact h₀ | assumption | intro _ | exact h₀.set_pages (tabWf_mod _ _ h₀.pages) | dsimp only | split
      | refine Good.upd ?_

theorem modCached_good {q₀ : List Instr} {p₀ : Bool} {c₀ : Option Nat} {s : State} {k : Nat} {f : Bool → Bool}
    (h₀ : Good q₀ p₀ c₀ s) :
    Good q₀ p₀ c₀ (modCached s k f) := by
  unfold modCached
  try dsimp only
  with_reducible
    repeat' first
      | exact h₀ | assumption | intro _ | exact h₀.set_skein (tabWf_mod _ _ h₀.skein) | dsimp only | split
      | refine Good.upd ?_

theorem modAcc_good {q₀ : List Instr} {p₀ : Bool} {c₀ : Option Nat} {s : State} {k : Nat} {f : Nat → Nat}
    (h₀ : Good q₀ p₀ c₀ s) :
    Good q₀ p₀ c₀ (modAcc s k f) := by
  unfold modAcc
  try dsimp only
  with_reducible
    repeat' first
      | exact h₀ | assumption | intro _ | exact h₀.set_acc (tabWf_mod _ _ h₀.acc) | dsimp only | split
      | refine Good.upd ?_

theorem modLcache_good {q₀ : List Instr} {p₀ : Bool} {c₀ : Option Nat} {s : State} {k : Nat} {f : Lcl → Lcl}
    (h₀ : Good q₀ p₀ c₀ s) :
    Good q₀ p₀ c₀ (modLcache s k f) := by
  unfold modLcache
  try dsimp only
  with_reducible
    repeat' first
      | exact h₀ | assumption | intro _ | exact h₀.set_lcache (tabWf_mod _ _ h₀.lcache) | dsimp only | split
      | refine Good.upd ?_

theorem modUsed_good {q₀ : List Instr} {p₀ : Bool} {c₀ : Option Nat} {s : State} {k : Nat}
    {f : Option HankUse → Option HankUse} (h₀ : Good q₀ p₀ c₀ s) :
    Good q₀ p₀ c₀ (modUsed s k f) := by
  unfold modUsed
  try dsimp only
  with_reducible
    repeat' first
      | exact h₀ | assumption | intro _ | exact h₀.set_used (tabWf_mod _ _ h₀.used) | dsimp only | split
      | refine Good.upd ?_

theorem modDram_good {q₀ : List Instr} {p₀ : Bool} {c₀ : Option Nat} {s : State} {k : Nat}
    {f : Option Stored → Option Stored} (h₀ : Good q₀ p₀ c₀ s) :
    Good q₀ p₀ c₀ (modDram s k f) := by
  unfold modDram
  try dsimp only
  with_reducible
    repeat' first
      | exact h₀ | assumption | intro _ | exact h₀.set_dram (tabWf_mod _ _ h₀.dram) | dsimp only | split
      | refine Good.upd ?_

theorem modSlot_good {q₀ : List Instr} {p₀ : Bool} {c₀ : Option Nat} {s : State} {k : Nat} {f : Slot → Slot}
    (h₀ : Good q₀ p₀ c₀ s) :
    Good q₀ p₀ c₀ (modSlot s k f) := by
  unfold modSlot
  try dsimp only
  with_reducible
    repeat' first
      | exact h₀ | assumption | intro _ | exact h₀.set_slots (tabWf_mod _ _ h₀.slots) | dsimp only | split
      | refine Good.upd ?_

theorem modSpn_good {q₀ : List Instr} {p₀ : Bool} {c₀ : Option Nat} {s : State} {k : Nat} {f : Spindle → Spindle}
    (h₀ : Good q₀ p₀ c₀ s) :
    Good q₀ p₀ c₀ (modSpn s k f) := by
  unfold modSpn
  try dsimp only
  with_reducible
    repeat' first
      | exact h₀ | assumption | intro _ | exact h₀.set_spn (tabWf_mod _ _ h₀.spn) | dsimp only | split
      | refine Good.upd ?_

theorem modRing_good {q₀ : List Instr} {p₀ : Bool} {c₀ : Option Nat} {s : State} {k : Nat} {f : Ring → Ring}
    (h₀ : Good q₀ p₀ c₀ s) :
    Good q₀ p₀ c₀ (modRing s k f) := by
  unfold modRing
  try dsimp only
  with_reducible
    repeat' first
      | exact h₀ | assumption | intro _ | exact h₀.set_rings (tabWf_mod _ _ h₀.rings) | dsimp only | split
      | refine Good.upd ?_

theorem modDesc_good {q₀ : List Instr} {p₀ : Bool} {c₀ : Option Nat} {s : State} {k : Nat}
    {f : Option Desc → Option Desc} (h₀ : Good q₀ p₀ c₀ s) :
    Good q₀ p₀ c₀ (modDesc s k f) := by
  unfold modDesc
  try dsimp only
  with_reducible
    repeat' first
      | exact h₀ | assumption | intro _ | exact h₀.set_descs (tabWf_mod _ _ h₀.descs) | dsimp only | split
      | refine Good.upd ?_

theorem modCh_good {q₀ : List Instr} {p₀ : Bool} {c₀ : Option Nat} {s : State} {k : Nat} {f : Chan → Chan}
    (h₀ : Good q₀ p₀ c₀ s) :
    Good q₀ p₀ c₀ (modCh s k f) := by
  unfold modCh
  try dsimp only
  with_reducible
    repeat' first
      | exact h₀ | assumption | intro _ | exact h₀.set_chans (tabWf_mod _ _ h₀.chans) | dsimp only | split
      | refine Good.upd ?_

theorem modSt_good {q₀ : List Instr} {p₀ : Bool} {c₀ : Option Nat} {s : State} {k : Nat} {f : Station → Station}
    (h₀ : Good q₀ p₀ c₀ s) :
    Good q₀ p₀ c₀ (modSt s k f) := by
  unfold modSt
  try dsimp only
  with_reducible
    repeat' first
      | exact h₀ | assumption | intro _ | exact h₀.set_stations (tabWf_mod _ _ h₀.stations) | dsimp only | split
      | refine Good.upd ?_

theorem modPly_good {q₀ : List Instr} {p₀ : Bool} {c₀ : Option Nat} {s : State} {k : Nat} {f : Ply → Ply}
    (h₀ : Good q₀ p₀ c₀ s) :
    Good q₀ p₀ c₀ (modPly s k f) := by
  unfold modPly
  try dsimp only
  with_reducible
    repeat' first
      | exact h₀ | assumption | intro _ | exact h₀.set_ply (tabWf_mod _ _ h₀.ply) | dsimp only | split
      | refine Good.upd ?_

theorem modDom_good {q₀ : List Instr} {p₀ : Bool} {c₀ : Option Nat} {s : State} {k : Nat} {f : Dom → Dom}
    (h₀ : Good q₀ p₀ c₀ s) :
    Good q₀ p₀ c₀ (modDom s k f) := by
  unfold modDom
  try dsimp only
  with_reducible
    repeat' first
      | exact h₀ | assumption | intro _ | exact h₀.set_doms (tabWf_mod _ _ h₀.doms) | dsimp only | split
      | refine Good.upd ?_

theorem modMbx_good {q₀ : List Instr} {p₀ : Bool} {c₀ : Option Nat} {s : State} {k : Nat} {f : Mbx → Mbx}
    (h₀ : Good q₀ p₀ c₀ s) :
    Good q₀ p₀ c₀ (modMbx s k f) := by
  unfold modMbx
  try dsimp only
  with_reducible
    repeat' first
      | exact h₀ | assumption | intro _ | exact h₀.set_mbx (tabWf_mod _ _ h₀.mbx) | dsimp only | split
      | refine Good.upd ?_

theorem modBank_good {q₀ : List Instr} {p₀ : Bool} {c₀ : Option Nat} {s : State} {k : Nat} {f : Bank → Bank}
    (h₀ : Good q₀ p₀ c₀ s) :
    Good q₀ p₀ c₀ (modBank s k f) := by
  unfold modBank
  try dsimp only
  with_reducible
    repeat' first
      | exact h₀ | assumption | intro _ | exact h₀.set_banks (tabWf_mod _ _ h₀.banks) | dsimp only | split
      | refine Good.upd ?_

theorem stampNext_good {q₀ : List Instr} {p₀ : Bool} {c₀ : Option Nat} {s : State}  (h₀ : Good q₀ p₀ c₀ s) :
    Good q₀ p₀ c₀ (stampNext s) := by
  unfold stampNext
  try dsimp only
  with_reducible
    repeat' first
      | exact h₀ | assumption | intro _ | dsimp only | split | refine Good.upd ?_

theorem markMs_good {q₀ : List Instr} {p₀ : Bool} {c₀ : Option Nat} {s : State} {r x : Nat} (h₀ : Good q₀ p₀ c₀ s) :
    Good q₀ p₀ c₀ (markMs s r x) := by
  unfold markMs
  try dsimp only
  with_reducible
    repeat' first
      | exact h₀ | assumption | intro _ | dsimp only | split | refine Good.upd ?_

theorem nextFree_good {q₀ : List Instr} {p₀ : Bool} {c₀ : Option Nat} {s : State}  (h₀ : Good q₀ p₀ c₀ s) :
    Good q₀ p₀ c₀ (nextFree s) := by
  unfold nextFree
  try dsimp only
  with_reducible
    repeat' first
      | exact h₀ | assumption | intro _ | dsimp only | split | refine Good.upd ?_

theorem setReg_good {q : List Instr} {p : Bool} {fl : Option Nat} {s : State} {key : Nat} {v : Word} (h : Good q p fl s) :
    Good q p fl (setReg s key v) := h.set_regs (regsWf_set key v h.regs)

theorem all_tabSet {α : Type} [DecidableEq α] {d : α} {g : Nat × α → Bool} {t : Tab α} {n : Nat} {v : α}
    (h : t.all g = true) (hv : g (n, v) = true) : (tabSet d t n v).all g = true := by
  rw [List.all_eq_true] at *
  intro e he
  unfold tabSet at he
  split at he
  · exact h e (tabErase_keys t n e he).2
  · rcases mem_tabInsert he with rfl | he
    · exact hv
    · exact h e (tabErase_keys t n e he).2

theorem all_filter {α : Type} {g r : α → Bool} {t : List α} (h : t.all g = true) : (t.filter r).all g = true := by
  rw [List.all_eq_true] at *
  exact fun e he => h e (List.mem_of_mem_filter he)

theorem bumpBy_good {q : List Instr} {p : Bool} {fl : Option Nat} {s : State} {off n : Nat} (h : Good q p fl s) :
    Good q p fl (bumpBy s off n) := h.set_cnts (tabWf_set _ _ h.cnts)
  (all_tabSet h.counts (decide_eq_true (Nat.min_le_left _ _)))

theorem bump_good {q₀ : List Instr} {p₀ : Bool} {c₀ : Option Nat} {s : State} {off : Nat} (h₀ : Good q₀ p₀ c₀ s) :
    Good q₀ p₀ c₀ (bump s off) := by
  unfold bump
  try dsimp only
  with_reducible
    repeat' first
      | exact h₀ | assumption | intro _ | apply bumpBy_good | dsimp only | split

theorem clearCnt_good {q : List Instr} {p : Bool} {fl : Option Nat} {s : State} {off : Nat} (h : Good q p fl s) :
    Good q p fl (clearCnt s off) := h.set_cnts (tabWf_set _ _ h.cnts)
  (all_tabSet h.counts (decide_eq_true (Nat.zero_le _)))

theorem emit_good {q₀ : List Instr} {p₀ : Bool} {c₀ : Option Nat} {s : State} {o : Out} (h₀ : Good q₀ p₀ c₀ s) :
    Good q₀ p₀ c₀ (emit s o) := by
  unfold emit
  try dsimp only
  with_reducible
    repeat' first
      | exact h₀ | assumption | intro _ | dsimp only | split | refine Good.upd ?_

theorem emitAll_good {q₀ : List Instr} {p₀ : Bool} {c₀ : Option Nat} {s : State} {os : List Out}
    (h₀ : Good q₀ p₀ c₀ s) :
    Good q₀ p₀ c₀ (emitAll s os) := by
  unfold emitAll
  try dsimp only
  with_reducible
    repeat' first
      | exact h₀ | assumption | intro _ | dsimp only | split | refine Good.upd ?_

theorem fnIrq_good {q₀ : List Instr} {p₀ : Bool} {c₀ : Option Nat} {s : State} {f : Fn} {vec : Nat}
    (h₀ : Good q₀ p₀ c₀ s) :
    Good q₀ p₀ c₀ (fnIrq s f vec) := by
  unfold fnIrq
  try dsimp only
  with_reducible
    repeat' first
      | exact h₀ | assumption | intro _ | apply modFn_good | apply emit_good | apply Good.ite | dsimp only | split
      | refine Good.upd ?_

theorem msix_good {q₀ : List Instr} {p₀ : Bool} {c₀ : Option Nat} {s : State} {seat vec : Nat} (h₀ : Good q₀ p₀ c₀ s) :
    Good q₀ p₀ c₀ (msix s seat vec) := by
  unfold msix
  try dsimp only
  with_reducible
    repeat' first
      | exact h₀ | assumption | intro _ | apply fnIrq_good | apply Good.foldl | dsimp only | split

theorem eventIrqs_good {q₀ : List Instr} {p₀ : Bool} {c₀ : Option Nat} {s : State} {e : Event} (h₀ : Good q₀ p₀ c₀ s) :
    Good q₀ p₀ c₀ (eventIrqs s e) := by
  unfold eventIrqs
  try dsimp only
  with_reducible
    repeat' first
      | exact h₀ | assumption | intro _ | apply fnIrq_good | apply Good.ite | apply Good.foldl | apply Good.foldl_fst
      | refine Good.of_pair (by assumption) ?_ | dsimp only | split

theorem ringPut_queue (l : Log) (e : Event) : (ringPut l e).queue = l.queue ∧ (ringPut l e).flash = l.flash := by
  unfold ringPut; dsimp only; split <;> exact ⟨rfl, rfl⟩

theorem ringPut_ring {l : Log} (e : Event) (h : l.ring.length ≤ 8192) : (ringPut l e).ring.length ≤ 8192 := by
  unfold ringPut; dsimp only
  split
  · show (List.drop 1 _).length ≤ 8192
    simp only [List.length_drop, List.length_append, List.length_cons, List.length_nil]; omega
  · rename_i hc
    exact Nat.le_of_not_lt hc

/-- A change of the log that keeps its bounds. -/
theorem Good.set_log {q : List Instr} {p : Bool} {fl : Option Nat} {s : State} {l : Log} (h : Good q p fl s)
    (hr : l.ring.length ≤ 8192) (hq : l.queue.length ≤ 256) (hf : l.flash.length ≤ 131072) :
    Good q p fl { s with log := l } :=
  ⟨{ h.toSound with ring := hr, queue := hq, flash := hf }, h.pending, h.part, h.clock⟩

theorem putLoss_good {q : List Instr} {p : Bool} {fl : Option Nat} {s : State} (h : Good q p fl s) :
    Good q p fl (if firstInMs s 414 0 then
      { markMs s 414 0 with log := ringPut s.log (lossEvent s s.log.lostFlash) } else s) := by
  split
  · refine (markMs_good h).set_log (ringPut_ring _ h.ring) ?_ ?_
    · rw [(ringPut_queue _ _).1]; exact h.queue
    · rw [(ringPut_queue _ _).2]; exact h.flash
  · exact h

theorem putEvent_good {q : List Instr} {p : Bool} {fl : Option Nat} {s : State} {e : Event} (h : Good q p fl s) :
    Good q p fl (putEvent s e) := by
  unfold putEvent
  dsimp only
  apply eventIrqs_good
  have h1 : Good q p fl { s with log := ringPut s.log e } :=
    h.set_log (ringPut_ring _ h.ring) (by rw [(ringPut_queue _ _).1]; exact h.queue)
      (by rw [(ringPut_queue _ _).2]; exact h.flash)
  split
  · have h2 : Good q p fl { s with log := { ringPut s.log e with alert := true } } :=
      h1.set_log h1.ring h1.queue h1.flash
    split
    · rename_i hq
      refine h2.set_log h2.ring ?_ h2.flash
      simp only [List.length_append, List.length_cons, List.length_nil]
      exact hq
    · exact putLoss_good (h2.set_log h2.ring h2.queue h2.flash)
  · exact h1

theorem bumpBoot_good {q₀ : List Instr} {p₀ : Bool} {c₀ : Option Nat} {s : State}  (h₀ : Good q₀ p₀ c₀ s) :
    Good q₀ p₀ c₀ (bumpBoot s) := by
  unfold bumpBoot
  try dsimp only
  with_reducible
    repeat' first
      | exact h₀ | assumption | intro _ | apply Good.ite | dsimp only | split | refine Good.upd ?_

theorem logEvFor_good {q₀ : List Instr} {p₀ : Bool} {c₀ : Option Nat} {s : State} {source code sev : Nat}
    {payload : List Byte} {seats wins : List Nat} (h₀ : Good q₀ p₀ c₀ s) :
    Good q₀ p₀ c₀ (logEvFor s source code sev payload seats wins) := by
  unfold logEvFor
  try dsimp only
  with_reducible
    repeat' first
      | exact h₀ | assumption | intro _ | apply bumpBoot_good | apply putEvent_good | apply Good.ite | dsimp only
      | split | refine Good.upd ?_

theorem logEv_good {q₀ : List Instr} {p₀ : Bool} {c₀ : Option Nat} {s : State} {source code sev : Nat}
    {payload : List Byte} (h₀ : Good q₀ p₀ c₀ s) :
    Good q₀ p₀ c₀ (logEv s source code sev payload) := by
  unfold logEv
  try dsimp only
  with_reducible
    repeat' first
      | exact h₀ | assumption | intro _ | apply logEvFor_good | dsimp only | split

theorem logUncoded_good {q₀ : List Instr} {p₀ : Bool} {c₀ : Option Nat} {s : State} {source rule sev : Nat}
    {payload : List Byte} {seats wins : List Nat} (h₀ : Good q₀ p₀ c₀ s) :
    Good q₀ p₀ c₀ (logUncoded s source rule sev payload seats wins) := by
  unfold logUncoded
  try dsimp only
  with_reducible
    repeat' first
      | exact h₀ | assumption | intro _ | apply logEvFor_good | dsimp only | split

theorem fwEvent_good {q₀ : List Instr} {p₀ : Bool} {c₀ : Option Nat} {s : State} {bank result : Nat}
    (h₀ : Good q₀ p₀ c₀ s) :
    Good q₀ p₀ c₀ (fwEvent s bank result) := by
  unfold fwEvent
  try dsimp only
  with_reducible
    repeat' first
      | exact h₀ | assumption | intro _ | apply logEv_good | apply Good.ite | dsimp only | split

theorem cciAnswer_good {q₀ : List Instr} {p₀ : Bool} {c₀ : Option Nat} {s : State} {c : Cci} {op : Nat} {r : Ret}
    {body : Contents} (h₀ : Good q₀ p₀ c₀ s) :
    Good q₀ p₀ c₀ (cciAnswer s c op r body) := by
  unfold cciAnswer
  try dsimp only
  with_reducible
    repeat' first
      | exact h₀ | assumption | intro _ | apply emit_good | apply fnIrq_good | refine Good.of_pair (by assumption) ?_
      | dsimp only | split

theorem bgStart_good {q₀ : List Instr} {p₀ : Bool} {c₀ : Option Nat} {s : State} {c : Cci} {op : Nat}
    (h₀ : Good q₀ p₀ c₀ s) :
    Good q₀ p₀ c₀ (bgStart s c op) := by
  unfold bgStart
  try dsimp only
  with_reducible
    repeat' first
      | exact h₀ | assumption | intro _ | apply cciAnswer_good | apply modFn_good | dsimp only | split
      | refine Good.upd ?_

theorem bgFinish_good {q₀ : List Instr} {p₀ : Bool} {c₀ : Option Nat} {s : State} {c : Cci} {op : Nat} {r : Ret}
    (h₀ : Good q₀ p₀ c₀ s) :
    Good q₀ p₀ c₀ (bgFinish s c op r) := by
  unfold bgFinish
  try dsimp only
  with_reducible
    repeat' first
      | exact h₀ | assumption | intro _ | apply cciAnswer_good | apply modFn_good | apply Good.ite | dsimp only
      | split | refine Good.upd ?_

theorem boxPush_good {q₀ : List Instr} {p₀ : Bool} {c₀ : Option Nat} {s : State} {n : Nat} {ws : List Word}
    (h₀ : Good q₀ p₀ c₀ s) :
    Good q₀ p₀ c₀ (boxPush s n ws) := by
  unfold boxPush
  try dsimp only
  with_reducible
    repeat' first
      | exact h₀ | assumption | intro _ | apply modMbx_good | dsimp only | split | refine Good.upd ?_

theorem tellIsland_good {q₀ : List Instr} {p₀ : Bool} {c₀ : Option Nat} {s : State} {n : Nat} (h₀ : Good q₀ p₀ c₀ s) :
    Good q₀ p₀ c₀ (tellIsland s n) := by
  unfold tellIsland
  try dsimp only
  with_reducible
    repeat' first
      | exact h₀ | assumption | intro _ | apply boxPush_good | apply nextFree_good | dsimp only | split

theorem Good.set_pmu {q : List Instr} {p : Bool} {fl : Option Nat} {s : State} {m : Pmu} (h : Good q p fl s) (ht : tabWf {} m.ctrs = true)
    (hc : ctrsOk m.ctrs = true) : Good q p fl { s with pmu := m } :=
  ⟨{ h.toSound with ctrs := ht, cycles := hc }, h.pending, h.part, h.clock⟩

theorem ctrs_get {s : State} (h : ctrsOk s.pmu.ctrs = true) (k : Nat) : (ctrAt s k).count < 2 ^ 48 := by
  unfold ctrAt
  generalize s.pmu.ctrs = t at h
  unfold ctrsOk at h
  induction t with
  | nil => exact Nat.two_pow_pos 48
  | cons e t ih =>
    obtain ⟨j, v⟩ := e
    simp only [List.all_cons, Bool.and_eq_true, decide_eq_true_eq] at h
    unfold tabGet
    split
    · exact h.1
    · exact ih h.2

/-- A change of a programmable counter that leaves its count within 48 bits. -/
theorem modCtr_good {q : List Instr} {p : Bool} {fl : Option Nat} {s : State} {k : Nat} {f : Ctr → Ctr} (h : Good q p fl s)
    (hf : (ctrAt s k).count < 2 ^ 48 → (f (ctrAt s k)).count < 2 ^ 48) : Good q p fl (modCtr s k f) :=
  h.set_pmu (tabWf_mod _ _ h.ctrs) (all_tabSet h.cycles (decide_eq_true (hf (ctrs_get h.cycles k))))

theorem pmuIrq_good {q : List Instr} {p : Bool} {fl : Option Nat} {s : State} {sample : Bool} (h : Good q p fl s) :
    Good q p fl (pmuIrq s sample) := by
  unfold pmuIrq
  dsimp only
  have h1 : Good q p fl (emit { s with pmu := if sample then { s.pmu with irqSamp := true }
      else { s.pmu with irqOvf := true } } (.mcIrq (if sample then 0x4481 else 0x4480))) := by
    cases sample
    · exact emit_good (h.set_pmu h.ctrs h.cycles)
    · exact emit_good (h.set_pmu h.ctrs h.cycles)
  split
  · exact Good.ite h1 (msix_good h1)
  · exact h1

theorem countUp_good {q : List Instr} {p : Bool} {fl : Option Nat} {s : State} {k : Nat} (h : Good q p fl s) : Good q p fl (countUp s k) := by
  unfold countUp
  dsimp only
  split
  · rename_i hc
    exact modCtr_good h fun _ => hc
  · have h1 := modCtr_good (k := k) (f := fun c => { c with count := 0, ovf := true }) h fun _ => Nat.two_pow_pos 48
    exact Good.ite (pmuIrq_good h1) h1

theorem pmuEvent_good {q₀ : List Instr} {p₀ : Bool} {c₀ : Option Nat} {s : State} {kind inst code : Nat}
    (h₀ : Good q₀ p₀ c₀ s) :
    Good q₀ p₀ c₀ (pmuEvent s kind inst code) := by
  unfold pmuEvent
  try dsimp only
  with_reducible
    repeat' first
      | exact h₀ | assumption | intro _ | apply countUp_good | apply Good.ite | apply Good.foldl | dsimp only | split

theorem tickCtr_good {q : List Instr} {p : Bool} {fl : Option Nat} {ns : Nat} {s : State} {k : Nat} (h : Good q p fl s) :
    Good q p fl (tickCtr ns s k) := by
  unfold tickCtr
  dsimp only
  have h1 := fun n on => modCtr_good (k := k) (f := fun c => { c with
    count := (c.count + n) % 2 ^ 48, ovf := c.ovf || decide (2 ^ 48 ≤ c.count + n), last := on }) h
    fun _ => Nat.mod_lt _ (Nat.two_pow_pos 48)
  exact Good.ite (pmuIrq_good (h1 _ _)) (h1 _ _)

theorem tick_good {q₀ : List Instr} {p₀ : Bool} {c₀ : Option Nat} {s : State} {ns : Nat} (h₀ : Good q₀ p₀ c₀ s) :
    Good q₀ p₀ c₀ (tick s ns) := by
  unfold tick
  try dsimp only
  with_reducible
    repeat' first
      | exact h₀ | assumption | intro _ | apply tickCtr_good | apply Good.ite | apply Good.foldl
      | apply Good.foldl_fst | dsimp only | split | refine Good.upd ?_

theorem advanceBy_good {q₀ : List Instr} {p₀ : Bool} {c₀ : Option Nat} {s : State} {ns : Nat} (h₀ : Good q₀ p₀ c₀ s) :
    Good q₀ p₀ c₀ (advanceBy s ns) := by
  unfold advanceBy
  have h₁ := tick_good (ns := ns) h₀
  exact h₁.upd (hclock := fun _ n e => Nat.le_trans (h₀.clock n e) (Nat.le_add_right _ _))

theorem advanceTo_good {q₀ : List Instr} {p₀ : Bool} {c₀ : Option Nat} {s : State} {t : Nat} (h₀ : Good q₀ p₀ c₀ s) :
    Good q₀ p₀ c₀ (advanceTo s t) := by
  unfold advanceTo
  try dsimp only
  with_reducible
    repeat' first
      | exact h₀ | assumption | intro _ | apply advanceBy_good | dsimp only | split

theorem loseCounters_good {q : List Instr} {p : Bool} {fl : Option Nat} {s : State} {d : Nat} (h : Good q p fl s) :
    Good q p fl (loseCounters s d) := by
  unfold loseCounters; dsimp only
  refine Good.set_pmu h ?_ ?_
  · exact tabWf_filter (fun k _ => ctrDom (k / 1024) (k / 16 % 64) != d) h.ctrs
  · exact all_filter h.cycles

theorem stopDump_good {q₀ : List Instr} {p₀ : Bool} {c₀ : Option Nat} {s : State} {cause : Nat} (h₀ : Good q₀ p₀ c₀ s) :
    Good q₀ p₀ c₀ (stopDump s cause) := by
  unfold stopDump
  try dsimp only
  with_reducible
    repeat' first
      | exact h₀ | assumption | intro _ | apply logUncoded_good | dsimp only | split | refine Good.upd ?_

theorem dumpWindowLeft_good {q₀ : List Instr} {p₀ : Bool} {c₀ : Option Nat} {s : State} {w : Nat}
    (h₀ : Good q₀ p₀ c₀ s) :
    Good q₀ p₀ c₀ (dumpWindowLeft s w) := by
  unfold dumpWindowLeft
  try dsimp only
  with_reducible
    repeat' first
      | exact h₀ | assumption | intro _ | apply stopDump_good | apply Good.ite | dsimp only | split

end Sys2Proof.Machine
end

