-- ==== Sys2Proof/Laws/GoodRoute.lean ====
section
/-! SUPPORT. The operations of Machine/Route.lean keep the state good (`Good`). -/

set_option linter.unusedTactic false
set_option linter.unreachableTactic false

set_option Elab.async false

namespace Sys2Proof.Machine

open Sys2Proof

theorem absorbFlit_good {q₀ : List Instr} {p₀ : Bool} {c₀ : Option Nat} {s : State} {src dst : Nat}
    (h₀ : Good q₀ p₀ c₀ s) :
    Good q₀ p₀ c₀ (absorbFlit s src dst) := by
  unfold absorbFlit
  try dsimp only
  with_reducible
    repeat' first
      | exact h₀ | assumption | intro _ | apply bump_good | dsimp only | split

end Sys2Proof.Machine
end

