-- ==== Sys2Proof/Laws/GoodSpindleOps.lean ====
section
/-! SUPPORT. The operations of Machine/SpindleOps.lean keep the state good (`Good`). -/

set_option linter.unusedTactic false
set_option linter.unreachableTactic false

set_option Elab.async false

namespace Sys2Proof.Machine

open Sys2Proof

theorem askWake_good {q₀ : List Instr} {p₀ : Bool} {c₀ : Option Nat} {s : State} {d : Nat} (h₀ : Good q₀ p₀ c₀ s) :
    Good q₀ p₀ c₀ (askWake s d) := by
  unfold askWake
  try dsimp only
  with_reducible
    repeat' first
      | exact h₀ | assumption | intro _ | apply Good.ite | dsimp only | split | refine Good.upd ?_

theorem unIdle_good {q₀ : List Instr} {p₀ : Bool} {c₀ : Option Nat} {s : State} {d : Nat} (h₀ : Good q₀ p₀ c₀ s) :
    Good q₀ p₀ c₀ (unIdle s d) := by
  unfold unIdle
  try dsimp only
  with_reducible
    repeat' first
      | exact h₀ | assumption | intro _ | apply modDom_good | apply Good.ite | dsimp only | split | refine Good.upd ?_

theorem unIdleFabric_good {q₀ : List Instr} {p₀ : Bool} {c₀ : Option Nat} {s : State}  (h₀ : Good q₀ p₀ c₀ s) :
    Good q₀ p₀ c₀ (unIdleFabric s) := by
  unfold unIdleFabric
  try dsimp only
  with_reducible
    repeat' first
      | exact h₀ | assumption | intro _ | apply unIdle_good | apply Good.foldl | dsimp only | split

theorem holdFor_good {q₀ : List Instr} {p₀ : Bool} {c₀ : Option Nat} {s : State} {d : Nat} {row : Instr}
    (h₀ : Good q₀ p₀ c₀ s) :
    Good q₀ p₀ c₀ (holdFor s d row) := by
  unfold holdFor
  try dsimp only
  with_reducible
    repeat' first
      | exact h₀ | assumption | intro _ | apply askWake_good | dsimp only | split | refine Good.upd ?_

theorem fnGate_good {q₀ : List Instr} {p₀ : Bool} {c₀ : Option Nat} {s : State} {f : Fn} {row : Instr}
    {go : State → State} (h₀ : Good q₀ p₀ c₀ s) (hgo : ∀ t, Good q₀ p₀ c₀ t → Good q₀ p₀ c₀ (go t)) :
    Good q₀ p₀ c₀ (fnGate s f row go) := by
  unfold fnGate
  try dsimp only
  with_reducible
    repeat' first
      | exact h₀ | assumption | intro _ | apply hgo | apply holdFor_good | apply unIdle_good | apply Good.ite
      | dsimp only | split

theorem mcGate_good {q₀ : List Instr} {p₀ : Bool} {c₀ : Option Nat} {s : State} {row : Instr}
    {go : State → Host.Outcome State Fault Refusal} (h₀ : Good q₀ p₀ c₀ s)
    (hgo : ∀ t, Good q₀ p₀ c₀ t → GoodX q₀ p₀ c₀ (go t)) :
    GoodX q₀ p₀ c₀ (mcGate s row go) := by
  unfold mcGate
  try dsimp only
  with_reducible
    repeat' first
      | exact h₀ | assumption | intro _ | apply hgo | apply holdFor_good | apply unIdle_good | apply GoodX.next
      | apply GoodX.ite | apply Good.ite | dsimp only | split

theorem touchHome_good {q₀ : List Instr} {p₀ : Bool} {c₀ : Option Nat} {s : State} {r : Nat} (h₀ : Good q₀ p₀ c₀ s) :
    Good q₀ p₀ c₀ (touchHome s r) := by
  unfold touchHome
  try dsimp only
  with_reducible
    repeat' first
      | exact h₀ | assumption | intro _ | apply modSpn_good | apply Good.foldl | apply Good.foldl_fst | dsimp only
      | split | refine Good.upd ?_

theorem noteWait_good {q₀ : List Instr} {p₀ : Bool} {c₀ : Option Nat} {s : State} {r : Nat} (h₀ : Good q₀ p₀ c₀ s) :
    Good q₀ p₀ c₀ (noteWait s r) := by
  unfold noteWait
  try dsimp only
  with_reducible
    repeat' first
      | exact h₀ | assumption | intro _ | apply askWake_good | apply logEv_good | apply markMs_good | apply Good.ite
      | refine Good.of_pair (by assumption) ?_ | dsimp only | split | refine Good.upd ?_

theorem queueUnit_good {q₀ : List Instr} {p₀ : Bool} {c₀ : Option Nat} {s : State} {j : Job} {role qc slice : Nat}
    (h₀ : Good q₀ p₀ c₀ s) :
    Good q₀ p₀ c₀ (queueUnit s j role qc slice) := by
  unfold queueUnit
  try dsimp only
  with_reducible
    repeat' first
      | exact h₀ | assumption | intro _ | apply stampNext_good | apply noteWait_good | apply touchHome_good
      | dsimp only | split | refine Good.upd ?_

theorem placeUnit_good {q₀ : List Instr} {p₀ : Bool} {c₀ : Option Nat} {s : State} {n : Nat} {u : Unit_}
    (h₀ : Good q₀ p₀ c₀ s) :
    Good q₀ p₀ c₀ (placeUnit s n u) := by
  unfold placeUnit
  try dsimp only
  with_reducible
    repeat' first
      | exact h₀ | assumption | intro _ | apply unIdle_good | apply modSpn_good | apply pmuEvent_good | apply Good.ite
      | refine Good.of_pair (by assumption) ?_ | dsimp only | split

theorem settleSpn_good {q₀ : List Instr} {p₀ : Bool} {c₀ : Option Nat} {s : State} {n : Nat} (h₀ : Good q₀ p₀ c₀ s) :
    Good q₀ p₀ c₀ (settleSpn s n) := by
  unfold settleSpn
  try dsimp only
  with_reducible
    repeat' first
      | exact h₀ | assumption | intro _ | apply tellIsland_good | apply modSpn_good | apply Good.ite
      | refine Good.of_pair (by assumption) ?_ | dsimp only | split | refine Good.upd ?_

theorem leaveSlot_good {q₀ : List Instr} {p₀ : Bool} {c₀ : Option Nat} {s : State} {j : Job} {completed : Bool}
    (h₀ : Good q₀ p₀ c₀ s) :
    Good q₀ p₀ c₀ (leaveSlot s j completed) := by
  unfold leaveSlot
  try dsimp only
  with_reducible
    repeat' first
      | exact h₀ | assumption | intro _ | apply modSpn_good | apply bump_good | apply settleSpn_good | apply Good.ite
      | refine Good.of_pair (by assumption) ?_ | dsimp only | split | refine Good.upd ?_

theorem countSteps_good {q₀ : List Instr} {p₀ : Bool} {c₀ : Option Nat} {s : State} {j : Job} {k : Nat}
    (h₀ : Good q₀ p₀ c₀ s) :
    Good q₀ p₀ c₀ (countSteps s j k) := by
  unfold countSteps
  try dsimp only
  with_reducible
    repeat' first
      | exact h₀ | assumption | intro _ | apply bumpBy_good | apply pmuEvent_good | apply Good.ite | apply Good.foldl
      | refine Good.of_pair (by assumption) ?_ | dsimp only | split

theorem dropJobs_good {q₀ : List Instr} {p₀ : Bool} {c₀ : Option Nat} {s : State} {p : Job → Bool}
    (h₀ : Good q₀ p₀ c₀ s) :
    Good q₀ p₀ c₀ (dropJobs s p) := by
  unfold dropJobs
  try dsimp only
  with_reducible
    repeat' first
      | exact h₀ | assumption | intro _ | apply touchHome_good | apply leaveSlot_good | apply Good.foldl | dsimp only
      | split | refine Good.upd ?_

end Sys2Proof.Machine
end

