-- ==== Sys2Proof/Laws/GoodBudget.lean ====
section
/-! SUPPORT. The operations of Machine/Budget.lean keep the state good (`Good`). -/

set_option linter.unusedTactic false
set_option linter.unreachableTactic false

set_option Elab.async false

namespace Sys2Proof.Machine

open Sys2Proof

theorem spendBudget_good {q₀ : List Instr} {p₀ : Bool} {c₀ : Option Nat} {s : State} {k c n : Nat}
    (h₀ : Good q₀ p₀ c₀ s) :
    Good q₀ p₀ c₀ (spendBudget s k c n) := by
  unfold spendBudget
  try dsimp only
  with_reducible
    repeat' first
      | exact h₀ | assumption | intro _ | apply logEv_good | apply markMs_good | apply Good.ite | dsimp only | split
      | refine Good.updAll ?_ | refine Good.upd ?_

theorem rescale_good {q₀ : List Instr} {p₀ : Bool} {c₀ : Option Nat} {s : State}  (h₀ : Good q₀ p₀ c₀ s) :
    Good q₀ p₀ c₀ (rescale s) := by
  unfold rescale
  try dsimp only
  with_reducible
    repeat' first
      | exact h₀ | assumption | intro _ | apply bump_good | apply logEv_good | apply Good.ite | dsimp only | split
      | refine Good.updAll ?_ | refine Good.upd ?_

end Sys2Proof.Machine
end

