-- ==== Sys2Proof/Laws/GoodDram.lean ====
section
/-! SUPPORT. The operations of Machine/Dram.lean keep the state good (`Good`). -/

set_option linter.unusedTactic false
set_option linter.unreachableTactic false

set_option Elab.async false

namespace Sys2Proof.Machine

open Sys2Proof

theorem impose_good {q₀ : List Instr} {p₀ : Bool} {c₀ : Option Nat} {s : State} {c g bankNo : Nat}
    {who : Nat × Nat} (h₀ : Good q₀ p₀ c₀ s) :
    Good q₀ p₀ c₀ (impose s c g bankNo who) := by
  unfold impose
  try dsimp only
  with_reducible
    repeat' first
      | exact h₀ | assumption | intro _ | apply bump_good | apply modCh_good | apply logEvFor_good | apply markMs_good
      | apply Good.ite | dsimp only | split | refine Good.upd ?_

theorem activate_good {q₀ : List Instr} {p₀ : Bool} {c₀ : Option Nat} {s : State} {g : Geo} {who : Nat × Nat}
    (h₀ : Good q₀ p₀ c₀ s) :
    Good q₀ p₀ c₀ (activate s g who) := by
  unfold activate
  try dsimp only
  with_reducible
    repeat' first
      | exact h₀ | assumption | intro _ | apply pmuEvent_good | apply modCh_good | apply impose_good | apply Good.ite
      | dsimp only | split | refine Good.upd ?_

theorem casLine_good {q₀ : List Instr} {p₀ : Bool} {c₀ : Option Nat} {s : State} {line : Nat} {write : Bool}
    {qc seat : Nat} (h₀ : Good q₀ p₀ c₀ s) :
    Good q₀ p₀ c₀ (casLine s line write qc seat) := by
  unfold casLine
  try dsimp only
  with_reducible
    repeat' first
      | exact h₀ | assumption | intro _ | apply unIdle_good | apply unIdleFabric_good | apply activate_good
      | apply spendBudget_good | apply pmuEvent_good | apply Good.ite | refine Good.of_pair (by assumption) ?_
      | dsimp only | split

theorem casLines_good {q₀ : List Instr} {p₀ : Bool} {c₀ : Option Nat} {s : State} {lines : List Nat} {write : Bool}
    {qc seat : Nat} (h₀ : Good q₀ p₀ c₀ s) :
    Good q₀ p₀ c₀ (casLines s lines write qc seat) := by
  unfold casLines
  try dsimp only
  with_reducible
    repeat' first
      | exact h₀ | assumption | intro _ | apply casLine_good | apply Good.foldl | dsimp only | split

theorem plAdd_good {q₀ : List Instr} {p₀ : Bool} {c₀ : Option Nat} {s : State} {dla len src : Nat}
    (h₀ : Good q₀ p₀ c₀ s) :
    Good q₀ p₀ c₀ (plAdd s dla len src) := by
  unfold plAdd
  try dsimp only
  with_reducible
    repeat' first
      | exact h₀ | assumption | intro _ | apply Good.ite | dsimp only | split | refine Good.upd ?_

theorem plDropRange_good {q₀ : List Instr} {p₀ : Bool} {c₀ : Option Nat} {s : State} {dla len : Nat}
    (h₀ : Good q₀ p₀ c₀ s) :
    Good q₀ p₀ c₀ (plDropRange s dla len) := by
  unfold plDropRange
  try dsimp only
  with_reducible
    repeat' first
      | exact h₀ | assumption | intro _ | dsimp only | split | refine Good.upd ?_

theorem bucketOverflow_good {q₀ : List Instr} {p₀ : Bool} {c₀ : Option Nat} {s : State} {c : Nat}
    (h₀ : Good q₀ p₀ c₀ s) :
    Good q₀ p₀ c₀ (bucketOverflow s c) := by
  unfold bucketOverflow
  try dsimp only
  with_reducible
    repeat' first
      | exact h₀ | assumption | intro _ | apply modCh_good | apply bump_good | apply emit_good | apply logEvFor_good
      | apply Good.ite | refine Good.of_pair (by assumption) ?_ | dsimp only | split | refine Good.upd ?_

theorem bucketUp_good {q₀ : List Instr} {p₀ : Bool} {c₀ : Option Nat} {s : State} {c : Nat} (h₀ : Good q₀ p₀ c₀ s) :
    Good q₀ p₀ c₀ (bucketUp s c) := by
  unfold bucketUp
  try dsimp only
  with_reducible
    repeat' first
      | exact h₀ | assumption | intro _ | apply bucketOverflow_good | apply modCh_good | apply Good.ite | dsimp only
      | split | refine Good.upd ?_

theorem noteCorrected_good {q₀ : List Instr} {p₀ : Bool} {c₀ : Option Nat} {s : State} {line dev : Nat}
    {syms : List Nat} {poison : Bool} (h₀ : Good q₀ p₀ c₀ s) :
    Good q₀ p₀ c₀ (noteCorrected s line dev syms poison) := by
  unfold noteCorrected
  try dsimp only
  with_reducible
    repeat' first
      | exact h₀ | assumption | intro _ | apply bump_good | apply modCh_good | apply bucketUp_good | apply Good.ite
      | refine Good.of_pair (by assumption) ?_ | dsimp only | split

theorem noteUncorrectable_good {q₀ : List Instr} {p₀ : Bool} {c₀ : Option Nat} {s : State} {line : Nat}
    {dla : Option Nat} (h₀ : Good q₀ p₀ c₀ s) :
    Good q₀ p₀ c₀ (noteUncorrectable s line dla) := by
  unfold noteUncorrectable
  try dsimp only
  with_reducible
    repeat' first
      | exact h₀ | assumption | intro _ | apply bump_good | apply logEv_good | apply markMs_good | apply plAdd_good
      | apply Good.ite | refine Good.of_pair (by assumption) ?_ | dsimp only | split

theorem demandRead_good {q₀ : List Instr} {p₀ : Bool} {c₀ : Option Nat} {s : State} {line : Nat}
    {st : Option Stored} {noise : List Byte} {key gen : Nat} {dla : Option Nat} (h₀ : Good q₀ p₀ c₀ s) :
    Good q₀ p₀ c₀ (demandRead s line st noise key gen dla).1 := by
  unfold demandRead
  try dsimp only
  with_reducible
    repeat' first
      | exact h₀ | assumption | intro _ | apply noteCorrected_good | apply noteUncorrectable_good
      | refine Good.of_pair (by assumption) ?_ | dsimp only | split

theorem noteWritten_good {q₀ : List Instr} {p₀ : Bool} {c₀ : Option Nat} {s : State} {line : Nat}
    (h₀ : Good q₀ p₀ c₀ s) :
    Good q₀ p₀ c₀ (noteWritten s line) := by
  unfold noteWritten
  try dsimp only
  with_reducible
    repeat' first
      | exact h₀ | assumption | intro _ | apply Good.ite | refine Good.of_pair (by assumption) ?_ | dsimp only | split
      | refine Good.upd ?_

theorem injected_good {q₀ : List Instr} {p₀ : Bool} {c₀ : Option Nat} {s : State} {c : Nat} (h₀ : Good q₀ p₀ c₀ s) :
    Good q₀ p₀ c₀ (injected s c) := by
  unfold injected
  try dsimp only
  with_reducible
    repeat' first
      | exact h₀ | assumption | intro _ | apply setReg_good | apply Good.ite | dsimp only | split

theorem writeLine_good {q₀ : List Instr} {p₀ : Bool} {c₀ : Option Nat} {s : State} {line key gen : Nat}
    {data : List Byte} (h₀ : Good q₀ p₀ c₀ s) :
    Good q₀ p₀ c₀ (writeLine s line key gen data) := by
  unfold writeLine
  try dsimp only
  with_reducible
    repeat' first
      | exact h₀ | assumption | intro _ | apply injected_good | apply modDram_good | apply noteWritten_good
      | dsimp only | split

theorem writePoison_good {q₀ : List Instr} {p₀ : Bool} {c₀ : Option Nat} {s : State} {line : Nat}
    (h₀ : Good q₀ p₀ c₀ s) :
    Good q₀ p₀ c₀ (writePoison s line) := by
  unfold writePoison
  try dsimp only
  with_reducible
    repeat' first
      | exact h₀ | assumption | intro _ | apply modDram_good | apply noteWritten_good | dsimp only | split

end Sys2Proof.Machine
end

