-- ==== Sys2Proof/Laws/GoodSkeinTab.lean ====
section
/-! SUPPORT. The operations of Machine/SkeinTab.lean keep the state good (`Good`). -/

set_option linter.unusedTactic false
set_option linter.unreachableTactic false

set_option Elab.async false

namespace Sys2Proof.Machine

open Sys2Proof

theorem modHank_good {q₀ : List Instr} {p₀ : Bool} {c₀ : Option Nat} {s : State} {w off : Nat} {f : Hank → Hank}
    (h₀ : Good q₀ p₀ c₀ s) :
    Good q₀ p₀ c₀ (modHank s w off f) := by
  unfold modHank
  try dsimp only
  with_reducible
    repeat' first
      | exact h₀ | assumption | intro _ | apply modHankRaw_good | apply Good.ite | dsimp only | split

theorem writeThrough_good {q₀ : List Instr} {p₀ : Bool} {c₀ : Option Nat} {s : State} {w off : Nat}
    {page : Option Nat} (h₀ : Good q₀ p₀ c₀ s) :
    Good q₀ p₀ c₀ (writeThrough s w off page) := by
  unfold writeThrough
  try dsimp only
  with_reducible
    repeat' first
      | exact h₀ | assumption | intro _ | apply writeLine_good | refine Good.of_pair (by assumption) ?_ | dsimp only
      | split

theorem putHank_good {q₀ : List Instr} {p₀ : Bool} {c₀ : Option Nat} {s : State} {w off : Nat} {f : Hank → Hank}
    (h₀ : Good q₀ p₀ c₀ s) :
    Good q₀ p₀ c₀ (putHank s w off f) := by
  unfold putHank
  try dsimp only
  with_reducible
    repeat' first
      | exact h₀ | assumption | intro _ | apply writeThrough_good | apply modHank_good | dsimp only | split

theorem putEntry_good {q₀ : List Instr} {p₀ : Bool} {c₀ : Option Nat} {s : State} {w off pg : Nat}
    {f : Page → Page} (h₀ : Good q₀ p₀ c₀ s) :
    Good q₀ p₀ c₀ (putEntry s w off pg f) := by
  unfold putEntry
  try dsimp only
  with_reducible
    repeat' first
      | exact h₀ | assumption | intro _ | apply writeThrough_good | apply modPage_good | dsimp only | split

theorem evictKey_good {q₀ : List Instr} {p₀ : Bool} {c₀ : Option Nat} {s : State} {k : Nat} (h₀ : Good q₀ p₀ c₀ s) :
    Good q₀ p₀ c₀ (evictKey s k) := by
  unfold evictKey
  try dsimp only
  with_reducible
    repeat' first
      | exact h₀ | assumption | intro _ | apply modPage_good | apply writeThrough_good | apply modCached_good
      | refine Good.of_pair (by assumption) ?_ | dsimp only | split | refine Good.upd ?_

theorem cachePut_good {q₀ : List Instr} {p₀ : Bool} {c₀ : Option Nat} {s : State} {k : Nat} (h₀ : Good q₀ p₀ c₀ s) :
    Good q₀ p₀ c₀ (cachePut s k) := by
  unfold cachePut
  try dsimp only
  with_reducible
    repeat' first
      | exact h₀ | assumption | intro _ | apply evictKey_good | apply nextFree_good | apply modCached_good
      | apply Good.ite | dsimp only | split

theorem cachePage_good {q₀ : List Instr} {p₀ : Bool} {c₀ : Option Nat} {s : State} {w off pg : Nat}
    (h₀ : Good q₀ p₀ c₀ s) :
    Good q₀ p₀ c₀ (cachePage s w off pg) := by
  unfold cachePage
  try dsimp only
  with_reducible
    repeat' first
      | exact h₀ | assumption | intro _ | apply cachePut_good | dsimp only | split

theorem putPage_good {q₀ : List Instr} {p₀ : Bool} {c₀ : Option Nat} {s : State} {w off pg : Nat} {p : Page}
    (h₀ : Good q₀ p₀ c₀ s) :
    Good q₀ p₀ c₀ (putPage s w off pg p) := by
  unfold putPage
  try dsimp only
  with_reducible
    repeat' first
      | exact h₀ | assumption | intro _ | apply putEntry_good | apply putHank_good | dsimp only | split

theorem writeBlock_good {q₀ : List Instr} {p₀ : Bool} {c₀ : Option Nat} {s : State} {w off : Nat}
    (h₀ : Good q₀ p₀ c₀ s) :
    Good q₀ p₀ c₀ (writeBlock s w off) := by
  unfold writeBlock
  try dsimp only
  with_reducible
    repeat' first
      | exact h₀ | assumption | intro _ | apply writeThrough_good | apply Good.foldl | dsimp only | split

theorem makePaged_good {q₀ : List Instr} {p₀ : Bool} {c₀ : Option Nat} {s : State} {w off : Nat}
    (h₀ : Good q₀ p₀ c₀ s) :
    Good q₀ p₀ c₀ (makePaged s w off) := by
  unfold makePaged
  try dsimp only
  with_reducible
    repeat' first
      | exact h₀ | assumption | intro _ | apply modHank_good | apply writeThrough_good | apply writeBlock_good
      | apply Good.ite | dsimp only | split | refine Good.upd ?_

theorem directToPaged_good {q₀ : List Instr} {p₀ : Bool} {c₀ : Option Nat} {s : State} {w off : Nat}
    (h₀ : Good q₀ p₀ c₀ s) :
    Good q₀ p₀ c₀ (directToPaged s w off) := by
  unfold directToPaged
  try dsimp only
  with_reducible
    repeat' first
      | exact h₀ | assumption | intro _ | apply modPage_good | apply modHank_good | apply writeThrough_good
      | apply writeBlock_good | apply Good.ite | apply Good.foldl | dsimp only | split | refine Good.upd ?_

theorem tryDirect_good {q₀ : List Instr} {p₀ : Bool} {c₀ : Option Nat} {s : State} {w off : Nat}
    (h₀ : Good q₀ p₀ c₀ s) :
    Good q₀ p₀ c₀ (tryDirect s w off) := by
  unfold tryDirect
  try dsimp only
  with_reducible
    repeat' first
      | exact h₀ | assumption | intro _ | apply modPage_good | apply cachePut_good | apply putHank_good
      | apply Good.ite | apply Good.foldl | refine Good.of_pair (by assumption) ?_ | dsimp only | split
      | refine Good.upd ?_

theorem writeTouch_good {q₀ : List Instr} {p₀ : Bool} {c₀ : Option Nat} {s : State} {w off pg : Nat}
    (h₀ : Good q₀ p₀ c₀ s) :
    Good q₀ p₀ c₀ (writeTouch s w off pg) := by
  unfold writeTouch
  try dsimp only
  with_reducible
    repeat' first
      | exact h₀ | assumption | intro _ | apply putEntry_good | apply dropJobs_good | apply tryDirect_good
      | apply bump_good | apply Good.ite | dsimp only | split | refine Good.upd ?_

theorem touchDla_good {q₀ : List Instr} {p₀ : Bool} {c₀ : Option Nat} {s : State} {dla : Nat} (h₀ : Good q₀ p₀ c₀ s) :
    Good q₀ p₀ c₀ (touchDla s dla) := by
  unfold touchDla
  try dsimp only
  with_reducible
    repeat' first
      | exact h₀ | assumption | intro _ | apply writeTouch_good | refine Good.of_pair (by assumption) ?_ | dsimp only
      | split

end Sys2Proof.Machine
end

