-- ==== Sys2Proof/Laws/GoodMerge.lean ====
section
/-! SUPPORT. The operations of Machine/Merge.lean keep the state good (`Good`). -/

set_option linter.unusedTactic false
set_option linter.unreachableTactic false

set_option Elab.async false

namespace Sys2Proof.Machine

open Sys2Proof

theorem dropMerge_good {q₀ : List Instr} {p₀ : Bool} {c₀ : Option Nat} {s : State} {c line : Nat}
    (h₀ : Good q₀ p₀ c₀ s) :
    Good q₀ p₀ c₀ (dropMerge s c line) := by
  unfold dropMerge
  try dsimp only
  with_reducible
    repeat' first
      | exact h₀ | assumption | intro _ | apply modCh_good | dsimp only | split | refine Good.upd ?_

theorem flushEntry_good {q₀ : List Instr} {p₀ : Bool} {c₀ : Option Nat} {s : State} {c : Nat} {e : Merge}
    {noise : List Byte} (h₀ : Good q₀ p₀ c₀ s) :
    Good q₀ p₀ c₀ (flushEntry s c e noise) := by
  unfold flushEntry
  try dsimp only
  with_reducible
    repeat' first
      | exact h₀ | assumption | intro _ | apply touchDla_good | apply dropMerge_good | apply writeLine_good
      | apply casLine_good | apply bump_good | apply demandRead_good | apply writePoison_good | apply Good.ite_fst
      | apply Good.ite | refine Good.of_pair (by assumption) ?_ | dsimp only | split

theorem flushLine_good {q₀ : List Instr} {p₀ : Bool} {c₀ : Option Nat} {s : State} {line : Nat} {noise : List Byte}
    (h₀ : Good q₀ p₀ c₀ s) :
    Good q₀ p₀ c₀ (flushLine s line noise) := by
  unfold flushLine
  try dsimp only
  with_reducible
    repeat' first
      | exact h₀ | assumption | intro _ | apply flushEntry_good | refine Good.of_pair (by assumption) ?_ | dsimp only
      | split

theorem flushAll_good {q₀ : List Instr} {p₀ : Bool} {c₀ : Option Nat} {s : State} {c : Nat} (h₀ : Good q₀ p₀ c₀ s) :
    Good q₀ p₀ c₀ (flushAll s c) := by
  unfold flushAll
  try dsimp only
  with_reducible
    repeat' first
      | exact h₀ | assumption | intro _ | apply flushEntry_good | apply Good.foldl | dsimp only | split

theorem mergePut_good {q₀ : List Instr} {p₀ : Bool} {c₀ : Option Nat} {s : State} {e : Merge} (h₀ : Good q₀ p₀ c₀ s) :
    Good q₀ p₀ c₀ (mergePut s e) := by
  unfold mergePut
  try dsimp only
  with_reducible
    repeat' first
      | exact h₀ | assumption | intro _ | apply noteWritten_good | apply flushEntry_good | apply modCh_good
      | apply writeLine_good | apply casLine_good | apply Good.ite | refine Good.of_pair (by assumption) ?_
      | dsimp only | split | refine Good.upd ?_

theorem fullWrite_good {q₀ : List Instr} {p₀ : Bool} {c₀ : Option Nat} {s : State} {line key gen : Nat}
    {data : List Byte} (h₀ : Good q₀ p₀ c₀ s) :
    Good q₀ p₀ c₀ (fullWrite s line key gen data) := by
  unfold fullWrite
  try dsimp only
  with_reducible
    repeat' first
      | exact h₀ | assumption | intro _ | apply writeLine_good | apply dropMerge_good | dsimp only | split

theorem poisonLine_good {q₀ : List Instr} {p₀ : Bool} {c₀ : Option Nat} {s : State} {line : Nat}
    (h₀ : Good q₀ p₀ c₀ s) :
    Good q₀ p₀ c₀ (poisonLine s line) := by
  unfold poisonLine
  try dsimp only
  with_reducible
    repeat' first
      | exact h₀ | assumption | intro _ | apply writePoison_good | apply dropMerge_good | dsimp only | split

end Sys2Proof.Machine
end

