-- ==== Sys2Proof/Laws/GoodSkein.lean ====
section
/-! SUPPORT. The operations of Machine/Skein.lean keep the state good (`Good`). -/

set_option linter.unusedTactic false
set_option linter.unreachableTactic false

set_option Elab.async false

namespace Sys2Proof.Machine

open Sys2Proof

theorem amberRequests_good {q₀ : List Instr} {p₀ : Bool} {c₀ : Option Nat} {s : State}  (h₀ : Good q₀ p₀ c₀ s) :
    Good q₀ p₀ c₀ (amberRequests s) := by
  unfold amberRequests
  try dsimp only
  with_reducible
    repeat' first
      | exact h₀ | assumption | intro _ | apply emit_good | apply Good.foldl | refine Good.of_pair (by assumption) ?_
      | dsimp only | split

theorem evalLevel_good {q₀ : List Instr} {p₀ : Bool} {c₀ : Option Nat} {s : State}  (h₀ : Good q₀ p₀ c₀ s) :
    Good q₀ p₀ c₀ (evalLevel s) := by
  unfold evalLevel
  try dsimp only
  with_reducible
    repeat' first
      | exact h₀ | assumption | intro _ | apply logEvFor_good | apply emit_good | apply amberRequests_good
      | apply Good.ite | apply Good.foldl | dsimp only | split | refine Good.upd ?_

theorem openHank_good {q₀ : List Instr} {p₀ : Bool} {c₀ : Option Nat} {s : State} {u : HankUse} (h₀ : Good q₀ p₀ c₀ s) :
    Good q₀ p₀ c₀ (openHank s u).1 := by
  unfold openHank
  try dsimp only
  with_reducible
    repeat' first
      | exact h₀ | assumption | intro _ | apply modUsed_good | dsimp only | split

theorem allocFrame_good {q₀ : List Instr} {p₀ : Bool} {c₀ : Option Nat} {s : State}  (h₀ : Good q₀ p₀ c₀ s) :
    Good q₀ p₀ c₀ (allocFrame s).1 := by
  unfold allocFrame
  try dsimp only
  with_reducible
    repeat' first
      | exact h₀ | assumption | intro _ | apply evalLevel_good | apply modUsed_good | apply openHank_good
      | apply Good.ite_fst | apply Good.ite | refine Good.of_pair (by assumption) ?_ | dsimp only | split

theorem allocRun_good {q₀ : List Instr} {p₀ : Bool} {c₀ : Option Nat} {s : State} {k : Nat} (h₀ : Good q₀ p₀ c₀ s) :
    Good q₀ p₀ c₀ (allocRun s k).1 := by
  unfold allocRun
  try dsimp only
  with_reducible
    repeat' first
      | exact h₀ | assumption | intro _ | apply evalLevel_good | apply modUsed_good | apply openHank_good
      | apply Good.ite_fst | apply Good.ite | refine Good.of_pair (by assumption) ?_ | dsimp only | split
      | refine Good.upd ?_

theorem hankFreed_good {q₀ : List Instr} {p₀ : Bool} {c₀ : Option Nat} {s : State} {h : Nat} {u : HankUse}
    (h₀ : Good q₀ p₀ c₀ s) :
    Good q₀ p₀ c₀ (hankFreed s h u) := by
  unfold hankFreed
  try dsimp only
  with_reducible
    repeat' first
      | exact h₀ | assumption | intro _ | apply modUsed_good | apply evalLevel_good | apply Good.ite
      | refine Good.of_pair (by assumption) ?_ | dsimp only | split | refine Good.upd ?_

theorem freeFrame_good {q₀ : List Instr} {p₀ : Bool} {c₀ : Option Nat} {s : State} {frame : Nat}
    (h₀ : Good q₀ p₀ c₀ s) :
    Good q₀ p₀ c₀ (freeFrame s frame) := by
  unfold freeFrame
  try dsimp only
  with_reducible
    repeat' first
      | exact h₀ | assumption | intro _ | apply hankFreed_good | refine Good.of_pair (by assumption) ?_ | dsimp only
      | split

theorem freeRun_good {q₀ : List Instr} {p₀ : Bool} {c₀ : Option Nat} {s : State} {granule : Nat}
    (h₀ : Good q₀ p₀ c₀ s) :
    Good q₀ p₀ c₀ (freeRun s granule) := by
  unfold freeRun
  try dsimp only
  with_reducible
    repeat' first
      | exact h₀ | assumption | intro _ | apply hankFreed_good | refine Good.of_pair (by assumption) ?_ | dsimp only
      | split

theorem zeroFrame_good {q₀ : List Instr} {p₀ : Bool} {c₀ : Option Nat} {s : State} {frame key gen qc : Nat}
    (h₀ : Good q₀ p₀ c₀ s) :
    Good q₀ p₀ c₀ (zeroFrame s frame key gen qc) := by
  unfold zeroFrame
  try dsimp only
  with_reducible
    repeat' first
      | exact h₀ | assumption | intro _ | apply fullWrite_good | apply casLine_good | apply Good.foldl | dsimp only
      | split

theorem mapHotZero_good {q₀ : List Instr} {p₀ : Bool} {c₀ : Option Nat} {s : State} {w off pg frame qc : Nat}
    (h₀ : Good q₀ p₀ c₀ s) :
    Good q₀ p₀ c₀ (mapHotZero s w off pg frame qc) := by
  unfold mapHotZero
  try dsimp only
  with_reducible
    repeat' first
      | exact h₀ | assumption | intro _ | apply zeroFrame_good | apply makePaged_good | apply putPage_good
      | apply putHank_good | apply tryDirect_good | apply cachePage_good | dsimp only | split | refine Good.upd ?_

theorem countLook_good {q₀ : List Instr} {p₀ : Bool} {c₀ : Option Nat} {s : State} {dla : Nat} {hit : Bool}
    (h₀ : Good q₀ p₀ c₀ s) :
    Good q₀ p₀ c₀ (countLook s dla hit) := by
  unfold countLook
  try dsimp only
  with_reducible
    repeat' first
      | exact h₀ | assumption | intro _ | apply unIdle_good | apply pmuEvent_good | apply bump_good | apply Good.ite
      | dsimp only | split

theorem loseRange_good {q₀ : List Instr} {p₀ : Bool} {c₀ : Option Nat} {s : State} {w off : Nat}
    {page : Option Nat} (h₀ : Good q₀ p₀ c₀ s) :
    Good q₀ p₀ c₀ (loseRange s w off page) := by
  unfold loseRange
  try dsimp only
  with_reducible
    repeat' first
      | exact h₀ | assumption | intro _ | apply logEvFor_good | apply Good.ite
      | refine Good.of_pair (by assumption) ?_ | dsimp only | split | refine Good.upd ?_

theorem fetchKey_good {q₀ : List Instr} {p₀ : Bool} {c₀ : Option Nat} {s : State} {w off : Nat} {page : Option Nat}
    {bad : Bool} (h₀ : Good q₀ p₀ c₀ s) :
    Good q₀ p₀ c₀ (fetchKey s w off page bad) := by
  unfold fetchKey
  try dsimp only
  with_reducible
    repeat' first
      | exact h₀ | assumption | intro _ | apply demandRead_good | apply casLine_good | apply cachePut_good
      | apply loseRange_good | apply Good.ite_fst | apply Good.ite | refine Good.of_pair (by assumption) ?_
      | dsimp only | split

theorem agentFetch_good {q₀ : List Instr} {p₀ : Bool} {c₀ : Option Nat} {s : State} {w dla : Nat}
    (h₀ : Good q₀ p₀ c₀ s) :
    Good q₀ p₀ c₀ (agentFetch s w dla) := by
  unfold agentFetch
  try dsimp only
  with_reducible
    repeat' first
      | exact h₀ | assumption | intro _ | apply fetchKey_good | apply Good.ite | dsimp only | split

theorem agentLook_good {q₀ : List Instr} {p₀ : Bool} {c₀ : Option Nat} {s : State} {w dla : Nat}
    (h₀ : Good q₀ p₀ c₀ s) :
    Good q₀ p₀ c₀ (agentLook s w dla).1 := by
  unfold agentLook
  try dsimp only
  with_reducible
    repeat' first
      | exact h₀ | assumption | intro _ | apply agentFetch_good | apply countLook_good | apply Good.ite_fst
      | apply Good.ite | refine Good.of_pair (by assumption) ?_ | dsimp only | split

theorem cdatSeat_good {q₀ : List Instr} {p₀ : Bool} {c₀ : Option Nat} {s : State} {seat : Nat} (h₀ : Good q₀ p₀ c₀ s) :
    Good q₀ p₀ c₀ (cdatSeat s seat) := by
  unfold cdatSeat
  try dsimp only
  with_reducible
    repeat' first
      | exact h₀ | assumption | intro _ | apply modFn_good | apply Good.foldl | dsimp only | split
      | refine Good.upd ?_

theorem cdatChange_good {q₀ : List Instr} {p₀ : Bool} {c₀ : Option Nat} {s : State} {w : Nat} (h₀ : Good q₀ p₀ c₀ s) :
    Good q₀ p₀ c₀ (cdatChange s w) := by
  unfold cdatChange
  try dsimp only
  with_reducible
    repeat' first
      | exact h₀ | assumption | intro _ | apply cdatSeat_good | apply Good.foldl | dsimp only | split

theorem sampleHeat_good {q₀ : List Instr} {p₀ : Bool} {c₀ : Option Nat} {s : State} {w dla : Nat}
    (h₀ : Good q₀ p₀ c₀ s) :
    Good q₀ p₀ c₀ (sampleHeat s w dla) := by
  unfold sampleHeat
  try dsimp only
  with_reducible
    repeat' first
      | exact h₀ | assumption | intro _ | apply modAcc_good | apply modHank_good | apply Good.ite | dsimp only | split
      | refine Good.upd ?_

theorem cancelMove_good {q₀ : List Instr} {p₀ : Bool} {c₀ : Option Nat} {s : State} {pk : Nat} (h₀ : Good q₀ p₀ c₀ s) :
    Good q₀ p₀ c₀ (cancelMove s pk) := by
  unfold cancelMove
  try dsimp only
  with_reducible
    repeat' first
      | exact h₀ | assumption | intro _ | apply freeRun_good | apply freeFrame_good | apply dropJobs_good
      | apply Good.ite | apply Good.foldl | dsimp only | split | refine Good.upd ?_

theorem queuePromo_good {q₀ : List Instr} {p₀ : Bool} {c₀ : Option Nat} {s : State} {w off pg : Nat}
    {why : Trigger} (h₀ : Good q₀ p₀ c₀ s) :
    Good q₀ p₀ c₀ (queuePromo s w off pg why) := by
  unfold queuePromo
  try dsimp only
  with_reducible
    repeat' first
      | exact h₀ | assumption | intro _ | apply putEntry_good | apply cancelMove_good | apply queueUnit_good
      | refine Good.of_pair (by assumption) ?_ | dsimp only | split | refine Good.upd ?_

theorem readTrigger_good {q₀ : List Instr} {p₀ : Bool} {c₀ : Option Nat} {s : State} {w off pg : Nat}
    (h₀ : Good q₀ p₀ c₀ s) :
    Good q₀ p₀ c₀ (readTrigger s w off pg) := by
  unfold readTrigger
  try dsimp only
  with_reducible
    repeat' first
      | exact h₀ | assumption | intro _ | apply modPage_good | apply queuePromo_good | apply Good.ite | dsimp only
      | split | refine Good.upd ?_

theorem poisonSegment_good {q₀ : List Instr} {p₀ : Bool} {c₀ : Option Nat} {s : State} {w dla : Nat}
    (h₀ : Good q₀ p₀ c₀ s) :
    Good q₀ p₀ c₀ (poisonSegment s w dla) := by
  unfold poisonSegment
  try dsimp only
  with_reducible
    repeat' first
      | exact h₀ | assumption | intro _ | apply makePaged_good | apply cachePage_good | apply putPage_good
      | apply Good.ite | dsimp only | split | refine Good.upd ?_

theorem blackWrite_good {q₀ : List Instr} {p₀ : Bool} {c₀ : Option Nat} {s : State} {w dla : Nat}
    (h₀ : Good q₀ p₀ c₀ s) :
    Good q₀ p₀ c₀ (blackWrite s w dla) := by
  unfold blackWrite
  try dsimp only
  with_reducible
    repeat' first
      | exact h₀ | assumption | intro _ | apply bump_good | apply poisonSegment_good | apply plAdd_good
      | apply logEvFor_good | apply Good.ite | dsimp only | split | refine Good.upd ?_

theorem writeTarget_good {q₀ : List Instr} {p₀ : Bool} {c₀ : Option Nat} {s : State} {w dla qc : Nat}
    (h₀ : Good q₀ p₀ c₀ s) :
    Good q₀ p₀ c₀ (writeTarget s w dla qc).1 := by
  unfold writeTarget
  try dsimp only
  with_reducible
    repeat' first
      | exact h₀ | assumption | intro _ | apply writeTouch_good | apply blackWrite_good | apply queuePromo_good
      | apply mapHotZero_good | apply allocFrame_good | apply Good.ite_fst | apply Good.ite
      | refine Good.of_pair (by assumption) ?_ | dsimp only | split

theorem plRestore_good {q₀ : List Instr} {p₀ : Bool} {c₀ : Option Nat} {s : State} {w dla : Nat}
    (h₀ : Good q₀ p₀ c₀ s) :
    Good q₀ p₀ c₀ (plRestore s w dla) := by
  unfold plRestore
  try dsimp only
  with_reducible
    repeat' first
      | exact h₀ | assumption | intro _ | dsimp only | split | refine Good.upd ?_

theorem poisonDla_good {q₀ : List Instr} {p₀ : Bool} {c₀ : Option Nat} {s : State} {w dla src : Nat}
    (h₀ : Good q₀ p₀ c₀ s) :
    Good q₀ p₀ c₀ (poisonDla s w dla src) := by
  unfold poisonDla
  try dsimp only
  with_reducible
    repeat' first
      | exact h₀ | assumption | intro _ | apply plAdd_good | apply poisonLine_good | apply writeTouch_good
      | apply mapHotZero_good | apply poisonSegment_good | apply Good.ite | refine Good.of_pair (by assumption) ?_
      | dsimp only | split

theorem lcachePut_good {q₀ : List Instr} {p₀ : Bool} {c₀ : Option Nat} {s : State} {slice line : Nat}
    {b : List Byte} (h₀ : Good q₀ p₀ c₀ s) :
    Good q₀ p₀ c₀ (lcachePut s slice line b) := by
  unfold lcachePut
  try dsimp only
  with_reducible
    repeat' first
      | exact h₀ | assumption | intro _ | apply modLcache_good | apply nextFree_good | apply Good.ite | dsimp only
      | split

theorem dropPromoFrame_good {q₀ : List Instr} {p₀ : Bool} {c₀ : Option Nat} {s : State} {w off pk : Nat}
    (h₀ : Good q₀ p₀ c₀ s) :
    Good q₀ p₀ c₀ (dropPromoFrame s w off pk) := by
  unfold dropPromoFrame
  try dsimp only
  with_reducible
    repeat' first
      | exact h₀ | assumption | intro _ | apply freeFrame_good | apply Good.ite
      | refine Good.of_pair (by assumption) ?_ | dsimp only | split

theorem freePage_good {q₀ : List Instr} {p₀ : Bool} {c₀ : Option Nat} {s : State} {w off pg : Nat}
    (h₀ : Good q₀ p₀ c₀ s) :
    Good q₀ p₀ c₀ (freePage s w off pg) := by
  unfold freePage
  try dsimp only
  with_reducible
    repeat' first
      | exact h₀ | assumption | intro _ | apply freeFrame_good | apply freeRun_good | apply dropPromoFrame_good
      | apply modCached_good | apply modPage_good | apply Good.ite | refine Good.of_pair (by assumption) ?_
      | dsimp only | split

theorem dropCursor_good {q₀ : List Instr} {p₀ : Bool} {c₀ : Option Nat} {s : State} {w off : Nat}
    {f : Option Nat → Bool} (h₀ : Good q₀ p₀ c₀ s) :
    Good q₀ p₀ c₀ (dropCursor s w off f) := by
  unfold dropCursor
  try dsimp only
  with_reducible
    repeat' first
      | exact h₀ | assumption | intro _ | apply dropJobs_good | apply modSlot_good | apply Good.ite
      | refine Good.of_pair (by assumption) ?_ | dsimp only | split | refine Good.upd ?_

theorem dropMoves_good {q₀ : List Instr} {p₀ : Bool} {c₀ : Option Nat} {s : State} {f : Nat → Bool}
    (h₀ : Good q₀ p₀ c₀ s) :
    Good q₀ p₀ c₀ (dropMoves s f) := by
  unfold dropMoves
  try dsimp only
  with_reducible
    repeat' first
      | exact h₀ | assumption | intro _ | apply freeRun_good | apply freeFrame_good | apply Good.ite
      | apply Good.foldl | dsimp only | split | refine Good.upd ?_

theorem dropHank_good {q₀ : List Instr} {p₀ : Bool} {c₀ : Option Nat} {s : State} {w off : Nat} (h₀ : Good q₀ p₀ c₀ s) :
    Good q₀ p₀ c₀ (dropHank s w off) := by
  unfold dropHank
  try dsimp only
  with_reducible
    repeat' first
      | exact h₀ | assumption | intro _ | apply dropCursor_good | apply dropMoves_good | apply freePage_good
      | apply putHank_good | apply modCached_good | apply dropJobs_good | apply Good.ite | apply Good.foldl
      | refine Good.of_pair (by assumption) ?_ | dsimp only | split | refine Good.updAll ?_ | refine Good.upd ?_

theorem dropWindow_good {q₀ : List Instr} {p₀ : Bool} {c₀ : Option Nat} {s : State} {w : Nat} (h₀ : Good q₀ p₀ c₀ s) :
    Good q₀ p₀ c₀ (dropWindow s w) := by
  unfold dropWindow
  try dsimp only
  with_reducible
    repeat' first
      | exact h₀ | assumption | intro _ | apply dropHank_good | apply plDropRange_good | apply Good.ite
      | apply Good.foldl | apply Good.foldl_fst | dsimp only | split | refine Good.updAll ?_

theorem dropLcache_good {q₀ : List Instr} {p₀ : Bool} {c₀ : Option Nat} {s : State} {dla lines : Nat}
    (h₀ : Good q₀ p₀ c₀ s) :
    Good q₀ p₀ c₀ (dropLcache s dla lines) := by
  unfold dropLcache
  try dsimp only
  with_reducible
    repeat' first
      | exact h₀ | assumption | intro _ | exact h₀.set_lcache (tabWf_filter _ h₀.lcache) | dsimp only | split
      | refine Good.upd ?_

theorem unmapPage_good {q₀ : List Instr} {p₀ : Bool} {c₀ : Option Nat} {s : State} {w off pg : Nat}
    (h₀ : Good q₀ p₀ c₀ s) :
    Good q₀ p₀ c₀ (unmapPage s w off pg) := by
  unfold unmapPage
  try dsimp only
  with_reducible
    repeat' first
      | exact h₀ | assumption | intro _ | apply writeTouch_good | apply dropPromoFrame_good | apply dropCursor_good
      | apply dropMoves_good | apply directToPaged_good | apply dropJobs_good | apply putPage_good
      | apply freeFrame_good | apply freeRun_good | apply plDropRange_good | apply dropLcache_good | apply Good.ite
      | dsimp only | split | refine Good.upd ?_

theorem dropBlockHanks_good {q₀ : List Instr} {p₀ : Bool} {c₀ : Option Nat} {s : State} {w b : Nat}
    (h₀ : Good q₀ p₀ c₀ s) :
    Good q₀ p₀ c₀ (dropBlockHanks s w b) := by
  unfold dropBlockHanks
  try dsimp only
  with_reducible
    repeat' first
      | exact h₀ | assumption | intro _ | apply dropHank_good | apply Good.foldl | apply Good.foldl_fst | dsimp only
      | split

end Sys2Proof.Machine
end

