-- ==== Sys2Proof/Laws/GoodLedger.lean ====
section
/-! SUPPORT. The operations of Machine/Ledger.lean keep the state good (`Good`). -/

set_option linter.unusedTactic false
set_option linter.unreachableTactic false

set_option Elab.async false

namespace Sys2Proof.Machine

open Sys2Proof

theorem holdFloor_good {q₀ : List Instr} {p₀ : Bool} {c₀ : Option Nat} {s : State}  (h₀ : Good q₀ p₀ c₀ s) :
    Good q₀ p₀ c₀ (holdFloor s) := by
  unfold holdFloor
  try dsimp only
  with_reducible
    repeat' first
      | exact h₀ | assumption | intro _ | apply Good.ite | dsimp only | split | refine Good.upd ?_

theorem ledgerPut_good {q₀ : List Instr} {p₀ : Bool} {c₀ : Option Nat} {s : State}  (h₀ : Good q₀ p₀ c₀ s) :
    Good q₀ p₀ c₀ (ledgerPut s) := by
  unfold ledgerPut
  try dsimp only
  with_reducible
    repeat' first
      | exact h₀ | assumption | intro _ | apply evalLevel_good | apply holdFloor_good | dsimp only | split
      | refine Good.upd ?_

theorem ledgerRefuse_good {q₀ : List Instr} {p₀ : Bool} {c₀ : Option Nat} {s : State} {code : Nat}
    (h₀ : Good q₀ p₀ c₀ s) :
    Good q₀ p₀ c₀ (ledgerRefuse s code) := by
  unfold ledgerRefuse
  try dsimp only
  with_reducible
    repeat' first
      | exact h₀ | assumption | intro _ | apply logEv_good | dsimp only | split | refine Good.upd ?_

end Sys2Proof.Machine
end

