-- ==== Sys2Proof/Laws/GoodOperands.lean ====
section
/-! SUPPORT. The operations of Machine/Operands.lean keep the state good (`Good`). -/

set_option linter.unusedTactic false
set_option linter.unreachableTactic false

set_option Elab.async false

namespace Sys2Proof.Machine

open Sys2Proof

theorem countRefusal_good {q₀ : List Instr} {p₀ : Bool} {c₀ : Option Nat} {s : State} {m : M2S} (h₀ : Good q₀ p₀ c₀ s) :
    Good q₀ p₀ c₀ (countRefusal s m) := by
  unfold countRefusal
  try dsimp only
  with_reducible
    repeat' first
      | exact h₀ | assumption | intro _ | apply bump_good | apply logEvFor_good | apply markMs_good | apply Good.ite
      | refine Good.of_pair (by assumption) ?_ | dsimp only | split

end Sys2Proof.Machine
end

