-- ==== Sys2Proof/Laws/GoodFlags.lean ====
section
/-! SUPPORT. The operations of Machine/Flags.lean keep the state good (`Good`). -/

set_option linter.unusedTactic false
set_option linter.unreachableTactic false

set_option Elab.async false

namespace Sys2Proof.Machine

open Sys2Proof

theorem countProto_good {q₀ : List Instr} {p₀ : Bool} {c₀ : Option Nat} {s : State} {k : Nat} (h₀ : Good q₀ p₀ c₀ s) :
    Good q₀ p₀ c₀ (countProto s k) := by
  unfold countProto
  try dsimp only
  with_reducible
    repeat' first
      | exact h₀ | assumption | intro _ | apply modLink_good | dsimp only | split | refine Good.upd ?_

theorem countReplay_good {q₀ : List Instr} {p₀ : Bool} {c₀ : Option Nat} {s : State} {k : Nat} (h₀ : Good q₀ p₀ c₀ s) :
    Good q₀ p₀ c₀ (countReplay s k) := by
  unfold countReplay
  try dsimp only
  with_reducible
    repeat' first
      | exact h₀ | assumption | intro _ | apply modLink_good | dsimp only | split | refine Good.upd ?_

theorem countCrc_good {q₀ : List Instr} {p₀ : Bool} {c₀ : Option Nat} {s : State} {k : Nat} (h₀ : Good q₀ p₀ c₀ s) :
    Good q₀ p₀ c₀ (countCrc s k) := by
  unfold countCrc
  try dsimp only
  with_reducible
    repeat' first
      | exact h₀ | assumption | intro _ | apply modLink_good | dsimp only | split | refine Good.upd ?_

theorem latchEvt_good {q₀ : List Instr} {p₀ : Bool} {c₀ : Option Nat} {s : State} {k bit : Nat} (h₀ : Good q₀ p₀ c₀ s) :
    Good q₀ p₀ c₀ (latchEvt s k bit) := by
  unfold latchEvt
  try dsimp only
  with_reducible
    repeat' first
      | exact h₀ | assumption | intro _ | apply modLink_good | dsimp only | split | refine Good.upd ?_

theorem linkEvent_good {q₀ : List Instr} {p₀ : Bool} {c₀ : Option Nat} {s : State} {port link code sev : Nat}
    {tail : List Byte} (h₀ : Good q₀ p₀ c₀ s) :
    Good q₀ p₀ c₀ (linkEvent s port link code sev tail) := by
  unfold linkEvent
  try dsimp only
  with_reducible
    repeat' first
      | exact h₀ | assumption | intro _ | apply logEv_good | apply Good.ite | dsimp only | split

theorem protoOccurrence_good {q₀ : List Instr} {p₀ : Bool} {c₀ : Option Nat} {s : State} {port link kind : Nat}
    (h₀ : Good q₀ p₀ c₀ s) :
    Good q₀ p₀ c₀ (protoOccurrence s port link kind) := by
  unfold protoOccurrence
  try dsimp only
  with_reducible
    repeat' first
      | exact h₀ | assumption | intro _ | apply linkEvent_good | apply countProto_good | dsimp only | split

end Sys2Proof.Machine
end

