-- ==== Sys2Proof/Laws/GoodPlyLink.lean ====
section
/-! SUPPORT. The operations of Machine/PlyLink.lean keep the state good (`Good`). -/

set_option linter.unusedTactic false
set_option linter.unreachableTactic false

set_option Elab.async false

namespace Sys2Proof.Machine

open Sys2Proof

theorem plyPut_good {q₀ : List Instr} {p₀ : Bool} {c₀ : Option Nat} {s : State} {p seq : Nat} {b : PlyBody}
    (h₀ : Good q₀ p₀ c₀ s) :
    Good q₀ p₀ c₀ (plyPut s p seq b) := by
  unfold plyPut
  try dsimp only
  with_reducible
    repeat' first
      | exact h₀ | assumption | intro _ | apply unIdle_good | apply emit_good | apply modPly_good | apply Good.ite
      | refine Good.of_pair (by assumption) ?_ | dsimp only | split

theorem plySendControl_good {q₀ : List Instr} {p₀ : Bool} {c₀ : Option Nat} {s : State} {p : Nat} {b : PlyBody}
    (h₀ : Good q₀ p₀ c₀ s) :
    Good q₀ p₀ c₀ (plySendControl s p b) := by
  unfold plySendControl
  try dsimp only
  with_reducible
    repeat' first
      | exact h₀ | assumption | intro _ | apply plyPut_good | dsimp only | split

theorem plyEmitSeq_good {q₀ : List Instr} {p₀ : Bool} {c₀ : Option Nat} {s : State} {p : Nat} {b : PlyBody}
    (h₀ : Good q₀ p₀ c₀ s) :
    Good q₀ p₀ c₀ (plyEmitSeq s p b) := by
  unfold plyEmitSeq
  try dsimp only
  with_reducible
    repeat' first
      | exact h₀ | assumption | intro _ | apply plyPut_good | apply modPly_good | apply Good.ite | dsimp only | split

theorem plySend_good {q₀ : List Instr} {p₀ : Bool} {c₀ : Option Nat} {s : State} {p : Nat} {b : PlyBody}
    (h₀ : Good q₀ p₀ c₀ s) :
    Good q₀ p₀ c₀ (plySend s p b) := by
  unfold plySend
  try dsimp only
  with_reducible
    repeat' first
      | exact h₀ | assumption | intro _ | apply plyEmitSeq_good | apply modPly_good | apply Good.ite | dsimp only
      | split | refine Good.upd ?_

theorem plyDrainAux_good {q₀ : List Instr} {p₀ : Bool} {c₀ : Option Nat} {s : State} {a0 a2 : Nat} (h₀ : Good q₀ p₀ c₀ s) :
    Good q₀ p₀ c₀ (plyDrainAux a0 s a2) := by
  induction a0 generalizing s a2 with
  | zero =>
    unfold plyDrainAux
    try dsimp only
    with_reducible
      repeat' first
        | exact h₀ | assumption | intro _ | apply ih | apply plyEmitSeq_good | apply modPly_good | apply Good.ite
        | refine Good.of_pair (by assumption) ?_ | dsimp only | split | refine Good.upd ?_
  | succ n ih =>
    unfold plyDrainAux
    try dsimp only
    with_reducible
      repeat' first
        | exact h₀ | assumption | intro _ | apply ih | apply plyEmitSeq_good | apply modPly_good | apply Good.ite
        | refine Good.of_pair (by assumption) ?_ | dsimp only | split | refine Good.upd ?_

theorem plyDrain_good {q₀ : List Instr} {p₀ : Bool} {c₀ : Option Nat} {s : State} {p : Nat} (h₀ : Good q₀ p₀ c₀ s) :
    Good q₀ p₀ c₀ (plyDrain s p) := by
  unfold plyDrain
  try dsimp only
  with_reducible
    repeat' first
      | exact h₀ | assumption | intro _ | apply plyDrainAux_good | dsimp only | split

theorem plyAcked_good {q₀ : List Instr} {p₀ : Bool} {c₀ : Option Nat} {s : State} {p ack : Nat} (h₀ : Good q₀ p₀ c₀ s) :
    Good q₀ p₀ c₀ (plyAcked s p ack) := by
  unfold plyAcked
  try dsimp only
  with_reducible
    repeat' first
      | exact h₀ | assumption | intro _ | apply plyDrain_good | apply modPly_good | apply Good.ite
      | refine Good.of_pair (by assumption) ?_ | dsimp only | split

theorem plyReplay_good {q₀ : List Instr} {p₀ : Bool} {c₀ : Option Nat} {s : State} {p : Nat} (h₀ : Good q₀ p₀ c₀ s) :
    Good q₀ p₀ c₀ (plyReplay s p) := by
  unfold plyReplay
  try dsimp only
  with_reducible
    repeat' first
      | exact h₀ | assumption | intro _ | apply plyPut_good | apply bump_good | apply modPly_good | apply Good.foldl
      | apply Good.foldl_fst | dsimp only | split | refine Good.upd ?_

end Sys2Proof.Machine
end

