-- ==== Sys2Proof/Laws/GoodTracker.lean ====
section
/-! SUPPORT. The operations of Machine/Tracker.lean keep the state good (`Good`). -/

set_option linter.unusedTactic false
set_option linter.unreachableTactic false

set_option Elab.async false

namespace Sys2Proof.Machine

open Sys2Proof

theorem noteLoad_good {q₀ : List Instr} {p₀ : Bool} {c₀ : Option Nat} {s : State} {seat dl : Nat}
    (h₀ : Good q₀ p₀ c₀ s) :
    Good q₀ p₀ c₀ (noteLoad s seat dl) := by
  unfold noteLoad
  try dsimp only
  with_reducible
    repeat' first
      | exact h₀ | assumption | intro _ | apply modSeat_good | apply Good.ite | dsimp only | split
      | refine Good.upd ?_

theorem sendDrs_good {q₀ : List Instr} {p₀ : Bool} {c₀ : Option Nat} {s : State} {m : Msg}
    {data : Option (List Byte)} {dl : Nat} (h₀ : Good q₀ p₀ c₀ s) :
    Good q₀ p₀ c₀ (sendDrs s m data dl) := by
  unfold sendDrs
  try dsimp only
  with_reducible
    repeat' first
      | exact h₀ | assumption | intro _ | apply pmuEvent_good | apply noteLoad_good | apply emit_good | apply Good.ite
      | refine Good.of_pair (by assumption) ?_ | dsimp only | split

theorem sendNdr_good {q₀ : List Instr} {p₀ : Bool} {c₀ : Option Nat} {s : State} {m : Msg} {k : Ndr} {dl : Nat}
    (h₀ : Good q₀ p₀ c₀ s) :
    Good q₀ p₀ c₀ (sendNdr s m k dl) := by
  unfold sendNdr
  try dsimp only
  with_reducible
    repeat' first
      | exact h₀ | assumption | intro _ | apply noteLoad_good | apply emit_good | apply pmuEvent_good | apply Good.ite
      | dsimp only | split

theorem noteUse_good {q₀ : List Instr} {p₀ : Bool} {c₀ : Option Nat} {s : State} {p seat : Nat} (h₀ : Good q₀ p₀ c₀ s) :
    Good q₀ p₀ c₀ (noteUse s p seat) := by
  unfold noteUse
  try dsimp only
  with_reducible
    repeat' first
      | exact h₀ | assumption | intro _ | apply modUse_good | dsimp only | split

theorem returnCredit_good {q₀ : List Instr} {p₀ : Bool} {c₀ : Option Nat} {s : State} {m : Msg} (h₀ : Good q₀ p₀ c₀ s) :
    Good q₀ p₀ c₀ (returnCredit s m) := by
  unfold returnCredit
  try dsimp only
  with_reducible
    repeat' first
      | exact h₀ | assumption | intro _ | apply modLink_good | apply Good.ite | dsimp only | split
      | refine Good.upd ?_

theorem takeEntry_good {q₀ : List Instr} {p₀ : Bool} {c₀ : Option Nat} {s : State} {m : Msg}
    {way : Bool × Option Nat} (h₀ : Good q₀ p₀ c₀ s) :
    Good q₀ p₀ c₀ (takeEntry s m way).1 := by
  unfold takeEntry
  try dsimp only
  with_reducible
    repeat' first
      | exact h₀ | assumption | intro _ | apply unIdle_good | apply unIdleFabric_good | apply returnCredit_good
      | apply pmuEvent_good | apply stampNext_good | apply modTrk_good | apply noteUse_good | apply Good.ite_fst
      | apply Good.ite | dsimp only | split

theorem sendAck_good {q₀ : List Instr} {p₀ : Bool} {c₀ : Option Nat} {s : State} {dl : Nat}
    {a : Nat × Nat × Nat × Nat} (h₀ : Good q₀ p₀ c₀ s) :
    Good q₀ p₀ c₀ (sendAck dl s a) := by
  unfold sendAck
  try dsimp only
  with_reducible
    repeat' first
      | exact h₀ | assumption | intro _ | apply emit_good | apply Good.ite | dsimp only | split

theorem endEntry_good {q₀ : List Instr} {p₀ : Bool} {c₀ : Option Nat} {s : State} {e : Nat} {t : Trk}
    {send : State → State} (h₀ : Good q₀ p₀ c₀ s) (hsend : ∀ t, Good q₀ p₀ c₀ t → Good q₀ p₀ c₀ (send t)) :
    Good q₀ p₀ c₀ (endEntry s e t send) := by
  unfold endEntry
  try dsimp only
  with_reducible
    repeat' first
      | exact h₀ | assumption | intro _ | apply hsend | apply sendAck_good | apply leaveSlot_good | apply modUse_good
      | apply modAct_good | apply modTrk_good | apply Good.ite | apply Good.foldl | apply Good.foldl_fst | dsimp only
      | split | refine Good.updAll ?_ | refine Good.upd ?_

theorem readResponse_good {q₀ : List Instr} {p₀ : Bool} {c₀ : Option Nat} {s : State} {t : Trk}
    {data : Option (List Byte)} {dl : Nat} (h₀ : Good q₀ p₀ c₀ s) :
    Good q₀ p₀ c₀ (readResponse t data dl s) := by
  unfold readResponse
  try dsimp only
  with_reducible
    repeat' first
      | exact h₀ | assumption | intro _ | apply sendNdr_good | apply sendDrs_good
      | refine Good.of_pair (by assumption) ?_ | dsimp only | split

theorem endRead_good {q₀ : List Instr} {p₀ : Bool} {c₀ : Option Nat} {s : State} {e : Nat} {t : Trk}
    {data : Option (List Byte)} {dl : Nat} (h₀ : Good q₀ p₀ c₀ s) :
    Good q₀ p₀ c₀ (endRead s e t data dl) := by
  unfold endRead
  try dsimp only
  with_reducible
    repeat' first
      | exact h₀ | assumption | intro _ | apply endEntry_good | apply readResponse_good | dsimp only | split

theorem endNdr_good {q₀ : List Instr} {p₀ : Bool} {c₀ : Option Nat} {s : State} {e : Nat} {t : Trk} {k : Ndr}
    {dl : Nat} (h₀ : Good q₀ p₀ c₀ s) :
    Good q₀ p₀ c₀ (endNdr s e t k dl) := by
  unfold endNdr
  try dsimp only
  with_reducible
    repeat' first
      | exact h₀ | assumption | intro _ | apply endEntry_good | apply sendNdr_good | dsimp only | split

theorem setDirty_good {q₀ : List Instr} {p₀ : Bool} {c₀ : Option Nat} {s : State} {w off : Nat} (h₀ : Good q₀ p₀ c₀ s) :
    Good q₀ p₀ c₀ (setDirty s w off) := by
  unfold setDirty
  try dsimp only
  with_reducible
    repeat' first
      | exact h₀ | assumption | intro _ | apply putHank_good | dsimp only | split | refine Good.upd ?_

theorem dirtyUnlessSync_good {q₀ : List Instr} {p₀ : Bool} {c₀ : Option Nat} {s : State} {w off : Nat}
    (h₀ : Good q₀ p₀ c₀ s) :
    Good q₀ p₀ c₀ (dirtyUnlessSync s w off) := by
  unfold dirtyUnlessSync
  try dsimp only
  with_reducible
    repeat' first
      | exact h₀ | assumption | intro _ | apply setDirty_good | apply Good.ite | dsimp only | split

theorem forwardMsg_good {q₀ : List Instr} {p₀ : Bool} {c₀ : Option Nat} {s : State} {m : Msg} {entry : Option Nat}
    {poison : Bool} (h₀ : Good q₀ p₀ c₀ s) :
    Good q₀ p₀ c₀ (forwardMsg s m entry poison) := by
  unfold forwardMsg
  try dsimp only
  with_reducible
    repeat' first
      | exact h₀ | assumption | intro _ | apply dirtyUnlessSync_good | apply plySend_good | apply Good.ite
      | refine Good.of_pair (by assumption) ?_ | dsimp only | split | refine Good.upd ?_

theorem forwardWrite_good {q₀ : List Instr} {p₀ : Bool} {c₀ : Option Nat} {s : State} {e : Nat} {t : Trk}
    {poison : Bool} (h₀ : Good q₀ p₀ c₀ s) :
    Good q₀ p₀ c₀ (forwardWrite s e t poison) := by
  unfold forwardWrite
  try dsimp only
  with_reducible
    repeat' first
      | exact h₀ | assumption | intro _ | apply forwardMsg_good | dsimp only | split

theorem acceptRead_good {q₀ : List Instr} {p₀ : Bool} {c₀ : Option Nat} {s : State} {e : Nat} {t : Trk} {loc : Loc}
    {page : Option Nat} {kgen : Nat} {lines : List Nat} (h₀ : Good q₀ p₀ c₀ s) :
    Good q₀ p₀ c₀ (acceptRead s e t loc page kgen lines) := by
  unfold acceptRead
  try dsimp only
  with_reducible
    repeat' first
      | exact h₀ | assumption | intro _ | apply flushLine_good | apply stampNext_good | apply modCh_good
      | apply modTrk_good | apply Good.foldl | dsimp only | split | refine Good.upd ?_

theorem countOnce_good {q₀ : List Instr} {p₀ : Bool} {c₀ : Option Nat} {s : State} {e : Nat} {t : Trk} {hit : Bool}
    (h₀ : Good q₀ p₀ c₀ s) :
    Good q₀ p₀ c₀ (countOnce s e t hit) := by
  unfold countOnce
  try dsimp only
  with_reducible
    repeat' first
      | exact h₀ | assumption | intro _ | apply countLook_good | apply modTrk_good | apply Good.ite | dsimp only
      | split | refine Good.upd ?_

theorem lookStep_good {q₀ : List Instr} {p₀ : Bool} {c₀ : Option Nat} {s : State} {e : Nat} {t : Trk}
    (h₀ : Good q₀ p₀ c₀ s) :
    Good q₀ p₀ c₀ (lookStep s e t) := by
  unfold lookStep
  try dsimp only
  with_reducible
    repeat' first
      | exact h₀ | assumption | intro _ | apply countOnce_good | apply sampleHeat_good | apply modTrk_good
      | apply Good.ite | refine Good.of_pair (by assumption) ?_ | dsimp only | split | refine Good.upd ?_

theorem quietTrigger_good {q₀ : List Instr} {p₀ : Bool} {c₀ : Option Nat} {s : State} {w dla : Nat}
    (h₀ : Good q₀ p₀ c₀ s) :
    Good q₀ p₀ c₀ (quietTrigger s w dla) := by
  unfold quietTrigger
  try dsimp only
  with_reducible
    repeat' first
      | exact h₀ | assumption | intro _ | apply readTrigger_good | apply Good.ite | dsimp only | split

theorem readStep_good {q₀ : List Instr} {p₀ : Bool} {c₀ : Option Nat} {s : State} {e : Nat} {t : Trk}
    (h₀ : Good q₀ p₀ c₀ s) :
    Good q₀ p₀ c₀ (readStep s e t) := by
  unfold readStep
  try dsimp only
  with_reducible
    repeat' first
      | exact h₀ | assumption | intro _ | apply endRead_good | apply lookStep_good | apply quietTrigger_good
      | apply logEvFor_good | apply acceptRead_good | apply readTrigger_good | apply pmuEvent_good | apply modTrk_good
      | apply queueUnit_good | apply Good.ite | refine Good.of_pair (by assumption) ?_ | dsimp only | split
      | refine Good.upd ?_

theorem writeStep_good {q₀ : List Instr} {p₀ : Bool} {c₀ : Option Nat} {s : State} {e : Nat} {t : Trk}
    (h₀ : Good q₀ p₀ c₀ s) :
    Good q₀ p₀ c₀ (writeStep s e t) := by
  unfold writeStep
  try dsimp only
  with_reducible
    repeat' first
      | exact h₀ | assumption | intro _ | apply endNdr_good | apply lookStep_good | apply writeTarget_good
      | apply stampNext_good | apply modTrk_good | apply forwardWrite_good | apply Good.ite_fst | apply Good.ite
      | refine Good.of_pair (by assumption) ?_ | dsimp only | split | refine Good.upd ?_

theorem entryMove_good {q₀ : List Instr} {p₀ : Bool} {c₀ : Option Nat} {s : State} {e : Nat} {t : Trk}
    (h₀ : Good q₀ p₀ c₀ s) : Good q₀ p₀ c₀ (entryMove s e t) := by
  unfold entryMove
  dsimp only
  refine Good.ite h₀ (Good.ite (Good.ite (endNdr_good h₀) h₀) (Good.ite h₀ (Good.ite (lookStep_good h₀) (Good.ite h₀
    (Good.ite (readStep_good h₀) (writeStep_good h₀))))))

theorem entryPass_good {q₀ : List Instr} {p₀ : Bool} {c₀ : Option Nat} {s : State} {e : Nat} (h₀ : Good q₀ p₀ c₀ s) :
    Good q₀ p₀ c₀ (entryPass s e) := by
  unfold entryPass
  try dsimp only
  with_reducible
    repeat' first
      | exact h₀ | assumption | intro _ | apply modTrk_good | apply entryMove_good | apply Good.ite | refine Good.of_pair (by assumption) ?_ | dsimp only | split
      | refine Good.upd ?_

theorem passLine_good {q₀ : List Instr} {p₀ : Bool} {c₀ : Option Nat} {s : State} {line : Nat} (h₀ : Good q₀ p₀ c₀ s) :
    Good q₀ p₀ c₀ (passLine s line) := by
  unfold passLine
  try dsimp only
  with_reducible
    repeat' first
      | exact h₀ | assumption | intro _ | apply entryPass_good | apply Good.foldl | dsimp only | split

theorem passAll_good {q₀ : List Instr} {p₀ : Bool} {c₀ : Option Nat} {s : State}  (h₀ : Good q₀ p₀ c₀ s) :
    Good q₀ p₀ c₀ (passAll s) := by
  unfold passAll
  try dsimp only
  with_reducible
    repeat' first
      | exact h₀ | assumption | intro _ | apply entryPass_good | apply Good.foldl | dsimp only | split

theorem refuseMsg_good {q₀ : List Instr} {p₀ : Bool} {c₀ : Option Nat} {s : State} {m : Msg} (h₀ : Good q₀ p₀ c₀ s) :
    Good q₀ p₀ c₀ (refuseMsg s m) := by
  unfold refuseMsg
  try dsimp only
  with_reducible
    repeat' first
      | exact h₀ | assumption | intro _ | apply countRefusal_good | apply sendDrs_good | apply sendNdr_good
      | apply Good.ite | dsimp only | split

theorem ingressStep_good {q₀ : List Instr} {p₀ : Bool} {c₀ : Option Nat} {s : State} {port : Nat}
    (h₀ : Good q₀ p₀ c₀ s) :
    Good q₀ p₀ c₀ (ingressStep s port) := by
  unfold ingressStep
  try dsimp only
  with_reducible
    repeat' first
      | exact h₀ | assumption | intro _ | apply modIngress_good | apply refuseMsg_good | apply returnCredit_good
      | apply takeEntry_good | apply entryPass_good | apply Good.ite_fst | apply Good.ite
      | refine Good.of_pair (by assumption) ?_ | dsimp only | split

theorem ingressRun_good {q₀ : List Instr} {p₀ : Bool} {c₀ : Option Nat} {s : State} {a0 a2 : Nat} (h₀ : Good q₀ p₀ c₀ s) :
    Good q₀ p₀ c₀ (ingressRun a0 s a2) := by
  induction a0 generalizing s a2 with
  | zero =>
    unfold ingressRun
    try dsimp only
    with_reducible
      repeat' first
        | exact h₀ | assumption | intro _ | apply ih | apply ingressStep_good | apply Good.ite | dsimp only | split
  | succ n ih =>
    unfold ingressRun
    try dsimp only
    with_reducible
      repeat' first
        | exact h₀ | assumption | intro _ | apply ih | apply ingressStep_good | apply Good.ite | dsimp only | split

theorem enterIngress_good {q₀ : List Instr} {p₀ : Bool} {c₀ : Option Nat} {s : State} {m : Msg} (h₀ : Good q₀ p₀ c₀ s) :
    Good q₀ p₀ c₀ (enterIngress s m) := by
  unfold enterIngress
  try dsimp only
  with_reducible
    repeat' first
      | exact h₀ | assumption | intro _ | apply modIngress_good | apply noteUse_good | apply ingressRun_good
      | dsimp only | split

theorem arrive_good {q₀ : List Instr} {p₀ : Bool} {c₀ : Option Nat} {s : State} {m : Msg} (h₀ : Good q₀ p₀ c₀ s) :
    Good q₀ p₀ c₀ (arrive s m) := by
  unfold arrive
  try dsimp only
  with_reducible
    repeat' first
      | exact h₀ | assumption | intro _ | apply enterIngress_good | apply modLink_good | apply Good.ite | dsimp only
      | split | refine Good.upd ?_

theorem leavesIngress_good {q₀ : List Instr} {p₀ : Bool} {c₀ : Option Nat} {s : State} {m : M2S} {rwd : Bool}
    (h₀ : Good q₀ p₀ c₀ s) :
    Good q₀ p₀ c₀ (leavesIngress s m rwd) := by
  unfold leavesIngress
  try dsimp only
  with_reducible
    repeat' first
      | exact h₀ | assumption | intro _ | apply pmuEvent_good | apply Good.ite | dsimp only | split

theorem turnAway_good {q₀ : List Instr} {p₀ : Bool} {c₀ : Option Nat} {s : State} {m : M2S} {rwd : Bool}
    (h₀ : Good q₀ p₀ c₀ s) :
    Good q₀ p₀ c₀ (turnAway s m rwd) := by
  unfold turnAway
  try dsimp only
  with_reducible
    repeat' first
      | exact h₀ | assumption | intro _ | apply leavesIngress_good | apply sendNdr_good | apply sendDrs_good
      | apply Good.ite | dsimp only | split

theorem m2sGate_good {q₀ : List Instr} {p₀ : Bool} {c₀ : Option Nat} {s : State} {m : M2S} {row : Instr}
    {rwd hint : Bool} {f : State → State} (h₀ : Good q₀ p₀ c₀ s) (hf : ∀ t, Good q₀ p₀ c₀ t → Good q₀ p₀ c₀ (f t)) :
    Good q₀ p₀ c₀ (m2sGate s m row rwd hint f) := by
  unfold m2sGate
  try dsimp only
  with_reducible
    repeat' first
      | exact h₀ | assumption | intro _ | apply hf | apply holdFor_good | apply unIdleFabric_good | apply unIdle_good
      | apply leavesIngress_good | apply protoOccurrence_good | apply turnAway_good | apply Good.ite | dsimp only
      | split

theorem refuseM2S_good {q₀ : List Instr} {p₀ : Bool} {c₀ : Option Nat} {s : State} {m : M2S} {op : ReqOp}
    (h₀ : Good q₀ p₀ c₀ s) :
    Good q₀ p₀ c₀ (refuseM2S s m op) := by
  unfold refuseM2S
  try dsimp only
  with_reducible
    repeat' first
      | exact h₀ | assumption | intro _ | apply countRefusal_good | apply leavesIngress_good | apply sendDrs_good
      | apply sendNdr_good | apply Good.ite | dsimp only | split

end Sys2Proof.Machine
end

