-- ==== Sys2Proof/Laws/GoodCreelOps.lean ====
section
/-! SUPPORT. The operations of Machine/CreelOps.lean keep the state good (`Good`). -/

set_option linter.unusedTactic false
set_option linter.unreachableTactic false

set_option Elab.async false

namespace Sys2Proof.Machine

open Sys2Proof

theorem sendCrec_good {q₀ : List Instr} {p₀ : Bool} {c₀ : Option Nat} {s : State} {c : Centry} (h₀ : Good q₀ p₀ c₀ s) :
    Good q₀ p₀ c₀ (sendCrec s c) := by
  unfold sendCrec
  try dsimp only
  with_reducible
    repeat' first
      | exact h₀ | assumption | intro _ | apply modPly_good | apply plySend_good | apply Good.ite
      | refine Good.of_pair (by assumption) ?_ | dsimp only | split | refine Good.upd ?_

theorem setCentry_good {q₀ : List Instr} {p₀ : Bool} {c₀ : Option Nat} {s : State} {key : Nat} {c : Centry}
    (h₀ : Good q₀ p₀ c₀ s) :
    Good q₀ p₀ c₀ (setCentry s key c) := by
  unfold setCentry
  try dsimp only
  with_reducible
    repeat' first
      | exact h₀ | assumption | intro _ | apply modCreel_good | apply sendCrec_good | apply Good.ite
      | refine Good.of_pair (by assumption) ?_ | dsimp only | split | refine Good.upd ?_

theorem freeCentry_good {q₀ : List Instr} {p₀ : Bool} {c₀ : Option Nat} {s : State} {key : Nat} (h₀ : Good q₀ p₀ c₀ s) :
    Good q₀ p₀ c₀ (freeCentry s key) := by
  unfold freeCentry
  try dsimp only
  with_reducible
    repeat' first
      | exact h₀ | assumption | intro _ | apply setCentry_good | dsimp only | split

theorem fillRecords_good {q₀ : List Instr} {p₀ : Bool} {c₀ : Option Nat} {s : State} {a0 a2 : Nat} (h₀ : Good q₀ p₀ c₀ s) :
    Good q₀ p₀ c₀ (fillRecords a0 s a2) := by
  induction a0 generalizing s a2 with
  | zero =>
    unfold fillRecords
    try dsimp only
    with_reducible
      repeat' first
        | exact h₀ | assumption | intro _ | apply ih | apply modXing_good | apply modAct_good | apply Good.ite
        | refine Good.of_pair (by assumption) ?_ | dsimp only | split | refine Good.upd ?_
  | succ n ih =>
    unfold fillRecords
    try dsimp only
    with_reducible
      repeat' first
        | exact h₀ | assumption | intro _ | apply ih | apply modXing_good | apply modAct_good | apply Good.ite
        | refine Good.of_pair (by assumption) ?_ | dsimp only | split | refine Good.upd ?_

theorem refill_good {q₀ : List Instr} {p₀ : Bool} {c₀ : Option Nat} {s : State} {slice : Nat} (h₀ : Good q₀ p₀ c₀ s) :
    Good q₀ p₀ c₀ (refill s slice) := by
  unfold refill
  try dsimp only
  with_reducible
    repeat' first
      | exact h₀ | assumption | intro _ | apply fillRecords_good | apply Good.foldl | dsimp only | split

theorem startSnoops_good {q₀ : List Instr} {p₀ : Bool} {c₀ : Option Nat} {s : State} {line : Nat} {a : Active}
    {aliases : List Nat} (h₀ : Good q₀ p₀ c₀ s) :
    Good q₀ p₀ c₀ (startSnoops s line a aliases) := by
  unfold startSnoops
  try dsimp only
  with_reducible
    repeat' first
      | exact h₀ | assumption | intro _ | apply modAct_good | apply pmuEvent_good | apply fillRecords_good
      | dsimp only | split | refine Good.upd ?_

theorem setBusy_good {q₀ : List Instr} {p₀ : Bool} {c₀ : Option Nat} {s : State} {line : Nat} (h₀ : Good q₀ p₀ c₀ s) :
    Good q₀ p₀ c₀ (setBusy s line) := by
  unfold setBusy
  try dsimp only
  with_reducible
    repeat' first
      | exact h₀ | assumption | intro _ | apply setCentry_good | refine Good.of_pair (by assumption) ?_ | dsimp only
      | split | refine Good.upd ?_

theorem queuePurge_good {q₀ : List Instr} {p₀ : Bool} {c₀ : Option Nat} {s : State} {line seat : Nat}
    (h₀ : Good q₀ p₀ c₀ s) :
    Good q₀ p₀ c₀ (queuePurge s line seat) := by
  unfold queuePurge
  try dsimp only
  with_reducible
    repeat' first
      | exact h₀ | assumption | intro _ | apply modSlice_good | apply Good.ite | dsimp only | split
      | refine Good.upd ?_

theorem purgeGranted_good {q₀ : List Instr} {p₀ : Bool} {c₀ : Option Nat} {s : State} {m : Msg} {g : Option Ndr}
    (h₀ : Good q₀ p₀ c₀ s) :
    Good q₀ p₀ c₀ (purgeGranted s m g) := by
  unfold purgeGranted
  try dsimp only
  with_reducible
    repeat' first
      | exact h₀ | assumption | intro _ | apply queuePurge_good | apply Good.ite | dsimp only | split

theorem grantTrk_good {q₀ : List Instr} {p₀ : Bool} {c₀ : Option Nat} {s : State} {e : Nat} {g : Option Ndr}
    {poison : Bool} (h₀ : Good q₀ p₀ c₀ s) :
    Good q₀ p₀ c₀ (grantTrk s e g poison) := by
  unfold grantTrk
  try dsimp only
  with_reducible
    repeat' first
      | exact h₀ | assumption | intro _ | apply purgeGranted_good | apply stampNext_good | apply modTrk_good
      | apply endRead_good | apply entryPass_good | apply endNdr_good | apply forwardWrite_good | apply passLine_good
      | apply Good.ite | refine Good.of_pair (by assumption) ?_ | dsimp only | split | refine Good.upd ?_

theorem grantAgent_good {q₀ : List Instr} {p₀ : Bool} {c₀ : Option Nat} {s : State} {n line : Nat}
    (h₀ : Good q₀ p₀ c₀ s) :
    Good q₀ p₀ c₀ (grantAgent s n line) := by
  unfold grantAgent
  try dsimp only
  with_reducible
    repeat' first
      | exact h₀ | assumption | intro _ | apply modDesc_good | dsimp only | split | refine Good.upd ?_

theorem grantTo_good {q₀ : List Instr} {p₀ : Bool} {c₀ : Option Nat} {s : State} {who : Origin} {line : Nat}
    {g : Option Ndr} {poison : Bool} (h₀ : Good q₀ p₀ c₀ s) :
    Good q₀ p₀ c₀ (grantTo s who line g poison) := by
  unfold grantTo
  try dsimp only
  with_reducible
    repeat' first
      | exact h₀ | assumption | intro _ | apply grantTrk_good | apply grantAgent_good
      | refine Good.of_pair (by assumption) ?_ | dsimp only | split

theorem enqueueConf_good {q₀ : List Instr} {p₀ : Bool} {c₀ : Option Nat} {s : State} {line : Nat} {who : Origin}
    {k : Kind} {seat ali : Nat} (h₀ : Good q₀ p₀ c₀ s) :
    Good q₀ p₀ c₀ (enqueueConf s line who k seat ali) := by
  unfold enqueueConf
  try dsimp only
  with_reducible
    repeat' first
      | exact h₀ | assumption | intro _ | apply modSlice_good | apply modTrk_good | apply Good.ite
      | refine Good.of_pair (by assumption) ?_ | dsimp only | split | refine Good.upd ?_

theorem allocate_good {q₀ : List Instr} {p₀ : Bool} {c₀ : Option Nat} {s : State} {line : Nat} {c : Centry}
    {who : Origin} {k : Kind} {seat ali : Nat} {g : Ndr} (h₀ : Good q₀ p₀ c₀ s) :
    Good q₀ p₀ c₀ (allocate s line c who k seat ali g) := by
  unfold allocate
  try dsimp only
  with_reducible
    repeat' first
      | exact h₀ | assumption | intro _ | apply bump_good | apply grantTo_good | apply stampNext_good
      | apply setCentry_good | apply freeCentry_good | apply startSnoops_good | apply setBusy_good
      | apply enqueueConf_good | apply Good.ite | refine Good.of_pair (by assumption) ?_ | dsimp only | split

theorem creelServe_good {q₀ : List Instr} {p₀ : Bool} {c₀ : Option Nat} {s : State} {line w : Nat} {who : Origin}
    {k : Kind} {seat ali : Nat} {fresh : Bool} (h₀ : Good q₀ p₀ c₀ s) :
    Good q₀ p₀ c₀ (creelServe s line w who k seat ali fresh) := by
  unfold creelServe
  try dsimp only
  with_reducible
    repeat' first
      | exact h₀ | assumption | intro _ | apply modTrk_good | apply startSnoops_good | apply setBusy_good
      | apply pmuEvent_good | apply allocate_good | apply grantTo_good | apply stampNext_good | apply setCentry_good
      | apply freeCentry_good | apply enqueueConf_good | apply Good.ite | refine Good.of_pair (by assumption) ?_
      | dsimp only | split | refine Good.upd ?_

theorem afterPurge_good {q₀ : List Instr} {p₀ : Bool} {c₀ : Option Nat} {s : State} {key : Nat} {gone : List Nat}
    {all : Bool} (h₀ : Good q₀ p₀ c₀ s) :
    Good q₀ p₀ c₀ (afterPurge s key gone all) := by
  unfold afterPurge
  try dsimp only
  with_reducible
    repeat' first
      | exact h₀ | assumption | intro _ | apply freeCentry_good | apply setCentry_good | apply Good.ite | dsimp only
      | split | refine Good.upd ?_

theorem completeActive_good {q₀ : List Instr} {p₀ : Bool} {c₀ : Option Nat} {s : State} {line : Nat} {a : Active}
    (h₀ : Good q₀ p₀ c₀ s) :
    Good q₀ p₀ c₀ (completeActive s line a) := by
  unfold completeActive
  try dsimp only
  with_reducible
    repeat' first
      | exact h₀ | assumption | intro _ | apply modAct_good | apply freeCentry_good | apply afterPurge_good
      | apply creelServe_good | apply grantTo_good | apply stampNext_good | apply setCentry_good | apply Good.ite
      | refine Good.of_pair (by assumption) ?_ | dsimp only | split | refine Good.upd ?_

theorem afterSnoop_good {q₀ : List Instr} {p₀ : Bool} {c₀ : Option Nat} {s : State} {line : Nat}
    (h₀ : Good q₀ p₀ c₀ s) :
    Good q₀ p₀ c₀ (afterSnoop s line) := by
  unfold afterSnoop
  try dsimp only
  with_reducible
    repeat' first
      | exact h₀ | assumption | intro _ | apply refill_good | apply completeActive_good | apply Good.ite
      | refine Good.of_pair (by assumption) ?_ | dsimp only | split

theorem snoopDone_good {q₀ : List Instr} {p₀ : Bool} {c₀ : Option Nat} {s : State} {r : Nat} {x : Xing}
    {ans : BiAns} (h₀ : Good q₀ p₀ c₀ s) :
    Good q₀ p₀ c₀ (snoopDone s r x ans) := by
  unfold snoopDone
  try dsimp only
  with_reducible
    repeat' first
      | exact h₀ | assumption | intro _ | apply modXing_good | apply modAct_good | apply afterSnoop_good
      | refine Good.of_pair (by assumption) ?_ | dsimp only | split | refine Good.upd ?_

theorem startPurge_good {q₀ : List Instr} {p₀ : Bool} {c₀ : Option Nat} {s : State} {line seat : Nat}
    (h₀ : Good q₀ p₀ c₀ s) :
    Good q₀ p₀ c₀ (startPurge s line seat) := by
  unfold startPurge
  try dsimp only
  with_reducible
    repeat' first
      | exact h₀ | assumption | intro _ | apply modSlice_good | apply startSnoops_good | apply setBusy_good
      | apply freeCentry_good | apply Good.ite | refine Good.of_pair (by assumption) ?_ | dsimp only | split
      | refine Good.upd ?_

theorem advanceConf_good {q₀ : List Instr} {p₀ : Bool} {c₀ : Option Nat} {s : State} {line : Nat}
    (h₀ : Good q₀ p₀ c₀ s) :
    Good q₀ p₀ c₀ (advanceConf s line) := by
  unfold advanceConf
  try dsimp only
  with_reducible
    repeat' first
      | exact h₀ | assumption | intro _ | apply startPurge_good | apply modSlice_good | apply creelServe_good
      | apply Good.ite | refine Good.of_pair (by assumption) ?_ | dsimp only | split

theorem serialSwitch_good {q₀ : List Instr} {p₀ : Bool} {c₀ : Option Nat} {s : State}  (h₀ : Good q₀ p₀ c₀ s) :
    Good q₀ p₀ c₀ (serialSwitch s) := by
  unfold serialSwitch
  try dsimp only
  with_reducible
    repeat' first
      | exact h₀ | assumption | intro _ | apply Good.ite | dsimp only | split | refine Good.upd ?_

theorem creelRequest_good {q₀ : List Instr} {p₀ : Bool} {c₀ : Option Nat} {s : State} {line w : Nat} {who : Origin}
    {k : Kind} {seat ali : Nat} (h₀ : Good q₀ p₀ c₀ s) :
    Good q₀ p₀ c₀ (creelRequest s line w who k seat ali) := by
  unfold creelRequest
  try dsimp only
  with_reducible
    repeat' first
      | exact h₀ | assumption | intro _ | apply serialSwitch_good | apply unIdle_good | apply unIdleFabric_good
      | apply enqueueConf_good | apply creelServe_good | apply Good.ite | dsimp only | split

theorem agentRequest_good {q₀ : List Instr} {p₀ : Bool} {c₀ : Option Nat} {s : State} {n line w : Nat}
    {write full : Bool} (h₀ : Good q₀ p₀ c₀ s) :
    Good q₀ p₀ c₀ (agentRequest s n line w write full) := by
  unfold agentRequest
  try dsimp only
  with_reducible
    repeat' first
      | exact h₀ | assumption | intro _ | apply creelRequest_good | apply Good.ite | dsimp only | split

theorem purgeLine_good {q₀ : List Instr} {p₀ : Bool} {c₀ : Option Nat} {s : State} {line : Nat} {seat : Option Nat}
    (h₀ : Good q₀ p₀ c₀ s) :
    Good q₀ p₀ c₀ (purgeLine s line seat) := by
  unfold purgeLine
  try dsimp only
  with_reducible
    repeat' first
      | exact h₀ | assumption | intro _ | apply advanceConf_good | apply queuePurge_good | dsimp only | split

theorem purgeRange_good {q₀ : List Instr} {p₀ : Bool} {c₀ : Option Nat} {s : State} {dla len : Nat}
    (h₀ : Good q₀ p₀ c₀ s) :
    Good q₀ p₀ c₀ (purgeRange s dla len) := by
  unfold purgeRange
  try dsimp only
  with_reducible
    repeat' first
      | exact h₀ | assumption | intro _ | apply purgeLine_good | apply Good.foldl | dsimp only | split

theorem purgeSeat_good {q₀ : List Instr} {p₀ : Bool} {c₀ : Option Nat} {s : State} {seat : Nat} (h₀ : Good q₀ p₀ c₀ s) :
    Good q₀ p₀ c₀ (purgeSeat s seat) := by
  unfold purgeSeat
  try dsimp only
  with_reducible
    repeat' first
      | exact h₀ | assumption | intro _ | apply purgeLine_good | apply Good.foldl
      | refine Good.of_pair (by assumption) ?_ | dsimp only | split

end Sys2Proof.Machine
end

