-- ==== Sys2Proof/Laws/GoodRequestPath.lean ====
section
/-! SUPPORT. The operations of Machine/RequestPath.lean keep the state good (`Good`). -/

set_option linter.unusedTactic false
set_option linter.unreachableTactic false

set_option Elab.async false

namespace Sys2Proof.Machine

open Sys2Proof

theorem queueWrite_good {q₀ : List Instr} {p₀ : Bool} {c₀ : Option Nat} {s : State} {line qc seat start : Nat}
    {entry : Option Nat} (h₀ : Good q₀ p₀ c₀ s) :
    Good q₀ p₀ c₀ (queueWrite s line qc seat start entry) := by
  unfold queueWrite
  try dsimp only
  with_reducible
    repeat' first
      | exact h₀ | assumption | intro _ | apply stampNext_good | apply modCh_good | dsimp only | split
      | refine Good.upd ?_

theorem storeMsg_good {q₀ : List Instr} {p₀ : Bool} {c₀ : Option Nat} {s : State} {m : Msg} {line key gen : Nat}
    {poison : Bool} (h₀ : Good q₀ p₀ c₀ s) :
    Good q₀ p₀ c₀ (storeMsg s m line key gen poison) := by
  unfold storeMsg
  try dsimp only
  with_reducible
    repeat' first
      | exact h₀ | assumption | intro _ | apply dropLcache_good | apply plAdd_good | apply poisonLine_good
      | apply plRestore_good | apply fullWrite_good | apply mergePut_good | apply Good.ite | dsimp only | split

theorem wroteBack_good {q₀ : List Instr} {p₀ : Bool} {c₀ : Option Nat} {s : State} {seat line : Nat}
    (h₀ : Good q₀ p₀ c₀ s) :
    Good q₀ p₀ c₀ (wroteBack s seat line) := by
  unfold wroteBack
  try dsimp only
  with_reducible
    repeat' first
      | exact h₀ | assumption | intro _ | apply snoopDone_good | apply Good.ite | apply Good.foldl
      | apply Good.foldl_fst | refine Good.of_pair (by assumption) ?_ | dsimp only | split | refine Good.updAll ?_
      | refine Good.upd ?_

theorem applyBuffer_good {q₀ : List Instr} {p₀ : Bool} {c₀ : Option Nat} {s : State} {r : Nat} {x : Xing} {m : Msg}
    (h₀ : Good q₀ p₀ c₀ s) :
    Good q₀ p₀ c₀ (applyBuffer s r x m) := by
  unfold applyBuffer
  try dsimp only
  with_reducible
    repeat' first
      | exact h₀ | assumption | intro _ | apply sendNdr_good | apply wroteBack_good | apply modXing_good
      | apply writeTarget_good | apply forwardMsg_good | apply storeMsg_good | apply queueWrite_good
      | apply Good.ite_fst | apply Good.ite | refine Good.of_pair (by assumption) ?_ | dsimp only | split
      | refine Good.upd ?_

theorem passBuffers_good {q₀ : List Instr} {p₀ : Bool} {c₀ : Option Nat} {s : State}  (h₀ : Good q₀ p₀ c₀ s) :
    Good q₀ p₀ c₀ (passBuffers s) := by
  unfold passBuffers
  try dsimp only
  with_reducible
    repeat' first
      | exact h₀ | assumption | intro _ | apply applyBuffer_good | apply Good.foldl | apply Good.foldl_fst
      | refine Good.of_pair (by assumption) ?_ | dsimp only | split

theorem inbLine_good {q₀ : List Instr} {p₀ : Bool} {c₀ : Option Nat} {s : State} {w : Nat} {x : PlyWrite} {i : Nat}
    (h₀ : Good q₀ p₀ c₀ s) :
    Good q₀ p₀ c₀ (inbLine s w x i).1 := by
  unfold inbLine
  try dsimp only
  with_reducible
    repeat' first
      | exact h₀ | assumption | intro _ | apply agentFetch_good | apply writeTarget_good | apply storeMsg_good
      | apply queueWrite_good | apply Good.ite_fst | apply Good.ite | refine Good.of_pair (by assumption) ?_
      | dsimp only | split

theorem inbLines_good {q₀ : List Instr} {p₀ : Bool} {c₀ : Option Nat} {s : State} {w : Nat} {x : PlyWrite} {a0 a2 a3 a4 : Nat} (h₀ : Good q₀ p₀ c₀ s) :
    Good q₀ p₀ c₀ (inbLines w x a0 s a2 a3 a4).1 := by
  induction a0 generalizing w x s a2 a3 a4 with
  | zero =>
    unfold inbLines
    try dsimp only
    with_reducible
      repeat' first
        | exact h₀ | assumption | intro _ | apply ih | apply sampleHeat_good | apply agentLook_good
        | apply inbLine_good | apply Good.ite_fst | apply Good.ite | refine Good.of_pair (by assumption) ?_
        | dsimp only | split
  | succ n ih =>
    unfold inbLines
    try dsimp only
    with_reducible
      repeat' first
        | exact h₀ | assumption | intro _ | apply ih | apply sampleHeat_good | apply agentLook_good
        | apply inbLine_good | apply Good.ite_fst | apply Good.ite | refine Good.of_pair (by assumption) ?_
        | dsimp only | split

theorem inbMeta_good {q₀ : List Instr} {p₀ : Bool} {c₀ : Option Nat} {s : State} {w kind dla : Nat}
    (h₀ : Good q₀ p₀ c₀ s) :
    Good q₀ p₀ c₀ (inbMeta s w kind dla) := by
  unfold inbMeta
  try dsimp only
  with_reducible
    repeat' first
      | exact h₀ | assumption | intro _ | apply unmapPage_good | apply plDropRange_good | apply dropHank_good
      | apply ledgerPut_good | apply modBlock_good | apply dropBlockHanks_good
      | refine Good.of_pair (by assumption) ?_ | dsimp only | split | refine Good.upd ?_

theorem degrade_good {q₀ : List Instr} {p₀ : Bool} {c₀ : Option Nat} {s : State} {w : Nat} (h₀ : Good q₀ p₀ c₀ s) :
    Good q₀ p₀ c₀ (degrade s w) := by
  unfold degrade
  try dsimp only
  with_reducible
    repeat' first
      | exact h₀ | assumption | intro _ | apply modWin_good | apply setDirty_good | apply endNdr_good | apply Good.ite
      | apply Good.foldl | refine Good.of_pair (by assumption) ?_ | dsimp only | split | refine Good.upd ?_

theorem inbDone_good {q₀ : List Instr} {p₀ : Bool} {c₀ : Option Nat} {s : State} {x : Inb} {status : Nat}
    (h₀ : Good q₀ p₀ c₀ s) :
    Good q₀ p₀ c₀ (inbDone s x status) := by
  unfold inbDone
  try dsimp only
  with_reducible
    repeat' first
      | exact h₀ | assumption | intro _ | apply plySend_good | apply modPly_good | apply degrade_good | apply Good.ite
      | dsimp only | split

theorem inbApply_good {q₀ : List Instr} {p₀ : Bool} {c₀ : Option Nat} {s : State} {x : Inb} (h₀ : Good q₀ p₀ c₀ s) :
    Good q₀ p₀ c₀ (inbApply s x).1 := by
  unfold inbApply
  try dsimp only
  with_reducible
    repeat' first
      | exact h₀ | assumption | intro _ | apply inbDone_good | apply inbLines_good | apply inbMeta_good
      | apply Good.ite_fst | apply Good.ite | refine Good.of_pair (by assumption) ?_ | dsimp only | split
      | refine Good.upd ?_

theorem inbRun_good {q₀ : List Instr} {p₀ : Bool} {c₀ : Option Nat} {s : State} {a0 : List Inb} {a1 : List Nat} {a3 : List Inb} (h₀ : Good q₀ p₀ c₀ s) :
    Good q₀ p₀ c₀ (inbRun a0 a1 s a3) := by
  induction a0 generalizing a1 s a3 with
  | nil =>
    unfold inbRun
    try dsimp only
    with_reducible
      repeat' first
        | exact h₀ | assumption | intro _ | apply ih | apply inbApply_good | apply Good.ite_fst | apply Good.ite
        | refine Good.of_pair (by assumption) ?_ | dsimp only | split | refine Good.upd ?_
  | cons x l ih =>
    unfold inbRun
    try dsimp only
    with_reducible
      repeat' first
        | exact h₀ | assumption | intro _ | apply ih | apply inbApply_good | apply Good.ite_fst | apply Good.ite
        | refine Good.of_pair (by assumption) ?_ | dsimp only | split | refine Good.upd ?_

theorem passInbound_good {q₀ : List Instr} {p₀ : Bool} {c₀ : Option Nat} {s : State}  (h₀ : Good q₀ p₀ c₀ s) :
    Good q₀ p₀ c₀ (passInbound s) := by
  unfold passInbound
  try dsimp only
  with_reducible
    repeat' first
      | exact h₀ | assumption | intro _ | apply inbRun_good | apply Good.ite | dsimp only | split

theorem resume_good {q₀ : List Instr} {p₀ : Bool} {c₀ : Option Nat} {s : State}  (h₀ : Good q₀ p₀ c₀ s) :
    Good q₀ p₀ c₀ (resume s) := by
  unfold resume
  try dsimp only
  with_reducible
    repeat' first
      | exact h₀ | assumption | intro _ | apply passInbound_good | apply passBuffers_good | apply passAll_good
      | dsimp only | split

theorem execTrackerEntryGrant_good {q₀ : List Instr} {p₀ : Bool} {c₀ : Option Nat} {s : State} {port : Fin 4}
    (h₀ : Good q₀ p₀ c₀ s) :
    GoodX q₀ p₀ c₀ (execTrackerEntryGrant port s) := by
  unfold execTrackerEntryGrant
  try dsimp only
  with_reducible
    repeat' first
      | exact h₀ | assumption | intro _ | apply ingressStep_good | apply GoodX.next | dsimp only | split

theorem execSeatIdle_good {q₀ : List Instr} {p₀ : Bool} {c₀ : Option Nat} {s : State} {seat : Fin 1024}
    {pool : Fin 5} (h₀ : Good q₀ p₀ c₀ s) :
    GoodX q₀ p₀ c₀ (execSeatIdle seat pool s) := by
  unfold execSeatIdle
  try dsimp only
  with_reducible
    repeat' first
      | exact h₀ | assumption | intro _ | apply advanceTo_good | apply modUse_good | apply GoodX.next
      | apply GoodX.ite | apply Good.ite | dsimp only | split | refine Good.upd ?_

theorem segmentError_good {q₀ : List Instr} {p₀ : Bool} {c₀ : Option Nat} {s : State} {w dla cause : Nat}
    (h₀ : Good q₀ p₀ c₀ s) :
    Good q₀ p₀ c₀ (segmentError s w dla cause) := by
  unfold segmentError
  try dsimp only
  with_reducible
    repeat' first
      | exact h₀ | assumption | intro _ | apply poisonSegment_good | apply bump_good | apply plAdd_good
      | apply logEvFor_good | dsimp only | split

theorem readLines_good {q₀ : List Instr} {p₀ : Bool} {c₀ : Option Nat} {s : State} {dla : Option Nat}
    {l : List Snap} {noise : List (List Byte)} (h₀ : Good q₀ p₀ c₀ s) :
    Good q₀ p₀ c₀ (readLines s dla l noise).1 := by
  induction l generalizing s noise with
  | nil => exact h₀
  | cons x l ih =>
    unfold readLines
    dsimp only
    split <;> exact ih (demandRead_good h₀)

theorem poisonWaiters_good {q₀ : List Instr} {p₀ : Bool} {c₀ : Option Nat} {s : State} {w dla : Nat}
    (h₀ : Good q₀ p₀ c₀ s) :
    Good q₀ p₀ c₀ (poisonWaiters s w dla) := by
  unfold poisonWaiters
  try dsimp only
  with_reducible
    repeat' first
      | exact h₀ | assumption | intro _ | apply endRead_good | apply Good.foldl
      | refine Good.of_pair (by assumption) ?_ | dsimp only | split

theorem execReadDataReturn_good {q₀ : List Instr} {p₀ : Bool} {c₀ : Option Nat} {s : State} {entry : Fin 24576}
    {noise : List (List Byte)} (h₀ : Good q₀ p₀ c₀ s) :
    GoodX q₀ p₀ c₀ (execReadDataReturn entry noise s) := by
  unfold execReadDataReturn
  try dsimp only
  with_reducible
    repeat' first
      | exact h₀ | assumption | intro _ | apply modTrk_good | apply absorbFlit_good | apply readLines_good
      | apply passLine_good | apply endRead_good | apply segmentError_good | apply passAll_good
      | apply poisonWaiters_good | apply GoodX.next | apply GoodX.ite | apply Good.ite_fst | apply Good.ite
      | refine Good.of_pair (by assumption) ?_ | dsimp only | split | refine Good.upd ?_

theorem execWriteAccepted_good {q₀ : List Instr} {p₀ : Bool} {c₀ : Option Nat} {s : State} {entry : Fin 24576}
    (h₀ : Good q₀ p₀ c₀ s) :
    GoodX q₀ p₀ c₀ (execWriteAccepted entry s) := by
  unfold execWriteAccepted
  try dsimp only
  with_reducible
    repeat' first
      | exact h₀ | assumption | intro _ | apply entryPass_good | apply absorbFlit_good | apply modTrk_good | apply writeTouch_good
      | apply forwardWrite_good | apply storeMsg_good | apply queueWrite_good | apply endNdr_good
      | apply passLine_good | apply GoodX.next | apply GoodX.ite | apply Good.ite
      | refine Good.of_pair (by assumption) ?_ | dsimp only | split | refine Good.upd ?_

theorem execResponseCeilingExpiry_good {q₀ : List Instr} {p₀ : Bool} {c₀ : Option Nat} {s : State}
    {entry : Fin 24576} (h₀ : Good q₀ p₀ c₀ s) :
    GoodX q₀ p₀ c₀ (execResponseCeilingExpiry entry s) := by
  unfold execResponseCeilingExpiry
  try dsimp only
  with_reducible
    repeat' first
      | exact h₀ | assumption | intro _ | apply advanceTo_good | apply setDirty_good | apply endNdr_good
      | apply passLine_good | apply degrade_good | apply bump_good | apply logEvFor_good | apply markMs_good
      | apply sendNdr_good | apply sendDrs_good | apply modTrk_good | apply GoodX.next | apply GoodX.ite
      | apply Good.ite | refine Good.of_pair (by assumption) ?_ | dsimp only | split | refine Good.upd ?_

theorem fabricError_good {q₀ : List Instr} {p₀ : Bool} {c₀ : Option Nat} {s : State} {e : Nat} {t : Trk}
    {kind : Nat} (h₀ : Good q₀ p₀ c₀ s) :
    Good q₀ p₀ c₀ (fabricError s e t kind) := by
  unfold fabricError
  try dsimp only
  with_reducible
    repeat' first
      | exact h₀ | assumption | intro _ | apply logEvFor_good | apply setDirty_good | apply endRead_good
      | apply endNdr_good | apply passLine_good | apply Good.ite | dsimp only | split | refine Good.upd ?_

theorem errorResponse_good {q₀ : List Instr} {p₀ : Bool} {c₀ : Option Nat} {s : State} {st lp dom : Nat}
    {asleep : Bool} (h₀ : Good q₀ p₀ c₀ s) :
    Good q₀ p₀ c₀ (errorResponse s st lp dom asleep) := by
  unfold errorResponse
  try dsimp only
  with_reducible
    repeat' first
      | exact h₀ | assumption | intro _ | apply bump_good | apply logEv_good | apply markMs_good | apply Good.ite
      | dsimp only | split

theorem answerFrom_good {q₀ : List Instr} {p₀ : Bool} {c₀ : Option Nat} {s : State} {e : Nat} {t : Trk}
    {st kind : Nat} (h₀ : Good q₀ p₀ c₀ s) :
    Good q₀ p₀ c₀ (answerFrom s e t st kind) := by
  unfold answerFrom
  try dsimp only
  with_reducible
    repeat' first
      | exact h₀ | assumption | intro _ | apply fabricError_good | apply Good.ite | dsimp only | split

theorem execFabricErrorResponse_good {q₀ : List Instr} {p₀ : Bool} {c₀ : Option Nat} {s : State} {entry : Fin 24576}
    {asleep : Bool} (h₀ : Good q₀ p₀ c₀ s) :
    GoodX q₀ p₀ c₀ (execFabricErrorResponse entry asleep s) := by
  unfold execFabricErrorResponse
  try dsimp only
  with_reducible
    repeat' first
      | exact h₀ | assumption | intro _ | apply answerFrom_good | apply errorResponse_good | apply GoodX.next
      | apply GoodX.ite | apply Good.ite | refine Good.of_pair (by assumption) ?_ | dsimp only | split

theorem datWrite_good {q₀ : List Instr} {p₀ : Bool} {c₀ : Option Nat} {s : State} {e : Nat} (h₀ : Good q₀ p₀ c₀ s) :
    Good q₀ p₀ c₀ (datWrite s e) := by
  unfold datWrite
  try dsimp only
  with_reducible
    repeat' first
      | exact h₀ | assumption | intro _ | apply wroteBack_good | apply grantTrk_good | apply creelServe_good
      | apply modTrk_good | apply Good.ite | refine Good.of_pair (by assumption) ?_ | dsimp only | split
      | refine Good.upd ?_

theorem reqArrives_good {q₀ : List Instr} {p₀ : Bool} {c₀ : Option Nat} {s : State} {e : Nat} (h₀ : Good q₀ p₀ c₀ s) :
    Good q₀ p₀ c₀ (reqArrives s e) := by
  unfold reqArrives
  try dsimp only
  with_reducible
    repeat' first
      | exact h₀ | assumption | intro _ | apply creelRequest_good | refine Good.of_pair (by assumption) ?_
      | dsimp only | split

theorem takeCycle_good {q₀ : List Instr} {p₀ : Bool} {c₀ : Option Nat} {n : Nat} {s : State} {slice : Nat} {l : List Nat}
    (h₀ : Good q₀ p₀ c₀ s) : Good q₀ p₀ c₀ (takeCycle n s slice l) := by
  induction n generalizing s l with
  | zero => unfold takeCycle; exact h₀
  | succ n ih =>
    cases l with
    | nil => unfold takeCycle; exact h₀
    | cons e rest =>
      unfold takeCycle
      dsimp only
      refine Good.ite (ih (reqArrives_good h₀)) (ih (reqArrives_good (Good.ite ?_ (modSlice_good h₀))))
      exact ⟨{ h₀.toSound with }, h₀.pending, h₀.part, h₀.clock⟩

theorem execCreelRequest_good {q₀ : List Instr} {p₀ : Bool} {c₀ : Option Nat} {s : State} {slice : Fin 16}
    {entries : List (Fin 24576)} (h₀ : Good q₀ p₀ c₀ s) :
    GoodX q₀ p₀ c₀ (execCreelRequest slice entries s) := by
  unfold execCreelRequest
  try dsimp only
  with_reducible
    repeat' first
      | exact h₀ | assumption | intro _ | apply serialSwitch_good | apply datWrite_good | apply takeCycle_good
      | apply GoodX.next | apply Good.foldl | refine Good.of_pair (by assumption) ?_ | dsimp only | split

theorem execWriteRetry_good {q₀ : List Instr} {p₀ : Bool} {c₀ : Option Nat} {s : State} {entry : Fin 24576}
    (h₀ : Good q₀ p₀ c₀ s) :
    GoodX q₀ p₀ c₀ (execWriteRetry entry s) := by
  unfold execWriteRetry
  try dsimp only
  with_reducible
    repeat' first
      | exact h₀ | assumption | intro _ | apply modTrk_good | apply GoodX.next | apply GoodX.ite | apply Good.ite
      | dsimp only | split | refine Good.upd ?_

theorem execConflictQueueAdvance_good {q₀ : List Instr} {p₀ : Bool} {c₀ : Option Nat} {s : State} {slice : Fin 16}
    {line : Nat} (h₀ : Good q₀ p₀ c₀ s) :
    GoodX q₀ p₀ c₀ (execConflictQueueAdvance slice line s) := by
  unfold execConflictQueueAdvance
  try dsimp only
  with_reducible
    repeat' first
      | exact h₀ | assumption | intro _ | apply advanceConf_good | apply GoodX.next | apply GoodX.ite | apply Good.ite
      | dsimp only | split

theorem trySendSnoop_good {q₀ : List Instr} {p₀ : Bool} {c₀ : Option Nat} {s : State} {r : Nat} (h₀ : Good q₀ p₀ c₀ s) :
    Good q₀ p₀ c₀ (trySendSnoop s r) := by
  unfold trySendSnoop
  try dsimp only
  with_reducible
    repeat' first
      | exact h₀ | assumption | intro _ | apply modXing_good | apply absorbFlit_good | apply modLink_good
      | apply pmuEvent_good | apply emit_good | apply Good.ite | refine Good.of_pair (by assumption) ?_ | dsimp only
      | split | refine Good.upd ?_

theorem execBisnpIssue_good {q₀ : List Instr} {p₀ : Bool} {c₀ : Option Nat} {s : State} {slice : Fin 16}
    {rec_ : Fin 128} (h₀ : Good q₀ p₀ c₀ s) :
    GoodX q₀ p₀ c₀ (execBisnpIssue slice rec_ s) := by
  unfold execBisnpIssue
  try dsimp only
  with_reducible
    repeat' first
      | exact h₀ | assumption | intro _ | apply modXing_good | apply trySendSnoop_good | apply pmuEvent_good
      | apply GoodX.next | apply GoodX.ite | apply Good.ite | refine Good.of_pair (by assumption) ?_ | dsimp only
      | split | refine Good.upd ?_

theorem execBisnpCreditGrant_good {q₀ : List Instr} {p₀ : Bool} {c₀ : Option Nat} {s : State} {port link : Fin 4}
    {n : Nat} (h₀ : Good q₀ p₀ c₀ s) :
    GoodX q₀ p₀ c₀ (execBisnpCreditGrant port link n s) := by
  unfold execBisnpCreditGrant
  try dsimp only
  with_reducible
    repeat' first
      | exact h₀ | assumption | intro _ | apply modLink_good | apply trySendSnoop_good | apply GoodX.next
      | apply GoodX.ite | apply Good.ite | apply Good.foldl | apply Good.foldl_fst | dsimp only | split
      | refine Good.upd ?_

theorem noteAnswered_good {q₀ : List Instr} {p₀ : Bool} {c₀ : Option Nat} {s : State} {seat : Nat}
    (h₀ : Good q₀ p₀ c₀ s) :
    Good q₀ p₀ c₀ (noteAnswered s seat) := by
  unfold noteAnswered
  try dsimp only
  with_reducible
    repeat' first
      | exact h₀ | assumption | intro _ | apply modSeat_good | apply Good.ite | dsimp only | split
      | refine Good.upd ?_

theorem lateBiRsp_good {q₀ : List Instr} {p₀ : Bool} {c₀ : Option Nat} {s : State} {seat dla : Nat}
    (h₀ : Good q₀ p₀ c₀ s) :
    Good q₀ p₀ c₀ (lateBiRsp s seat dla) := by
  unfold lateBiRsp
  try dsimp only
  with_reducible
    repeat' first
      | exact h₀ | assumption | intro _ | apply logEvFor_good | apply bump_good | dsimp only | split

theorem execBiRsp_good {q₀ : List Instr} {p₀ : Bool} {c₀ : Option Nat} {s : State} {m : M2S} {ans : BiAns}
    (h₀ : Good q₀ p₀ c₀ s) :
    GoodX q₀ p₀ c₀ (execBiRsp m ans s) := by
  unfold execBiRsp
  try dsimp only
  with_reducible
    repeat' first
      | exact h₀ | assumption | intro _ | apply holdFor_good | apply lateBiRsp_good | apply noteAnswered_good
      | apply modXing_good | apply snoopDone_good | apply GoodX.next | apply GoodX.ite | apply Good.ite
      | refine Good.of_pair (by assumption) ?_ | dsimp only | split | refine Good.upd ?_

theorem serveWaiting_good {q₀ : List Instr} {p₀ : Bool} {c₀ : Option Nat} {s : State} {a0 a2 : Nat} (h₀ : Good q₀ p₀ c₀ s) :
    Good q₀ p₀ c₀ (serveWaiting a0 s a2) := by
  induction a0 generalizing s a2 with
  | zero =>
    unfold serveWaiting
    try dsimp only
    with_reducible
      repeat' first
        | exact h₀ | assumption | intro _ | apply ih | apply advanceConf_good | apply Good.ite | dsimp only | split
  | succ n ih =>
    unfold serveWaiting
    try dsimp only
    with_reducible
      repeat' first
        | exact h₀ | assumption | intro _ | apply ih | apply advanceConf_good | apply Good.ite | dsimp only | split

theorem poisonHeld_good {q₀ : List Instr} {p₀ : Bool} {c₀ : Option Nat} {s : State} {line w src : Nat}
    (h₀ : Good q₀ p₀ c₀ s) :
    Good q₀ p₀ c₀ (poisonHeld s line w src) := by
  unfold poisonHeld
  try dsimp only
  with_reducible
    repeat' first
      | exact h₀ | assumption | intro _ | apply poisonDla_good | apply setCentry_good
      | refine Good.of_pair (by assumption) ?_ | dsimp only | split

theorem breakLine_good {q₀ : List Instr} {p₀ : Bool} {c₀ : Option Nat} {s : State} {line w src : Nat}
    (h₀ : Good q₀ p₀ c₀ s) :
    Good q₀ p₀ c₀ (breakLine s line w src) := by
  unfold breakLine
  try dsimp only
  with_reducible
    repeat' first
      | exact h₀ | assumption | intro _ | apply poisonHeld_good | apply refill_good | apply modAct_good
      | apply creelServe_good | apply enterIngress_good | apply serveWaiting_good | apply Good.ite | apply Good.foldl
      | refine Good.of_pair (by assumption) ?_ | dsimp only | split | refine Good.updAll ?_ | refine Good.upd ?_

theorem execBiTimeout_good {q₀ : List Instr} {p₀ : Bool} {c₀ : Option Nat} {s : State} {slice : Fin 16}
    {rec_ : Fin 128} (h₀ : Good q₀ p₀ c₀ s) :
    GoodX q₀ p₀ c₀ (execBiTimeout slice rec_ s) := by
  unfold execBiTimeout
  try dsimp only
  with_reducible
    repeat' first
      | exact h₀ | assumption | intro _ | apply advanceTo_good | apply modSeat_good | apply bump_good
      | apply breakLine_good | apply logEvFor_good | apply GoodX.next | apply GoodX.ite | apply Good.ite
      | refine Good.of_pair (by assumption) ?_ | dsimp only | split

theorem recoverEntry_good {q₀ : List Instr} {p₀ : Bool} {c₀ : Option Nat} {s : State} {slice : Nat}
    {d : Nat × Nat × Bool} (h₀ : Good q₀ p₀ c₀ s) :
    Good q₀ p₀ c₀ (recoverEntry slice s d) := by
  unfold recoverEntry
  try dsimp only
  with_reducible
    repeat' first
      | exact h₀ | assumption | intro _ | apply logEv_good | apply freeCentry_good | apply queuePurge_good
      | apply startPurge_good | apply modCreel_good | apply modSlice_good | apply Good.ite | dsimp only | split
      | refine Good.upd ?_

theorem recoverEntries_good {q₀ : List Instr} {p₀ : Bool} {c₀ : Option Nat} {s : State} {slice : Nat}
    {dam : List (Nat × Nat × Bool)} (h₀ : Good q₀ p₀ c₀ s) :
    Good q₀ p₀ c₀ (recoverEntries s slice dam) := by
  unfold recoverEntries
  try dsimp only
  with_reducible
    repeat' first
      | exact h₀ | assumption | intro _ | apply recoverEntry_good | apply modSlice_good | apply Good.foldl
      | dsimp only | split | refine Good.upd ?_

theorem execCreelEntryEccError_good {q₀ : List Instr} {p₀ : Bool} {c₀ : Option Nat} {s : State} {slice : Fin 16}
    {damaged : List (Nat × Nat × Bool)} (h₀ : Good q₀ p₀ c₀ s) :
    GoodX q₀ p₀ c₀ (execCreelEntryEccError slice damaged s) := by
  unfold execCreelEntryEccError
  try dsimp only
  with_reducible
    repeat' first
      | exact h₀ | assumption | intro _ | apply recoverEntries_good | apply GoodX.next | apply GoodX.ite
      | apply Good.ite | dsimp only | split

theorem execCreelRecoveryComplete_good {q₀ : List Instr} {p₀ : Bool} {c₀ : Option Nat} {s : State} {slice : Fin 16}
    (h₀ : Good q₀ p₀ c₀ s) :
    GoodX q₀ p₀ c₀ (execCreelRecoveryComplete slice s) := by
  unfold execCreelRecoveryComplete
  try dsimp only
  with_reducible
    repeat' first
      | exact h₀ | assumption | intro _ | apply modSlice_good | apply GoodX.next | apply GoodX.ite | apply Good.ite
      | refine Good.of_pair (by assumption) ?_ | dsimp only | split | refine Good.upd ?_

theorem execCreelSliceReady_good {q₀ : List Instr} {p₀ : Bool} {c₀ : Option Nat} {s : State} {slice : Fin 16}
    (h₀ : Good q₀ p₀ c₀ s) :
    GoodX q₀ p₀ c₀ (execCreelSliceReady slice s) := by
  unfold execCreelSliceReady
  try dsimp only
  with_reducible
    repeat' first
      | exact h₀ | assumption | intro _ | apply modSlice_good | apply GoodX.next | dsimp only | split
      | refine Good.upd ?_

end Sys2Proof.Machine
end

