-- ==== Sys2Proof/Laws/GoodCarder.lean ====
section
/-! SUPPORT. The operations of Machine/Carder.lean keep the state good (`Good`). -/

set_option linter.unusedTactic false
set_option linter.unreachableTactic false

set_option Elab.async false

namespace Sys2Proof.Machine

open Sys2Proof

theorem clearMissed_good {q₀ : List Instr} {p₀ : Bool} {c₀ : Option Nat} {s : State} {w off : Nat}
    (h₀ : Good q₀ p₀ c₀ s) :
    Good q₀ p₀ c₀ (clearMissed s w off) := by
  unfold clearMissed
  try dsimp only
  with_reducible
    repeat' first
      | exact h₀ | assumption | intro _ | apply Good.ite | dsimp only | split | refine Good.updAll ?_
      | refine Good.upd ?_

theorem fetchEntry_good {q₀ : List Instr} {p₀ : Bool} {c₀ : Option Nat} {s : State} {w off : Nat}
    {page : Option Nat} {uncorrectable : Bool} (h₀ : Good q₀ p₀ c₀ s) :
    Good q₀ p₀ c₀ (fetchEntry s w off page uncorrectable) := by
  unfold fetchEntry
  try dsimp only
  with_reducible
    repeat' first
      | exact h₀ | assumption | intro _ | apply fetchKey_good | apply clearMissed_good | apply Good.ite | dsimp only
      | split

theorem execSkeinMissFill_good {q₀ : List Instr} {p₀ : Bool} {c₀ : Option Nat} {s : State} {win : Fin 4096}
    {hank : Nat} {page : Option (Fin 512)} {uncorrectable : Bool} (h₀ : Good q₀ p₀ c₀ s) :
    GoodX q₀ p₀ c₀ (execSkeinMissFill win hank page uncorrectable s) := by
  unfold execSkeinMissFill
  try dsimp only
  with_reducible
    repeat' first
      | exact h₀ | assumption | intro _ | apply resume_good | apply fetchEntry_good | apply GoodX.next
      | apply GoodX.ite | apply Good.ite | dsimp only | split

theorem execSkeinCacheEccError_good {q₀ : List Instr} {p₀ : Bool} {c₀ : Option Nat} {s : State} {win : Fin 4096}
    {hank : Nat} {page : Option (Fin 512)} {uncorrectable : Bool} (h₀ : Good q₀ p₀ c₀ s) :
    GoodX q₀ p₀ c₀ (execSkeinCacheEccError win hank page uncorrectable s) := by
  unfold execSkeinCacheEccError
  try dsimp only
  with_reducible
    repeat' first
      | exact h₀ | assumption | intro _ | apply modPage_good | apply modHank_good | apply logEvFor_good
      | apply resume_good | apply fetchKey_good | apply GoodX.next | apply GoodX.ite | apply Good.ite
      | refine Good.of_pair (by assumption) ?_ | dsimp only | split | refine Good.upd ?_

theorem giveUnit_good {q₀ : List Instr} {p₀ : Bool} {c₀ : Option Nat} {s : State} {j : Job} {role qc slice : Nat}
    (h₀ : Good q₀ p₀ c₀ s) :
    Good q₀ p₀ c₀ (giveUnit s j role qc slice) := by
  unfold giveUnit
  try dsimp only
  with_reducible
    repeat' first
      | exact h₀ | assumption | intro _ | apply queueUnit_good | apply stampNext_good | apply placeUnit_good
      | apply Good.ite | refine Good.of_pair (by assumption) ?_ | dsimp only | split

theorem runUnit_good {q₀ : List Instr} {p₀ : Bool} {c₀ : Option Nat} {s : State} {j : Job} {role qc slice : Nat}
    {f : State → State} (h₀ : Good q₀ p₀ c₀ s) (hf : ∀ t, Good q₀ p₀ c₀ t → Good q₀ p₀ c₀ (f t)) :
    Good q₀ p₀ c₀ (runUnit s j role qc slice f) := by
  unfold runUnit
  try dsimp only
  with_reducible
    repeat' first
      | exact h₀ | assumption | intro _ | apply hf | apply giveUnit_good | apply leaveSlot_good | apply Good.ite
      | dsimp only | split

theorem execHomeFill_good {q₀ : List Instr} {p₀ : Bool} {c₀ : Option Nat} {s : State} {win : Fin 4096} {hank : Nat}
    {page : Fin 512} (h₀ : Good q₀ p₀ c₀ s) :
    GoodX q₀ p₀ c₀ (execHomeFill win hank page s) := by
  unfold execHomeFill
  try dsimp only
  with_reducible
    repeat' first
      | exact h₀ | assumption | intro _ | apply dropJobs_good | apply resume_good | apply runUnit_good
      | apply mapHotZero_good | apply GoodX.next | apply GoodX.ite | apply Good.ite | dsimp only | split

theorem queueDemo_good {q₀ : List Instr} {p₀ : Bool} {c₀ : Option Nat} {s : State} {pk : Nat} (h₀ : Good q₀ p₀ c₀ s) :
    Good q₀ p₀ c₀ (queueDemo s pk) := by
  unfold queueDemo
  try dsimp only
  with_reducible
    repeat' first
      | exact h₀ | assumption | intro _ | apply queueUnit_good | apply Good.ite | dsimp only | split
      | refine Good.upd ?_

theorem sweepDemote_good {q₀ : List Instr} {p₀ : Bool} {c₀ : Option Nat} {s : State} {key : Nat}
    (h₀ : Good q₀ p₀ c₀ s) :
    Good q₀ p₀ c₀ (sweepDemote s key) := by
  unfold sweepDemote
  try dsimp only
  with_reducible
    repeat' first
      | exact h₀ | assumption | intro _ | apply queueDemo_good | apply Good.ite | apply Good.foldl | dsimp only
      | split

theorem sweepHome_good {q₀ : List Instr} {p₀ : Bool} {c₀ : Option Nat} {s : State} {key : Nat} (h₀ : Good q₀ p₀ c₀ s) :
    Good q₀ p₀ c₀ (sweepHome s key) := by
  unfold sweepHome
  try dsimp only
  with_reducible
    repeat' first
      | exact h₀ | assumption | intro _ | apply queuePromo_good | apply Good.ite | apply Good.foldl | dsimp only
      | split

theorem execEpochEnd_good {q₀ : List Instr} {p₀ : Bool} {c₀ : Option Nat} {s : State}  (h₀ : Good q₀ p₀ c₀ s) :
    GoodX q₀ p₀ c₀ (execEpochEnd s) := by
  unfold execEpochEnd
  try dsimp only
  with_reducible
    repeat' first
      | exact h₀ | assumption | intro _ | apply advanceTo_good | apply sweepHome_good | apply sweepDemote_good
      | apply GoodX.next | apply Good.foldl | apply Good.foldl_fst | dsimp only | split | refine Good.updAll ?_
      | refine Good.upd ?_

theorem readUnitLine_good {q₀ : List Instr} {p₀ : Bool} {c₀ : Option Nat} {s : State} {w off : Nat}
    {page : Option Nat} {line kgen : Nat} {noise : List Byte} {dla : Option Nat} {qc seat : Nat}
    (h₀ : Good q₀ p₀ c₀ s) :
    Good q₀ p₀ c₀ (readUnitLine s w off page line kgen noise dla qc seat).1 := by
  unfold readUnitLine
  try dsimp only
  with_reducible
    repeat' first
      | exact h₀ | assumption | intro _ | apply casLine_good | apply flushLine_good | apply demandRead_good
      | dsimp only | split

theorem readUnit_good {q₀ : List Instr} {p₀ : Bool} {c₀ : Option Nat} {s : State} {w off : Nat} {page : Option Nat} {kgen : Nat} {dla : Option Nat} {qc a0 a2 : Nat} {a3 : List (List Byte)} (h₀ : Good q₀ p₀ c₀ s) :
    Good q₀ p₀ c₀ (readUnit w off page kgen dla qc a0 s a2 a3).1 := by
  induction a0 generalizing w off page kgen dla qc s a2 a3 with
  | zero =>
    unfold readUnit
    try dsimp only
    with_reducible
      repeat' first
        | exact h₀ | assumption | intro _ | apply ih | apply readUnitLine_good
        | refine Good.of_pair (by assumption) ?_ | dsimp only | split
  | succ n ih =>
    unfold readUnit
    try dsimp only
    with_reducible
      repeat' first
        | exact h₀ | assumption | intro _ | apply ih | apply readUnitLine_good
        | refine Good.of_pair (by assumption) ?_ | dsimp only | split

theorem writeUnit_good {q₀ : List Instr} {p₀ : Bool} {c₀ : Option Nat} {key gen qc : Nat} {s : State} {line : Nat}
    {l : List (Option (List Byte))} (h₀ : Good q₀ p₀ c₀ s) : Good q₀ p₀ c₀ (writeUnit key gen qc s line l) := by
  induction l generalizing s line with
  | nil => exact h₀
  | cons x l ih =>
    cases x with
    | none => exact ih (poisonLine_good (casLine_good h₀))
    | some d => exact ih (fullWrite_good (casLine_good h₀))

theorem endPromo_good {q₀ : List Instr} {p₀ : Bool} {c₀ : Option Nat} {s : State} {pk : Nat} {completed : Bool}
    (h₀ : Good q₀ p₀ c₀ s) :
    Good q₀ p₀ c₀ (endPromo s pk completed) := by
  unfold endPromo
  try dsimp only
  with_reducible
    repeat' first
      | exact h₀ | assumption | intro _ | apply putEntry_good | apply leaveSlot_good | dsimp only | split
      | refine Good.upd ?_

theorem endDemoFlag_good {q₀ : List Instr} {p₀ : Bool} {c₀ : Option Nat} {s : State} {pk : Nat} (h₀ : Good q₀ p₀ c₀ s) :
    Good q₀ p₀ c₀ (endDemoFlag s pk) := by
  unfold endDemoFlag
  try dsimp only
  with_reducible
    repeat' first
      | exact h₀ | assumption | intro _ | apply putEntry_good | apply Good.ite | dsimp only | split
      | refine Good.upd ?_

theorem endDemo_good {q₀ : List Instr} {p₀ : Bool} {c₀ : Option Nat} {s : State} {pk : Nat}
    {incomp completed : Bool} (h₀ : Good q₀ p₀ c₀ s) :
    Good q₀ p₀ c₀ (endDemo s pk incomp completed) := by
  unfold endDemo
  try dsimp only
  with_reducible
    repeat' first
      | exact h₀ | assumption | intro _ | apply putEntry_good | apply tryDirect_good | apply leaveSlot_good
      | apply Good.ite | dsimp only | split | refine Good.upd ?_

theorem decodePage_good {q₀ : List Instr} {p₀ : Bool} {c₀ : Option Nat} {s : State} {w dla : Nat} {p : Page} {ls : List (Option (List Byte))} {a0 : Nat} {a2 : List (Option (List Byte))} (h₀ : Good q₀ p₀ c₀ s) :
    Good q₀ p₀ c₀ (decodePage w dla p ls a0 s a2).1 := by
  induction a0 generalizing w dla p ls s a2 with
  | zero =>
    unfold decodePage
    try dsimp only
    with_reducible
      repeat' first
        | exact h₀ | assumption | intro _ | apply ih | apply segmentError_good | apply Good.ite_fst | apply Good.ite
        | refine Good.of_pair (by assumption) ?_ | dsimp only | split
  | succ n ih =>
    unfold decodePage
    try dsimp only
    with_reducible
      repeat' first
        | exact h₀ | assumption | intro _ | apply ih | apply segmentError_good | apply Good.ite_fst | apply Good.ite
        | refine Good.of_pair (by assumption) ?_ | dsimp only | split

theorem execPromotion_good {q₀ : List Instr} {p₀ : Bool} {c₀ : Option Nat} {s : State} {win : Fin 4096} {hank : Nat}
    {page : Fin 512} {noise : List (List Byte)} (h₀ : Good q₀ p₀ c₀ s) :
    GoodX q₀ p₀ c₀ (execPromotion win hank page noise s) := by
  unfold execPromotion
  try dsimp only
  with_reducible
    repeat' first
      | exact h₀ | assumption | intro _ | apply allocFrame_good | apply resume_good | apply endPromo_good
      | apply readUnit_good | apply decodePage_good | apply writeUnit_good | apply GoodX.next | apply GoodX.ite
      | apply Good.ite_fst | apply Good.ite | refine Good.of_pair (by assumption) ?_ | dsimp only | split
      | refine Good.upd ?_

theorem poisonMasked_good {q₀ : List Instr} {p₀ : Bool} {c₀ : Option Nat} {s : State} {first : Nat}
    {mask : BitVec 8} (h₀ : Good q₀ p₀ c₀ s) :
    Good q₀ p₀ c₀ (poisonMasked s first mask) := by
  unfold poisonMasked
  try dsimp only
  with_reducible
    repeat' first
      | exact h₀ | assumption | intro _ | apply poisonLine_good | apply Good.ite | apply Good.foldl | dsimp only
      | split

theorem execPromotionComplete_good {q₀ : List Instr} {p₀ : Bool} {c₀ : Option Nat} {s : State} {win : Fin 4096}
    {hank : Nat} {page : Fin 512} (h₀ : Good q₀ p₀ c₀ s) :
    GoodX q₀ p₀ c₀ (execPromotionComplete win hank page s) := by
  unfold execPromotionComplete
  try dsimp only
  with_reducible
    repeat' first
      | exact h₀ | assumption | intro _ | apply dropLcache_good | apply poisonMasked_good | apply putPage_good
      | apply freeRun_good | apply bump_good | apply endPromo_good | apply resume_good | apply tryDirect_good
      | apply GoodX.next | apply GoodX.ite | apply Good.ite | refine Good.of_pair (by assumption) ?_ | dsimp only
      | split

theorem execDemotion_good {q₀ : List Instr} {p₀ : Bool} {c₀ : Option Nat} {s : State} {win : Fin 4096} {hank : Nat}
    {page : Fin 512} {noise : List (List Byte)} (h₀ : Good q₀ p₀ c₀ s) :
    GoodX q₀ p₀ c₀ (execDemotion win hank page noise s) := by
  unfold execDemotion
  try dsimp only
  with_reducible
    repeat' first
      | exact h₀ | assumption | intro _ | apply endDemo_good | apply directToPaged_good | apply putEntry_good
      | apply readUnit_good | apply resume_good | apply bump_good | apply GoodX.next | apply GoodX.ite
      | apply Good.ite_fst | apply Good.ite | apply Good.foldl | apply Good.foldl_fst
      | refine Good.of_pair (by assumption) ?_ | dsimp only | split | refine Good.upd ?_

theorem execDemotionComplete_good {q₀ : List Instr} {p₀ : Bool} {c₀ : Option Nat} {s : State} {win : Fin 4096}
    {hank : Nat} {page : Fin 512} (h₀ : Good q₀ p₀ c₀ s) :
    GoodX q₀ p₀ c₀ (execDemotionComplete win hank page s) := by
  unfold execDemotionComplete
  try dsimp only
  with_reducible
    repeat' first
      | exact h₀ | assumption | intro _ | apply allocRun_good | apply bump_good | apply endDemo_good
      | apply writeUnit_good | apply putPage_good | apply bumpBy_good | apply freeFrame_good | apply GoodX.next
      | apply GoodX.ite | apply Good.ite_fst | apply Good.ite | refine Good.of_pair (by assumption) ?_ | dsimp only
      | split

theorem moveTarget_good {q₀ : List Instr} {p₀ : Bool} {c₀ : Option Nat} {s : State} {h : Nat} {u : HankUse}
    (h₀ : Good q₀ p₀ c₀ s) :
    Good q₀ p₀ c₀ (moveTarget s h u).1 := by
  unfold moveTarget
  try dsimp only
  with_reducible
    repeat' first
      | exact h₀ | assumption | intro _ | apply openHank_good | apply evalLevel_good | apply modUsed_good
      | refine Good.of_pair (by assumption) ?_ | dsimp only | split | refine Good.upd ?_

theorem copyMove_good {q₀ : List Instr} {p₀ : Bool} {c₀ : Option Nat} {s : State} {w off pg : Nat}
    (h₀ : Good q₀ p₀ c₀ s) :
    Good q₀ p₀ c₀ (copyMove s w off pg) := by
  unfold copyMove
  try dsimp only
  with_reducible
    repeat' first
      | exact h₀ | assumption | intro _ | apply moveTarget_good | apply readUnit_good | apply writeUnit_good
      | refine Good.of_pair (by assumption) ?_ | dsimp only | split | refine Good.upd ?_

theorem switchMove_good {q₀ : List Instr} {p₀ : Bool} {c₀ : Option Nat} {s : State} {w off pg : Nat} {m : Move}
    (h₀ : Good q₀ p₀ c₀ s) :
    Good q₀ p₀ c₀ (switchMove s w off pg m) := by
  unfold switchMove
  try dsimp only
  with_reducible
    repeat' first
      | exact h₀ | assumption | intro _ | apply putPage_good | apply resume_good | apply leaveSlot_good
      | apply Good.ite | dsimp only | split | refine Good.upd ?_

theorem execCompactionMove_good {q₀ : List Instr} {p₀ : Bool} {c₀ : Option Nat} {s : State} {win : Fin 4096}
    {hank : Nat} {page : Fin 512} (h₀ : Good q₀ p₀ c₀ s) :
    GoodX q₀ p₀ c₀ (execCompactionMove win hank page s) := by
  unfold execCompactionMove
  try dsimp only
  with_reducible
    repeat' first
      | exact h₀ | assumption | intro _ | apply switchMove_good | apply giveUnit_good | apply copyMove_good
      | apply dropJobs_good | apply GoodX.next | apply GoodX.ite | apply Good.ite
      | refine Good.of_pair (by assumption) ?_ | dsimp only | split

theorem execCompactionComplete_good {q₀ : List Instr} {p₀ : Bool} {c₀ : Option Nat} {s : State} {win : Fin 4096}
    {hank : Nat} {page : Fin 512} (h₀ : Good q₀ p₀ c₀ s) :
    GoodX q₀ p₀ c₀ (execCompactionComplete win hank page s) := by
  unfold execCompactionComplete
  try dsimp only
  with_reducible
    repeat' first
      | exact h₀ | assumption | intro _ | apply freeRun_good | apply freeFrame_good | apply GoodX.next
      | apply GoodX.ite | apply Good.ite | refine Good.of_pair (by assumption) ?_ | dsimp only | split
      | refine Good.upd ?_

theorem fillLcache_good {q₀ : List Instr} {p₀ : Bool} {c₀ : Option Nat} {s : State} {dla : Nat} {b : List Byte}
    (h₀ : Good q₀ p₀ c₀ s) :
    Good q₀ p₀ c₀ (fillLcache s dla b) := by
  unfold fillLcache
  try dsimp only
  with_reducible
    repeat' first
      | exact h₀ | assumption | intro _ | apply lcachePut_good | apply Good.foldl | dsimp only | split

theorem execSegmentDecode_good {q₀ : List Instr} {p₀ : Bool} {c₀ : Option Nat} {s : State} {entry : Fin 24576}
    {noise : List (List Byte)} (h₀ : Good q₀ p₀ c₀ s) :
    GoodX q₀ p₀ c₀ (execSegmentDecode entry noise s) := by
  unfold execSegmentDecode
  try dsimp only
  with_reducible
    repeat' first
      | exact h₀ | assumption | intro _ | apply readLines_good | apply leaveSlot_good | apply endRead_good
      | apply fillLcache_good | apply passLine_good | apply segmentError_good | apply passAll_good
      | apply poisonWaiters_good | apply GoodX.next | apply GoodX.ite | apply Good.ite_fst | apply Good.ite
      | refine Good.of_pair (by assumption) ?_ | dsimp only | split

end Sys2Proof.Machine
end

