-- ==== Sys2Proof/Laws/GoodAgentMem.lean ====
section
/-! SUPPORT. The operations of Machine/AgentMem.lean keep the state good (`Good`). -/

set_option linter.unusedTactic false
set_option linter.unreachableTactic false

set_option Elab.async false

namespace Sys2Proof.Machine

open Sys2Proof

theorem dropDeposits_good {q₀ : List Instr} {p₀ : Bool} {c₀ : Option Nat} {s : State} {k : Nat} (h₀ : Good q₀ p₀ c₀ s) :
    Good q₀ p₀ c₀ (dropDeposits s k) := by
  unfold dropDeposits
  try dsimp only
  with_reducible
    repeat' first
      | exact h₀ | assumption | intro _ | apply modSpn_good | apply Good.foldl | apply Good.foldl_fst | dsimp only
      | split | refine Good.upd ?_

theorem endDesc_good {q₀ : List Instr} {p₀ : Bool} {c₀ : Option Nat} {s : State} {k status r0 r1 r2 : Nat}
    (h₀ : Good q₀ p₀ c₀ s) :
    Good q₀ p₀ c₀ (endDesc s k status r0 r1 r2) := by
  unfold endDesc
  try dsimp only
  with_reducible
    repeat' first
      | exact h₀ | assumption | intro _ | apply modDesc_good | apply bump_good | apply stampNext_good
      | apply leaveSlot_good | apply touchHome_good | apply dropDeposits_good | apply Good.ite
      | refine Good.of_pair (by assumption) ?_ | dsimp only | split

theorem agentAsk_good {q₀ : List Instr} {p₀ : Bool} {c₀ : Option Nat} {s : State} {n w : Nat} {write full : Bool}
    {line : Nat} (h₀ : Good q₀ p₀ c₀ s) :
    Good q₀ p₀ c₀ (agentAsk s n w write full line) := by
  unfold agentAsk
  try dsimp only
  with_reducible
    repeat' first
      | exact h₀ | assumption | intro _ | apply agentRequest_good | apply Good.ite | dsimp only | split

theorem agentLines_good {q₀ : List Instr} {p₀ : Bool} {c₀ : Option Nat} {s : State} {n w dla len : Nat}
    {write : Bool} (h₀ : Good q₀ p₀ c₀ s) :
    Good q₀ p₀ c₀ (agentLines s n w dla len write).1 := by
  unfold agentLines
  try dsimp only
  with_reducible
    repeat' first
      | exact h₀ | assumption | intro _ | apply agentAsk_good | apply Good.ite_fst | apply Good.ite | apply Good.foldl
      | apply Good.foldl_fst | dsimp only | split

theorem agentOpen_good {q₀ : List Instr} {p₀ : Bool} {c₀ : Option Nat} {s : State} {n : Nat} (h₀ : Good q₀ p₀ c₀ s) :
    Good q₀ p₀ c₀ (agentOpen s n) := by
  unfold agentOpen
  try dsimp only
  with_reducible
    repeat' first
      | exact h₀ | assumption | intro _ | apply modDesc_good | apply Good.ite | dsimp only | split

theorem agentClose_good {q₀ : List Instr} {p₀ : Bool} {c₀ : Option Nat} {s : State} {n : Nat} (h₀ : Good q₀ p₀ c₀ s) :
    Good q₀ p₀ c₀ (agentClose s n) := by
  unfold agentClose
  try dsimp only
  with_reducible
    repeat' first
      | exact h₀ | assumption | intro _ | apply modDesc_good | dsimp only | split

theorem agentCount_good {q₀ : List Instr} {p₀ : Bool} {c₀ : Option Nat} {s : State} {n w dla : Nat}
    (h₀ : Good q₀ p₀ c₀ s) :
    Good q₀ p₀ c₀ (agentCount s n w dla) := by
  unfold agentCount
  try dsimp only
  with_reducible
    repeat' first
      | exact h₀ | assumption | intro _ | apply sampleHeat_good | apply agentLook_good | apply modDesc_good
      | apply Good.ite_fst | apply Good.ite | refine Good.of_pair (by assumption) ?_ | dsimp only | split
      | refine Good.upd ?_

theorem agentRead_good {q₀ : List Instr} {p₀ : Bool} {c₀ : Option Nat} {s : State} {w dla qc seat : Nat}
    (h₀ : Good q₀ p₀ c₀ s) :
    Good q₀ p₀ c₀ (agentRead s w dla qc seat).1 := by
  unfold agentRead
  try dsimp only
  with_reducible
    repeat' first
      | exact h₀ | assumption | intro _ | apply agentLook_good | apply sampleHeat_good | apply readUnitLine_good
      | apply logEvFor_good | apply casLines_good | apply flushLine_good | apply readLines_good
      | apply segmentError_good | apply Good.ite_fst | apply Good.ite | apply Good.foldl | apply Good.foldl_fst
      | refine Good.of_pair (by assumption) ?_ | dsimp only | split

theorem agentReadLines_good {q₀ : List Instr} {p₀ : Bool} {c₀ : Option Nat} {s : State} {w qc seat a0 a2 : Nat} (h₀ : Good q₀ p₀ c₀ s) :
    Good q₀ p₀ c₀ (agentReadLines w qc seat a0 s a2).1 := by
  induction a0 generalizing w qc seat s a2 with
  | zero =>
    unfold agentReadLines
    try dsimp only
    with_reducible
      repeat' first
        | exact h₀ | assumption | intro _ | apply ih | apply agentRead_good | refine Good.of_pair (by assumption) ?_
        | dsimp only | split
  | succ n ih =>
    unfold agentReadLines
    try dsimp only
    with_reducible
      repeat' first
        | exact h₀ | assumption | intro _ | apply ih | apply agentRead_good | refine Good.of_pair (by assumption) ?_
        | dsimp only | split

theorem agentSpan_good {q₀ : List Instr} {p₀ : Bool} {c₀ : Option Nat} {s : State} {w dla len qc seat : Nat}
    (h₀ : Good q₀ p₀ c₀ s) :
    Good q₀ p₀ c₀ (agentSpan s w dla len qc seat).1 := by
  unfold agentSpan
  try dsimp only
  with_reducible
    repeat' first
      | exact h₀ | assumption | intro _ | apply agentReadLines_good | dsimp only | split

theorem agentTarget_good {q₀ : List Instr} {p₀ : Bool} {c₀ : Option Nat} {s : State} {w dla qc : Nat}
    (h₀ : Good q₀ p₀ c₀ s) :
    Good q₀ p₀ c₀ (agentTarget s w dla qc).1 := by
  unfold agentTarget
  try dsimp only
  with_reducible
    repeat' first
      | exact h₀ | assumption | intro _ | apply agentFetch_good | apply writeTarget_good | apply Good.ite_fst
      | apply Good.ite | refine Good.of_pair (by assumption) ?_ | dsimp only | split

theorem agentStore_good {q₀ : List Instr} {p₀ : Bool} {c₀ : Option Nat} {s : State} {m : Msg} {t : ATarget}
    {poison mirror : Bool} (h₀ : Good q₀ p₀ c₀ s) :
    Good q₀ p₀ c₀ (agentStore s m t poison mirror) := by
  unfold agentStore
  try dsimp only
  with_reducible
    repeat' first
      | exact h₀ | assumption | intro _ | apply forwardMsg_good | apply dropLcache_good | apply poisonLine_good
      | apply casLine_good | apply plRestore_good | apply fullWrite_good | apply mergePut_good | apply Good.ite
      | refine Good.of_pair (by assumption) ?_ | dsimp only | split

theorem depositLine_good {q₀ : List Instr} {p₀ : Bool} {c₀ : Option Nat} {s : State} {k p line : Nat}
    {b : List Byte} (h₀ : Good q₀ p₀ c₀ s) :
    Good q₀ p₀ c₀ (depositLine s k p line b) := by
  unfold depositLine
  try dsimp only
  with_reducible
    repeat' first
      | exact h₀ | assumption | intro _ | apply modSpn_good | apply Good.ite | dsimp only | split | refine Good.upd ?_

theorem placeLine_good {q₀ : List Instr} {p₀ : Bool} {c₀ : Option Nat} {s : State} {k dla line key gen : Nat}
    (h₀ : Good q₀ p₀ c₀ s) :
    Good q₀ p₀ c₀ (placeLine s k dla line key gen) := by
  unfold placeLine
  try dsimp only
  with_reducible
    repeat' first
      | exact h₀ | assumption | intro _ | apply lcachePut_good | apply depositLine_good | apply Good.ite
      | refine Good.of_pair (by assumption) ?_ | dsimp only | split

theorem agentWrite_good {q₀ : List Instr} {p₀ : Bool} {c₀ : Option Nat} {s : State} {n w dla qc seat : Nat}
    {mask : BitVec 64} {data : List Byte} {poison : Bool} (h₀ : Good q₀ p₀ c₀ s) :
    Good q₀ p₀ c₀ (agentWrite s n w dla qc seat mask data poison).1 := by
  unfold agentWrite
  try dsimp only
  with_reducible
    repeat' first
      | exact h₀ | assumption | intro _ | apply agentTarget_good | apply agentCount_good | apply agentStore_good
      | apply placeLine_good | apply Good.ite_fst | apply Good.ite | refine Good.of_pair (by assumption) ?_
      | dsimp only | split

theorem agentReady_good {q₀ : List Instr} {p₀ : Bool} {c₀ : Option Nat} {s : State} {k w qc a0 a2 : Nat} (h₀ : Good q₀ p₀ c₀ s) :
    Good q₀ p₀ c₀ (agentReady k w qc a0 s a2).1 := by
  induction a0 generalizing k w qc s a2 with
  | zero =>
    unfold agentReady
    try dsimp only
    with_reducible
      repeat' first
        | exact h₀ | assumption | intro _ | apply ih | apply agentTarget_good | apply agentCount_good
        | refine Good.of_pair (by assumption) ?_ | dsimp only | split
  | succ n ih =>
    unfold agentReady
    try dsimp only
    with_reducible
      repeat' first
        | exact h₀ | assumption | intro _ | apply ih | apply agentTarget_good | apply agentCount_good
        | refine Good.of_pair (by assumption) ?_ | dsimp only | split

theorem agentWriteSpan_good {q₀ : List Instr} {p₀ : Bool} {c₀ : Option Nat} {s : State} {k w dla0 len qc seat : Nat} {bytes : List Byte} {bad : Nat → Bool} {a0 a2 : Nat} (h₀ : Good q₀ p₀ c₀ s) :
    Good q₀ p₀ c₀ (agentWriteSpan k w dla0 len qc seat bytes bad a0 s a2).1 := by
  induction a0 generalizing k w dla0 len qc seat bytes bad s a2 with
  | zero =>
    unfold agentWriteSpan
    try dsimp only
    with_reducible
      repeat' first
        | exact h₀ | assumption | intro _ | apply ih | apply agentWrite_good | apply Good.ite_fst | apply Good.ite
        | refine Good.of_pair (by assumption) ?_ | dsimp only | split
  | succ n ih =>
    unfold agentWriteSpan
    try dsimp only
    with_reducible
      repeat' first
        | exact h₀ | assumption | intro _ | apply ih | apply agentWrite_good | apply Good.ite_fst | apply Good.ite
        | refine Good.of_pair (by assumption) ?_ | dsimp only | split

theorem agentPut_good {q₀ : List Instr} {p₀ : Bool} {c₀ : Option Nat} {s : State} {k w dla qc seat : Nat}
    {bytes : List Byte} {bad : Nat → Bool} (h₀ : Good q₀ p₀ c₀ s) :
    Good q₀ p₀ c₀ (agentPut s k w dla qc seat bytes bad).1 := by
  unfold agentPut
  try dsimp only
  with_reducible
    repeat' first
      | exact h₀ | assumption | intro _ | apply agentWriteSpan_good | dsimp only | split

theorem agentPrepare_good {q₀ : List Instr} {p₀ : Bool} {c₀ : Option Nat} {s : State} {n w dla len qc : Nat}
    (h₀ : Good q₀ p₀ c₀ s) :
    Good q₀ p₀ c₀ (agentPrepare s n w dla len qc).1 := by
  unfold agentPrepare
  try dsimp only
  with_reducible
    repeat' first
      | exact h₀ | assumption | intro _ | apply agentLines_good | apply agentReady_good
      | refine Good.of_pair (by assumption) ?_ | dsimp only | split

end Sys2Proof.Machine
end

