-- ==== Sys2Proof/Laws/GoodKeys.lean ====
section
/-! SUPPORT. The operations of Machine/Keys.lean keep the state good (`Good`). -/

set_option linter.unusedTactic false
set_option linter.unreachableTactic false

set_option Elab.async false

namespace Sys2Proof.Machine

open Sys2Proof

theorem drawKey_good {q₀ : List Instr} {p₀ : Bool} {c₀ : Option Nat} {s : State}  (h₀ : Good q₀ p₀ c₀ s) :
    Good q₀ p₀ c₀ (drawKey s).1 := by
  unfold drawKey
  try dsimp only
  with_reducible
    repeat' first
      | exact h₀ | assumption | intro _ | dsimp only | split | refine Good.upd ?_

theorem drawMeta_good {q₀ : List Instr} {p₀ : Bool} {c₀ : Option Nat} {s : State}  (h₀ : Good q₀ p₀ c₀ s) :
    Good q₀ p₀ c₀ (drawMeta s) := by
  unfold drawMeta
  try dsimp only
  with_reducible
    repeat' first
      | exact h₀ | assumption | intro _ | apply drawKey_good | apply Good.ite_fst | apply Good.ite
      | refine Good.of_pair (by assumption) ?_ | dsimp only | split | refine Good.upd ?_

theorem keyEvent_good {q₀ : List Instr} {p₀ : Bool} {c₀ : Option Nat} {s : State} {k gen sev status : Nat}
    (h₀ : Good q₀ p₀ c₀ s) :
    Good q₀ p₀ c₀ (keyEvent s k gen sev status) := by
  unfold keyEvent
  try dsimp only
  with_reducible
    repeat' first
      | exact h₀ | assumption | intro _ | apply logEv_good | dsimp only | split

theorem answerWalk_good {q₀ : List Instr} {p₀ : Bool} {c₀ : Option Nat} {s : State} {x : Slot} {status : Nat}
    (h₀ : Good q₀ p₀ c₀ s) :
    Good q₀ p₀ c₀ (answerWalk s x status) := by
  unfold answerWalk
  try dsimp only
  with_reducible
    repeat' first
      | exact h₀ | assumption | intro _ | apply endDesc_good | apply emit_good | apply plySend_good | apply Good.ite
      | refine Good.of_pair (by assumption) ?_ | dsimp only | split

theorem stopWalk_good {q₀ : List Instr} {p₀ : Bool} {c₀ : Option Nat} {s : State} {k : Nat} (h₀ : Good q₀ p₀ c₀ s) :
    Good q₀ p₀ c₀ (stopWalk s k) := by
  unfold stopWalk
  try dsimp only
  with_reducible
    repeat' first
      | exact h₀ | assumption | intro _ | apply modSlot_good | apply answerWalk_good | apply dropJobs_good
      | apply Good.ite | dsimp only | split | refine Good.upd ?_

theorem zeroSlot_good {q₀ : List Instr} {p₀ : Bool} {c₀ : Option Nat} {s : State} {k : Nat} (h₀ : Good q₀ p₀ c₀ s) :
    Good q₀ p₀ c₀ (zeroSlot s k) := by
  unfold zeroSlot
  try dsimp only
  with_reducible
    repeat' first
      | exact h₀ | assumption | intro _ | apply modSlot_good | apply stopWalk_good | dsimp only | split

theorem zeroKeys_good {q₀ : List Instr} {p₀ : Bool} {c₀ : Option Nat} {s : State}  (h₀ : Good q₀ p₀ c₀ s) :
    Good q₀ p₀ c₀ (zeroKeys s) := by
  unfold zeroKeys
  try dsimp only
  with_reducible
    repeat' first
      | exact h₀ | assumption | intro _ | apply zeroSlot_good | apply Good.foldl | apply Good.foldl_fst | dsimp only
      | split | refine Good.upd ?_

theorem convertLine_good {q₀ : List Instr} {p₀ : Bool} {c₀ : Option Nat} {s : State} {w line : Nat}
    {noise : List Byte} (h₀ : Good q₀ p₀ c₀ s) :
    Good q₀ p₀ c₀ (convertLine s w line noise) := by
  unfold convertLine
  try dsimp only
  with_reducible
    repeat' first
      | exact h₀ | assumption | intro _ | apply casLine_good | apply flushLine_good | apply demandRead_good
      | apply writeLine_good | apply logEvFor_good | apply writePoison_good | apply Good.ite_fst | apply Good.ite
      | refine Good.of_pair (by assumption) ?_ | dsimp only | split

theorem convertLines_good {q₀ : List Instr} {p₀ : Bool} {c₀ : Option Nat} {s : State} {w a0 a2 : Nat} {a3 : List (List Byte)} (h₀ : Good q₀ p₀ c₀ s) :
    Good q₀ p₀ c₀ (convertLines w a0 s a2 a3) := by
  induction a0 generalizing w s a2 a3 with
  | zero =>
    unfold convertLines
    try dsimp only
    with_reducible
      repeat' first
        | exact h₀ | assumption | intro _ | apply ih | apply convertLine_good | dsimp only | split
  | succ n ih =>
    unfold convertLines
    try dsimp only
    with_reducible
      repeat' first
        | exact h₀ | assumption | intro _ | apply ih | apply convertLine_good | dsimp only | split

theorem walkOn_good {q₀ : List Instr} {p₀ : Bool} {c₀ : Option Nat} {s : State} {a0 : List Nat} {a2 : Nat} (h₀ : Good q₀ p₀ c₀ s) :
    Good q₀ p₀ c₀ (walkOn a0 s a2).1 := by
  induction a0 generalizing s a2 with
  | nil =>
    unfold walkOn
    try dsimp only
    with_reducible
      repeat' first
        | exact h₀ | assumption | intro _ | apply ih | apply modSlot_good | refine Good.of_pair (by assumption) ?_
        | dsimp only | split | refine Good.upd ?_
  | cons x l ih =>
    unfold walkOn
    try dsimp only
    with_reducible
      repeat' first
        | exact h₀ | assumption | intro _ | apply ih | apply modSlot_good | refine Good.of_pair (by assumption) ?_
        | dsimp only | split | refine Good.upd ?_

theorem setUnitGen_good {q₀ : List Instr} {p₀ : Bool} {c₀ : Option Nat} {s : State} {w off : Nat}
    {page : Option Nat} (h₀ : Good q₀ p₀ c₀ s) :
    Good q₀ p₀ c₀ (setUnitGen s w off page) := by
  unfold setUnitGen
  try dsimp only
  with_reducible
    repeat' first
      | exact h₀ | assumption | intro _ | apply putHank_good | apply putEntry_good
      | refine Good.of_pair (by assumption) ?_ | dsimp only | split | refine Good.upd ?_

theorem retireWalk_good {q₀ : List Instr} {p₀ : Bool} {c₀ : Option Nat} {s : State} {w : Nat} (h₀ : Good q₀ p₀ c₀ s) :
    Good q₀ p₀ c₀ (retireWalk s w) := by
  unfold retireWalk
  try dsimp only
  with_reducible
    repeat' first
      | exact h₀ | assumption | intro _ | apply modSlot_good | apply answerWalk_good | apply keyEvent_good
      | apply Good.ite | dsimp only | split | refine Good.upd ?_

theorem walkSteps_good {q₀ : List Instr} {p₀ : Bool} {c₀ : Option Nat} {s : State} {w steps : Nat} {between : Bool}
    (h₀ : Good q₀ p₀ c₀ s) :
    Good q₀ p₀ c₀ (walkSteps s w steps between) := by
  unfold walkSteps
  try dsimp only
  with_reducible
    repeat' first
      | exact h₀ | assumption | intro _ | apply leaveSlot_good | apply countSteps_good | apply Good.ite | dsimp only
      | split

theorem execRekeyUnitConvert_good {q₀ : List Instr} {p₀ : Bool} {c₀ : Option Nat} {s : State} {win : Fin 4096}
    {noise : List (List Byte)} (h₀ : Good q₀ p₀ c₀ s) :
    GoodX q₀ p₀ c₀ (execRekeyUnitConvert win noise s) := by
  unfold execRekeyUnitConvert
  try dsimp only
  with_reducible
    repeat' first
      | exact h₀ | assumption | intro _ | apply walkOn_good | apply resume_good | apply retireWalk_good
      | apply giveUnit_good | apply convertLines_good | apply walkSteps_good | apply modSlot_good
      | apply setUnitGen_good | apply tryDirect_good | apply GoodX.next | apply GoodX.ite | apply Good.ite_fst
      | apply Good.ite | refine Good.of_pair (by assumption) ?_ | dsimp only | split | refine Good.upd ?_

theorem execTrngHealthFail_good {q₀ : List Instr} {p₀ : Bool} {c₀ : Option Nat} {s : State}  (h₀ : Good q₀ p₀ c₀ s) :
    GoodX q₀ p₀ c₀ (execTrngHealthFail s) := by
  unfold execTrngHealthFail
  try dsimp only
  with_reducible
    repeat' first
      | exact h₀ | assumption | intro _ | apply logEv_good | apply markMs_good | apply GoodX.next | apply GoodX.ite
      | apply Good.ite | dsimp only | split | refine Good.upd ?_

theorem execTrngKeyDraw_good {q₀ : List Instr} {p₀ : Bool} {c₀ : Option Nat} {s : State}  (h₀ : Good q₀ p₀ c₀ s) :
    GoodX q₀ p₀ c₀ (execTrngKeyDraw s) := by
  unfold execTrngKeyDraw
  try dsimp only
  with_reducible
    repeat' first
      | exact h₀ | assumption | intro _ | apply drawMeta_good | apply GoodX.next | apply GoodX.ite | apply Good.ite
      | dsimp only | split | refine Good.upd ?_

end Sys2Proof.Machine
end

