-- ==== Sys2Proof/Laws/GoodSpindles.lean ====
section
/-! SUPPORT. The operations of Machine/Spindles.lean keep the state good (`Good`). -/

set_option linter.unusedTactic false
set_option linter.unreachableTactic false

set_option Elab.async false

namespace Sys2Proof.Machine

open Sys2Proof

theorem startDesc_good {q₀ : List Instr} {p₀ : Bool} {c₀ : Option Nat} {s : State} {k n : Nat} {d : Desc}
    (h₀ : Good q₀ p₀ c₀ s) :
    Good q₀ p₀ c₀ (startDesc s k n d) := by
  unfold startDesc
  try dsimp only
  with_reducible
    repeat' first
      | exact h₀ | assumption | intro _ | apply placeUnit_good | apply touchHome_good | apply stampNext_good
      | apply modDesc_good | dsimp only | split

theorem tryStart_good {q₀ : List Instr} {p₀ : Bool} {c₀ : Option Nat} {s : State} {k : Nat} (h₀ : Good q₀ p₀ c₀ s) :
    Good q₀ p₀ c₀ (tryStart s k) := by
  unfold tryStart
  try dsimp only
  with_reducible
    repeat' first
      | exact h₀ | assumption | intro _ | apply startDesc_good | apply noteWait_good | apply Good.ite
      | refine Good.of_pair (by assumption) ?_ | dsimp only | split

theorem admitUnit_good {q₀ : List Instr} {p₀ : Bool} {c₀ : Option Nat} {s : State} {u : Unit_} (h₀ : Good q₀ p₀ c₀ s) :
    Good q₀ p₀ c₀ (admitUnit s u) := by
  unfold admitUnit
  try dsimp only
  with_reducible
    repeat' first
      | exact h₀ | assumption | intro _ | apply placeUnit_good | apply touchHome_good
      | refine Good.of_pair (by assumption) ?_ | dsimp only | split | refine Good.upd ?_

theorem execSpindleUnitAdmit_good {q₀ : List Instr} {p₀ : Bool} {c₀ : Option Nat} {s : State}  (h₀ : Good q₀ p₀ c₀ s) :
    GoodX q₀ p₀ c₀ (execSpindleUnitAdmit s) := by
  unfold execSpindleUnitAdmit
  try dsimp only
  with_reducible
    repeat' first
      | exact h₀ | assumption | intro _ | apply tryStart_good | apply admitUnit_good | apply noteWait_good
      | apply GoodX.next | apply GoodX.ite | apply Good.ite | apply Good.foldl
      | refine Good.of_pair (by assumption) ?_ | dsimp only | split

theorem execSpindleClockGate_good {q₀ : List Instr} {p₀ : Bool} {c₀ : Option Nat} {s : State} {n : Fin 48}
    (h₀ : Good q₀ p₀ c₀ s) :
    GoodX q₀ p₀ c₀ (execSpindleClockGate n s) := by
  unfold execSpindleClockGate
  try dsimp only
  with_reducible
    repeat' first
      | exact h₀ | assumption | intro _ | apply advanceTo_good | apply modSpn_good | apply GoodX.next
      | apply GoodX.ite | apply Good.ite | dsimp only | split

theorem execSpindleLendStart_good {q₀ : List Instr} {p₀ : Bool} {c₀ : Option Nat} {s : State} {n : Fin 48}
    {role : Fin 6} (h₀ : Good q₀ p₀ c₀ s) :
    GoodX q₀ p₀ c₀ (execSpindleLendStart n role s) := by
  unfold execSpindleLendStart
  try dsimp only
  with_reducible
    repeat' first
      | exact h₀ | assumption | intro _ | apply advanceTo_good | apply modSpn_good | apply GoodX.next
      | apply GoodX.ite | apply Good.ite | dsimp only | split | refine Good.upd ?_

theorem failUnit_good {q₀ : List Instr} {p₀ : Bool} {c₀ : Option Nat} {s : State} {n slot : Nat}
    (h₀ : Good q₀ p₀ c₀ s) :
    Good q₀ p₀ c₀ (failUnit s n slot) := by
  unfold failUnit
  try dsimp only
  with_reducible
    repeat' first
      | exact h₀ | assumption | intro _ | apply tellIsland_good | apply leaveSlot_good | apply logEvFor_good
      | apply passLine_good | apply endRead_good | apply modTrk_good | apply freeFrame_good | apply endDemoFlag_good
      | apply endDesc_good | apply cancelMove_good | apply Good.ite | refine Good.of_pair (by assumption) ?_
      | dsimp only | split | refine Good.upd ?_

theorem failSpindle_good {q₀ : List Instr} {p₀ : Bool} {c₀ : Option Nat} {s : State} {n : Nat} (h₀ : Good q₀ p₀ c₀ s) :
    Good q₀ p₀ c₀ (failSpindle s n) := by
  unfold failSpindle
  try dsimp only
  with_reducible
    repeat' first
      | exact h₀ | assumption | intro _ | apply modSpn_good | apply failUnit_good | apply Good.foldl
      | apply Good.foldl_fst | dsimp only | split | refine Good.upd ?_

theorem execLocalStoreError_good {q₀ : List Instr} {p₀ : Bool} {c₀ : Option Nat} {s : State} {n : Fin 48}
    {area : LsArea} {correctable : Bool} (h₀ : Good q₀ p₀ c₀ s) :
    GoodX q₀ p₀ c₀ (execLocalStoreError n area correctable s) := by
  unfold execLocalStoreError
  try dsimp only
  with_reducible
    repeat' first
      | exact h₀ | assumption | intro _ | apply bump_good | apply failUnit_good | apply modSpn_good | apply logEv_good
      | apply failSpindle_good | apply GoodX.next | apply GoodX.ite | apply Good.ite
      | refine Good.of_pair (by assumption) ?_ | dsimp only | split | refine Good.upd ?_

theorem execSpindlePcSample_good {q₀ : List Instr} {p₀ : Bool} {c₀ : Option Nat} {s : State} {n : Fin 48}
    {slot : Fin 32} {pc : BitVec 13} (h₀ : Good q₀ p₀ c₀ s) :
    GoodX q₀ p₀ c₀ (execSpindlePcSample n slot pc s) := by
  unfold execSpindlePcSample
  try dsimp only
  with_reducible
    repeat' first
      | exact h₀ | assumption | intro _ | apply modSpn_good | apply advanceTo_good | apply pmuIrq_good
      | apply GoodX.next | apply GoodX.ite | apply Good.ite | refine Good.of_pair (by assumption) ?_ | dsimp only
      | split

end Sys2Proof.Machine
end

