-- ==== Sys2Proof/Laws/GoodRings.lean ====
section
/-! SUPPORT. The operations of Machine/Rings.lean keep the state good (`Good`). -/

set_option linter.unusedTactic false
set_option linter.unreachableTactic false

set_option Elab.async false

namespace Sys2Proof.Machine

open Sys2Proof

theorem dbBad_good {q₀ : List Instr} {p₀ : Bool} {c₀ : Option Nat} {s : State}  (h₀ : Good q₀ p₀ c₀ s) :
    Good q₀ p₀ c₀ (dbBad s) := by
  unfold dbBad
  try dsimp only
  with_reducible
    repeat' first
      | exact h₀ | assumption | intro _ | apply bump_good | dsimp only | split

theorem ringEvent_good {q₀ : List Instr} {p₀ : Bool} {c₀ : Option Nat} {s : State} {r sev k : Nat}
    (h₀ : Good q₀ p₀ c₀ s) :
    Good q₀ p₀ c₀ (ringEvent s r sev k) := by
  unfold ringEvent
  try dsimp only
  with_reducible
    repeat' first
      | exact h₀ | assumption | intro _ | apply logEvFor_good | dsimp only | split

theorem dbRefuse_good {q₀ : List Instr} {p₀ : Bool} {c₀ : Option Nat} {s : State} {r : Nat} (h₀ : Good q₀ p₀ c₀ s) :
    Good q₀ p₀ c₀ (dbRefuse s r) := by
  unfold dbRefuse
  try dsimp only
  with_reducible
    repeat' first
      | exact h₀ | assumption | intro _ | apply ringEvent_good | apply dbBad_good | dsimp only | split

theorem haltRing_good {q₀ : List Instr} {p₀ : Bool} {c₀ : Option Nat} {s : State} {r : Nat} (h₀ : Good q₀ p₀ c₀ s) :
    Good q₀ p₀ c₀ (haltRing s r) := by
  unfold haltRing
  try dsimp only
  with_reducible
    repeat' first
      | exact h₀ | assumption | intro _ | apply ringEvent_good | apply modRing_good | apply Good.ite | dsimp only
      | split | refine Good.upd ?_

theorem enableRing_good {q₀ : List Instr} {p₀ : Bool} {c₀ : Option Nat} {s : State} {r : Nat} (h₀ : Good q₀ p₀ c₀ s) :
    Good q₀ p₀ c₀ (enableRing s r) := by
  unfold enableRing
  try dsimp only
  with_reducible
    repeat' first
      | exact h₀ | assumption | intro _ | apply modRing_good | apply dbRefuse_good | apply Good.ite | dsimp only
      | split

theorem takeDesc_good {q₀ : List Instr} {p₀ : Bool} {c₀ : Option Nat} {s : State} {r : Nat} {raw : List Byte}
    (h₀ : Good q₀ p₀ c₀ s) :
    Good q₀ p₀ c₀ (takeDesc s r raw) := by
  unfold takeDesc
  try dsimp only
  with_reducible
    repeat' first
      | exact h₀ | assumption | intro _ | apply stampNext_good | apply modDesc_good | apply modRing_good
      | apply touchHome_good | dsimp only | split | refine Good.upd ?_

theorem takeOneDisabled_good {q₀ : List Instr} {p₀ : Bool} {c₀ : Option Nat} {s : State} {r w dla : Nat}
    (h₀ : Good q₀ p₀ c₀ s) :
    Good q₀ p₀ c₀ (takeOneDisabled s r w dla) := by
  unfold takeOneDisabled
  try dsimp only
  with_reducible
    repeat' first
      | exact h₀ | assumption | intro _ | apply agentLines_good | apply agentRead_good | apply endDesc_good
      | apply takeDesc_good | apply modDesc_good | apply Good.ite_fst | apply Good.ite
      | refine Good.of_pair (by assumption) ?_ | dsimp only | split | refine Good.upd ?_

theorem takeDisabled_good {q₀ : List Instr} {p₀ : Bool} {c₀ : Option Nat} {s : State} {a0 a2 : Nat} (h₀ : Good q₀ p₀ c₀ s) :
    Good q₀ p₀ c₀ (takeDisabled a0 s a2) := by
  induction a0 generalizing s a2 with
  | zero =>
    unfold takeDisabled
    try dsimp only
    with_reducible
      repeat' first
        | exact h₀ | assumption | intro _ | apply ih | apply takeOneDisabled_good | apply Good.ite
        | refine Good.of_pair (by assumption) ?_ | dsimp only | split
  | succ n ih =>
    unfold takeDisabled
    try dsimp only
    with_reducible
      repeat' first
        | exact h₀ | assumption | intro _ | apply ih | apply takeOneDisabled_good | apply Good.ite
        | refine Good.of_pair (by assumption) ?_ | dsimp only | split

theorem disableRing_good {q₀ : List Instr} {p₀ : Bool} {c₀ : Option Nat} {s : State} {r : Nat} {removed : Bool}
    (h₀ : Good q₀ p₀ c₀ s) :
    Good q₀ p₀ c₀ (disableRing s r removed) := by
  unfold disableRing
  try dsimp only
  with_reducible
    repeat' first
      | exact h₀ | assumption | intro _ | apply takeDisabled_good | apply logEvFor_good | apply endDesc_good
      | apply modRing_good | apply Good.ite | apply Good.foldl | apply Good.foldl_fst
      | refine Good.of_pair (by assumption) ?_ | dsimp only | split | refine Good.upd ?_

theorem putSqTail_good {q₀ : List Instr} {p₀ : Bool} {c₀ : Option Nat} {s : State} {r v : Nat} (h₀ : Good q₀ p₀ c₀ s) :
    Good q₀ p₀ c₀ (putSqTail s r v) := by
  unfold putSqTail
  try dsimp only
  with_reducible
    repeat' first
      | exact h₀ | assumption | intro _ | apply modRing_good | apply dbRefuse_good | apply Good.ite | dsimp only
      | split | refine Good.upd ?_

theorem putCqHead_good {q₀ : List Instr} {p₀ : Bool} {c₀ : Option Nat} {s : State} {r v : Nat} (h₀ : Good q₀ p₀ c₀ s) :
    Good q₀ p₀ c₀ (putCqHead s r v) := by
  unfold putCqHead
  try dsimp only
  with_reducible
    repeat' first
      | exact h₀ | assumption | intro _ | apply modRing_good | apply dbRefuse_good | apply Good.ite | dsimp only
      | split | refine Good.upd ?_

theorem putSqSetup_good {q₀ : List Instr} {p₀ : Bool} {c₀ : Option Nat} {s : State} {r v : Nat} (h₀ : Good q₀ p₀ c₀ s) :
    Good q₀ p₀ c₀ (putSqSetup s r v) := by
  unfold putSqSetup
  try dsimp only
  with_reducible
    repeat' first
      | exact h₀ | assumption | intro _ | apply modRing_good | apply enableRing_good | apply disableRing_good
      | apply Good.ite | dsimp only | split | refine Good.upd ?_

theorem putCqSetup_good {q₀ : List Instr} {p₀ : Bool} {c₀ : Option Nat} {s : State} {r v : Nat} (h₀ : Good q₀ p₀ c₀ s) :
    Good q₀ p₀ c₀ (putCqSetup s r v) := by
  unfold putCqSetup
  try dsimp only
  with_reducible
    repeat' first
      | exact h₀ | assumption | intro _ | apply modRing_good | apply Good.ite | dsimp only | split
      | refine Good.upd ?_

theorem putField_good {q₀ : List Instr} {p₀ : Bool} {c₀ : Option Nat} {s : State} {seat off v : Nat}
    (h₀ : Good q₀ p₀ c₀ s) :
    Good q₀ p₀ c₀ (putField s seat off v) := by
  unfold putField
  try dsimp only
  with_reducible
    repeat' first
      | exact h₀ | assumption | intro _ | apply dbBad_good | apply putSqTail_good | apply putCqHead_good
      | apply putSqSetup_good | apply putCqSetup_good | apply Good.ite | refine Good.of_pair (by assumption) ?_
      | dsimp only | split

theorem doorbellLine_good {q₀ : List Instr} {p₀ : Bool} {c₀ : Option Nat} {s : State} {seat off : Nat}
    {mask : BitVec 64} {data : List Byte} (h₀ : Good q₀ p₀ c₀ s) :
    Good q₀ p₀ c₀ (doorbellLine s seat off mask data) := by
  unfold doorbellLine
  try dsimp only
  with_reducible
    repeat' first
      | exact h₀ | assumption | intro _ | apply dbBad_good | apply putField_good | apply Good.ite | apply Good.foldl
      | dsimp only | split

theorem doorbell_good {q₀ : List Instr} {p₀ : Bool} {c₀ : Option Nat} {s : State} {m : M2S ⊕ (Fn × Nat)}
    {row : Instr} {off v : Nat} (h₀ : Good q₀ p₀ c₀ s) :
    Good q₀ p₀ c₀ (doorbell s m row off v) := by
  unfold doorbell
  try dsimp only
  with_reducible
    repeat' first
      | exact h₀ | assumption | intro _ | apply m2sGate_good | apply refuseM2S_good | apply sendNdr_good
      | apply putField_good | apply leavesIngress_good | apply fnGate_good | apply dbBad_good | apply Good.ite
      | refine Good.of_pair (by assumption) ?_ | dsimp only | split

theorem execSqTailDoorbell_good {q₀ : List Instr} {p₀ : Bool} {c₀ : Option Nat} {s : State} {m : M2S ⊕ (Fn × Nat)}
    {local_ : Fin 64} {val : BitVec 64} (h₀ : Good q₀ p₀ c₀ s) :
    GoodX q₀ p₀ c₀ (execSqTailDoorbell m local_ val s) := by
  unfold execSqTailDoorbell
  try dsimp only
  with_reducible
    repeat' first
      | exact h₀ | assumption | intro _ | apply doorbell_good | apply GoodX.next | dsimp only | split

theorem execCqHeadDoorbell_good {q₀ : List Instr} {p₀ : Bool} {c₀ : Option Nat} {s : State} {m : M2S ⊕ (Fn × Nat)}
    {local_ : Fin 64} {val : BitVec 64} (h₀ : Good q₀ p₀ c₀ s) :
    GoodX q₀ p₀ c₀ (execCqHeadDoorbell m local_ val s) := by
  unfold execCqHeadDoorbell
  try dsimp only
  with_reducible
    repeat' first
      | exact h₀ | assumption | intro _ | apply doorbell_good | apply GoodX.next | dsimp only | split

theorem execRingEnable_good {q₀ : List Instr} {p₀ : Bool} {c₀ : Option Nat} {s : State} {m : M2S ⊕ (Fn × Nat)}
    {local_ : Fin 64} {val : BitVec 64} (h₀ : Good q₀ p₀ c₀ s) :
    GoodX q₀ p₀ c₀ (execRingEnable m local_ val s) := by
  unfold execRingEnable
  try dsimp only
  with_reducible
    repeat' first
      | exact h₀ | assumption | intro _ | apply doorbell_good | apply GoodX.next | dsimp only | split

theorem execRingDisable_good {q₀ : List Instr} {p₀ : Bool} {c₀ : Option Nat} {s : State} {m : M2S ⊕ (Fn × Nat)}
    {local_ : Fin 64} {val : BitVec 64} (h₀ : Good q₀ p₀ c₀ s) :
    GoodX q₀ p₀ c₀ (execRingDisable m local_ val s) := by
  unfold execRingDisable
  try dsimp only
  with_reducible
    repeat' first
      | exact h₀ | assumption | intro _ | apply doorbell_good | apply GoodX.next | dsimp only | split

theorem execCqSetup_good {q₀ : List Instr} {p₀ : Bool} {c₀ : Option Nat} {s : State} {m : M2S ⊕ (Fn × Nat)}
    {local_ : Fin 64} {val : BitVec 64} (h₀ : Good q₀ p₀ c₀ s) :
    GoodX q₀ p₀ c₀ (execCqSetup m local_ val s) := by
  unfold execCqSetup
  try dsimp only
  with_reducible
    repeat' first
      | exact h₀ | assumption | intro _ | apply doorbell_good | apply GoodX.next | dsimp only | split

theorem execDescriptorTake_good {q₀ : List Instr} {p₀ : Bool} {c₀ : Option Nat} {s : State}  (h₀ : Good q₀ p₀ c₀ s) :
    GoodX q₀ p₀ c₀ (execDescriptorTake s) := by
  unfold execDescriptorTake
  try dsimp only
  with_reducible
    repeat' first
      | exact h₀ | assumption | intro _ | apply haltRing_good | apply agentLines_good | apply agentOpen_good
      | apply agentRead_good | apply agentClose_good | apply endDesc_good | apply takeDesc_good | apply tryStart_good
      | apply GoodX.next | apply GoodX.ite | apply Good.ite_fst | apply Good.ite
      | refine Good.of_pair (by assumption) ?_ | dsimp only | split | refine Good.updAll ?_ | refine Good.upd ?_

theorem dropDesc_good {q₀ : List Instr} {p₀ : Bool} {c₀ : Option Nat} {s : State} {r k : Nat} (h₀ : Good q₀ p₀ c₀ s) :
    Good q₀ p₀ c₀ (dropDesc s r k) := by
  unfold dropDesc
  try dsimp only
  with_reducible
    repeat' first
      | exact h₀ | assumption | intro _ | apply modRing_good | apply modDesc_good | dsimp only | split
      | refine Good.upd ?_

theorem lateFetch_good {q₀ : List Instr} {p₀ : Bool} {c₀ : Option Nat} {s : State} {r k : Nat} (h₀ : Good q₀ p₀ c₀ s) :
    Good q₀ p₀ c₀ (lateFetch s r k).1 := by
  unfold lateFetch
  try dsimp only
  with_reducible
    repeat' first
      | exact h₀ | assumption | intro _ | apply agentLines_good | apply agentRead_good | apply modDesc_good
      | apply Good.ite_fst | apply Good.ite | refine Good.of_pair (by assumption) ?_ | dsimp only | split
      | refine Good.upd ?_

theorem putRecord_good {q₀ : List Instr} {p₀ : Bool} {c₀ : Option Nat} {s : State} {r k index : Nat} {d : Desc}
    (h₀ : Good q₀ p₀ c₀ s) :
    Good q₀ p₀ c₀ (putRecord s r k index d) := by
  unfold putRecord
  try dsimp only
  with_reducible
    repeat' first
      | exact h₀ | assumption | intro _ | apply haltRing_good | apply dropDesc_good | apply agentPrepare_good
      | apply agentPut_good | apply modRing_good | apply msix_good | apply Good.ite_fst | apply Good.ite
      | refine Good.of_pair (by assumption) ?_ | dsimp only | split

theorem execCompletionRecordWrite_good {q₀ : List Instr} {p₀ : Bool} {c₀ : Option Nat} {s : State} {ring : Fin 8192}
    {index : Nat} (h₀ : Good q₀ p₀ c₀ s) :
    GoodX q₀ p₀ c₀ (execCompletionRecordWrite ring index s) := by
  unfold execCompletionRecordWrite
  try dsimp only
  with_reducible
    repeat' first
      | exact h₀ | assumption | intro _ | apply dropDesc_good | apply lateFetch_good | apply putRecord_good
      | apply GoodX.next | apply GoodX.ite | apply Good.ite_fst | apply Good.ite
      | refine Good.of_pair (by assumption) ?_ | dsimp only | split

theorem execRingDrainComplete_good {q₀ : List Instr} {p₀ : Bool} {c₀ : Option Nat} {s : State} {ring : Fin 8192}
    (h₀ : Good q₀ p₀ c₀ s) :
    GoodX q₀ p₀ c₀ (execRingDrainComplete ring s) := by
  unfold execRingDrainComplete
  try dsimp only
  with_reducible
    repeat' first
      | exact h₀ | assumption | intro _ | apply modRing_good | apply ringEvent_good | apply GoodX.next
      | apply GoodX.ite | apply Good.ite | dsimp only | split | refine Good.upd ?_

end Sys2Proof.Machine
end

