-- ==== Sys2Proof/Laws/GoodStream.lean ====
section
/-! SUPPORT. The operations of Machine/Stream.lean keep the state good (`Good`). -/

set_option linter.unusedTactic false
set_option linter.unreachableTactic false

set_option Elab.async false

namespace Sys2Proof.Machine

open Sys2Proof

theorem histPut_good {q₀ : List Instr} {p₀ : Bool} {c₀ : Option Nat} {s : State} {k w dla : Nat} {c : Ctx}
    {qc seat : Nat} {b : List Byte} (h₀ : Good q₀ p₀ c₀ s) :
    Good q₀ p₀ c₀ (histPut s k w dla c qc seat b).1 := by
  unfold histPut
  try dsimp only
  with_reducible
    repeat' first
      | exact h₀ | assumption | intro _ | apply agentPut_good | refine Good.of_pair (by assumption) ?_ | dsimp only
      | split

end Sys2Proof.Machine
end

