-- ==== Sys2Proof/Laws/GoodRingOps.lean ====
section
/-! SUPPORT. The operations of Machine/RingOps.lean keep the state good (`Good`). -/

set_option linter.unusedTactic false
set_option linter.unreachableTactic false

set_option Elab.async false

namespace Sys2Proof.Machine

open Sys2Proof

theorem onDesc_good {q₀ : List Instr} {p₀ : Bool} {c₀ : Option Nat} {s : State} {r i op : Nat}
    {f : Running → State → State} (h₀ : Good q₀ p₀ c₀ s) (hf : ∀ x0 t, Good q₀ p₀ c₀ t → Good q₀ p₀ c₀ (f x0 t)) :
    Good q₀ p₀ c₀ (onDesc s r i op f) := by
  unfold onDesc
  try dsimp only
  with_reducible
    repeat' first
      | exact h₀ | assumption | intro _ | apply hf | refine Good.of_pair (by assumption) ?_ | dsimp only | split

theorem descError_good {q₀ : List Instr} {p₀ : Bool} {c₀ : Option Nat} {s : State} {d : Running} {w dla u : Nat}
    (h₀ : Good q₀ p₀ c₀ s) : Good q₀ p₀ c₀ (descError s d w dla u) := by
  unfold descError
  exact logEvFor_good (errorResponse_good h₀)

/-- What touching a range leaves is good, where there is an answer. -/
theorem operandNote_good {q₀ : List Instr} {p₀ : Bool} {c₀ : Option Nat} {s t : State} {d : Running} {hpa len st : Nat}
    (h₀ : Good q₀ p₀ c₀ s) (e : operandNote s d hpa len st = some t) : Good q₀ p₀ c₀ t := by
  unfold operandNote at e
  split at e
  · cases e; exact h₀
  · split at e
    · cases e; exact h₀
    · split at e
      · cases e
      · split at e
        · cases e; exact descError_good h₀
        · cases e; exact h₀

theorem operandFails_good {q₀ : List Instr} {p₀ : Bool} {c₀ : Option Nat} {s : State} {d : Running} {hpa len st r2 : Nat}
    (h₀ : Good q₀ p₀ c₀ s) : Good q₀ p₀ c₀ (operandFails s d hpa len st r2) := by
  unfold operandFails
  split
  · rename_i e; exact endDesc_good (operandNote_good h₀ e)
  · exact h₀

theorem withOperand_good {q₀ : List Instr} {p₀ : Bool} {c₀ : Option Nat} {s : State} {d : Running} {hpa len : Nat}
    {f : Nat → Nat → State} (h₀ : Good q₀ p₀ c₀ s) (hf : ∀ x0 x1, Good q₀ p₀ c₀ (f x0 x1)) :
    Good q₀ p₀ c₀ (withOperand s d hpa len f) := by
  unfold withOperand
  try dsimp only
  with_reducible
    repeat' first
      | exact h₀ | assumption | intro _ | apply hf | apply operandFails_good | refine Good.of_pair (by assumption) ?_
      | dsimp only | split

theorem descSpan_good {q₀ : List Instr} {p₀ : Bool} {c₀ : Option Nat} {s : State} {d : Running} {w dla len : Nat}
    (h₀ : Good q₀ p₀ c₀ s) :
    Good q₀ p₀ c₀ (descSpan s d w dla len).1 := by
  unfold descSpan
  try dsimp only
  with_reducible
    repeat' first
      | exact h₀ | assumption | intro _ | apply agentSpan_good | apply Good.ite_fst | apply Good.ite
      | refine Good.of_pair (by assumption) ?_ | dsimp only | split

theorem withTarget_good {q₀ : List Instr} {p₀ : Bool} {c₀ : Option Nat} {s : State} {d : Running} {hpa len : Nat}
    {f : Nat → Nat → State} (h₀ : Good q₀ p₀ c₀ s) (hf : ∀ x0 x1, Good q₀ p₀ c₀ (f x0 x1)) :
    Good q₀ p₀ c₀ (withTarget s d hpa len f) := by
  unfold withTarget
  try dsimp only
  with_reducible
    repeat' first
      | exact h₀ | assumption | intro _ | apply hf | apply withOperand_good | apply endDesc_good | apply Good.ite
      | dsimp only | split

theorem putResult_good {q₀ : List Instr} {p₀ : Bool} {c₀ : Option Nat} {s : State} {d : Running} {w dla : Nat}
    {bytes : List Byte} {bad : Nat → Bool} {short : Nat → Nat × Nat × Nat} {fin : State → State}
    (h₀ : Good q₀ p₀ c₀ s) (hfin : ∀ t, Good q₀ p₀ c₀ t → Good q₀ p₀ c₀ (fin t)) :
    Good q₀ p₀ c₀ (putResult s d w dla bytes bad short fin) := by
  unfold putResult
  try dsimp only
  with_reducible
    repeat' first
      | exact h₀ | assumption | intro _ | apply hfin | apply agentPut_good | apply endDesc_good | apply Good.ite_fst
      | apply Good.ite | refine Good.of_pair (by assumption) ?_ | dsimp only | split

theorem execNop_good {q₀ : List Instr} {p₀ : Bool} {c₀ : Option Nat} {s : State} {ring : Fin 8192} {index : Nat}
    (h₀ : Good q₀ p₀ c₀ s) :
    GoodX q₀ p₀ c₀ (execNop ring index s) := by
  unfold execNop
  try dsimp only
  with_reducible
    repeat' first
      | exact h₀ | assumption | intro _ | apply onDesc_good | apply endDesc_good | apply GoodX.next | dsimp only
      | split

theorem execCopy_good {q₀ : List Instr} {p₀ : Bool} {c₀ : Option Nat} {s : State} {ring : Fin 8192} {index : Nat}
    (h₀ : Good q₀ p₀ c₀ s) :
    GoodX q₀ p₀ c₀ (execCopy ring index s) := by
  unfold execCopy
  try dsimp only
  with_reducible
    repeat' first
      | exact h₀ | assumption | intro _ | apply onDesc_good | apply withOperand_good | apply withTarget_good
      | apply agentLines_good | apply agentPrepare_good | apply descSpan_good | apply putResult_good
      | apply endDesc_good | apply GoodX.next | apply GoodX.ite | apply Good.ite_fst | apply Good.ite
      | refine Good.of_pair (by assumption) ?_ | dsimp only | split

theorem execFill_good {q₀ : List Instr} {p₀ : Bool} {c₀ : Option Nat} {s : State} {ring : Fin 8192} {index : Nat}
    (h₀ : Good q₀ p₀ c₀ s) :
    GoodX q₀ p₀ c₀ (execFill ring index s) := by
  unfold execFill
  try dsimp only
  with_reducible
    repeat' first
      | exact h₀ | assumption | intro _ | apply onDesc_good | apply withTarget_good | apply agentPrepare_good
      | apply putResult_good | apply endDesc_good | apply GoodX.next | apply GoodX.ite | apply Good.ite_fst
      | apply Good.ite | refine Good.of_pair (by assumption) ?_ | dsimp only | split

theorem sendMeta_good {q₀ : List Instr} {p₀ : Bool} {c₀ : Option Nat} {s : State} {w kind dla : Nat}
    {desc : Option Nat} (h₀ : Good q₀ p₀ c₀ s) :
    Good q₀ p₀ c₀ (sendMeta s w kind dla desc).1 := by
  unfold sendMeta
  try dsimp only
  with_reducible
    repeat' first
      | exact h₀ | assumption | intro _ | apply plySend_good | apply setDirty_good | apply Good.ite_fst
      | apply Good.ite | refine Good.of_pair (by assumption) ?_ | dsimp only | split | refine Good.upd ?_

theorem unmapPages_good {q₀ : List Instr} {p₀ : Bool} {c₀ : Option Nat} {s : State} {w k : Nat} {a0 : List Nat} {a2 : Nat} (h₀ : Good q₀ p₀ c₀ s) :
    Good q₀ p₀ c₀ (unmapPages w k a0 s a2).1 := by
  induction a0 generalizing w k s a2 with
  | nil =>
    unfold unmapPages
    try dsimp only
    with_reducible
      repeat' first
        | exact h₀ | assumption | intro _ | apply ih | apply unmapPage_good | apply sendMeta_good
        | refine Good.of_pair (by assumption) ?_ | dsimp only | split
  | cons x l ih =>
    unfold unmapPages
    try dsimp only
    with_reducible
      repeat' first
        | exact h₀ | assumption | intro _ | apply ih | apply unmapPage_good | apply sendMeta_good
        | refine Good.of_pair (by assumption) ?_ | dsimp only | split

theorem endAfter_good {q₀ : List Instr} {p₀ : Bool} {c₀ : Option Nat} {s : State} {k n status r0 r1 : Nat}
    (h₀ : Good q₀ p₀ c₀ s) :
    Good q₀ p₀ c₀ (endAfter s k n status r0 r1) := by
  unfold endAfter
  try dsimp only
  with_reducible
    repeat' first
      | exact h₀ | assumption | intro _ | apply endDesc_good | apply modDesc_good | apply Good.ite | dsimp only
      | split | refine Good.upd ?_

theorem execZero_good {q₀ : List Instr} {p₀ : Bool} {c₀ : Option Nat} {s : State} {ring : Fin 8192} {index : Nat}
    (h₀ : Good q₀ p₀ c₀ s) :
    GoodX q₀ p₀ c₀ (execZero ring index s) := by
  unfold execZero
  try dsimp only
  with_reducible
    repeat' first
      | exact h₀ | assumption | intro _ | apply onDesc_good | apply withTarget_good | apply agentLines_good
      | apply agentReady_good | apply putResult_good | apply unmapPages_good | apply agentPut_good
      | apply endAfter_good | apply GoodX.next | apply GoodX.ite | apply Good.ite_fst | apply Good.ite
      | refine Good.of_pair (by assumption) ?_ | dsimp only | split

theorem execCrc_good {q₀ : List Instr} {p₀ : Bool} {c₀ : Option Nat} {s : State} {ring : Fin 8192} {index : Nat}
    (h₀ : Good q₀ p₀ c₀ s) :
    GoodX q₀ p₀ c₀ (execCrc ring index s) := by
  unfold execCrc
  try dsimp only
  with_reducible
    repeat' first
      | exact h₀ | assumption | intro _ | apply onDesc_good | apply withOperand_good | apply agentLines_good
      | apply descSpan_good | apply endDesc_good | apply GoodX.next | apply GoodX.ite | apply Good.ite_fst
      | apply Good.ite | refine Good.of_pair (by assumption) ?_ | dsimp only | split

theorem execHash_good {q₀ : List Instr} {p₀ : Bool} {c₀ : Option Nat} {s : State} {ring : Fin 8192} {index : Nat}
    (h₀ : Good q₀ p₀ c₀ s) :
    GoodX q₀ p₀ c₀ (execHash ring index s) := by
  unfold execHash
  try dsimp only
  with_reducible
    repeat' first
      | exact h₀ | assumption | intro _ | apply onDesc_good | apply withOperand_good | apply withTarget_good
      | apply agentLines_good | apply agentPrepare_good | apply descSpan_good | apply endDesc_good
      | apply putResult_good | apply GoodX.next | apply GoodX.ite | apply Good.ite_fst | apply Good.ite
      | refine Good.of_pair (by assumption) ?_ | dsimp only | split

theorem streamInput_good {q₀ : List Instr} {p₀ : Bool} {c₀ : Option Nat} {s : State} {d : Running} {wa a : Nat}
    (h₀ : Good q₀ p₀ c₀ s) :
    Good q₀ p₀ c₀ (streamInput s d wa a).1 := by
  unfold streamInput
  try dsimp only
  with_reducible
    repeat' first
      | exact h₀ | assumption | intro _ | apply descSpan_good | refine Good.of_pair (by assumption) ?_ | dsimp only
      | split

theorem streamOut_good {q₀ : List Instr} {p₀ : Bool} {c₀ : Option Nat} {s : State} {d : Running} {wb b : Nat}
    {try_ : Nat → StreamRes} (h₀ : Good q₀ p₀ c₀ s) :
    Good q₀ p₀ c₀ (streamOut s d wb b try_).1 := by
  unfold streamOut
  try dsimp only
  with_reducible
    repeat' first
      | exact h₀ | assumption | intro _ | apply agentPut_good | apply Good.ite_fst | apply Good.ite
      | refine Good.of_pair (by assumption) ?_ | dsimp only | split

theorem streamEnd_good {q₀ : List Instr} {p₀ : Bool} {c₀ : Option Nat} {s : State} {d : Running} {r : StreamRes}
    (h₀ : Good q₀ p₀ c₀ s) :
    Good q₀ p₀ c₀ (streamEnd s d r) := by
  unfold streamEnd
  try dsimp only
  with_reducible
    repeat' first
      | exact h₀ | assumption | intro _ | apply endDesc_good | dsimp only | split

theorem streamAlone_good {q₀ : List Instr} {p₀ : Bool} {c₀ : Option Nat} {s : State} {d : Running} {op : StreamOp}
    {wa a wb b : Nat} (h₀ : Good q₀ p₀ c₀ s) :
    Good q₀ p₀ c₀ (streamAlone s d op wa a wb b) := by
  unfold streamAlone
  try dsimp only
  with_reducible
    repeat' first
      | exact h₀ | assumption | intro _ | apply streamInput_good | apply streamOut_good | apply streamEnd_good
      | refine Good.of_pair (by assumption) ?_ | dsimp only | split

theorem streamSave_good {q₀ : List Instr} {p₀ : Bool} {c₀ : Option Nat} {s : State} {d : Running} {op : StreamOp}
    {c : Ctx} {wc cd : Nat} {r : StreamRes} (h₀ : Good q₀ p₀ c₀ s) :
    Good q₀ p₀ c₀ (streamSave s d op c wc cd r) := by
  unfold streamSave
  try dsimp only
  with_reducible
    repeat' first
      | exact h₀ | assumption | intro _ | apply agentPut_good | apply streamEnd_good | apply Good.ite_fst
      | apply Good.ite | refine Good.of_pair (by assumption) ?_ | dsimp only | split | refine Good.upd ?_

theorem streamWith_good {q₀ : List Instr} {p₀ : Bool} {c₀ : Option Nat} {s : State} {d : Running} {op : StreamOp}
    {c : Ctx} {wc cd : Nat} {h : Option (Nat × Nat)} {wa a wb b : Nat} (h₀ : Good q₀ p₀ c₀ s) :
    Good q₀ p₀ c₀ (streamWith s d op c wc cd h wa a wb b) := by
  unfold streamWith
  try dsimp only
  with_reducible
    repeat' first
      | exact h₀ | assumption | intro _ | apply descSpan_good | apply streamSave_good | apply streamInput_good
      | apply streamOut_good | apply histPut_good | apply Good.ite_fst | apply Good.ite
      | refine Good.of_pair (by assumption) ?_ | dsimp only | split

theorem streamHeld_good {q₀ : List Instr} {p₀ : Bool} {c₀ : Option Nat} {s : State} {d : Running} {op : StreamOp}
    {wc cd wa a wb b : Nat} (h₀ : Good q₀ p₀ c₀ s) :
    Good q₀ p₀ c₀ (streamHeld s d op wc cd wa a wb b) := by
  unfold streamHeld
  try dsimp only
  with_reducible
    repeat' first
      | exact h₀ | assumption | intro _ | apply descSpan_good | apply endDesc_good | apply streamWith_good
      | apply streamSave_good | (refine operandNote_good ?_ (by assumption)) | apply agentPrepare_good | apply Good.ite_fst | apply Good.ite
      | refine Good.of_pair (by assumption) ?_ | dsimp only | split

theorem streamDesc_good {q₀ : List Instr} {p₀ : Bool} {c₀ : Option Nat} {s : State} {d : Running} {comp : Bool}
    (h₀ : Good q₀ p₀ c₀ s) :
    Good q₀ p₀ c₀ (streamDesc s d comp) := by
  unfold streamDesc
  try dsimp only
  with_reducible
    repeat' first
      | exact h₀ | assumption | intro _ | apply withOperand_good | apply withTarget_good | apply agentLines_good
      | apply agentPrepare_good | apply streamAlone_good | apply streamHeld_good | apply Good.ite_fst | apply Good.ite
      | refine Good.of_pair (by assumption) ?_ | dsimp only | split

theorem execCompress_good {q₀ : List Instr} {p₀ : Bool} {c₀ : Option Nat} {s : State} {ring : Fin 8192}
    {index : Nat} (h₀ : Good q₀ p₀ c₀ s) :
    GoodX q₀ p₀ c₀ (execCompress ring index s) := by
  unfold execCompress
  try dsimp only
  with_reducible
    repeat' first
      | exact h₀ | assumption | intro _ | apply onDesc_good | apply streamDesc_good | apply GoodX.next | dsimp only
      | split

theorem execDecompress_good {q₀ : List Instr} {p₀ : Bool} {c₀ : Option Nat} {s : State} {ring : Fin 8192}
    {index : Nat} (h₀ : Good q₀ p₀ c₀ s) :
    GoodX q₀ p₀ c₀ (execDecompress ring index s) := by
  unfold execDecompress
  try dsimp only
  with_reducible
    repeat' first
      | exact h₀ | assumption | intro _ | apply onDesc_good | apply streamDesc_good | apply GoodX.next | dsimp only
      | split

theorem plzTouch_good {q₀ : List Instr} {p₀ : Bool} {c₀ : Option Nat} {s : State} {d : Running}
    {w limit dla len : Nat} (h₀ : Good q₀ p₀ c₀ s) :
    Good q₀ p₀ c₀ (plzTouch s d w limit dla len).1 := by
  unfold plzTouch
  try dsimp only
  with_reducible
    repeat' first
      | exact h₀ | assumption | intro _ | apply agentLines_good | apply descSpan_good | apply descError_good | apply Good.ite_fst
      | apply Good.ite | refine Good.of_pair (by assumption) ?_ | dsimp only | split

theorem scanPlz_good {q₀ : List Instr} {p₀ : Bool} {c₀ : Option Nat} {s : State} {w limit need : Nat} {d : Running} {a0 a2 : Nat} {a3 : List Byte} (h₀ : Good q₀ p₀ c₀ s) :
    Good q₀ p₀ c₀ (scanPlz w limit need d a0 s a2 a3).1 := by
  induction a0 generalizing w limit need d s a2 a3 with
  | zero =>
    unfold scanPlz
    try dsimp only
    with_reducible
      repeat' first
        | exact h₀ | assumption | intro _ | apply ih | apply plzTouch_good | apply Good.ite_fst | apply Good.ite
        | refine Good.of_pair (by assumption) ?_ | dsimp only | split | refine Good.upd ?_
  | succ n ih =>
    unfold scanPlz
    try dsimp only
    with_reducible
      repeat' first
        | exact h₀ | assumption | intro _ | apply ih | apply plzTouch_good | apply Good.ite_fst | apply Good.ite
        | refine Good.of_pair (by assumption) ?_ | dsimp only | split | refine Good.upd ?_

theorem execScan_good {q₀ : List Instr} {p₀ : Bool} {c₀ : Option Nat} {s : State} {ring : Fin 8192} {index : Nat}
    (h₀ : Good q₀ p₀ c₀ s) :
    GoodX q₀ p₀ c₀ (execScan ring index s) := by
  unfold execScan
  try dsimp only
  with_reducible
    repeat' first
      | exact h₀ | assumption | intro _ | apply onDesc_good | apply withOperand_good | apply withTarget_good
      | apply operandFails_good | apply endDesc_good | apply agentLines_good | apply agentPrepare_good | apply scanPlz_good
      | apply descSpan_good | apply putResult_good | apply GoodX.next | apply GoodX.ite | apply Good.ite_fst
      | apply Good.ite | refine Good.of_pair (by assumption) ?_ | dsimp only | split

theorem gatherLoop_good {q₀ : List Instr} {p₀ : Bool} {c₀ : Option Nat} {s : State} {d : Running} {width lb aHpa wa : Nat} {pick : Nat → Except Nat (Option Nat)} {a0 a2 : Nat} {a3 : Gath} (h₀ : Good q₀ p₀ c₀ s) :
    Good q₀ p₀ c₀ (gatherLoop d width lb aHpa wa pick a0 s a2 a3).1 := by
  induction a0 generalizing d width lb aHpa wa pick s a2 a3 with
  | zero =>
    unfold gatherLoop
    try dsimp only
    with_reducible
      repeat' first
        | exact h₀ | assumption | intro _ | apply ih | apply descError_good | apply descSpan_good | apply Good.ite_fst | apply Good.ite
        | refine Good.of_pair (by assumption) ?_ | dsimp only | split
  | succ n ih =>
    unfold gatherLoop
    try dsimp only
    with_reducible
      repeat' first
        | exact h₀ | assumption | intro _ | apply ih | apply descError_good | apply descSpan_good | apply Good.ite_fst | apply Good.ite
        | refine Good.of_pair (by assumption) ?_ | dsimp only | split

theorem execGather_good {q₀ : List Instr} {p₀ : Bool} {c₀ : Option Nat} {s : State} {ring : Fin 8192} {index : Nat}
    (h₀ : Good q₀ p₀ c₀ s) :
    GoodX q₀ p₀ c₀ (execGather ring index s) := by
  unfold execGather
  try dsimp only
  with_reducible
    repeat' first
      | exact h₀ | assumption | intro _ | apply onDesc_good | apply withOperand_good | apply withTarget_good
      | apply agentLines_good | apply agentPrepare_good | apply descSpan_good | apply gatherLoop_good
      | apply putResult_good | apply endDesc_good | apply GoodX.next | apply GoodX.ite | apply Good.ite_fst
      | apply Good.ite | apply Good.foldl | apply Good.foldl_fst | refine Good.of_pair (by assumption) ?_ | dsimp only
      | split

theorem promoteNow_good {q₀ : List Instr} {p₀ : Bool} {c₀ : Option Nat} {s : State} {qc w off pg : Nat}
    (h₀ : Good q₀ p₀ c₀ s) :
    Good q₀ p₀ c₀ (promoteNow qc s w off pg).1 := by
  unfold promoteNow
  try dsimp only
  with_reducible
    repeat' first
      | exact h₀ | assumption | intro _ | apply allocFrame_good | apply readUnit_good | apply decodePage_good
      | apply writeUnit_good | apply dropLcache_good | apply putPage_good | apply freeRun_good | apply tryDirect_good
      | apply bump_good | apply Good.ite_fst | apply Good.ite | refine Good.of_pair (by assumption) ?_ | dsimp only
      | split | refine Good.upd ?_

theorem demoteNow_good {q₀ : List Instr} {p₀ : Bool} {c₀ : Option Nat} {s : State} {qc w off pg : Nat}
    (h₀ : Good q₀ p₀ c₀ s) :
    Good q₀ p₀ c₀ (demoteNow qc s w off pg).1 := by
  unfold demoteNow
  try dsimp only
  with_reducible
    repeat' first
      | exact h₀ | assumption | intro _ | apply directToPaged_good | apply readUnit_good | apply tryDirect_good
      | apply bump_good | apply putEntry_good | apply allocRun_good | apply writeUnit_good | apply putPage_good
      | apply bumpBy_good | apply freeFrame_good | apply Good.ite_fst | apply Good.ite | apply Good.foldl
      | apply Good.foldl_fst | refine Good.of_pair (by assumption) ?_ | dsimp only | split | refine Good.upd ?_

theorem visitPages_good {q₀ : List Instr} {p₀ : Bool} {c₀ : Option Nat} {s : State} {w : Nat} {ok : State → Nat → Nat → Nat → Bool} {f : State → Nat → Nat → Nat → State × Bool} {a0 a2 a3 : Nat} (h₀ : Good q₀ p₀ c₀ s) (hf : ∀ t x1 x2 x3, Good q₀ p₀ c₀ t → Good q₀ p₀ c₀ (f t x1 x2 x3).1) :
    Good q₀ p₀ c₀ (visitPages w ok f a0 s a2 a3).1 := by
  induction a0 generalizing w ok f s a2 a3 with
  | zero =>
    unfold visitPages
    try dsimp only
    with_reducible
      repeat' first
        | exact h₀ | assumption | intro _ | apply hf | apply ih | apply Good.ite_fst | apply Good.ite
        | refine Good.of_pair (by assumption) ?_ | dsimp only | split
  | succ n ih =>
    unfold visitPages
    try dsimp only
    with_reducible
      repeat' first
        | exact h₀ | assumption | intro _ | apply hf | apply ih | apply Good.ite_fst | apply Good.ite
        | refine Good.of_pair (by assumption) ?_ | dsimp only | split

theorem tierDesc_good {q₀ : List Instr} {p₀ : Bool} {c₀ : Option Nat} {s : State} {d : Running}
    {ok : State → Nat → Nat → Nat → Bool} {f : State → Nat → Nat → Nat → State × Bool} (h₀ : Good q₀ p₀ c₀ s)
    (hf : ∀ t x1 x2 x3, Good q₀ p₀ c₀ t → Good q₀ p₀ c₀ (f t x1 x2 x3).1) :
    Good q₀ p₀ c₀ (tierDesc s d ok f) := by
  unfold tierDesc
  try dsimp only
  with_reducible
    repeat' first
      | exact h₀ | assumption | intro _ | apply hf | apply withOperand_good | apply visitPages_good
      | apply resume_good | apply endDesc_good | apply Good.ite_fst | apply Good.ite
      | refine Good.of_pair (by assumption) ?_ | dsimp only | split

theorem execPromote_good {q₀ : List Instr} {p₀ : Bool} {c₀ : Option Nat} {s : State} {ring : Fin 8192}
    {index : Nat} (h₀ : Good q₀ p₀ c₀ s) :
    GoodX q₀ p₀ c₀ (execPromote ring index s) := by
  unfold execPromote
  try dsimp only
  with_reducible
    repeat' first
      | exact h₀ | assumption | intro _ | apply onDesc_good | apply tierDesc_good | apply promoteNow_good
      | apply GoodX.next | dsimp only | split

theorem execDemote_good {q₀ : List Instr} {p₀ : Bool} {c₀ : Option Nat} {s : State} {ring : Fin 8192} {index : Nat}
    (h₀ : Good q₀ p₀ c₀ s) :
    GoodX q₀ p₀ c₀ (execDemote ring index s) := by
  unfold execDemote
  try dsimp only
  with_reducible
    repeat' first
      | exact h₀ | assumption | intro _ | apply onDesc_good | apply tierDesc_good | apply demoteNow_good
      | apply GoodX.next | dsimp only | split

theorem sendKeyset_good {q₀ : List Instr} {p₀ : Bool} {c₀ : Option Nat} {s : State} {w : Nat} (h₀ : Good q₀ p₀ c₀ s) :
    Good q₀ p₀ c₀ (sendKeyset s w) := by
  unfold sendKeyset
  try dsimp only
  with_reducible
    repeat' first
      | exact h₀ | assumption | intro _ | apply plySend_good | apply modSlot_good
      | refine Good.of_pair (by assumption) ?_ | dsimp only | split | refine Good.upd ?_

theorem startWalk_good {q₀ : List Instr} {p₀ : Bool} {c₀ : Option Nat} {s : State} {w : Nat}
    {by_ : Option (Nat × Nat)} {island : Bool} {ptag : Option Nat} {key : Nat} (h₀ : Good q₀ p₀ c₀ s) :
    Good q₀ p₀ c₀ (startWalk s w by_ island ptag key) := by
  unfold startWalk
  try dsimp only
  with_reducible
    repeat' first
      | exact h₀ | assumption | intro _ | apply modSlot_good | dsimp only | split

theorem rekeyGo_good {q₀ : List Instr} {p₀ : Bool} {c₀ : Option Nat} {s : State} {w : Nat}
    {by_ : Option (Nat × Nat)} {island : Bool} (h₀ : Good q₀ p₀ c₀ s) :
    Good q₀ p₀ c₀ (rekeyGo s w by_ island) := by
  unfold rekeyGo
  try dsimp only
  with_reducible
    repeat' first
      | exact h₀ | assumption | intro _ | apply drawKey_good | apply startWalk_good | apply sendKeyset_good
      | apply Good.ite_fst | apply Good.ite | refine Good.of_pair (by assumption) ?_ | dsimp only | split

theorem execRekey_good {q₀ : List Instr} {p₀ : Bool} {c₀ : Option Nat} {s : State} {src : RekeyBy}
    {index : Nat} (h₀ : Good q₀ p₀ c₀ s) :
    GoodX q₀ p₀ c₀ (execRekey src index s) := by
  unfold execRekey
  try dsimp only
  with_reducible
    repeat' first
      | exact h₀ | assumption | intro _ | apply onDesc_good | apply endDesc_good | apply rekeyGo_good
      | apply mcGate_good | apply emit_good | apply GoodX.next | apply GoodX.ite | apply Good.ite
      | refine Good.of_pair (by assumption) ?_ | dsimp only | split

theorem keepCheckpoint_good {q₀ : List Instr} {p₀ : Bool} {c₀ : Option Nat} {s : State} {k : Nat} {run : Running}
    (h₀ : Good q₀ p₀ c₀ s) :
    Good q₀ p₀ c₀ (keepCheckpoint s k run) := by
  unfold keepCheckpoint
  try dsimp only
  with_reducible
    repeat' first
      | exact h₀ | assumption | intro _ | apply agentSpan_good | apply agentPut_good | apply Good.ite_fst
      | apply Good.ite | refine Good.of_pair (by assumption) ?_ | dsimp only | split

theorem timeoutDesc_good {q₀ : List Instr} {p₀ : Bool} {c₀ : Option Nat} {s : State} {k : Nat} (h₀ : Good q₀ p₀ c₀ s) :
    Good q₀ p₀ c₀ (timeoutDesc s k) := by
  unfold timeoutDesc
  try dsimp only
  with_reducible
    repeat' first
      | exact h₀ | assumption | intro _ | apply bump_good | apply endDesc_good | apply keepCheckpoint_good
      | refine Good.of_pair (by assumption) ?_ | dsimp only | split | refine Good.upd ?_

theorem execRingOpLimitExpiry_good {q₀ : List Instr} {p₀ : Bool} {c₀ : Option Nat} {s : State} {ring : Fin 8192}
    {index : Nat} (h₀ : Good q₀ p₀ c₀ s) :
    GoodX q₀ p₀ c₀ (execRingOpLimitExpiry ring index s) := by
  unfold execRingOpLimitExpiry
  try dsimp only
  with_reducible
    repeat' first
      | exact h₀ | assumption | intro _ | apply timeoutDesc_good | apply advanceTo_good | apply GoodX.next
      | apply GoodX.ite | apply Good.ite | refine Good.of_pair (by assumption) ?_ | dsimp only | split

end Sys2Proof.Machine
end

