-- ==== Sys2Proof/Laws/GoodAccess.lean ====
section
/-! SUPPORT. The operations of Machine/Access.lean keep the state good (`Good`). -/

set_option linter.unusedTactic false
set_option linter.unreachableTactic false

set_option Elab.async false

namespace Sys2Proof.Machine

open Sys2Proof

theorem access_good {q₀ : List Instr} {p₀ : Bool} {c₀ : Option Nat} {s : State} {by_ : Agent} {off : Nat}
    {row : Instr} {f : State → State} (h₀ : Good q₀ p₀ c₀ s) (hf : ∀ t, Good q₀ p₀ c₀ t → Good q₀ p₀ c₀ (f t)) :
    Good q₀ p₀ c₀ (access s by_ off row f) := by
  unfold access
  try dsimp only
  with_reducible
    repeat' first
      | exact h₀ | assumption | intro _ | apply hf | apply holdFor_good | apply unIdle_good | apply fnGate_good
      | apply Good.ite | refine Good.of_pair (by assumption) ?_ | dsimp only | split

end Sys2Proof.Machine
end

