-- ==== Sys2Proof/Laws/GoodChannels.lean ====
section
/-! SUPPORT. The operations of Machine/Channels.lean keep the state good (`Good`). -/

set_option linter.unusedTactic false
set_option linter.unreachableTactic false

set_option Elab.async false

namespace Sys2Proof.Machine

open Sys2Proof

theorem execChannelCommandIssue_good {q₀ : List Instr} {p₀ : Bool} {c₀ : Option Nat} {s : State} {ch : Fin 16}
    {ready : List Nat} (h₀ : Good q₀ p₀ c₀ s) :
    GoodX q₀ p₀ c₀ (execChannelCommandIssue ch ready s) := by
  unfold execChannelCommandIssue
  try dsimp only
  with_reducible
    repeat' first
      | exact h₀ | assumption | intro _ | apply modCh_good | apply pmuEvent_good | apply modTrk_good
      | apply casLine_good | apply passBuffers_good | apply GoodX.next | apply GoodX.ite | apply Good.ite
      | refine Good.of_pair (by assumption) ?_ | dsimp only | split | refine Good.upd ?_

theorem execRefresh_good {q₀ : List Instr} {p₀ : Bool} {c₀ : Option Nat} {s : State} {ch : Fin 16}
    (h₀ : Good q₀ p₀ c₀ s) :
    GoodX q₀ p₀ c₀ (execRefresh ch s) := by
  unfold execRefresh
  try dsimp only
  with_reducible
    repeat' first
      | exact h₀ | assumption | intro _ | apply advanceTo_good | apply modCh_good | apply pmuEvent_good
      | apply GoodX.next | apply GoodX.ite | apply Good.ite | dsimp only | split | refine Good.upd ?_

theorem execDimmThermalPoll_good {q₀ : List Instr} {p₀ : Bool} {c₀ : Option Nat} {s : State} {ch : Fin 16}
    {sensors : List Nat} {mr4 : Bool} (h₀ : Good q₀ p₀ c₀ s) :
    GoodX q₀ p₀ c₀ (execDimmThermalPoll ch sensors mr4 s) := by
  unfold execDimmThermalPoll
  try dsimp only
  with_reducible
    repeat' first
      | exact h₀ | assumption | intro _ | apply advanceTo_good | apply modCh_good | apply bump_good
      | apply rescale_good | apply logEv_good | apply GoodX.next | apply GoodX.ite | apply Good.ite | apply Good.foldl
      | dsimp only | split | refine Good.upd ?_

theorem execZqCalibration_good {q₀ : List Instr} {p₀ : Bool} {c₀ : Option Nat} {s : State} {ch : Fin 16}
    (h₀ : Good q₀ p₀ c₀ s) :
    GoodX q₀ p₀ c₀ (execZqCalibration ch s) := by
  unfold execZqCalibration
  try dsimp only
  with_reducible
    repeat' first
      | exact h₀ | assumption | intro _ | apply modCh_good | apply advanceTo_good | apply GoodX.next | apply GoodX.ite
      | apply Good.ite | dsimp only | split | refine Good.upd ?_

theorem execRdtWindowClear_good {q₀ : List Instr} {p₀ : Bool} {c₀ : Option Nat} {s : State} {ch : Fin 16}
    (h₀ : Good q₀ p₀ c₀ s) :
    GoodX q₀ p₀ c₀ (execRdtWindowClear ch s) := by
  unfold execRdtWindowClear
  try dsimp only
  with_reducible
    repeat' first
      | exact h₀ | assumption | intro _ | apply modCh_good | apply advanceTo_good | apply GoodX.next | apply GoodX.ite
      | apply Good.ite | dsimp only | split | refine Good.upd ?_

theorem execMergeEntryTimeout_good {q₀ : List Instr} {p₀ : Bool} {c₀ : Option Nat} {s : State} {ch : Fin 16}
    {line : Nat} {noise : List Byte} (h₀ : Good q₀ p₀ c₀ s) :
    GoodX q₀ p₀ c₀ (execMergeEntryTimeout ch line noise s) := by
  unfold execMergeEntryTimeout
  try dsimp only
  with_reducible
    repeat' first
      | exact h₀ | assumption | intro _ | apply passBuffers_good | apply flushEntry_good | apply advanceTo_good
      | apply GoodX.next | apply GoodX.ite | apply Good.ite | refine Good.of_pair (by assumption) ?_ | dsimp only
      | split

theorem dvfsGo_good {q₀ : List Instr} {p₀ : Bool} {c₀ : Option Nat} {s : State}  (h₀ : Good q₀ p₀ c₀ s) :
    Good q₀ p₀ c₀ (dvfsGo s) := by
  unfold dvfsGo
  try dsimp only
  with_reducible
    repeat' first
      | exact h₀ | assumption | intro _ | apply Good.ite | dsimp only | split | refine Good.upd ?_

theorem trainingSettled_good {q₀ : List Instr} {p₀ : Bool} {c₀ : Option Nat} {s : State}  (h₀ : Good q₀ p₀ c₀ s) :
    Good q₀ p₀ c₀ (trainingSettled s) := by
  unfold trainingSettled
  try dsimp only
  with_reducible
    repeat' first
      | exact h₀ | assumption | intro _ | apply Good.ite | dsimp only | split | refine Good.upd ?_

theorem goOnline_good {q₀ : List Instr} {p₀ : Bool} {c₀ : Option Nat} {s : State} {c : Nat} (h₀ : Good q₀ p₀ c₀ s) :
    Good q₀ p₀ c₀ (goOnline s c) := by
  unfold goOnline
  try dsimp only
  with_reducible
    repeat' first
      | exact h₀ | assumption | intro _ | apply modCh_good | apply Good.ite | dsimp only | split

theorem endTrain_good {q₀ : List Instr} {p₀ : Bool} {c₀ : Option Nat} {s : State} {c res : Nat} (h₀ : Good q₀ p₀ c₀ s) :
    Good q₀ p₀ c₀ (endTrain s c res) := by
  unfold endTrain
  try dsimp only
  with_reducible
    repeat' first
      | exact h₀ | assumption | intro _ | apply modCh_good | dsimp only | split

theorem chanEvent_good {q₀ : List Instr} {p₀ : Bool} {c₀ : Option Nat} {s : State} {c sev r k : Nat}
    (h₀ : Good q₀ p₀ c₀ s) :
    Good q₀ p₀ c₀ (chanEvent s c sev r k) := by
  unfold chanEvent
  try dsimp only
  with_reducible
    repeat' first
      | exact h₀ | assumption | intro _ | apply logEv_good | dsimp only | split

theorem beginTrain_good {q₀ : List Instr} {p₀ : Bool} {c₀ : Option Nat} {s : State} {c : Nat} (h₀ : Good q₀ p₀ c₀ s) :
    Good q₀ p₀ c₀ (beginTrain s c) := by
  unfold beginTrain
  try dsimp only
  with_reducible
    repeat' first
      | exact h₀ | assumption | intro _ | apply flushAll_good | apply modCh_good | apply rescale_good | apply Good.ite
      | dsimp only | split

theorem runStored_good {q₀ : List Instr} {p₀ : Bool} {c₀ : Option Nat} {s : State}  (h₀ : Good q₀ p₀ c₀ s) :
    Good q₀ p₀ c₀ (runStored s) := by
  unfold runStored
  try dsimp only
  with_reducible
    repeat' first
      | exact h₀ | assumption | intro _ | apply beginTrain_good | apply Good.ite | apply Good.foldl | dsimp only
      | split

theorem startTrain_good {q₀ : List Instr} {p₀ : Bool} {c₀ : Option Nat} {s : State} {c : Nat} (h₀ : Good q₀ p₀ c₀ s) :
    Good q₀ p₀ c₀ (startTrain s c) := by
  unfold startTrain
  try dsimp only
  with_reducible
    repeat' first
      | exact h₀ | assumption | intro _ | apply beginTrain_good | apply modCh_good | apply Good.ite | dsimp only
      | split | refine Good.upd ?_

theorem execChannelRetrain_good {q₀ : List Instr} {p₀ : Bool} {c₀ : Option Nat} {s : State} {by_ : Agent}
    {ch : Fin 16} (h₀ : Good q₀ p₀ c₀ s) :
    GoodX q₀ p₀ c₀ (execChannelRetrain by_ ch s) := by
  unfold execChannelRetrain
  try dsimp only
  with_reducible
    repeat' first
      | exact h₀ | assumption | intro _ | apply startTrain_good | apply access_good | apply GoodX.next
      | apply GoodX.ite | apply Good.ite | dsimp only | split

theorem execTrainingRelease_good {q₀ : List Instr} {p₀ : Bool} {c₀ : Option Nat} {s : State}
    {dimms : List (Option Dimms)} (h₀ : Good q₀ p₀ c₀ s) :
    GoodX q₀ p₀ c₀ (execTrainingRelease dimms s) := by
  unfold execTrainingRelease
  try dsimp only
  with_reducible
    repeat' first
      | exact h₀ | assumption | intro _ | apply modCh_good | apply chanEvent_good | apply trainingSettled_good
      | apply GoodX.next | apply GoodX.ite | apply Good.ite | apply Good.foldl | apply Good.foldl_fst
      | refine Good.of_pair (by assumption) ?_ | dsimp only | split | refine Good.upd ?_

theorem nextStep_good {q₀ : List Instr} {p₀ : Bool} {c₀ : Option Nat} {s : State} {c : Nat} (h₀ : Good q₀ p₀ c₀ s) :
    Good q₀ p₀ c₀ (nextStep s c) := by
  unfold nextStep
  try dsimp only
  with_reducible
    repeat' first
      | exact h₀ | assumption | intro _ | apply modCh_good | dsimp only | split | refine Good.upd ?_

theorem trainDone_good {q₀ : List Instr} {p₀ : Bool} {c₀ : Option Nat} {s : State} {c : Nat} (h₀ : Good q₀ p₀ c₀ s) :
    Good q₀ p₀ c₀ (trainDone s c) := by
  unfold trainDone
  try dsimp only
  with_reducible
    repeat' first
      | exact h₀ | assumption | intro _ | apply modCh_good | apply endTrain_good | apply resume_good
      | apply runStored_good | apply trainingSettled_good | apply rescale_good | apply goOnline_good | apply Good.ite
      | dsimp only | split | refine Good.upd ?_

theorem trainFailed_good {q₀ : List Instr} {p₀ : Bool} {c₀ : Option Nat} {s : State} {c : Nat} (h₀ : Good q₀ p₀ c₀ s) :
    Good q₀ p₀ c₀ (trainFailed s c) := by
  unfold trainFailed
  try dsimp only
  with_reducible
    repeat' first
      | exact h₀ | assumption | intro _ | apply modCh_good | apply endTrain_good | apply trainingSettled_good
      | apply rescale_good | apply chanEvent_good | apply resume_good | apply runStored_good | apply goOnline_good
      | apply Good.ite | dsimp only | split | refine Good.upd ?_

theorem execTrainingStepResult_good {q₀ : List Instr} {p₀ : Bool} {c₀ : Option Nat} {s : State} {ch : Fin 16}
    {r : TrainResult} (h₀ : Good q₀ p₀ c₀ s) :
    GoodX q₀ p₀ c₀ (execTrainingStepResult ch r s) := by
  unfold execTrainingStepResult
  try dsimp only
  with_reducible
    repeat' first
      | exact h₀ | assumption | intro _ | apply dvfsGo_good | apply nextStep_good | apply endTrain_good
      | apply trainDone_good | apply bump_good | apply modCh_good | apply trainFailed_good | apply GoodX.next
      | apply GoodX.ite | apply Good.ite | refine Good.of_pair (by assumption) ?_ | dsimp only | split
      | refine Good.upd ?_

theorem rateStop_good {q₀ : List Instr} {p₀ : Bool} {c₀ : Option Nat} {s : State} {target c : Nat}
    (h₀ : Good q₀ p₀ c₀ s) :
    Good q₀ p₀ c₀ (rateStop target s c) := by
  unfold rateStop
  try dsimp only
  with_reducible
    repeat' first
      | exact h₀ | assumption | intro _ | apply flushAll_good | apply modCh_good | apply endTrain_good
      | apply Good.ite | dsimp only | split | refine Good.upd ?_

theorem takeTarget_good {q₀ : List Instr} {p₀ : Bool} {c₀ : Option Nat} {s : State} {t : Nat} (h₀ : Good q₀ p₀ c₀ s) :
    Good q₀ p₀ c₀ (takeTarget s t) := by
  unfold takeTarget
  try dsimp only
  with_reducible
    repeat' first
      | exact h₀ | assumption | intro _ | apply chanEvent_good | apply rescale_good | apply rateStop_good
      | apply Good.ite | apply Good.foldl | dsimp only | split | refine Good.upd ?_

theorem putTarget_good {q₀ : List Instr} {p₀ : Bool} {c₀ : Option Nat} {s : State} {t : Nat} (h₀ : Good q₀ p₀ c₀ s) :
    Good q₀ p₀ c₀ (putTarget s t) := by
  unfold putTarget
  try dsimp only
  with_reducible
    repeat' first
      | exact h₀ | assumption | intro _ | apply takeTarget_good | apply Good.ite | dsimp only | split
      | refine Good.upd ?_

theorem execRateChange_good {q₀ : List Instr} {p₀ : Bool} {c₀ : Option Nat} {s : State} {by_ : Agent}
    {target : Fin 8} (h₀ : Good q₀ p₀ c₀ s) :
    GoodX q₀ p₀ c₀ (execRateChange by_ target s) := by
  unfold execRateChange
  try dsimp only
  with_reducible
    repeat' first
      | exact h₀ | assumption | intro _ | apply access_good | apply putTarget_good | apply GoodX.next | dsimp only
      | split

theorem execRateChangeComplete_good {q₀ : List Instr} {p₀ : Bool} {c₀ : Option Nat} {s : State}
    {trained : List (Fin 16 × Bool)} (h₀ : Good q₀ p₀ c₀ s) :
    GoodX q₀ p₀ c₀ (execRateChangeComplete trained s) := by
  unfold execRateChangeComplete
  try dsimp only
  with_reducible
    repeat' first
      | exact h₀ | assumption | intro _ | apply endTrain_good | apply bumpBy_good | apply modCh_good
      | apply goOnline_good | apply chanEvent_good | apply rescale_good | apply takeTarget_good | apply dvfsGo_good
      | apply resume_good | apply runStored_good | apply GoodX.next | apply GoodX.ite | apply Good.ite
      | apply Good.foldl | apply Good.foldl_fst | refine Good.of_pair (by assumption) ?_ | dsimp only | split
      | refine Good.upd ?_

end Sys2Proof.Machine
end

