-- ==== Sys2Proof/Laws/GoodIntegrity.lean ====
section
/-! SUPPORT. The operations of Machine/Integrity.lean keep the state good (`Good`). -/

set_option linter.unusedTactic false
set_option linter.unreachableTactic false

set_option Elab.async false

namespace Sys2Proof.Machine

open Sys2Proof

theorem execLeakyBucketLeak_good {q₀ : List Instr} {p₀ : Bool} {c₀ : Option Nat} {s : State} {ch : Fin 16}
    (h₀ : Good q₀ p₀ c₀ s) :
    GoodX q₀ p₀ c₀ (execLeakyBucketLeak ch s) := by
  unfold execLeakyBucketLeak
  try dsimp only
  with_reducible
    repeat' first
      | exact h₀ | assumption | intro _ | apply modCh_good | apply advanceTo_good | apply GoodX.next | dsimp only
      | split | refine Good.upd ?_

theorem startPass_good {q₀ : List Instr} {p₀ : Bool} {c₀ : Option Nat} {s : State} {by_ : ScrubBy}
    {todo : List (Nat × Nat × List Nat)} {whole : Bool} (h₀ : Good q₀ p₀ c₀ s) :
    Good q₀ p₀ c₀ (startPass s by_ todo whole) := by
  unfold startPass
  try dsimp only
  with_reducible
    repeat' first
      | exact h₀ | assumption | intro _ | dsimp only | split | refine Good.upd ?_

theorem execScrub_good {q₀ : List Instr} {p₀ : Bool} {c₀ : Option Nat} {s : State} {ring : Fin 8192} {index : Nat}
    (h₀ : Good q₀ p₀ c₀ s) :
    GoodX q₀ p₀ c₀ (execScrub ring index s) := by
  unfold execScrub
  try dsimp only
  with_reducible
    repeat' first
      | exact h₀ | assumption | intro _ | apply onDesc_good | apply withOperand_good | apply withTarget_good
      | apply startPass_good | apply GoodX.next | apply GoodX.ite | apply Good.ite | dsimp only | split

theorem livePasses_good {q₀ : List Instr} {p₀ : Bool} {c₀ : Option Nat} {s : State}  (h₀ : Good q₀ p₀ c₀ s) :
    Good q₀ p₀ c₀ (livePasses s) := by
  unfold livePasses
  try dsimp only
  with_reducible
    repeat' first
      | exact h₀ | assumption | intro _ | dsimp only | split | refine Good.upd ?_

theorem modPass_good {q₀ : List Instr} {p₀ : Bool} {c₀ : Option Nat} {s : State} {f : Pass → Pass}
    (h₀ : Good q₀ p₀ c₀ s) :
    Good q₀ p₀ c₀ (modPass s f) := by
  unfold modPass
  try dsimp only
  with_reducible
    repeat' first
      | exact h₀ | assumption | intro _ | refine Good.of_pair (by assumption) ?_ | dsimp only | split
      | refine Good.upd ?_

theorem addRec_good {q₀ : List Instr} {p₀ : Bool} {c₀ : Option Nat} {s : State} {line dla kind dev bits : Nat}
    (h₀ : Good q₀ p₀ c₀ s) :
    Good q₀ p₀ c₀ (addRec s line dla kind dev bits) := by
  unfold addRec
  try dsimp only
  with_reducible
    repeat' first
      | exact h₀ | assumption | intro _ | apply modPass_good | dsimp only | split | refine Good.upd ?_

theorem addMedia_good {q₀ : List Instr} {p₀ : Bool} {c₀ : Option Nat} {s : State} {dla : Nat} {segs : List Nat}
    (h₀ : Good q₀ p₀ c₀ s) :
    Good q₀ p₀ c₀ (addMedia s dla segs) := by
  unfold addMedia
  try dsimp only
  with_reducible
    repeat' first
      | exact h₀ | assumption | intro _ | apply modPass_good | dsimp only | split | refine Good.upd ?_

theorem loseKey_good {q₀ : List Instr} {p₀ : Bool} {c₀ : Option Nat} {s : State} {k : Nat} (h₀ : Good q₀ p₀ c₀ s) :
    Good q₀ p₀ c₀ (loseKey s k) := by
  unfold loseKey
  try dsimp only
  with_reducible
    repeat' first
      | exact h₀ | assumption | intro _ | apply loseRange_good | dsimp only | split

theorem scrubUncorrectable_good {q₀ : List Instr} {p₀ : Bool} {c₀ : Option Nat} {s : State} {line dla : Nat}
    {segs : List Nat} (h₀ : Good q₀ p₀ c₀ s) :
    Good q₀ p₀ c₀ (scrubUncorrectable s line dla segs) := by
  unfold scrubUncorrectable
  try dsimp only
  with_reducible
    repeat' first
      | exact h₀ | assumption | intro _ | apply bump_good | apply writePoison_good | apply logEv_good
      | apply loseKey_good | apply plAdd_good | apply addMedia_good | apply addRec_good | apply modPass_good
      | apply Good.ite | apply Good.foldl | apply Good.foldl_fst | refine Good.of_pair (by assumption) ?_ | dsimp only
      | split | refine Good.upd ?_

theorem writeBack_good {q₀ : List Instr} {p₀ : Bool} {c₀ : Option Nat} {s : State} {line : Nat} {st : Stored}
    (h₀ : Good q₀ p₀ c₀ s) :
    Good q₀ p₀ c₀ (writeBack s line st) := by
  unfold writeBack
  try dsimp only
  with_reducible
    repeat' first
      | exact h₀ | assumption | intro _ | apply injected_good | apply modDram_good | dsimp only | split
      | refine Good.upd ?_

theorem scrubSuperseded_good {q₀ : List Instr} {p₀ : Bool} {c₀ : Option Nat} {s : State} {line dla dev bits : Nat}
    (h₀ : Good q₀ p₀ c₀ s) :
    Good q₀ p₀ c₀ (scrubSuperseded s line dla dev bits) := by
  unfold scrubSuperseded
  try dsimp only
  with_reducible
    repeat' first
      | exact h₀ | assumption | intro _ | apply addRec_good | apply modPass_good | dsimp only | split
      | refine Good.upd ?_

theorem scrubWriteBack_good {q₀ : List Instr} {p₀ : Bool} {c₀ : Option Nat} {s : State} {p : Pass}
    {line dla dev bits : Nat} {st : Stored} (h₀ : Good q₀ p₀ c₀ s) :
    Good q₀ p₀ c₀ (scrubWriteBack s p line dla dev bits st) := by
  unfold scrubWriteBack
  try dsimp only
  with_reducible
    repeat' first
      | exact h₀ | assumption | intro _ | apply modPass_good | apply scrubSuperseded_good | apply writeBack_good
      | apply casLine_good | apply Good.ite | dsimp only | split | refine Good.upd ?_

theorem scrubPoisoned_good {q₀ : List Instr} {p₀ : Bool} {c₀ : Option Nat} {s : State} {line dla : Nat}
    {segs : List Nat} {faulty : Bool} {qc : Nat} (h₀ : Good q₀ p₀ c₀ s) :
    Good q₀ p₀ c₀ (scrubPoisoned s line dla segs faulty qc) := by
  unfold scrubPoisoned
  try dsimp only
  with_reducible
    repeat' first
      | exact h₀ | assumption | intro _ | apply writePoison_good | apply casLine_good | apply plAdd_good
      | apply addMedia_good | apply addRec_good | apply modPass_good | apply Good.ite | apply Good.foldl
      | apply Good.foldl_fst | refine Good.of_pair (by assumption) ?_ | dsimp only | split | refine Good.upd ?_

theorem execScrubLine_good {q₀ : List Instr} {p₀ : Bool} {c₀ : Option Nat} {s : State} {noise : List Byte}
    (h₀ : Good q₀ p₀ c₀ s) :
    GoodX q₀ p₀ c₀ (execScrubLine noise s) := by
  unfold execScrubLine
  try dsimp only
  with_reducible
    repeat' first
      | exact h₀ | assumption | intro _ | apply livePasses_good | apply modPass_good | apply casLine_good
      | apply flushLine_good | apply scrubUncorrectable_good | apply scrubPoisoned_good | apply noteCorrected_good
      | apply scrubWriteBack_good | apply GoodX.next | apply GoodX.ite | apply Good.ite
      | refine Good.of_pair (by assumption) ?_ | dsimp only | split | refine Good.upd ?_

theorem scrubCorrected_good {q₀ : List Instr} {p₀ : Bool} {c₀ : Option Nat} {s : State} {line dla dev bits : Nat}
    {recurrent : Bool} (h₀ : Good q₀ p₀ c₀ s) :
    Good q₀ p₀ c₀ (scrubCorrected s line dla dev bits recurrent) := by
  unfold scrubCorrected
  try dsimp only
  with_reducible
    repeat' first
      | exact h₀ | assumption | intro _ | apply bump_good | apply addRec_good | apply modPass_good | apply Good.ite
      | dsimp only | split | refine Good.upd ?_

theorem execScrubVerifyRead_good {q₀ : List Instr} {p₀ : Bool} {c₀ : Option Nat} {s : State} {noise : List Byte}
    (h₀ : Good q₀ p₀ c₀ s) :
    GoodX q₀ p₀ c₀ (execScrubVerifyRead noise s) := by
  unfold execScrubVerifyRead
  try dsimp only
  with_reducible
    repeat' first
      | exact h₀ | assumption | intro _ | apply livePasses_good | apply modPass_good | apply scrubCorrected_good
      | apply casLine_good | apply noteCorrected_good | apply scrubUncorrectable_good | apply GoodX.next
      | apply GoodX.ite | apply Good.ite | refine Good.of_pair (by assumption) ?_ | dsimp only | split
      | refine Good.upd ?_

theorem dropPass_good {q₀ : List Instr} {p₀ : Bool} {c₀ : Option Nat} {s : State}  (h₀ : Good q₀ p₀ c₀ s) :
    Good q₀ p₀ c₀ (dropPass s) := by
  unfold dropPass
  try dsimp only
  with_reducible
    repeat' first
      | exact h₀ | assumption | intro _ | dsimp only | split | refine Good.upd ?_

theorem clearOverflow_good {q₀ : List Instr} {p₀ : Bool} {c₀ : Option Nat} {s : State} {p : Pass}
    (h₀ : Good q₀ p₀ c₀ s) :
    Good q₀ p₀ c₀ (clearOverflow s p) := by
  unfold clearOverflow
  try dsimp only
  with_reducible
    repeat' first
      | exact h₀ | assumption | intro _ | apply Good.ite | dsimp only | split | refine Good.upd ?_

theorem execScrubPassComplete_good {q₀ : List Instr} {p₀ : Bool} {c₀ : Option Nat} {s : State}  (h₀ : Good q₀ p₀ c₀ s) :
    GoodX q₀ p₀ c₀ (execScrubPassComplete s) := by
  unfold execScrubPassComplete
  try dsimp only
  repeat' first
    | with_reducible exact h₀ | with_reducible assumption | intro _ | with_reducible apply livePasses_good
    | with_reducible apply onDesc_good | with_reducible apply withTarget_good | with_reducible apply agentPrepare_good
    | with_reducible apply putResult_good | with_reducible apply dropPass_good | with_reducible apply endDesc_good
    | with_reducible apply bgFinish_good | with_reducible apply clearOverflow_good | with_reducible apply GoodX.next
    | with_reducible apply GoodX.ite | with_reducible apply Good.ite_fst | with_reducible apply Good.ite
    | with_reducible refine Good.of_pair (by assumption) ?_ | dsimp only | split
    | with_reducible refine Good.updAll ?_ | refine Good.updAll ?_ | with_reducible refine Good.upd ?_

theorem putInj_good {q₀ : List Instr} {p₀ : Bool} {c₀ : Option Nat} {s : State} {c : Nat} {v : Word}
    (h₀ : Good q₀ p₀ c₀ s) :
    Good q₀ p₀ c₀ (putInj s c v) := by
  unfold putInj
  try dsimp only
  with_reducible
    repeat' first
      | exact h₀ | assumption | intro _ | apply setReg_good | apply Good.ite | dsimp only | split

theorem execFaultInject_good {q₀ : List Instr} {p₀ : Bool} {c₀ : Option Nat} {s : State} {by_ : Agent} {ch : Fin 16}
    {val : Word} (h₀ : Good q₀ p₀ c₀ s) :
    GoodX q₀ p₀ c₀ (execFaultInject by_ ch val s) := by
  unfold execFaultInject
  try dsimp only
  with_reducible
    repeat' first
      | exact h₀ | assumption | intro _ | apply access_good | apply putInj_good | apply GoodX.next | dsimp only
      | split

theorem sramEvent_good {q₀ : List Instr} {p₀ : Bool} {c₀ : Option Nat} {s : State} {src sev kind : Nat}
    (h₀ : Good q₀ p₀ c₀ s) :
    Good q₀ p₀ c₀ (sramEvent s src sev kind) := by
  unfold sramEvent
  try dsimp only
  with_reducible
    repeat' first
      | exact h₀ | assumption | intro _ | apply logEv_good | dsimp only | split

theorem execSramDoubleBitError_good {q₀ : List Instr} {p₀ : Bool} {c₀ : Option Nat} {s : State} {where_ : Sram}
    (h₀ : Good q₀ p₀ c₀ s) :
    GoodX q₀ p₀ c₀ (execSramDoubleBitError where_ s) := by
  unfold execSramDoubleBitError
  try dsimp only
  with_reducible
    repeat' first
      | exact h₀ | assumption | intro _ | apply recoverEntries_good | apply nextFree_good | apply modPage_good
      | apply modHank_good | apply logEvFor_good | apply sramEvent_good | apply modLcache_good | apply bump_good
      | apply resume_good | apply failUnit_good | apply fabricError_good | apply poisonLine_good | apply casLine_good
      | apply plAdd_good | apply modSlot_good | apply GoodX.next | apply GoodX.ite | apply Good.ite
      | refine Good.of_pair (by assumption) ?_ | dsimp only | split | refine Good.upd ?_

end Sys2Proof.Machine
end

