-- ==== Sys2Proof/Laws/GoodQos.lean ====
section
/-! SUPPORT. The operations of Machine/Qos.lean keep the state good (`Good`). -/

set_option linter.unusedTactic false
set_option linter.unreachableTactic false

set_option Elab.async false

namespace Sys2Proof.Machine

open Sys2Proof

theorem putBudget_good {q₀ : List Instr} {p₀ : Bool} {c₀ : Option Nat} {s : State} {k : Nat} {val : Word}
    (h₀ : Good q₀ p₀ c₀ s) :
    Good q₀ p₀ c₀ (putBudget s k val) := by
  unfold putBudget
  try dsimp only
  with_reducible
    repeat' first
      | exact h₀ | assumption | intro _ | apply setReg_good | apply logEv_good | apply rescale_good | apply Good.ite
      | dsimp only | split | refine Good.updAll ?_ | refine Good.upd ?_

theorem execBudgetWrite_good {q₀ : List Instr} {p₀ : Bool} {c₀ : Option Nat} {s : State} {by_ : Agent} {k : Fin 16}
    {val : Word} (h₀ : Good q₀ p₀ c₀ s) :
    GoodX q₀ p₀ c₀ (execBudgetWrite by_ k val s) := by
  unfold execBudgetWrite
  try dsimp only
  with_reducible
    repeat' first
      | exact h₀ | assumption | intro _ | apply access_good | apply putBudget_good | apply GoodX.next | dsimp only
      | split

theorem execGetQosStatus_good {q₀ : List Instr} {p₀ : Bool} {c₀ : Option Nat} {s : State} {seat : Fin 1024}
    (h₀ : Good q₀ p₀ c₀ s) :
    GoodX q₀ p₀ c₀ (execGetQosStatus seat s) := by
  unfold execGetQosStatus
  try dsimp only
  with_reducible
    repeat' first
      | exact h₀ | assumption | intro _ | apply mcGate_good | apply emit_good | apply nextFree_good | apply GoodX.next
      | apply GoodX.ite | apply Good.ite | apply Good.foldl | dsimp only | split

theorem execSetQosControl_good {q₀ : List Instr} {p₀ : Bool} {c₀ : Option Nat} {s : State} {seat : Fin 1024}
    {values : List Nat} (h₀ : Good q₀ p₀ c₀ s) :
    GoodX q₀ p₀ c₀ (execSetQosControl seat values s) := by
  unfold execSetQosControl
  try dsimp only
  with_reducible
    repeat' first
      | exact h₀ | assumption | intro _ | apply mcGate_good | apply emit_good | apply modSeat_good | apply GoodX.next
      | apply GoodX.ite | apply Good.ite | dsimp only | split | refine Good.upd ?_

end Sys2Proof.Machine
end

