-- ==== Sys2Proof/Laws/GoodFabric.lean ====
section
/-! SUPPORT. The operations of Machine/Fabric.lean keep the state good (`Good`). -/

set_option linter.unusedTactic false
set_option linter.unreachableTactic false

set_option Elab.async false

namespace Sys2Proof.Machine

open Sys2Proof

theorem setFences_good {q₀ : List Instr} {p₀ : Bool} {c₀ : Option Nat} {s : State} {d : Nat} {on : Bool}
    (h₀ : Good q₀ p₀ c₀ s) :
    Good q₀ p₀ c₀ (setFences s d on) := by
  unfold setFences
  try dsimp only
  with_reducible
    repeat' first
      | exact h₀ | assumption | intro _ | apply modSt_good | apply Good.ite | apply Good.foldl | apply Good.foldl_fst
      | dsimp only | split

theorem answerFlit_good {q₀ : List Instr} {p₀ : Bool} {c₀ : Option Nat} {s : State} {st lp dom : Nat}
    {entry : Option Nat} {asleep : Bool} (h₀ : Good q₀ p₀ c₀ s) :
    Good q₀ p₀ c₀ (answerFlit s st lp dom entry asleep) := by
  unfold answerFlit
  try dsimp only
  with_reducible
    repeat' first
      | exact h₀ | assumption | intro _ | apply errorResponse_good | apply answerFrom_good | apply Good.ite
      | refine Good.of_pair (by assumption) ?_ | dsimp only | split

theorem refuseQueues_good {q₀ : List Instr} {p₀ : Bool} {c₀ : Option Nat} {s : State} {d : Nat} (h₀ : Good q₀ p₀ c₀ s) :
    Good q₀ p₀ c₀ (refuseQueues s d) := by
  unfold refuseQueues
  try dsimp only
  with_reducible
    repeat' first
      | exact h₀ | assumption | intro _ | apply modSt_good | apply answerFlit_good | apply logEv_good | apply Good.ite
      | apply Good.foldl | apply Good.foldl_fst | dsimp only | split

theorem deliverQueues_good {q₀ : List Instr} {p₀ : Bool} {c₀ : Option Nat} {s : State} {d : Nat}
    (h₀ : Good q₀ p₀ c₀ s) :
    Good q₀ p₀ c₀ (deliverQueues s d) := by
  unfold deliverQueues
  try dsimp only
  with_reducible
    repeat' first
      | exact h₀ | assumption | intro _ | apply modSt_good | apply Good.foldl | apply Good.foldl_fst | dsimp only
      | split

theorem execFabricFlitCrcFail_good {q₀ : List Instr} {p₀ : Bool} {c₀ : Option Nat} {s : State} {st : Fin 48}
    {link : Fin 4} (h₀ : Good q₀ p₀ c₀ s) :
    GoodX q₀ p₀ c₀ (execFabricFlitCrcFail st link s) := by
  unfold execFabricFlitCrcFail
  try dsimp only
  with_reducible
    repeat' first
      | exact h₀ | assumption | intro _ | apply bump_good | apply GoodX.next | apply GoodX.ite | apply Good.ite
      | dsimp only | split

theorem execFabricLinkFail_good {q₀ : List Instr} {p₀ : Bool} {c₀ : Option Nat} {s : State} {st : Fin 48}
    {link : Fin 4} (h₀ : Good q₀ p₀ c₀ s) :
    GoodX q₀ p₀ c₀ (execFabricLinkFail st link s) := by
  unfold execFabricLinkFail
  try dsimp only
  with_reducible
    repeat' first
      | exact h₀ | assumption | intro _ | apply modSt_good | apply logEv_good | apply GoodX.next | apply GoodX.ite
      | apply Good.ite | dsimp only | split | refine Good.upd ?_

theorem loadShadow_good {q₀ : List Instr} {p₀ : Bool} {c₀ : Option Nat} {s : State} {tables : List (List Nat)}
    (h₀ : Good q₀ p₀ c₀ s) :
    Good q₀ p₀ c₀ (loadShadow s tables) := by
  unfold loadShadow
  try dsimp only
  with_reducible
    repeat' first
      | exact h₀ | assumption | intro _ | apply modSt_good | apply Good.foldl | dsimp only | split
      | refine Good.upd ?_

theorem execFlip_good {q₀ : List Instr} {p₀ : Bool} {c₀ : Option Nat} {s : State} {st : Fin 48} {oldFlits : Nat}
    (h₀ : Good q₀ p₀ c₀ s) :
    GoodX q₀ p₀ c₀ (execFlip st oldFlits s) := by
  unfold execFlip
  try dsimp only
  with_reducible
    repeat' first
      | exact h₀ | assumption | intro _ | apply modSt_good | apply GoodX.next | apply GoodX.ite | apply Good.ite
      | dsimp only | split | refine Good.upd ?_

theorem execSlotTableSwitch_good {q₀ : List Instr} {p₀ : Bool} {c₀ : Option Nat} {s : State}  (h₀ : Good q₀ p₀ c₀ s) :
    GoodX q₀ p₀ c₀ (execSlotTableSwitch s) := by
  unfold execSlotTableSwitch
  try dsimp only
  with_reducible
    repeat' first
      | exact h₀ | assumption | intro _ | apply GoodX.next | apply GoodX.ite | apply Good.ite | dsimp only | split
      | refine Good.upd ?_

theorem execOldEpochRetire_good {q₀ : List Instr} {p₀ : Bool} {c₀ : Option Nat} {s : State}  (h₀ : Good q₀ p₀ c₀ s) :
    GoodX q₀ p₀ c₀ (execOldEpochRetire s) := by
  unfold execOldEpochRetire
  try dsimp only
  with_reducible
    repeat' first
      | exact h₀ | assumption | intro _ | apply GoodX.next | apply GoodX.ite | apply Good.ite | dsimp only | split
      | refine Good.updAll ?_ | refine Good.upd ?_

theorem execBoundaryQueueEnter_good {q₀ : List Instr} {p₀ : Bool} {c₀ : Option Nat} {s : State} {st : Fin 48}
    {lp : Fin 4} {entry : Option (Fin 24576)} (h₀ : Good q₀ p₀ c₀ s) :
    GoodX q₀ p₀ c₀ (execBoundaryQueueEnter st lp entry s) := by
  unfold execBoundaryQueueEnter
  try dsimp only
  with_reducible
    repeat' first
      | exact h₀ | assumption | intro _ | apply answerFlit_good | apply askWake_good | apply modSt_good
      | apply GoodX.next | apply GoodX.ite | apply Good.ite | refine Good.of_pair (by assumption) ?_ | dsimp only
      | split

theorem declareDead_good {q₀ : List Instr} {p₀ : Bool} {c₀ : Option Nat} {s : State} {st lp cause : Nat}
    (h₀ : Good q₀ p₀ c₀ s) :
    Good q₀ p₀ c₀ (declareDead s st lp cause) := by
  unfold declareDead
  try dsimp only
  with_reducible
    repeat' first
      | exact h₀ | assumption | intro _ | apply modSt_good | apply failSpindle_good | apply logEv_good
      | apply Good.ite | dsimp only | split

theorem execPortCreditTimeout_good {q₀ : List Instr} {p₀ : Bool} {c₀ : Option Nat} {s : State} {st : Fin 48}
    {lp : Fin 4} (h₀ : Good q₀ p₀ c₀ s) :
    GoodX q₀ p₀ c₀ (execPortCreditTimeout st lp s) := by
  unfold execPortCreditTimeout
  try dsimp only
  with_reducible
    repeat' first
      | exact h₀ | assumption | intro _ | apply declareDead_good | apply GoodX.next | apply GoodX.ite | apply Good.ite
      | dsimp only | split

theorem execEndpointFatalParity_good {q₀ : List Instr} {p₀ : Bool} {c₀ : Option Nat} {s : State} {st : Fin 48}
    {lp : Fin 4} (h₀ : Good q₀ p₀ c₀ s) :
    GoodX q₀ p₀ c₀ (execEndpointFatalParity st lp s) := by
  unfold execEndpointFatalParity
  try dsimp only
  with_reducible
    repeat' first
      | exact h₀ | assumption | intro _ | apply declareDead_good | apply GoodX.next | dsimp only | split

end Sys2Proof.Machine
end

