-- ==== Sys2Proof/Laws/GoodSeats.lean ====
section
/-! SUPPORT. The operations of Machine/Seats.lean keep the state good (`Good`). -/

set_option linter.unusedTactic false
set_option linter.unreachableTactic false

set_option Elab.async false

namespace Sys2Proof.Machine

open Sys2Proof

theorem seatEvent_good {q₀ : List Instr} {p₀ : Bool} {c₀ : Option Nat} {s : State} {seat : Nat} (h₀ : Good q₀ p₀ c₀ s) :
    Good q₀ p₀ c₀ (seatEvent s seat) := by
  unfold seatEvent
  try dsimp only
  with_reducible
    repeat' first
      | exact h₀ | assumption | intro _ | apply logEvFor_good | dsimp only | split

theorem winEvent_good {q₀ : List Instr} {p₀ : Bool} {c₀ : Option Nat} {s : State} {w block : Nat}
    (h₀ : Good q₀ p₀ c₀ s) :
    Good q₀ p₀ c₀ (winEvent s w block) := by
  unfold winEvent
  try dsimp only
  with_reducible
    repeat' first
      | exact h₀ | assumption | intro _ | apply logEvFor_good | dsimp only | split

theorem freePending_good {q₀ : List Instr} {p₀ : Bool} {c₀ : Option Nat} {s : State} {w : Nat} (h₀ : Good q₀ p₀ c₀ s) :
    Good q₀ p₀ c₀ (freePending s w) := by
  unfold freePending
  try dsimp only
  with_reducible
    repeat' first
      | exact h₀ | assumption | intro _ | apply ledgerPut_good | exact h₀.set_blocks (tabWf_filter _ h₀.blocks)
      | dsimp only | split | refine Good.upd ?_

theorem disableWindow_good {q₀ : List Instr} {p₀ : Bool} {c₀ : Option Nat} {s : State} {w : Nat}
    {cause : DrainCause} (h₀ : Good q₀ p₀ c₀ s) :
    Good q₀ p₀ c₀ (disableWindow s w cause) := by
  unfold disableWindow
  try dsimp only
  with_reducible
    repeat' first
      | exact h₀ | assumption | intro _ | apply modWin_good | apply freePending_good | apply dumpWindowLeft_good
      | apply stampNext_good | apply purgeRange_good | apply Good.ite | refine Good.of_pair (by assumption) ?_
      | dsimp only | split | refine Good.upd ?_

theorem enableWindow_good {q₀ : List Instr} {p₀ : Bool} {c₀ : Option Nat} {s : State} {w : Nat} (h₀ : Good q₀ p₀ c₀ s) :
    Good q₀ p₀ c₀ (enableWindow s w) := by
  unfold enableWindow
  try dsimp only
  with_reducible
    repeat' first
      | exact h₀ | assumption | intro _ | apply modWin_good | apply Good.ite | refine Good.of_pair (by assumption) ?_
      | dsimp only | split | refine Good.upd ?_

theorem execWindowEnable_good {q₀ : List Instr} {p₀ : Bool} {c₀ : Option Nat} {s : State} {by_ : Agent}
    {win : Fin 4096} (h₀ : Good q₀ p₀ c₀ s) :
    GoodX q₀ p₀ c₀ (execWindowEnable by_ win s) := by
  unfold execWindowEnable
  try dsimp only
  with_reducible
    repeat' first
      | exact h₀ | assumption | intro _ | apply access_good | apply enableWindow_good | apply GoodX.next | dsimp only
      | split

theorem execWindowDisable_good {q₀ : List Instr} {p₀ : Bool} {c₀ : Option Nat} {s : State} {by_ : Agent}
    {win : Fin 4096} (h₀ : Good q₀ p₀ c₀ s) :
    GoodX q₀ p₀ c₀ (execWindowDisable by_ win s) := by
  unfold execWindowDisable
  try dsimp only
  with_reducible
    repeat' first
      | exact h₀ | assumption | intro _ | apply access_good | apply disableWindow_good | apply GoodX.next | dsimp only
      | split

theorem sendHandover_good {q₀ : List Instr} {p₀ : Bool} {c₀ : Option Nat} {s : State} {w : Nat} (h₀ : Good q₀ p₀ c₀ s) :
    Good q₀ p₀ c₀ (sendHandover s w) := by
  unfold sendHandover
  try dsimp only
  with_reducible
    repeat' first
      | exact h₀ | assumption | intro _ | apply modWin_good | apply plySend_good
      | refine Good.of_pair (by assumption) ?_ | dsimp only | split | refine Good.upd ?_

theorem enableSeat_good {q₀ : List Instr} {p₀ : Bool} {c₀ : Option Nat} {s : State} {seat : Nat}
    (h₀ : Good q₀ p₀ c₀ s) :
    Good q₀ p₀ c₀ (enableSeat s seat) := by
  unfold enableSeat
  try dsimp only
  with_reducible
    repeat' first
      | exact h₀ | assumption | intro _ | apply modSeat_good | apply Good.ite | refine Good.of_pair (by assumption) ?_
      | dsimp only | split | refine Good.upd ?_

theorem disableSeat_good {q₀ : List Instr} {p₀ : Bool} {c₀ : Option Nat} {s : State} {seat : Nat} {removing : Bool}
    (h₀ : Good q₀ p₀ c₀ s) :
    Good q₀ p₀ c₀ (disableSeat s seat removing) := by
  unfold disableSeat
  try dsimp only
  with_reducible
    repeat' first
      | exact h₀ | assumption | intro _ | apply modSeat_good | apply disableRing_good | apply purgeSeat_good
      | apply Good.ite | apply Good.foldl | refine Good.of_pair (by assumption) ?_ | dsimp only | split
      | refine Good.upd ?_

theorem execSeatEnable_good {q₀ : List Instr} {p₀ : Bool} {c₀ : Option Nat} {s : State} {by_ : Agent}
    {seat : Fin 1024} (h₀ : Good q₀ p₀ c₀ s) :
    GoodX q₀ p₀ c₀ (execSeatEnable by_ seat s) := by
  unfold execSeatEnable
  try dsimp only
  with_reducible
    repeat' first
      | exact h₀ | assumption | intro _ | apply access_good | apply enableSeat_good | apply GoodX.next | dsimp only
      | split

theorem execSeatDisable_good {q₀ : List Instr} {p₀ : Bool} {c₀ : Option Nat} {s : State} {by_ : Agent}
    {seat : Fin 1024} (h₀ : Good q₀ p₀ c₀ s) :
    GoodX q₀ p₀ c₀ (execSeatDisable by_ seat s) := by
  unfold execSeatDisable
  try dsimp only
  with_reducible
    repeat' first
      | exact h₀ | assumption | intro _ | apply access_good | apply disableSeat_good | apply GoodX.next | dsimp only
      | split

theorem detachLine_good {q₀ : List Instr} {p₀ : Bool} {c₀ : Option Nat} {q : State × Nat} {seat key : Nat}
    (h₀ : Good q₀ p₀ c₀ q.1) :
    Good q₀ p₀ c₀ (detachLine seat q key).1 := by
  obtain ⟨s₀, n₀⟩ := q
  have h₀ : Good q₀ p₀ c₀ s₀ := h₀
  unfold detachLine
  try dsimp only
  with_reducible
    repeat' first
      | exact h₀ | assumption | intro _ | apply freeCentry_good | apply setCentry_good | apply poisonHeld_good
      | apply Good.ite_fst | apply Good.ite | refine Good.of_pair (by assumption) ?_ | dsimp only | split
      | refine Good.upd ?_

theorem detachSnoop_good {q₀ : List Instr} {p₀ : Bool} {c₀ : Option Nat} {q : State × Nat} {seat r : Nat}
    (h₀ : Good q₀ p₀ c₀ q.1) :
    Good q₀ p₀ c₀ (detachSnoop seat q r).1 := by
  obtain ⟨s₀, n₀⟩ := q
  have h₀ : Good q₀ p₀ c₀ s₀ := h₀
  unfold detachSnoop
  try dsimp only
  with_reducible
    repeat' first
      | exact h₀ | assumption | intro _ | apply modXing_good | apply breakLine_good | apply snoopDone_good
      | apply Good.ite_fst | apply Good.ite | refine Good.of_pair (by assumption) ?_ | dsimp only | split
      | refine Good.upd ?_

theorem detachCreel_good {q₀ : List Instr} {p₀ : Bool} {c₀ : Option Nat} {s : State} {seat : Nat}
    (h₀ : Good q₀ p₀ c₀ s) :
    Good q₀ p₀ c₀ (detachCreel s seat).1 := by
  unfold detachCreel
  try dsimp only
  with_reducible
    repeat' first
      | exact h₀ | assumption | intro _ | apply detachLine_good | apply detachSnoop_good | apply Good.foldl
      | apply Good.foldl_fst | dsimp only | split

theorem execSeatDetachTimeout_good {q₀ : List Instr} {p₀ : Bool} {c₀ : Option Nat} {s : State} {seat : Fin 1024}
    (h₀ : Good q₀ p₀ c₀ s) :
    GoodX q₀ p₀ c₀ (execSeatDetachTimeout seat s) := by
  unfold execSeatDetachTimeout
  try dsimp only
  with_reducible
    repeat' first
      | exact h₀ | assumption | intro _ | apply advanceTo_good | apply modSeat_good | apply detachCreel_good
      | apply logEvFor_good | apply latchEvt_good | apply resume_good | apply GoodX.next | apply GoodX.ite
      | apply Good.ite_fst | apply Good.ite | refine Good.of_pair (by assumption) ?_ | dsimp only | split

theorem setBlocks_good {q₀ : List Instr} {p₀ : Bool} {c₀ : Option Nat} {s : State} {l : List Nat}
    {f : Block → Block} (h₀ : Good q₀ p₀ c₀ s) :
    Good q₀ p₀ c₀ (setBlocks s l f) := by
  unfold setBlocks
  try dsimp only
  with_reducible
    repeat' first
      | exact h₀ | assumption | intro _ | apply modBlock_good | apply Good.foldl | dsimp only | split

theorem numberExts_good {q₀ : List Instr} {p₀ : Bool} {c₀ : Option Nat} {s : State} {w seat st : Nat} {a0 : List Extent} (h₀ : Good q₀ p₀ c₀ s) :
    Good q₀ p₀ c₀ (numberExts w seat st a0 s) := by
  induction a0 generalizing w seat st s with
  | nil =>
    unfold numberExts
    try dsimp only
    with_reducible
      repeat' first
        | exact h₀ | assumption | intro _ | apply ih | apply setBlocks_good | dsimp only | split | refine Good.upd ?_
  | cons x l ih =>
    unfold numberExts
    try dsimp only
    with_reducible
      repeat' first
        | exact h₀ | assumption | intro _ | apply ih | apply setBlocks_good | dsimp only | split | refine Good.upd ?_

theorem dcEvent_good {q₀ : List Instr} {p₀ : Bool} {c₀ : Option Nat} {s : State} {w seat kind : Nat}
    {exts : List Extent} (h₀ : Good q₀ p₀ c₀ s) :
    Good q₀ p₀ c₀ (dcEvent s w seat kind exts) := by
  unfold dcEvent
  try dsimp only
  with_reducible
    repeat' first
      | exact h₀ | assumption | intro _ | apply emit_good | apply logEvFor_good
      | refine Good.of_pair (by assumption) ?_ | dsimp only | split

theorem blocksOnline_good {q₀ : List Instr} {p₀ : Bool} {c₀ : Option Nat} {s : State} {w : Nat} {l : List Nat}
    (h₀ : Good q₀ p₀ c₀ s) :
    Good q₀ p₀ c₀ (blocksOnline s w l).1 := by
  unfold blocksOnline
  try dsimp only
  with_reducible
    repeat' first
      | exact h₀ | assumption | intro _ | apply cdatChange_good | apply modBlock_good | apply sendMeta_good
      | apply Good.foldl | apply Good.foldl_fst | refine Good.of_pair (by assumption) ?_ | dsimp only | split
      | refine Good.upd ?_

theorem addAccepted_good {q₀ : List Instr} {p₀ : Bool} {c₀ : Option Nat} {s : State} {w seat : Nat}
    {exts : List Extent} (h₀ : Good q₀ p₀ c₀ s) :
    Good q₀ p₀ c₀ (addAccepted s w seat exts) := by
  unfold addAccepted
  try dsimp only
  with_reducible
    repeat' first
      | exact h₀ | assumption | intro _ | apply setBlocks_good | apply dcEvent_good | apply blocksOnline_good
      | apply Good.ite_fst | apply Good.ite | dsimp only | split | refine Good.upd ?_

theorem dcAnswer_good {q₀ : List Instr} {p₀ : Bool} {c₀ : Option Nat} {s : State} {src : FmSource} {op : Nat}
    {r : Ret} (h₀ : Good q₀ p₀ c₀ s) :
    Good q₀ p₀ c₀ (dcAnswer s src op r) := by
  unfold dcAnswer
  try dsimp only
  with_reducible
    repeat' first
      | exact h₀ | assumption | intro _ | apply emit_good | refine Good.of_pair (by assumption) ?_ | dsimp only
      | split

theorem execInitiateDcAdd_good {q₀ : List Instr} {p₀ : Bool} {c₀ : Option Nat} {s : State} {src : FmSource}
    {seat : Fin 1024} {win : Fin 4096} {exts : List Extent} (h₀ : Good q₀ p₀ c₀ s) :
    GoodX q₀ p₀ c₀ (execInitiateDcAdd src seat win exts s) := by
  unfold execInitiateDcAdd
  try dsimp only
  with_reducible
    repeat' first
      | exact h₀ | assumption | intro _ | apply mcGate_good | apply dcAnswer_good | apply numberExts_good
      | apply ledgerRefuse_good | apply ledgerPut_good | apply addAccepted_good | apply plySend_good
      | apply GoodX.next | apply GoodX.ite | apply Good.ite | refine Good.of_pair (by assumption) ?_ | dsimp only
      | split | refine Good.upd ?_

theorem freeBlocks_good {q₀ : List Instr} {p₀ : Bool} {c₀ : Option Nat} {s : State} {l : List Nat}
    (h₀ : Good q₀ p₀ c₀ s) :
    Good q₀ p₀ c₀ (freeBlocks s l) := by
  unfold freeBlocks
  try dsimp only
  with_reducible
    repeat' first
      | exact h₀ | assumption | intro _ | apply ledgerPut_good | apply setBlocks_good | dsimp only | split

theorem startRelease_good {q₀ : List Instr} {p₀ : Bool} {c₀ : Option Nat} {s : State} {w : Nat} {l : List Nat}
    {who : Option Cci} (h₀ : Good q₀ p₀ c₀ s) :
    Good q₀ p₀ c₀ (startRelease s w l who) := by
  unfold startRelease
  try dsimp only
  with_reducible
    repeat' first
      | exact h₀ | assumption | intro _ | apply setBlocks_good | apply cdatChange_good | apply purgeRange_good
      | apply Good.ite | apply Good.foldl | dsimp only | split | refine Good.upd ?_

theorem execInitiateDcRelease_good {q₀ : List Instr} {p₀ : Bool} {c₀ : Option Nat} {s : State} {seat : Fin 1024}
    {win : Fin 4096} {exts : List Extent} (h₀ : Good q₀ p₀ c₀ s) :
    GoodX q₀ p₀ c₀ (execInitiateDcRelease seat win exts s) := by
  unfold execInitiateDcRelease
  try dsimp only
  with_reducible
    repeat' first
      | exact h₀ | assumption | intro _ | apply mcGate_good | apply emit_good | apply freeBlocks_good
      | apply dcEvent_good | apply GoodX.next | apply GoodX.ite | apply Good.ite
      | refine Good.of_pair (by assumption) ?_ | dsimp only | split

theorem execForcedDcRemoval_good {q₀ : List Instr} {p₀ : Bool} {c₀ : Option Nat} {s : State} {win : Fin 4096}
    {exts : List Extent} (h₀ : Good q₀ p₀ c₀ s) :
    GoodX q₀ p₀ c₀ (execForcedDcRemoval win exts s) := by
  unfold execForcedDcRemoval
  try dsimp only
  with_reducible
    repeat' first
      | exact h₀ | assumption | intro _ | apply mcGate_good | apply emit_good | apply freeBlocks_good
      | apply startRelease_good | apply GoodX.next | apply GoodX.ite | apply Good.ite
      | refine Good.of_pair (by assumption) ?_ | dsimp only | split

theorem dropPoisoned_good {q₀ : List Instr} {p₀ : Bool} {c₀ : Option Nat} {s : State} {b : Nat} (h₀ : Good q₀ p₀ c₀ s) :
    Good q₀ p₀ c₀ (dropPoisoned s b) := by
  unfold dropPoisoned
  try dsimp only
  with_reducible
    repeat' first
      | exact h₀ | assumption | intro _ | apply freeCentry_good | apply Good.foldl | apply Good.foldl_fst | dsimp only
      | split

theorem dropBlock_good {q₀ : List Instr} {p₀ : Bool} {c₀ : Option Nat} {s : State} {w b : Nat} (h₀ : Good q₀ p₀ c₀ s) :
    Good q₀ p₀ c₀ (dropBlock w s b) := by
  unfold dropBlock
  try dsimp only
  with_reducible
    repeat' first
      | exact h₀ | assumption | intro _ | apply dropPoisoned_good | apply dropBlockHanks_good | apply sendMeta_good
      | apply modBlock_good | apply Good.ite_fst | apply Good.ite | refine Good.of_pair (by assumption) ?_
      | dsimp only | split | refine Good.upd ?_

theorem dcAnswers_good {q₀ : List Instr} {p₀ : Bool} {c₀ : Option Nat} {s : State} {w op : Nat}
    {l : List (Option Cci)} (h₀ : Good q₀ p₀ c₀ s) :
    Good q₀ p₀ c₀ (dcAnswers s w op l) := by
  unfold dcAnswers
  try dsimp only
  with_reducible
    repeat' first
      | exact h₀ | assumption | intro _ | apply cciAnswer_good | apply Good.ite | apply Good.foldl
      | refine Good.of_pair (by assumption) ?_ | dsimp only | split

theorem execDcReleaseComplete_good {q₀ : List Instr} {p₀ : Bool} {c₀ : Option Nat} {s : State} {win : Fin 4096}
    (h₀ : Good q₀ p₀ c₀ s) :
    GoodX q₀ p₀ c₀ (execDcReleaseComplete win s) := by
  unfold execDcReleaseComplete
  try dsimp only
  with_reducible
    repeat' first
      | exact h₀ | assumption | intro _ | apply dropBlock_good | apply ledgerPut_good | apply dcAnswers_good
      | apply winEvent_good | apply resume_good | apply GoodX.next | apply GoodX.ite | apply Good.ite
      | apply Good.foldl | apply Good.foldl_fst | dsimp only | split

theorem metaAcked_good {q₀ : List Instr} {p₀ : Bool} {c₀ : Option Nat} {s : State} {w kind dla : Nat}
    (h₀ : Good q₀ p₀ c₀ s) :
    Good q₀ p₀ c₀ (metaAcked s w kind dla) := by
  unfold metaAcked
  try dsimp only
  with_reducible
    repeat' first
      | exact h₀ | assumption | intro _ | apply dcAnswers_good | apply modBlock_good | apply Good.ite | dsimp only
      | split | refine Good.upd ?_

end Sys2Proof.Machine
end

