-- ==== Sys2Proof/Laws/GoodPly.lean ====
section
/-! SUPPORT. The operations of Machine/Ply.lean keep the state good (`Good`). -/

set_option linter.unusedTactic false
set_option linter.unreachableTactic false

set_option Elab.async false

namespace Sys2Proof.Machine

open Sys2Proof

theorem plyEvent_good {q₀ : List Instr} {p₀ : Bool} {c₀ : Option Nat} {s : State} {p sev : Nat} (h₀ : Good q₀ p₀ c₀ s) :
    Good q₀ p₀ c₀ (plyEvent s p sev) := by
  unfold plyEvent
  try dsimp only
  with_reducible
    repeat' first
      | exact h₀ | assumption | intro _ | apply logEv_good | dsimp only | split

theorem sendMtab_good {q₀ : List Instr} {p₀ : Bool} {c₀ : Option Nat} {s : State}  (h₀ : Good q₀ p₀ c₀ s) :
    Good q₀ p₀ c₀ (sendMtab s) := by
  unfold sendMtab
  try dsimp only
  with_reducible
    repeat' first
      | exact h₀ | assumption | intro _ | apply plySend_good | refine Good.of_pair (by assumption) ?_ | dsimp only
      | split

theorem metaDone_good {q₀ : List Instr} {p₀ : Bool} {c₀ : Option Nat} {s : State} {desc : Option Nat}
    (h₀ : Good q₀ p₀ c₀ s) :
    Good q₀ p₀ c₀ (metaDone s desc) := by
  unfold metaDone
  try dsimp only
  with_reducible
    repeat' first
      | exact h₀ | assumption | intro _ | apply modDesc_good | apply endDesc_good | apply Good.ite
      | refine Good.of_pair (by assumption) ?_ | dsimp only | split | refine Good.upd ?_

theorem peerReady_good {q₀ : List Instr} {p₀ : Bool} {c₀ : Option Nat} {s : State} {w : Nat} (h₀ : Good q₀ p₀ c₀ s) :
    Good q₀ p₀ c₀ (peerReady s w) := by
  unfold peerReady
  try dsimp only
  with_reducible
    repeat' first
      | exact h₀ | assumption | intro _ | apply winEvent_good | apply modWin_good | apply Good.ite | dsimp only
      | split | refine Good.upd ?_

theorem peerWalkEnded_good {q₀ : List Instr} {p₀ : Bool} {c₀ : Option Nat} {s : State} {w : Nat}
    (h₀ : Good q₀ p₀ c₀ s) :
    Good q₀ p₀ c₀ (peerWalkEnded s w) := by
  unfold peerWalkEnded
  try dsimp only
  with_reducible
    repeat' first
      | exact h₀ | assumption | intro _ | apply modSlot_good | apply answerWalk_good | apply Good.ite | dsimp only
      | split | refine Good.upd ?_

theorem opLinkDown_good {q₀ : List Instr} {p₀ : Bool} {c₀ : Option Nat} {s : State} {o : PeerOp}
    (h₀ : Good q₀ p₀ c₀ s) :
    Good q₀ p₀ c₀ (opLinkDown s o) := by
  unfold opLinkDown
  try dsimp only
  with_reducible
    repeat' first
      | exact h₀ | assumption | intro _ | apply peerReady_good | apply modSlot_good | apply degrade_good
      | apply setDirty_good | apply metaAcked_good | apply metaDone_good | apply dcAnswer_good | apply freeBlocks_good
      | apply peerWalkEnded_good | apply emit_good | apply modMbx_good | refine Good.of_pair (by assumption) ?_
      | dsimp only | split | refine Good.upd ?_

theorem discardBody_good {q₀ : List Instr} {p₀ : Bool} {c₀ : Option Nat} {s : State} {b : PlyBody}
    (h₀ : Good q₀ p₀ c₀ s) :
    Good q₀ p₀ c₀ (discardBody s b) := by
  unfold discardBody
  try dsimp only
  with_reducible
    repeat' first
      | exact h₀ | assumption | intro _ | apply degrade_good | apply setDirty_good | apply Good.foldl | apply Good.ite
      | refine Good.of_pair (by assumption) ?_ | dsimp only | split

theorem plyDown_good {q₀ : List Instr} {p₀ : Bool} {c₀ : Option Nat} {s : State} {p : Nat} {st : PlySt}
    (h₀ : Good q₀ p₀ c₀ s) :
    Good q₀ p₀ c₀ (plyDown s p st) := by
  unfold plyDown
  try dsimp only
  with_reducible
    repeat' first
      | exact h₀ | assumption | intro _ | apply modPly_good | apply discardBody_good | apply opLinkDown_good
      | apply plyEvent_good | apply bump_good | apply degrade_good | apply resume_good | apply Good.ite
      | apply Good.foldl | apply Good.foldl_fst | dsimp only | split | refine Good.upd ?_

theorem boxesAcked_good {q₀ : List Instr} {p₀ : Bool} {c₀ : Option Nat} {s : State} {p : Nat} (h₀ : Good q₀ p₀ c₀ s) :
    Good q₀ p₀ c₀ (boxesAcked s p) := by
  unfold boxesAcked
  try dsimp only
  with_reducible
    repeat' first
      | exact h₀ | assumption | intro _ | refine Good.of_pair (by assumption) ?_ | dsimp only | split
      | refine Good.upd ?_

theorem plyIn_good {q₀ : List Instr} {p₀ : Bool} {c₀ : Option Nat} {s : State} {p : Nat} {h : PlyHdr}
    (h₀ : Good q₀ p₀ c₀ s) :
    Good q₀ p₀ c₀ (plyIn s p h).1 := by
  unfold plyIn
  try dsimp only
  with_reducible
    repeat' first
      | exact h₀ | assumption | intro _ | apply unIdle_good | apply modPly_good | apply bump_good | apply logEv_good
      | apply plyDown_good | apply boxesAcked_good | apply plyDrain_good | apply plyAcked_good | apply Good.ite_fst
      | apply Good.ite | refine Good.of_pair (by assumption) ?_ | dsimp only | split | refine Good.upd ?_

theorem plyAckNow_good {q₀ : List Instr} {p₀ : Bool} {c₀ : Option Nat} {s : State} {p : Nat} (h₀ : Good q₀ p₀ c₀ s) :
    Good q₀ p₀ c₀ (plyAckNow s p) := by
  unfold plyAckNow
  try dsimp only
  with_reducible
    repeat' first
      | exact h₀ | assumption | intro _ | apply plySendControl_good | dsimp only | split

theorem plyTake_good {q₀ : List Instr} {p₀ : Bool} {c₀ : Option Nat} {s : State} {p : Nat} {h : PlyHdr}
    {rsp later : Bool} (h₀ : Good q₀ p₀ c₀ s) :
    Good q₀ p₀ c₀ (plyTake s p h rsp later) := by
  unfold plyTake
  try dsimp only
  with_reducible
    repeat' first
      | exact h₀ | assumption | intro _ | apply modPly_good | apply Good.ite | refine Good.of_pair (by assumption) ?_
      | dsimp only | split

theorem plyAckDue_good {q₀ : List Instr} {p₀ : Bool} {c₀ : Option Nat} {s : State} {p : Nat} (h₀ : Good q₀ p₀ c₀ s) :
    Good q₀ p₀ c₀ (plyAckDue s p) := by
  unfold plyAckDue
  try dsimp only
  with_reducible
    repeat' first
      | exact h₀ | assumption | intro _ | apply plyAckNow_good | apply Good.ite | dsimp only | split

theorem passHeld_good {q₀ : List Instr} {p₀ : Bool} {c₀ : Option Nat} {s t : State} {p : Nat}
    (h₀ : Good q₀ p₀ c₀ t) : Good q₀ p₀ c₀ (passHeld s p t) := by
  unfold passHeld
  exact Good.ite (resume_good h₀) h₀

theorem plySeqIn_good {q₀ : List Instr} {p₀ : Bool} {c₀ : Option Nat} {s : State} {p : Nat} {h : PlyHdr}
    {rsp later : Bool} {f : State → State} (h₀ : Good q₀ p₀ c₀ s) (hf : ∀ t, Good q₀ p₀ c₀ t → Good q₀ p₀ c₀ (f t)) :
    Good q₀ p₀ c₀ (plySeqIn s p h rsp later f) := by
  unfold plySeqIn
  try dsimp only
  with_reducible
    repeat' first
      | exact h₀ | assumption | intro _ | apply passHeld_good | apply hf | apply plyIn_good | apply plyAckDue_good | apply plyTake_good
      | apply plyAckNow_good | apply bump_good | apply Good.ite_fst | apply Good.ite
      | refine Good.of_pair (by assumption) ?_ | dsimp only | split

theorem plyControlIn_good {q₀ : List Instr} {p₀ : Bool} {c₀ : Option Nat} {s : State} {p : Nat} {h : PlyHdr}
    (h₀ : Good q₀ p₀ c₀ s) : Good q₀ p₀ c₀ (plyControlIn s p h).1 := by
  have h₁ : Good q₀ p₀ c₀ (plyIn s p h).1 := plyIn_good h₀
  unfold plyControlIn
  dsimp only
  split
  · exact passHeld_good (Good.ite (modPly_good h₁) h₁)
  · exact h₁

theorem execPlyAck_good {q₀ : List Instr} {p₀ : Bool} {c₀ : Option Nat} {s : State} {p : Fin 2} {h : PlyHdr}
    (h₀ : Good q₀ p₀ c₀ s) :
    GoodX q₀ p₀ c₀ (execPlyAck p h s) := by
  unfold execPlyAck
  try dsimp only
  with_reducible
    repeat' first
      | exact h₀ | assumption | intro _ | apply plyControlIn_good | apply GoodX.next | dsimp only | split

theorem sendPair_good {q₀ : List Instr} {p₀ : Bool} {c₀ : Option Nat} {s : State} {p step : Nat} {msg : List Byte}
    (h₀ : Good q₀ p₀ c₀ s) :
    Good q₀ p₀ c₀ (sendPair s p step msg) := by
  unfold sendPair
  try dsimp only
  with_reducible
    repeat' first
      | exact h₀ | assumption | intro _ | apply plySendControl_good | apply Good.foldl | dsimp only | split

theorem atStep_good {q₀ : List Instr} {p₀ : Bool} {c₀ : Option Nat} {s : State} {p step : Nat} (h₀ : Good q₀ p₀ c₀ s) :
    Good q₀ p₀ c₀ (atStep s p step) := by
  unfold atStep
  try dsimp only
  with_reducible
    repeat' first
      | exact h₀ | assumption | intro _ | apply modPly_good | dsimp only | split | refine Good.upd ?_

theorem sendHello_good {q₀ : List Instr} {p₀ : Bool} {c₀ : Option Nat} {s : State} {p : Nat} (h₀ : Good q₀ p₀ c₀ s) :
    Good q₀ p₀ c₀ (sendHello s p) := by
  unfold sendHello
  try dsimp only
  with_reducible
    repeat' first
      | exact h₀ | assumption | intro _ | apply sendPair_good | apply nextFree_good | apply atStep_good | dsimp only
      | split

theorem sendExchange_good {q₀ : List Instr} {p₀ : Bool} {c₀ : Option Nat} {s : State} {p step n : Nat}
    (h₀ : Good q₀ p₀ c₀ s) :
    Good q₀ p₀ c₀ (sendExchange s p step n) := by
  unfold sendExchange
  try dsimp only
  with_reducible
    repeat' first
      | exact h₀ | assumption | intro _ | apply sendPair_good | apply nextFree_good | dsimp only | split

theorem sendFirst_good {q₀ : List Instr} {p₀ : Bool} {c₀ : Option Nat} {s : State} {p : Nat} (h₀ : Good q₀ p₀ c₀ s) :
    Good q₀ p₀ c₀ (sendFirst s p) := by
  unfold sendFirst
  try dsimp only
  with_reducible
    repeat' first
      | exact h₀ | assumption | intro _ | apply plySendControl_good | apply modPly_good | apply nextFree_good
      | apply atStep_good | dsimp only | split | refine Good.upd ?_

theorem authFail_good {q₀ : List Instr} {p₀ : Bool} {c₀ : Option Nat} {s : State} {p : Nat} (h₀ : Good q₀ p₀ c₀ s) :
    Good q₀ p₀ c₀ (authFail s p) := by
  unfold authFail
  try dsimp only
  with_reducible
    repeat' first
      | exact h₀ | assumption | intro _ | apply plyEvent_good | apply modPly_good | dsimp only | split
      | refine Good.upd ?_

theorem pairMessage_good {q₀ : List Instr} {p₀ : Bool} {c₀ : Option Nat} {s : State} {p step : Nat} {sigOk : Bool}
    {msg : List Byte} (h₀ : Good q₀ p₀ c₀ s) :
    Good q₀ p₀ c₀ (pairMessage s p step sigOk msg) := by
  unfold pairMessage
  try dsimp only
  with_reducible
    repeat' first
      | exact h₀ | assumption | intro _ | apply authFail_good | apply modPly_good | apply atStep_good
      | apply sendExchange_good | apply sendFirst_good | apply Good.ite | refine Good.of_pair (by assumption) ?_
      | dsimp only | split | refine Good.upd ?_

theorem execPair_good {q₀ : List Instr} {p₀ : Bool} {c₀ : Option Nat} {s : State} {p : Fin 2} {h : PlyHdr}
    {step frag frags : Nat} {sigOk : Bool} {payload : List Byte} (h₀ : Good q₀ p₀ c₀ s) :
    GoodX q₀ p₀ c₀ (execPair p h step frag frags sigOk payload s) := by
  unfold execPair
  try dsimp only
  with_reducible
    repeat' first
      | exact h₀ | assumption | intro _ | apply modPly_good | apply bump_good | apply pairMessage_good
      | apply GoodX.next | apply GoodX.ite | apply Good.ite | dsimp only | split | refine Good.upd ?_

theorem startLane_good {q₀ : List Instr} {p₀ : Bool} {c₀ : Option Nat} {s : State} {p : Nat} (h₀ : Good q₀ p₀ c₀ s) :
    Good q₀ p₀ c₀ (startLane s p) := by
  unfold startLane
  try dsimp only
  with_reducible
    repeat' first
      | exact h₀ | assumption | intro _ | apply modPly_good | apply plySend_good | apply Good.ite | dsimp only | split
      | refine Good.upd ?_

theorem goUp_good {q₀ : List Instr} {p₀ : Bool} {c₀ : Option Nat} {s : State} {p : Nat} (h₀ : Good q₀ p₀ c₀ s) :
    Good q₀ p₀ c₀ (goUp s p) := by
  unfold goUp
  try dsimp only
  with_reducible
    repeat' first
      | exact h₀ | assumption | intro _ | apply modPly_good | apply sendMtab_good | apply plyEvent_good | apply startLane_good
      | apply Good.ite | dsimp only | split | refine Good.upd ?_

theorem execKeepalive_good {q₀ : List Instr} {p₀ : Bool} {c₀ : Option Nat} {s : State} {p : Fin 2} {h : PlyHdr}
    (h₀ : Good q₀ p₀ c₀ s) :
    GoodX q₀ p₀ c₀ (execKeepalive p h s) := by
  unfold execKeepalive
  try dsimp only
  with_reducible
    repeat' first
      | exact h₀ | assumption | intro _ | apply plyControlIn_good | apply goUp_good | apply GoodX.next | apply GoodX.ite
      | apply Good.ite_fst | apply Good.ite | refine Good.of_pair (by assumption) ?_ | dsimp only | split

theorem execPlyPhyTrained_good {q₀ : List Instr} {p₀ : Bool} {c₀ : Option Nat} {s : State} {p : Fin 2}
    {width : Nat} (h₀ : Good q₀ p₀ c₀ s) :
    GoodX q₀ p₀ c₀ (execPlyPhyTrained p width s) := by
  unfold execPlyPhyTrained
  try dsimp only
  with_reducible
    repeat' first
      | exact h₀ | assumption | intro _ | apply sendHello_good | apply modPly_good | apply GoodX.next
      | apply GoodX.ite | apply Good.ite | dsimp only | split | refine Good.upd ?_

theorem execPairingStepTimeout_good {q₀ : List Instr} {p₀ : Bool} {c₀ : Option Nat} {s : State} {p : Fin 2}
    (h₀ : Good q₀ p₀ c₀ s) :
    GoodX q₀ p₀ c₀ (execPairingStepTimeout p s) := by
  unfold execPairingStepTimeout
  try dsimp only
  with_reducible
    repeat' first
      | exact h₀ | assumption | intro _ | apply advanceTo_good | apply sendHello_good | apply modPly_good
      | apply GoodX.next | apply GoodX.ite | apply Good.ite | dsimp only | split | refine Good.upd ?_

theorem execAuthFailRetry_good {q₀ : List Instr} {p₀ : Bool} {c₀ : Option Nat} {s : State} {p : Fin 2}
    (h₀ : Good q₀ p₀ c₀ s) :
    GoodX q₀ p₀ c₀ (execAuthFailRetry p s) := by
  unfold execAuthFailRetry
  try dsimp only
  with_reducible
    repeat' first
      | exact h₀ | assumption | intro _ | apply authFail_good | apply advanceTo_good | apply modPly_good
      | apply GoodX.next | apply GoodX.ite | apply Good.ite | dsimp only | split | refine Good.upd ?_

theorem execReplayTimerExpiry_good {q₀ : List Instr} {p₀ : Bool} {c₀ : Option Nat} {s : State} {p : Fin 2}
    (h₀ : Good q₀ p₀ c₀ s) :
    GoodX q₀ p₀ c₀ (execReplayTimerExpiry p s) := by
  unfold execReplayTimerExpiry
  try dsimp only
  with_reducible
    repeat' first
      | exact h₀ | assumption | intro _ | apply plyReplay_good | apply advanceTo_good | apply GoodX.next
      | apply GoodX.ite | apply Good.ite | refine Good.of_pair (by assumption) ?_ | dsimp only | split

theorem execAckTimer_good {q₀ : List Instr} {p₀ : Bool} {c₀ : Option Nat} {s : State} {p : Fin 2}
    (h₀ : Good q₀ p₀ c₀ s) :
    GoodX q₀ p₀ c₀ (execAckTimer p s) := by
  unfold execAckTimer
  try dsimp only
  with_reducible
    repeat' first
      | exact h₀ | assumption | intro _ | apply plyAckNow_good | apply advanceTo_good | apply GoodX.next
      | apply GoodX.ite | apply Good.ite | refine Good.of_pair (by assumption) ?_ | dsimp only | split

theorem execKeepaliveTimer_good {q₀ : List Instr} {p₀ : Bool} {c₀ : Option Nat} {s : State} {p : Fin 2}
    (h₀ : Good q₀ p₀ c₀ s) :
    GoodX q₀ p₀ c₀ (execKeepaliveTimer p s) := by
  unfold execKeepaliveTimer
  try dsimp only
  with_reducible
    repeat' first
      | exact h₀ | assumption | intro _ | apply plySendControl_good | apply advanceTo_good | apply GoodX.next
      | apply GoodX.ite | apply Good.ite | dsimp only | split

theorem execPlyRxTimeout_good {q₀ : List Instr} {p₀ : Bool} {c₀ : Option Nat} {s : State} {p : Fin 2}
    (h₀ : Good q₀ p₀ c₀ s) :
    GoodX q₀ p₀ c₀ (execPlyRxTimeout p s) := by
  unfold execPlyRxTimeout
  try dsimp only
  with_reducible
    repeat' first
      | exact h₀ | assumption | intro _ | apply plyDown_good | apply advanceTo_good | apply GoodX.next
      | apply GoodX.ite | apply Good.ite | dsimp only | split

theorem execPlyPhyDown_good {q₀ : List Instr} {p₀ : Bool} {c₀ : Option Nat} {s : State} {p : Fin 2}
    (h₀ : Good q₀ p₀ c₀ s) :
    GoodX q₀ p₀ c₀ (execPlyPhyDown p s) := by
  unfold execPlyPhyDown
  try dsimp only
  with_reducible
    repeat' first
      | exact h₀ | assumption | intro _ | apply plyDown_good | apply GoodX.next | apply GoodX.ite | apply Good.ite
      | dsimp only | split

theorem execPlyLaneFail_good {q₀ : List Instr} {p₀ : Bool} {c₀ : Option Nat} {s : State} {p : Fin 2}
    (h₀ : Good q₀ p₀ c₀ s) :
    GoodX q₀ p₀ c₀ (execPlyLaneFail p s) := by
  unfold execPlyLaneFail
  try dsimp only
  with_reducible
    repeat' first
      | exact h₀ | assumption | intro _ | apply plyDown_good | apply GoodX.next | apply GoodX.ite | apply Good.ite
      | dsimp only | split

theorem execLaneWidthChange_good {q₀ : List Instr} {p₀ : Bool} {c₀ : Option Nat} {s : State} {by_ : Agent}
    {p : Fin 2} {width : Nat} (h₀ : Good q₀ p₀ c₀ s) :
    GoodX q₀ p₀ c₀ (execLaneWidthChange by_ p width s) := by
  unfold execLaneWidthChange
  try dsimp only
  with_reducible
    repeat' first
      | exact h₀ | assumption | intro _ | apply access_good | apply startLane_good | apply setReg_good
      | apply GoodX.next | dsimp only | split

theorem execLaneset_good {q₀ : List Instr} {p₀ : Bool} {c₀ : Option Nat} {s : State} {p : Fin 2} {h : PlyHdr}
    {eff : BitVec 16} {width : Nat} (h₀ : Good q₀ p₀ c₀ s) :
    GoodX q₀ p₀ c₀ (execLaneset p h eff width s) := by
  unfold execLaneset
  try dsimp only
  with_reducible
    repeat' first
      | exact h₀ | assumption | intro _ | apply plySeqIn_good | apply modPly_good | apply bump_good
      | apply plySend_good | apply GoodX.next | apply GoodX.ite | apply Good.ite | dsimp only | split
      | refine Good.upd ?_

theorem execLanesetAck_good {q₀ : List Instr} {p₀ : Bool} {c₀ : Option Nat} {s : State} {p : Fin 2} {h : PlyHdr}
    {eff : BitVec 16} (h₀ : Good q₀ p₀ c₀ s) :
    GoodX q₀ p₀ c₀ (execLanesetAck p h eff s) := by
  unfold execLanesetAck
  try dsimp only
  with_reducible
    repeat' first
      | exact h₀ | assumption | intro _ | apply plySeqIn_good | apply startLane_good | apply plyDrain_good
      | apply modPly_good | apply GoodX.next | apply GoodX.ite | apply Good.ite
      | refine Good.of_pair (by assumption) ?_ | dsimp only | split | refine Good.upd ?_

theorem execMbox_good {q₀ : List Instr} {p₀ : Bool} {c₀ : Option Nat} {s : State} {p : Fin 2} {h : PlyHdr}
    {words : List Word} (h₀ : Good q₀ p₀ c₀ s) :
    GoodX q₀ p₀ c₀ (execMbox p h words s) := by
  unfold execMbox
  try dsimp only
  with_reducible
    repeat' first
      | exact h₀ | assumption | intro _ | apply plySeqIn_good | apply boxPush_good | apply GoodX.next | dsimp only
      | split

theorem execPread_good {q₀ : List Instr} {p₀ : Bool} {c₀ : Option Nat} {s : State} {p : Fin 2} {h : PlyHdr}
    {tag : Nat} {request : List Byte} (h₀ : Good q₀ p₀ c₀ s) :
    GoodX q₀ p₀ c₀ (execPread p h tag request s) := by
  unfold execPread
  try dsimp only
  with_reducible
    repeat' first
      | exact h₀ | assumption | intro _ | apply plySeqIn_good | apply plySend_good | apply nextFree_good
      | apply GoodX.next | dsimp only | split

end Sys2Proof.Machine
end

