-- ==== Sys2Proof/Laws/GoodMirror.lean ====
section
/-! SUPPORT. The operations of Machine/Mirror.lean keep the state good (`Good`). -/

set_option linter.unusedTactic false
set_option linter.unreachableTactic false

set_option Elab.async false

namespace Sys2Proof.Machine

open Sys2Proof

theorem dirtyAll_good {q₀ : List Instr} {p₀ : Bool} {c₀ : Option Nat} {s : State} {w : Nat} (h₀ : Good q₀ p₀ c₀ s) :
    Good q₀ p₀ c₀ (dirtyAll s w) := by
  unfold dirtyAll
  try dsimp only
  with_reducible
    repeat' first
      | exact h₀ | assumption | intro _ | apply setDirty_good | apply Good.foldl | dsimp only | split

theorem discardMirror_good {q₀ : List Instr} {p₀ : Bool} {c₀ : Option Nat} {s : State} {w : Nat}
    (h₀ : Good q₀ p₀ c₀ s) :
    Good q₀ p₀ c₀ (discardMirror s w) := by
  unfold discardMirror
  try dsimp only
  with_reducible
    repeat' first
      | exact h₀ | assumption | intro _ | apply modCreel_good | apply Good.foldl | dsimp only | split

theorem sendPeer_good {q₀ : List Instr} {p₀ : Bool} {c₀ : Option Nat} {s : State} {b : PlyBody} (h₀ : Good q₀ p₀ c₀ s) :
    Good q₀ p₀ c₀ (sendPeer s b) := by
  unfold sendPeer
  try dsimp only
  with_reducible
    repeat' first
      | exact h₀ | assumption | intro _ | apply plySend_good | refine Good.of_pair (by assumption) ?_ | dsimp only
      | split

theorem trySync_good {q₀ : List Instr} {p₀ : Bool} {c₀ : Option Nat} {s : State} {w : Nat} (h₀ : Good q₀ p₀ c₀ s) :
    Good q₀ p₀ c₀ (trySync s w) := by
  unfold trySync
  try dsimp only
  with_reducible
    repeat' first
      | exact h₀ | assumption | intro _ | apply sendPeer_good | apply modWin_good | apply nextFree_good
      | apply Good.ite | refine Good.of_pair (by assumption) ?_ | dsimp only | split | refine Good.upd ?_

theorem startResync_good {q₀ : List Instr} {p₀ : Bool} {c₀ : Option Nat} {s : State} {w : Nat} (h₀ : Good q₀ p₀ c₀ s) :
    Good q₀ p₀ c₀ (startResync s w) := by
  unfold startResync
  try dsimp only
  with_reducible
    repeat' first
      | exact h₀ | assumption | intro _ | apply dirtyAll_good | apply sendPeer_good | apply modWin_good
      | apply sendCrec_good | apply trySync_good | apply Good.ite | apply Good.foldl | dsimp only | split
      | refine Good.upd ?_

theorem mirrorEvent_good {q₀ : List Instr} {p₀ : Bool} {c₀ : Option Nat} {s : State} {w sev uncertain : Nat}
    (h₀ : Good q₀ p₀ c₀ s) :
    Good q₀ p₀ c₀ (mirrorEvent s w sev uncertain) := by
  unfold mirrorEvent
  try dsimp only
  with_reducible
    repeat' first
      | exact h₀ | assumption | intro _ | apply logEvFor_good | refine Good.of_pair (by assumption) ?_ | dsimp only
      | split

theorem matchWindow_good {q₀ : List Instr} {p₀ : Bool} {c₀ : Option Nat} {s : State} {w : Nat} (h₀ : Good q₀ p₀ c₀ s) :
    Good q₀ p₀ c₀ (matchWindow s w) := by
  unfold matchWindow
  try dsimp only
  with_reducible
    repeat' first
      | exact h₀ | assumption | intro _ | apply modWin_good | apply startResync_good | apply mirrorEvent_good
      | apply degrade_good | apply Good.ite | refine Good.of_pair (by assumption) ?_ | dsimp only | split
      | refine Good.upd ?_

theorem execCtrlMtab_good {q₀ : List Instr} {p₀ : Bool} {c₀ : Option Nat} {s : State} {p : Fin 2} {h : PlyHdr}
    {table : List MtabEntry} (h₀ : Good q₀ p₀ c₀ s) :
    GoodX q₀ p₀ c₀ (execCtrlMtab p h table s) := by
  unfold execCtrlMtab
  try dsimp only
  with_reducible
    repeat' first
      | exact h₀ | assumption | intro _ | apply plySeqIn_good | apply matchWindow_good | apply GoodX.next
      | apply Good.foldl | refine Good.of_pair (by assumption) ?_ | dsimp only | split | refine Good.upd ?_

theorem execCtrlResyncStart_good {q₀ : List Instr} {p₀ : Bool} {c₀ : Option Nat} {s : State} {p : Fin 2}
    {h : PlyHdr} {win : Nat} (h₀ : Good q₀ p₀ c₀ s) :
    GoodX q₀ p₀ c₀ (execCtrlResyncStart p h win s) := by
  unfold execCtrlResyncStart
  try dsimp only
  with_reducible
    repeat' first
      | exact h₀ | assumption | intro _ | apply plySeqIn_good | apply discardMirror_good | apply modWin_good
      | apply GoodX.next | apply GoodX.ite | apply Good.ite | refine Good.of_pair (by assumption) ?_ | dsimp only
      | split | refine Good.upd ?_

theorem execCtrlResyncEnd_good {q₀ : List Instr} {p₀ : Bool} {c₀ : Option Nat} {s : State} {p : Fin 2} {h : PlyHdr}
    {win syncId : Nat} (h₀ : Good q₀ p₀ c₀ s) :
    GoodX q₀ p₀ c₀ (execCtrlResyncEnd p h win syncId s) := by
  unfold execCtrlResyncEnd
  try dsimp only
  with_reducible
    repeat' first
      | exact h₀ | assumption | intro _ | apply plySeqIn_good | apply modWin_good | apply GoodX.next | apply GoodX.ite
      | apply Good.ite | dsimp only | split | refine Good.upd ?_

theorem execCtrlHandover_good {q₀ : List Instr} {p₀ : Bool} {c₀ : Option Nat} {s : State} {p : Fin 2} {h : PlyHdr}
    {win : Nat} (h₀ : Good q₀ p₀ c₀ s) :
    GoodX q₀ p₀ c₀ (execCtrlHandover p h win s) := by
  unfold execCtrlHandover
  try dsimp only
  with_reducible
    repeat' first
      | exact h₀ | assumption | intro _ | apply plySeqIn_good | apply modWin_good | apply GoodX.next | dsimp only
      | split | refine Good.upd ?_

theorem takeInbound_good {q₀ : List Instr} {p₀ : Bool} {c₀ : Option Nat} {s : State} {p : Nat} {h : PlyHdr}
    {b : PlyBody} (h₀ : Good q₀ p₀ c₀ s) :
    Good q₀ p₀ c₀ (takeInbound s p h b) := by
  unfold takeInbound
  try dsimp only
  with_reducible
    repeat' first
      | exact h₀ | assumption | intro _ | apply plySeqIn_good | apply resume_good | dsimp only | split
      | refine Good.upd ?_

theorem execMwr_good {q₀ : List Instr} {p₀ : Bool} {c₀ : Option Nat} {s : State} {p : Fin 2} {h : PlyHdr}
    {w : PlyWrite} (h₀ : Good q₀ p₀ c₀ s) :
    GoodX q₀ p₀ c₀ (execMwr p h w s) := by
  unfold execMwr
  try dsimp only
  with_reducible
    repeat' first
      | exact h₀ | assumption | intro _ | apply takeInbound_good | apply GoodX.next | dsimp only | split

theorem execRsync_good {q₀ : List Instr} {p₀ : Bool} {c₀ : Option Nat} {s : State} {p : Fin 2} {h : PlyHdr}
    {w : PlyWrite} (h₀ : Good q₀ p₀ c₀ s) :
    GoodX q₀ p₀ c₀ (execRsync p h w s) := by
  unfold execRsync
  try dsimp only
  with_reducible
    repeat' first
      | exact h₀ | assumption | intro _ | apply takeInbound_good | apply GoodX.next | dsimp only | split

theorem execMetaRecord_good {q₀ : List Instr} {p₀ : Bool} {c₀ : Option Nat} {s : State} {p : Fin 2} {h : PlyHdr}
    {win kind dla : Nat} (h₀ : Good q₀ p₀ c₀ s) :
    GoodX q₀ p₀ c₀ (execMetaRecord p h win kind dla s) := by
  unfold execMetaRecord
  try dsimp only
  with_reducible
    repeat' first
      | exact h₀ | assumption | intro _ | apply takeInbound_good | apply GoodX.next | dsimp only | split

theorem execKeyset_good {q₀ : List Instr} {p₀ : Bool} {c₀ : Option Nat} {s : State} {p : Fin 2} {h : PlyHdr}
    {win gen : Nat} {keys : List Byte} (h₀ : Good q₀ p₀ c₀ s) :
    GoodX q₀ p₀ c₀ (execKeyset p h win gen keys s) := by
  unfold execKeyset
  try dsimp only
  with_reducible
    repeat' first
      | exact h₀ | assumption | intro _ | apply plySeqIn_good | apply plySend_good | apply modSlot_good | apply degrade_good
      | apply GoodX.next | apply GoodX.ite | apply Good.ite | dsimp only | split | refine Good.upd ?_

theorem execCtrlRekey_good {q₀ : List Instr} {p₀ : Bool} {c₀ : Option Nat} {s : State} {p : Fin 2} {h : PlyHdr}
    {tag win : Nat} (h₀ : Good q₀ p₀ c₀ s) :
    GoodX q₀ p₀ c₀ (execCtrlRekey p h tag win s) := by
  unfold execCtrlRekey
  try dsimp only
  with_reducible
    repeat' first
      | exact h₀ | assumption | intro _ | apply plySeqIn_good | apply startWalk_good | apply plySend_good
      | apply GoodX.next | apply GoodX.ite | apply Good.ite | refine Good.of_pair (by assumption) ?_ | dsimp only
      | split

theorem keysetDone_good {q₀ : List Instr} {p₀ : Bool} {c₀ : Option Nat} {s : State} {w : Nat} (h₀ : Good q₀ p₀ c₀ s) :
    Good q₀ p₀ c₀ (keysetDone s w) := by
  unfold keysetDone
  try dsimp only
  with_reducible
    repeat' first
      | exact h₀ | assumption | intro _ | apply peerReady_good | apply plySend_good | apply modSlot_good
      | apply Good.ite | refine Good.of_pair (by assumption) ?_ | dsimp only | split | refine Good.upd ?_

theorem keysetFailed_good {q₀ : List Instr} {p₀ : Bool} {c₀ : Option Nat} {s : State} {w : Nat} (h₀ : Good q₀ p₀ c₀ s) :
    Good q₀ p₀ c₀ (keysetFailed s w) := by
  unfold keysetFailed
  try dsimp only
  with_reducible
    repeat' first
      | exact h₀ | assumption | intro _ | apply peerReady_good | apply degrade_good | apply modSlot_good | dsimp only
      | split | refine Good.upd ?_

theorem fwdAcked_good {q₀ : List Instr} {p₀ : Bool} {c₀ : Option Nat} {s : State} {f : Fwd} {status : Nat}
    (h₀ : Good q₀ p₀ c₀ s) :
    Good q₀ p₀ c₀ (fwdAcked s f status) := by
  unfold fwdAcked
  try dsimp only
  with_reducible
    repeat' first
      | exact h₀ | assumption | intro _ | apply degrade_good | apply setDirty_good | apply passLine_good
      | apply endNdr_good | apply Good.ite | refine Good.of_pair (by assumption) ?_ | dsimp only | split
      | refine Good.upd ?_

theorem opAcked_good {q₀ : List Instr} {p₀ : Bool} {c₀ : Option Nat} {s : State} {o : PeerOp} {status : Nat}
    (h₀ : Good q₀ p₀ c₀ s) :
    Good q₀ p₀ c₀ (opAcked s o status) := by
  unfold opAcked
  try dsimp only
  with_reducible
    repeat' first
      | exact h₀ | assumption | intro _ | apply keysetDone_good | apply keysetFailed_good | apply degrade_good
      | apply setDirty_good | apply metaAcked_good | apply metaDone_good | apply Good.ite
      | refine Good.of_pair (by assumption) ?_ | dsimp only | split

theorem execMack_good {q₀ : List Instr} {p₀ : Bool} {c₀ : Option Nat} {s : State} {p : Fin 2} {h : PlyHdr}
    {seq : BitVec 16} {status : Nat} (h₀ : Good q₀ p₀ c₀ s) :
    GoodX q₀ p₀ c₀ (execMack p h seq status s) := by
  unfold execMack
  try dsimp only
  with_reducible
    repeat' first
      | exact h₀ | assumption | intro _ | apply plySeqIn_good | apply resume_good | apply fwdAcked_good
      | apply opAcked_good | apply GoodX.next | refine Good.of_pair (by assumption) ?_ | dsimp only | split
      | refine Good.upd ?_

theorem execCtrlLedger_good {q₀ : List Instr} {p₀ : Bool} {c₀ : Option Nat} {s : State} {p : Fin 2} {h : PlyHdr}
    {tag win : Nat} {exts : List Extent} (h₀ : Good q₀ p₀ c₀ s) :
    GoodX q₀ p₀ c₀ (execCtrlLedger p h tag win exts s) := by
  unfold execCtrlLedger
  try dsimp only
  with_reducible
    repeat' first
      | exact h₀ | assumption | intro _ | apply plySeqIn_good | apply plySend_good | apply numberExts_good
      | apply ledgerPut_good | apply ledgerRefuse_good | apply GoodX.next | apply GoodX.ite | apply Good.ite
      | refine Good.of_pair (by assumption) ?_ | dsimp only | split

theorem execPrsp_good {q₀ : List Instr} {p₀ : Bool} {c₀ : Option Nat} {s : State} {p : Fin 2} {h : PlyHdr}
    {tag status : Nat} (h₀ : Good q₀ p₀ c₀ s) :
    GoodX q₀ p₀ c₀ (execPrsp p h tag status s) := by
  unfold execPrsp
  try dsimp only
  with_reducible
    repeat' first
      | exact h₀ | assumption | intro _ | apply plySeqIn_good | apply dcAnswer_good | apply addAccepted_good
      | apply freeBlocks_good | apply peerWalkEnded_good | apply GoodX.next | apply GoodX.ite | apply Good.ite
      | refine Good.of_pair (by assumption) ?_ | dsimp only | split | refine Good.upd ?_

theorem execCrec_good {q₀ : List Instr} {p₀ : Bool} {c₀ : Option Nat} {s : State} {p : Fin 2} {h : PlyHdr}
    {_batch : Nat} {recs : List CrecRec} (h₀ : Good q₀ p₀ c₀ s) :
    GoodX q₀ p₀ c₀ (execCrec p h _batch recs s) := by
  unfold execCrec
  try dsimp only
  with_reducible
    repeat' first
      | exact h₀ | assumption | intro _ | apply plySeqIn_good | apply modPly_good | apply GoodX.next | dsimp only
      | split | refine Good.upd ?_

theorem markUnsure_good {q₀ : List Instr} {p₀ : Bool} {c₀ : Option Nat} {s : State} {line : Nat}
    (h₀ : Good q₀ p₀ c₀ s) :
    Good q₀ p₀ c₀ (markUnsure s line) := by
  unfold markUnsure
  try dsimp only
  with_reducible
    repeat' first
      | exact h₀ | assumption | intro _ | apply bump_good | apply modSlice_good | dsimp only | split
      | refine Good.upd ?_

theorem commitRec_good {q₀ : List Instr} {p₀ : Bool} {c₀ : Option Nat} {s : State} {r : CrecRec}
    (h₀ : Good q₀ p₀ c₀ s) :
    Good q₀ p₀ c₀ (commitRec s r) := by
  unfold commitRec
  try dsimp only
  with_reducible
    repeat' first
      | exact h₀ | assumption | intro _ | apply modCreel_good | apply markUnsure_good | apply Good.ite
      | refine Good.of_pair (by assumption) ?_ | dsimp only | split

theorem execBatchEnd_good {q₀ : List Instr} {p₀ : Bool} {c₀ : Option Nat} {s : State} {p : Fin 2} {h : PlyHdr}
    {batch : Nat} (h₀ : Good q₀ p₀ c₀ s) :
    GoodX q₀ p₀ c₀ (execBatchEnd p h batch s) := by
  unfold execBatchEnd
  try dsimp only
  with_reducible
    repeat' first
      | exact h₀ | assumption | intro _ | apply plySeqIn_good | apply commitRec_good | apply plySend_good
      | apply GoodX.next | apply Good.foldl | dsimp only | split | refine Good.upd ?_

theorem execBatchAck_good {q₀ : List Instr} {p₀ : Bool} {c₀ : Option Nat} {s : State} {p : Fin 2} {h : PlyHdr}
    {batch : Nat} (h₀ : Good q₀ p₀ c₀ s) :
    GoodX q₀ p₀ c₀ (execBatchAck p h batch s) := by
  unfold execBatchAck
  try dsimp only
  with_reducible
    repeat' first
      | exact h₀ | assumption | intro _ | apply plySeqIn_good | apply trySync_good | apply GoodX.next
      | apply Good.foldl | dsimp only | split | refine Good.upd ?_

theorem execCrlBatchTimer_good {q₀ : List Instr} {p₀ : Bool} {c₀ : Option Nat} {s : State}  (h₀ : Good q₀ p₀ c₀ s) :
    GoodX q₀ p₀ c₀ (execCrlBatchTimer s) := by
  unfold execCrlBatchTimer
  try dsimp only
  with_reducible
    repeat' first
      | exact h₀ | assumption | intro _ | apply advanceTo_good | apply sendPeer_good | apply GoodX.next
      | apply GoodX.ite | apply Good.ite | dsimp only | split | refine Good.upd ?_

theorem execLagLimit_good {q₀ : List Instr} {p₀ : Bool} {c₀ : Option Nat} {s : State} {win : Fin 4096}
    (h₀ : Good q₀ p₀ c₀ s) :
    GoodX q₀ p₀ c₀ (execLagLimit win s) := by
  unfold execLagLimit
  try dsimp only
  with_reducible
    repeat' first
      | exact h₀ | assumption | intro _ | apply resume_good | apply degrade_good | apply advanceTo_good
      | apply GoodX.next | apply GoodX.ite | apply Good.ite | refine Good.of_pair (by assumption) ?_ | dsimp only
      | split

theorem resnoop_good {q₀ : List Instr} {p₀ : Bool} {c₀ : Option Nat} {s : State} {w line : Nat}
    {seats aliases : List Nat} (h₀ : Good q₀ p₀ c₀ s) :
    Good q₀ p₀ c₀ (resnoop s w line seats aliases) := by
  unfold resnoop
  try dsimp only
  with_reducible
    repeat' first
      | exact h₀ | assumption | intro _ | apply modCreel_good | apply startSnoops_good | apply Good.ite
      | refine Good.of_pair (by assumption) ?_ | dsimp only | split | refine Good.upd ?_

theorem rebuildStaged_good {q₀ : List Instr} {p₀ : Bool} {c₀ : Option Nat} {s : State}  (h₀ : Good q₀ p₀ c₀ s) :
    Good q₀ p₀ c₀ (rebuildStaged s) := by
  unfold rebuildStaged
  try dsimp only
  with_reducible
    repeat' first
      | exact h₀ | assumption | intro _ | apply resnoop_good | apply Good.ite | apply Good.foldl
      | refine Good.of_pair (by assumption) ?_ | dsimp only | split

theorem rebuildSweep_good {q₀ : List Instr} {p₀ : Bool} {c₀ : Option Nat} {s : State} {w : Nat} {shared : Bool}
    (h₀ : Good q₀ p₀ c₀ s) :
    Good q₀ p₀ c₀ (rebuildSweep w shared s) := by
  unfold rebuildSweep
  try dsimp only
  with_reducible
    repeat' first
      | exact h₀ | assumption | intro _ | apply resnoop_good | apply Good.ite | apply Good.foldl | dsimp only | split

theorem adoptMirror_good {q₀ : List Instr} {p₀ : Bool} {c₀ : Option Nat} {s : State} {w : Nat} (h₀ : Good q₀ p₀ c₀ s) :
    Good q₀ p₀ c₀ (adoptMirror s w) := by
  unfold adoptMirror
  try dsimp only
  with_reducible
    repeat' first
      | exact h₀ | assumption | intro _ | apply modCreel_good | apply Good.foldl | dsimp only | split
      | refine Good.upd ?_

theorem allUnsure_good {q₀ : List Instr} {p₀ : Bool} {c₀ : Option Nat} {s : State}  (h₀ : Good q₀ p₀ c₀ s) :
    Good q₀ p₀ c₀ (allUnsure s) := by
  unfold allUnsure
  try dsimp only
  with_reducible
    repeat' first
      | exact h₀ | assumption | intro _ | apply modSlice_good | apply Good.foldl | dsimp only | split
      | refine Good.upd ?_

theorem promote_good {q₀ : List Instr} {p₀ : Bool} {c₀ : Option Nat} {s : State} {ws : List Nat}
    (h₀ : Good q₀ p₀ c₀ s) :
    Good q₀ p₀ c₀ (promote s ws) := by
  unfold promote
  try dsimp only
  with_reducible
    repeat' first
      | exact h₀ | assumption | intro _ | apply modWin_good | apply rebuildStaged_good | apply adoptMirror_good
      | apply rebuildSweep_good | apply allUnsure_good | apply Good.ite | apply Good.foldl
      | refine Good.of_pair (by assumption) ?_ | dsimp only | split | refine Good.upd ?_

theorem promoteAnswer_good {q₀ : List Instr} {p₀ : Bool} {c₀ : Option Nat} {s : State} {src : Cci} {r : Ret}
    {body : Contents} (h₀ : Good q₀ p₀ c₀ s) :
    Good q₀ p₀ c₀ (promoteAnswer s src r body) := by
  unfold promoteAnswer
  try dsimp only
  with_reducible
    repeat' first
      | exact h₀ | assumption | intro _ | apply emit_good | dsimp only | split

theorem execPlyPromote_good {q₀ : List Instr} {p₀ : Bool} {c₀ : Option Nat} {s : State} {src : Cci} {win : Nat}
    (h₀ : Good q₀ p₀ c₀ s) :
    GoodX q₀ p₀ c₀ (execPlyPromote src win s) := by
  unfold execPlyPromote
  try dsimp only
  with_reducible
    repeat' first
      | exact h₀ | assumption | intro _ | apply holdFor_good | apply cciAnswer_good | apply promoteAnswer_good
      | apply resume_good | apply promote_good | apply GoodX.next | apply GoodX.ite | apply Good.ite
      | refine Good.of_pair (by assumption) ?_ | dsimp only | split

theorem execCreelRebuildComplete_good {q₀ : List Instr} {p₀ : Bool} {c₀ : Option Nat} {s : State} 
    (h₀ : Good q₀ p₀ c₀ s) :
    GoodX q₀ p₀ c₀ (execCreelRebuildComplete s) := by
  unfold execCreelRebuildComplete
  try dsimp only
  with_reducible
    repeat' first
      | exact h₀ | assumption | intro _ | apply resume_good | apply mirrorEvent_good | apply GoodX.next
      | apply GoodX.ite | apply Good.ite | refine Good.of_pair (by assumption) ?_ | dsimp only | split
      | refine Good.upd ?_

theorem sendRsync_good {q₀ : List Instr} {p₀ : Bool} {c₀ : Option Nat} {s : State} {w off dlaLine : Nat}
    {d : Option (List Byte)} (h₀ : Good q₀ p₀ c₀ s) :
    Good q₀ p₀ c₀ (sendRsync s w off dlaLine d) := by
  unfold sendRsync
  try dsimp only
  with_reducible
    repeat' first
      | exact h₀ | assumption | intro _ | apply plySend_good | apply setDirty_good
      | refine Good.of_pair (by assumption) ?_ | dsimp only | split | refine Good.upd ?_

theorem sendLines_good {q₀ : List Instr} {p₀ : Bool} {c₀ : Option Nat} {s : State} {w off a1 : Nat} {a2 : List (Option (List Byte))} (h₀ : Good q₀ p₀ c₀ s) :
    Good q₀ p₀ c₀ (sendLines w off s a1 a2) := by
  induction a2 generalizing w off s a1 with
  | nil =>
    unfold sendLines
    try dsimp only
    with_reducible
      repeat' first
        | exact h₀ | assumption | intro _ | apply ih | apply sendRsync_good | dsimp only | split
  | cons x l ih =>
    unfold sendLines
    try dsimp only
    with_reducible
      repeat' first
        | exact h₀ | assumption | intro _ | apply ih | apply sendRsync_good | dsimp only | split

theorem sendUnmapped_good {q₀ : List Instr} {p₀ : Bool} {c₀ : Option Nat} {s : State} {w kind dla : Nat}
    (h₀ : Good q₀ p₀ c₀ s) :
    Good q₀ p₀ c₀ (sendUnmapped s w kind dla) := by
  unfold sendUnmapped
  try dsimp only
  with_reducible
    repeat' first
      | exact h₀ | assumption | intro _ | apply plySend_good | apply setDirty_good
      | refine Good.of_pair (by assumption) ?_ | dsimp only | split | refine Good.upd ?_

theorem copyPage_good {q₀ : List Instr} {p₀ : Bool} {c₀ : Option Nat} {s : State} {w off pg : Nat}
    {noise : List (List Byte)} (h₀ : Good q₀ p₀ c₀ s) :
    Good q₀ p₀ c₀ (copyPage s w off pg noise).1 := by
  unfold copyPage
  try dsimp only
  with_reducible
    repeat' first
      | exact h₀ | assumption | intro _ | apply sendUnmapped_good | apply readUnit_good | apply sendLines_good
      | apply decodePage_good | apply Good.ite_fst | apply Good.ite | refine Good.of_pair (by assumption) ?_
      | dsimp only | split

theorem copyPages_good {q₀ : List Instr} {p₀ : Bool} {c₀ : Option Nat} {s : State} {w off a0 a2 : Nat} {a3 : List (List Byte)} (h₀ : Good q₀ p₀ c₀ s) :
    Good q₀ p₀ c₀ (copyPages w off a0 s a2 a3) := by
  induction a0 generalizing w off s a2 a3 with
  | zero =>
    unfold copyPages
    try dsimp only
    with_reducible
      repeat' first
        | exact h₀ | assumption | intro _ | apply ih | apply copyPage_good | refine Good.of_pair (by assumption) ?_
        | dsimp only | split
  | succ n ih =>
    unfold copyPages
    try dsimp only
    with_reducible
      repeat' first
        | exact h₀ | assumption | intro _ | apply ih | apply copyPage_good | refine Good.of_pair (by assumption) ?_
        | dsimp only | split

theorem execResyncHankCopy_good {q₀ : List Instr} {p₀ : Bool} {c₀ : Option Nat} {s : State} {win : Fin 4096}
    {hank : Nat} {noise : List (List Byte)} (h₀ : Good q₀ p₀ c₀ s) :
    GoodX q₀ p₀ c₀ (execResyncHankCopy win hank noise s) := by
  unfold execResyncHankCopy
  try dsimp only
  with_reducible
    repeat' first
      | exact h₀ | assumption | intro _ | apply startResync_good | apply trySync_good | apply runUnit_good
      | apply putHank_good | apply sendUnmapped_good | apply countSteps_good | apply copyPages_good | apply GoodX.next
      | apply GoodX.ite | apply Good.ite | dsimp only | split | refine Good.upd ?_

theorem changeMirror_good {q₀ : List Instr} {p₀ : Bool} {c₀ : Option Nat} {s : State} {w mirror : Nat}
    {secondary first : Bool} (h₀ : Good q₀ p₀ c₀ s) :
    Good q₀ p₀ c₀ (changeMirror s w mirror secondary first) := by
  unfold changeMirror
  try dsimp only
  with_reducible
    repeat' first
      | exact h₀ | assumption | intro _ | apply modWin_good | apply discardMirror_good | apply dirtyAll_good
      | apply purgeRange_good | apply Good.ite | dsimp only | split | refine Good.upd ?_

end Sys2Proof.Machine
end

