-- ==== Sys2Proof/Laws/GoodWarpCheck.lean ====
section
/-! SUPPORT. The operations of Machine/WarpCheck.lean keep the state good (`Good`). -/

set_option linter.unusedTactic false
set_option linter.unreachableTactic false

set_option Elab.async false

namespace Sys2Proof.Machine

open Sys2Proof

theorem confTables_good {q₀ : List Instr} {p₀ : Bool} {c₀ : Option Nat} {s : State} {c : Sections}
    (h₀ : Good q₀ p₀ c₀ s) :
    Good q₀ p₀ c₀ (confTables s c) := by
  unfold confTables
  try dsimp only
  with_reducible
    repeat' first
      | exact h₀ | assumption | intro _ | apply modSeat_good | apply modGroup_good | apply modWin_good
      | apply Good.foldl | apply Good.foldl_fst | dsimp only | split | refine Good.updAll ?_ | refine Good.upd ?_

end Sys2Proof.Machine
end

