-- ==== Sys2Proof/Laws/GoodWarpImage.lean ====
section
/-! SUPPORT. The operations of Machine/WarpImage.lean keep the state good (`Good`). -/

set_option linter.unusedTactic false
set_option linter.unreachableTactic false

set_option Elab.async false

namespace Sys2Proof.Machine

open Sys2Proof

theorem imgEvent_good {q₀ : List Instr} {p₀ : Bool} {c₀ : Option Nat} {s : State} {result detail sev : Nat}
    {b : List Byte} (h₀ : Good q₀ p₀ c₀ s) :
    Good q₀ p₀ c₀ (imgEvent s result detail sev b) := by
  unfold imgEvent
  try dsimp only
  with_reducible
    repeat' first
      | exact h₀ | assumption | intro _ | apply logEv_good | dsimp only | split

theorem imgAnswer_good {q₀ : List Instr} {p₀ : Bool} {c₀ : Option Nat} {s : State} {src : ImgFrom} {result : Nat}
    (h₀ : Good q₀ p₀ c₀ s) :
    Good q₀ p₀ c₀ (imgAnswer s src result) := by
  unfold imgAnswer
  try dsimp only
  with_reducible
    repeat' first
      | exact h₀ | assumption | intro _ | apply emit_good | apply modMbx_good | refine Good.of_pair (by assumption) ?_
      | dsimp only | split | refine Good.upd ?_

theorem imgRefuse_good {q₀ : List Instr} {p₀ : Bool} {c₀ : Option Nat} {s : State} {src : ImgFrom} {b : List Byte}
    {result detail refuse : Nat} (h₀ : Good q₀ p₀ c₀ s) :
    Good q₀ p₀ c₀ (imgRefuse s src b result detail refuse) := by
  unfold imgRefuse
  try dsimp only
  with_reducible
    repeat' first
      | exact h₀ | assumption | intro _ | apply ledgerRefuse_good | apply imgAnswer_good | apply imgEvent_good
      | apply Good.ite | dsimp only | split | refine Good.upd ?_

theorem putSeat_good {q₀ : List Instr} {p₀ : Bool} {c₀ : Option Nat} {s : State} {n : Nat} {x : Seat}
    (h₀ : Good q₀ p₀ c₀ s) :
    Good q₀ p₀ c₀ (putSeat s n x) := by
  unfold putSeat
  try dsimp only
  with_reducible
    repeat' first
      | exact h₀ | assumption | intro _ | apply modSeat_good | apply Good.ite | dsimp only | split
      | refine Good.upd ?_

theorem putGroups_good {q₀ : List Instr} {p₀ : Bool} {c₀ : Option Nat} {s : State} {c : Sections}
    (h₀ : Good q₀ p₀ c₀ s) :
    Good q₀ p₀ c₀ (putGroups s c) := by
  unfold putGroups
  try dsimp only
  with_reducible
    repeat' first
      | exact h₀ | assumption | intro _ | apply modGroup_good | apply Good.foldl | dsimp only | split

theorem createWin_good {q₀ : List Instr} {p₀ : Bool} {c₀ : Option Nat} {s : State} {w slot : Nat} {x : Win}
    (h₀ : Good q₀ p₀ c₀ s) :
    Good q₀ p₀ c₀ (createWin s w slot x) := by
  unfold createWin
  try dsimp only
  with_reducible
    repeat' first
      | exact h₀ | assumption | intro _ | apply modWin_good | apply changeMirror_good | apply Good.ite | dsimp only
      | split

theorem bindPeer_good {q₀ : List Instr} {p₀ : Bool} {c₀ : Option Nat} {s : State} {w : Nat} (h₀ : Good q₀ p₀ c₀ s) :
    Good q₀ p₀ c₀ (bindPeer s w) := by
  unfold bindPeer
  try dsimp only
  with_reducible
    repeat' first
      | exact h₀ | assumption | intro _ | apply modWin_good | apply plySend_good | apply Good.ite
      | refine Good.of_pair (by assumption) ?_ | dsimp only | split | refine Good.upd ?_

theorem winOnline_good {q₀ : List Instr} {p₀ : Bool} {c₀ : Option Nat} {s : State} {w : Nat} (h₀ : Good q₀ p₀ c₀ s) :
    Good q₀ p₀ c₀ (winOnline s w) := by
  unfold winOnline
  try dsimp only
  with_reducible
    repeat' first
      | exact h₀ | assumption | intro _ | apply modWin_good | apply Good.ite | dsimp only | split | refine Good.upd ?_

theorem bindSlot_good {q₀ : List Instr} {p₀ : Bool} {c₀ : Option Nat} {s : State} {a : Nat × Nat × Nat}
    (h₀ : Good q₀ p₀ c₀ s) :
    Good q₀ p₀ c₀ (bindSlot s a) := by
  unfold bindSlot
  try dsimp only
  with_reducible
    repeat' first
      | exact h₀ | assumption | intro _ | apply modSlot_good | dsimp only | split

theorem drawPlan_good {q₀ : List Instr} {p₀ : Bool} {c₀ : Option Nat} {s : State} {a0 : List (Nat × Nat)} (h₀ : Good q₀ p₀ c₀ s) :
    Good q₀ p₀ c₀ (drawPlan a0 s).1 := by
  induction a0 generalizing s with
  | nil =>
    unfold drawPlan
    try dsimp only
    with_reducible
      repeat' first
        | exact h₀ | assumption | intro _ | apply ih | apply drawKey_good | refine Good.of_pair (by assumption) ?_
        | dsimp only | split
  | cons x l ih =>
    unfold drawPlan
    try dsimp only
    with_reducible
      repeat' first
        | exact h₀ | assumption | intro _ | apply ih | apply drawKey_good | refine Good.of_pair (by assumption) ?_
        | dsimp only | split

theorem putPower_good {q₀ : List Instr} {p₀ : Bool} {c₀ : Option Nat} {s : State} {c : Sections}
    (h₀ : Good q₀ p₀ c₀ s) :
    Good q₀ p₀ c₀ (putPower s c) := by
  unfold putPower
  try dsimp only
  with_reducible
    repeat' first
      | exact h₀ | assumption | intro _ | apply modDom_good | apply askWake_good | apply Good.ite | apply Good.foldl
      | dsimp only | split | refine Good.upd ?_

theorem putRings_good {q₀ : List Instr} {p₀ : Bool} {c₀ : Option Nat} {s : State} {c : Sections}
    (h₀ : Good q₀ p₀ c₀ s) :
    Good q₀ p₀ c₀ (putRings s c) := by
  unfold putRings
  try dsimp only
  with_reducible
    repeat' first
      | exact h₀ | assumption | intro _ | apply modRing_good | apply Good.ite | apply Good.foldl | dsimp only | split
      | refine Good.upd ?_

theorem putMicrocode_good {q₀ : List Instr} {p₀ : Bool} {c₀ : Option Nat} {s : State} {c : Sections}
    (h₀ : Good q₀ p₀ c₀ s) :
    Good q₀ p₀ c₀ (putMicrocode s c) := by
  unfold putMicrocode
  try dsimp only
  with_reducible
    repeat' first
      | exact h₀ | assumption | intro _ | apply modSpn_good | apply Good.foldl | dsimp only | split
      | refine Good.upd ?_

theorem putSpindles_good {q₀ : List Instr} {p₀ : Bool} {c₀ : Option Nat} {s : State} {c : Sections}
    (h₀ : Good q₀ p₀ c₀ s) :
    Good q₀ p₀ c₀ (putSpindles s c) := by
  unfold putSpindles
  try dsimp only
  with_reducible
    repeat' first
      | exact h₀ | assumption | intro _ | apply settleSpn_good | apply modSpn_good | apply Good.ite | apply Good.foldl
      | dsimp only | split | refine Good.upd ?_

theorem putAdminBox_good {q₀ : List Instr} {p₀ : Bool} {c₀ : Option Nat} {s : State}  (h₀ : Good q₀ p₀ c₀ s) :
    Good q₀ p₀ c₀ (putAdminBox s) := by
  unfold putAdminBox
  try dsimp only
  with_reducible
    repeat' first
      | exact h₀ | assumption | intro _ | apply modMbx_good | refine Good.of_pair (by assumption) ?_ | dsimp only
      | split | refine Good.upd ?_

theorem rwlReset_good {q₀ : List Instr} {p₀ : Bool} {c₀ : Option Nat} {s : State}  (h₀ : Good q₀ p₀ c₀ s) :
    Good q₀ p₀ c₀ (rwlReset s) := by
  unfold rwlReset
  try dsimp only
  with_reducible
    repeat' first
      | exact h₀ | assumption | intro _ | apply setReg_good | apply Good.ite | apply Good.foldl | apply Good.foldl_fst
      | dsimp only | split

theorem clearConfig_good {q₀ : List Instr} {p₀ : Bool} {c₀ : Option Nat} {s : State}  (h₀ : Good q₀ p₀ c₀ s) :
    Good q₀ p₀ c₀ (clearConfig s) := by
  unfold clearConfig
  try dsimp only
  with_reducible
    repeat' first
      | exact h₀ | assumption | intro _ | apply rwlReset_good | apply dropWindow_good | apply Good.foldl
      | apply Good.foldl_fst | dsimp only | split | refine Good.updAll ?_ | refine Good.upd ?_

theorem applyInterleave_good {q₀ : List Instr} {p₀ : Bool} {c₀ : Option Nat} {s : State} {c : Sections}
    (h₀ : Good q₀ p₀ c₀ s) :
    Good q₀ p₀ c₀ (applyInterleave s c) := by
  unfold applyInterleave
  try dsimp only
  with_reducible
    repeat' first
      | exact h₀ | assumption | intro _ | apply modCh_good | apply setReg_good | apply Good.ite | apply Good.foldl
      | apply Good.foldl_fst | refine Good.of_pair (by assumption) ?_ | dsimp only | split | refine Good.upd ?_

theorem applyPly_good {q₀ : List Instr} {p₀ : Bool} {c₀ : Option Nat} {s : State} {c : Sections}
    (h₀ : Good q₀ p₀ c₀ s) :
    Good q₀ p₀ c₀ (applyPly s c) := by
  unfold applyPly
  try dsimp only
  with_reducible
    repeat' first
      | exact h₀ | assumption | intro _ | apply modPly_good | apply Good.ite | apply Good.foldl | dsimp only | split

theorem applyLoad_good {q₀ : List Instr} {p₀ : Bool} {c₀ : Option Nat} {s : State} {b : List Byte}
    (h₀ : Good q₀ p₀ c₀ s) :
    Good q₀ p₀ c₀ (applyLoad s b) := by
  unfold applyLoad
  try dsimp only
  with_reducible
    repeat' first
      | exact h₀ | assumption | intro _ | apply applyInterleave_good | apply clearConfig_good | apply setReg_good
      | apply putSeat_good | apply putGroups_good | apply createWin_good | apply drawPlan_good | apply bindSlot_good
      | apply ledgerPut_good | apply putRings_good | apply putPower_good | apply putSpindles_good
      | apply putMicrocode_good | apply winOnline_good | apply bindPeer_good | apply rescale_good
      | apply putAdminBox_good | apply applyPly_good | apply Good.foldl | apply Good.foldl_fst
      | refine Good.of_pair (by assumption) ?_ | dsimp only | split | refine Good.updAll ?_ | refine Good.upd ?_

theorem advanceSvn_good {q₀ : List Instr} {p₀ : Bool} {c₀ : Option Nat} {s : State} {adv : Bool} {svn : Nat}
    (h₀ : Good q₀ p₀ c₀ s) :
    Good q₀ p₀ c₀ (advanceSvn s adv svn) := by
  unfold advanceSvn
  try dsimp only
  with_reducible
    repeat' first
      | exact h₀ | assumption | intro _ | apply Good.ite | dsimp only | split | refine Good.upd ?_

theorem bootOver_good {q₀ : List Instr} {p₀ : Bool} {c₀ : Option Nat} {s : State}  (h₀ : Good q₀ p₀ c₀ s) :
    Good q₀ p₀ c₀ (bootOver s) := by
  unfold bootOver
  try dsimp only
  with_reducible
    repeat' first
      | exact h₀ | assumption | intro _ | apply Good.ite | dsimp only | split | refine Good.upd ?_

theorem acceptLoad_good {q₀ : List Instr} {p₀ : Bool} {c₀ : Option Nat} {s : State} {b : List Byte} {src : ImgFrom}
    (h₀ : Good q₀ p₀ c₀ s) :
    Good q₀ p₀ c₀ (acceptLoad s b src) := by
  unfold acceptLoad
  try dsimp only
  with_reducible
    repeat' first
      | exact h₀ | assumption | intro _ | apply advanceSvn_good | apply applyLoad_good | apply bootOver_good
      | apply imgAnswer_good | apply imgEvent_good | refine Good.of_pair (by assumption) ?_ | dsimp only | split
      | refine Good.upd ?_

theorem tryLoad_good {q₀ : List Instr} {p₀ : Bool} {c₀ : Option Nat} {s : State} {b : List Byte} {src : ImgFrom}
    (h₀ : Good q₀ p₀ c₀ s) :
    Good q₀ p₀ c₀ (tryLoad s b src).1 := by
  unfold tryLoad
  try dsimp only
  with_reducible
    repeat' first
      | exact h₀ | assumption | intro _ | apply imgRefuse_good | apply acceptLoad_good | apply Good.ite_fst
      | apply Good.ite | refine Good.of_pair (by assumption) ?_ | dsimp only | split | refine Good.upd ?_

theorem bothFailed_good {q₀ : List Instr} {p₀ : Bool} {c₀ : Option Nat} {s : State} {r1 r2 : Nat}
    (h₀ : Good q₀ p₀ c₀ s) :
    Good q₀ p₀ c₀ (bothFailed s r1 r2) := by
  unfold bothFailed
  try dsimp only
  with_reducible
    repeat' first
      | exact h₀ | assumption | intro _ | apply bootOver_good | apply logEv_good | dsimp only | split

theorem bootSecond_good {q₀ : List Instr} {p₀ : Bool} {c₀ : Option Nat} {s : State} {bank r1 : Nat}
    (h₀ : Good q₀ p₀ c₀ s) :
    Good q₀ p₀ c₀ (bootSecond s bank r1) := by
  unfold bootSecond
  try dsimp only
  with_reducible
    repeat' first
      | exact h₀ | assumption | intro _ | apply tryLoad_good | apply bothFailed_good | apply Good.ite_fst
      | apply Good.ite | refine Good.of_pair (by assumption) ?_ | dsimp only | split

theorem bootFirst_good {q₀ : List Instr} {p₀ : Bool} {c₀ : Option Nat} {s : State}  (h₀ : Good q₀ p₀ c₀ s) :
    Good q₀ p₀ c₀ (bootFirst s) := by
  unfold bootFirst
  try dsimp only
  with_reducible
    repeat' first
      | exact h₀ | assumption | intro _ | apply tryLoad_good | apply bootSecond_good | apply Good.ite_fst
      | apply Good.ite | refine Good.of_pair (by assumption) ?_ | dsimp only | split

theorem execWarpImageLoad_good {q₀ : List Instr} {p₀ : Bool} {c₀ : Option Nat} {s : State}  (h₀ : Good q₀ p₀ c₀ s) :
    GoodX q₀ p₀ c₀ (execWarpImageLoad s) := by
  unfold execWarpImageLoad
  try dsimp only
  with_reducible
    repeat' first
      | exact h₀ | assumption | intro _ | apply bootFirst_good | apply GoodX.next | apply GoodX.ite | apply Good.ite
      | dsimp only | split

theorem startRemoval_good {q₀ : List Instr} {p₀ : Bool} {c₀ : Option Nat} {s : State} {w : Nat} (h₀ : Good q₀ p₀ c₀ s) :
    Good q₀ p₀ c₀ (startRemoval s w) := by
  unfold startRemoval
  try dsimp only
  with_reducible
    repeat' first
      | exact h₀ | assumption | intro _ | apply stopWalk_good | apply disableWindow_good | apply modWin_good
      | dsimp only | split | refine Good.upd ?_

theorem acceptReweave_good {q₀ : List Instr} {p₀ : Bool} {c₀ : Option Nat} {s : State} {b : List Byte}
    {src : ImgFrom} (h₀ : Good q₀ p₀ c₀ s) :
    Good q₀ p₀ c₀ (acceptReweave s b src) := by
  unfold acceptReweave
  try dsimp only
  with_reducible
    repeat' first
      | exact h₀ | assumption | intro _ | apply drawPlan_good | apply bindSlot_good | apply disableRing_good
      | apply startRemoval_good | apply resume_good | apply disableSeat_good | apply Good.ite_fst | apply Good.ite
      | apply Good.foldl | apply Good.foldl_fst | refine Good.of_pair (by assumption) ?_ | dsimp only | split
      | refine Good.upd ?_

theorem tryReweave_good {q₀ : List Instr} {p₀ : Bool} {c₀ : Option Nat} {s : State} {b : List Byte} {src : ImgFrom}
    (h₀ : Good q₀ p₀ c₀ s) :
    Good q₀ p₀ c₀ (tryReweave s b src) := by
  unfold tryReweave
  try dsimp only
  with_reducible
    repeat' first
      | exact h₀ | assumption | intro _ | apply imgRefuse_good | apply acceptReweave_good | apply Good.ite
      | dsimp only | split | refine Good.upd ?_

theorem execReweaveRequest_good {q₀ : List Instr} {p₀ : Bool} {c₀ : Option Nat} {s : State} {f : Fn}
    {words : List Word} (h₀ : Good q₀ p₀ c₀ s) :
    GoodX q₀ p₀ c₀ (execReweaveRequest f words s) := by
  unfold execReweaveRequest
  try dsimp only
  with_reducible
    repeat' first
      | exact h₀ | assumption | intro _ | apply holdFor_good | apply imgRefuse_good | apply agentOpen_good
      | apply agentLines_good | apply agentSpan_good | apply agentClose_good | apply tryReweave_good
      | apply GoodX.next | apply GoodX.ite | apply Good.ite_fst | apply Good.ite
      | refine Good.of_pair (by assumption) ?_ | dsimp only | split

theorem execMctpReweaveRequest_good {q₀ : List Instr} {p₀ : Bool} {c₀ : Option Nat} {s : State} {image : List Byte}
    (h₀ : Good q₀ p₀ c₀ s) :
    GoodX q₀ p₀ c₀ (execMctpReweaveRequest image s) := by
  unfold execMctpReweaveRequest
  try dsimp only
  with_reducible
    repeat' first
      | exact h₀ | assumption | intro _ | apply mcGate_good | apply tryReweave_good | apply GoodX.next | dsimp only
      | split

theorem startFlip_good {q₀ : List Instr} {p₀ : Bool} {c₀ : Option Nat} {s : State} {r : Reweave}
    (h₀ : Good q₀ p₀ c₀ s) :
    Good q₀ p₀ c₀ (startFlip s r) := by
  unfold startFlip
  try dsimp only
  with_reducible
    repeat' first
      | exact h₀ | assumption | intro _ | apply loadShadow_good | dsimp only | split | refine Good.upd ?_

theorem execReweaveRemovalDrained_good {q₀ : List Instr} {p₀ : Bool} {c₀ : Option Nat} {s : State} 
    (h₀ : Good q₀ p₀ c₀ s) :
    GoodX q₀ p₀ c₀ (execReweaveRemovalDrained s) := by
  unfold execReweaveRemovalDrained
  try dsimp only
  with_reducible
    repeat' first
      | exact h₀ | assumption | intro _ | apply timeoutDesc_good | apply startFlip_good | apply GoodX.next
      | apply GoodX.ite | apply Good.ite | apply Good.foldl | apply Good.foldl_fst
      | refine Good.of_pair (by assumption) ?_ | dsimp only | split | refine Good.upd ?_

theorem execMicrocodeDrainComplete_good {q₀ : List Instr} {p₀ : Bool} {c₀ : Option Nat} {s : State} 
    (h₀ : Good q₀ p₀ c₀ s) :
    GoodX q₀ p₀ c₀ (execMicrocodeDrainComplete s) := by
  unfold execMicrocodeDrainComplete
  try dsimp only
  with_reducible
    repeat' first
      | exact h₀ | assumption | intro _ | apply startFlip_good | apply putMicrocode_good | apply GoodX.next
      | apply GoodX.ite | apply Good.ite | refine Good.of_pair (by assumption) ?_ | dsimp only | split

theorem removeWin_good {q₀ : List Instr} {p₀ : Bool} {c₀ : Option Nat} {s : State} {w : Nat} (h₀ : Good q₀ p₀ c₀ s) :
    Good q₀ p₀ c₀ (removeWin s w) := by
  unfold removeWin
  try dsimp only
  with_reducible
    repeat' first
      | exact h₀ | assumption | intro _ | apply dropWindow_good | apply discardMirror_good | apply zeroSlot_good
      | apply modWin_good | dsimp only | split | refine Good.updAll ?_ | refine Good.upd ?_

theorem changeWin_good {q₀ : List Instr} {p₀ : Bool} {c₀ : Option Nat} {s : State} {w : Nat} {x : Win}
    (h₀ : Good q₀ p₀ c₀ s) :
    Good q₀ p₀ c₀ (changeWin s w x) := by
  unfold changeWin
  try dsimp only
  with_reducible
    repeat' first
      | exact h₀ | assumption | intro _ | apply modWin_good | apply changeMirror_good | apply Good.ite | dsimp only
      | split

theorem writeFields_good {q₀ : List Instr} {p₀ : Bool} {c₀ : Option Nat} {s : State} {r : Reweave}
    (h₀ : Good q₀ p₀ c₀ s) :
    Good q₀ p₀ c₀ (writeFields s r) := by
  unfold writeFields
  try dsimp only
  with_reducible
    repeat' first
      | exact h₀ | assumption | intro _ | apply modRing_good | apply removeWin_good | apply bindSlot_good
      | apply modSeat_good | apply putSeat_good | apply putGroups_good | apply createWin_good | apply changeWin_good
      | apply setReg_good | apply putAdminBox_good | apply putSpindles_good | apply putRings_good
      | apply putPower_good | apply ledgerPut_good | apply cdatSeat_good | apply sendMtab_good | apply matchWindow_good | apply Good.ite
      | apply Good.foldl | apply Good.foldl_fst | refine Good.of_pair (by assumption) ?_ | dsimp only | split
      | refine Good.upd ?_

theorem execReweaveFlipped_good {q₀ : List Instr} {p₀ : Bool} {c₀ : Option Nat} {s : State}  (h₀ : Good q₀ p₀ c₀ s) :
    GoodX q₀ p₀ c₀ (execReweaveFlipped s) := by
  unfold execReweaveFlipped
  try dsimp only
  with_reducible
    repeat' first
      | exact h₀ | assumption | intro _ | apply writeFields_good | apply resume_good | apply winOnline_good
      | apply bindPeer_good | apply GoodX.next | apply GoodX.ite | apply Good.ite | apply Good.foldl
      | apply Good.foldl_fst | refine Good.of_pair (by assumption) ?_ | dsimp only | split

theorem execReweaveComplete_good {q₀ : List Instr} {p₀ : Bool} {c₀ : Option Nat} {s : State}  (h₀ : Good q₀ p₀ c₀ s) :
    GoodX q₀ p₀ c₀ (execReweaveComplete s) := by
  unfold execReweaveComplete
  try dsimp only
  with_reducible
    repeat' first
      | exact h₀ | assumption | intro _ | apply advanceSvn_good | apply logEv_good | apply imgAnswer_good
      | apply GoodX.next | apply GoodX.ite | apply Good.ite | refine Good.of_pair (by assumption) ?_ | dsimp only
      | split | refine Good.upd ?_

theorem execFullImageTransfer_good {q₀ : List Instr} {p₀ : Bool} {c₀ : Option Nat} {s : State} {image : List Byte}
    (h₀ : Good q₀ p₀ c₀ s) :
    GoodX q₀ p₀ c₀ (execFullImageTransfer image s) := by
  unfold execFullImageTransfer
  try dsimp only
  with_reducible
    repeat' first
      | exact h₀ | assumption | intro _ | apply mcGate_good | apply imgAnswer_good | apply imgRefuse_good
      | apply fwEvent_good | apply modBank_good | apply tryLoad_good | apply GoodX.next | apply GoodX.ite
      | apply Good.ite_fst | apply Good.ite | dsimp only | split | refine Good.upd ?_

theorem resumeImage_good {q₀ : List Instr} {p₀ : Bool} {c₀ : Option Nat} {s : State}  (h₀ : Good q₀ p₀ c₀ s) :
    Good q₀ p₀ c₀ (resumeImage s) := by
  unfold resumeImage
  try dsimp only
  with_reducible
    repeat' first
      | exact h₀ | assumption | intro _ | apply tryLoad_good | apply bootSecond_good | apply bothFailed_good
      | apply tryReweave_good | apply Good.ite_fst | apply Good.ite | refine Good.of_pair (by assumption) ?_
      | dsimp only | split | refine Good.upd ?_

theorem execTrngDrawTimeout_good {q₀ : List Instr} {p₀ : Bool} {c₀ : Option Nat} {s : State}  (h₀ : Good q₀ p₀ c₀ s) :
    GoodX q₀ p₀ c₀ (execTrngDrawTimeout s) := by
  unfold execTrngDrawTimeout
  try dsimp only
  with_reducible
    repeat' first
      | exact h₀ | assumption | intro _ | apply advanceTo_good | apply keyEvent_good | apply imgRefuse_good
      | apply bootSecond_good | apply bothFailed_good | apply GoodX.next | refine Good.of_pair (by assumption) ?_
      | dsimp only | split | refine Good.upd ?_

theorem execTrngHealthRecover_good {q₀ : List Instr} {p₀ : Bool} {c₀ : Option Nat} {s : State}  (h₀ : Good q₀ p₀ c₀ s) :
    GoodX q₀ p₀ c₀ (execTrngHealthRecover s) := by
  unfold execTrngHealthRecover
  try dsimp only
  with_reducible
    repeat' first
      | exact h₀ | assumption | intro _ | apply resumeImage_good | apply drawMeta_good | apply logEv_good
      | apply GoodX.next | apply GoodX.ite | apply Good.ite | dsimp only | split | refine Good.upd ?_

end Sys2Proof.Machine
end

