-- ==== Sys2Proof/Laws/GoodPower.lean ====
section
/-! SUPPORT. The operations of Machine/Power.lean keep the state good (`Good`). -/

set_option linter.unusedTactic false
set_option linter.unreachableTactic false

set_option Elab.async false

namespace Sys2Proof.Machine

open Sys2Proof

theorem putCtlBit_good {q₀ : List Instr} {p₀ : Bool} {c₀ : Option Nat} {s : State} {reg i : Nat} {v : Bool}
    (h₀ : Good q₀ p₀ c₀ s) :
    Good q₀ p₀ c₀ (putCtlBit s reg i v) := by
  unfold putCtlBit
  try dsimp only
  with_reducible
    repeat' first
      | exact h₀ | assumption | intro _ | apply setReg_good | apply Good.ite | dsimp only | split

theorem execDomainIdle_good {q₀ : List Instr} {p₀ : Bool} {c₀ : Option Nat} {s : State} {dom : Fin 26}
    (h₀ : Good q₀ p₀ c₀ s) :
    GoodX q₀ p₀ c₀ (execDomainIdle dom s) := by
  unfold execDomainIdle
  try dsimp only
  with_reducible
    repeat' first
      | exact h₀ | assumption | intro _ | apply modDom_good | apply GoodX.next | apply GoodX.ite | apply Good.ite
      | dsimp only | split | refine Good.upd ?_

theorem grpLast_good {q₀ : List Instr} {p₀ : Bool} {c₀ : Option Nat} {s : State} {result dom reason group : Nat}
    (h₀ : Good q₀ p₀ c₀ s) :
    Good q₀ p₀ c₀ (grpLast s result dom reason group) := by
  unfold grpLast
  try dsimp only
  with_reducible
    repeat' first
      | exact h₀ | assumption | intro _ | dsimp only | split | refine Good.upd ?_

theorem groupEvent_good {q₀ : List Instr} {p₀ : Bool} {c₀ : Option Nat} {s : State} {sev group dom reason : Nat}
    (h₀ : Good q₀ p₀ c₀ s) :
    Good q₀ p₀ c₀ (groupEvent s sev group dom reason) := by
  unfold groupEvent
  try dsimp only
  with_reducible
    repeat' first
      | exact h₀ | assumption | intro _ | apply logEv_good | dsimp only | split

theorem endTrans_good {q₀ : List Instr} {p₀ : Bool} {c₀ : Option Nat} {s : State}  (h₀ : Good q₀ p₀ c₀ s) :
    Good q₀ p₀ c₀ (endTrans s) := by
  unfold endTrans
  try dsimp only
  with_reducible
    repeat' first
      | exact h₀ | assumption | intro _ | apply putCtlBit_good | apply dvfsGo_good | apply Good.ite | apply Good.foldl
      | apply Good.foldl_fst | refine Good.of_pair (by assumption) ?_ | dsimp only | split | refine Good.upd ?_

theorem abortSleep_good {q₀ : List Instr} {p₀ : Bool} {c₀ : Option Nat} {s : State} {t : Trans} {dom reason : Nat}
    (h₀ : Good q₀ p₀ c₀ s) :
    Good q₀ p₀ c₀ (abortSleep s t dom reason) := by
  unfold abortSleep
  try dsimp only
  with_reducible
    repeat' first
      | exact h₀ | assumption | intro _ | apply endTrans_good | apply bump_good | apply grpLast_good | dsimp only
      | split

theorem startWake_good {q₀ : List Instr} {p₀ : Bool} {c₀ : Option Nat} {s : State} {members : List Nat}
    {group : Nat} {late : Option (Nat × Nat)} (h₀ : Good q₀ p₀ c₀ s) :
    Good q₀ p₀ c₀ (startWake s members group late) := by
  unfold startWake
  try dsimp only
  with_reducible
    repeat' first
      | exact h₀ | assumption | intro _ | apply modDom_good | apply Good.foldl | dsimp only | split
      | refine Good.upd ?_

theorem lateRefuse_good {q₀ : List Instr} {p₀ : Bool} {c₀ : Option Nat} {s : State} {t : Trans} {dom reason : Nat}
    (h₀ : Good q₀ p₀ c₀ s) :
    Good q₀ p₀ c₀ (lateRefuse s t dom reason) := by
  unfold lateRefuse
  try dsimp only
  with_reducible
    repeat' first
      | exact h₀ | assumption | intro _ | apply modDom_good | apply bump_good | apply grpLast_good
      | apply groupEvent_good | apply endTrans_good | apply startWake_good | apply resume_good | apply runStored_good
      | apply Good.ite | apply Good.foldl | dsimp only | split | refine Good.updAll ?_ | refine Good.upd ?_

theorem meetWakes_good {q₀ : List Instr} {p₀ : Bool} {c₀ : Option Nat} {s : State}  (h₀ : Good q₀ p₀ c₀ s) :
    Good q₀ p₀ c₀ (meetWakes s) := by
  unfold meetWakes
  try dsimp only
  with_reducible
    repeat' first
      | exact h₀ | assumption | intro _ | apply abortSleep_good | apply lateRefuse_good | apply Good.ite
      | refine Good.of_pair (by assumption) ?_ | dsimp only | split

theorem startSleep_good {q₀ : List Instr} {p₀ : Bool} {c₀ : Option Nat} {s : State} {d target : Nat}
    (h₀ : Good q₀ p₀ c₀ s) :
    Good q₀ p₀ c₀ (startSleep s d target) := by
  unfold startSleep
  try dsimp only
  with_reducible
    repeat' first
      | exact h₀ | assumption | intro _ | dsimp only | split | refine Good.upd ?_

theorem execGroupSleepRequest_good {q₀ : List Instr} {p₀ : Bool} {c₀ : Option Nat} {s : State} {dom : Fin 26}
    (h₀ : Good q₀ p₀ c₀ s) :
    GoodX q₀ p₀ c₀ (execGroupSleepRequest dom s) := by
  unfold execGroupSleepRequest
  try dsimp only
  with_reducible
    repeat' first
      | exact h₀ | assumption | intro _ | apply startSleep_good | apply advanceTo_good | apply GoodX.next
      | apply GoodX.ite | apply Good.ite | apply Good.foldl | dsimp only | split

theorem putSleepReq_good {q₀ : List Instr} {p₀ : Bool} {c₀ : Option Nat} {s : State} {d : Nat} {group : Bool}
    (h₀ : Good q₀ p₀ c₀ s) :
    Good q₀ p₀ c₀ (putSleepReq s d group) := by
  unfold putSleepReq
  try dsimp only
  with_reducible
    repeat' first
      | exact h₀ | assumption | intro _ | apply putCtlBit_good | apply startSleep_good | apply Good.ite | dsimp only
      | split | refine Good.updAll ?_ | refine Good.upd ?_

theorem reqAt_good {q₀ : List Instr} {p₀ : Bool} {c₀ : Option Nat} {s : State} {r : Fin 26 ⊕ Fin 8} (h₀ : Good q₀ p₀ c₀ s) :
    Good q₀ p₀ c₀ (reqAt s r) := by
  unfold reqAt
  split
  · exact putSleepReq_good h₀
  · split
    · exact putSleepReq_good h₀
    · exact h₀

theorem execSleepReq_good {q₀ : List Instr} {p₀ : Bool} {c₀ : Option Nat} {s : State} {by_ : Agent}
    {reg : Fin 26 ⊕ Fin 8} (h₀ : Good q₀ p₀ c₀ s) :
    GoodX q₀ p₀ c₀ (execSleepReq by_ reg s) := by
  unfold execSleepReq
  try dsimp only
  with_reducible
    repeat' first
      | exact h₀ | assumption | intro _ | apply access_good | apply reqAt_good | apply GoodX.next | dsimp only | split

theorem commitSleep_good {q₀ : List Instr} {p₀ : Bool} {c₀ : Option Nat} {s : State} {t : Trans}
    (h₀ : Good q₀ p₀ c₀ s) :
    Good q₀ p₀ c₀ (commitSleep s t) := by
  unfold commitSleep
  try dsimp only
  with_reducible
    repeat' first
      | exact h₀ | assumption | intro _ | apply modDom_good | apply flushAll_good | apply Good.ite | apply Good.foldl
      | dsimp only | split | refine Good.upd ?_

theorem execMemberAnswer_good {q₀ : List Instr} {p₀ : Bool} {c₀ : Option Nat} {s : State} {dom : Fin 26}
    (h₀ : Good q₀ p₀ c₀ s) :
    GoodX q₀ p₀ c₀ (execMemberAnswer dom s) := by
  unfold execMemberAnswer
  try dsimp only
  with_reducible
    repeat' first
      | exact h₀ | assumption | intro _ | apply meetWakes_good | apply abortSleep_good | apply commitSleep_good
      | apply GoodX.next | apply GoodX.ite | apply Good.ite | refine Good.of_pair (by assumption) ?_ | dsimp only
      | split | refine Good.upd ?_

theorem execPrepareTimeout_good {q₀ : List Instr} {p₀ : Bool} {c₀ : Option Nat} {s : State}  (h₀ : Good q₀ p₀ c₀ s) :
    GoodX q₀ p₀ c₀ (execPrepareTimeout s) := by
  unfold execPrepareTimeout
  try dsimp only
  with_reducible
    repeat' first
      | exact h₀ | assumption | intro _ | apply meetWakes_good | apply abortSleep_good | apply advanceTo_good
      | apply GoodX.next | apply GoodX.ite | apply Good.ite | refine Good.of_pair (by assumption) ?_ | dsimp only
      | split

theorem fenceDom_good {q₀ : List Instr} {p₀ : Bool} {c₀ : Option Nat} {s : State} {d : Nat} (h₀ : Good q₀ p₀ c₀ s) :
    Good q₀ p₀ c₀ (fenceDom s d) := by
  unfold fenceDom
  try dsimp only
  with_reducible
    repeat' first
      | exact h₀ | assumption | intro _ | apply setFences_good | apply rescale_good | apply modCh_good
      | apply flushAll_good | apply Good.ite | apply Good.foldl | dsimp only | split | refine Good.updAll ?_
      | refine Good.upd ?_

theorem execMemberFenced_good {q₀ : List Instr} {p₀ : Bool} {c₀ : Option Nat} {s : State} {dom : Fin 26}
    (h₀ : Good q₀ p₀ c₀ s) :
    GoodX q₀ p₀ c₀ (execMemberFenced dom s) := by
  unfold execMemberFenced
  try dsimp only
  with_reducible
    repeat' first
      | exact h₀ | assumption | intro _ | apply meetWakes_good | apply fenceDom_good | apply GoodX.next
      | apply GoodX.ite | apply Good.ite | refine Good.of_pair (by assumption) ?_ | dsimp only | split
      | refine Good.upd ?_

theorem stopDom_good {q₀ : List Instr} {p₀ : Bool} {c₀ : Option Nat} {s : State} {d : Nat} {doze : Bool}
    (h₀ : Good q₀ p₀ c₀ s) :
    Good q₀ p₀ c₀ (stopDom s d doze) := by
  unfold stopDom
  try dsimp only
  with_reducible
    repeat' first
      | exact h₀ | assumption | intro _ | apply modDom_good | apply loseCounters_good | apply plyDown_good
      | apply modSpn_good | apply Good.ite | apply Good.foldl | dsimp only | split | refine Good.upd ?_

theorem execMemberStopped_good {q₀ : List Instr} {p₀ : Bool} {c₀ : Option Nat} {s : State} {dom : Fin 26}
    (h₀ : Good q₀ p₀ c₀ s) :
    GoodX q₀ p₀ c₀ (execMemberStopped dom s) := by
  unfold execMemberStopped
  try dsimp only
  with_reducible
    repeat' first
      | exact h₀ | assumption | intro _ | apply meetWakes_good | apply stopDom_good | apply startWake_good
      | apply endTrans_good | apply grpLast_good | apply GoodX.next | apply GoodX.ite | apply Good.ite
      | refine Good.of_pair (by assumption) ?_ | dsimp only | split | refine Good.upd ?_

theorem execLateRefuse_good {q₀ : List Instr} {p₀ : Bool} {c₀ : Option Nat} {s : State} {dom : Fin 26}
    {reason : Fin 256} (h₀ : Good q₀ p₀ c₀ s) :
    GoodX q₀ p₀ c₀ (execLateRefuse dom reason s) := by
  unfold execLateRefuse
  try dsimp only
  with_reducible
    repeat' first
      | exact h₀ | assumption | intro _ | apply meetWakes_good | apply lateRefuse_good | apply GoodX.next
      | apply GoodX.ite | apply Good.ite | refine Good.of_pair (by assumption) ?_ | dsimp only | split

theorem execDrainTimeout_good {q₀ : List Instr} {p₀ : Bool} {c₀ : Option Nat} {s : State} {dom : Fin 26}
    (h₀ : Good q₀ p₀ c₀ s) :
    GoodX q₀ p₀ c₀ (execDrainTimeout dom s) := by
  unfold execDrainTimeout
  try dsimp only
  with_reducible
    repeat' first
      | exact h₀ | assumption | intro _ | apply meetWakes_good | apply lateRefuse_good | apply advanceTo_good
      | apply GoodX.next | apply GoodX.ite | apply Good.ite | refine Good.of_pair (by assumption) ?_ | dsimp only
      | split

theorem requestWake_good {q₀ : List Instr} {p₀ : Bool} {c₀ : Option Nat} {s : State} {d : Nat} (h₀ : Good q₀ p₀ c₀ s) :
    Good q₀ p₀ c₀ (requestWake s d) := by
  unfold requestWake
  try dsimp only
  with_reducible
    repeat' first
      | exact h₀ | assumption | intro _ | apply meetWakes_good | apply askWake_good | apply startWake_good
      | apply Good.ite | dsimp only | split

theorem execGroupWake_good {q₀ : List Instr} {p₀ : Bool} {c₀ : Option Nat} {s : State} {dom : Fin 26}
    (h₀ : Good q₀ p₀ c₀ s) :
    GoodX q₀ p₀ c₀ (execGroupWake dom s) := by
  unfold execGroupWake
  try dsimp only
  with_reducible
    repeat' first
      | exact h₀ | assumption | intro _ | apply requestWake_good | apply GoodX.next | dsimp only | split

theorem putWake_good {q₀ : List Instr} {p₀ : Bool} {c₀ : Option Nat} {s : State} {d reg : Nat} (h₀ : Good q₀ p₀ c₀ s) :
    Good q₀ p₀ c₀ (putWake s d reg) := by
  unfold putWake
  try dsimp only
  with_reducible
    repeat' first
      | exact h₀ | assumption | intro _ | apply requestWake_good | apply putCtlBit_good | apply Good.ite | dsimp only
      | split

theorem wakeAt_good {q₀ : List Instr} {p₀ : Bool} {c₀ : Option Nat} {s : State} {r : Fin 26 ⊕ Fin 8}
    (h₀ : Good q₀ p₀ c₀ s) :
    Good q₀ p₀ c₀ (wakeAt s r) := by
  unfold wakeAt
  try dsimp only
  with_reducible
    repeat' first
      | exact h₀ | assumption | intro _ | apply putWake_good | refine Good.of_pair (by assumption) ?_ | dsimp only
      | split

theorem execWakeReq_good {q₀ : List Instr} {p₀ : Bool} {c₀ : Option Nat} {s : State} {by_ : Agent}
    {reg : Fin 26 ⊕ Fin 8} (h₀ : Good q₀ p₀ c₀ s) :
    GoodX q₀ p₀ c₀ (execWakeReq by_ reg s) := by
  unfold execWakeReq
  try dsimp only
  with_reducible
    repeat' first
      | exact h₀ | assumption | intro _ | apply access_good | apply wakeAt_good | apply GoodX.next | dsimp only
      | split

theorem domReset_good {q₀ : List Instr} {p₀ : Bool} {c₀ : Option Nat} {s : State} {d : Nat} (h₀ : Good q₀ p₀ c₀ s) :
    Good q₀ p₀ c₀ (domReset s d) := by
  unfold domReset
  try dsimp only
  with_reducible
    repeat' first
      | exact h₀ | assumption | intro _ | apply modSpn_good | apply Good.ite | apply Good.foldl
      | refine Good.of_pair (by assumption) ?_ | dsimp only | split | refine Good.updAll ?_

theorem memoryStep_good {q₀ : List Instr} {p₀ : Bool} {c₀ : Option Nat} {s : State} {d : Nat} (h₀ : Good q₀ p₀ c₀ s) :
    Good q₀ p₀ c₀ (memoryStep s d) := by
  unfold memoryStep
  try dsimp only
  with_reducible
    repeat' first
      | exact h₀ | assumption | intro _ | apply rescale_good | apply modCh_good | apply goOnline_good | apply Good.ite
      | apply Good.foldl | dsimp only | split | refine Good.upd ?_

theorem logicStep_good {q₀ : List Instr} {p₀ : Bool} {c₀ : Option Nat} {s : State} {dozed : List Nat} {d : Nat}
    (h₀ : Good q₀ p₀ c₀ s) :
    Good q₀ p₀ c₀ (logicStep s dozed d) := by
  unfold logicStep
  try dsimp only
  with_reducible
    repeat' first
      | exact h₀ | assumption | intro _ | apply domReset_good | apply modDom_good | apply deliverQueues_good
      | apply setFences_good | apply modPly_good | apply Good.ite | dsimp only | split | refine Good.upd ?_

theorem wakeStepDone_good {q₀ : List Instr} {p₀ : Bool} {c₀ : Option Nat} {s : State} {t : Trans}
    (h₀ : Good q₀ p₀ c₀ s) :
    Good q₀ p₀ c₀ (wakeStepDone s t) := by
  unfold wakeStepDone
  try dsimp only
  with_reducible
    repeat' first
      | exact h₀ | assumption | intro _ | apply memoryStep_good | apply logicStep_good | apply grpLast_good
      | apply resume_good | apply runStored_good | apply endTrans_good | apply Good.ite | apply Good.foldl
      | dsimp only | split | refine Good.upd ?_

theorem wakeReady_good {q₀ : List Instr} {p₀ : Bool} {c₀ : Option Nat} {s : State} {d : Nat} (h₀ : Good q₀ p₀ c₀ s) :
    Good q₀ p₀ c₀ (wakeReady s d) := by
  unfold wakeReady
  try dsimp only
  with_reducible
    repeat' first
      | exact h₀ | assumption | intro _ | apply wakeStepDone_good | apply Good.ite
      | refine Good.of_pair (by assumption) ?_ | dsimp only | split | refine Good.upd ?_

theorem domOff_good {q₀ : List Instr} {p₀ : Bool} {c₀ : Option Nat} {s : State} {group step d : Nat}
    (h₀ : Good q₀ p₀ c₀ s) :
    Good q₀ p₀ c₀ (domOff s group step d) := by
  unfold domOff
  try dsimp only
  with_reducible
    repeat' first
      | exact h₀ | assumption | intro _ | apply refuseQueues_good | apply loseCounters_good | apply modDom_good
      | apply groupEvent_good | apply Good.ite | dsimp only | split | refine Good.upd ?_

theorem stopAgain_good {q₀ : List Instr} {p₀ : Bool} {c₀ : Option Nat} {s : State} {d : Nat} (h₀ : Good q₀ p₀ c₀ s) :
    Good q₀ p₀ c₀ (stopAgain s d) := by
  unfold stopAgain
  refine Good.ite (rescale_good ?_) h₀
  apply Good.foldl h₀
  intro t c h
  exact Good.ite (modCh_good h) h

theorem wakeFails_good {q₀ : List Instr} {p₀ : Bool} {c₀ : Option Nat} {s : State}  (h₀ : Good q₀ p₀ c₀ s) :
    Good q₀ p₀ c₀ (wakeFails s) := by
  unfold wakeFails
  try dsimp only
  with_reducible
    repeat' first
      | exact h₀ | assumption | intro _ | apply advanceTo_good | apply groupEvent_good | apply bump_good
      | apply grpLast_good | apply domOff_good | apply resume_good | apply endTrans_good | apply stopAgain_good | apply wakeStepDone_good
      | apply Good.ite | apply Good.foldl | refine Good.of_pair (by assumption) ?_ | dsimp only | split
      | refine Good.upd ?_

theorem startDvfs_good {q₀ : List Instr} {p₀ : Bool} {c₀ : Option Nat} {s : State} {t : Nat} (h₀ : Good q₀ p₀ c₀ s) :
    Good q₀ p₀ c₀ (startDvfs s t) := by
  unfold startDvfs
  try dsimp only
  with_reducible
    repeat' first
      | exact h₀ | assumption | intro _ | apply dvfsGo_good | dsimp only | split | refine Good.upd ?_

theorem putDvfs_good {q₀ : List Instr} {p₀ : Bool} {c₀ : Option Nat} {s : State} {t : Nat} (h₀ : Good q₀ p₀ c₀ s) :
    Good q₀ p₀ c₀ (putDvfs s t) := by
  unfold putDvfs
  try dsimp only
  with_reducible
    repeat' first
      | exact h₀ | assumption | intro _ | apply startDvfs_good | apply Good.ite | dsimp only | split
      | refine Good.upd ?_

theorem execDvfsTarget_good {q₀ : List Instr} {p₀ : Bool} {c₀ : Option Nat} {s : State} {by_ : Agent}
    {target : Fin 4} (h₀ : Good q₀ p₀ c₀ s) :
    GoodX q₀ p₀ c₀ (execDvfsTarget by_ target s) := by
  unfold execDvfsTarget
  try dsimp only
  with_reducible
    repeat' first
      | exact h₀ | assumption | intro _ | apply access_good | apply putDvfs_good | apply GoodX.next | dsimp only
      | split

theorem endDvfs_good {q₀ : List Instr} {p₀ : Bool} {c₀ : Option Nat} {s : State} {result : Nat} (h₀ : Good q₀ p₀ c₀ s) :
    Good q₀ p₀ c₀ (endDvfs s result) := by
  unfold endDvfs
  try dsimp only
  with_reducible
    repeat' first
      | exact h₀ | assumption | intro _ | apply bump_good | apply logEv_good | apply modCh_good | apply startDvfs_good
      | apply Good.ite | apply Good.foldl | refine Good.of_pair (by assumption) ?_ | dsimp only | split
      | refine Good.upd ?_

theorem switchClock_good {q₀ : List Instr} {p₀ : Bool} {c₀ : Option Nat} {s : State}  (h₀ : Good q₀ p₀ c₀ s) :
    Good q₀ p₀ c₀ (switchClock s) := by
  unfold switchClock
  try dsimp only
  with_reducible
    repeat' first
      | exact h₀ | assumption | intro _ | dsimp only | split | refine Good.upd ?_

theorem execPllLock_good {q₀ : List Instr} {p₀ : Bool} {c₀ : Option Nat} {s : State}  (h₀ : Good q₀ p₀ c₀ s) :
    GoodX q₀ p₀ c₀ (execPllLock s) := by
  unfold execPllLock
  try dsimp only
  with_reducible
    repeat' first
      | exact h₀ | assumption | intro _ | apply endDvfs_good | apply switchClock_good | apply GoodX.next
      | apply GoodX.ite | apply Good.ite | dsimp only | split | refine Good.upd ?_

theorem execPllLockTimeout_good {q₀ : List Instr} {p₀ : Bool} {c₀ : Option Nat} {s : State}  (h₀ : Good q₀ p₀ c₀ s) :
    GoodX q₀ p₀ c₀ (execPllLockTimeout s) := by
  unfold execPllLockTimeout
  try dsimp only
  with_reducible
    repeat' first
      | exact h₀ | assumption | intro _ | apply endDvfs_good | apply advanceTo_good | apply GoodX.next
      | apply GoodX.ite | apply Good.ite | dsimp only | split

theorem execVoltageConfirm_good {q₀ : List Instr} {p₀ : Bool} {c₀ : Option Nat} {s : State}  (h₀ : Good q₀ p₀ c₀ s) :
    GoodX q₀ p₀ c₀ (execVoltageConfirm s) := by
  unfold execVoltageConfirm
  try dsimp only
  with_reducible
    repeat' first
      | exact h₀ | assumption | intro _ | apply endDvfs_good | apply switchClock_good | apply GoodX.next
      | apply GoodX.ite | apply Good.ite | dsimp only | split | refine Good.upd ?_

theorem execVoltageConfirmTimeout_good {q₀ : List Instr} {p₀ : Bool} {c₀ : Option Nat} {s : State} 
    (h₀ : Good q₀ p₀ c₀ s) :
    GoodX q₀ p₀ c₀ (execVoltageConfirmTimeout s) := by
  unfold execVoltageConfirmTimeout
  try dsimp only
  with_reducible
    repeat' first
      | exact h₀ | assumption | intro _ | apply endDvfs_good | apply advanceTo_good | apply GoodX.next
      | apply GoodX.ite | apply Good.ite | dsimp only | split

end Sys2Proof.Machine
end

