-- ==== Sys2Proof/Laws/GoodLinks.lean ====
section
/-! SUPPORT. The operations of Machine/Links.lean keep the state good (`Good`). -/

set_option linter.unusedTactic false
set_option linter.unreachableTactic false

set_option Elab.async false

namespace Sys2Proof.Machine

open Sys2Proof

theorem reissueSnoops_good {q₀ : List Instr} {p₀ : Bool} {c₀ : Option Nat} {s : State} {seat : Nat}
    (h₀ : Good q₀ p₀ c₀ s) :
    Good q₀ p₀ c₀ (reissueSnoops s seat) := by
  unfold reissueSnoops
  try dsimp only
  with_reducible
    repeat' first
      | exact h₀ | assumption | intro _ | apply trySendSnoop_good | apply modXing_good | apply Good.ite
      | apply Good.foldl | apply Good.foldl_fst | refine Good.of_pair (by assumption) ?_ | dsimp only | split
      | refine Good.upd ?_

theorem seatReturns_good {q₀ : List Instr} {p₀ : Bool} {c₀ : Option Nat} {s : State} {seat : Nat}
    (h₀ : Good q₀ p₀ c₀ s) :
    Good q₀ p₀ c₀ (seatReturns s seat) := by
  unfold seatReturns
  try dsimp only
  with_reducible
    repeat' first
      | exact h₀ | assumption | intro _ | apply modSeat_good | apply seatEvent_good | apply reissueSnoops_good
      | apply Good.ite | refine Good.of_pair (by assumption) ?_ | dsimp only | split | refine Good.upd ?_

theorem enumerate_good {q₀ : List Instr} {p₀ : Bool} {c₀ : Option Nat} {s : State} {port link : Nat}
    (h₀ : Good q₀ p₀ c₀ s) :
    Good q₀ p₀ c₀ (enumerate s port link) := by
  unfold enumerate
  try dsimp only
  with_reducible
    repeat' first
      | exact h₀ | assumption | intro _ | apply Good.ite | dsimp only | split | refine Good.updAll ?_
      | refine Good.upd ?_

theorem insists68_good {q₀ : List Instr} {p₀ : Bool} {c₀ : Option Nat} {s : State} {port link : Nat} {p : Partner}
    (h₀ : Good q₀ p₀ c₀ s) :
    Good q₀ p₀ c₀ (insists68 s port link p) := by
  unfold insists68
  try dsimp only
  with_reducible
    repeat' first
      | exact h₀ | assumption | intro _ | apply protoOccurrence_good | apply Good.ite | dsimp only | split

theorem execLinkUp_good {q₀ : List Instr} {p₀ : Bool} {c₀ : Option Nat} {s : State} {port link : Fin 4}
    {p : Partner} (h₀ : Good q₀ p₀ c₀ s) :
    GoodX q₀ p₀ c₀ (execLinkUp port link p s) := by
  unfold execLinkUp
  try dsimp only
  with_reducible
    repeat' first
      | exact h₀ | assumption | intro _ | apply insists68_good | apply enumerate_good | apply modLink_good
      | apply emit_good | apply latchEvt_good | apply linkEvent_good | apply resume_good | apply seatReturns_good
      | apply GoodX.next | apply GoodX.ite | apply Good.ite | apply Good.foldl
      | refine Good.of_pair (by assumption) ?_ | dsimp only | split

theorem execFlitCrcReplay_good {q₀ : List Instr} {p₀ : Bool} {c₀ : Option Nat} {s : State} {port link : Fin 4}
    {replay : Bool} (h₀ : Good q₀ p₀ c₀ s) :
    GoodX q₀ p₀ c₀ (execFlitCrcReplay port link replay s) := by
  unfold execFlitCrcReplay
  try dsimp only
  with_reducible
    repeat' first
      | exact h₀ | assumption | intro _ | apply countReplay_good | apply countCrc_good | apply GoodX.next
      | apply GoodX.ite | apply Good.ite | dsimp only | split

theorem execL0pWidthChange_good {q₀ : List Instr} {p₀ : Bool} {c₀ : Option Nat} {s : State} {port link : Fin 4}
    {width : Nat} (h₀ : Good q₀ p₀ c₀ s) :
    GoodX q₀ p₀ c₀ (execL0pWidthChange port link width s) := by
  unfold execL0pWidthChange
  try dsimp only
  with_reducible
    repeat' first
      | exact h₀ | assumption | intro _ | apply modLink_good | apply GoodX.next | apply GoodX.ite | apply Good.ite
      | dsimp only | split | refine Good.upd ?_

theorem dropRequest_good {q₀ : List Instr} {p₀ : Bool} {c₀ : Option Nat} {s : State} {e : Nat} (h₀ : Good q₀ p₀ c₀ s) :
    Good q₀ p₀ c₀ (dropRequest s e) := by
  unfold dropRequest
  try dsimp only
  with_reducible
    repeat' first
      | exact h₀ | assumption | intro _ | apply endEntry_good | apply modTrk_good | apply Good.ite
      | refine Good.of_pair (by assumption) ?_ | dsimp only | split | refine Good.upd ?_

theorem dropAcks_good {q₀ : List Instr} {p₀ : Bool} {c₀ : Option Nat} {s : State} {port link : Nat}
    (h₀ : Good q₀ p₀ c₀ s) :
    Good q₀ p₀ c₀ (dropAcks s port link) := by
  unfold dropAcks
  try dsimp only
  with_reducible
    repeat' first
      | exact h₀ | assumption | intro _ | dsimp only | split | refine Good.updAll ?_ | refine Good.upd ?_

theorem dropSnoop_good {q₀ : List Instr} {p₀ : Bool} {c₀ : Option Nat} {s : State} {k r : Nat} (h₀ : Good q₀ p₀ c₀ s) :
    Good q₀ p₀ c₀ (dropSnoop k s r) := by
  unfold dropSnoop
  try dsimp only
  with_reducible
    repeat' first
      | exact h₀ | assumption | intro _ | apply trySendSnoop_good | apply modXing_good | apply Good.ite
      | refine Good.of_pair (by assumption) ?_ | dsimp only | split | refine Good.upd ?_

theorem takeLinkDown_good {q₀ : List Instr} {p₀ : Bool} {c₀ : Option Nat} {s : State} {port link : Nat}
    (h₀ : Good q₀ p₀ c₀ s) :
    Good q₀ p₀ c₀ (takeLinkDown s port link) := by
  unfold takeLinkDown
  try dsimp only
  with_reducible
    repeat' first
      | exact h₀ | assumption | intro _ | apply modLink_good | apply modIngress_good | apply dropRequest_good
      | apply dropAcks_good | apply dropSnoop_good | apply modSeat_good | apply resume_good | apply linkEvent_good
      | apply latchEvt_good | apply Good.ite | apply Good.foldl | apply Good.foldl_fst | dsimp only | split
      | refine Good.upd ?_

theorem execLinkDown_good {q₀ : List Instr} {p₀ : Bool} {c₀ : Option Nat} {s : State} {port link : Fin 4}
    (h₀ : Good q₀ p₀ c₀ s) :
    GoodX q₀ p₀ c₀ (execLinkDown port link s) := by
  unfold execLinkDown
  try dsimp only
  with_reducible
    repeat' first
      | exact h₀ | assumption | intro _ | apply takeLinkDown_good | apply GoodX.next | dsimp only | split

theorem portDown_good {q₀ : List Instr} {p₀ : Bool} {c₀ : Option Nat} {s : State} {port : Nat} (h₀ : Good q₀ p₀ c₀ s) :
    Good q₀ p₀ c₀ (portDown s port) := by
  unfold portDown
  try dsimp only
  with_reducible
    repeat' first
      | exact h₀ | assumption | intro _ | apply takeLinkDown_good | apply Good.foldl | dsimp only | split

theorem execLinkRecovery_good {q₀ : List Instr} {p₀ : Bool} {c₀ : Option Nat} {s : State} {port link : Fin 4}
    {p : Partner} (h₀ : Good q₀ p₀ c₀ s) :
    GoodX q₀ p₀ c₀ (execLinkRecovery port link p s) := by
  unfold execLinkRecovery
  try dsimp only
  with_reducible
    repeat' first
      | exact h₀ | assumption | intro _ | apply takeLinkDown_good | apply insists68_good | apply modLink_good
      | apply seatReturns_good | apply linkEvent_good | apply emit_good | apply latchEvt_good | apply GoodX.next
      | apply GoodX.ite | apply Good.ite | apply Good.foldl | refine Good.of_pair (by assumption) ?_ | dsimp only
      | split | refine Good.upd ?_

theorem execPerstAssert_good {q₀ : List Instr} {p₀ : Bool} {c₀ : Option Nat} {s : State} {port : Fin 4}
    (h₀ : Good q₀ p₀ c₀ s) :
    GoodX q₀ p₀ c₀ (execPerstAssert port s) := by
  unfold execPerstAssert
  try dsimp only
  with_reducible
    repeat' first
      | exact h₀ | assumption | intro _ | apply modPort_good | apply portDown_good | apply GoodX.next | dsimp only
      | split | refine Good.upd ?_

theorem execPerstDeassert_good {q₀ : List Instr} {p₀ : Bool} {c₀ : Option Nat} {s : State} {port : Fin 4}
    (h₀ : Good q₀ p₀ c₀ s) :
    GoodX q₀ p₀ c₀ (execPerstDeassert port s) := by
  unfold execPerstDeassert
  try dsimp only
  with_reducible
    repeat' first
      | exact h₀ | assumption | intro _ | apply modPort_good | apply GoodX.next | dsimp only | split
      | refine Good.upd ?_

theorem execIdeKmKeyProg_good {q₀ : List Instr} {p₀ : Bool} {c₀ : Option Nat} {s : State} {port link : Fin 4}
    {str : IdeStream} {skid : Bool} (h₀ : Good q₀ p₀ c₀ s) :
    GoodX q₀ p₀ c₀ (execIdeKmKeyProg port link str skid s) := by
  unfold execIdeKmKeyProg
  try dsimp only
  with_reducible
    repeat' first
      | exact h₀ | assumption | intro _ | apply emit_good | apply protoOccurrence_good | apply modLink_good
      | apply nextFree_good | apply GoodX.next | apply GoodX.ite | apply Good.ite | dsimp only | split

theorem execIdeIntegrityFailure_good {q₀ : List Instr} {p₀ : Bool} {c₀ : Option Nat} {s : State} {port link : Fin 4}
    {str : IdeStream} (h₀ : Good q₀ p₀ c₀ s) :
    GoodX q₀ p₀ c₀ (execIdeIntegrityFailure port link str s) := by
  unfold execIdeIntegrityFailure
  try dsimp only
  with_reducible
    repeat' first
      | exact h₀ | assumption | intro _ | apply latchEvt_good | apply modLink_good | apply linkEvent_good
      | apply takeLinkDown_good | apply GoodX.next | apply GoodX.ite | apply Good.ite
      | refine Good.of_pair (by assumption) ?_ | dsimp only | split

theorem rasLog_good {q₀ : List Instr} {p₀ : Bool} {c₀ : Option Nat} {s : State} {port link : Fin 4}
    (h₀ : Good q₀ p₀ c₀ s) :
    Good q₀ p₀ c₀ (rasLog s port link) := by
  unfold rasLog
  try dsimp only
  with_reducible
    repeat' first
      | exact h₀ | assumption | intro _ | apply modFn_good | apply modLink_good | apply Good.foldl | dsimp only
      | split | refine Good.upd ?_

theorem execCxlCacheFlit_good {q₀ : List Instr} {p₀ : Bool} {c₀ : Option Nat} {s : State} {port link : Fin 4}
    (h₀ : Good q₀ p₀ c₀ s) :
    GoodX q₀ p₀ c₀ (execCxlCacheFlit port link s) := by
  unfold execCxlCacheFlit
  try dsimp only
  with_reducible
    repeat' first
      | exact h₀ | assumption | intro _ | apply protoOccurrence_good | apply rasLog_good | apply GoodX.next
      | apply GoodX.ite | apply Good.ite | dsimp only | split

theorem execAspmEntryRequest_good {q₀ : List Instr} {p₀ : Bool} {c₀ : Option Nat} {s : State} {port link : Fin 4}
    (h₀ : Good q₀ p₀ c₀ s) :
    GoodX q₀ p₀ c₀ (execAspmEntryRequest port link s) := by
  unfold execAspmEntryRequest
  try dsimp only
  with_reducible
    repeat' first
      | exact h₀ | assumption | intro _ | apply protoOccurrence_good | apply GoodX.next | apply GoodX.ite
      | apply Good.ite | dsimp only | split

end Sys2Proof.Machine
end

