-- ==== Sys2Proof/Laws/GoodReset.lean ====
section
/-! SUPPORT. The operations of Machine/Reset.lean keep the state good (`Good`). -/

set_option linter.unusedTactic false
set_option linter.unreachableTactic false

set_option Elab.async false

namespace Sys2Proof.Machine

open Sys2Proof

theorem burnAtReset_good {q₀ : List Instr} {p₀ : Bool} {c₀ : Option Nat} {s : State}  (h₀ : Good q₀ p₀ c₀ s) :
    Good q₀ p₀ c₀ (burnAtReset s) := by
  unfold burnAtReset
  try dsimp only
  with_reducible
    repeat' first
      | exact h₀ | assumption | intro _ | apply nextFree_good | apply Good.ite
      | refine Good.of_pair (by assumption) ?_ | dsimp only | split | refine Good.upd ?_

theorem foldl_keeps {α β : Type} {P : α → Prop} {g : α → β → α} {l : List β} {a : α} (h : P a)
    (hg : ∀ t x, P t → P (g t x)) : P (l.foldl g a) := by
  induction l generalizing a with
  | nil => exact h
  | cons x l ih => exact ih (hg a x h)

theorem freshDoms_wf (s : State) : tabWf {} (freshDoms s) = true := by
  unfold freshDoms
  refine foldl_keeps (P := fun t : Tab Dom => tabWf {} t = true) (tabWf_nil _) fun t x h => ?_
  dsimp only
  split
  · exact tabWf_set _ _ h
  · exact h

theorem mainReset_good {q₀ : List Instr} {p₀ : Bool} {c₀ : Option Nat} {s : State} {cause : Nat} (h₀ : Good q₀ p₀ c₀ s) :
    Good q₀ p₀ c₀ (mainReset s cause) := by
  have h₁ : Good q₀ p₀ c₀ (burnAtReset { s with sec := { s.sec with last := 0 } }) :=
    burnAtReset_good ⟨{ h₀.toSound with }, h₀.pending, h₀.part, h₀.clock⟩
  unfold mainReset
  dsimp only at h₁ ⊢
  generalize burnAtReset _ = s at h₁ ⊢
  unfold State.reset
  dsimp only
  refine Good.updAll ?_ (hdoms := fun _ => freshDoms_wf s)
  exact h₁

theorem coldReset_good {q₀ : List Instr} {p₀ : Bool} {s : State} {cause : Nat} (h₀ : Good q₀ p₀ none s) :
    Good q₀ p₀ none (coldReset s cause) := by
  have h₁ : Good q₀ p₀ none (mainReset { s with boot := { s.boot with phase := .aonOff } } cause) :=
    mainReset_good ⟨{ h₀.toSound with }, h₀.pending, h₀.part, h₀.clock⟩
  unfold coldReset
  dsimp only at h₁ ⊢
  generalize mainReset _ _ = s at h₁ ⊢
  refine Good.updAll ?_ (hclock := fun _ _ e => nomatch e)
  exact h₁

theorem globalReset_good {q₀ : List Instr} {p₀ : Bool} {c₀ : Option Nat} {s : State}  (h₀ : Good q₀ p₀ c₀ s) :
    Good q₀ p₀ c₀ (globalReset s) := by
  unfold globalReset
  try dsimp only
  with_reducible
    repeat' first
      | exact h₀ | assumption | intro _ | apply mainReset_good | dsimp only | split

theorem supplyReset_good {q₀ : List Instr} {p₀ : Bool} {c₀ : Option Nat} {s : State}  (h₀ : Good q₀ p₀ c₀ s) :
    Good q₀ p₀ c₀ (supplyReset s) := by
  unfold supplyReset
  try dsimp only
  with_reducible
    repeat' first
      | exact h₀ | assumption | intro _ | apply mainReset_good | dsimp only | split | refine Good.upd ?_

theorem abortXfer_good {q₀ : List Instr} {p₀ : Bool} {c₀ : Option Nat} {s : State}  (h₀ : Good q₀ p₀ c₀ s) :
    Good q₀ p₀ c₀ (abortXfer s) := by
  unfold abortXfer
  try dsimp only
  with_reducible
    repeat' first
      | exact h₀ | assumption | intro _ | apply modBank_good | apply bgFinish_good | apply emit_good
      | apply fwEvent_good | apply Good.ite | refine Good.of_pair (by assumption) ?_ | dsimp only | split
      | refine Good.upd ?_

theorem flashPut_flash {l : Log} (e : Event) (h : l.flash.length ≤ 131072) : (flashPut l e).flash.length ≤ 131072 := by
  unfold flashPut
  dsimp only
  rw [List.length_append, List.length_singleton]
  split
  · omega
  · rw [List.length_drop]; omega

theorem foldl_flashPut (es : List Event) (l : Log) (h : l.flash.length ≤ 131072) :
    (es.foldl flashPut l).flash.length ≤ 131072 ∧ (es.foldl flashPut l).ring = l.ring ∧
    (es.foldl flashPut l).queue = l.queue := by
  induction es generalizing l with
  | nil => exact ⟨h, rfl, rfl⟩
  | cons e es ih => exact ih (flashPut l e) (flashPut_flash e h)

theorem drainLog_good {q₀ : List Instr} {p₀ : Bool} {c₀ : Option Nat} {s : State} (h₀ : Good q₀ p₀ c₀ s) : Good q₀ p₀ c₀ (drainLog s) := by
  have h := foldl_flashPut s.log.queue { s.log with queue := [] } h₀.flash
  refine h₀.set_log ?_ ?_ h.1
  · rw [h.2.1]; exact h₀.ring
  · rw [h.2.2]; exact Nat.zero_le _

theorem warmReset_good {q₀ : List Instr} {p₀ : Bool} {c₀ : Option Nat} {s : State} (h₀ : Good q₀ p₀ c₀ s) : Good q₀ p₀ c₀ (warmReset s) := by
  have h₁ := burnAtReset_good (drainLog_good (abortXfer_good h₀))
  unfold warmReset
  dsimp only
  generalize burnAtReset _ = s at h₁ ⊢
  refine Good.updAll ?_
  exact h₁

theorem askWarm_good {q₀ : List Instr} {p₀ : Bool} {c₀ : Option Nat} {s : State}  (h₀ : Good q₀ p₀ c₀ s) :
    Good q₀ p₀ c₀ (askWarm s) := by
  unfold askWarm
  try dsimp only
  with_reducible
    repeat' first
      | exact h₀ | assumption | intro _ | apply warmReset_good | apply Good.ite | dsimp only | split
      | refine Good.upd ?_

theorem bgEnded_good {q₀ : List Instr} {p₀ : Bool} {c₀ : Option Nat} {s : State}  (h₀ : Good q₀ p₀ c₀ s) :
    Good q₀ p₀ c₀ (bgEnded s) := by
  unfold bgEnded
  try dsimp only
  with_reducible
    repeat' first
      | exact h₀ | assumption | intro _ | apply warmReset_good | apply Good.ite | dsimp only | split

theorem execFunctionLevelReset_good {q₀ : List Instr} {p₀ : Bool} {c₀ : Option Nat} {s : State} {f : Fn}
    (h₀ : Good q₀ p₀ c₀ s) :
    GoodX q₀ p₀ c₀ (execFunctionLevelReset f s) := by
  unfold execFunctionLevelReset
  try dsimp only
  with_reducible
    repeat' first
      | exact h₀ | assumption | intro _ | apply fnGate_good | apply modFn_good | apply modLink_good
      | apply linkEvent_good | apply bgEnded_good | apply abortXfer_good | apply GoodX.next | apply GoodX.ite
      | apply Good.ite | dsimp only | split | refine Good.upd ?_

theorem execColdPowerUp_good {q₀ : List Instr} {p₀ : Bool} {s : State}  (h₀ : Good q₀ p₀ none s) :
    GoodX q₀ p₀ none (execColdPowerUp s) := by
  unfold execColdPowerUp
  try dsimp only
  with_reducible
    repeat' first
      | exact h₀ | assumption | intro _ | apply coldReset_good | apply GoodX.next | dsimp only | split
      | refine Good.upd ?_

theorem execBrownout_good {q₀ : List Instr} {p₀ : Bool} {s : State} {src : BoSrc}
    (h₀ : Good q₀ p₀ none s) :
    GoodX q₀ p₀ none (execBrownout src s) := by
  unfold execBrownout
  try dsimp only
  with_reducible
    repeat' first
      | exact h₀ | assumption | intro _ | apply coldReset_good | apply GoodX.next | apply GoodX.ite | apply Good.ite
      | refine Good.of_pair (by assumption) ?_ | dsimp only | split | refine Good.upd ?_

theorem execLdoReady_good {q₀ : List Instr} {p₀ : Bool} {c₀ : Option Nat} {s : State}  (h₀ : Good q₀ p₀ c₀ s) :
    GoodX q₀ p₀ c₀ (execLdoReady s) := by
  unfold execLdoReady
  try dsimp only
  with_reducible
    repeat' first
      | exact h₀ | assumption | intro _ | apply GoodX.next | apply GoodX.ite | apply Good.ite | dsimp only | split
      | refine Good.upd ?_

theorem setPrevMs_good {q₀ : List Instr} {p₀ : Bool} {c₀ : Option Nat} {t : State} {n : Nat} (h₁ : Good q₀ p₀ c₀ t) :
    GoodX q₀ p₀ c₀ (.next { t with boot := { t.boot with prevMs := n } }) :=
  GoodX.next ⟨{ h₁.toSound with }, h₁.pending, h₁.part, h₁.clock⟩

theorem execWakeRecordCopy_good {q₀ : List Instr} {p₀ : Bool} {c₀ : Option Nat} {s : State} (h₀ : Good q₀ p₀ c₀ s) :
    GoodX q₀ p₀ c₀ (execWakeRecordCopy s) := by
  unfold execWakeRecordCopy
  exact setPrevMs_good (advanceTo_good h₀)

theorem execGlobalResetPin_good {q₀ : List Instr} {p₀ : Bool} {c₀ : Option Nat} {s : State}  (h₀ : Good q₀ p₀ c₀ s) :
    GoodX q₀ p₀ c₀ (execGlobalResetPin s) := by
  unfold execGlobalResetPin
  try dsimp only
  with_reducible
    repeat' first
      | exact h₀ | assumption | intro _ | apply globalReset_good | apply GoodX.next | dsimp only | split

theorem putRstCtl_good {q₀ : List Instr} {p₀ : Bool} {c₀ : Option Nat} {s : State} {v : Nat} (h₀ : Good q₀ p₀ c₀ s) :
    Good q₀ p₀ c₀ (putRstCtl s v) := by
  unfold putRstCtl
  try dsimp only
  with_reducible
    repeat' first
      | exact h₀ | assumption | intro _ | apply globalReset_good | apply askWarm_good | apply Good.ite | dsimp only
      | split

theorem execGlobalResetRequest_good {q₀ : List Instr} {p₀ : Bool} {c₀ : Option Nat} {s : State} {by_ : Agent}
    {val : Word} (h₀ : Good q₀ p₀ c₀ s) :
    GoodX q₀ p₀ c₀ (execGlobalResetRequest by_ val s) := by
  unfold execGlobalResetRequest
  try dsimp only
  with_reducible
    repeat' first
      | exact h₀ | assumption | intro _ | apply access_good | apply putRstCtl_good | apply GoodX.next | dsimp only
      | split

theorem execWarmResetRequest_good {q₀ : List Instr} {p₀ : Bool} {c₀ : Option Nat} {s : State} {by_ : Agent}
    {val : Word} (h₀ : Good q₀ p₀ c₀ s) :
    GoodX q₀ p₀ c₀ (execWarmResetRequest by_ val s) := by
  unfold execWarmResetRequest
  try dsimp only
  with_reducible
    repeat' first
      | exact h₀ | assumption | intro _ | apply access_good | apply putRstCtl_good | apply GoodX.next | dsimp only
      | split

theorem execWatchdogExpiry_good {q₀ : List Instr} {p₀ : Bool} {c₀ : Option Nat} {s : State}  (h₀ : Good q₀ p₀ c₀ s) :
    GoodX q₀ p₀ c₀ (execWatchdogExpiry s) := by
  unfold execWatchdogExpiry
  try dsimp only
  with_reducible
    repeat' first
      | exact h₀ | assumption | intro _ | apply advanceTo_good | apply globalReset_good | apply warmReset_good
      | apply GoodX.next | apply GoodX.ite | apply Good.ite | dsimp only | split

theorem putWdt_good {q₀ : List Instr} {p₀ : Bool} {c₀ : Option Nat} {s : State} {v : Nat} (h₀ : Good q₀ p₀ c₀ s) :
    Good q₀ p₀ c₀ (putWdt s v) := by
  unfold putWdt
  try dsimp only
  with_reducible
    repeat' first
      | exact h₀ | assumption | intro _ | apply setReg_good | apply Good.ite | dsimp only | split | refine Good.upd ?_

theorem execWatchdogKick_good {q₀ : List Instr} {p₀ : Bool} {c₀ : Option Nat} {s : State} {by_ : Agent}
    {val : Word} (h₀ : Good q₀ p₀ c₀ s) :
    GoodX q₀ p₀ c₀ (execWatchdogKick by_ val s) := by
  unfold execWatchdogKick
  try dsimp only
  with_reducible
    repeat' first
      | exact h₀ | assumption | intro _ | apply access_good | apply putWdt_good | apply GoodX.next | dsimp only
      | split

theorem execWarmEscalation_good {q₀ : List Instr} {p₀ : Bool} {c₀ : Option Nat} {s : State}  (h₀ : Good q₀ p₀ c₀ s) :
    GoodX q₀ p₀ c₀ (execWarmEscalation s) := by
  unfold execWarmEscalation
  try dsimp only
  with_reducible
    repeat' first
      | exact h₀ | assumption | intro _ | apply globalReset_good | apply advanceTo_good | apply GoodX.next
      | refine Good.of_pair (by assumption) ?_ | dsimp only | split

theorem execRefclkLoss_good {q₀ : List Instr} {p₀ : Bool} {c₀ : Option Nat} {s : State} {r : RefClk}
    (h₀ : Good q₀ p₀ c₀ s) :
    GoodX q₀ p₀ c₀ (execRefclkLoss r s) := by
  unfold execRefclkLoss
  try dsimp only
  with_reducible
    repeat' first
      | exact h₀ | assumption | intro _ | apply portDown_good | apply plyDown_good | apply mainReset_good
      | apply GoodX.next | apply GoodX.ite | apply Good.ite | refine Good.of_pair (by assumption) ?_ | dsimp only
      | split | refine Good.upd ?_

theorem execRefclkReturn_good {q₀ : List Instr} {p₀ : Bool} {c₀ : Option Nat} {s : State} {r : RefClk}
    (h₀ : Good q₀ p₀ c₀ s) :
    GoodX q₀ p₀ c₀ (execRefclkReturn r s) := by
  unfold execRefclkReturn
  try dsimp only
  with_reducible
    repeat' first
      | exact h₀ | assumption | intro _ | apply modPly_good | apply GoodX.next | apply GoodX.ite | apply Good.ite
      | refine Good.of_pair (by assumption) ?_ | dsimp only | split | refine Good.upd ?_

theorem execRailsOkQualified_good {q₀ : List Instr} {p₀ : Bool} {c₀ : Option Nat} {s : State} (h₀ : Good q₀ p₀ c₀ s) :
    GoodX q₀ p₀ c₀ (execRailsOkQualified s) := by
  unfold execRailsOkQualified
  dsimp only
  refine GoodX.ite (GoodX.next ?_) (GoodX.next ⟨{ h₀.toSound with }, h₀.pending, h₀.part, h₀.clock⟩)
  refine Good.updAll ?_ (hdoms := fun _ => freshDoms_wf _)
  exact h₀

theorem ldoLow_good {q₀ : List Instr} {p₀ : Bool} {c₀ : Option Nat} {s : State}  (h₀ : Good q₀ p₀ c₀ s) :
    Good q₀ p₀ c₀ (ldoLow s) := by
  unfold ldoLow
  try dsimp only
  with_reducible
    repeat' first
      | exact h₀ | assumption | intro _ | apply Good.ite | dsimp only | split | refine Good.upd ?_

theorem execRailsOkFall_good {q₀ : List Instr} {p₀ : Bool} {c₀ : Option Nat} {s : State}  (h₀ : Good q₀ p₀ c₀ s) :
    GoodX q₀ p₀ c₀ (execRailsOkFall s) := by
  unfold execRailsOkFall
  try dsimp only
  with_reducible
    repeat' first
      | exact h₀ | assumption | intro _ | apply ldoLow_good | apply mainReset_good | apply GoodX.next
      | apply GoodX.ite | apply Good.ite | dsimp only | split | refine Good.upd ?_

end Sys2Proof.Machine
end

