-- ==== Sys2Proof/Laws/GoodHsw.lean ====
section
/-! SUPPORT. The operations of Machine/Hsw.lean keep the state good (`Good`). -/

set_option linter.unusedTactic false
set_option linter.unreachableTactic false

set_option Elab.async false

namespace Sys2Proof.Machine

open Sys2Proof

theorem dropPg_good {q₀ : List Instr} {p₀ : Bool} {c₀ : Option Nat} {s : State}  (h₀ : Good q₀ p₀ c₀ s) :
    Good q₀ p₀ c₀ (dropPg s) := by
  unfold dropPg
  try dsimp only
  with_reducible
    repeat' first
      | exact h₀ | assumption | intro _ | apply supplyReset_good | apply Good.ite | dsimp only | split
      | refine Good.upd ?_

theorem trip_good {q₀ : List Instr} {p₀ : Bool} {c₀ : Option Nat} {s : State} {cause : Nat} (h₀ : Good q₀ p₀ c₀ s) :
    Good q₀ p₀ c₀ (trip s cause) := by
  unfold trip
  try dsimp only
  with_reducible
    repeat' first
      | exact h₀ | assumption | intro _ | apply bump_good | apply dropPg_good | apply Good.ite | dsimp only | split
      | refine Good.upd ?_

theorem vinLost_good {q₀ : List Instr} {p₀ : Bool} {c₀ : Option Nat} {s : State}  (h₀ : Good q₀ p₀ c₀ s) :
    Good q₀ p₀ c₀ (vinLost s) := by
  unfold vinLost
  try dsimp only
  with_reducible
    repeat' first
      | exact h₀ | assumption | intro _ | apply dropPg_good | dsimp only | split | refine Good.upd ?_

theorem startRamp_good {q₀ : List Instr} {p₀ : Bool} {c₀ : Option Nat} {s : State}  (h₀ : Good q₀ p₀ c₀ s) :
    Good q₀ p₀ c₀ (startRamp s) := by
  unfold startRamp
  try dsimp only
  with_reducible
    repeat' first
      | exact h₀ | assumption | intro _ | dsimp only | split | refine Good.upd ?_

theorem givePower_good {q₀ : List Instr} {p₀ : Bool} {c₀ : Option Nat} {s : State}  (h₀ : Good q₀ p₀ c₀ s) :
    Good q₀ p₀ c₀ (givePower s) := by
  unfold givePower
  try dsimp only
  with_reducible
    repeat' first
      | exact h₀ | assumption | intro _ | apply Good.ite | dsimp only | split | refine Good.upd ?_

theorem execVinQualified_good {q₀ : List Instr} {p₀ : Bool} {c₀ : Option Nat} {s : State}  (h₀ : Good q₀ p₀ c₀ s) :
    GoodX q₀ p₀ c₀ (execVinQualified s) := by
  unfold execVinQualified
  try dsimp only
  with_reducible
    repeat' first
      | exact h₀ | assumption | intro _ | apply advanceTo_good | apply startRamp_good | apply GoodX.next
      | apply GoodX.ite | apply Good.ite | refine Good.of_pair (by assumption) ?_ | dsimp only | split

theorem execVinOutOfWindow_good {q₀ : List Instr} {p₀ : Bool} {c₀ : Option Nat} {s : State}  (h₀ : Good q₀ p₀ c₀ s) :
    GoodX q₀ p₀ c₀ (execVinOutOfWindow s) := by
  unfold execVinOutOfWindow
  try dsimp only
  with_reducible
    repeat' first
      | exact h₀ | assumption | intro _ | apply vinLost_good | apply GoodX.next | apply GoodX.ite | apply Good.ite
      | dsimp only | split | refine Good.upd ?_

theorem sampleDriving_good {q₀ : List Instr} {p₀ : Bool} {c₀ : Option Nat} {s : State} {r : HswRead} {ran : Bool}
    (h₀ : Good q₀ p₀ c₀ s) :
    Good q₀ p₀ c₀ (sampleDriving s r ran) := by
  unfold sampleDriving
  try dsimp only
  with_reducible
    repeat' first
      | exact h₀ | assumption | intro _ | apply vinLost_good | apply trip_good | apply dropPg_good
      | apply givePower_good | apply Good.ite | dsimp only | split | refine Good.upd ?_

theorem execHswSample_good {q₀ : List Instr} {p₀ : Bool} {c₀ : Option Nat} {s : State} {r : HswRead}
    (h₀ : Good q₀ p₀ c₀ s) :
    GoodX q₀ p₀ c₀ (execHswSample r s) := by
  unfold execHswSample
  try dsimp only
  with_reducible
    repeat' first
      | exact h₀ | assumption | intro _ | apply advanceTo_good | apply sampleDriving_good | apply GoodX.next
      | apply GoodX.ite | apply Good.ite | dsimp only | split | refine Good.upd ?_

theorem execFaultTimerExpiry_good {q₀ : List Instr} {p₀ : Bool} {c₀ : Option Nat} {s : State}  (h₀ : Good q₀ p₀ c₀ s) :
    GoodX q₀ p₀ c₀ (execFaultTimerExpiry s) := by
  unfold execFaultTimerExpiry
  try dsimp only
  with_reducible
    repeat' first
      | exact h₀ | assumption | intro _ | apply trip_good | apply advanceBy_good | apply GoodX.next | apply GoodX.ite
      | apply Good.ite | dsimp only | split

theorem execCircuitBreaker_good {q₀ : List Instr} {p₀ : Bool} {c₀ : Option Nat} {s : State}  (h₀ : Good q₀ p₀ c₀ s) :
    GoodX q₀ p₀ c₀ (execCircuitBreaker s) := by
  unfold execCircuitBreaker
  try dsimp only
  with_reducible
    repeat' first
      | exact h₀ | assumption | intro _ | apply trip_good | apply GoodX.next | apply GoodX.ite | apply Good.ite
      | dsimp only | split

theorem execPowerGood_good {q₀ : List Instr} {p₀ : Bool} {c₀ : Option Nat} {s : State}  (h₀ : Good q₀ p₀ c₀ s) :
    GoodX q₀ p₀ c₀ (execPowerGood s) := by
  unfold execPowerGood
  try dsimp only
  with_reducible
    repeat' first
      | exact h₀ | assumption | intro _ | apply givePower_good | apply advanceBy_good | apply GoodX.next
      | apply GoodX.ite | apply Good.ite | dsimp only | split

theorem execCooldownEnd_good {q₀ : List Instr} {p₀ : Bool} {c₀ : Option Nat} {s : State}  (h₀ : Good q₀ p₀ c₀ s) :
    GoodX q₀ p₀ c₀ (execCooldownEnd s) := by
  unfold execCooldownEnd
  try dsimp only
  with_reducible
    repeat' first
      | exact h₀ | assumption | intro _ | apply trip_good | apply advanceTo_good | apply startRamp_good
      | apply GoodX.next | apply GoodX.ite | apply Good.ite | dsimp only | split | refine Good.upd ?_

theorem execTriesReset_good {q₀ : List Instr} {p₀ : Bool} {c₀ : Option Nat} {s : State}  (h₀ : Good q₀ p₀ c₀ s) :
    GoodX q₀ p₀ c₀ (execTriesReset s) := by
  unfold execTriesReset
  try dsimp only
  with_reducible
    repeat' first
      | exact h₀ | assumption | intro _ | apply advanceTo_good | apply GoodX.next | apply GoodX.ite | apply Good.ite
      | dsimp only | split | refine Good.upd ?_

end Sys2Proof.Machine
end

