-- ==== Sys2Proof/Laws/GoodCci.lean ====
section
/-! SUPPORT. The operations of Machine/Cci.lean keep the state good (`Good`). -/

set_option linter.unusedTactic false
set_option linter.unreachableTactic false

set_option Elab.async false

namespace Sys2Proof.Machine

open Sys2Proof

theorem notAdmin_good {q₀ : List Instr} {p₀ : Bool} {c₀ : Option Nat} {s : State} {c : Cci} {op : Nat}
    (h₀ : Good q₀ p₀ c₀ s) :
    Good q₀ p₀ c₀ (notAdmin s c op) := by
  unfold notAdmin
  try dsimp only
  with_reducible
    repeat' first
      | exact h₀ | assumption | intro _ | apply logUncoded_good | apply cciAnswer_good | dsimp only | split

theorem cciRun_good {q₀ : List Instr} {p₀ : Bool} {c₀ : Option Nat} {s : State} {c : Cci} {row : Instr} {op : Nat}
    {admin : Bool} {f : State → State} (h₀ : Good q₀ p₀ c₀ s) (hf : ∀ t, Good q₀ p₀ c₀ t → Good q₀ p₀ c₀ (f t)) :
    Good q₀ p₀ c₀ (cciRun s c row op admin f) := by
  unfold cciRun
  try dsimp only
  with_reducible
    repeat' first
      | exact h₀ | assumption | intro _ | apply hf | apply cciAnswer_good | apply holdFor_good | apply notAdmin_good
      | apply unIdle_good | apply fnGate_good | apply Good.ite | refine Good.of_pair (by assumption) ?_ | dsimp only
      | split

theorem cciSimple_good {q₀ : List Instr} {p₀ : Bool} {c₀ : Option Nat} {s : State} {c : Cci} {row : Instr}
    {op : Nat} {body : State → Contents} (h₀ : Good q₀ p₀ c₀ s) :
    Good q₀ p₀ c₀ (cciSimple s c row op body) := by
  unfold cciSimple
  try dsimp only
  with_reducible
    repeat' first
      | exact h₀ | assumption | intro _ | apply cciRun_good | apply cciAnswer_good | dsimp only | split

theorem execMailboxUnsupportedOpcode_good {q₀ : List Instr} {p₀ : Bool} {c₀ : Option Nat} {s : State} {c : Cci}
    {opcode : Nat} (h₀ : Good q₀ p₀ c₀ s) :
    GoodX q₀ p₀ c₀ (execMailboxUnsupportedOpcode c opcode s) := by
  unfold execMailboxUnsupportedOpcode
  try dsimp only
  with_reducible
    repeat' first
      | exact h₀ | assumption | intro _ | apply cciRun_good | apply cciAnswer_good | apply GoodX.next
      | apply GoodX.ite | apply Good.ite | dsimp only | split

theorem execGetEventRecords_good {q₀ : List Instr} {p₀ : Bool} {c₀ : Option Nat} {s : State} {c : Cci}
    (h₀ : Good q₀ p₀ c₀ s) :
    GoodX q₀ p₀ c₀ (execGetEventRecords c s) := by
  unfold execGetEventRecords
  try dsimp only
  with_reducible
    repeat' first
      | exact h₀ | assumption | intro _ | apply cciRun_good | apply cciAnswer_good | apply GoodX.next
      | apply GoodX.ite | apply Good.ite | dsimp only | split | refine Good.upd ?_

theorem execClearEventRecords_good {q₀ : List Instr} {p₀ : Bool} {c₀ : Option Nat} {s : State} {c : Cci}
    {handles : List Nat} (h₀ : Good q₀ p₀ c₀ s) :
    GoodX q₀ p₀ c₀ (execClearEventRecords c handles s) := by
  unfold execClearEventRecords
  try dsimp only
  with_reducible
    repeat' first
      | exact h₀ | assumption | intro _ | apply cciRun_good | apply cciAnswer_good | apply modFn_good
      | apply GoodX.next | apply GoodX.ite | apply Good.ite | dsimp only | split | refine Good.upd ?_

theorem execGetEventInterruptPolicy_good {q₀ : List Instr} {p₀ : Bool} {c₀ : Option Nat} {s : State} {c : Cci}
    (h₀ : Good q₀ p₀ c₀ s) :
    GoodX q₀ p₀ c₀ (execGetEventInterruptPolicy c s) := by
  unfold execGetEventInterruptPolicy
  try dsimp only
  with_reducible
    repeat' first
      | exact h₀ | assumption | intro _ | apply cciSimple_good | apply GoodX.next | dsimp only | split

theorem execSetEventInterruptPolicy_good {q₀ : List Instr} {p₀ : Bool} {c₀ : Option Nat} {s : State} {c : Cci}
    {policy : Nat} (h₀ : Good q₀ p₀ c₀ s) :
    GoodX q₀ p₀ c₀ (execSetEventInterruptPolicy c policy s) := by
  unfold execSetEventInterruptPolicy
  try dsimp only
  with_reducible
    repeat' first
      | exact h₀ | assumption | intro _ | apply cciRun_good | apply cciAnswer_good | apply modFn_good
      | apply GoodX.next | dsimp only | split | refine Good.upd ?_

theorem execGetFwInfo_good {q₀ : List Instr} {p₀ : Bool} {c₀ : Option Nat} {s : State} {c : Cci}
    (h₀ : Good q₀ p₀ c₀ s) :
    GoodX q₀ p₀ c₀ (execGetFwInfo c s) := by
  unfold execGetFwInfo
  try dsimp only
  with_reducible
    repeat' first
      | exact h₀ | assumption | intro _ | apply cciSimple_good | apply GoodX.next
      | refine Good.of_pair (by assumption) ?_ | dsimp only | split

theorem startXfer_good {q₀ : List Instr} {p₀ : Bool} {c₀ : Option Nat} {s : State} {by_ : Option Cci}
    {data : List Byte} (h₀ : Good q₀ p₀ c₀ s) :
    Good q₀ p₀ c₀ (startXfer s by_ data) := by
  unfold startXfer
  try dsimp only
  with_reducible
    repeat' first
      | exact h₀ | assumption | intro _ | apply modBank_good | dsimp only | split | refine Good.upd ?_

theorem execTransferFw_good {q₀ : List Instr} {p₀ : Bool} {c₀ : Option Nat} {s : State} {c : Cci}
    {container : List Byte} (h₀ : Good q₀ p₀ c₀ s) :
    GoodX q₀ p₀ c₀ (execTransferFw c container s) := by
  unfold execTransferFw
  try dsimp only
  with_reducible
    repeat' first
      | exact h₀ | assumption | intro _ | apply cciRun_good | apply cciAnswer_good | apply bgStart_good
      | apply startXfer_good | apply GoodX.next | apply GoodX.ite | apply Good.ite | dsimp only | split

theorem execFlashPageProgram_good {q₀ : List Instr} {p₀ : Bool} {c₀ : Option Nat} {s : State}  (h₀ : Good q₀ p₀ c₀ s) :
    GoodX q₀ p₀ c₀ (execFlashPageProgram s) := by
  unfold execFlashPageProgram
  try dsimp only
  with_reducible
    repeat' first
      | exact h₀ | assumption | intro _ | apply modBank_good | apply GoodX.next | apply GoodX.ite | apply Good.ite
      | refine Good.of_pair (by assumption) ?_ | dsimp only | split | refine Good.upd ?_

theorem execTransferFwComplete_good {q₀ : List Instr} {p₀ : Bool} {c₀ : Option Nat} {s : State} 
    (h₀ : Good q₀ p₀ c₀ s) :
    GoodX q₀ p₀ c₀ (execTransferFwComplete s) := by
  unfold execTransferFwComplete
  try dsimp only
  with_reducible
    repeat' first
      | exact h₀ | assumption | intro _ | apply modBank_good | apply bgFinish_good | apply emit_good
      | apply bgEnded_good | apply fwEvent_good | apply GoodX.next | apply GoodX.ite | apply Good.ite
      | refine Good.of_pair (by assumption) ?_ | dsimp only | split | refine Good.upd ?_

theorem armPending_good {q₀ : List Instr} {p₀ : Bool} {c₀ : Option Nat} {s : State}  (h₀ : Good q₀ p₀ c₀ s) :
    Good q₀ p₀ c₀ (armPending s).1 := by
  unfold armPending
  try dsimp only
  with_reducible
    repeat' first
      | exact h₀ | assumption | intro _ | apply fwEvent_good | apply modBank_good | apply Good.ite_fst
      | apply Good.ite | dsimp only | split | refine Good.upd ?_

theorem execActivateFw_good {q₀ : List Instr} {p₀ : Bool} {c₀ : Option Nat} {s : State} {c : Cci}
    (h₀ : Good q₀ p₀ c₀ s) :
    GoodX q₀ p₀ c₀ (execActivateFw c s) := by
  unfold execActivateFw
  try dsimp only
  with_reducible
    repeat' first
      | exact h₀ | assumption | intro _ | apply cciRun_good | apply armPending_good | apply cciAnswer_good
      | apply GoodX.next | apply GoodX.ite | apply Good.ite_fst | apply Good.ite
      | refine Good.of_pair (by assumption) ?_ | dsimp only | split

theorem execGetTimestamp_good {q₀ : List Instr} {p₀ : Bool} {c₀ : Option Nat} {s : State} {c : Cci}
    (h₀ : Good q₀ p₀ c₀ s) :
    GoodX q₀ p₀ c₀ (execGetTimestamp c s) := by
  unfold execGetTimestamp
  try dsimp only
  with_reducible
    repeat' first
      | exact h₀ | assumption | intro _ | apply cciSimple_good | apply GoodX.next | dsimp only | split

theorem execSetTimestamp_good {q₀ : List Instr} {p₀ : Bool} {c₀ : Option Nat} {s : State} {c : Cci} {value : Nat}
    (h₀ : Good q₀ p₀ c₀ s) :
    GoodX q₀ p₀ c₀ (execSetTimestamp c value s) := by
  unfold execSetTimestamp
  try dsimp only
  with_reducible
    repeat' first
      | exact h₀ | assumption | intro _ | apply cciRun_good | apply logEvFor_good | apply cciAnswer_good
      | apply GoodX.next | dsimp only | split | refine Good.upd ?_

theorem execGetSupportedLogs_good {q₀ : List Instr} {p₀ : Bool} {c₀ : Option Nat} {s : State} {c : Cci}
    (h₀ : Good q₀ p₀ c₀ s) :
    GoodX q₀ p₀ c₀ (execGetSupportedLogs c s) := by
  unfold execGetSupportedLogs
  try dsimp only
  with_reducible
    repeat' first
      | exact h₀ | assumption | intro _ | apply cciSimple_good | apply GoodX.next | dsimp only | split

theorem execGetLog_good {q₀ : List Instr} {p₀ : Bool} {c₀ : Option Nat} {s : State} {c : Cci} {log : LogId}
    (h₀ : Good q₀ p₀ c₀ s) :
    GoodX q₀ p₀ c₀ (execGetLog c log s) := by
  unfold execGetLog
  try dsimp only
  with_reducible
    repeat' first
      | exact h₀ | assumption | intro _ | apply cciRun_good | apply cciAnswer_good | apply GoodX.next
      | apply GoodX.ite | apply Good.ite | refine Good.of_pair (by assumption) ?_ | dsimp only | split

theorem execIdentifyMemoryDevice_good {q₀ : List Instr} {p₀ : Bool} {c₀ : Option Nat} {s : State} {c : Cci}
    (h₀ : Good q₀ p₀ c₀ s) :
    GoodX q₀ p₀ c₀ (execIdentifyMemoryDevice c s) := by
  unfold execIdentifyMemoryDevice
  try dsimp only
  with_reducible
    repeat' first
      | exact h₀ | assumption | intro _ | apply cciSimple_good | apply GoodX.next | apply GoodX.ite | apply Good.ite
      | dsimp only | split

theorem execGetPoisonList_good {q₀ : List Instr} {p₀ : Bool} {c₀ : Option Nat} {s : State} {c : Cci}
    (h₀ : Good q₀ p₀ c₀ s) :
    GoodX q₀ p₀ c₀ (execGetPoisonList c s) := by
  unfold execGetPoisonList
  try dsimp only
  with_reducible
    repeat' first
      | exact h₀ | assumption | intro _ | apply cciSimple_good | apply GoodX.next | dsimp only | split

theorem execInjectPoison_good {q₀ : List Instr} {p₀ : Bool} {c₀ : Option Nat} {s : State} {c : Cci} {dla : Nat}
    (h₀ : Good q₀ p₀ c₀ s) :
    GoodX q₀ p₀ c₀ (execInjectPoison c dla s) := by
  unfold execInjectPoison
  try dsimp only
  with_reducible
    repeat' first
      | exact h₀ | assumption | intro _ | apply cciRun_good | apply cciAnswer_good | apply resume_good
      | apply poisonDla_good | apply GoodX.next | refine Good.of_pair (by assumption) ?_ | dsimp only | split

theorem execClearPoison_good {q₀ : List Instr} {p₀ : Bool} {c₀ : Option Nat} {s : State} {c : Cci} {dla : Nat}
    (h₀ : Good q₀ p₀ c₀ s) :
    GoodX q₀ p₀ c₀ (execClearPoison c dla s) := by
  unfold execClearPoison
  try dsimp only
  with_reducible
    repeat' first
      | exact h₀ | assumption | intro _ | apply cciRun_good | apply cciAnswer_good | apply agentPrepare_good
      | apply agentOpen_good | apply agentPut_good | apply agentClose_good | apply resume_good
      | apply plDropRange_good | apply GoodX.next | apply GoodX.ite | apply Good.ite_fst | apply Good.ite
      | refine Good.of_pair (by assumption) ?_ | dsimp only | split

theorem execScanMediaCapabilities_good {q₀ : List Instr} {p₀ : Bool} {c₀ : Option Nat} {s : State} {c : Cci}
    (h₀ : Good q₀ p₀ c₀ s) :
    GoodX q₀ p₀ c₀ (execScanMediaCapabilities c s) := by
  unfold execScanMediaCapabilities
  try dsimp only
  with_reducible
    repeat' first
      | exact h₀ | assumption | intro _ | apply cciSimple_good | apply GoodX.next | dsimp only | split

theorem execScanMediaStart_good {q₀ : List Instr} {p₀ : Bool} {c₀ : Option Nat} {s : State} {c : Cci}
    {dla len : Nat} {whole : Bool} (h₀ : Good q₀ p₀ c₀ s) :
    GoodX q₀ p₀ c₀ (execScanMediaStart c dla len whole s) := by
  unfold execScanMediaStart
  try dsimp only
  with_reducible
    repeat' first
      | exact h₀ | assumption | intro _ | apply cciRun_good | apply cciAnswer_good | apply bgStart_good
      | apply startPass_good | apply GoodX.next | apply GoodX.ite | apply Good.ite
      | refine Good.of_pair (by assumption) ?_ | dsimp only | split

theorem execScanMediaResults_good {q₀ : List Instr} {p₀ : Bool} {c₀ : Option Nat} {s : State} {c : Cci}
    (h₀ : Good q₀ p₀ c₀ s) :
    GoodX q₀ p₀ c₀ (execScanMediaResults c s) := by
  unfold execScanMediaResults
  try dsimp only
  with_reducible
    repeat' first
      | exact h₀ | assumption | intro _ | apply cciSimple_good | apply GoodX.next
      | refine Good.of_pair (by assumption) ?_ | dsimp only | split

theorem allOffline_good {q₀ : List Instr} {p₀ : Bool} {c₀ : Option Nat} {s : State}  (h₀ : Good q₀ p₀ c₀ s) :
    Good q₀ p₀ c₀ (allOffline s) := by
  unfold allOffline
  try dsimp only
  with_reducible
    repeat' first
      | exact h₀ | assumption | intro _ | apply stopWalk_good | apply disableWindow_good | apply Good.foldl
      | apply Good.foldl_fst | dsimp only | split

theorem destroyKeys_good {q₀ : List Instr} {p₀ : Bool} {c₀ : Option Nat} {s : State}  (h₀ : Good q₀ p₀ c₀ s) :
    Good q₀ p₀ c₀ (destroyKeys s) := by
  unfold destroyKeys
  try dsimp only
  with_reducible
    repeat' first
      | exact h₀ | assumption | intro _ | apply modWin_good | apply dropWindow_good | apply resumeImage_good
      | apply drawMeta_good | apply zeroKeys_good | apply Good.foldl | apply Good.foldl_fst | dsimp only | split
      | refine Good.upd ?_

theorem unlocked_good {q₀ : List Instr} {p₀ : Bool} {c₀ : Option Nat} {s : State} {r : LcRun} (h₀ : Good q₀ p₀ c₀ s) :
    Good q₀ p₀ c₀ (unlocked s r) := by
  unfold unlocked
  try dsimp only
  with_reducible
    repeat' first
      | exact h₀ | assumption | intro _ | apply bgFinish_good | apply logUncoded_good | dsimp only | split
      | refine Good.upd ?_

theorem offlineDone_good {q₀ : List Instr} {p₀ : Bool} {c₀ : Option Nat} {s : State}  (h₀ : Good q₀ p₀ c₀ s) :
    Good q₀ p₀ c₀ (offlineDone s) := by
  unfold offlineDone
  try dsimp only
  with_reducible
    repeat' first
      | exact h₀ | assumption | intro _ | apply destroyKeys_good | apply bgEnded_good | apply cciAnswer_good
      | apply unlocked_good | apply Good.ite | refine Good.of_pair (by assumption) ?_ | dsimp only | split
      | refine Good.upd ?_

theorem execWindowDrainComplete_good {q₀ : List Instr} {p₀ : Bool} {c₀ : Option Nat} {s : State} {win : Fin 4096}
    (h₀ : Good q₀ p₀ c₀ s) :
    GoodX q₀ p₀ c₀ (execWindowDrainComplete win s) := by
  unfold execWindowDrainComplete
  try dsimp only
  with_reducible
    repeat' first
      | exact h₀ | assumption | intro _ | apply offlineDone_good | apply modWin_good | apply winEvent_good
      | apply enableWindow_good | apply sendHandover_good | apply GoodX.next | apply GoodX.ite | apply Good.ite
      | refine Good.of_pair (by assumption) ?_ | dsimp only | split | refine Good.upd ?_

theorem execSanitize_good {q₀ : List Instr} {p₀ : Bool} {c₀ : Option Nat} {s : State} {c : Cci} (h₀ : Good q₀ p₀ c₀ s) :
    GoodX q₀ p₀ c₀ (execSanitize c s) := by
  unfold execSanitize
  try dsimp only
  with_reducible
    repeat' first
      | exact h₀ | assumption | intro _ | apply cciRun_good | apply cciAnswer_good | apply bgStart_good
      | apply resume_good | apply offlineDone_good | apply allOffline_good | apply GoodX.next | apply GoodX.ite
      | apply Good.ite | dsimp only | split | refine Good.upd ?_

theorem overwriteDram_good {q₀ : List Instr} {p₀ : Bool} {c₀ : Option Nat} {s : State}  (h₀ : Good q₀ p₀ c₀ s) :
    Good q₀ p₀ c₀ (overwriteDram s) := by
  unfold overwriteDram
  try dsimp only
  with_reducible
    repeat' first
      | exact h₀ | assumption | intro _ | dsimp only | split | refine Good.updAll ?_ | refine Good.upd ?_

theorem execSanitizeComplete_good {q₀ : List Instr} {p₀ : Bool} {c₀ : Option Nat} {s : State}  (h₀ : Good q₀ p₀ c₀ s) :
    GoodX q₀ p₀ c₀ (execSanitizeComplete s) := by
  unfold execSanitizeComplete
  try dsimp only
  with_reducible
    repeat' first
      | exact h₀ | assumption | intro _ | apply overwriteDram_good | apply bgEnded_good | apply bgFinish_good
      | apply GoodX.next | refine Good.of_pair (by assumption) ?_ | dsimp only | split | refine Good.upd ?_

theorem execSecureErase_good {q₀ : List Instr} {p₀ : Bool} {c₀ : Option Nat} {s : State} {c : Cci}
    (h₀ : Good q₀ p₀ c₀ s) :
    GoodX q₀ p₀ c₀ (execSecureErase c s) := by
  unfold execSecureErase
  try dsimp only
  with_reducible
    repeat' first
      | exact h₀ | assumption | intro _ | apply cciRun_good | apply cciAnswer_good | apply resume_good
      | apply offlineDone_good | apply allOffline_good | apply GoodX.next | apply GoodX.ite | apply Good.ite
      | dsimp only | split | refine Good.upd ?_

theorem execGetDcConfig_good {q₀ : List Instr} {p₀ : Bool} {c₀ : Option Nat} {s : State} {c : Cci}
    (h₀ : Good q₀ p₀ c₀ s) :
    GoodX q₀ p₀ c₀ (execGetDcConfig c s) := by
  unfold execGetDcConfig
  try dsimp only
  with_reducible
    repeat' first
      | exact h₀ | assumption | intro _ | apply cciSimple_good | apply GoodX.next | dsimp only | split

theorem execGetDcExtentList_good {q₀ : List Instr} {p₀ : Bool} {c₀ : Option Nat} {s : State} {c : Cci}
    (h₀ : Good q₀ p₀ c₀ s) :
    GoodX q₀ p₀ c₀ (execGetDcExtentList c s) := by
  unfold execGetDcExtentList
  try dsimp only
  with_reducible
    repeat' first
      | exact h₀ | assumption | intro _ | apply cciSimple_good | apply GoodX.next | dsimp only | split

theorem execAddDcResponse_good {q₀ : List Instr} {p₀ : Bool} {c₀ : Option Nat} {s : State} {c : Cci}
    {win : Fin 4096} {accepted : List Extent} (h₀ : Good q₀ p₀ c₀ s) :
    GoodX q₀ p₀ c₀ (execAddDcResponse c win accepted s) := by
  unfold execAddDcResponse
  try dsimp only
  with_reducible
    repeat' first
      | exact h₀ | assumption | intro _ | apply cciRun_good | apply cciAnswer_good | apply freeBlocks_good
      | apply blocksOnline_good | apply setBlocks_good | apply resume_good | apply GoodX.next | apply GoodX.ite
      | apply Good.ite_fst | apply Good.ite | refine Good.of_pair (by assumption) ?_ | dsimp only | split
      | refine Good.upd ?_

theorem execReleaseDc_good {q₀ : List Instr} {p₀ : Bool} {c₀ : Option Nat} {s : State} {c : Cci} {win : Fin 4096}
    {exts : List Extent} (h₀ : Good q₀ p₀ c₀ s) :
    GoodX q₀ p₀ c₀ (execReleaseDc c win exts s) := by
  unfold execReleaseDc
  try dsimp only
  with_reducible
    repeat' first
      | exact h₀ | assumption | intro _ | apply cciRun_good | apply cciAnswer_good | apply resume_good
      | apply startRelease_good | apply GoodX.next | apply GoodX.ite | apply Good.ite
      | refine Good.of_pair (by assumption) ?_ | dsimp only | split

end Sys2Proof.Machine
end

