-- ==== Sys2Proof/Laws/GoodMgmt.lean ====
section
/-! SUPPORT. The operations of Machine/Mgmt.lean keep the state good (`Good`). -/

set_option linter.unusedTactic false
set_option linter.unreachableTactic false

set_option Elab.async false

namespace Sys2Proof.Machine

open Sys2Proof

theorem sensorEvent_good {q₀ : List Instr} {p₀ : Bool} {c₀ : Option Nat} {s : State} {sev n : Nat} {reading : Int}
    (h₀ : Good q₀ p₀ c₀ s) :
    Good q₀ p₀ c₀ (sensorEvent s sev n reading) := by
  unfold sensorEvent
  try dsimp only
  with_reducible
    repeat' first
      | exact h₀ | assumption | intro _ | apply logEv_good | dsimp only | split

theorem checkTemp_good {q₀ : List Instr} {p₀ : Bool} {c₀ : Option Nat} {s : State} {n : Nat} {t : Int} {c sev : Nat}
    {over_ : List Nat} (h₀ : Good q₀ p₀ c₀ s) :
    Good q₀ p₀ c₀ (checkTemp s n t c sev over_).1 := by
  unfold checkTemp
  try dsimp only
  with_reducible
    repeat' first
      | exact h₀ | assumption | intro _ | apply sensorEvent_good | apply Good.ite_fst | apply Good.ite | dsimp only
      | split

theorem checkSensor_good {q₀ : List Instr} {p₀ : Bool} {c₀ : Option Nat} {s : State} {t : List Int} {n : Nat}
    (h₀ : Good q₀ p₀ c₀ s) :
    Good q₀ p₀ c₀ (checkSensor t s n) := by
  unfold checkSensor
  try dsimp only
  with_reducible
    repeat' first
      | exact h₀ | assumption | intro _ | apply checkTemp_good | refine Good.of_pair (by assumption) ?_ | dsimp only
      | split | refine Good.upd ?_

theorem checkTrip_good {q₀ : List Instr} {p₀ : Bool} {c₀ : Option Nat} {s : State} {t : List Int}
    (h₀ : Good q₀ p₀ c₀ s) :
    Good q₀ p₀ c₀ (checkTrip s t) := by
  unfold checkTrip
  try dsimp only
  with_reducible
    repeat' first
      | exact h₀ | assumption | intro _ | apply trip_good | apply sensorEvent_good | apply Good.ite
      | refine Good.of_pair (by assumption) ?_ | dsimp only | split | refine Good.upd ?_

theorem checkRail_good {q₀ : List Instr} {p₀ : Bool} {c₀ : Option Nat} {s : State} {v : List Nat} {m : Nat}
    (h₀ : Good q₀ p₀ c₀ s) :
    Good q₀ p₀ c₀ (checkRail v s m) := by
  unfold checkRail
  try dsimp only
  with_reducible
    repeat' first
      | exact h₀ | assumption | intro _ | apply sensorEvent_good | apply Good.ite | dsimp only | split
      | refine Good.upd ?_

theorem execSensorScan_good {q₀ : List Instr} {p₀ : Bool} {c₀ : Option Nat} {s : State} {r : Scan}
    (h₀ : Good q₀ p₀ c₀ s) :
    GoodX q₀ p₀ c₀ (execSensorScan r s) := by
  unfold execSensorScan
  refine GoodX.ite (GoodX.next h₀) ?_
  extract_lets s₁ temps rails m₂ s₂ m₃ s₃ s₄
  have h₂ : Good q₀ p₀ c₀ s₂ :=
    checkTrip_good (Good.upd (Good.ite (advanceTo_good h₀) h₀))
  refine GoodX.ite (GoodX.next h₂) ?_
  have h₃ : Good q₀ p₀ c₀ s₃ := Good.upd h₂
  have h₄ : Good q₀ p₀ c₀ s₄ := Good.foldl h₃ fun _ _ h => checkSensor_good h
  exact GoodX.next (Good.foldl h₄ fun _ _ h => checkRail_good h)

theorem startCal_good {q₀ : List Instr} {p₀ : Bool} {c₀ : Option Nat} {s : State}  (h₀ : Good q₀ p₀ c₀ s) :
    Good q₀ p₀ c₀ (startCal s) := by
  unfold startCal
  try dsimp only
  with_reducible
    repeat' first
      | exact h₀ | assumption | intro _ | apply Good.ite | dsimp only | split | refine Good.upd ?_

theorem putCal_good {q₀ : List Instr} {p₀ : Bool} {c₀ : Option Nat} {s : State} {v : Nat} (h₀ : Good q₀ p₀ c₀ s) :
    Good q₀ p₀ c₀ (putCal s v) := by
  unfold putCal
  try dsimp only
  with_reducible
    repeat' first
      | exact h₀ | assumption | intro _ | apply setReg_good | apply startCal_good | apply Good.ite | dsimp only
      | split

theorem execCalibrationStart_good {q₀ : List Instr} {p₀ : Bool} {c₀ : Option Nat} {s : State} {by_ : Agent}
    {val : Word} (h₀ : Good q₀ p₀ c₀ s) :
    GoodX q₀ p₀ c₀ (execCalibrationStart by_ val s) := by
  unfold execCalibrationStart
  try dsimp only
  with_reducible
    repeat' first
      | exact h₀ | assumption | intro _ | apply access_good | apply putCal_good | apply GoodX.next | dsimp only
      | split

theorem execCalibrationPeriodTimer_good {q₀ : List Instr} {p₀ : Bool} {c₀ : Option Nat} {s : State} 
    (h₀ : Good q₀ p₀ c₀ s) :
    GoodX q₀ p₀ c₀ (execCalibrationPeriodTimer s) := by
  unfold execCalibrationPeriodTimer
  try dsimp only
  with_reducible
    repeat' first
      | exact h₀ | assumption | intro _ | apply startCal_good | apply advanceTo_good | apply GoodX.next
      | apply GoodX.ite | apply Good.ite | dsimp only | split

theorem execCalibrationComplete_good {q₀ : List Instr} {p₀ : Bool} {c₀ : Option Nat} {s : State}
    {steps : List Bool} (h₀ : Good q₀ p₀ c₀ s) :
    GoodX q₀ p₀ c₀ (execCalibrationComplete steps s) := by
  unfold execCalibrationComplete
  try dsimp only
  with_reducible
    repeat' first
      | exact h₀ | assumption | intro _ | apply logEv_good | apply GoodX.next | apply GoodX.ite | apply Good.ite
      | apply Good.foldl | dsimp only | split | refine Good.upd ?_

theorem execPersistentLogWrite_good {q₀ : List Instr} {p₀ : Bool} {c₀ : Option Nat} {s : State} (h₀ : Good q₀ p₀ c₀ s) :
    GoodX q₀ p₀ c₀ (execPersistentLogWrite s) := by
  unfold execPersistentLogWrite
  repeat' split
  all_goals first
    | exact GoodX.next h₀
    | refine GoodX.next (h₀.set_log h₀.ring ?_ (flashPut_flash _ h₀.flash))
  rename_i heq
  have := h₀.queue
  rw [heq, List.length_cons] at this
  exact Nat.le_of_succ_le this

theorem mctpRun_good {q₀ : List Instr} {p₀ : Bool} {c₀ : Option Nat} {s : State} {row : Instr} {f : State → State}
    (h₀ : Good q₀ p₀ c₀ s) (hf : ∀ t, Good q₀ p₀ c₀ t → Good q₀ p₀ c₀ (f t)) :
    Good q₀ p₀ c₀ (mctpRun s row f) := by
  unfold mctpRun
  try dsimp only
  with_reducible
    repeat' first
      | exact h₀ | assumption | intro _ | apply hf | apply holdFor_good | apply unIdle_good | apply Good.ite
      | dsimp only | split

theorem execI3cAddressAssign_good {q₀ : List Instr} {p₀ : Bool} {c₀ : Option Nat} {s : State}  (h₀ : Good q₀ p₀ c₀ s) :
    GoodX q₀ p₀ c₀ (execI3cAddressAssign s) := by
  unfold execI3cAddressAssign
  try dsimp only
  with_reducible
    repeat' first
      | exact h₀ | assumption | intro _ | apply GoodX.next | apply GoodX.ite | apply Good.ite | dsimp only | split
      | refine Good.upd ?_

theorem execSetEndpointId_good {q₀ : List Instr} {p₀ : Bool} {c₀ : Option Nat} {s : State} {eid : Byte}
    (h₀ : Good q₀ p₀ c₀ s) :
    GoodX q₀ p₀ c₀ (execSetEndpointId eid s) := by
  unfold execSetEndpointId
  try dsimp only
  with_reducible
    repeat' first
      | exact h₀ | assumption | intro _ | apply mctpRun_good | apply emit_good | apply GoodX.next | dsimp only | split
      | refine Good.upd ?_

theorem execGetEndpointId_good {q₀ : List Instr} {p₀ : Bool} {c₀ : Option Nat} {s : State}  (h₀ : Good q₀ p₀ c₀ s) :
    GoodX q₀ p₀ c₀ (execGetEndpointId s) := by
  unfold execGetEndpointId
  try dsimp only
  with_reducible
    repeat' first
      | exact h₀ | assumption | intro _ | apply mctpRun_good | apply emit_good | apply GoodX.next | dsimp only | split

theorem execMctpGetVersion_good {q₀ : List Instr} {p₀ : Bool} {c₀ : Option Nat} {s : State}  (h₀ : Good q₀ p₀ c₀ s) :
    GoodX q₀ p₀ c₀ (execMctpGetVersion s) := by
  unfold execMctpGetVersion
  try dsimp only
  with_reducible
    repeat' first
      | exact h₀ | assumption | intro _ | apply mctpRun_good | apply emit_good | apply nextFree_good
      | apply GoodX.next | dsimp only | split

theorem execGetMessageTypeSupport_good {q₀ : List Instr} {p₀ : Bool} {c₀ : Option Nat} {s : State} 
    (h₀ : Good q₀ p₀ c₀ s) :
    GoodX q₀ p₀ c₀ (execGetMessageTypeSupport s) := by
  unfold execGetMessageTypeSupport
  try dsimp only
  with_reducible
    repeat' first
      | exact h₀ | assumption | intro _ | apply mctpRun_good | apply emit_good | apply GoodX.next | dsimp only | split

theorem execMctpUnsupportedType_good {q₀ : List Instr} {p₀ : Bool} {c₀ : Option Nat} {s : State} {_ty : Nat}
    (h₀ : Good q₀ p₀ c₀ s) :
    GoodX q₀ p₀ c₀ (execMctpUnsupportedType _ty s) := by
  unfold execMctpUnsupportedType
  try dsimp only
  with_reducible
    repeat' first
      | exact h₀ | assumption | intro _ | apply GoodX.next | dsimp only | split

theorem execPldmFirmwareUpdate_good {q₀ : List Instr} {p₀ : Bool} {c₀ : Option Nat} {s : State}
    {container : List Byte} (h₀ : Good q₀ p₀ c₀ s) :
    GoodX q₀ p₀ c₀ (execPldmFirmwareUpdate container s) := by
  unfold execPldmFirmwareUpdate
  try dsimp only
  with_reducible
    repeat' first
      | exact h₀ | assumption | intro _ | apply mctpRun_good | apply emit_good | apply startXfer_good
      | apply GoodX.next | apply GoodX.ite | apply Good.ite | dsimp only | split

theorem execPldmActivateFirmware_good {q₀ : List Instr} {p₀ : Bool} {c₀ : Option Nat} {s : State} 
    (h₀ : Good q₀ p₀ c₀ s) :
    GoodX q₀ p₀ c₀ (execPldmActivateFirmware s) := by
  unfold execPldmActivateFirmware
  try dsimp only
  with_reducible
    repeat' first
      | exact h₀ | assumption | intro _ | apply mctpRun_good | apply armPending_good | apply emit_good
      | apply GoodX.next | refine Good.of_pair (by assumption) ?_ | dsimp only | split

theorem execPldmGetSensorReading_good {q₀ : List Instr} {p₀ : Bool} {c₀ : Option Nat} {s : State}
    {sensor : PldmSensor} (h₀ : Good q₀ p₀ c₀ s) :
    GoodX q₀ p₀ c₀ (execPldmGetSensorReading sensor s) := by
  unfold execPldmGetSensorReading
  try dsimp only
  with_reducible
    repeat' first
      | exact h₀ | assumption | intro _ | apply mctpRun_good | apply emit_good | apply GoodX.next | dsimp only | split

end Sys2Proof.Machine
end

