-- ==== Sys2Proof/Laws/GoodSecurity.lean ====
section
/-! SUPPORT. The operations of Machine/Security.lean keep the state good (`Good`). -/

set_option linter.unusedTactic false
set_option linter.unreachableTactic false

set_option Elab.async false

namespace Sys2Proof.Machine

open Sys2Proof

theorem putResult__good {q₀ : List Instr} {p₀ : Bool} {c₀ : Option Nat} {s : State} {k r : Nat} (h₀ : Good q₀ p₀ c₀ s) :
    Good q₀ p₀ c₀ (putResult_ s k r) := by
  unfold putResult_
  try dsimp only
  with_reducible
    repeat' first
      | exact h₀ | assumption | intro _ | apply Good.ite | dsimp only | split | refine Good.upd ?_

theorem tryBanks_good {q₀ : List Instr} {p₀ : Bool} {c₀ : Option Nat} {s : State} {a0 : List (Nat × Bool)} (h₀ : Good q₀ p₀ c₀ s) :
    Good q₀ p₀ c₀ (tryBanks a0 s).1 := by
  induction a0 generalizing s with
  | nil =>
    unfold tryBanks
    try dsimp only
    with_reducible
      repeat' first
        | exact h₀ | assumption | intro _ | apply ih | apply putResult__good | apply modBank_good | apply Good.ite_fst
        | apply Good.ite | dsimp only | split | refine Good.upd ?_
  | cons x l ih =>
    unfold tryBanks
    try dsimp only
    with_reducible
      repeat' first
        | exact h₀ | assumption | intro _ | apply ih | apply putResult__good | apply modBank_good | apply Good.ite_fst
        | apply Good.ite | dsimp only | split | refine Good.upd ?_

theorem execFirmwareStart_good {q₀ : List Instr} {p₀ : Bool} {c₀ : Option Nat} {s : State}  (h₀ : Good q₀ p₀ c₀ s) :
    GoodX q₀ p₀ c₀ (execFirmwareStart s) := by
  unfold execFirmwareStart
  try dsimp only
  with_reducible
    repeat' first
      | exact h₀ | assumption | intro _ | apply tryBanks_good | apply bumpBoot_good | apply resume_good
      | apply startCal_good | apply GoodX.next | apply GoodX.ite | apply Good.ite_fst | apply Good.ite
      | refine Good.of_pair (by assumption) ?_ | dsimp only | split | refine Good.upd ?_

theorem putConfirm_good {q₀ : List Instr} {p₀ : Bool} {c₀ : Option Nat} {s : State}  (h₀ : Good q₀ p₀ c₀ s) :
    Good q₀ p₀ c₀ (putConfirm s) := by
  unfold putConfirm
  try dsimp only
  with_reducible
    repeat' first
      | exact h₀ | assumption | intro _ | apply modBank_good | apply Good.ite | dsimp only | split
      | refine Good.upd ?_

theorem execBootConfirm_good {q₀ : List Instr} {p₀ : Bool} {c₀ : Option Nat} {s : State} {by_ : Agent}
    (h₀ : Good q₀ p₀ c₀ s) :
    GoodX q₀ p₀ c₀ (execBootConfirm by_ s) := by
  unfold execBootConfirm
  try dsimp only
  with_reducible
    repeat' first
      | exact h₀ | assumption | intro _ | apply access_good | apply putConfirm_good | apply GoodX.next | dsimp only
      | split

theorem doeAnswer_good {q₀ : List Instr} {p₀ : Bool} {c₀ : Option Nat} {s : State} {r : Responder} {code : Nat}
    {body : Contents} (h₀ : Good q₀ p₀ c₀ s) :
    Good q₀ p₀ c₀ (doeAnswer s r code body) := by
  unfold doeAnswer
  try dsimp only
  with_reducible
    repeat' first
      | exact h₀ | assumption | intro _ | apply emit_good | apply fnIrq_good | refine Good.of_pair (by assumption) ?_
      | dsimp only | split

theorem doeTake_good {q₀ : List Instr} {p₀ : Bool} {c₀ : Option Nat} {s : State} {f : Fn} {row : Instr}
    {bound : Nat} {go : State → State} (h₀ : Good q₀ p₀ c₀ s) (hgo : ∀ t, Good q₀ p₀ c₀ t → Good q₀ p₀ c₀ (go t)) :
    Good q₀ p₀ c₀ (doeTake s f row bound go) := by
  unfold doeTake
  try dsimp only
  with_reducible
    repeat' first
      | exact h₀ | assumption | intro _ | apply hgo | apply fnGate_good | apply emit_good | apply holdFor_good
      | apply unIdle_good | apply modFn_good | apply nextFree_good | apply Good.ite | dsimp only | split
      | refine Good.upd ?_

theorem execDoeDiscovery_good {q₀ : List Instr} {p₀ : Bool} {c₀ : Option Nat} {s : State} {f : Fn}
    (h₀ : Good q₀ p₀ c₀ s) :
    GoodX q₀ p₀ c₀ (execDoeDiscovery f s) := by
  unfold execDoeDiscovery
  try dsimp only
  with_reducible
    repeat' first
      | exact h₀ | assumption | intro _ | apply doeTake_good | apply doeAnswer_good | apply GoodX.next | dsimp only
      | split

theorem execCdatRead_good {q₀ : List Instr} {p₀ : Bool} {c₀ : Option Nat} {s : State} {f : Fn} (h₀ : Good q₀ p₀ c₀ s) :
    GoodX q₀ p₀ c₀ (execCdatRead f s) := by
  unfold execCdatRead
  try dsimp only
  with_reducible
    repeat' first
      | exact h₀ | assumption | intro _ | apply doeTake_good | apply modFn_good | apply doeAnswer_good
      | apply GoodX.next | dsimp only | split | refine Good.upd ?_

theorem spdmRun_good {q₀ : List Instr} {p₀ : Bool} {c₀ : Option Nat} {s : State} {r : Responder} {row : Instr}
    {signed : Bool} {go : State → State} (h₀ : Good q₀ p₀ c₀ s) (hgo : ∀ t, Good q₀ p₀ c₀ t → Good q₀ p₀ c₀ (go t)) :
    Good q₀ p₀ c₀ (spdmRun s r row signed go) := by
  unfold spdmRun
  try dsimp only
  with_reducible
    repeat' first
      | exact h₀ | assumption | intro _ | apply hgo | apply doeTake_good | apply holdFor_good | apply unIdle_good
      | apply Good.ite | refine Good.of_pair (by assumption) ?_ | dsimp only | split

theorem spdmError_good {q₀ : List Instr} {p₀ : Bool} {c₀ : Option Nat} {s : State} {r : Responder}
    (h₀ : Good q₀ p₀ c₀ s) :
    Good q₀ p₀ c₀ (spdmError s r) := by
  unfold spdmError
  try dsimp only
  with_reducible
    repeat' first
      | exact h₀ | assumption | intro _ | apply doeAnswer_good | dsimp only | split

theorem execGetVersion_good {q₀ : List Instr} {p₀ : Bool} {c₀ : Option Nat} {s : State} {r : Responder}
    (h₀ : Good q₀ p₀ c₀ s) :
    GoodX q₀ p₀ c₀ (execGetVersion r s) := by
  unfold execGetVersion
  try dsimp only
  with_reducible
    repeat' first
      | exact h₀ | assumption | intro _ | apply spdmRun_good | apply doeAnswer_good | apply GoodX.next | dsimp only
      | split

theorem execGetCapabilities_good {q₀ : List Instr} {p₀ : Bool} {c₀ : Option Nat} {s : State} {r : Responder}
    (h₀ : Good q₀ p₀ c₀ s) :
    GoodX q₀ p₀ c₀ (execGetCapabilities r s) := by
  unfold execGetCapabilities
  try dsimp only
  with_reducible
    repeat' first
      | exact h₀ | assumption | intro _ | apply spdmRun_good | apply doeAnswer_good | apply GoodX.next | dsimp only
      | split

theorem execNegotiateAlgorithms_good {q₀ : List Instr} {p₀ : Bool} {c₀ : Option Nat} {s : State} {r : Responder}
    {falcon : Bool} (h₀ : Good q₀ p₀ c₀ s) :
    GoodX q₀ p₀ c₀ (execNegotiateAlgorithms r falcon s) := by
  unfold execNegotiateAlgorithms
  try dsimp only
  with_reducible
    repeat' first
      | exact h₀ | assumption | intro _ | apply spdmRun_good | apply doeAnswer_good | apply modFn_good
      | apply GoodX.next | dsimp only | split | refine Good.upd ?_

theorem execGetCertificate_good {q₀ : List Instr} {p₀ : Bool} {c₀ : Option Nat} {s : State} {r : Responder}
    {slot : Nat} (h₀ : Good q₀ p₀ c₀ s) :
    GoodX q₀ p₀ c₀ (execGetCertificate r slot s) := by
  unfold execGetCertificate
  try dsimp only
  with_reducible
    repeat' first
      | exact h₀ | assumption | intro _ | apply spdmRun_good | apply doeAnswer_good | apply spdmError_good
      | apply GoodX.next | apply GoodX.ite | apply Good.ite | dsimp only | split

theorem execChallenge_good {q₀ : List Instr} {p₀ : Bool} {c₀ : Option Nat} {s : State} {r : Responder} {slot : Nat}
    (h₀ : Good q₀ p₀ c₀ s) :
    GoodX q₀ p₀ c₀ (execChallenge r slot s) := by
  unfold execChallenge
  try dsimp only
  with_reducible
    repeat' first
      | exact h₀ | assumption | intro _ | apply spdmRun_good | apply doeAnswer_good | apply spdmError_good
      | apply GoodX.next | apply GoodX.ite | apply Good.ite | dsimp only | split

theorem execGetMeasurements_good {q₀ : List Instr} {p₀ : Bool} {c₀ : Option Nat} {s : State} {r : Responder}
    {index : Nat} {signed : Bool} (h₀ : Good q₀ p₀ c₀ s) :
    GoodX q₀ p₀ c₀ (execGetMeasurements r index signed s) := by
  unfold execGetMeasurements
  try dsimp only
  with_reducible
    repeat' first
      | exact h₀ | assumption | intro _ | apply spdmRun_good | apply spdmError_good | apply doeAnswer_good
      | apply GoodX.next | apply GoodX.ite | apply Good.ite | dsimp only | split

theorem execKeyExchange_good {q₀ : List Instr} {p₀ : Bool} {c₀ : Option Nat} {s : State} {r : Responder}
    (h₀ : Good q₀ p₀ c₀ s) :
    GoodX q₀ p₀ c₀ (execKeyExchange r s) := by
  unfold execKeyExchange
  try dsimp only
  with_reducible
    repeat' first
      | exact h₀ | assumption | intro _ | apply spdmRun_good | apply doeAnswer_good | apply modFn_good
      | apply spdmError_good | apply GoodX.next | apply GoodX.ite | apply Good.ite | dsimp only | split
      | refine Good.upd ?_

theorem execHeartbeat_good {q₀ : List Instr} {p₀ : Bool} {c₀ : Option Nat} {s : State} {r : Responder}
    (h₀ : Good q₀ p₀ c₀ s) :
    GoodX q₀ p₀ c₀ (execHeartbeat r s) := by
  unfold execHeartbeat
  try dsimp only
  with_reducible
    repeat' first
      | exact h₀ | assumption | intro _ | apply spdmRun_good | apply doeAnswer_good | apply spdmError_good
      | apply GoodX.next | apply GoodX.ite | apply Good.ite | dsimp only | split

theorem execSetCertificate_good {q₀ : List Instr} {p₀ : Bool} {c₀ : Option Nat} {s : State} {q : CertReq}
    (h₀ : Good q₀ p₀ c₀ s) :
    GoodX q₀ p₀ c₀ (execSetCertificate q s) := by
  unfold execSetCertificate
  try dsimp only
  with_reducible
    repeat' first
      | exact h₀ | assumption | intro _ | apply spdmRun_good | apply spdmError_good | apply GoodX.next
      | apply GoodX.ite | apply Good.ite | dsimp only | split

theorem execGetLcChallenge_good {q₀ : List Instr} {p₀ : Bool} {c₀ : Option Nat} {s : State} {c : Cci}
    (h₀ : Good q₀ p₀ c₀ s) :
    GoodX q₀ p₀ c₀ (execGetLcChallenge c s) := by
  unfold execGetLcChallenge
  try dsimp only
  with_reducible
    repeat' first
      | exact h₀ | assumption | intro _ | apply cciRun_good | apply cciAnswer_good | apply nextFree_good
      | apply GoodX.next | dsimp only | split | refine Good.upd ?_

theorem lcRefuse_good {q₀ : List Instr} {p₀ : Bool} {c₀ : Option Nat} {s : State} {c : Cci} {op : Nat}
    (h₀ : Good q₀ p₀ c₀ s) :
    Good q₀ p₀ c₀ (lcRefuse s c op) := by
  unfold lcRefuse
  try dsimp only
  with_reducible
    repeat' first
      | exact h₀ | assumption | intro _ | apply cciAnswer_good | dsimp only | split | refine Good.upd ?_

theorem lcAccept_good {q₀ : List Instr} {p₀ : Bool} {c₀ : Option Nat} {s : State} {c : Cci} {op : Nat}
    {run : LcRun} (h₀ : Good q₀ p₀ c₀ s) :
    Good q₀ p₀ c₀ (lcAccept s c op run) := by
  unfold lcAccept
  try dsimp only
  with_reducible
    repeat' first
      | exact h₀ | assumption | intro _ | apply resume_good | apply offlineDone_good | apply allOffline_good
      | apply bgStart_good | dsimp only | split | refine Good.upd ?_

theorem execLcTransition_good {q₀ : List Instr} {p₀ : Bool} {c₀ : Option Nat} {s : State} {c : Cci} {t : Token}
    (h₀ : Good q₀ p₀ c₀ s) :
    GoodX q₀ p₀ c₀ (execLcTransition c t s) := by
  unfold execLcTransition
  try dsimp only
  with_reducible
    repeat' first
      | exact h₀ | assumption | intro _ | apply cciRun_good | apply cciAnswer_good | apply lcRefuse_good
      | apply lcAccept_good | apply GoodX.next | apply GoodX.ite | apply Good.ite
      | refine Good.of_pair (by assumption) ?_ | dsimp only | split

theorem execDebugUnlock_good {q₀ : List Instr} {p₀ : Bool} {c₀ : Option Nat} {s : State} {c : Cci} {t : Token}
    (h₀ : Good q₀ p₀ c₀ s) :
    GoodX q₀ p₀ c₀ (execDebugUnlock c t s) := by
  unfold execDebugUnlock
  try dsimp only
  with_reducible
    repeat' first
      | exact h₀ | assumption | intro _ | apply cciRun_good | apply cciAnswer_good | apply lcAccept_good
      | apply lcRefuse_good | apply GoodX.next | apply GoodX.ite | apply Good.ite | dsimp only | split

theorem lcStep_good {q₀ : List Instr} {p₀ : Bool} {c₀ : Option Nat} {s : State} {n : Nat} (h₀ : Good q₀ p₀ c₀ s) :
    Good q₀ p₀ c₀ (lcStep s n) := by
  unfold lcStep
  try dsimp only
  with_reducible
    repeat' first
      | exact h₀ | assumption | intro _ | dsimp only | split | refine Good.upd ?_

theorem execLcOverwriteComplete_good {q₀ : List Instr} {p₀ : Bool} {c₀ : Option Nat} {s : State} 
    (h₀ : Good q₀ p₀ c₀ s) :
    GoodX q₀ p₀ c₀ (execLcOverwriteComplete s) := by
  unfold execLcOverwriteComplete
  try dsimp only
  with_reducible
    repeat' first
      | exact h₀ | assumption | intro _ | apply lcStep_good | apply overwriteDram_good | apply GoodX.next
      | refine Good.of_pair (by assumption) ?_ | dsimp only | split

theorem execLcSealWritten_good {q₀ : List Instr} {p₀ : Bool} {c₀ : Option Nat} {s : State}  (h₀ : Good q₀ p₀ c₀ s) :
    GoodX q₀ p₀ c₀ (execLcSealWritten s) := by
  unfold execLcSealWritten
  try dsimp only
  with_reducible
    repeat' first
      | exact h₀ | assumption | intro _ | apply logUncoded_good | apply lcStep_good | apply GoodX.next
      | refine Good.of_pair (by assumption) ?_ | dsimp only | split | refine Good.upd ?_

theorem execLcFuseBurn_good {q₀ : List Instr} {p₀ : Bool} {c₀ : Option Nat} {s : State}  (h₀ : Good q₀ p₀ c₀ s) :
    GoodX q₀ p₀ c₀ (execLcFuseBurn s) := by
  unfold execLcFuseBurn
  try dsimp only
  with_reducible
    repeat' first
      | exact h₀ | assumption | intro _ | apply lcStep_good | apply bgFinish_good | apply GoodX.next
      | refine Good.of_pair (by assumption) ?_ | dsimp only | split | refine Good.upd ?_

theorem execLcReset_good {q₀ : List Instr} {p₀ : Bool} {c₀ : Option Nat} {s : State}  (h₀ : Good q₀ p₀ c₀ s) :
    GoodX q₀ p₀ c₀ (execLcReset s) := by
  unfold execLcReset
  try dsimp only
  with_reducible
    repeat' first
      | exact h₀ | assumption | intro _ | apply globalReset_good | apply advanceTo_good | apply GoodX.next
      | refine Good.of_pair (by assumption) ?_ | dsimp only | split

theorem execJtagInstruction_good {q₀ : List Instr} {p₀ : Bool} {c₀ : Option Nat} {s : State} {i : JtagInstr}
    (h₀ : Good q₀ p₀ c₀ s) :
    GoodX q₀ p₀ c₀ (execJtagInstruction i s) := by
  unfold execJtagInstruction
  try dsimp only
  with_reducible
    repeat' first
      | exact h₀ | assumption | intro _ | apply emit_good | apply GoodX.next | apply GoodX.ite | apply Good.ite
      | dsimp only | split

end Sys2Proof.Machine
end

