-- ==== Sys2Proof/Laws/GoodPmu.lean ====
section
/-! SUPPORT. The operations of Machine/Pmu.lean keep the state good (`Good`). -/

set_option linter.unusedTactic false
set_option linter.unreachableTactic false

set_option Elab.async false

namespace Sys2Proof.Machine

open Sys2Proof

theorem putCtrLo_good {q₀ : List Instr} {p₀ : Bool} {c₀ : Option Nat} {s : State} {k v : Nat} (h₀ : Good q₀ p₀ c₀ s) :
    Good q₀ p₀ c₀ (putCtrLo s k v) := by
  unfold putCtrLo
  refine modCtr_good h₀ fun h => ?_
  dsimp only
  omega

theorem putCtrHi_good {q₀ : List Instr} {p₀ : Bool} {c₀ : Option Nat} {s : State} {k v : Nat} (h₀ : Good q₀ p₀ c₀ s) :
    Good q₀ p₀ c₀ (putCtrHi s k v) := by
  unfold putCtrHi
  refine modCtr_good h₀ fun h => ?_
  have : fld v 15 0 < 65536 := Nat.mod_lt _ (by decide)
  dsimp only
  omega

theorem execPmuFreeze_good {q₀ : List Instr} {p₀ : Bool} {c₀ : Option Nat} {s : State} {by_ : Agent}
    {freeze : Bool} (h₀ : Good q₀ p₀ c₀ s) :
    GoodX q₀ p₀ c₀ (execPmuFreeze by_ freeze s) := by
  unfold execPmuFreeze
  try dsimp only
  with_reducible
    repeat' first
      | exact h₀ | assumption | intro _ | apply access_good | apply setReg_good | apply GoodX.next | dsimp only
      | split

theorem execCounterWrap_good {q₀ : List Instr} {p₀ : Bool} {c₀ : Option Nat} {s : State} {kind : Fin 6}
    {inst : Fin 48} {cnt : Fin 8} (h₀ : Good q₀ p₀ c₀ s) :
    GoodX q₀ p₀ c₀ (execCounterWrap kind inst cnt s) := by
  unfold execCounterWrap
  try dsimp only
  with_reducible
    repeat' first
      | exact h₀ | assumption | intro _ | apply countUp_good | apply GoodX.next | apply GoodX.ite | apply Good.ite
      | dsimp only | split

theorem putDump_good {q₀ : List Instr} {p₀ : Bool} {c₀ : Option Nat} {s : State} {v : Nat} (h₀ : Good q₀ p₀ c₀ s) :
    Good q₀ p₀ c₀ (putDump s v) := by
  unfold putDump
  try dsimp only
  with_reducible
    repeat' first
      | exact h₀ | assumption | intro _ | apply setReg_good | apply stopDump_good | apply Good.ite | dsimp only
      | split | refine Good.upd ?_

theorem execDumpEnable_good {q₀ : List Instr} {p₀ : Bool} {c₀ : Option Nat} {s : State} {by_ : Agent} {val : Word}
    (h₀ : Good q₀ p₀ c₀ s) :
    GoodX q₀ p₀ c₀ (execDumpEnable by_ val s) := by
  unfold execDumpEnable
  try dsimp only
  with_reducible
    repeat' first
      | exact h₀ | assumption | intro _ | apply access_good | apply putDump_good | apply GoodX.next | dsimp only
      | split

theorem writeDump_good {q₀ : List Instr} {p₀ : Bool} {c₀ : Option Nat} {s : State}  (h₀ : Good q₀ p₀ c₀ s) :
    Good q₀ p₀ c₀ (writeDump s).1 := by
  unfold writeDump
  try dsimp only
  with_reducible
    repeat' first
      | exact h₀ | assumption | intro _ | apply agentPrepare_good | apply agentOpen_good | apply agentPut_good
      | apply agentClose_good | apply resume_good | apply Good.ite_fst | apply Good.ite
      | refine Good.of_pair (by assumption) ?_ | dsimp only | split | refine Good.upd ?_

theorem dumpDue_good {q₀ : List Instr} {p₀ : Bool} {c₀ : Option Nat} {s : State}  (h₀ : Good q₀ p₀ c₀ s) :
    Good q₀ p₀ c₀ (dumpDue s) := by
  unfold dumpDue
  try dsimp only
  with_reducible
    repeat' first
      | exact h₀ | assumption | intro _ | apply advanceTo_good | apply bump_good | apply writeDump_good
      | apply Good.ite_fst | apply Good.ite | dsimp only | split | refine Good.upd ?_

theorem execTelemetryDump_good {q₀ : List Instr} {p₀ : Bool} {c₀ : Option Nat} {s : State}  (h₀ : Good q₀ p₀ c₀ s) :
    GoodX q₀ p₀ c₀ (execTelemetryDump s) := by
  unfold execTelemetryDump
  try dsimp only
  with_reducible
    repeat' first
      | exact h₀ | assumption | intro _ | apply writeDump_good | apply dumpDue_good | apply GoodX.next
      | apply GoodX.ite | apply Good.ite_fst | apply Good.ite | refine Good.of_pair (by assumption) ?_ | dsimp only
      | split

end Sys2Proof.Machine
end

