-- ==== Sys2Proof/Laws/GoodMailbox.lean ====
section
/-! SUPPORT. The operations of Machine/Mailbox.lean keep the state good (`Good`). -/

set_option linter.unusedTactic false
set_option linter.unreachableTactic false

set_option Elab.async false

namespace Sys2Proof.Machine

open Sys2Proof

theorem boxIrqFar_good {q₀ : List Instr} {p₀ : Bool} {c₀ : Option Nat} {s : State} {n : Nat} (h₀ : Good q₀ p₀ c₀ s) :
    Good q₀ p₀ c₀ (boxIrqFar s n) := by
  unfold boxIrqFar
  try dsimp only
  with_reducible
    repeat' first
      | exact h₀ | assumption | intro _ | apply msix_good | apply Good.ite | dsimp only | split

theorem boxIrqCtrl_good {q₀ : List Instr} {p₀ : Bool} {c₀ : Option Nat} {s : State} {n : Nat} (h₀ : Good q₀ p₀ c₀ s) :
    Good q₀ p₀ c₀ (boxIrqCtrl s n) := by
  unfold boxIrqCtrl
  try dsimp only
  with_reducible
    repeat' first
      | exact h₀ | assumption | intro _ | apply emit_good | dsimp only | split

theorem peerSend_good {q₀ : List Instr} {p₀ : Bool} {c₀ : Option Nat} {s : State} {n : Nat} {ws : List Word}
    (h₀ : Good q₀ p₀ c₀ s) :
    Good q₀ p₀ c₀ (peerSend s n ws) := by
  unfold peerSend
  try dsimp only
  with_reducible
    repeat' first
      | exact h₀ | assumption | intro _ | apply plySend_good | apply boxIrqCtrl_good | apply modMbx_good
      | apply Good.ite | dsimp only | split | refine Good.upd ?_

theorem putPush_good {q₀ : List Instr} {p₀ : Bool} {c₀ : Option Nat} {s : State} {by_ : Agent} {n : Nat} {w : Word}
    (h₀ : Good q₀ p₀ c₀ s) :
    Good q₀ p₀ c₀ (putPush s by_ n w) := by
  unfold putPush
  try dsimp only
  with_reducible
    repeat' first
      | exact h₀ | assumption | intro _ | apply boxPush_good | apply peerSend_good | apply modMbx_good
      | apply Good.ite | refine Good.of_pair (by assumption) ?_ | dsimp only | split | refine Good.upd ?_

theorem takePop_good {q₀ : List Instr} {p₀ : Bool} {c₀ : Option Nat} {s : State} {by_ : Agent} {n : Nat}
    (h₀ : Good q₀ p₀ c₀ s) :
    Good q₀ p₀ c₀ (takePop s by_ n).1 := by
  unfold takePop
  try dsimp only
  with_reducible
    repeat' first
      | exact h₀ | assumption | intro _ | apply modMbx_good | apply boxIrqCtrl_good | apply boxIrqFar_good
      | apply Good.ite_fst | apply Good.ite | refine Good.of_pair (by assumption) ?_ | dsimp only | split
      | refine Good.upd ?_

theorem putRing_good {q₀ : List Instr} {p₀ : Bool} {c₀ : Option Nat} {s : State} {by_ : Agent} {n : Nat}
    {bits : Word} (h₀ : Good q₀ p₀ c₀ s) :
    Good q₀ p₀ c₀ (putRing s by_ n bits) := by
  unfold putRing
  try dsimp only
  with_reducible
    repeat' first
      | exact h₀ | assumption | intro _ | apply modMbx_good | apply boxIrqCtrl_good | apply boxIrqFar_good
      | apply Good.ite | refine Good.of_pair (by assumption) ?_ | dsimp only | split | refine Good.upd ?_

theorem putBox_good {q₀ : List Instr} {p₀ : Bool} {c₀ : Option Nat} {s : State} {by_ : Agent} {n r v : Nat}
    (h₀ : Good q₀ p₀ c₀ s) :
    Good q₀ p₀ c₀ (putBox s by_ n r v) := by
  unfold putBox
  try dsimp only
  with_reducible
    repeat' first
      | exact h₀ | assumption | intro _ | apply setReg_good | apply modMbx_good | apply putPush_good
      | apply putRing_good | apply Good.ite | refine Good.of_pair (by assumption) ?_ | dsimp only | split
      | refine Good.upd ?_

theorem getBox_good {q₀ : List Instr} {p₀ : Bool} {c₀ : Option Nat} {s : State} {by_ : Agent} {n r : Nat}
    (h₀ : Good q₀ p₀ c₀ s) :
    Good q₀ p₀ c₀ (getBox s by_ n r).1 := by
  unfold getBox
  try dsimp only
  with_reducible
    repeat' first
      | exact h₀ | assumption | intro _ | apply takePop_good | apply Good.ite_fst | apply Good.ite
      | refine Good.of_pair (by assumption) ?_ | dsimp only | split

theorem execMbxPush_good {q₀ : List Instr} {p₀ : Bool} {c₀ : Option Nat} {s : State} {by_ : Agent} {box : Fin 66}
    {word : Word} (h₀ : Good q₀ p₀ c₀ s) :
    GoodX q₀ p₀ c₀ (execMbxPush by_ box word s) := by
  unfold execMbxPush
  try dsimp only
  with_reducible
    repeat' first
      | exact h₀ | assumption | intro _ | apply access_good | apply putPush_good | apply GoodX.next | dsimp only
      | split

theorem execMbxPop_good {q₀ : List Instr} {p₀ : Bool} {c₀ : Option Nat} {s : State} {by_ : Agent} {box : Fin 66}
    (h₀ : Good q₀ p₀ c₀ s) :
    GoodX q₀ p₀ c₀ (execMbxPop by_ box s) := by
  unfold execMbxPop
  try dsimp only
  with_reducible
    repeat' first
      | exact h₀ | assumption | intro _ | apply emit_good | apply access_good | apply takePop_good | apply GoodX.next
      | apply GoodX.ite | apply Good.ite_fst | apply Good.ite | refine Good.of_pair (by assumption) ?_ | dsimp only
      | split

theorem execMbxDbRing_good {q₀ : List Instr} {p₀ : Bool} {c₀ : Option Nat} {s : State} {by_ : Agent} {box : Fin 66}
    {bits : Word} (h₀ : Good q₀ p₀ c₀ s) :
    GoodX q₀ p₀ c₀ (execMbxDbRing by_ box bits s) := by
  unfold execMbxDbRing
  try dsimp only
  with_reducible
    repeat' first
      | exact h₀ | assumption | intro _ | apply access_good | apply putRing_good | apply GoodX.next | dsimp only
      | split

theorem execBoxAssign_good {q₀ : List Instr} {p₀ : Bool} {c₀ : Option Nat} {s : State} {box : Fin 66}
    {seat : Fin 1024} {memoryMode : Bool} (h₀ : Good q₀ p₀ c₀ s) :
    GoodX q₀ p₀ c₀ (execBoxAssign box seat memoryMode s) := by
  unfold execBoxAssign
  try dsimp only
  with_reducible
    repeat' first
      | exact h₀ | assumption | intro _ | apply modMbx_good | apply GoodX.next | apply GoodX.ite | apply Good.ite
      | dsimp only | split

theorem unassignBoxes_good {q₀ : List Instr} {p₀ : Bool} {c₀ : Option Nat} {s : State} {seat : Nat}
    (h₀ : Good q₀ p₀ c₀ s) :
    Good q₀ p₀ c₀ (unassignBoxes s seat) := by
  unfold unassignBoxes
  try dsimp only
  with_reducible
    repeat' first
      | exact h₀ | assumption | intro _ | apply modMbx_good | apply Good.foldl | apply Good.foldl_fst | dsimp only
      | split

theorem execSeatDrainComplete_good {q₀ : List Instr} {p₀ : Bool} {c₀ : Option Nat} {s : State} {seat : Fin 1024}
    (h₀ : Good q₀ p₀ c₀ s) :
    GoodX q₀ p₀ c₀ (execSeatDrainComplete seat s) := by
  unfold execSeatDrainComplete
  try dsimp only
  with_reducible
    repeat' first
      | exact h₀ | assumption | intro _ | apply seatEvent_good | apply modSeat_good | apply unassignBoxes_good
      | apply enableSeat_good | apply GoodX.next | apply GoodX.ite | apply Good.ite | dsimp only | split
      | refine Good.upd ?_

theorem boxLine_good {q₀ : List Instr} {p₀ : Bool} {c₀ : Option Nat} {s : State} {n hpa : Nat} (h₀ : Good q₀ p₀ c₀ s) :
    Good q₀ p₀ c₀ (boxLine s n hpa).1 := by
  unfold boxLine
  try dsimp only
  with_reducible
    repeat' first
      | exact h₀ | assumption | intro _ | apply agentLines_good | apply agentOpen_good | apply agentSpan_good
      | apply agentClose_good | apply logUncoded_good | apply Good.ite_fst | apply Good.ite
      | refine Good.of_pair (by assumption) ?_ | dsimp only | split

theorem boxTake_good {q₀ : List Instr} {p₀ : Bool} {c₀ : Option Nat} {s : State} {n : Nat} {b : List Byte}
    (h₀ : Good q₀ p₀ c₀ s) :
    Good q₀ p₀ c₀ (boxTake s n b) := by
  unfold boxTake
  try dsimp only
  with_reducible
    repeat' first
      | exact h₀ | assumption | intro _ | apply modMbx_good | apply boxPush_good | apply boxIrqCtrl_good
      | apply Good.ite | dsimp only | split | refine Good.upd ?_

theorem boxGive_good {q₀ : List Instr} {p₀ : Bool} {c₀ : Option Nat} {s : State} {n ack : Nat} (h₀ : Good q₀ p₀ c₀ s) :
    Good q₀ p₀ c₀ (boxGive s n ack) := by
  unfold boxGive
  try dsimp only
  with_reducible
    repeat' first
      | exact h₀ | assumption | intro _ | apply agentPrepare_good | apply agentOpen_good | apply agentPut_good
      | apply modMbx_good | apply agentClose_good | apply boxIrqCtrl_good | apply Good.ite_fst | apply Good.ite
      | refine Good.of_pair (by assumption) ?_ | dsimp only | split

theorem pollBox_good {q₀ : List Instr} {p₀ : Bool} {c₀ : Option Nat} {s : State} {n : Nat} (h₀ : Good q₀ p₀ c₀ s) :
    Good q₀ p₀ c₀ (pollBox s n) := by
  unfold pollBox
  try dsimp only
  with_reducible
    repeat' first
      | exact h₀ | assumption | intro _ | apply boxLine_good | apply boxGive_good | apply boxTake_good
      | refine Good.of_pair (by assumption) ?_ | dsimp only | split

theorem execBoxPoll_good {q₀ : List Instr} {p₀ : Bool} {c₀ : Option Nat} {s : State}  (h₀ : Good q₀ p₀ c₀ s) :
    GoodX q₀ p₀ c₀ (execBoxPoll s) := by
  unfold execBoxPoll
  try dsimp only
  with_reducible
    repeat' first
      | exact h₀ | assumption | intro _ | apply advanceTo_good | apply resume_good | apply pollBox_good
      | apply GoodX.next | apply GoodX.ite | apply Good.ite | apply Good.foldl | apply Good.foldl_fst | dsimp only
      | split

end Sys2Proof.Machine
end

