-- ==== Sys2Proof/Laws/GoodRegView.lean ====
section
/-! SUPPORT. The operations of Machine/RegView.lean keep the state good (`Good`). -/

set_option linter.unusedTactic false
set_option linter.unreachableTactic false

set_option Elab.async false

namespace Sys2Proof.Machine

open Sys2Proof

theorem setLatch_good {q₀ : List Instr} {p₀ : Bool} {c₀ : Option Nat} {s : State} {key v : Nat} (h₀ : Good q₀ p₀ c₀ s) :
    Good q₀ p₀ c₀ (setLatch s key v) := by
  unfold setLatch
  try dsimp only
  with_reducible
    repeat' first
      | exact h₀ | assumption | intro _ | exact h₀.set_latches (tabWf_set _ _ h₀.latches) | dsimp only | split
      | refine Good.upd ?_

theorem readLo_good {q₀ : List Instr} {p₀ : Bool} {c₀ : Option Nat} {s : State} {hiKey lo hi : Nat}
    (h₀ : Good q₀ p₀ c₀ s) :
    Good q₀ p₀ c₀ (readLo s hiKey lo hi).1 := by
  unfold readLo
  try dsimp only
  with_reducible
    repeat' first
      | exact h₀ | assumption | intro _ | apply setLatch_good | dsimp only | split

theorem readHi_good {q₀ : List Instr} {p₀ : Bool} {c₀ : Option Nat} {s : State} {hiKey hi : Nat}
    (h₀ : Good q₀ p₀ c₀ s) :
    Good q₀ p₀ c₀ (readHi s hiKey hi).1 := by
  unfold readHi
  try dsimp only
  with_reducible
    repeat' first
      | exact h₀ | assumption | intro _ | apply setLatch_good | refine Good.of_pair (by assumption) ?_ | dsimp only
      | split

theorem readFirst_good {q₀ : List Instr} {p₀ : Bool} {c₀ : Option Nat} {s : State} {key words entry : Nat}
    (h₀ : Good q₀ p₀ c₀ s) :
    Good q₀ p₀ c₀ (readFirst s key words entry).1 := by
  unfold readFirst
  try dsimp only
  with_reducible
    repeat' first
      | exact h₀ | assumption | intro _ | apply setLatch_good | apply Good.foldl | apply Good.foldl_fst | dsimp only
      | split

theorem skeinEntry_good {q₀ : List Instr} {p₀ : Bool} {c₀ : Option Nat} {s : State} {n sel off : Nat}
    (h₀ : Good q₀ p₀ c₀ s) :
    Good q₀ p₀ c₀ (skeinEntry s n sel off).1 := by
  unfold skeinEntry
  try dsimp only
  with_reducible
    repeat' first
      | exact h₀ | assumption | intro _ | apply fetchKey_good | apply Good.ite_fst | apply Good.ite | dsimp only
      | split

theorem getGlb_good {q₀ : List Instr} {p₀ : Bool} {c₀ : Option Nat} {s : State} {r : Nat} (h₀ : Good q₀ p₀ c₀ s) :
    GoodOP q₀ p₀ c₀ (getGlb s r) := by
  unfold getGlb
  try dsimp only
  with_reducible
    repeat' first
      | exact h₀ | assumption | intro _ | apply readFirst_good | apply GoodOP.some | apply GoodOP.none
      | apply GoodOP.ite | apply Good.ite_fst | apply Good.ite | refine Good.of_some_pair (by assumption) ?_
      | refine Good.of_some_fst (by assumption) ?_ | dsimp only | split

theorem getPmu_good {q₀ : List Instr} {p₀ : Bool} {c₀ : Option Nat} {s : State} {by_ : Agent} {r : Nat}
    (h₀ : Good q₀ p₀ c₀ s) :
    GoodOP q₀ p₀ c₀ (getPmu s by_ r) := by
  unfold getPmu
  try dsimp only
  with_reducible
    repeat' first
      | exact h₀ | assumption | intro _ | apply readLo_good | apply readHi_good | apply GoodOP.some
      | apply GoodOP.none | apply GoodOP.ite | apply Good.ite_fst | apply Good.ite
      | refine Good.of_pair (by assumption) ?_ | refine Good.of_some_pair (by assumption) ?_
      | refine Good.of_some_fst (by assumption) ?_ | dsimp only | split

theorem getSec_good {q₀ : List Instr} {p₀ : Bool} {c₀ : Option Nat} {s : State} {by_ : Agent} {r : Nat}
    (h₀ : Good q₀ p₀ c₀ s) :
    GoodOP q₀ p₀ c₀ (getSec s by_ r) := by
  unfold getSec
  try dsimp only
  with_reducible
    repeat' first
      | exact h₀ | assumption | intro _ | apply readFirst_good | apply GoodOP.some | apply GoodOP.none
      | apply GoodOP.ite | apply Good.ite_fst | apply Good.ite | refine Good.of_pair (by assumption) ?_
      | refine Good.of_some_pair (by assumption) ?_ | refine Good.of_some_fst (by assumption) ?_ | dsimp only | split

theorem getPwr_good {q₀ : List Instr} {p₀ : Bool} {c₀ : Option Nat} {s : State} {r : Nat} (h₀ : Good q₀ p₀ c₀ s) :
    GoodOP q₀ p₀ c₀ (getPwr s r) := by
  unfold getPwr
  try dsimp only
  with_reducible
    repeat' first
      | exact h₀ | assumption | intro _ | apply readLo_good | apply readHi_good | apply GoodOP.some
      | apply GoodOP.none | apply GoodOP.ite | apply Good.ite_fst | apply Good.ite
      | refine Good.of_pair (by assumption) ?_ | refine Good.of_some_pair (by assumption) ?_
      | refine Good.of_some_fst (by assumption) ?_ | dsimp only | split

theorem getHsw_good {q₀ : List Instr} {p₀ : Bool} {c₀ : Option Nat} {s : State} {r : Nat} (h₀ : Good q₀ p₀ c₀ s) :
    GoodOP q₀ p₀ c₀ (getHsw s r) := by
  unfold getHsw
  try dsimp only
  with_reducible
    repeat' first
      | exact h₀ | assumption | intro _ | apply GoodOP.some | apply GoodOP.none
      | refine Good.of_pair (by assumption) ?_ | refine Good.of_some_pair (by assumption) ?_
      | refine Good.of_some_fst (by assumption) ?_ | dsimp only | split

theorem getMgmt_good {q₀ : List Instr} {p₀ : Bool} {c₀ : Option Nat} {s : State} {by_ : Agent} {r : Nat}
    (h₀ : Good q₀ p₀ c₀ s) :
    GoodOP q₀ p₀ c₀ (getMgmt s by_ r) := by
  unfold getMgmt
  try dsimp only
  with_reducible
    repeat' first
      | exact h₀ | assumption | intro _ | apply readLo_good | apply readHi_good | apply readFirst_good
      | apply GoodOP.some | apply GoodOP.none | apply GoodOP.ite | apply Good.ite_fst | apply Good.ite
      | refine Good.of_pair (by assumption) ?_ | refine Good.of_some_pair (by assumption) ?_
      | refine Good.of_some_fst (by assumption) ?_ | dsimp only | split

theorem getQos_good {q₀ : List Instr} {p₀ : Bool} {c₀ : Option Nat} {s : State} {by_ : Agent} {r : Nat}
    (h₀ : Good q₀ p₀ c₀ s) :
    GoodOP q₀ p₀ c₀ (getQos s by_ r) := by
  unfold getQos
  try dsimp only
  with_reducible
    repeat' first
      | exact h₀ | assumption | intro _ | apply GoodOP.some | apply GoodOP.none | apply GoodOP.ite | apply Good.ite
      | refine Good.of_pair (by assumption) ?_ | refine Good.of_some_pair (by assumption) ?_
      | refine Good.of_some_fst (by assumption) ?_ | dsimp only | split

theorem getTrk_good {q₀ : List Instr} {p₀ : Bool} {c₀ : Option Nat} {s : State} {r : Nat} (h₀ : Good q₀ p₀ c₀ s) :
    GoodOP q₀ p₀ c₀ (getTrk s r) := by
  unfold getTrk
  try dsimp only
  with_reducible
    repeat' first
      | exact h₀ | assumption | intro _ | apply GoodOP.some | apply GoodOP.none | apply GoodOP.ite | apply Good.ite
      | refine Good.of_some_pair (by assumption) ?_ | refine Good.of_some_fst (by assumption) ?_ | dsimp only | split

theorem getSeatwin_good {q₀ : List Instr} {p₀ : Bool} {c₀ : Option Nat} {s : State} {by_ : Agent} {r : Nat}
    (h₀ : Good q₀ p₀ c₀ s) :
    GoodOP q₀ p₀ c₀ (getSeatwin s by_ r) := by
  unfold getSeatwin
  try dsimp only
  with_reducible
    repeat' first
      | exact h₀ | assumption | intro _ | apply readFirst_good | apply GoodOP.some | apply GoodOP.none
      | apply GoodOP.ite | apply Good.ite_fst | apply Good.ite | apply Good.elim
      | refine Good.of_pair (by assumption) ?_ | refine Good.of_some_pair (by assumption) ?_
      | refine Good.of_some_fst (by assumption) ?_ | dsimp only | split

theorem getRing_good {q₀ : List Instr} {p₀ : Bool} {c₀ : Option Nat} {s : State} {by_ : Agent} {r : Nat}
    (h₀ : Good q₀ p₀ c₀ s) :
    GoodOP q₀ p₀ c₀ (getRing s by_ r) := by
  unfold getRing
  try dsimp only
  with_reducible
    repeat' first
      | exact h₀ | assumption | intro _ | apply readFirst_good | apply GoodOP.some | apply GoodOP.none
      | apply GoodOP.ite | apply Good.ite_fst | apply Good.ite | apply Good.foldl | apply Good.foldl_fst
      | refine Good.of_pair (by assumption) ?_ | refine Good.of_some_pair (by assumption) ?_
      | refine Good.of_some_fst (by assumption) ?_ | dsimp only | split

theorem getCard_good {q₀ : List Instr} {p₀ : Bool} {c₀ : Option Nat} {s : State} {r : Nat} (h₀ : Good q₀ p₀ c₀ s) :
    GoodOP q₀ p₀ c₀ (getCard s r) := by
  unfold getCard
  try dsimp only
  with_reducible
    repeat' first
      | exact h₀ | assumption | intro _ | apply GoodOP.some | apply GoodOP.none
      | refine Good.of_pair (by assumption) ?_ | refine Good.of_some_pair (by assumption) ?_
      | refine Good.of_some_fst (by assumption) ?_ | dsimp only | split

theorem getHp_good {q₀ : List Instr} {p₀ : Bool} {c₀ : Option Nat} {s : State} {n r : Nat} (h₀ : Good q₀ p₀ c₀ s) :
    GoodOP q₀ p₀ c₀ (getHp s n r) := by
  unfold getHp
  try dsimp only
  with_reducible
    repeat' first
      | exact h₀ | assumption | intro _ | apply GoodOP.some | apply GoodOP.none | apply GoodOP.ite | apply Good.ite
      | refine Good.of_pair (by assumption) ?_ | refine Good.of_some_pair (by assumption) ?_
      | refine Good.of_some_fst (by assumption) ?_ | dsimp only | split

theorem getCrl_good {q₀ : List Instr} {p₀ : Bool} {c₀ : Option Nat} {s : State} {by_ : Agent} {n r : Nat}
    (h₀ : Good q₀ p₀ c₀ s) :
    GoodOP q₀ p₀ c₀ (getCrl s by_ n r) := by
  unfold getCrl
  try dsimp only
  with_reducible
    repeat' first
      | exact h₀ | assumption | intro _ | apply readFirst_good | apply GoodOP.some | apply GoodOP.none
      | apply GoodOP.ite | apply Good.ite_fst | apply Good.ite | refine Good.of_pair (by assumption) ?_
      | refine Good.of_some_pair (by assumption) ?_ | refine Good.of_some_fst (by assumption) ?_ | dsimp only | split

theorem getSkn_good {q₀ : List Instr} {p₀ : Bool} {c₀ : Option Nat} {s : State} {by_ : Agent} {n r : Nat}
    (h₀ : Good q₀ p₀ c₀ s) :
    GoodOP q₀ p₀ c₀ (getSkn s by_ n r) := by
  unfold getSkn
  try dsimp only
  with_reducible
    repeat' first
      | exact h₀ | assumption | intro _ | apply skeinEntry_good | apply readFirst_good | apply GoodOP.some
      | apply GoodOP.none | apply GoodOP.ite | apply Good.ite_fst | apply Good.ite
      | refine Good.of_pair (by assumption) ?_ | refine Good.of_some_pair (by assumption) ?_
      | refine Good.of_some_fst (by assumption) ?_ | dsimp only | split

theorem getSpn_good {q₀ : List Instr} {p₀ : Bool} {c₀ : Option Nat} {s : State} {n r : Nat} (h₀ : Good q₀ p₀ c₀ s) :
    GoodOP q₀ p₀ c₀ (getSpn s n r) := by
  unfold getSpn
  try dsimp only
  with_reducible
    repeat' first
      | exact h₀ | assumption | intro _ | apply readLo_good | apply readHi_good | apply GoodOP.some
      | apply GoodOP.none | apply GoodOP.ite | apply Good.ite_fst | apply Good.ite
      | refine Good.of_pair (by assumption) ?_ | refine Good.of_some_pair (by assumption) ?_
      | refine Good.of_some_fst (by assumption) ?_ | dsimp only | split

theorem getCh_good {q₀ : List Instr} {p₀ : Bool} {c₀ : Option Nat} {s : State} {n r : Nat} (h₀ : Good q₀ p₀ c₀ s) :
    GoodOP q₀ p₀ c₀ (getCh s n r) := by
  unfold getCh
  try dsimp only
  with_reducible
    repeat' first
      | exact h₀ | assumption | intro _ | apply GoodOP.some | apply GoodOP.none | apply GoodOP.ite | apply Good.ite
      | apply Good.elim | refine Good.of_pair (by assumption) ?_ | refine Good.of_some_pair (by assumption) ?_
      | refine Good.of_some_fst (by assumption) ?_ | dsimp only | split

theorem getSt_good {q₀ : List Instr} {p₀ : Bool} {c₀ : Option Nat} {s : State} {n r : Nat} (h₀ : Good q₀ p₀ c₀ s) :
    GoodOP q₀ p₀ c₀ (getSt s n r) := by
  unfold getSt
  try dsimp only
  with_reducible
    repeat' first
      | exact h₀ | assumption | intro _ | apply GoodOP.some | apply GoodOP.none | apply GoodOP.ite | apply Good.ite
      | apply Good.foldl | refine Good.of_pair (by assumption) ?_ | refine Good.of_some_pair (by assumption) ?_
      | refine Good.of_some_fst (by assumption) ?_ | dsimp only | split

theorem getPly_good {q₀ : List Instr} {p₀ : Bool} {c₀ : Option Nat} {s : State} {by_ : Agent} {n r : Nat}
    (h₀ : Good q₀ p₀ c₀ s) :
    GoodOP q₀ p₀ c₀ (getPly s by_ n r) := by
  unfold getPly
  try dsimp only
  with_reducible
    repeat' first
      | exact h₀ | assumption | intro _ | apply GoodOP.some | apply GoodOP.none | apply GoodOP.ite | apply Good.ite
      | refine Good.of_pair (by assumption) ?_ | refine Good.of_some_pair (by assumption) ?_
      | refine Good.of_some_fst (by assumption) ?_ | dsimp only | split

theorem getSpecial_good {q₀ : List Instr} {p₀ : Bool} {c₀ : Option Nat} {s : State} {by_ : Agent} {b : Blk}
    {r : Nat} (h₀ : Good q₀ p₀ c₀ s) :
    GoodOP q₀ p₀ c₀ (getSpecial s by_ b r) := by
  unfold getSpecial
  try dsimp only
  with_reducible
    repeat' first
      | exact h₀ | assumption | intro _ | apply getGlb_good | apply getPmu_good | apply getSec_good
      | apply getPwr_good | apply getHsw_good | apply getMgmt_good | apply getQos_good | apply getTrk_good
      | apply getSeatwin_good | apply getRing_good | apply getCard_good | apply getHp_good | apply getCrl_good
      | apply getSkn_good | apply getSpn_good | apply getCh_good | apply getSt_good | apply getPly_good
      | apply getBox_good | apply GoodOP.some | apply GoodOP.none | apply GoodOP.ite | apply Good.ite_fst
      | apply Good.ite | refine Good.of_pair (by assumption) ?_ | refine Good.of_some_pair (by assumption) ?_
      | refine Good.of_some_fst (by assumption) ?_ | dsimp only | split

theorem getReg_good {q₀ : List Instr} {p₀ : Bool} {c₀ : Option Nat} {s : State} {by_ : Agent} {off : Nat}
    (h₀ : Good q₀ p₀ c₀ s) :
    Good q₀ p₀ c₀ (getReg s by_ off).1 := by
  unfold getReg
  try dsimp only
  with_reducible
    repeat' first
      | exact h₀ | assumption | intro _ | apply getSpecial_good | apply nextFree_good | apply GoodOP.some
      | apply GoodOP.none | apply GoodOP.ite | apply Good.ite_fst | apply Good.ite
      | refine Good.of_pair (by assumption) ?_ | refine Good.of_some_pair (by assumption) ?_
      | refine Good.of_some_fst (by assumption) ?_ | dsimp only | split

end Sys2Proof.Machine
end

