-- ==== Sys2Proof/Laws/GoodBar0.lean ====
section
/-! SUPPORT. The operations of Machine/Bar0.lean keep the state good (`Good`). -/

set_option linter.unusedTactic false
set_option linter.unreachableTactic false

set_option Elab.async false

namespace Sys2Proof.Machine

open Sys2Proof

theorem sendPending_good {q₀ : List Instr} {p₀ : Bool} {c₀ : Option Nat} {s : State} {f : Fn} (h₀ : Good q₀ p₀ c₀ s) :
    Good q₀ p₀ c₀ (sendPending s f) := by
  unfold sendPending
  try dsimp only
  with_reducible
    repeat' first
      | exact h₀ | assumption | intro _ | apply emitAll_good | apply modFn_good | apply Good.ite | apply Good.foldl
      | dsimp only | split | refine Good.upd ?_

theorem bar0Put_good {q₀ : List Instr} {p₀ : Bool} {c₀ : Option Nat} {s : State} {f : Fn} {off v : Nat}
    (h₀ : Good q₀ p₀ c₀ s) :
    Good q₀ p₀ c₀ (bar0Put s f off v) := by
  unfold bar0Put
  try dsimp only
  with_reducible
    repeat' first
      | exact h₀ | assumption | intro _ | apply modFn_good | apply sendPending_good | apply Good.ite | dsimp only
      | split | refine Good.upd ?_

theorem cxlReset_good {q₀ : List Instr} {p₀ : Bool} {c₀ : Option Nat} {s : State} {f : Fn} (h₀ : Good q₀ p₀ c₀ s) :
    Good q₀ p₀ c₀ (cxlReset s f) := by
  unfold cxlReset
  try dsimp only
  with_reducible
    repeat' first
      | exact h₀ | assumption | intro _ | apply protoOccurrence_good | dsimp only | split

theorem cfgPut_good {q₀ : List Instr} {p₀ : Bool} {c₀ : Option Nat} {s : State} {f : Fn} {off v : Nat}
    (h₀ : Good q₀ p₀ c₀ s) :
    Good q₀ p₀ c₀ (cfgPut s f off v) := by
  unfold cfgPut
  try dsimp only
  with_reducible
    repeat' first
      | exact h₀ | assumption | intro _ | apply sendPending_good | apply modFn_good | apply cxlReset_good
      | apply Good.ite | dsimp only | split | refine Good.upd ?_

theorem bar4Put_good {q₀ : List Instr} {p₀ : Bool} {c₀ : Option Nat} {s : State} {f : Fn} {off size v : Nat}
    (h₀ : Good q₀ p₀ c₀ s) :
    Good q₀ p₀ c₀ (bar4Put s f off size v) := by
  unfold bar4Put
  try dsimp only
  with_reducible
    repeat' first
      | exact h₀ | assumption | intro _ | apply dbBad_good | apply putField_good | apply Good.ite | apply Good.foldl
      | dsimp only | split

theorem spaceRead_good {q₀ : List Instr} {p₀ : Bool} {c₀ : Option Nat} {s : State} {f : Fn} {sp : FnSpace}
    {off size : Nat} {row : Instr} (h₀ : Good q₀ p₀ c₀ s) :
    Good q₀ p₀ c₀ (spaceRead s f sp off size row) := by
  unfold spaceRead
  try dsimp only
  with_reducible
    repeat' first
      | exact h₀ | assumption | intro _ | apply fnGate_good | apply emit_good | apply Good.ite | dsimp only | split

theorem spaceWrite_good {q₀ : List Instr} {p₀ : Bool} {c₀ : Option Nat} {s : State} {f : Fn} {sp : FnSpace}
    {off size v : Nat} {row : Instr} (h₀ : Good q₀ p₀ c₀ s) :
    Good q₀ p₀ c₀ (spaceWrite s f sp off size v row) := by
  unfold spaceWrite
  try dsimp only
  with_reducible
    repeat' first
      | exact h₀ | assumption | intro _ | apply fnGate_good | apply bar4Put_good | apply bar0Put_good
      | apply cfgPut_good | apply Good.ite | apply Good.foldl | refine Good.of_pair (by assumption) ?_ | dsimp only
      | split

end Sys2Proof.Machine
end

