-- ==== Sys2Proof/Laws/GoodRegs.lean ====
section
/-! SUPPORT. The operations of Machine/Regs.lean keep the state good (`Good`). -/

set_option linter.unusedTactic false
set_option linter.unreachableTactic false

set_option Elab.async false

namespace Sys2Proof.Machine

open Sys2Proof

theorem putPlain_good {q₀ : List Instr} {p₀ : Bool} {c₀ : Option Nat} {s : State} {key v : Nat} (h₀ : Good q₀ p₀ c₀ s) :
    Good q₀ p₀ c₀ (putPlain s key v) := by
  unfold putPlain
  try dsimp only
  with_reducible
    repeat' first
      | exact h₀ | assumption | intro _ | apply setReg_good | dsimp only | split

theorem putSeatWord_good {q₀ : List Instr} {p₀ : Bool} {c₀ : Option Nat} {s : State} {n i v : Nat}
    (h₀ : Good q₀ p₀ c₀ s) :
    Good q₀ p₀ c₀ (putSeatWord s n i v) := by
  unfold putSeatWord
  try dsimp only
  with_reducible
    repeat' first
      | exact h₀ | assumption | intro _ | apply enableSeat_good | apply disableSeat_good | apply modSeat_good
      | apply Good.ite | dsimp only | split | refine Good.upd ?_

theorem putWinWord_good {q₀ : List Instr} {p₀ : Bool} {c₀ : Option Nat} {s : State} {n i v : Nat}
    (h₀ : Good q₀ p₀ c₀ s) :
    Good q₀ p₀ c₀ (putWinWord s n i v) := by
  unfold putWinWord
  try dsimp only
  with_reducible
    repeat' first
      | exact h₀ | assumption | intro _ | apply modWin_good | apply enableWindow_good | apply disableWindow_good
      | apply Good.ite | dsimp only | split | refine Good.upd ?_

theorem putSeatwinWord_good {q₀ : List Instr} {p₀ : Bool} {c₀ : Option Nat} {s : State} {sel i v : Nat}
    (h₀ : Good q₀ p₀ c₀ s) :
    Good q₀ p₀ c₀ (putSeatwinWord s sel i v) := by
  unfold putSeatwinWord
  try dsimp only
  with_reducible
    repeat' first
      | exact h₀ | assumption | intro _ | apply putSeatWord_good | apply putWinWord_good | apply Good.ite
      | refine Good.of_pair (by assumption) ?_ | dsimp only | split

theorem putRingWord_good {q₀ : List Instr} {p₀ : Bool} {c₀ : Option Nat} {s : State} {n i v : Nat}
    (h₀ : Good q₀ p₀ c₀ s) :
    Good q₀ p₀ c₀ (putRingWord s n i v) := by
  unfold putRingWord
  try dsimp only
  with_reducible
    repeat' first
      | exact h₀ | assumption | intro _ | apply modRing_good | apply enableRing_good | apply disableRing_good
      | apply Good.ite | dsimp only | split

theorem putDomCtl_good {q₀ : List Instr} {p₀ : Bool} {c₀ : Option Nat} {s : State} {d : Fin 26} {v : Nat}
    (h₀ : Good q₀ p₀ c₀ s) :
    Good q₀ p₀ c₀ (putDomCtl s d v) := by
  unfold putDomCtl
  try dsimp only
  with_reducible
    repeat' first
      | exact h₀ | assumption | intro _ | apply putPlain_good | apply reqAt_good | apply wakeAt_good | apply Good.ite
      | dsimp only | split

theorem putGrpCtl_good {q₀ : List Instr} {p₀ : Bool} {c₀ : Option Nat} {s : State} {g : Fin 8} {v : Nat}
    (h₀ : Good q₀ p₀ c₀ s) :
    Good q₀ p₀ c₀ (putGrpCtl s g v) := by
  unfold putGrpCtl
  try dsimp only
  with_reducible
    repeat' first
      | exact h₀ | assumption | intro _ | apply putPlain_good | apply reqAt_good | apply wakeAt_good | apply Good.ite
      | dsimp only | split

theorem putBoxLine_good {q₀ : List Instr} {p₀ : Bool} {c₀ : Option Nat} {s : State} {box : Nat} {out : Bool}
    {i v : Nat} (h₀ : Good q₀ p₀ c₀ s) :
    Good q₀ p₀ c₀ (putBoxLine s box out i v) := by
  unfold putBoxLine
  try dsimp only
  with_reducible
    repeat' first
      | exact h₀ | assumption | intro _ | apply modMbx_good | apply Good.ite | dsimp only | split | refine Good.upd ?_

theorem putCtr_good {q₀ : List Instr} {p₀ : Bool} {c₀ : Option Nat} {s : State} {hiKey : Nat} {c : Nat × Nat × Nat}
    {hi : Bool} {v : Nat} (h₀ : Good q₀ p₀ c₀ s) :
    Good q₀ p₀ c₀ (putCtr s hiKey c hi v) := by
  unfold putCtr
  try dsimp only
  with_reducible
    repeat' first
      | exact h₀ | assumption | intro _ | apply putCtrHi_good | apply setLatch_good | apply putCtrLo_good
      | apply Good.ite | dsimp only | split

theorem putPmu_good {q₀ : List Instr} {p₀ : Bool} {c₀ : Option Nat} {s : State} {by_ : Agent} {r v : Nat}
    (h₀ : Good q₀ p₀ c₀ s) :
    GoodO q₀ p₀ c₀ (putPmu s by_ r v) := by
  unfold putPmu
  try dsimp only
  with_reducible
    repeat' first
      | exact h₀ | assumption | intro _ | apply putCtr_good | apply putDump_good | apply GoodO.some | apply GoodO.none
      | apply GoodO.ite | apply Good.ite | apply Good.elim | refine Good.of_pair (by assumption) ?_
      | refine Good.of_some (by assumption) ?_ | dsimp only | split | refine Good.upd ?_

theorem putMgmt_good {q₀ : List Instr} {p₀ : Bool} {c₀ : Option Nat} {s : State} {by_ : Agent} {r v : Nat}
    (h₀ : Good q₀ p₀ c₀ s) :
    GoodO q₀ p₀ c₀ (putMgmt s by_ r v) := by
  unfold putMgmt
  try dsimp only
  with_reducible
    repeat' first
      | exact h₀ | assumption | intro _ | apply putWdt_good | apply putCal_good | apply putBoxLine_good
      | apply GoodO.some | apply GoodO.none | apply GoodO.ite | apply Good.ite
      | refine Good.of_pair (by assumption) ?_ | refine Good.of_some (by assumption) ?_ | dsimp only | split
      | refine Good.upd ?_

theorem putPwr_good {q₀ : List Instr} {p₀ : Bool} {c₀ : Option Nat} {s : State} {r v : Nat} (h₀ : Good q₀ p₀ c₀ s) :
    GoodO q₀ p₀ c₀ (putPwr s r v) := by
  unfold putPwr
  try dsimp only
  with_reducible
    repeat' first
      | exact h₀ | assumption | intro _ | apply putDomCtl_good | apply putGrpCtl_good | apply putDvfs_good
      | apply GoodO.some | apply GoodO.none | apply GoodO.ite | apply Good.ite
      | refine Good.of_some (by assumption) ?_ | dsimp only | split | refine Good.upd ?_

theorem putHp_good {q₀ : List Instr} {p₀ : Bool} {c₀ : Option Nat} {s : State} {n r v : Nat} (h₀ : Good q₀ p₀ c₀ s) :
    GoodO q₀ p₀ c₀ (putHp s n r v) := by
  unfold putHp
  try dsimp only
  with_reducible
    repeat' first
      | exact h₀ | assumption | intro _ | apply modLink_good | apply GoodO.some | apply GoodO.none | apply GoodO.ite
      | apply Good.ite | refine Good.of_pair (by assumption) ?_ | refine Good.of_some (by assumption) ?_ | dsimp only
      | split | refine Good.upd ?_

theorem putSpn_good {q₀ : List Instr} {p₀ : Bool} {c₀ : Option Nat} {s : State} {n r v : Nat} (h₀ : Good q₀ p₀ c₀ s) :
    GoodO q₀ p₀ c₀ (putSpn s n r v) := by
  unfold putSpn
  try dsimp only
  with_reducible
    repeat' first
      | exact h₀ | assumption | intro _ | apply modSpn_good | apply putPlain_good | apply putCtr_good
      | apply GoodO.some | apply GoodO.none | apply GoodO.ite | apply Good.ite
      | refine Good.of_some (by assumption) ?_ | dsimp only | split | refine Good.upd ?_

theorem putCh_good {q₀ : List Instr} {p₀ : Bool} {c₀ : Option Nat} {s : State} {n r v : Nat} (h₀ : Good q₀ p₀ c₀ s) :
    GoodO q₀ p₀ c₀ (putCh s n r v) := by
  unfold putCh
  try dsimp only
  with_reducible
    repeat' first
      | exact h₀ | assumption | intro _ | apply startTrain_good | apply putTarget_good | apply putPlain_good
      | apply modCh_good | apply putInj_good | apply GoodO.some | apply GoodO.none | apply GoodO.ite | apply Good.ite
      | refine Good.of_some (by assumption) ?_ | dsimp only | split | refine Good.upd ?_

theorem putSpecial_good {q₀ : List Instr} {p₀ : Bool} {c₀ : Option Nat} {s : State} {by_ : Agent} {b : Blk}
    {r v : Nat} (h₀ : Good q₀ p₀ c₀ s) :
    GoodO q₀ p₀ c₀ (putSpecial s by_ b r v) := by
  unfold putSpecial
  try dsimp only
  with_reducible
    repeat' first
      | exact h₀ | assumption | intro _ | apply putRstCtl_good | apply putPmu_good | apply putConfirm_good
      | apply putPwr_good | apply putMgmt_good | apply putBudget_good | apply putSeatwinWord_good
      | apply putRingWord_good | apply putHp_good | apply putSpn_good | apply putCh_good | apply startLane_good
      | apply putPlain_good | apply putBox_good | apply GoodO.some | apply GoodO.none | apply GoodO.ite
      | apply Good.ite | refine Good.of_pair (by assumption) ?_ | refine Good.of_some (by assumption) ?_ | dsimp only
      | split | refine Good.upd ?_

theorem putReg_good {q₀ : List Instr} {p₀ : Bool} {c₀ : Option Nat} {s : State} {by_ : Agent} {off v : Nat}
    (h₀ : Good q₀ p₀ c₀ s) :
    Good q₀ p₀ c₀ (putReg s by_ off v) := by
  unfold putReg
  try dsimp only
  with_reducible
    repeat' first
      | exact h₀ | assumption | intro _ | apply putSpecial_good | apply clearCnt_good | apply putPlain_good
      | apply GoodO.some | apply GoodO.none | apply GoodO.ite | apply Good.ite
      | refine Good.of_pair (by assumption) ?_ | refine Good.of_some (by assumption) ?_ | dsimp only | split

theorem bar2Write_good {q₀ : List Instr} {p₀ : Bool} {c₀ : Option Nat} {s : State} {by_ : Agent}
    {off size val : Nat} (h₀ : Good q₀ p₀ c₀ s) :
    Good q₀ p₀ c₀ (bar2Write s by_ off size val) := by
  unfold bar2Write
  try dsimp only
  with_reducible
    repeat' first
      | exact h₀ | assumption | intro _ | apply access_good | apply putReg_good | apply Good.ite | apply Good.foldl
      | refine Good.of_pair (by assumption) ?_ | dsimp only | split

theorem execRegisterWrite_good {q₀ : List Instr} {p₀ : Bool} {c₀ : Option Nat} {s : State} {by_ : Agent}
    {off size val : Nat} (h₀ : Good q₀ p₀ c₀ s) :
    GoodX q₀ p₀ c₀ (execRegisterWrite by_ off size val s) := by
  unfold execRegisterWrite
  try dsimp only
  with_reducible
    repeat' first
      | exact h₀ | assumption | intro _ | apply spaceWrite_good | apply bar2Write_good | apply GoodX.next
      | refine Good.of_pair (by assumption) ?_ | dsimp only | split

theorem readRegs_good {q₀ : List Instr} {p₀ : Bool} {c₀ : Option Nat} {s : State} {by_ : Agent} {a0 : List Nat} (h₀ : Good q₀ p₀ c₀ s) :
    Good q₀ p₀ c₀ (readRegs by_ a0 s).1 := by
  induction a0 generalizing by_ s with
  | nil =>
    unfold readRegs
    try dsimp only
    with_reducible
      repeat' first
        | exact h₀ | assumption | intro _ | apply ih | apply getReg_good | apply Good.ite_fst | apply Good.ite
        | refine Good.of_pair (by assumption) ?_ | dsimp only | split
  | cons x l ih =>
    unfold readRegs
    try dsimp only
    with_reducible
      repeat' first
        | exact h₀ | assumption | intro _ | apply ih | apply getReg_good | apply Good.ite_fst | apply Good.ite
        | refine Good.of_pair (by assumption) ?_ | dsimp only | split

theorem bar2Read_good {q₀ : List Instr} {p₀ : Bool} {c₀ : Option Nat} {s : State} {by_ : Agent} {off size : Nat}
    (h₀ : Good q₀ p₀ c₀ s) :
    Good q₀ p₀ c₀ (bar2Read s by_ off size) := by
  unfold bar2Read
  try dsimp only
  with_reducible
    repeat' first
      | exact h₀ | assumption | intro _ | apply emit_good | apply access_good | apply readRegs_good
      | apply Good.ite_fst | apply Good.ite | refine Good.of_pair (by assumption) ?_ | dsimp only | split

theorem execRegisterRead_good {q₀ : List Instr} {p₀ : Bool} {c₀ : Option Nat} {s : State} {by_ : Agent}
    {off size : Nat} (h₀ : Good q₀ p₀ c₀ s) :
    GoodX q₀ p₀ c₀ (execRegisterRead by_ off size s) := by
  unfold execRegisterRead
  try dsimp only
  with_reducible
    repeat' first
      | exact h₀ | assumption | intro _ | apply spaceRead_good | apply bar2Read_good | apply GoodX.next
      | refine Good.of_pair (by assumption) ?_ | dsimp only | split

theorem execSerialModeTest_good {q₀ : List Instr} {p₀ : Bool} {c₀ : Option Nat} {s : State} {by_ : Agent}
    {test : Bool} (h₀ : Good q₀ p₀ c₀ s) :
    GoodX q₀ p₀ c₀ (execSerialModeTest by_ test s) := by
  unfold execSerialModeTest
  try dsimp only
  with_reducible
    repeat' first
      | exact h₀ | assumption | intro _ | apply access_good | apply putPlain_good | apply GoodX.next | dsimp only
      | split

end Sys2Proof.Machine
end

