-- ==== Sys2Proof/Laws/GoodHostPort.lean ====
section
/-! SUPPORT. The operations of Machine/HostPort.lean keep the state good (`Good`). -/

set_option linter.unusedTactic false
set_option linter.unreachableTactic false

set_option Elab.async false

namespace Sys2Proof.Machine

open Sys2Proof

theorem doorbellRequest_good {q₀ : List Instr} {p₀ : Bool} {c₀ : Option Nat} {s : State} {m : M2S} {d : Dec}
    {op : ReqOp} {data : List Byte} {mask : BitVec 64} (h₀ : Good q₀ p₀ c₀ s) :
    Good q₀ p₀ c₀ (doorbellRequest s m d op data mask) := by
  unfold doorbellRequest
  try dsimp only
  with_reducible
    repeat' first
      | exact h₀ | assumption | intro _ | apply leavesIngress_good | apply sendDrs_good | apply sendNdr_good
      | apply doorbellLine_good | apply Good.ite | dsimp only | split

theorem hostRequest_good {q₀ : List Instr} {p₀ : Bool} {c₀ : Option Nat} {s : State} {m : M2S} {op : ReqOp}
    {data : List Byte} {mask : BitVec 64} (h₀ : Good q₀ p₀ c₀ s) :
    Good q₀ p₀ c₀ (hostRequest s m op data mask) := by
  unfold hostRequest
  try dsimp only
  with_reducible
    repeat' first
      | exact h₀ | assumption | intro _ | apply refuseM2S_good | apply doorbellRequest_good | apply sendNdr_good
      | apply leavesIngress_good | apply resume_good | apply arrive_good | apply Good.ite
      | refine Good.of_pair (by assumption) ?_ | dsimp only | split

theorem hostWrite_good {q₀ : List Instr} {p₀ : Bool} {c₀ : Option Nat} {s : State} {m : M2S} {op : ReqOp}
    {data : List Byte} {mask : BitVec 64} (h₀ : Good q₀ p₀ c₀ s) :
    Good q₀ p₀ c₀ (hostWrite s m op data mask) := by
  unfold hostWrite
  try dsimp only
  with_reducible
    repeat' first
      | exact h₀ | assumption | intro _ | apply resume_good | apply modXing_good | apply leavesIngress_good
      | apply hostRequest_good | refine Good.of_pair (by assumption) ?_ | dsimp only | split | refine Good.upd ?_

theorem execMemRd_good {q₀ : List Instr} {p₀ : Bool} {c₀ : Option Nat} {s : State} {m : M2S} {snp : SnpType}
    (h₀ : Good q₀ p₀ c₀ s) :
    GoodX q₀ p₀ c₀ (execMemRd m snp s) := by
  unfold execMemRd
  try dsimp only
  with_reducible
    repeat' first
      | exact h₀ | assumption | intro _ | apply m2sGate_good | apply hostRequest_good | apply GoodX.next | dsimp only
      | split

theorem execMemRdData_good {q₀ : List Instr} {p₀ : Bool} {c₀ : Option Nat} {s : State} {m : M2S}
    (h₀ : Good q₀ p₀ c₀ s) :
    GoodX q₀ p₀ c₀ (execMemRdData m s) := by
  unfold execMemRdData
  try dsimp only
  with_reducible
    repeat' first
      | exact h₀ | assumption | intro _ | apply m2sGate_good | apply hostRequest_good | apply GoodX.next | dsimp only
      | split

theorem execMemInv_good {q₀ : List Instr} {p₀ : Bool} {c₀ : Option Nat} {s : State} {m : M2S} (h₀ : Good q₀ p₀ c₀ s) :
    GoodX q₀ p₀ c₀ (execMemInv m s) := by
  unfold execMemInv
  try dsimp only
  with_reducible
    repeat' first
      | exact h₀ | assumption | intro _ | apply m2sGate_good | apply hostRequest_good | apply GoodX.next | dsimp only
      | split

theorem execMemInvNt_good {q₀ : List Instr} {p₀ : Bool} {c₀ : Option Nat} {s : State} {m : M2S} (h₀ : Good q₀ p₀ c₀ s) :
    GoodX q₀ p₀ c₀ (execMemInvNt m s) := by
  unfold execMemInvNt
  try dsimp only
  with_reducible
    repeat' first
      | exact h₀ | assumption | intro _ | apply m2sGate_good | apply hostRequest_good | apply GoodX.next | dsimp only
      | split

theorem execMemClnEvct_good {q₀ : List Instr} {p₀ : Bool} {c₀ : Option Nat} {s : State} {m : M2S}
    (h₀ : Good q₀ p₀ c₀ s) :
    GoodX q₀ p₀ c₀ (execMemClnEvct m s) := by
  unfold execMemClnEvct
  try dsimp only
  with_reducible
    repeat' first
      | exact h₀ | assumption | intro _ | apply m2sGate_good | apply hostRequest_good | apply GoodX.next | dsimp only
      | split

theorem execMemWr_good {q₀ : List Instr} {p₀ : Bool} {c₀ : Option Nat} {s : State} {m : M2S} {data : List Byte}
    (h₀ : Good q₀ p₀ c₀ s) :
    GoodX q₀ p₀ c₀ (execMemWr m data s) := by
  unfold execMemWr
  try dsimp only
  with_reducible
    repeat' first
      | exact h₀ | assumption | intro _ | apply m2sGate_good | apply hostWrite_good | apply GoodX.next | dsimp only
      | split

theorem execMemWrPtl_good {q₀ : List Instr} {p₀ : Bool} {c₀ : Option Nat} {s : State} {m : M2S} {mask : BitVec 64}
    {data : List Byte} (h₀ : Good q₀ p₀ c₀ s) :
    GoodX q₀ p₀ c₀ (execMemWrPtl m mask data s) := by
  unfold execMemWrPtl
  try dsimp only
  with_reducible
    repeat' first
      | exact h₀ | assumption | intro _ | apply m2sGate_good | apply hostWrite_good | apply GoodX.next | dsimp only
      | split

theorem specEarly_good {q₀ : List Instr} {p₀ : Bool} {c₀ : Option Nat} {s : State} {d : Dec} {lines : List Nat}
    (h₀ : Good q₀ p₀ c₀ s) :
    Good q₀ p₀ c₀ (specEarly s d lines) := by
  unfold specEarly
  try dsimp only
  with_reducible
    repeat' first
      | exact h₀ | assumption | intro _ | apply casLines_good | apply Good.ite | dsimp only | split

theorem specRead_good {q₀ : List Instr} {p₀ : Bool} {c₀ : Option Nat} {s : State} {m : M2S} (h₀ : Good q₀ p₀ c₀ s) :
    Good q₀ p₀ c₀ (specRead s m) := by
  unfold specRead
  try dsimp only
  with_reducible
    repeat' first
      | exact h₀ | assumption | intro _ | apply countRefusal_good | apply leavesIngress_good | apply specEarly_good
      | apply Good.ite | refine Good.of_pair (by assumption) ?_ | dsimp only | split

theorem execMemSpecRd_good {q₀ : List Instr} {p₀ : Bool} {c₀ : Option Nat} {s : State} {m : M2S}
    (h₀ : Good q₀ p₀ c₀ s) :
    GoodX q₀ p₀ c₀ (execMemSpecRd m s) := by
  unfold execMemSpecRd
  try dsimp only
  with_reducible
    repeat' first
      | exact h₀ | assumption | intro _ | apply m2sGate_good | apply specRead_good | apply GoodX.next | dsimp only
      | split

theorem conflict_good {q₀ : List Instr} {p₀ : Bool} {c₀ : Option Nat} {s : State} {m : M2S} (h₀ : Good q₀ p₀ c₀ s) :
    Good q₀ p₀ c₀ (conflict s m) := by
  unfold conflict
  try dsimp only
  with_reducible
    repeat' first
      | exact h₀ | assumption | intro _ | apply leavesIngress_good | apply sendNdr_good | apply countRefusal_good
      | apply modTrk_good | refine Good.of_pair (by assumption) ?_ | dsimp only | split | refine Good.upd ?_

theorem execBiConflict_good {q₀ : List Instr} {p₀ : Bool} {c₀ : Option Nat} {s : State} {m : M2S}
    (h₀ : Good q₀ p₀ c₀ s) :
    GoodX q₀ p₀ c₀ (execBiConflict m s) := by
  unfold execBiConflict
  try dsimp only
  with_reducible
    repeat' first
      | exact h₀ | assumption | intro _ | apply m2sGate_good | apply conflict_good | apply GoodX.next | dsimp only
      | split

theorem execUnsupportedM2sOpcode_good {q₀ : List Instr} {p₀ : Bool} {c₀ : Option Nat} {s : State} {m : M2S}
    {write : Bool} (h₀ : Good q₀ p₀ c₀ s) :
    GoodX q₀ p₀ c₀ (execUnsupportedM2sOpcode m write s) := by
  unfold execUnsupportedM2sOpcode
  try dsimp only
  with_reducible
    repeat' first
      | exact h₀ | assumption | intro _ | apply m2sGate_good | apply turnAway_good | apply protoOccurrence_good
      | apply GoodX.next | dsimp only | split

end Sys2Proof.Machine
end

