-- ==== Sys2Proof/Laws/GoodWake.lean ====
section
/-! SUPPORT. The operations of Machine/Wake.lean keep the state good (`Good`). -/

set_option linter.unusedTactic false
set_option linter.unreachableTactic false

set_option Elab.async false

namespace Sys2Proof.Machine

open Sys2Proof

theorem replayRow_good {q₀ : List Instr} {p₀ : Bool} {c₀ : Option Nat} {i : Instr} {s : State} (h₀ : Good q₀ p₀ c₀ s) :
    GoodX q₀ p₀ c₀ (replayRow i s) := by
  cases i with
  | registerWrite => exact execRegisterWrite_good h₀
  | memRd => exact execMemRd_good h₀
  | memRdData => exact execMemRdData_good h₀
  | memSpecRd => exact execMemSpecRd_good h₀
  | memInv => exact execMemInv_good h₀
  | memInvNt => exact execMemInvNt_good h₀
  | memClnEvct => exact execMemClnEvct_good h₀
  | biConflict => exact execBiConflict_good h₀
  | memWr => exact execMemWr_good h₀
  | memWrPtl => exact execMemWrPtl_good h₀
  | biRsp => exact execBiRsp_good h₀
  | unsupportedM2sOpcode => exact execUnsupportedM2sOpcode_good h₀
  | functionLevelReset => exact execFunctionLevelReset_good h₀
  | doeDiscovery => exact execDoeDiscovery_good h₀
  | cdatRead => exact execCdatRead_good h₀
  | getVersion => exact execGetVersion_good h₀
  | getCapabilities => exact execGetCapabilities_good h₀
  | negotiateAlgorithms => exact execNegotiateAlgorithms_good h₀
  | getCertificate => exact execGetCertificate_good h₀
  | challenge => exact execChallenge_good h₀
  | getMeasurements => exact execGetMeasurements_good h₀
  | keyExchange => exact execKeyExchange_good h₀
  | heartbeat => exact execHeartbeat_good h₀
  | setCertificate => exact execSetCertificate_good h₀
  | mailboxUnsupportedOpcode => exact execMailboxUnsupportedOpcode_good h₀
  | getEventRecords => exact execGetEventRecords_good h₀
  | clearEventRecords => exact execClearEventRecords_good h₀
  | getEventInterruptPolicy => exact execGetEventInterruptPolicy_good h₀
  | setEventInterruptPolicy => exact execSetEventInterruptPolicy_good h₀
  | getFwInfo => exact execGetFwInfo_good h₀
  | transferFw => exact execTransferFw_good h₀
  | activateFw => exact execActivateFw_good h₀
  | getTimestamp => exact execGetTimestamp_good h₀
  | setTimestamp => exact execSetTimestamp_good h₀
  | getSupportedLogs => exact execGetSupportedLogs_good h₀
  | getLog => exact execGetLog_good h₀
  | identifyMemoryDevice => exact execIdentifyMemoryDevice_good h₀
  | getPoisonList => exact execGetPoisonList_good h₀
  | injectPoison => exact execInjectPoison_good h₀
  | clearPoison => exact execClearPoison_good h₀
  | scanMediaCapabilities => exact execScanMediaCapabilities_good h₀
  | scanMediaStart => exact execScanMediaStart_good h₀
  | scanMediaResults => exact execScanMediaResults_good h₀
  | sanitize => exact execSanitize_good h₀
  | secureErase => exact execSecureErase_good h₀
  | getDcConfig => exact execGetDcConfig_good h₀
  | getDcExtentList => exact execGetDcExtentList_good h₀
  | addDcResponse => exact execAddDcResponse_good h₀
  | releaseDc => exact execReleaseDc_good h₀
  | initiateDcAdd => exact execInitiateDcAdd_good h₀
  | initiateDcRelease => exact execInitiateDcRelease_good h₀
  | forcedDcRemoval => exact execForcedDcRemoval_good h₀
  | seatEnable => exact execSeatEnable_good h₀
  | seatDisable => exact execSeatDisable_good h₀
  | windowEnable => exact execWindowEnable_good h₀
  | windowDisable => exact execWindowDisable_good h₀
  | serialModeTest => exact execSerialModeTest_good h₀
  | sqTailDoorbell => exact execSqTailDoorbell_good h₀
  | cqHeadDoorbell => exact execCqHeadDoorbell_good h₀
  | ringEnable => exact execRingEnable_good h₀
  | ringDisable => exact execRingDisable_good h₀
  | cqSetup => exact execCqSetup_good h₀
  | channelRetrain => exact execChannelRetrain_good h₀
  | rateChange => exact execRateChange_good h₀
  | faultInject => exact execFaultInject_good h₀
  | budgetWrite => exact execBudgetWrite_good h₀
  | getQosStatus => exact execGetQosStatus_good h₀
  | setQosControl => exact execSetQosControl_good h₀
  | reweaveRequest => exact execReweaveRequest_good h₀
  | mctpReweaveRequest => exact execMctpReweaveRequest_good h₀
  | fullImageTransfer => exact execFullImageTransfer_good h₀
  | laneWidthChange => exact execLaneWidthChange_good h₀
  | plyPromote => exact execPlyPromote_good h₀
  | sleepReq => exact execSleepReq_good h₀
  | wakeReq => exact execWakeReq_good h₀
  | dvfsTarget => exact execDvfsTarget_good h₀
  | globalResetRequest => exact execGlobalResetRequest_good h₀
  | warmResetRequest => exact execWarmResetRequest_good h₀
  | watchdogKick => exact execWatchdogKick_good h₀
  | bootConfirm => exact execBootConfirm_good h₀
  | calibrationStart => exact execCalibrationStart_good h₀
  | mbxPush => exact execMbxPush_good h₀
  | mbxPop => exact execMbxPop_good h₀
  | mbxDbRing => exact execMbxDbRing_good h₀
  | setEndpointId => exact execSetEndpointId_good h₀
  | pldmFirmwareUpdate => exact execPldmFirmwareUpdate_good h₀
  | pldmGetSensorReading => exact execPldmGetSensorReading_good h₀
  | getLcChallenge => exact execGetLcChallenge_good h₀
  | lcTransition => exact execLcTransition_good h₀
  | debugUnlock => exact execDebugUnlock_good h₀
  | dumpEnable => exact execDumpEnable_good h₀
  | pmuFreeze => exact execPmuFreeze_good h₀
  | registerRead => exact execRegisterRead_good h₀
  | getEndpointId => exact execGetEndpointId_good h₀
  | mctpGetVersion => exact execMctpGetVersion_good h₀
  | getMessageTypeSupport => exact execGetMessageTypeSupport_good h₀
  | pldmActivateFirmware => exact execPldmActivateFirmware_good h₀
  | _ => exact GoodX.next h₀

theorem replayOne_good {q₀ : List Instr} {p₀ : Bool} {c₀ : Option Nat} {s : State} {i : Instr} (h₀ : Good q₀ p₀ c₀ s) :
    Good q₀ p₀ c₀ (replayOne s i) := by
  unfold replayOne
  split
  · rename_i heq
    exact (replayRow_good h₀).good _ heq
  · exact h₀

theorem replayHeld_good {q₀ : List Instr} {p₀ : Bool} {c₀ : Option Nat} {s : State}  (h₀ : Good q₀ p₀ c₀ s) :
    Good q₀ p₀ c₀ (replayHeld s) := by
  unfold replayHeld
  try dsimp only
  with_reducible
    repeat' first
      | exact h₀ | assumption | intro _ | apply replayOne_good | apply Good.foldl | apply Good.foldl_fst | dsimp only
      | split | refine Good.upd ?_

theorem execWakeStepReady_good {q₀ : List Instr} {p₀ : Bool} {c₀ : Option Nat} {s : State} {dom : Fin 26}
    (h₀ : Good q₀ p₀ c₀ s) :
    GoodX q₀ p₀ c₀ (execWakeStepReady dom s) := by
  unfold execWakeStepReady
  try dsimp only
  with_reducible
    repeat' first
      | exact h₀ | assumption | intro _ | apply replayHeld_good | apply wakeReady_good | apply GoodX.next | dsimp only
      | split

theorem execWakeStepTimeout_good {q₀ : List Instr} {p₀ : Bool} {c₀ : Option Nat} {s : State}  (h₀ : Good q₀ p₀ c₀ s) :
    GoodX q₀ p₀ c₀ (execWakeStepTimeout s) := by
  unfold execWakeStepTimeout
  try dsimp only
  with_reducible
    repeat' first
      | exact h₀ | assumption | intro _ | apply replayHeld_good | apply wakeFails_good | apply GoodX.next | dsimp only
      | split

end Sys2Proof.Machine
end

