-- ==== Sys2Proof/Laws/State.lean ====
section
/-! SUPPORT. What each named update of State does to every field, and what the table accessors read after it. Each is true by
computation and a simp lemma; a conjunction gives simp one rewrite for each of its parts. -/

set_option Elab.async false

namespace Sys2Proof.Machine

open Sys2Proof

variable (s : State)

/-- `modPort` changes only `ports`. -/
@[simp] theorem modPort_fields (k : Nat) (f : Port → Port) :
    (modPort s k f).now = s.now ∧ (modPort s k f).pending = s.pending ∧ (modPort s k f).free = s.free ∧
    (modPort s k f).stamp = s.stamp ∧ (modPort s k f).out = s.out ∧ (modPort s k f).boot = s.boot ∧
    (modPort s k f).regs = s.regs ∧ (modPort s k f).cnts = s.cnts ∧ (modPort s k f).latches = s.latches ∧
    (modPort s k f).marks = s.marks ∧ (modPort s k f).log = s.log ∧ (modPort s k f).ports = tabMod {} s.ports k f ∧
    (modPort s k f).links = s.links ∧ (modPort s k f).fns = s.fns ∧ (modPort s k f).seats = s.seats ∧
    (modPort s k f).groups = s.groups ∧ (modPort s k f).wins = s.wins ∧ (modPort s k f).blocks = s.blocks ∧
    (modPort s k f).nextExt = s.nextExt ∧ (modPort s k f).ledger = s.ledger ∧ (modPort s k f).ingress = s.ingress ∧
    (modPort s k f).trk = s.trk ∧ (modPort s k f).use = s.use ∧ (modPort s k f).creel = s.creel ∧
    (modPort s k f).acts = s.acts ∧ (modPort s k f).xing = s.xing ∧ (modPort s k f).slices = s.slices ∧
    (modPort s k f).serialRr = s.serialRr ∧
    (modPort s k f).serialIn = s.serialIn ∧ (modPort s k f).hanks = s.hanks ∧ (modPort s k f).pages = s.pages ∧
    (modPort s k f).skein = s.skein ∧ (modPort s k f).acc = s.acc ∧ (modPort s k f).lost = s.lost ∧
    (modPort s k f).lcache = s.lcache ∧ (modPort s k f).carder = s.carder ∧ (modPort s k f).used = s.used ∧
    (modPort s k f).dram = s.dram ∧ (modPort s k f).slots = s.slots ∧ (modPort s k f).keys = s.keys ∧
    (modPort s k f).spn = s.spn ∧ (modPort s k f).units = s.units ∧ (modPort s k f).rings = s.rings ∧
    (modPort s k f).descs = s.descs ∧ (modPort s k f).chans = s.chans ∧ (modPort s k f).rate = s.rate ∧
    (modPort s k f).passes = s.passes ∧ (modPort s k f).plist = s.plist ∧ (modPort s k f).qos = s.qos ∧
    (modPort s k f).stations = s.stations ∧ (modPort s k f).fabric = s.fabric ∧ (modPort s k f).img = s.img ∧
    (modPort s k f).ply = s.ply ∧ (modPort s k f).pair = s.pair ∧ (modPort s k f).doms = s.doms ∧
    (modPort s k f).power = s.power ∧ (modPort s k f).hsw = s.hsw ∧ (modPort s k f).mbx = s.mbx ∧
    (modPort s k f).banks = s.banks ∧ (modPort s k f).sec = s.sec ∧ (modPort s k f).mgmt = s.mgmt ∧
    (modPort s k f).pmu = s.pmu :=
  ⟨rfl, rfl, rfl, rfl, rfl, rfl, rfl, rfl, rfl, rfl, rfl, rfl, rfl, rfl, rfl, rfl, rfl, rfl, rfl, rfl, rfl, rfl, rfl, rfl,
  rfl, rfl, rfl, rfl, rfl, rfl, rfl, rfl, rfl, rfl, rfl, rfl, rfl, rfl, rfl, rfl, rfl, rfl, rfl, rfl, rfl, rfl, rfl,
  rfl, rfl, rfl, rfl, rfl, rfl, rfl, rfl, rfl, rfl, rfl, rfl, rfl, rfl, rfl⟩

@[simp] theorem portAt_modPort (k j : Nat) (f : Port → Port) :
    portAt (modPort s k f) j = if j = k then f (portAt s j) else portAt s j := tabGet_mod ({} : Port) s.ports k j f

@[simp] theorem modPort_reads (k : Nat) (f : Port → Port) (j : Nat) :
    linkAt (modPort s k f) j = linkAt s j ∧ fnAt (modPort s k f) j = fnAt s j ∧
    seatAt (modPort s k f) j = seatAt s j ∧ groupAt (modPort s k f) j = groupAt s j ∧
    winAt (modPort s k f) j = winAt s j ∧ blockAt (modPort s k f) j = blockAt s j ∧
    ingressAt (modPort s k f) j = ingressAt s j ∧ trkAt (modPort s k f) j = trkAt s j ∧
    useAt (modPort s k f) j = useAt s j ∧ creelAt (modPort s k f) j = creelAt s j ∧
    actAt (modPort s k f) j = actAt s j ∧ xingAt (modPort s k f) j = xingAt s j ∧
    sliceAt (modPort s k f) j = sliceAt s j ∧ hankRaw (modPort s k f) j = hankRaw s j ∧
    pageAt (modPort s k f) j = pageAt s j ∧ cached (modPort s k f) j = cached s j ∧
    accAt (modPort s k f) j = accAt s j ∧ lcacheAt (modPort s k f) j = lcacheAt s j ∧
    usedAt (modPort s k f) j = usedAt s j ∧ dramAt (modPort s k f) j = dramAt s j ∧
    slotAt (modPort s k f) j = slotAt s j ∧ spnAt (modPort s k f) j = spnAt s j ∧
    ringAt (modPort s k f) j = ringAt s j ∧ descAt (modPort s k f) j = descAt s j ∧
    chAt (modPort s k f) j = chAt s j ∧ stAt (modPort s k f) j = stAt s j ∧ plyAt (modPort s k f) j = plyAt s j ∧
    domAt (modPort s k f) j = domAt s j ∧ mbxAt (modPort s k f) j = mbxAt s j ∧
    bankAt (modPort s k f) j = bankAt s j ∧ regAt (modPort s k f) j = regAt s j ∧ cntAt (modPort s k f) j = cntAt s j :=
  ⟨rfl, rfl, rfl, rfl, rfl, rfl, rfl, rfl, rfl, rfl, rfl, rfl, rfl, rfl, rfl, rfl, rfl, rfl, rfl, rfl, rfl, rfl, rfl,
  rfl, rfl, rfl, rfl, rfl, rfl, rfl, rfl, rfl⟩

/-- `modLink` changes only `links`. -/
@[simp] theorem modLink_fields (k : Nat) (f : Link → Link) :
    (modLink s k f).now = s.now ∧ (modLink s k f).pending = s.pending ∧ (modLink s k f).free = s.free ∧
    (modLink s k f).stamp = s.stamp ∧ (modLink s k f).out = s.out ∧ (modLink s k f).boot = s.boot ∧
    (modLink s k f).regs = s.regs ∧ (modLink s k f).cnts = s.cnts ∧ (modLink s k f).latches = s.latches ∧
    (modLink s k f).marks = s.marks ∧ (modLink s k f).log = s.log ∧ (modLink s k f).ports = s.ports ∧
    (modLink s k f).links = tabMod {} s.links k f ∧ (modLink s k f).fns = s.fns ∧ (modLink s k f).seats = s.seats ∧
    (modLink s k f).groups = s.groups ∧ (modLink s k f).wins = s.wins ∧ (modLink s k f).blocks = s.blocks ∧
    (modLink s k f).nextExt = s.nextExt ∧ (modLink s k f).ledger = s.ledger ∧ (modLink s k f).ingress = s.ingress ∧
    (modLink s k f).trk = s.trk ∧ (modLink s k f).use = s.use ∧ (modLink s k f).creel = s.creel ∧
    (modLink s k f).acts = s.acts ∧ (modLink s k f).xing = s.xing ∧ (modLink s k f).slices = s.slices ∧
    (modLink s k f).serialRr = s.serialRr ∧
    (modLink s k f).serialIn = s.serialIn ∧ (modLink s k f).hanks = s.hanks ∧ (modLink s k f).pages = s.pages ∧
    (modLink s k f).skein = s.skein ∧ (modLink s k f).acc = s.acc ∧ (modLink s k f).lost = s.lost ∧
    (modLink s k f).lcache = s.lcache ∧ (modLink s k f).carder = s.carder ∧ (modLink s k f).used = s.used ∧
    (modLink s k f).dram = s.dram ∧ (modLink s k f).slots = s.slots ∧ (modLink s k f).keys = s.keys ∧
    (modLink s k f).spn = s.spn ∧ (modLink s k f).units = s.units ∧ (modLink s k f).rings = s.rings ∧
    (modLink s k f).descs = s.descs ∧ (modLink s k f).chans = s.chans ∧ (modLink s k f).rate = s.rate ∧
    (modLink s k f).passes = s.passes ∧ (modLink s k f).plist = s.plist ∧ (modLink s k f).qos = s.qos ∧
    (modLink s k f).stations = s.stations ∧ (modLink s k f).fabric = s.fabric ∧ (modLink s k f).img = s.img ∧
    (modLink s k f).ply = s.ply ∧ (modLink s k f).pair = s.pair ∧ (modLink s k f).doms = s.doms ∧
    (modLink s k f).power = s.power ∧ (modLink s k f).hsw = s.hsw ∧ (modLink s k f).mbx = s.mbx ∧
    (modLink s k f).banks = s.banks ∧ (modLink s k f).sec = s.sec ∧ (modLink s k f).mgmt = s.mgmt ∧
    (modLink s k f).pmu = s.pmu :=
  ⟨rfl, rfl, rfl, rfl, rfl, rfl, rfl, rfl, rfl, rfl, rfl, rfl, rfl, rfl, rfl, rfl, rfl, rfl, rfl, rfl, rfl, rfl, rfl, rfl,
  rfl, rfl, rfl, rfl, rfl, rfl, rfl, rfl, rfl, rfl, rfl, rfl, rfl, rfl, rfl, rfl, rfl, rfl, rfl, rfl, rfl, rfl, rfl,
  rfl, rfl, rfl, rfl, rfl, rfl, rfl, rfl, rfl, rfl, rfl, rfl, rfl, rfl, rfl⟩

@[simp] theorem linkAt_modLink (k j : Nat) (f : Link → Link) :
    linkAt (modLink s k f) j = if j = k then f (linkAt s j) else linkAt s j := tabGet_mod ({} : Link) s.links k j f

@[simp] theorem modLink_reads (k : Nat) (f : Link → Link) (j : Nat) :
    portAt (modLink s k f) j = portAt s j ∧ fnAt (modLink s k f) j = fnAt s j ∧
    seatAt (modLink s k f) j = seatAt s j ∧ groupAt (modLink s k f) j = groupAt s j ∧
    winAt (modLink s k f) j = winAt s j ∧ blockAt (modLink s k f) j = blockAt s j ∧
    ingressAt (modLink s k f) j = ingressAt s j ∧ trkAt (modLink s k f) j = trkAt s j ∧
    useAt (modLink s k f) j = useAt s j ∧ creelAt (modLink s k f) j = creelAt s j ∧
    actAt (modLink s k f) j = actAt s j ∧ xingAt (modLink s k f) j = xingAt s j ∧
    sliceAt (modLink s k f) j = sliceAt s j ∧ hankRaw (modLink s k f) j = hankRaw s j ∧
    pageAt (modLink s k f) j = pageAt s j ∧ cached (modLink s k f) j = cached s j ∧
    accAt (modLink s k f) j = accAt s j ∧ lcacheAt (modLink s k f) j = lcacheAt s j ∧
    usedAt (modLink s k f) j = usedAt s j ∧ dramAt (modLink s k f) j = dramAt s j ∧
    slotAt (modLink s k f) j = slotAt s j ∧ spnAt (modLink s k f) j = spnAt s j ∧
    ringAt (modLink s k f) j = ringAt s j ∧ descAt (modLink s k f) j = descAt s j ∧
    chAt (modLink s k f) j = chAt s j ∧ stAt (modLink s k f) j = stAt s j ∧ plyAt (modLink s k f) j = plyAt s j ∧
    domAt (modLink s k f) j = domAt s j ∧ mbxAt (modLink s k f) j = mbxAt s j ∧
    bankAt (modLink s k f) j = bankAt s j ∧ regAt (modLink s k f) j = regAt s j ∧ cntAt (modLink s k f) j = cntAt s j :=
  ⟨rfl, rfl, rfl, rfl, rfl, rfl, rfl, rfl, rfl, rfl, rfl, rfl, rfl, rfl, rfl, rfl, rfl, rfl, rfl, rfl, rfl, rfl, rfl,
  rfl, rfl, rfl, rfl, rfl, rfl, rfl, rfl, rfl⟩

/-- `modFn` changes only `fns`. -/
@[simp] theorem modFn_fields (k : Nat) (f : FnState → FnState) :
    (modFn s k f).now = s.now ∧ (modFn s k f).pending = s.pending ∧ (modFn s k f).free = s.free ∧
    (modFn s k f).stamp = s.stamp ∧ (modFn s k f).out = s.out ∧ (modFn s k f).boot = s.boot ∧
    (modFn s k f).regs = s.regs ∧ (modFn s k f).cnts = s.cnts ∧ (modFn s k f).latches = s.latches ∧
    (modFn s k f).marks = s.marks ∧ (modFn s k f).log = s.log ∧ (modFn s k f).ports = s.ports ∧
    (modFn s k f).links = s.links ∧ (modFn s k f).fns = tabMod {} s.fns k f ∧ (modFn s k f).seats = s.seats ∧
    (modFn s k f).groups = s.groups ∧ (modFn s k f).wins = s.wins ∧ (modFn s k f).blocks = s.blocks ∧
    (modFn s k f).nextExt = s.nextExt ∧ (modFn s k f).ledger = s.ledger ∧ (modFn s k f).ingress = s.ingress ∧
    (modFn s k f).trk = s.trk ∧ (modFn s k f).use = s.use ∧ (modFn s k f).creel = s.creel ∧
    (modFn s k f).acts = s.acts ∧ (modFn s k f).xing = s.xing ∧ (modFn s k f).slices = s.slices ∧
    (modFn s k f).serialRr = s.serialRr ∧
    (modFn s k f).serialIn = s.serialIn ∧ (modFn s k f).hanks = s.hanks ∧ (modFn s k f).pages = s.pages ∧
    (modFn s k f).skein = s.skein ∧ (modFn s k f).acc = s.acc ∧ (modFn s k f).lost = s.lost ∧
    (modFn s k f).lcache = s.lcache ∧ (modFn s k f).carder = s.carder ∧ (modFn s k f).used = s.used ∧
    (modFn s k f).dram = s.dram ∧ (modFn s k f).slots = s.slots ∧ (modFn s k f).keys = s.keys ∧
    (modFn s k f).spn = s.spn ∧ (modFn s k f).units = s.units ∧ (modFn s k f).rings = s.rings ∧
    (modFn s k f).descs = s.descs ∧ (modFn s k f).chans = s.chans ∧ (modFn s k f).rate = s.rate ∧
    (modFn s k f).passes = s.passes ∧ (modFn s k f).plist = s.plist ∧ (modFn s k f).qos = s.qos ∧
    (modFn s k f).stations = s.stations ∧ (modFn s k f).fabric = s.fabric ∧ (modFn s k f).img = s.img ∧
    (modFn s k f).ply = s.ply ∧ (modFn s k f).pair = s.pair ∧ (modFn s k f).doms = s.doms ∧
    (modFn s k f).power = s.power ∧ (modFn s k f).hsw = s.hsw ∧ (modFn s k f).mbx = s.mbx ∧
    (modFn s k f).banks = s.banks ∧ (modFn s k f).sec = s.sec ∧ (modFn s k f).mgmt = s.mgmt ∧
    (modFn s k f).pmu = s.pmu :=
  ⟨rfl, rfl, rfl, rfl, rfl, rfl, rfl, rfl, rfl, rfl, rfl, rfl, rfl, rfl, rfl, rfl, rfl, rfl, rfl, rfl, rfl, rfl, rfl, rfl,
  rfl, rfl, rfl, rfl, rfl, rfl, rfl, rfl, rfl, rfl, rfl, rfl, rfl, rfl, rfl, rfl, rfl, rfl, rfl, rfl, rfl, rfl, rfl,
  rfl, rfl, rfl, rfl, rfl, rfl, rfl, rfl, rfl, rfl, rfl, rfl, rfl, rfl, rfl⟩

@[simp] theorem fnAt_modFn (k j : Nat) (f : FnState → FnState) :
    fnAt (modFn s k f) j = if j = k then f (fnAt s j) else fnAt s j := tabGet_mod ({} : FnState) s.fns k j f

@[simp] theorem modFn_reads (k : Nat) (f : FnState → FnState) (j : Nat) :
    portAt (modFn s k f) j = portAt s j ∧ linkAt (modFn s k f) j = linkAt s j ∧ seatAt (modFn s k f) j = seatAt s j ∧
    groupAt (modFn s k f) j = groupAt s j ∧ winAt (modFn s k f) j = winAt s j ∧
    blockAt (modFn s k f) j = blockAt s j ∧ ingressAt (modFn s k f) j = ingressAt s j ∧
    trkAt (modFn s k f) j = trkAt s j ∧ useAt (modFn s k f) j = useAt s j ∧ creelAt (modFn s k f) j = creelAt s j ∧
    actAt (modFn s k f) j = actAt s j ∧ xingAt (modFn s k f) j = xingAt s j ∧ sliceAt (modFn s k f) j = sliceAt s j ∧
    hankRaw (modFn s k f) j = hankRaw s j ∧ pageAt (modFn s k f) j = pageAt s j ∧
    cached (modFn s k f) j = cached s j ∧ accAt (modFn s k f) j = accAt s j ∧
    lcacheAt (modFn s k f) j = lcacheAt s j ∧ usedAt (modFn s k f) j = usedAt s j ∧
    dramAt (modFn s k f) j = dramAt s j ∧ slotAt (modFn s k f) j = slotAt s j ∧ spnAt (modFn s k f) j = spnAt s j ∧
    ringAt (modFn s k f) j = ringAt s j ∧ descAt (modFn s k f) j = descAt s j ∧ chAt (modFn s k f) j = chAt s j ∧
    stAt (modFn s k f) j = stAt s j ∧ plyAt (modFn s k f) j = plyAt s j ∧ domAt (modFn s k f) j = domAt s j ∧
    mbxAt (modFn s k f) j = mbxAt s j ∧ bankAt (modFn s k f) j = bankAt s j ∧ regAt (modFn s k f) j = regAt s j ∧
    cntAt (modFn s k f) j = cntAt s j :=
  ⟨rfl, rfl, rfl, rfl, rfl, rfl, rfl, rfl, rfl, rfl, rfl, rfl, rfl, rfl, rfl, rfl, rfl, rfl, rfl, rfl, rfl, rfl, rfl,
  rfl, rfl, rfl, rfl, rfl, rfl, rfl, rfl, rfl⟩

/-- `modSeat` changes only `seats`. -/
@[simp] theorem modSeat_fields (k : Nat) (f : Seat → Seat) :
    (modSeat s k f).now = s.now ∧ (modSeat s k f).pending = s.pending ∧ (modSeat s k f).free = s.free ∧
    (modSeat s k f).stamp = s.stamp ∧ (modSeat s k f).out = s.out ∧ (modSeat s k f).boot = s.boot ∧
    (modSeat s k f).regs = s.regs ∧ (modSeat s k f).cnts = s.cnts ∧ (modSeat s k f).latches = s.latches ∧
    (modSeat s k f).marks = s.marks ∧ (modSeat s k f).log = s.log ∧ (modSeat s k f).ports = s.ports ∧
    (modSeat s k f).links = s.links ∧ (modSeat s k f).fns = s.fns ∧ (modSeat s k f).seats = tabMod {} s.seats k f ∧
    (modSeat s k f).groups = s.groups ∧ (modSeat s k f).wins = s.wins ∧ (modSeat s k f).blocks = s.blocks ∧
    (modSeat s k f).nextExt = s.nextExt ∧ (modSeat s k f).ledger = s.ledger ∧ (modSeat s k f).ingress = s.ingress ∧
    (modSeat s k f).trk = s.trk ∧ (modSeat s k f).use = s.use ∧ (modSeat s k f).creel = s.creel ∧
    (modSeat s k f).acts = s.acts ∧ (modSeat s k f).xing = s.xing ∧ (modSeat s k f).slices = s.slices ∧
    (modSeat s k f).serialRr = s.serialRr ∧
    (modSeat s k f).serialIn = s.serialIn ∧ (modSeat s k f).hanks = s.hanks ∧ (modSeat s k f).pages = s.pages ∧
    (modSeat s k f).skein = s.skein ∧ (modSeat s k f).acc = s.acc ∧ (modSeat s k f).lost = s.lost ∧
    (modSeat s k f).lcache = s.lcache ∧ (modSeat s k f).carder = s.carder ∧ (modSeat s k f).used = s.used ∧
    (modSeat s k f).dram = s.dram ∧ (modSeat s k f).slots = s.slots ∧ (modSeat s k f).keys = s.keys ∧
    (modSeat s k f).spn = s.spn ∧ (modSeat s k f).units = s.units ∧ (modSeat s k f).rings = s.rings ∧
    (modSeat s k f).descs = s.descs ∧ (modSeat s k f).chans = s.chans ∧ (modSeat s k f).rate = s.rate ∧
    (modSeat s k f).passes = s.passes ∧ (modSeat s k f).plist = s.plist ∧ (modSeat s k f).qos = s.qos ∧
    (modSeat s k f).stations = s.stations ∧ (modSeat s k f).fabric = s.fabric ∧ (modSeat s k f).img = s.img ∧
    (modSeat s k f).ply = s.ply ∧ (modSeat s k f).pair = s.pair ∧ (modSeat s k f).doms = s.doms ∧
    (modSeat s k f).power = s.power ∧ (modSeat s k f).hsw = s.hsw ∧ (modSeat s k f).mbx = s.mbx ∧
    (modSeat s k f).banks = s.banks ∧ (modSeat s k f).sec = s.sec ∧ (modSeat s k f).mgmt = s.mgmt ∧
    (modSeat s k f).pmu = s.pmu :=
  ⟨rfl, rfl, rfl, rfl, rfl, rfl, rfl, rfl, rfl, rfl, rfl, rfl, rfl, rfl, rfl, rfl, rfl, rfl, rfl, rfl, rfl, rfl, rfl, rfl,
  rfl, rfl, rfl, rfl, rfl, rfl, rfl, rfl, rfl, rfl, rfl, rfl, rfl, rfl, rfl, rfl, rfl, rfl, rfl, rfl, rfl, rfl, rfl,
  rfl, rfl, rfl, rfl, rfl, rfl, rfl, rfl, rfl, rfl, rfl, rfl, rfl, rfl, rfl⟩

@[simp] theorem seatAt_modSeat (k j : Nat) (f : Seat → Seat) :
    seatAt (modSeat s k f) j = if j = k then f (seatAt s j) else seatAt s j := tabGet_mod ({} : Seat) s.seats k j f

@[simp] theorem modSeat_reads (k : Nat) (f : Seat → Seat) (j : Nat) :
    portAt (modSeat s k f) j = portAt s j ∧ linkAt (modSeat s k f) j = linkAt s j ∧
    fnAt (modSeat s k f) j = fnAt s j ∧ groupAt (modSeat s k f) j = groupAt s j ∧
    winAt (modSeat s k f) j = winAt s j ∧ blockAt (modSeat s k f) j = blockAt s j ∧
    ingressAt (modSeat s k f) j = ingressAt s j ∧ trkAt (modSeat s k f) j = trkAt s j ∧
    useAt (modSeat s k f) j = useAt s j ∧ creelAt (modSeat s k f) j = creelAt s j ∧
    actAt (modSeat s k f) j = actAt s j ∧ xingAt (modSeat s k f) j = xingAt s j ∧
    sliceAt (modSeat s k f) j = sliceAt s j ∧ hankRaw (modSeat s k f) j = hankRaw s j ∧
    pageAt (modSeat s k f) j = pageAt s j ∧ cached (modSeat s k f) j = cached s j ∧
    accAt (modSeat s k f) j = accAt s j ∧ lcacheAt (modSeat s k f) j = lcacheAt s j ∧
    usedAt (modSeat s k f) j = usedAt s j ∧ dramAt (modSeat s k f) j = dramAt s j ∧
    slotAt (modSeat s k f) j = slotAt s j ∧ spnAt (modSeat s k f) j = spnAt s j ∧
    ringAt (modSeat s k f) j = ringAt s j ∧ descAt (modSeat s k f) j = descAt s j ∧
    chAt (modSeat s k f) j = chAt s j ∧ stAt (modSeat s k f) j = stAt s j ∧ plyAt (modSeat s k f) j = plyAt s j ∧
    domAt (modSeat s k f) j = domAt s j ∧ mbxAt (modSeat s k f) j = mbxAt s j ∧
    bankAt (modSeat s k f) j = bankAt s j ∧ regAt (modSeat s k f) j = regAt s j ∧ cntAt (modSeat s k f) j = cntAt s j :=
  ⟨rfl, rfl, rfl, rfl, rfl, rfl, rfl, rfl, rfl, rfl, rfl, rfl, rfl, rfl, rfl, rfl, rfl, rfl, rfl, rfl, rfl, rfl, rfl,
  rfl, rfl, rfl, rfl, rfl, rfl, rfl, rfl, rfl⟩

/-- `modGroup` changes only `groups`. -/
@[simp] theorem modGroup_fields (k : Nat) (f : List Nat → List Nat) :
    (modGroup s k f).now = s.now ∧ (modGroup s k f).pending = s.pending ∧ (modGroup s k f).free = s.free ∧
    (modGroup s k f).stamp = s.stamp ∧ (modGroup s k f).out = s.out ∧ (modGroup s k f).boot = s.boot ∧
    (modGroup s k f).regs = s.regs ∧ (modGroup s k f).cnts = s.cnts ∧ (modGroup s k f).latches = s.latches ∧
    (modGroup s k f).marks = s.marks ∧ (modGroup s k f).log = s.log ∧ (modGroup s k f).ports = s.ports ∧
    (modGroup s k f).links = s.links ∧ (modGroup s k f).fns = s.fns ∧ (modGroup s k f).seats = s.seats ∧
    (modGroup s k f).groups = tabMod [] s.groups k f ∧ (modGroup s k f).wins = s.wins ∧
    (modGroup s k f).blocks = s.blocks ∧ (modGroup s k f).nextExt = s.nextExt ∧ (modGroup s k f).ledger = s.ledger ∧
    (modGroup s k f).ingress = s.ingress ∧ (modGroup s k f).trk = s.trk ∧ (modGroup s k f).use = s.use ∧
    (modGroup s k f).creel = s.creel ∧ (modGroup s k f).acts = s.acts ∧ (modGroup s k f).xing = s.xing ∧
    (modGroup s k f).slices = s.slices ∧ (modGroup s k f).serialRr = s.serialRr ∧
    (modGroup s k f).serialIn = s.serialIn ∧ (modGroup s k f).hanks = s.hanks ∧
    (modGroup s k f).pages = s.pages ∧ (modGroup s k f).skein = s.skein ∧ (modGroup s k f).acc = s.acc ∧
    (modGroup s k f).lost = s.lost ∧ (modGroup s k f).lcache = s.lcache ∧ (modGroup s k f).carder = s.carder ∧
    (modGroup s k f).used = s.used ∧ (modGroup s k f).dram = s.dram ∧ (modGroup s k f).slots = s.slots ∧
    (modGroup s k f).keys = s.keys ∧ (modGroup s k f).spn = s.spn ∧ (modGroup s k f).units = s.units ∧
    (modGroup s k f).rings = s.rings ∧ (modGroup s k f).descs = s.descs ∧ (modGroup s k f).chans = s.chans ∧
    (modGroup s k f).rate = s.rate ∧ (modGroup s k f).passes = s.passes ∧ (modGroup s k f).plist = s.plist ∧
    (modGroup s k f).qos = s.qos ∧ (modGroup s k f).stations = s.stations ∧ (modGroup s k f).fabric = s.fabric ∧
    (modGroup s k f).img = s.img ∧ (modGroup s k f).ply = s.ply ∧ (modGroup s k f).pair = s.pair ∧
    (modGroup s k f).doms = s.doms ∧ (modGroup s k f).power = s.power ∧ (modGroup s k f).hsw = s.hsw ∧
    (modGroup s k f).mbx = s.mbx ∧ (modGroup s k f).banks = s.banks ∧ (modGroup s k f).sec = s.sec ∧
    (modGroup s k f).mgmt = s.mgmt ∧ (modGroup s k f).pmu = s.pmu :=
  ⟨rfl, rfl, rfl, rfl, rfl, rfl, rfl, rfl, rfl, rfl, rfl, rfl, rfl, rfl, rfl, rfl, rfl, rfl, rfl, rfl, rfl, rfl, rfl, rfl,
  rfl, rfl, rfl, rfl, rfl, rfl, rfl, rfl, rfl, rfl, rfl, rfl, rfl, rfl, rfl, rfl, rfl, rfl, rfl, rfl, rfl, rfl, rfl,
  rfl, rfl, rfl, rfl, rfl, rfl, rfl, rfl, rfl, rfl, rfl, rfl, rfl, rfl, rfl⟩

@[simp] theorem groupAt_modGroup (k j : Nat) (f : List Nat → List Nat) :
    groupAt (modGroup s k f) j = if j = k then f (groupAt s j) else groupAt s j := tabGet_mod [] s.groups k j f

@[simp] theorem modGroup_reads (k : Nat) (f : List Nat → List Nat) (j : Nat) :
    portAt (modGroup s k f) j = portAt s j ∧ linkAt (modGroup s k f) j = linkAt s j ∧
    fnAt (modGroup s k f) j = fnAt s j ∧ seatAt (modGroup s k f) j = seatAt s j ∧
    winAt (modGroup s k f) j = winAt s j ∧ blockAt (modGroup s k f) j = blockAt s j ∧
    ingressAt (modGroup s k f) j = ingressAt s j ∧ trkAt (modGroup s k f) j = trkAt s j ∧
    useAt (modGroup s k f) j = useAt s j ∧ creelAt (modGroup s k f) j = creelAt s j ∧
    actAt (modGroup s k f) j = actAt s j ∧ xingAt (modGroup s k f) j = xingAt s j ∧
    sliceAt (modGroup s k f) j = sliceAt s j ∧ hankRaw (modGroup s k f) j = hankRaw s j ∧
    pageAt (modGroup s k f) j = pageAt s j ∧ cached (modGroup s k f) j = cached s j ∧
    accAt (modGroup s k f) j = accAt s j ∧ lcacheAt (modGroup s k f) j = lcacheAt s j ∧
    usedAt (modGroup s k f) j = usedAt s j ∧ dramAt (modGroup s k f) j = dramAt s j ∧
    slotAt (modGroup s k f) j = slotAt s j ∧ spnAt (modGroup s k f) j = spnAt s j ∧
    ringAt (modGroup s k f) j = ringAt s j ∧ descAt (modGroup s k f) j = descAt s j ∧
    chAt (modGroup s k f) j = chAt s j ∧ stAt (modGroup s k f) j = stAt s j ∧ plyAt (modGroup s k f) j = plyAt s j ∧
    domAt (modGroup s k f) j = domAt s j ∧ mbxAt (modGroup s k f) j = mbxAt s j ∧
    bankAt (modGroup s k f) j = bankAt s j ∧ regAt (modGroup s k f) j = regAt s j ∧
    cntAt (modGroup s k f) j = cntAt s j :=
  ⟨rfl, rfl, rfl, rfl, rfl, rfl, rfl, rfl, rfl, rfl, rfl, rfl, rfl, rfl, rfl, rfl, rfl, rfl, rfl, rfl, rfl, rfl, rfl,
  rfl, rfl, rfl, rfl, rfl, rfl, rfl, rfl, rfl⟩

/-- `modWin` changes only `wins`. -/
@[simp] theorem modWin_fields (k : Nat) (f : Win → Win) :
    (modWin s k f).now = s.now ∧ (modWin s k f).pending = s.pending ∧ (modWin s k f).free = s.free ∧
    (modWin s k f).stamp = s.stamp ∧ (modWin s k f).out = s.out ∧ (modWin s k f).boot = s.boot ∧
    (modWin s k f).regs = s.regs ∧ (modWin s k f).cnts = s.cnts ∧ (modWin s k f).latches = s.latches ∧
    (modWin s k f).marks = s.marks ∧ (modWin s k f).log = s.log ∧ (modWin s k f).ports = s.ports ∧
    (modWin s k f).links = s.links ∧ (modWin s k f).fns = s.fns ∧ (modWin s k f).seats = s.seats ∧
    (modWin s k f).groups = s.groups ∧ (modWin s k f).wins = tabMod {} s.wins k f ∧ (modWin s k f).blocks = s.blocks ∧
    (modWin s k f).nextExt = s.nextExt ∧ (modWin s k f).ledger = s.ledger ∧ (modWin s k f).ingress = s.ingress ∧
    (modWin s k f).trk = s.trk ∧ (modWin s k f).use = s.use ∧ (modWin s k f).creel = s.creel ∧
    (modWin s k f).acts = s.acts ∧ (modWin s k f).xing = s.xing ∧ (modWin s k f).slices = s.slices ∧
    (modWin s k f).serialRr = s.serialRr ∧
    (modWin s k f).serialIn = s.serialIn ∧ (modWin s k f).hanks = s.hanks ∧ (modWin s k f).pages = s.pages ∧
    (modWin s k f).skein = s.skein ∧ (modWin s k f).acc = s.acc ∧ (modWin s k f).lost = s.lost ∧
    (modWin s k f).lcache = s.lcache ∧ (modWin s k f).carder = s.carder ∧ (modWin s k f).used = s.used ∧
    (modWin s k f).dram = s.dram ∧ (modWin s k f).slots = s.slots ∧ (modWin s k f).keys = s.keys ∧
    (modWin s k f).spn = s.spn ∧ (modWin s k f).units = s.units ∧ (modWin s k f).rings = s.rings ∧
    (modWin s k f).descs = s.descs ∧ (modWin s k f).chans = s.chans ∧ (modWin s k f).rate = s.rate ∧
    (modWin s k f).passes = s.passes ∧ (modWin s k f).plist = s.plist ∧ (modWin s k f).qos = s.qos ∧
    (modWin s k f).stations = s.stations ∧ (modWin s k f).fabric = s.fabric ∧ (modWin s k f).img = s.img ∧
    (modWin s k f).ply = s.ply ∧ (modWin s k f).pair = s.pair ∧ (modWin s k f).doms = s.doms ∧
    (modWin s k f).power = s.power ∧ (modWin s k f).hsw = s.hsw ∧ (modWin s k f).mbx = s.mbx ∧
    (modWin s k f).banks = s.banks ∧ (modWin s k f).sec = s.sec ∧ (modWin s k f).mgmt = s.mgmt ∧
    (modWin s k f).pmu = s.pmu :=
  ⟨rfl, rfl, rfl, rfl, rfl, rfl, rfl, rfl, rfl, rfl, rfl, rfl, rfl, rfl, rfl, rfl, rfl, rfl, rfl, rfl, rfl, rfl, rfl, rfl,
  rfl, rfl, rfl, rfl, rfl, rfl, rfl, rfl, rfl, rfl, rfl, rfl, rfl, rfl, rfl, rfl, rfl, rfl, rfl, rfl, rfl, rfl, rfl,
  rfl, rfl, rfl, rfl, rfl, rfl, rfl, rfl, rfl, rfl, rfl, rfl, rfl, rfl, rfl⟩

@[simp] theorem winAt_modWin (k j : Nat) (f : Win → Win) :
    winAt (modWin s k f) j = if j = k then f (winAt s j) else winAt s j := tabGet_mod ({} : Win) s.wins k j f

@[simp] theorem modWin_reads (k : Nat) (f : Win → Win) (j : Nat) :
    portAt (modWin s k f) j = portAt s j ∧ linkAt (modWin s k f) j = linkAt s j ∧ fnAt (modWin s k f) j = fnAt s j ∧
    seatAt (modWin s k f) j = seatAt s j ∧ groupAt (modWin s k f) j = groupAt s j ∧
    blockAt (modWin s k f) j = blockAt s j ∧ ingressAt (modWin s k f) j = ingressAt s j ∧
    trkAt (modWin s k f) j = trkAt s j ∧ useAt (modWin s k f) j = useAt s j ∧ creelAt (modWin s k f) j = creelAt s j ∧
    actAt (modWin s k f) j = actAt s j ∧ xingAt (modWin s k f) j = xingAt s j ∧
    sliceAt (modWin s k f) j = sliceAt s j ∧ hankRaw (modWin s k f) j = hankRaw s j ∧
    pageAt (modWin s k f) j = pageAt s j ∧ cached (modWin s k f) j = cached s j ∧ accAt (modWin s k f) j = accAt s j ∧
    lcacheAt (modWin s k f) j = lcacheAt s j ∧ usedAt (modWin s k f) j = usedAt s j ∧
    dramAt (modWin s k f) j = dramAt s j ∧ slotAt (modWin s k f) j = slotAt s j ∧ spnAt (modWin s k f) j = spnAt s j ∧
    ringAt (modWin s k f) j = ringAt s j ∧ descAt (modWin s k f) j = descAt s j ∧ chAt (modWin s k f) j = chAt s j ∧
    stAt (modWin s k f) j = stAt s j ∧ plyAt (modWin s k f) j = plyAt s j ∧ domAt (modWin s k f) j = domAt s j ∧
    mbxAt (modWin s k f) j = mbxAt s j ∧ bankAt (modWin s k f) j = bankAt s j ∧ regAt (modWin s k f) j = regAt s j ∧
    cntAt (modWin s k f) j = cntAt s j :=
  ⟨rfl, rfl, rfl, rfl, rfl, rfl, rfl, rfl, rfl, rfl, rfl, rfl, rfl, rfl, rfl, rfl, rfl, rfl, rfl, rfl, rfl, rfl, rfl,
  rfl, rfl, rfl, rfl, rfl, rfl, rfl, rfl, rfl⟩

/-- `modBlock` changes only `blocks`. -/
@[simp] theorem modBlock_fields (k : Nat) (f : Block → Block) :
    (modBlock s k f).now = s.now ∧ (modBlock s k f).pending = s.pending ∧ (modBlock s k f).free = s.free ∧
    (modBlock s k f).stamp = s.stamp ∧ (modBlock s k f).out = s.out ∧ (modBlock s k f).boot = s.boot ∧
    (modBlock s k f).regs = s.regs ∧ (modBlock s k f).cnts = s.cnts ∧ (modBlock s k f).latches = s.latches ∧
    (modBlock s k f).marks = s.marks ∧ (modBlock s k f).log = s.log ∧ (modBlock s k f).ports = s.ports ∧
    (modBlock s k f).links = s.links ∧ (modBlock s k f).fns = s.fns ∧ (modBlock s k f).seats = s.seats ∧
    (modBlock s k f).groups = s.groups ∧ (modBlock s k f).wins = s.wins ∧
    (modBlock s k f).blocks = tabMod {} s.blocks k f ∧ (modBlock s k f).nextExt = s.nextExt ∧
    (modBlock s k f).ledger = s.ledger ∧ (modBlock s k f).ingress = s.ingress ∧ (modBlock s k f).trk = s.trk ∧
    (modBlock s k f).use = s.use ∧ (modBlock s k f).creel = s.creel ∧ (modBlock s k f).acts = s.acts ∧
    (modBlock s k f).xing = s.xing ∧ (modBlock s k f).slices = s.slices ∧ (modBlock s k f).serialRr = s.serialRr ∧
    (modBlock s k f).serialIn = s.serialIn ∧
    (modBlock s k f).hanks = s.hanks ∧ (modBlock s k f).pages = s.pages ∧ (modBlock s k f).skein = s.skein ∧
    (modBlock s k f).acc = s.acc ∧ (modBlock s k f).lost = s.lost ∧ (modBlock s k f).lcache = s.lcache ∧
    (modBlock s k f).carder = s.carder ∧ (modBlock s k f).used = s.used ∧ (modBlock s k f).dram = s.dram ∧
    (modBlock s k f).slots = s.slots ∧ (modBlock s k f).keys = s.keys ∧ (modBlock s k f).spn = s.spn ∧
    (modBlock s k f).units = s.units ∧ (modBlock s k f).rings = s.rings ∧ (modBlock s k f).descs = s.descs ∧
    (modBlock s k f).chans = s.chans ∧ (modBlock s k f).rate = s.rate ∧ (modBlock s k f).passes = s.passes ∧
    (modBlock s k f).plist = s.plist ∧ (modBlock s k f).qos = s.qos ∧ (modBlock s k f).stations = s.stations ∧
    (modBlock s k f).fabric = s.fabric ∧ (modBlock s k f).img = s.img ∧ (modBlock s k f).ply = s.ply ∧
    (modBlock s k f).pair = s.pair ∧ (modBlock s k f).doms = s.doms ∧ (modBlock s k f).power = s.power ∧
    (modBlock s k f).hsw = s.hsw ∧ (modBlock s k f).mbx = s.mbx ∧ (modBlock s k f).banks = s.banks ∧
    (modBlock s k f).sec = s.sec ∧ (modBlock s k f).mgmt = s.mgmt ∧ (modBlock s k f).pmu = s.pmu :=
  ⟨rfl, rfl, rfl, rfl, rfl, rfl, rfl, rfl, rfl, rfl, rfl, rfl, rfl, rfl, rfl, rfl, rfl, rfl, rfl, rfl, rfl, rfl, rfl, rfl,
  rfl, rfl, rfl, rfl, rfl, rfl, rfl, rfl, rfl, rfl, rfl, rfl, rfl, rfl, rfl, rfl, rfl, rfl, rfl, rfl, rfl, rfl, rfl,
  rfl, rfl, rfl, rfl, rfl, rfl, rfl, rfl, rfl, rfl, rfl, rfl, rfl, rfl, rfl⟩

@[simp] theorem blockAt_modBlock (k j : Nat) (f : Block → Block) :
    blockAt (modBlock s k f) j = if j = k then f (blockAt s j) else blockAt s j := tabGet_mod ({} : Block) s.blocks k j f

@[simp] theorem modBlock_reads (k : Nat) (f : Block → Block) (j : Nat) :
    portAt (modBlock s k f) j = portAt s j ∧ linkAt (modBlock s k f) j = linkAt s j ∧
    fnAt (modBlock s k f) j = fnAt s j ∧ seatAt (modBlock s k f) j = seatAt s j ∧
    groupAt (modBlock s k f) j = groupAt s j ∧ winAt (modBlock s k f) j = winAt s j ∧
    ingressAt (modBlock s k f) j = ingressAt s j ∧ trkAt (modBlock s k f) j = trkAt s j ∧
    useAt (modBlock s k f) j = useAt s j ∧ creelAt (modBlock s k f) j = creelAt s j ∧
    actAt (modBlock s k f) j = actAt s j ∧ xingAt (modBlock s k f) j = xingAt s j ∧
    sliceAt (modBlock s k f) j = sliceAt s j ∧ hankRaw (modBlock s k f) j = hankRaw s j ∧
    pageAt (modBlock s k f) j = pageAt s j ∧ cached (modBlock s k f) j = cached s j ∧
    accAt (modBlock s k f) j = accAt s j ∧ lcacheAt (modBlock s k f) j = lcacheAt s j ∧
    usedAt (modBlock s k f) j = usedAt s j ∧ dramAt (modBlock s k f) j = dramAt s j ∧
    slotAt (modBlock s k f) j = slotAt s j ∧ spnAt (modBlock s k f) j = spnAt s j ∧
    ringAt (modBlock s k f) j = ringAt s j ∧ descAt (modBlock s k f) j = descAt s j ∧
    chAt (modBlock s k f) j = chAt s j ∧ stAt (modBlock s k f) j = stAt s j ∧ plyAt (modBlock s k f) j = plyAt s j ∧
    domAt (modBlock s k f) j = domAt s j ∧ mbxAt (modBlock s k f) j = mbxAt s j ∧
    bankAt (modBlock s k f) j = bankAt s j ∧ regAt (modBlock s k f) j = regAt s j ∧
    cntAt (modBlock s k f) j = cntAt s j :=
  ⟨rfl, rfl, rfl, rfl, rfl, rfl, rfl, rfl, rfl, rfl, rfl, rfl, rfl, rfl, rfl, rfl, rfl, rfl, rfl, rfl, rfl, rfl, rfl,
  rfl, rfl, rfl, rfl, rfl, rfl, rfl, rfl, rfl⟩

/-- `modIngress` changes only `ingress`. -/
@[simp] theorem modIngress_fields (k : Nat) (f : List Msg → List Msg) :
    (modIngress s k f).now = s.now ∧ (modIngress s k f).pending = s.pending ∧ (modIngress s k f).free = s.free ∧
    (modIngress s k f).stamp = s.stamp ∧ (modIngress s k f).out = s.out ∧ (modIngress s k f).boot = s.boot ∧
    (modIngress s k f).regs = s.regs ∧ (modIngress s k f).cnts = s.cnts ∧ (modIngress s k f).latches = s.latches ∧
    (modIngress s k f).marks = s.marks ∧ (modIngress s k f).log = s.log ∧ (modIngress s k f).ports = s.ports ∧
    (modIngress s k f).links = s.links ∧ (modIngress s k f).fns = s.fns ∧ (modIngress s k f).seats = s.seats ∧
    (modIngress s k f).groups = s.groups ∧ (modIngress s k f).wins = s.wins ∧ (modIngress s k f).blocks = s.blocks ∧
    (modIngress s k f).nextExt = s.nextExt ∧ (modIngress s k f).ledger = s.ledger ∧
    (modIngress s k f).ingress = tabMod [] s.ingress k f ∧ (modIngress s k f).trk = s.trk ∧
    (modIngress s k f).use = s.use ∧ (modIngress s k f).creel = s.creel ∧ (modIngress s k f).acts = s.acts ∧
    (modIngress s k f).xing = s.xing ∧ (modIngress s k f).slices = s.slices ∧
    (modIngress s k f).serialRr = s.serialRr ∧
    (modIngress s k f).serialIn = s.serialIn ∧ (modIngress s k f).hanks = s.hanks ∧
    (modIngress s k f).pages = s.pages ∧ (modIngress s k f).skein = s.skein ∧ (modIngress s k f).acc = s.acc ∧
    (modIngress s k f).lost = s.lost ∧ (modIngress s k f).lcache = s.lcache ∧ (modIngress s k f).carder = s.carder ∧
    (modIngress s k f).used = s.used ∧ (modIngress s k f).dram = s.dram ∧ (modIngress s k f).slots = s.slots ∧
    (modIngress s k f).keys = s.keys ∧ (modIngress s k f).spn = s.spn ∧ (modIngress s k f).units = s.units ∧
    (modIngress s k f).rings = s.rings ∧ (modIngress s k f).descs = s.descs ∧ (modIngress s k f).chans = s.chans ∧
    (modIngress s k f).rate = s.rate ∧ (modIngress s k f).passes = s.passes ∧ (modIngress s k f).plist = s.plist ∧
    (modIngress s k f).qos = s.qos ∧ (modIngress s k f).stations = s.stations ∧ (modIngress s k f).fabric = s.fabric ∧
    (modIngress s k f).img = s.img ∧ (modIngress s k f).ply = s.ply ∧ (modIngress s k f).pair = s.pair ∧
    (modIngress s k f).doms = s.doms ∧ (modIngress s k f).power = s.power ∧ (modIngress s k f).hsw = s.hsw ∧
    (modIngress s k f).mbx = s.mbx ∧ (modIngress s k f).banks = s.banks ∧ (modIngress s k f).sec = s.sec ∧
    (modIngress s k f).mgmt = s.mgmt ∧ (modIngress s k f).pmu = s.pmu :=
  ⟨rfl, rfl, rfl, rfl, rfl, rfl, rfl, rfl, rfl, rfl, rfl, rfl, rfl, rfl, rfl, rfl, rfl, rfl, rfl, rfl, rfl, rfl, rfl, rfl,
  rfl, rfl, rfl, rfl, rfl, rfl, rfl, rfl, rfl, rfl, rfl, rfl, rfl, rfl, rfl, rfl, rfl, rfl, rfl, rfl, rfl, rfl, rfl,
  rfl, rfl, rfl, rfl, rfl, rfl, rfl, rfl, rfl, rfl, rfl, rfl, rfl, rfl, rfl⟩

@[simp] theorem ingressAt_modIngress (k j : Nat) (f : List Msg → List Msg) :
    ingressAt (modIngress s k f) j = if j = k then f (ingressAt s j) else ingressAt s j := tabGet_mod [] s.ingress k j f

@[simp] theorem modIngress_reads (k : Nat) (f : List Msg → List Msg) (j : Nat) :
    portAt (modIngress s k f) j = portAt s j ∧ linkAt (modIngress s k f) j = linkAt s j ∧
    fnAt (modIngress s k f) j = fnAt s j ∧ seatAt (modIngress s k f) j = seatAt s j ∧
    groupAt (modIngress s k f) j = groupAt s j ∧ winAt (modIngress s k f) j = winAt s j ∧
    blockAt (modIngress s k f) j = blockAt s j ∧ trkAt (modIngress s k f) j = trkAt s j ∧
    useAt (modIngress s k f) j = useAt s j ∧ creelAt (modIngress s k f) j = creelAt s j ∧
    actAt (modIngress s k f) j = actAt s j ∧ xingAt (modIngress s k f) j = xingAt s j ∧
    sliceAt (modIngress s k f) j = sliceAt s j ∧ hankRaw (modIngress s k f) j = hankRaw s j ∧
    pageAt (modIngress s k f) j = pageAt s j ∧ cached (modIngress s k f) j = cached s j ∧
    accAt (modIngress s k f) j = accAt s j ∧ lcacheAt (modIngress s k f) j = lcacheAt s j ∧
    usedAt (modIngress s k f) j = usedAt s j ∧ dramAt (modIngress s k f) j = dramAt s j ∧
    slotAt (modIngress s k f) j = slotAt s j ∧ spnAt (modIngress s k f) j = spnAt s j ∧
    ringAt (modIngress s k f) j = ringAt s j ∧ descAt (modIngress s k f) j = descAt s j ∧
    chAt (modIngress s k f) j = chAt s j ∧ stAt (modIngress s k f) j = stAt s j ∧
    plyAt (modIngress s k f) j = plyAt s j ∧ domAt (modIngress s k f) j = domAt s j ∧
    mbxAt (modIngress s k f) j = mbxAt s j ∧ bankAt (modIngress s k f) j = bankAt s j ∧
    regAt (modIngress s k f) j = regAt s j ∧ cntAt (modIngress s k f) j = cntAt s j :=
  ⟨rfl, rfl, rfl, rfl, rfl, rfl, rfl, rfl, rfl, rfl, rfl, rfl, rfl, rfl, rfl, rfl, rfl, rfl, rfl, rfl, rfl, rfl, rfl,
  rfl, rfl, rfl, rfl, rfl, rfl, rfl, rfl, rfl⟩

/-- `modTrk` changes only `trk`. -/
@[simp] theorem modTrk_fields (k : Nat) (f : Option Trk → Option Trk) :
    (modTrk s k f).now = s.now ∧ (modTrk s k f).pending = s.pending ∧ (modTrk s k f).free = s.free ∧
    (modTrk s k f).stamp = s.stamp ∧ (modTrk s k f).out = s.out ∧ (modTrk s k f).boot = s.boot ∧
    (modTrk s k f).regs = s.regs ∧ (modTrk s k f).cnts = s.cnts ∧ (modTrk s k f).latches = s.latches ∧
    (modTrk s k f).marks = s.marks ∧ (modTrk s k f).log = s.log ∧ (modTrk s k f).ports = s.ports ∧
    (modTrk s k f).links = s.links ∧ (modTrk s k f).fns = s.fns ∧ (modTrk s k f).seats = s.seats ∧
    (modTrk s k f).groups = s.groups ∧ (modTrk s k f).wins = s.wins ∧ (modTrk s k f).blocks = s.blocks ∧
    (modTrk s k f).nextExt = s.nextExt ∧ (modTrk s k f).ledger = s.ledger ∧ (modTrk s k f).ingress = s.ingress ∧
    (modTrk s k f).trk = tabMod none s.trk k f ∧ (modTrk s k f).use = s.use ∧ (modTrk s k f).creel = s.creel ∧
    (modTrk s k f).acts = s.acts ∧ (modTrk s k f).xing = s.xing ∧ (modTrk s k f).slices = s.slices ∧
    (modTrk s k f).serialRr = s.serialRr ∧
    (modTrk s k f).serialIn = s.serialIn ∧ (modTrk s k f).hanks = s.hanks ∧ (modTrk s k f).pages = s.pages ∧
    (modTrk s k f).skein = s.skein ∧ (modTrk s k f).acc = s.acc ∧ (modTrk s k f).lost = s.lost ∧
    (modTrk s k f).lcache = s.lcache ∧ (modTrk s k f).carder = s.carder ∧ (modTrk s k f).used = s.used ∧
    (modTrk s k f).dram = s.dram ∧ (modTrk s k f).slots = s.slots ∧ (modTrk s k f).keys = s.keys ∧
    (modTrk s k f).spn = s.spn ∧ (modTrk s k f).units = s.units ∧ (modTrk s k f).rings = s.rings ∧
    (modTrk s k f).descs = s.descs ∧ (modTrk s k f).chans = s.chans ∧ (modTrk s k f).rate = s.rate ∧
    (modTrk s k f).passes = s.passes ∧ (modTrk s k f).plist = s.plist ∧ (modTrk s k f).qos = s.qos ∧
    (modTrk s k f).stations = s.stations ∧ (modTrk s k f).fabric = s.fabric ∧ (modTrk s k f).img = s.img ∧
    (modTrk s k f).ply = s.ply ∧ (modTrk s k f).pair = s.pair ∧ (modTrk s k f).doms = s.doms ∧
    (modTrk s k f).power = s.power ∧ (modTrk s k f).hsw = s.hsw ∧ (modTrk s k f).mbx = s.mbx ∧
    (modTrk s k f).banks = s.banks ∧ (modTrk s k f).sec = s.sec ∧ (modTrk s k f).mgmt = s.mgmt ∧
    (modTrk s k f).pmu = s.pmu :=
  ⟨rfl, rfl, rfl, rfl, rfl, rfl, rfl, rfl, rfl, rfl, rfl, rfl, rfl, rfl, rfl, rfl, rfl, rfl, rfl, rfl, rfl, rfl, rfl, rfl,
  rfl, rfl, rfl, rfl, rfl, rfl, rfl, rfl, rfl, rfl, rfl, rfl, rfl, rfl, rfl, rfl, rfl, rfl, rfl, rfl, rfl, rfl, rfl,
  rfl, rfl, rfl, rfl, rfl, rfl, rfl, rfl, rfl, rfl, rfl, rfl, rfl, rfl, rfl⟩

@[simp] theorem trkAt_modTrk (k j : Nat) (f : Option Trk → Option Trk) :
    trkAt (modTrk s k f) j = if j = k then f (trkAt s j) else trkAt s j := tabGet_mod none s.trk k j f

@[simp] theorem modTrk_reads (k : Nat) (f : Option Trk → Option Trk) (j : Nat) :
    portAt (modTrk s k f) j = portAt s j ∧ linkAt (modTrk s k f) j = linkAt s j ∧ fnAt (modTrk s k f) j = fnAt s j ∧
    seatAt (modTrk s k f) j = seatAt s j ∧ groupAt (modTrk s k f) j = groupAt s j ∧
    winAt (modTrk s k f) j = winAt s j ∧ blockAt (modTrk s k f) j = blockAt s j ∧
    ingressAt (modTrk s k f) j = ingressAt s j ∧ useAt (modTrk s k f) j = useAt s j ∧
    creelAt (modTrk s k f) j = creelAt s j ∧ actAt (modTrk s k f) j = actAt s j ∧
    xingAt (modTrk s k f) j = xingAt s j ∧ sliceAt (modTrk s k f) j = sliceAt s j ∧
    hankRaw (modTrk s k f) j = hankRaw s j ∧ pageAt (modTrk s k f) j = pageAt s j ∧
    cached (modTrk s k f) j = cached s j ∧ accAt (modTrk s k f) j = accAt s j ∧
    lcacheAt (modTrk s k f) j = lcacheAt s j ∧ usedAt (modTrk s k f) j = usedAt s j ∧
    dramAt (modTrk s k f) j = dramAt s j ∧ slotAt (modTrk s k f) j = slotAt s j ∧ spnAt (modTrk s k f) j = spnAt s j ∧
    ringAt (modTrk s k f) j = ringAt s j ∧ descAt (modTrk s k f) j = descAt s j ∧ chAt (modTrk s k f) j = chAt s j ∧
    stAt (modTrk s k f) j = stAt s j ∧ plyAt (modTrk s k f) j = plyAt s j ∧ domAt (modTrk s k f) j = domAt s j ∧
    mbxAt (modTrk s k f) j = mbxAt s j ∧ bankAt (modTrk s k f) j = bankAt s j ∧ regAt (modTrk s k f) j = regAt s j ∧
    cntAt (modTrk s k f) j = cntAt s j :=
  ⟨rfl, rfl, rfl, rfl, rfl, rfl, rfl, rfl, rfl, rfl, rfl, rfl, rfl, rfl, rfl, rfl, rfl, rfl, rfl, rfl, rfl, rfl, rfl,
  rfl, rfl, rfl, rfl, rfl, rfl, rfl, rfl, rfl⟩

/-- `modUse` changes only `use`. -/
@[simp] theorem modUse_fields (k : Nat) (f : Use → Use) :
    (modUse s k f).now = s.now ∧ (modUse s k f).pending = s.pending ∧ (modUse s k f).free = s.free ∧
    (modUse s k f).stamp = s.stamp ∧ (modUse s k f).out = s.out ∧ (modUse s k f).boot = s.boot ∧
    (modUse s k f).regs = s.regs ∧ (modUse s k f).cnts = s.cnts ∧ (modUse s k f).latches = s.latches ∧
    (modUse s k f).marks = s.marks ∧ (modUse s k f).log = s.log ∧ (modUse s k f).ports = s.ports ∧
    (modUse s k f).links = s.links ∧ (modUse s k f).fns = s.fns ∧ (modUse s k f).seats = s.seats ∧
    (modUse s k f).groups = s.groups ∧ (modUse s k f).wins = s.wins ∧ (modUse s k f).blocks = s.blocks ∧
    (modUse s k f).nextExt = s.nextExt ∧ (modUse s k f).ledger = s.ledger ∧ (modUse s k f).ingress = s.ingress ∧
    (modUse s k f).trk = s.trk ∧ (modUse s k f).use = tabMod {} s.use k f ∧ (modUse s k f).creel = s.creel ∧
    (modUse s k f).acts = s.acts ∧ (modUse s k f).xing = s.xing ∧ (modUse s k f).slices = s.slices ∧
    (modUse s k f).serialRr = s.serialRr ∧
    (modUse s k f).serialIn = s.serialIn ∧ (modUse s k f).hanks = s.hanks ∧ (modUse s k f).pages = s.pages ∧
    (modUse s k f).skein = s.skein ∧ (modUse s k f).acc = s.acc ∧ (modUse s k f).lost = s.lost ∧
    (modUse s k f).lcache = s.lcache ∧ (modUse s k f).carder = s.carder ∧ (modUse s k f).used = s.used ∧
    (modUse s k f).dram = s.dram ∧ (modUse s k f).slots = s.slots ∧ (modUse s k f).keys = s.keys ∧
    (modUse s k f).spn = s.spn ∧ (modUse s k f).units = s.units ∧ (modUse s k f).rings = s.rings ∧
    (modUse s k f).descs = s.descs ∧ (modUse s k f).chans = s.chans ∧ (modUse s k f).rate = s.rate ∧
    (modUse s k f).passes = s.passes ∧ (modUse s k f).plist = s.plist ∧ (modUse s k f).qos = s.qos ∧
    (modUse s k f).stations = s.stations ∧ (modUse s k f).fabric = s.fabric ∧ (modUse s k f).img = s.img ∧
    (modUse s k f).ply = s.ply ∧ (modUse s k f).pair = s.pair ∧ (modUse s k f).doms = s.doms ∧
    (modUse s k f).power = s.power ∧ (modUse s k f).hsw = s.hsw ∧ (modUse s k f).mbx = s.mbx ∧
    (modUse s k f).banks = s.banks ∧ (modUse s k f).sec = s.sec ∧ (modUse s k f).mgmt = s.mgmt ∧
    (modUse s k f).pmu = s.pmu :=
  ⟨rfl, rfl, rfl, rfl, rfl, rfl, rfl, rfl, rfl, rfl, rfl, rfl, rfl, rfl, rfl, rfl, rfl, rfl, rfl, rfl, rfl, rfl, rfl, rfl,
  rfl, rfl, rfl, rfl, rfl, rfl, rfl, rfl, rfl, rfl, rfl, rfl, rfl, rfl, rfl, rfl, rfl, rfl, rfl, rfl, rfl, rfl, rfl,
  rfl, rfl, rfl, rfl, rfl, rfl, rfl, rfl, rfl, rfl, rfl, rfl, rfl, rfl, rfl⟩

@[simp] theorem useAt_modUse (k j : Nat) (f : Use → Use) :
    useAt (modUse s k f) j = if j = k then f (useAt s j) else useAt s j := tabGet_mod ({} : Use) s.use k j f

@[simp] theorem modUse_reads (k : Nat) (f : Use → Use) (j : Nat) :
    portAt (modUse s k f) j = portAt s j ∧ linkAt (modUse s k f) j = linkAt s j ∧ fnAt (modUse s k f) j = fnAt s j ∧
    seatAt (modUse s k f) j = seatAt s j ∧ groupAt (modUse s k f) j = groupAt s j ∧
    winAt (modUse s k f) j = winAt s j ∧ blockAt (modUse s k f) j = blockAt s j ∧
    ingressAt (modUse s k f) j = ingressAt s j ∧ trkAt (modUse s k f) j = trkAt s j ∧
    creelAt (modUse s k f) j = creelAt s j ∧ actAt (modUse s k f) j = actAt s j ∧
    xingAt (modUse s k f) j = xingAt s j ∧ sliceAt (modUse s k f) j = sliceAt s j ∧
    hankRaw (modUse s k f) j = hankRaw s j ∧ pageAt (modUse s k f) j = pageAt s j ∧
    cached (modUse s k f) j = cached s j ∧ accAt (modUse s k f) j = accAt s j ∧
    lcacheAt (modUse s k f) j = lcacheAt s j ∧ usedAt (modUse s k f) j = usedAt s j ∧
    dramAt (modUse s k f) j = dramAt s j ∧ slotAt (modUse s k f) j = slotAt s j ∧ spnAt (modUse s k f) j = spnAt s j ∧
    ringAt (modUse s k f) j = ringAt s j ∧ descAt (modUse s k f) j = descAt s j ∧ chAt (modUse s k f) j = chAt s j ∧
    stAt (modUse s k f) j = stAt s j ∧ plyAt (modUse s k f) j = plyAt s j ∧ domAt (modUse s k f) j = domAt s j ∧
    mbxAt (modUse s k f) j = mbxAt s j ∧ bankAt (modUse s k f) j = bankAt s j ∧ regAt (modUse s k f) j = regAt s j ∧
    cntAt (modUse s k f) j = cntAt s j :=
  ⟨rfl, rfl, rfl, rfl, rfl, rfl, rfl, rfl, rfl, rfl, rfl, rfl, rfl, rfl, rfl, rfl, rfl, rfl, rfl, rfl, rfl, rfl, rfl,
  rfl, rfl, rfl, rfl, rfl, rfl, rfl, rfl, rfl⟩

/-- `modCreel` changes only `creel`. -/
@[simp] theorem modCreel_fields (k : Nat) (f : Centry → Centry) :
    (modCreel s k f).now = s.now ∧ (modCreel s k f).pending = s.pending ∧ (modCreel s k f).free = s.free ∧
    (modCreel s k f).stamp = s.stamp ∧ (modCreel s k f).out = s.out ∧ (modCreel s k f).boot = s.boot ∧
    (modCreel s k f).regs = s.regs ∧ (modCreel s k f).cnts = s.cnts ∧ (modCreel s k f).latches = s.latches ∧
    (modCreel s k f).marks = s.marks ∧ (modCreel s k f).log = s.log ∧ (modCreel s k f).ports = s.ports ∧
    (modCreel s k f).links = s.links ∧ (modCreel s k f).fns = s.fns ∧ (modCreel s k f).seats = s.seats ∧
    (modCreel s k f).groups = s.groups ∧ (modCreel s k f).wins = s.wins ∧ (modCreel s k f).blocks = s.blocks ∧
    (modCreel s k f).nextExt = s.nextExt ∧ (modCreel s k f).ledger = s.ledger ∧ (modCreel s k f).ingress = s.ingress ∧
    (modCreel s k f).trk = s.trk ∧ (modCreel s k f).use = s.use ∧ (modCreel s k f).creel = tabMod {} s.creel k f ∧
    (modCreel s k f).acts = s.acts ∧ (modCreel s k f).xing = s.xing ∧ (modCreel s k f).slices = s.slices ∧
    (modCreel s k f).serialRr = s.serialRr ∧
    (modCreel s k f).serialIn = s.serialIn ∧ (modCreel s k f).hanks = s.hanks ∧ (modCreel s k f).pages = s.pages ∧
    (modCreel s k f).skein = s.skein ∧ (modCreel s k f).acc = s.acc ∧ (modCreel s k f).lost = s.lost ∧
    (modCreel s k f).lcache = s.lcache ∧ (modCreel s k f).carder = s.carder ∧ (modCreel s k f).used = s.used ∧
    (modCreel s k f).dram = s.dram ∧ (modCreel s k f).slots = s.slots ∧ (modCreel s k f).keys = s.keys ∧
    (modCreel s k f).spn = s.spn ∧ (modCreel s k f).units = s.units ∧ (modCreel s k f).rings = s.rings ∧
    (modCreel s k f).descs = s.descs ∧ (modCreel s k f).chans = s.chans ∧ (modCreel s k f).rate = s.rate ∧
    (modCreel s k f).passes = s.passes ∧ (modCreel s k f).plist = s.plist ∧ (modCreel s k f).qos = s.qos ∧
    (modCreel s k f).stations = s.stations ∧ (modCreel s k f).fabric = s.fabric ∧ (modCreel s k f).img = s.img ∧
    (modCreel s k f).ply = s.ply ∧ (modCreel s k f).pair = s.pair ∧ (modCreel s k f).doms = s.doms ∧
    (modCreel s k f).power = s.power ∧ (modCreel s k f).hsw = s.hsw ∧ (modCreel s k f).mbx = s.mbx ∧
    (modCreel s k f).banks = s.banks ∧ (modCreel s k f).sec = s.sec ∧ (modCreel s k f).mgmt = s.mgmt ∧
    (modCreel s k f).pmu = s.pmu :=
  ⟨rfl, rfl, rfl, rfl, rfl, rfl, rfl, rfl, rfl, rfl, rfl, rfl, rfl, rfl, rfl, rfl, rfl, rfl, rfl, rfl, rfl, rfl, rfl, rfl,
  rfl, rfl, rfl, rfl, rfl, rfl, rfl, rfl, rfl, rfl, rfl, rfl, rfl, rfl, rfl, rfl, rfl, rfl, rfl, rfl, rfl, rfl, rfl,
  rfl, rfl, rfl, rfl, rfl, rfl, rfl, rfl, rfl, rfl, rfl, rfl, rfl, rfl, rfl⟩

@[simp] theorem creelAt_modCreel (k j : Nat) (f : Centry → Centry) :
    creelAt (modCreel s k f) j = if j = k then f (creelAt s j) else creelAt s j := tabGet_mod ({} : Centry) s.creel k j f

@[simp] theorem modCreel_reads (k : Nat) (f : Centry → Centry) (j : Nat) :
    portAt (modCreel s k f) j = portAt s j ∧ linkAt (modCreel s k f) j = linkAt s j ∧
    fnAt (modCreel s k f) j = fnAt s j ∧ seatAt (modCreel s k f) j = seatAt s j ∧
    groupAt (modCreel s k f) j = groupAt s j ∧ winAt (modCreel s k f) j = winAt s j ∧
    blockAt (modCreel s k f) j = blockAt s j ∧ ingressAt (modCreel s k f) j = ingressAt s j ∧
    trkAt (modCreel s k f) j = trkAt s j ∧ useAt (modCreel s k f) j = useAt s j ∧
    actAt (modCreel s k f) j = actAt s j ∧ xingAt (modCreel s k f) j = xingAt s j ∧
    sliceAt (modCreel s k f) j = sliceAt s j ∧ hankRaw (modCreel s k f) j = hankRaw s j ∧
    pageAt (modCreel s k f) j = pageAt s j ∧ cached (modCreel s k f) j = cached s j ∧
    accAt (modCreel s k f) j = accAt s j ∧ lcacheAt (modCreel s k f) j = lcacheAt s j ∧
    usedAt (modCreel s k f) j = usedAt s j ∧ dramAt (modCreel s k f) j = dramAt s j ∧
    slotAt (modCreel s k f) j = slotAt s j ∧ spnAt (modCreel s k f) j = spnAt s j ∧
    ringAt (modCreel s k f) j = ringAt s j ∧ descAt (modCreel s k f) j = descAt s j ∧
    chAt (modCreel s k f) j = chAt s j ∧ stAt (modCreel s k f) j = stAt s j ∧ plyAt (modCreel s k f) j = plyAt s j ∧
    domAt (modCreel s k f) j = domAt s j ∧ mbxAt (modCreel s k f) j = mbxAt s j ∧
    bankAt (modCreel s k f) j = bankAt s j ∧ regAt (modCreel s k f) j = regAt s j ∧
    cntAt (modCreel s k f) j = cntAt s j :=
  ⟨rfl, rfl, rfl, rfl, rfl, rfl, rfl, rfl, rfl, rfl, rfl, rfl, rfl, rfl, rfl, rfl, rfl, rfl, rfl, rfl, rfl, rfl, rfl,
  rfl, rfl, rfl, rfl, rfl, rfl, rfl, rfl, rfl⟩

/-- `modAct` changes only `acts`. -/
@[simp] theorem modAct_fields (k : Nat) (f : Option Active → Option Active) :
    (modAct s k f).now = s.now ∧ (modAct s k f).pending = s.pending ∧ (modAct s k f).free = s.free ∧
    (modAct s k f).stamp = s.stamp ∧ (modAct s k f).out = s.out ∧ (modAct s k f).boot = s.boot ∧
    (modAct s k f).regs = s.regs ∧ (modAct s k f).cnts = s.cnts ∧ (modAct s k f).latches = s.latches ∧
    (modAct s k f).marks = s.marks ∧ (modAct s k f).log = s.log ∧ (modAct s k f).ports = s.ports ∧
    (modAct s k f).links = s.links ∧ (modAct s k f).fns = s.fns ∧ (modAct s k f).seats = s.seats ∧
    (modAct s k f).groups = s.groups ∧ (modAct s k f).wins = s.wins ∧ (modAct s k f).blocks = s.blocks ∧
    (modAct s k f).nextExt = s.nextExt ∧ (modAct s k f).ledger = s.ledger ∧ (modAct s k f).ingress = s.ingress ∧
    (modAct s k f).trk = s.trk ∧ (modAct s k f).use = s.use ∧ (modAct s k f).creel = s.creel ∧
    (modAct s k f).acts = tabMod none s.acts k f ∧ (modAct s k f).xing = s.xing ∧ (modAct s k f).slices = s.slices ∧
    (modAct s k f).serialRr = s.serialRr ∧
    (modAct s k f).serialIn = s.serialIn ∧ (modAct s k f).hanks = s.hanks ∧ (modAct s k f).pages = s.pages ∧
    (modAct s k f).skein = s.skein ∧ (modAct s k f).acc = s.acc ∧ (modAct s k f).lost = s.lost ∧
    (modAct s k f).lcache = s.lcache ∧ (modAct s k f).carder = s.carder ∧ (modAct s k f).used = s.used ∧
    (modAct s k f).dram = s.dram ∧ (modAct s k f).slots = s.slots ∧ (modAct s k f).keys = s.keys ∧
    (modAct s k f).spn = s.spn ∧ (modAct s k f).units = s.units ∧ (modAct s k f).rings = s.rings ∧
    (modAct s k f).descs = s.descs ∧ (modAct s k f).chans = s.chans ∧ (modAct s k f).rate = s.rate ∧
    (modAct s k f).passes = s.passes ∧ (modAct s k f).plist = s.plist ∧ (modAct s k f).qos = s.qos ∧
    (modAct s k f).stations = s.stations ∧ (modAct s k f).fabric = s.fabric ∧ (modAct s k f).img = s.img ∧
    (modAct s k f).ply = s.ply ∧ (modAct s k f).pair = s.pair ∧ (modAct s k f).doms = s.doms ∧
    (modAct s k f).power = s.power ∧ (modAct s k f).hsw = s.hsw ∧ (modAct s k f).mbx = s.mbx ∧
    (modAct s k f).banks = s.banks ∧ (modAct s k f).sec = s.sec ∧ (modAct s k f).mgmt = s.mgmt ∧
    (modAct s k f).pmu = s.pmu :=
  ⟨rfl, rfl, rfl, rfl, rfl, rfl, rfl, rfl, rfl, rfl, rfl, rfl, rfl, rfl, rfl, rfl, rfl, rfl, rfl, rfl, rfl, rfl, rfl, rfl,
  rfl, rfl, rfl, rfl, rfl, rfl, rfl, rfl, rfl, rfl, rfl, rfl, rfl, rfl, rfl, rfl, rfl, rfl, rfl, rfl, rfl, rfl, rfl,
  rfl, rfl, rfl, rfl, rfl, rfl, rfl, rfl, rfl, rfl, rfl, rfl, rfl, rfl, rfl⟩

@[simp] theorem actAt_modAct (k j : Nat) (f : Option Active → Option Active) :
    actAt (modAct s k f) j = if j = k then f (actAt s j) else actAt s j := tabGet_mod none s.acts k j f

@[simp] theorem modAct_reads (k : Nat) (f : Option Active → Option Active) (j : Nat) :
    portAt (modAct s k f) j = portAt s j ∧ linkAt (modAct s k f) j = linkAt s j ∧ fnAt (modAct s k f) j = fnAt s j ∧
    seatAt (modAct s k f) j = seatAt s j ∧ groupAt (modAct s k f) j = groupAt s j ∧
    winAt (modAct s k f) j = winAt s j ∧ blockAt (modAct s k f) j = blockAt s j ∧
    ingressAt (modAct s k f) j = ingressAt s j ∧ trkAt (modAct s k f) j = trkAt s j ∧
    useAt (modAct s k f) j = useAt s j ∧ creelAt (modAct s k f) j = creelAt s j ∧
    xingAt (modAct s k f) j = xingAt s j ∧ sliceAt (modAct s k f) j = sliceAt s j ∧
    hankRaw (modAct s k f) j = hankRaw s j ∧ pageAt (modAct s k f) j = pageAt s j ∧
    cached (modAct s k f) j = cached s j ∧ accAt (modAct s k f) j = accAt s j ∧
    lcacheAt (modAct s k f) j = lcacheAt s j ∧ usedAt (modAct s k f) j = usedAt s j ∧
    dramAt (modAct s k f) j = dramAt s j ∧ slotAt (modAct s k f) j = slotAt s j ∧ spnAt (modAct s k f) j = spnAt s j ∧
    ringAt (modAct s k f) j = ringAt s j ∧ descAt (modAct s k f) j = descAt s j ∧ chAt (modAct s k f) j = chAt s j ∧
    stAt (modAct s k f) j = stAt s j ∧ plyAt (modAct s k f) j = plyAt s j ∧ domAt (modAct s k f) j = domAt s j ∧
    mbxAt (modAct s k f) j = mbxAt s j ∧ bankAt (modAct s k f) j = bankAt s j ∧ regAt (modAct s k f) j = regAt s j ∧
    cntAt (modAct s k f) j = cntAt s j :=
  ⟨rfl, rfl, rfl, rfl, rfl, rfl, rfl, rfl, rfl, rfl, rfl, rfl, rfl, rfl, rfl, rfl, rfl, rfl, rfl, rfl, rfl, rfl, rfl,
  rfl, rfl, rfl, rfl, rfl, rfl, rfl, rfl, rfl⟩

/-- `modXing` changes only `xing`. -/
@[simp] theorem modXing_fields (k : Nat) (f : Option Xing → Option Xing) :
    (modXing s k f).now = s.now ∧ (modXing s k f).pending = s.pending ∧ (modXing s k f).free = s.free ∧
    (modXing s k f).stamp = s.stamp ∧ (modXing s k f).out = s.out ∧ (modXing s k f).boot = s.boot ∧
    (modXing s k f).regs = s.regs ∧ (modXing s k f).cnts = s.cnts ∧ (modXing s k f).latches = s.latches ∧
    (modXing s k f).marks = s.marks ∧ (modXing s k f).log = s.log ∧ (modXing s k f).ports = s.ports ∧
    (modXing s k f).links = s.links ∧ (modXing s k f).fns = s.fns ∧ (modXing s k f).seats = s.seats ∧
    (modXing s k f).groups = s.groups ∧ (modXing s k f).wins = s.wins ∧ (modXing s k f).blocks = s.blocks ∧
    (modXing s k f).nextExt = s.nextExt ∧ (modXing s k f).ledger = s.ledger ∧ (modXing s k f).ingress = s.ingress ∧
    (modXing s k f).trk = s.trk ∧ (modXing s k f).use = s.use ∧ (modXing s k f).creel = s.creel ∧
    (modXing s k f).acts = s.acts ∧ (modXing s k f).xing = tabMod none s.xing k f ∧
    (modXing s k f).slices = s.slices ∧ (modXing s k f).serialRr = s.serialRr ∧
    (modXing s k f).serialIn = s.serialIn ∧ (modXing s k f).hanks = s.hanks ∧
    (modXing s k f).pages = s.pages ∧ (modXing s k f).skein = s.skein ∧ (modXing s k f).acc = s.acc ∧
    (modXing s k f).lost = s.lost ∧ (modXing s k f).lcache = s.lcache ∧ (modXing s k f).carder = s.carder ∧
    (modXing s k f).used = s.used ∧ (modXing s k f).dram = s.dram ∧ (modXing s k f).slots = s.slots ∧
    (modXing s k f).keys = s.keys ∧ (modXing s k f).spn = s.spn ∧ (modXing s k f).units = s.units ∧
    (modXing s k f).rings = s.rings ∧ (modXing s k f).descs = s.descs ∧ (modXing s k f).chans = s.chans ∧
    (modXing s k f).rate = s.rate ∧ (modXing s k f).passes = s.passes ∧ (modXing s k f).plist = s.plist ∧
    (modXing s k f).qos = s.qos ∧ (modXing s k f).stations = s.stations ∧ (modXing s k f).fabric = s.fabric ∧
    (modXing s k f).img = s.img ∧ (modXing s k f).ply = s.ply ∧ (modXing s k f).pair = s.pair ∧
    (modXing s k f).doms = s.doms ∧ (modXing s k f).power = s.power ∧ (modXing s k f).hsw = s.hsw ∧
    (modXing s k f).mbx = s.mbx ∧ (modXing s k f).banks = s.banks ∧ (modXing s k f).sec = s.sec ∧
    (modXing s k f).mgmt = s.mgmt ∧ (modXing s k f).pmu = s.pmu :=
  ⟨rfl, rfl, rfl, rfl, rfl, rfl, rfl, rfl, rfl, rfl, rfl, rfl, rfl, rfl, rfl, rfl, rfl, rfl, rfl, rfl, rfl, rfl, rfl, rfl,
  rfl, rfl, rfl, rfl, rfl, rfl, rfl, rfl, rfl, rfl, rfl, rfl, rfl, rfl, rfl, rfl, rfl, rfl, rfl, rfl, rfl, rfl, rfl,
  rfl, rfl, rfl, rfl, rfl, rfl, rfl, rfl, rfl, rfl, rfl, rfl, rfl, rfl, rfl⟩

@[simp] theorem xingAt_modXing (k j : Nat) (f : Option Xing → Option Xing) :
    xingAt (modXing s k f) j = if j = k then f (xingAt s j) else xingAt s j := tabGet_mod none s.xing k j f

@[simp] theorem modXing_reads (k : Nat) (f : Option Xing → Option Xing) (j : Nat) :
    portAt (modXing s k f) j = portAt s j ∧ linkAt (modXing s k f) j = linkAt s j ∧
    fnAt (modXing s k f) j = fnAt s j ∧ seatAt (modXing s k f) j = seatAt s j ∧
    groupAt (modXing s k f) j = groupAt s j ∧ winAt (modXing s k f) j = winAt s j ∧
    blockAt (modXing s k f) j = blockAt s j ∧ ingressAt (modXing s k f) j = ingressAt s j ∧
    trkAt (modXing s k f) j = trkAt s j ∧ useAt (modXing s k f) j = useAt s j ∧
    creelAt (modXing s k f) j = creelAt s j ∧ actAt (modXing s k f) j = actAt s j ∧
    sliceAt (modXing s k f) j = sliceAt s j ∧ hankRaw (modXing s k f) j = hankRaw s j ∧
    pageAt (modXing s k f) j = pageAt s j ∧ cached (modXing s k f) j = cached s j ∧
    accAt (modXing s k f) j = accAt s j ∧ lcacheAt (modXing s k f) j = lcacheAt s j ∧
    usedAt (modXing s k f) j = usedAt s j ∧ dramAt (modXing s k f) j = dramAt s j ∧
    slotAt (modXing s k f) j = slotAt s j ∧ spnAt (modXing s k f) j = spnAt s j ∧
    ringAt (modXing s k f) j = ringAt s j ∧ descAt (modXing s k f) j = descAt s j ∧
    chAt (modXing s k f) j = chAt s j ∧ stAt (modXing s k f) j = stAt s j ∧ plyAt (modXing s k f) j = plyAt s j ∧
    domAt (modXing s k f) j = domAt s j ∧ mbxAt (modXing s k f) j = mbxAt s j ∧
    bankAt (modXing s k f) j = bankAt s j ∧ regAt (modXing s k f) j = regAt s j ∧ cntAt (modXing s k f) j = cntAt s j :=
  ⟨rfl, rfl, rfl, rfl, rfl, rfl, rfl, rfl, rfl, rfl, rfl, rfl, rfl, rfl, rfl, rfl, rfl, rfl, rfl, rfl, rfl, rfl, rfl,
  rfl, rfl, rfl, rfl, rfl, rfl, rfl, rfl, rfl⟩

/-- `modSlice` changes only `slices`. -/
@[simp] theorem modSlice_fields (k : Nat) (f : Slice → Slice) :
    (modSlice s k f).now = s.now ∧ (modSlice s k f).pending = s.pending ∧ (modSlice s k f).free = s.free ∧
    (modSlice s k f).stamp = s.stamp ∧ (modSlice s k f).out = s.out ∧ (modSlice s k f).boot = s.boot ∧
    (modSlice s k f).regs = s.regs ∧ (modSlice s k f).cnts = s.cnts ∧ (modSlice s k f).latches = s.latches ∧
    (modSlice s k f).marks = s.marks ∧ (modSlice s k f).log = s.log ∧ (modSlice s k f).ports = s.ports ∧
    (modSlice s k f).links = s.links ∧ (modSlice s k f).fns = s.fns ∧ (modSlice s k f).seats = s.seats ∧
    (modSlice s k f).groups = s.groups ∧ (modSlice s k f).wins = s.wins ∧ (modSlice s k f).blocks = s.blocks ∧
    (modSlice s k f).nextExt = s.nextExt ∧ (modSlice s k f).ledger = s.ledger ∧ (modSlice s k f).ingress = s.ingress ∧
    (modSlice s k f).trk = s.trk ∧ (modSlice s k f).use = s.use ∧ (modSlice s k f).creel = s.creel ∧
    (modSlice s k f).acts = s.acts ∧ (modSlice s k f).xing = s.xing ∧
    (modSlice s k f).slices = tabMod {} s.slices k f ∧ (modSlice s k f).serialRr = s.serialRr ∧
    (modSlice s k f).serialIn = s.serialIn ∧
    (modSlice s k f).hanks = s.hanks ∧ (modSlice s k f).pages = s.pages ∧ (modSlice s k f).skein = s.skein ∧
    (modSlice s k f).acc = s.acc ∧ (modSlice s k f).lost = s.lost ∧ (modSlice s k f).lcache = s.lcache ∧
    (modSlice s k f).carder = s.carder ∧ (modSlice s k f).used = s.used ∧ (modSlice s k f).dram = s.dram ∧
    (modSlice s k f).slots = s.slots ∧ (modSlice s k f).keys = s.keys ∧ (modSlice s k f).spn = s.spn ∧
    (modSlice s k f).units = s.units ∧ (modSlice s k f).rings = s.rings ∧ (modSlice s k f).descs = s.descs ∧
    (modSlice s k f).chans = s.chans ∧ (modSlice s k f).rate = s.rate ∧ (modSlice s k f).passes = s.passes ∧
    (modSlice s k f).plist = s.plist ∧ (modSlice s k f).qos = s.qos ∧ (modSlice s k f).stations = s.stations ∧
    (modSlice s k f).fabric = s.fabric ∧ (modSlice s k f).img = s.img ∧ (modSlice s k f).ply = s.ply ∧
    (modSlice s k f).pair = s.pair ∧ (modSlice s k f).doms = s.doms ∧ (modSlice s k f).power = s.power ∧
    (modSlice s k f).hsw = s.hsw ∧ (modSlice s k f).mbx = s.mbx ∧ (modSlice s k f).banks = s.banks ∧
    (modSlice s k f).sec = s.sec ∧ (modSlice s k f).mgmt = s.mgmt ∧ (modSlice s k f).pmu = s.pmu :=
  ⟨rfl, rfl, rfl, rfl, rfl, rfl, rfl, rfl, rfl, rfl, rfl, rfl, rfl, rfl, rfl, rfl, rfl, rfl, rfl, rfl, rfl, rfl, rfl, rfl,
  rfl, rfl, rfl, rfl, rfl, rfl, rfl, rfl, rfl, rfl, rfl, rfl, rfl, rfl, rfl, rfl, rfl, rfl, rfl, rfl, rfl, rfl, rfl,
  rfl, rfl, rfl, rfl, rfl, rfl, rfl, rfl, rfl, rfl, rfl, rfl, rfl, rfl, rfl⟩

@[simp] theorem sliceAt_modSlice (k j : Nat) (f : Slice → Slice) :
    sliceAt (modSlice s k f) j = if j = k then f (sliceAt s j) else sliceAt s j := tabGet_mod ({} : Slice) s.slices k j f

@[simp] theorem modSlice_reads (k : Nat) (f : Slice → Slice) (j : Nat) :
    portAt (modSlice s k f) j = portAt s j ∧ linkAt (modSlice s k f) j = linkAt s j ∧
    fnAt (modSlice s k f) j = fnAt s j ∧ seatAt (modSlice s k f) j = seatAt s j ∧
    groupAt (modSlice s k f) j = groupAt s j ∧ winAt (modSlice s k f) j = winAt s j ∧
    blockAt (modSlice s k f) j = blockAt s j ∧ ingressAt (modSlice s k f) j = ingressAt s j ∧
    trkAt (modSlice s k f) j = trkAt s j ∧ useAt (modSlice s k f) j = useAt s j ∧
    creelAt (modSlice s k f) j = creelAt s j ∧ actAt (modSlice s k f) j = actAt s j ∧
    xingAt (modSlice s k f) j = xingAt s j ∧ hankRaw (modSlice s k f) j = hankRaw s j ∧
    pageAt (modSlice s k f) j = pageAt s j ∧ cached (modSlice s k f) j = cached s j ∧
    accAt (modSlice s k f) j = accAt s j ∧ lcacheAt (modSlice s k f) j = lcacheAt s j ∧
    usedAt (modSlice s k f) j = usedAt s j ∧ dramAt (modSlice s k f) j = dramAt s j ∧
    slotAt (modSlice s k f) j = slotAt s j ∧ spnAt (modSlice s k f) j = spnAt s j ∧
    ringAt (modSlice s k f) j = ringAt s j ∧ descAt (modSlice s k f) j = descAt s j ∧
    chAt (modSlice s k f) j = chAt s j ∧ stAt (modSlice s k f) j = stAt s j ∧ plyAt (modSlice s k f) j = plyAt s j ∧
    domAt (modSlice s k f) j = domAt s j ∧ mbxAt (modSlice s k f) j = mbxAt s j ∧
    bankAt (modSlice s k f) j = bankAt s j ∧ regAt (modSlice s k f) j = regAt s j ∧
    cntAt (modSlice s k f) j = cntAt s j :=
  ⟨rfl, rfl, rfl, rfl, rfl, rfl, rfl, rfl, rfl, rfl, rfl, rfl, rfl, rfl, rfl, rfl, rfl, rfl, rfl, rfl, rfl, rfl, rfl,
  rfl, rfl, rfl, rfl, rfl, rfl, rfl, rfl, rfl⟩

/-- `modHankRaw` changes only `hanks`. -/
@[simp] theorem modHankRaw_fields (k : Nat) (f : Option Hank → Option Hank) :
    (modHankRaw s k f).now = s.now ∧ (modHankRaw s k f).pending = s.pending ∧ (modHankRaw s k f).free = s.free ∧
    (modHankRaw s k f).stamp = s.stamp ∧ (modHankRaw s k f).out = s.out ∧ (modHankRaw s k f).boot = s.boot ∧
    (modHankRaw s k f).regs = s.regs ∧ (modHankRaw s k f).cnts = s.cnts ∧ (modHankRaw s k f).latches = s.latches ∧
    (modHankRaw s k f).marks = s.marks ∧ (modHankRaw s k f).log = s.log ∧ (modHankRaw s k f).ports = s.ports ∧
    (modHankRaw s k f).links = s.links ∧ (modHankRaw s k f).fns = s.fns ∧ (modHankRaw s k f).seats = s.seats ∧
    (modHankRaw s k f).groups = s.groups ∧ (modHankRaw s k f).wins = s.wins ∧ (modHankRaw s k f).blocks = s.blocks ∧
    (modHankRaw s k f).nextExt = s.nextExt ∧ (modHankRaw s k f).ledger = s.ledger ∧
    (modHankRaw s k f).ingress = s.ingress ∧ (modHankRaw s k f).trk = s.trk ∧ (modHankRaw s k f).use = s.use ∧
    (modHankRaw s k f).creel = s.creel ∧ (modHankRaw s k f).acts = s.acts ∧ (modHankRaw s k f).xing = s.xing ∧
    (modHankRaw s k f).slices = s.slices ∧ (modHankRaw s k f).serialRr = s.serialRr ∧
    (modHankRaw s k f).serialIn = s.serialIn ∧
    (modHankRaw s k f).hanks = tabMod none s.hanks k f ∧ (modHankRaw s k f).pages = s.pages ∧
    (modHankRaw s k f).skein = s.skein ∧ (modHankRaw s k f).acc = s.acc ∧ (modHankRaw s k f).lost = s.lost ∧
    (modHankRaw s k f).lcache = s.lcache ∧ (modHankRaw s k f).carder = s.carder ∧ (modHankRaw s k f).used = s.used ∧
    (modHankRaw s k f).dram = s.dram ∧ (modHankRaw s k f).slots = s.slots ∧ (modHankRaw s k f).keys = s.keys ∧
    (modHankRaw s k f).spn = s.spn ∧ (modHankRaw s k f).units = s.units ∧ (modHankRaw s k f).rings = s.rings ∧
    (modHankRaw s k f).descs = s.descs ∧ (modHankRaw s k f).chans = s.chans ∧ (modHankRaw s k f).rate = s.rate ∧
    (modHankRaw s k f).passes = s.passes ∧ (modHankRaw s k f).plist = s.plist ∧ (modHankRaw s k f).qos = s.qos ∧
    (modHankRaw s k f).stations = s.stations ∧ (modHankRaw s k f).fabric = s.fabric ∧ (modHankRaw s k f).img = s.img ∧
    (modHankRaw s k f).ply = s.ply ∧ (modHankRaw s k f).pair = s.pair ∧ (modHankRaw s k f).doms = s.doms ∧
    (modHankRaw s k f).power = s.power ∧ (modHankRaw s k f).hsw = s.hsw ∧ (modHankRaw s k f).mbx = s.mbx ∧
    (modHankRaw s k f).banks = s.banks ∧ (modHankRaw s k f).sec = s.sec ∧ (modHankRaw s k f).mgmt = s.mgmt ∧
    (modHankRaw s k f).pmu = s.pmu :=
  ⟨rfl, rfl, rfl, rfl, rfl, rfl, rfl, rfl, rfl, rfl, rfl, rfl, rfl, rfl, rfl, rfl, rfl, rfl, rfl, rfl, rfl, rfl, rfl, rfl,
  rfl, rfl, rfl, rfl, rfl, rfl, rfl, rfl, rfl, rfl, rfl, rfl, rfl, rfl, rfl, rfl, rfl, rfl, rfl, rfl, rfl, rfl, rfl,
  rfl, rfl, rfl, rfl, rfl, rfl, rfl, rfl, rfl, rfl, rfl, rfl, rfl, rfl, rfl⟩

@[simp] theorem hankRaw_modHankRaw (k j : Nat) (f : Option Hank → Option Hank) :
    hankRaw (modHankRaw s k f) j = if j = k then f (hankRaw s j) else hankRaw s j := tabGet_mod none s.hanks k j f

@[simp] theorem modHankRaw_reads (k : Nat) (f : Option Hank → Option Hank) (j : Nat) :
    portAt (modHankRaw s k f) j = portAt s j ∧ linkAt (modHankRaw s k f) j = linkAt s j ∧
    fnAt (modHankRaw s k f) j = fnAt s j ∧ seatAt (modHankRaw s k f) j = seatAt s j ∧
    groupAt (modHankRaw s k f) j = groupAt s j ∧ winAt (modHankRaw s k f) j = winAt s j ∧
    blockAt (modHankRaw s k f) j = blockAt s j ∧ ingressAt (modHankRaw s k f) j = ingressAt s j ∧
    trkAt (modHankRaw s k f) j = trkAt s j ∧ useAt (modHankRaw s k f) j = useAt s j ∧
    creelAt (modHankRaw s k f) j = creelAt s j ∧ actAt (modHankRaw s k f) j = actAt s j ∧
    xingAt (modHankRaw s k f) j = xingAt s j ∧ sliceAt (modHankRaw s k f) j = sliceAt s j ∧
    pageAt (modHankRaw s k f) j = pageAt s j ∧ cached (modHankRaw s k f) j = cached s j ∧
    accAt (modHankRaw s k f) j = accAt s j ∧ lcacheAt (modHankRaw s k f) j = lcacheAt s j ∧
    usedAt (modHankRaw s k f) j = usedAt s j ∧ dramAt (modHankRaw s k f) j = dramAt s j ∧
    slotAt (modHankRaw s k f) j = slotAt s j ∧ spnAt (modHankRaw s k f) j = spnAt s j ∧
    ringAt (modHankRaw s k f) j = ringAt s j ∧ descAt (modHankRaw s k f) j = descAt s j ∧
    chAt (modHankRaw s k f) j = chAt s j ∧ stAt (modHankRaw s k f) j = stAt s j ∧
    plyAt (modHankRaw s k f) j = plyAt s j ∧ domAt (modHankRaw s k f) j = domAt s j ∧
    mbxAt (modHankRaw s k f) j = mbxAt s j ∧ bankAt (modHankRaw s k f) j = bankAt s j ∧
    regAt (modHankRaw s k f) j = regAt s j ∧ cntAt (modHankRaw s k f) j = cntAt s j :=
  ⟨rfl, rfl, rfl, rfl, rfl, rfl, rfl, rfl, rfl, rfl, rfl, rfl, rfl, rfl, rfl, rfl, rfl, rfl, rfl, rfl, rfl, rfl, rfl,
  rfl, rfl, rfl, rfl, rfl, rfl, rfl, rfl, rfl⟩

/-- `modPage` changes only `pages`. -/
@[simp] theorem modPage_fields (k : Nat) (f : Page → Page) :
    (modPage s k f).now = s.now ∧ (modPage s k f).pending = s.pending ∧ (modPage s k f).free = s.free ∧
    (modPage s k f).stamp = s.stamp ∧ (modPage s k f).out = s.out ∧ (modPage s k f).boot = s.boot ∧
    (modPage s k f).regs = s.regs ∧ (modPage s k f).cnts = s.cnts ∧ (modPage s k f).latches = s.latches ∧
    (modPage s k f).marks = s.marks ∧ (modPage s k f).log = s.log ∧ (modPage s k f).ports = s.ports ∧
    (modPage s k f).links = s.links ∧ (modPage s k f).fns = s.fns ∧ (modPage s k f).seats = s.seats ∧
    (modPage s k f).groups = s.groups ∧ (modPage s k f).wins = s.wins ∧ (modPage s k f).blocks = s.blocks ∧
    (modPage s k f).nextExt = s.nextExt ∧ (modPage s k f).ledger = s.ledger ∧ (modPage s k f).ingress = s.ingress ∧
    (modPage s k f).trk = s.trk ∧ (modPage s k f).use = s.use ∧ (modPage s k f).creel = s.creel ∧
    (modPage s k f).acts = s.acts ∧ (modPage s k f).xing = s.xing ∧ (modPage s k f).slices = s.slices ∧
    (modPage s k f).serialRr = s.serialRr ∧
    (modPage s k f).serialIn = s.serialIn ∧ (modPage s k f).hanks = s.hanks ∧
    (modPage s k f).pages = tabMod {} s.pages k f ∧ (modPage s k f).skein = s.skein ∧ (modPage s k f).acc = s.acc ∧
    (modPage s k f).lost = s.lost ∧ (modPage s k f).lcache = s.lcache ∧ (modPage s k f).carder = s.carder ∧
    (modPage s k f).used = s.used ∧ (modPage s k f).dram = s.dram ∧ (modPage s k f).slots = s.slots ∧
    (modPage s k f).keys = s.keys ∧ (modPage s k f).spn = s.spn ∧ (modPage s k f).units = s.units ∧
    (modPage s k f).rings = s.rings ∧ (modPage s k f).descs = s.descs ∧ (modPage s k f).chans = s.chans ∧
    (modPage s k f).rate = s.rate ∧ (modPage s k f).passes = s.passes ∧ (modPage s k f).plist = s.plist ∧
    (modPage s k f).qos = s.qos ∧ (modPage s k f).stations = s.stations ∧ (modPage s k f).fabric = s.fabric ∧
    (modPage s k f).img = s.img ∧ (modPage s k f).ply = s.ply ∧ (modPage s k f).pair = s.pair ∧
    (modPage s k f).doms = s.doms ∧ (modPage s k f).power = s.power ∧ (modPage s k f).hsw = s.hsw ∧
    (modPage s k f).mbx = s.mbx ∧ (modPage s k f).banks = s.banks ∧ (modPage s k f).sec = s.sec ∧
    (modPage s k f).mgmt = s.mgmt ∧ (modPage s k f).pmu = s.pmu :=
  ⟨rfl, rfl, rfl, rfl, rfl, rfl, rfl, rfl, rfl, rfl, rfl, rfl, rfl, rfl, rfl, rfl, rfl, rfl, rfl, rfl, rfl, rfl, rfl, rfl,
  rfl, rfl, rfl, rfl, rfl, rfl, rfl, rfl, rfl, rfl, rfl, rfl, rfl, rfl, rfl, rfl, rfl, rfl, rfl, rfl, rfl, rfl, rfl,
  rfl, rfl, rfl, rfl, rfl, rfl, rfl, rfl, rfl, rfl, rfl, rfl, rfl, rfl, rfl⟩

@[simp] theorem pageAt_modPage (k j : Nat) (f : Page → Page) :
    pageAt (modPage s k f) j = if j = k then f (pageAt s j) else pageAt s j := tabGet_mod ({} : Page) s.pages k j f

@[simp] theorem modPage_reads (k : Nat) (f : Page → Page) (j : Nat) :
    portAt (modPage s k f) j = portAt s j ∧ linkAt (modPage s k f) j = linkAt s j ∧
    fnAt (modPage s k f) j = fnAt s j ∧ seatAt (modPage s k f) j = seatAt s j ∧
    groupAt (modPage s k f) j = groupAt s j ∧ winAt (modPage s k f) j = winAt s j ∧
    blockAt (modPage s k f) j = blockAt s j ∧ ingressAt (modPage s k f) j = ingressAt s j ∧
    trkAt (modPage s k f) j = trkAt s j ∧ useAt (modPage s k f) j = useAt s j ∧
    creelAt (modPage s k f) j = creelAt s j ∧ actAt (modPage s k f) j = actAt s j ∧
    xingAt (modPage s k f) j = xingAt s j ∧ sliceAt (modPage s k f) j = sliceAt s j ∧
    hankRaw (modPage s k f) j = hankRaw s j ∧ cached (modPage s k f) j = cached s j ∧
    accAt (modPage s k f) j = accAt s j ∧ lcacheAt (modPage s k f) j = lcacheAt s j ∧
    usedAt (modPage s k f) j = usedAt s j ∧ dramAt (modPage s k f) j = dramAt s j ∧
    slotAt (modPage s k f) j = slotAt s j ∧ spnAt (modPage s k f) j = spnAt s j ∧
    ringAt (modPage s k f) j = ringAt s j ∧ descAt (modPage s k f) j = descAt s j ∧
    chAt (modPage s k f) j = chAt s j ∧ stAt (modPage s k f) j = stAt s j ∧ plyAt (modPage s k f) j = plyAt s j ∧
    domAt (modPage s k f) j = domAt s j ∧ mbxAt (modPage s k f) j = mbxAt s j ∧
    bankAt (modPage s k f) j = bankAt s j ∧ regAt (modPage s k f) j = regAt s j ∧ cntAt (modPage s k f) j = cntAt s j :=
  ⟨rfl, rfl, rfl, rfl, rfl, rfl, rfl, rfl, rfl, rfl, rfl, rfl, rfl, rfl, rfl, rfl, rfl, rfl, rfl, rfl, rfl, rfl, rfl,
  rfl, rfl, rfl, rfl, rfl, rfl, rfl, rfl, rfl⟩

/-- `modCached` changes only `skein`. -/
@[simp] theorem modCached_fields (k : Nat) (f : Bool → Bool) :
    (modCached s k f).now = s.now ∧ (modCached s k f).pending = s.pending ∧ (modCached s k f).free = s.free ∧
    (modCached s k f).stamp = s.stamp ∧ (modCached s k f).out = s.out ∧ (modCached s k f).boot = s.boot ∧
    (modCached s k f).regs = s.regs ∧ (modCached s k f).cnts = s.cnts ∧ (modCached s k f).latches = s.latches ∧
    (modCached s k f).marks = s.marks ∧ (modCached s k f).log = s.log ∧ (modCached s k f).ports = s.ports ∧
    (modCached s k f).links = s.links ∧ (modCached s k f).fns = s.fns ∧ (modCached s k f).seats = s.seats ∧
    (modCached s k f).groups = s.groups ∧ (modCached s k f).wins = s.wins ∧ (modCached s k f).blocks = s.blocks ∧
    (modCached s k f).nextExt = s.nextExt ∧ (modCached s k f).ledger = s.ledger ∧
    (modCached s k f).ingress = s.ingress ∧ (modCached s k f).trk = s.trk ∧ (modCached s k f).use = s.use ∧
    (modCached s k f).creel = s.creel ∧ (modCached s k f).acts = s.acts ∧ (modCached s k f).xing = s.xing ∧
    (modCached s k f).slices = s.slices ∧ (modCached s k f).serialRr = s.serialRr ∧
    (modCached s k f).serialIn = s.serialIn ∧
    (modCached s k f).hanks = s.hanks ∧ (modCached s k f).pages = s.pages ∧
    (modCached s k f).skein = tabMod false s.skein k f ∧ (modCached s k f).acc = s.acc ∧
    (modCached s k f).lost = s.lost ∧ (modCached s k f).lcache = s.lcache ∧ (modCached s k f).carder = s.carder ∧
    (modCached s k f).used = s.used ∧ (modCached s k f).dram = s.dram ∧ (modCached s k f).slots = s.slots ∧
    (modCached s k f).keys = s.keys ∧ (modCached s k f).spn = s.spn ∧ (modCached s k f).units = s.units ∧
    (modCached s k f).rings = s.rings ∧ (modCached s k f).descs = s.descs ∧ (modCached s k f).chans = s.chans ∧
    (modCached s k f).rate = s.rate ∧ (modCached s k f).passes = s.passes ∧ (modCached s k f).plist = s.plist ∧
    (modCached s k f).qos = s.qos ∧ (modCached s k f).stations = s.stations ∧ (modCached s k f).fabric = s.fabric ∧
    (modCached s k f).img = s.img ∧ (modCached s k f).ply = s.ply ∧ (modCached s k f).pair = s.pair ∧
    (modCached s k f).doms = s.doms ∧ (modCached s k f).power = s.power ∧ (modCached s k f).hsw = s.hsw ∧
    (modCached s k f).mbx = s.mbx ∧ (modCached s k f).banks = s.banks ∧ (modCached s k f).sec = s.sec ∧
    (modCached s k f).mgmt = s.mgmt ∧ (modCached s k f).pmu = s.pmu :=
  ⟨rfl, rfl, rfl, rfl, rfl, rfl, rfl, rfl, rfl, rfl, rfl, rfl, rfl, rfl, rfl, rfl, rfl, rfl, rfl, rfl, rfl, rfl, rfl, rfl,
  rfl, rfl, rfl, rfl, rfl, rfl, rfl, rfl, rfl, rfl, rfl, rfl, rfl, rfl, rfl, rfl, rfl, rfl, rfl, rfl, rfl, rfl, rfl,
  rfl, rfl, rfl, rfl, rfl, rfl, rfl, rfl, rfl, rfl, rfl, rfl, rfl, rfl, rfl⟩

@[simp] theorem cached_modCached (k j : Nat) (f : Bool → Bool) :
    cached (modCached s k f) j = if j = k then f (cached s j) else cached s j := tabGet_mod false s.skein k j f

@[simp] theorem modCached_reads (k : Nat) (f : Bool → Bool) (j : Nat) :
    portAt (modCached s k f) j = portAt s j ∧ linkAt (modCached s k f) j = linkAt s j ∧
    fnAt (modCached s k f) j = fnAt s j ∧ seatAt (modCached s k f) j = seatAt s j ∧
    groupAt (modCached s k f) j = groupAt s j ∧ winAt (modCached s k f) j = winAt s j ∧
    blockAt (modCached s k f) j = blockAt s j ∧ ingressAt (modCached s k f) j = ingressAt s j ∧
    trkAt (modCached s k f) j = trkAt s j ∧ useAt (modCached s k f) j = useAt s j ∧
    creelAt (modCached s k f) j = creelAt s j ∧ actAt (modCached s k f) j = actAt s j ∧
    xingAt (modCached s k f) j = xingAt s j ∧ sliceAt (modCached s k f) j = sliceAt s j ∧
    hankRaw (modCached s k f) j = hankRaw s j ∧ pageAt (modCached s k f) j = pageAt s j ∧
    accAt (modCached s k f) j = accAt s j ∧ lcacheAt (modCached s k f) j = lcacheAt s j ∧
    usedAt (modCached s k f) j = usedAt s j ∧ dramAt (modCached s k f) j = dramAt s j ∧
    slotAt (modCached s k f) j = slotAt s j ∧ spnAt (modCached s k f) j = spnAt s j ∧
    ringAt (modCached s k f) j = ringAt s j ∧ descAt (modCached s k f) j = descAt s j ∧
    chAt (modCached s k f) j = chAt s j ∧ stAt (modCached s k f) j = stAt s j ∧
    plyAt (modCached s k f) j = plyAt s j ∧ domAt (modCached s k f) j = domAt s j ∧
    mbxAt (modCached s k f) j = mbxAt s j ∧ bankAt (modCached s k f) j = bankAt s j ∧
    regAt (modCached s k f) j = regAt s j ∧ cntAt (modCached s k f) j = cntAt s j :=
  ⟨rfl, rfl, rfl, rfl, rfl, rfl, rfl, rfl, rfl, rfl, rfl, rfl, rfl, rfl, rfl, rfl, rfl, rfl, rfl, rfl, rfl, rfl, rfl,
  rfl, rfl, rfl, rfl, rfl, rfl, rfl, rfl, rfl⟩

/-- `modAcc` changes only `acc`. -/
@[simp] theorem modAcc_fields (k : Nat) (f : Nat → Nat) :
    (modAcc s k f).now = s.now ∧ (modAcc s k f).pending = s.pending ∧ (modAcc s k f).free = s.free ∧
    (modAcc s k f).stamp = s.stamp ∧ (modAcc s k f).out = s.out ∧ (modAcc s k f).boot = s.boot ∧
    (modAcc s k f).regs = s.regs ∧ (modAcc s k f).cnts = s.cnts ∧ (modAcc s k f).latches = s.latches ∧
    (modAcc s k f).marks = s.marks ∧ (modAcc s k f).log = s.log ∧ (modAcc s k f).ports = s.ports ∧
    (modAcc s k f).links = s.links ∧ (modAcc s k f).fns = s.fns ∧ (modAcc s k f).seats = s.seats ∧
    (modAcc s k f).groups = s.groups ∧ (modAcc s k f).wins = s.wins ∧ (modAcc s k f).blocks = s.blocks ∧
    (modAcc s k f).nextExt = s.nextExt ∧ (modAcc s k f).ledger = s.ledger ∧ (modAcc s k f).ingress = s.ingress ∧
    (modAcc s k f).trk = s.trk ∧ (modAcc s k f).use = s.use ∧ (modAcc s k f).creel = s.creel ∧
    (modAcc s k f).acts = s.acts ∧ (modAcc s k f).xing = s.xing ∧ (modAcc s k f).slices = s.slices ∧
    (modAcc s k f).serialRr = s.serialRr ∧
    (modAcc s k f).serialIn = s.serialIn ∧ (modAcc s k f).hanks = s.hanks ∧ (modAcc s k f).pages = s.pages ∧
    (modAcc s k f).skein = s.skein ∧ (modAcc s k f).acc = tabMod 0 s.acc k f ∧ (modAcc s k f).lost = s.lost ∧
    (modAcc s k f).lcache = s.lcache ∧ (modAcc s k f).carder = s.carder ∧ (modAcc s k f).used = s.used ∧
    (modAcc s k f).dram = s.dram ∧ (modAcc s k f).slots = s.slots ∧ (modAcc s k f).keys = s.keys ∧
    (modAcc s k f).spn = s.spn ∧ (modAcc s k f).units = s.units ∧ (modAcc s k f).rings = s.rings ∧
    (modAcc s k f).descs = s.descs ∧ (modAcc s k f).chans = s.chans ∧ (modAcc s k f).rate = s.rate ∧
    (modAcc s k f).passes = s.passes ∧ (modAcc s k f).plist = s.plist ∧ (modAcc s k f).qos = s.qos ∧
    (modAcc s k f).stations = s.stations ∧ (modAcc s k f).fabric = s.fabric ∧ (modAcc s k f).img = s.img ∧
    (modAcc s k f).ply = s.ply ∧ (modAcc s k f).pair = s.pair ∧ (modAcc s k f).doms = s.doms ∧
    (modAcc s k f).power = s.power ∧ (modAcc s k f).hsw = s.hsw ∧ (modAcc s k f).mbx = s.mbx ∧
    (modAcc s k f).banks = s.banks ∧ (modAcc s k f).sec = s.sec ∧ (modAcc s k f).mgmt = s.mgmt ∧
    (modAcc s k f).pmu = s.pmu :=
  ⟨rfl, rfl, rfl, rfl, rfl, rfl, rfl, rfl, rfl, rfl, rfl, rfl, rfl, rfl, rfl, rfl, rfl, rfl, rfl, rfl, rfl, rfl, rfl, rfl,
  rfl, rfl, rfl, rfl, rfl, rfl, rfl, rfl, rfl, rfl, rfl, rfl, rfl, rfl, rfl, rfl, rfl, rfl, rfl, rfl, rfl, rfl, rfl,
  rfl, rfl, rfl, rfl, rfl, rfl, rfl, rfl, rfl, rfl, rfl, rfl, rfl, rfl, rfl⟩

@[simp] theorem accAt_modAcc (k j : Nat) (f : Nat → Nat) :
    accAt (modAcc s k f) j = if j = k then f (accAt s j) else accAt s j := tabGet_mod 0 s.acc k j f

@[simp] theorem modAcc_reads (k : Nat) (f : Nat → Nat) (j : Nat) :
    portAt (modAcc s k f) j = portAt s j ∧ linkAt (modAcc s k f) j = linkAt s j ∧ fnAt (modAcc s k f) j = fnAt s j ∧
    seatAt (modAcc s k f) j = seatAt s j ∧ groupAt (modAcc s k f) j = groupAt s j ∧
    winAt (modAcc s k f) j = winAt s j ∧ blockAt (modAcc s k f) j = blockAt s j ∧
    ingressAt (modAcc s k f) j = ingressAt s j ∧ trkAt (modAcc s k f) j = trkAt s j ∧
    useAt (modAcc s k f) j = useAt s j ∧ creelAt (modAcc s k f) j = creelAt s j ∧ actAt (modAcc s k f) j = actAt s j ∧
    xingAt (modAcc s k f) j = xingAt s j ∧ sliceAt (modAcc s k f) j = sliceAt s j ∧
    hankRaw (modAcc s k f) j = hankRaw s j ∧ pageAt (modAcc s k f) j = pageAt s j ∧
    cached (modAcc s k f) j = cached s j ∧ lcacheAt (modAcc s k f) j = lcacheAt s j ∧
    usedAt (modAcc s k f) j = usedAt s j ∧ dramAt (modAcc s k f) j = dramAt s j ∧
    slotAt (modAcc s k f) j = slotAt s j ∧ spnAt (modAcc s k f) j = spnAt s j ∧ ringAt (modAcc s k f) j = ringAt s j ∧
    descAt (modAcc s k f) j = descAt s j ∧ chAt (modAcc s k f) j = chAt s j ∧ stAt (modAcc s k f) j = stAt s j ∧
    plyAt (modAcc s k f) j = plyAt s j ∧ domAt (modAcc s k f) j = domAt s j ∧ mbxAt (modAcc s k f) j = mbxAt s j ∧
    bankAt (modAcc s k f) j = bankAt s j ∧ regAt (modAcc s k f) j = regAt s j ∧ cntAt (modAcc s k f) j = cntAt s j :=
  ⟨rfl, rfl, rfl, rfl, rfl, rfl, rfl, rfl, rfl, rfl, rfl, rfl, rfl, rfl, rfl, rfl, rfl, rfl, rfl, rfl, rfl, rfl, rfl,
  rfl, rfl, rfl, rfl, rfl, rfl, rfl, rfl, rfl⟩

/-- `modLcache` changes only `lcache`. -/
@[simp] theorem modLcache_fields (k : Nat) (f : Lcl → Lcl) :
    (modLcache s k f).now = s.now ∧ (modLcache s k f).pending = s.pending ∧ (modLcache s k f).free = s.free ∧
    (modLcache s k f).stamp = s.stamp ∧ (modLcache s k f).out = s.out ∧ (modLcache s k f).boot = s.boot ∧
    (modLcache s k f).regs = s.regs ∧ (modLcache s k f).cnts = s.cnts ∧ (modLcache s k f).latches = s.latches ∧
    (modLcache s k f).marks = s.marks ∧ (modLcache s k f).log = s.log ∧ (modLcache s k f).ports = s.ports ∧
    (modLcache s k f).links = s.links ∧ (modLcache s k f).fns = s.fns ∧ (modLcache s k f).seats = s.seats ∧
    (modLcache s k f).groups = s.groups ∧ (modLcache s k f).wins = s.wins ∧ (modLcache s k f).blocks = s.blocks ∧
    (modLcache s k f).nextExt = s.nextExt ∧ (modLcache s k f).ledger = s.ledger ∧
    (modLcache s k f).ingress = s.ingress ∧ (modLcache s k f).trk = s.trk ∧ (modLcache s k f).use = s.use ∧
    (modLcache s k f).creel = s.creel ∧ (modLcache s k f).acts = s.acts ∧ (modLcache s k f).xing = s.xing ∧
    (modLcache s k f).slices = s.slices ∧ (modLcache s k f).serialRr = s.serialRr ∧
    (modLcache s k f).serialIn = s.serialIn ∧
    (modLcache s k f).hanks = s.hanks ∧ (modLcache s k f).pages = s.pages ∧ (modLcache s k f).skein = s.skein ∧
    (modLcache s k f).acc = s.acc ∧ (modLcache s k f).lost = s.lost ∧
    (modLcache s k f).lcache = tabMod {} s.lcache k f ∧ (modLcache s k f).carder = s.carder ∧
    (modLcache s k f).used = s.used ∧ (modLcache s k f).dram = s.dram ∧ (modLcache s k f).slots = s.slots ∧
    (modLcache s k f).keys = s.keys ∧ (modLcache s k f).spn = s.spn ∧ (modLcache s k f).units = s.units ∧
    (modLcache s k f).rings = s.rings ∧ (modLcache s k f).descs = s.descs ∧ (modLcache s k f).chans = s.chans ∧
    (modLcache s k f).rate = s.rate ∧ (modLcache s k f).passes = s.passes ∧ (modLcache s k f).plist = s.plist ∧
    (modLcache s k f).qos = s.qos ∧ (modLcache s k f).stations = s.stations ∧ (modLcache s k f).fabric = s.fabric ∧
    (modLcache s k f).img = s.img ∧ (modLcache s k f).ply = s.ply ∧ (modLcache s k f).pair = s.pair ∧
    (modLcache s k f).doms = s.doms ∧ (modLcache s k f).power = s.power ∧ (modLcache s k f).hsw = s.hsw ∧
    (modLcache s k f).mbx = s.mbx ∧ (modLcache s k f).banks = s.banks ∧ (modLcache s k f).sec = s.sec ∧
    (modLcache s k f).mgmt = s.mgmt ∧ (modLcache s k f).pmu = s.pmu :=
  ⟨rfl, rfl, rfl, rfl, rfl, rfl, rfl, rfl, rfl, rfl, rfl, rfl, rfl, rfl, rfl, rfl, rfl, rfl, rfl, rfl, rfl, rfl, rfl, rfl,
  rfl, rfl, rfl, rfl, rfl, rfl, rfl, rfl, rfl, rfl, rfl, rfl, rfl, rfl, rfl, rfl, rfl, rfl, rfl, rfl, rfl, rfl, rfl,
  rfl, rfl, rfl, rfl, rfl, rfl, rfl, rfl, rfl, rfl, rfl, rfl, rfl, rfl, rfl⟩

@[simp] theorem lcl_modLcache (k j : Nat) (f : Lcl → Lcl) :
    lcl (modLcache s k f) j = if j = k then f (lcl s j) else lcl s j :=
  tabGet_mod ({} : Lcl) s.lcache k j f

@[simp] theorem modLcache_reads (k : Nat) (f : Lcl → Lcl) (j : Nat) :
    portAt (modLcache s k f) j = portAt s j ∧ linkAt (modLcache s k f) j = linkAt s j ∧
    fnAt (modLcache s k f) j = fnAt s j ∧ seatAt (modLcache s k f) j = seatAt s j ∧
    groupAt (modLcache s k f) j = groupAt s j ∧ winAt (modLcache s k f) j = winAt s j ∧
    blockAt (modLcache s k f) j = blockAt s j ∧ ingressAt (modLcache s k f) j = ingressAt s j ∧
    trkAt (modLcache s k f) j = trkAt s j ∧ useAt (modLcache s k f) j = useAt s j ∧
    creelAt (modLcache s k f) j = creelAt s j ∧ actAt (modLcache s k f) j = actAt s j ∧
    xingAt (modLcache s k f) j = xingAt s j ∧ sliceAt (modLcache s k f) j = sliceAt s j ∧
    hankRaw (modLcache s k f) j = hankRaw s j ∧ pageAt (modLcache s k f) j = pageAt s j ∧
    cached (modLcache s k f) j = cached s j ∧ accAt (modLcache s k f) j = accAt s j ∧
    usedAt (modLcache s k f) j = usedAt s j ∧ dramAt (modLcache s k f) j = dramAt s j ∧
    slotAt (modLcache s k f) j = slotAt s j ∧ spnAt (modLcache s k f) j = spnAt s j ∧
    ringAt (modLcache s k f) j = ringAt s j ∧ descAt (modLcache s k f) j = descAt s j ∧
    chAt (modLcache s k f) j = chAt s j ∧ stAt (modLcache s k f) j = stAt s j ∧
    plyAt (modLcache s k f) j = plyAt s j ∧ domAt (modLcache s k f) j = domAt s j ∧
    mbxAt (modLcache s k f) j = mbxAt s j ∧ bankAt (modLcache s k f) j = bankAt s j ∧
    regAt (modLcache s k f) j = regAt s j ∧ cntAt (modLcache s k f) j = cntAt s j :=
  ⟨rfl, rfl, rfl, rfl, rfl, rfl, rfl, rfl, rfl, rfl, rfl, rfl, rfl, rfl, rfl, rfl, rfl, rfl, rfl, rfl, rfl, rfl, rfl,
  rfl, rfl, rfl, rfl, rfl, rfl, rfl, rfl, rfl⟩

/-- `modUsed` changes only `used`. -/
@[simp] theorem modUsed_fields (k : Nat) (f : Option HankUse → Option HankUse) :
    (modUsed s k f).now = s.now ∧ (modUsed s k f).pending = s.pending ∧ (modUsed s k f).free = s.free ∧
    (modUsed s k f).stamp = s.stamp ∧ (modUsed s k f).out = s.out ∧ (modUsed s k f).boot = s.boot ∧
    (modUsed s k f).regs = s.regs ∧ (modUsed s k f).cnts = s.cnts ∧ (modUsed s k f).latches = s.latches ∧
    (modUsed s k f).marks = s.marks ∧ (modUsed s k f).log = s.log ∧ (modUsed s k f).ports = s.ports ∧
    (modUsed s k f).links = s.links ∧ (modUsed s k f).fns = s.fns ∧ (modUsed s k f).seats = s.seats ∧
    (modUsed s k f).groups = s.groups ∧ (modUsed s k f).wins = s.wins ∧ (modUsed s k f).blocks = s.blocks ∧
    (modUsed s k f).nextExt = s.nextExt ∧ (modUsed s k f).ledger = s.ledger ∧ (modUsed s k f).ingress = s.ingress ∧
    (modUsed s k f).trk = s.trk ∧ (modUsed s k f).use = s.use ∧ (modUsed s k f).creel = s.creel ∧
    (modUsed s k f).acts = s.acts ∧ (modUsed s k f).xing = s.xing ∧ (modUsed s k f).slices = s.slices ∧
    (modUsed s k f).serialRr = s.serialRr ∧
    (modUsed s k f).serialIn = s.serialIn ∧ (modUsed s k f).hanks = s.hanks ∧ (modUsed s k f).pages = s.pages ∧
    (modUsed s k f).skein = s.skein ∧ (modUsed s k f).acc = s.acc ∧ (modUsed s k f).lost = s.lost ∧
    (modUsed s k f).lcache = s.lcache ∧ (modUsed s k f).carder = s.carder ∧
    (modUsed s k f).used = tabMod none s.used k f ∧ (modUsed s k f).dram = s.dram ∧ (modUsed s k f).slots = s.slots ∧
    (modUsed s k f).keys = s.keys ∧ (modUsed s k f).spn = s.spn ∧ (modUsed s k f).units = s.units ∧
    (modUsed s k f).rings = s.rings ∧ (modUsed s k f).descs = s.descs ∧ (modUsed s k f).chans = s.chans ∧
    (modUsed s k f).rate = s.rate ∧ (modUsed s k f).passes = s.passes ∧ (modUsed s k f).plist = s.plist ∧
    (modUsed s k f).qos = s.qos ∧ (modUsed s k f).stations = s.stations ∧ (modUsed s k f).fabric = s.fabric ∧
    (modUsed s k f).img = s.img ∧ (modUsed s k f).ply = s.ply ∧ (modUsed s k f).pair = s.pair ∧
    (modUsed s k f).doms = s.doms ∧ (modUsed s k f).power = s.power ∧ (modUsed s k f).hsw = s.hsw ∧
    (modUsed s k f).mbx = s.mbx ∧ (modUsed s k f).banks = s.banks ∧ (modUsed s k f).sec = s.sec ∧
    (modUsed s k f).mgmt = s.mgmt ∧ (modUsed s k f).pmu = s.pmu :=
  ⟨rfl, rfl, rfl, rfl, rfl, rfl, rfl, rfl, rfl, rfl, rfl, rfl, rfl, rfl, rfl, rfl, rfl, rfl, rfl, rfl, rfl, rfl, rfl, rfl,
  rfl, rfl, rfl, rfl, rfl, rfl, rfl, rfl, rfl, rfl, rfl, rfl, rfl, rfl, rfl, rfl, rfl, rfl, rfl, rfl, rfl, rfl, rfl,
  rfl, rfl, rfl, rfl, rfl, rfl, rfl, rfl, rfl, rfl, rfl, rfl, rfl, rfl, rfl⟩

@[simp] theorem usedAt_modUsed (k j : Nat) (f : Option HankUse → Option HankUse) :
    usedAt (modUsed s k f) j = if j = k then f (usedAt s j) else usedAt s j := tabGet_mod none s.used k j f

@[simp] theorem modUsed_reads (k : Nat) (f : Option HankUse → Option HankUse) (j : Nat) :
    portAt (modUsed s k f) j = portAt s j ∧ linkAt (modUsed s k f) j = linkAt s j ∧
    fnAt (modUsed s k f) j = fnAt s j ∧ seatAt (modUsed s k f) j = seatAt s j ∧
    groupAt (modUsed s k f) j = groupAt s j ∧ winAt (modUsed s k f) j = winAt s j ∧
    blockAt (modUsed s k f) j = blockAt s j ∧ ingressAt (modUsed s k f) j = ingressAt s j ∧
    trkAt (modUsed s k f) j = trkAt s j ∧ useAt (modUsed s k f) j = useAt s j ∧
    creelAt (modUsed s k f) j = creelAt s j ∧ actAt (modUsed s k f) j = actAt s j ∧
    xingAt (modUsed s k f) j = xingAt s j ∧ sliceAt (modUsed s k f) j = sliceAt s j ∧
    hankRaw (modUsed s k f) j = hankRaw s j ∧ pageAt (modUsed s k f) j = pageAt s j ∧
    cached (modUsed s k f) j = cached s j ∧ accAt (modUsed s k f) j = accAt s j ∧
    lcacheAt (modUsed s k f) j = lcacheAt s j ∧ dramAt (modUsed s k f) j = dramAt s j ∧
    slotAt (modUsed s k f) j = slotAt s j ∧ spnAt (modUsed s k f) j = spnAt s j ∧
    ringAt (modUsed s k f) j = ringAt s j ∧ descAt (modUsed s k f) j = descAt s j ∧
    chAt (modUsed s k f) j = chAt s j ∧ stAt (modUsed s k f) j = stAt s j ∧ plyAt (modUsed s k f) j = plyAt s j ∧
    domAt (modUsed s k f) j = domAt s j ∧ mbxAt (modUsed s k f) j = mbxAt s j ∧
    bankAt (modUsed s k f) j = bankAt s j ∧ regAt (modUsed s k f) j = regAt s j ∧ cntAt (modUsed s k f) j = cntAt s j :=
  ⟨rfl, rfl, rfl, rfl, rfl, rfl, rfl, rfl, rfl, rfl, rfl, rfl, rfl, rfl, rfl, rfl, rfl, rfl, rfl, rfl, rfl, rfl, rfl,
  rfl, rfl, rfl, rfl, rfl, rfl, rfl, rfl, rfl⟩

/-- `modDram` changes only `dram`. -/
@[simp] theorem modDram_fields (k : Nat) (f : Option Stored → Option Stored) :
    (modDram s k f).now = s.now ∧ (modDram s k f).pending = s.pending ∧ (modDram s k f).free = s.free ∧
    (modDram s k f).stamp = s.stamp ∧ (modDram s k f).out = s.out ∧ (modDram s k f).boot = s.boot ∧
    (modDram s k f).regs = s.regs ∧ (modDram s k f).cnts = s.cnts ∧ (modDram s k f).latches = s.latches ∧
    (modDram s k f).marks = s.marks ∧ (modDram s k f).log = s.log ∧ (modDram s k f).ports = s.ports ∧
    (modDram s k f).links = s.links ∧ (modDram s k f).fns = s.fns ∧ (modDram s k f).seats = s.seats ∧
    (modDram s k f).groups = s.groups ∧ (modDram s k f).wins = s.wins ∧ (modDram s k f).blocks = s.blocks ∧
    (modDram s k f).nextExt = s.nextExt ∧ (modDram s k f).ledger = s.ledger ∧ (modDram s k f).ingress = s.ingress ∧
    (modDram s k f).trk = s.trk ∧ (modDram s k f).use = s.use ∧ (modDram s k f).creel = s.creel ∧
    (modDram s k f).acts = s.acts ∧ (modDram s k f).xing = s.xing ∧ (modDram s k f).slices = s.slices ∧
    (modDram s k f).serialRr = s.serialRr ∧
    (modDram s k f).serialIn = s.serialIn ∧ (modDram s k f).hanks = s.hanks ∧ (modDram s k f).pages = s.pages ∧
    (modDram s k f).skein = s.skein ∧ (modDram s k f).acc = s.acc ∧ (modDram s k f).lost = s.lost ∧
    (modDram s k f).lcache = s.lcache ∧ (modDram s k f).carder = s.carder ∧ (modDram s k f).used = s.used ∧
    (modDram s k f).dram = tabMod none s.dram k f ∧ (modDram s k f).slots = s.slots ∧ (modDram s k f).keys = s.keys ∧
    (modDram s k f).spn = s.spn ∧ (modDram s k f).units = s.units ∧ (modDram s k f).rings = s.rings ∧
    (modDram s k f).descs = s.descs ∧ (modDram s k f).chans = s.chans ∧ (modDram s k f).rate = s.rate ∧
    (modDram s k f).passes = s.passes ∧ (modDram s k f).plist = s.plist ∧ (modDram s k f).qos = s.qos ∧
    (modDram s k f).stations = s.stations ∧ (modDram s k f).fabric = s.fabric ∧ (modDram s k f).img = s.img ∧
    (modDram s k f).ply = s.ply ∧ (modDram s k f).pair = s.pair ∧ (modDram s k f).doms = s.doms ∧
    (modDram s k f).power = s.power ∧ (modDram s k f).hsw = s.hsw ∧ (modDram s k f).mbx = s.mbx ∧
    (modDram s k f).banks = s.banks ∧ (modDram s k f).sec = s.sec ∧ (modDram s k f).mgmt = s.mgmt ∧
    (modDram s k f).pmu = s.pmu :=
  ⟨rfl, rfl, rfl, rfl, rfl, rfl, rfl, rfl, rfl, rfl, rfl, rfl, rfl, rfl, rfl, rfl, rfl, rfl, rfl, rfl, rfl, rfl, rfl, rfl,
  rfl, rfl, rfl, rfl, rfl, rfl, rfl, rfl, rfl, rfl, rfl, rfl, rfl, rfl, rfl, rfl, rfl, rfl, rfl, rfl, rfl, rfl, rfl,
  rfl, rfl, rfl, rfl, rfl, rfl, rfl, rfl, rfl, rfl, rfl, rfl, rfl, rfl, rfl⟩

@[simp] theorem dramAt_modDram (k j : Nat) (f : Option Stored → Option Stored) :
    dramAt (modDram s k f) j = if j = k then f (dramAt s j) else dramAt s j := tabGet_mod none s.dram k j f

@[simp] theorem modDram_reads (k : Nat) (f : Option Stored → Option Stored) (j : Nat) :
    portAt (modDram s k f) j = portAt s j ∧ linkAt (modDram s k f) j = linkAt s j ∧
    fnAt (modDram s k f) j = fnAt s j ∧ seatAt (modDram s k f) j = seatAt s j ∧
    groupAt (modDram s k f) j = groupAt s j ∧ winAt (modDram s k f) j = winAt s j ∧
    blockAt (modDram s k f) j = blockAt s j ∧ ingressAt (modDram s k f) j = ingressAt s j ∧
    trkAt (modDram s k f) j = trkAt s j ∧ useAt (modDram s k f) j = useAt s j ∧
    creelAt (modDram s k f) j = creelAt s j ∧ actAt (modDram s k f) j = actAt s j ∧
    xingAt (modDram s k f) j = xingAt s j ∧ sliceAt (modDram s k f) j = sliceAt s j ∧
    hankRaw (modDram s k f) j = hankRaw s j ∧ pageAt (modDram s k f) j = pageAt s j ∧
    cached (modDram s k f) j = cached s j ∧ accAt (modDram s k f) j = accAt s j ∧
    lcacheAt (modDram s k f) j = lcacheAt s j ∧ usedAt (modDram s k f) j = usedAt s j ∧
    slotAt (modDram s k f) j = slotAt s j ∧ spnAt (modDram s k f) j = spnAt s j ∧
    ringAt (modDram s k f) j = ringAt s j ∧ descAt (modDram s k f) j = descAt s j ∧
    chAt (modDram s k f) j = chAt s j ∧ stAt (modDram s k f) j = stAt s j ∧ plyAt (modDram s k f) j = plyAt s j ∧
    domAt (modDram s k f) j = domAt s j ∧ mbxAt (modDram s k f) j = mbxAt s j ∧
    bankAt (modDram s k f) j = bankAt s j ∧ regAt (modDram s k f) j = regAt s j ∧ cntAt (modDram s k f) j = cntAt s j :=
  ⟨rfl, rfl, rfl, rfl, rfl, rfl, rfl, rfl, rfl, rfl, rfl, rfl, rfl, rfl, rfl, rfl, rfl, rfl, rfl, rfl, rfl, rfl, rfl,
  rfl, rfl, rfl, rfl, rfl, rfl, rfl, rfl, rfl⟩

/-- `modSlot` changes only `slots`. -/
@[simp] theorem modSlot_fields (k : Nat) (f : Slot → Slot) :
    (modSlot s k f).now = s.now ∧ (modSlot s k f).pending = s.pending ∧ (modSlot s k f).free = s.free ∧
    (modSlot s k f).stamp = s.stamp ∧ (modSlot s k f).out = s.out ∧ (modSlot s k f).boot = s.boot ∧
    (modSlot s k f).regs = s.regs ∧ (modSlot s k f).cnts = s.cnts ∧ (modSlot s k f).latches = s.latches ∧
    (modSlot s k f).marks = s.marks ∧ (modSlot s k f).log = s.log ∧ (modSlot s k f).ports = s.ports ∧
    (modSlot s k f).links = s.links ∧ (modSlot s k f).fns = s.fns ∧ (modSlot s k f).seats = s.seats ∧
    (modSlot s k f).groups = s.groups ∧ (modSlot s k f).wins = s.wins ∧ (modSlot s k f).blocks = s.blocks ∧
    (modSlot s k f).nextExt = s.nextExt ∧ (modSlot s k f).ledger = s.ledger ∧ (modSlot s k f).ingress = s.ingress ∧
    (modSlot s k f).trk = s.trk ∧ (modSlot s k f).use = s.use ∧ (modSlot s k f).creel = s.creel ∧
    (modSlot s k f).acts = s.acts ∧ (modSlot s k f).xing = s.xing ∧ (modSlot s k f).slices = s.slices ∧
    (modSlot s k f).serialRr = s.serialRr ∧
    (modSlot s k f).serialIn = s.serialIn ∧ (modSlot s k f).hanks = s.hanks ∧ (modSlot s k f).pages = s.pages ∧
    (modSlot s k f).skein = s.skein ∧ (modSlot s k f).acc = s.acc ∧ (modSlot s k f).lost = s.lost ∧
    (modSlot s k f).lcache = s.lcache ∧ (modSlot s k f).carder = s.carder ∧ (modSlot s k f).used = s.used ∧
    (modSlot s k f).dram = s.dram ∧ (modSlot s k f).slots = tabMod {} s.slots k f ∧ (modSlot s k f).keys = s.keys ∧
    (modSlot s k f).spn = s.spn ∧ (modSlot s k f).units = s.units ∧ (modSlot s k f).rings = s.rings ∧
    (modSlot s k f).descs = s.descs ∧ (modSlot s k f).chans = s.chans ∧ (modSlot s k f).rate = s.rate ∧
    (modSlot s k f).passes = s.passes ∧ (modSlot s k f).plist = s.plist ∧ (modSlot s k f).qos = s.qos ∧
    (modSlot s k f).stations = s.stations ∧ (modSlot s k f).fabric = s.fabric ∧ (modSlot s k f).img = s.img ∧
    (modSlot s k f).ply = s.ply ∧ (modSlot s k f).pair = s.pair ∧ (modSlot s k f).doms = s.doms ∧
    (modSlot s k f).power = s.power ∧ (modSlot s k f).hsw = s.hsw ∧ (modSlot s k f).mbx = s.mbx ∧
    (modSlot s k f).banks = s.banks ∧ (modSlot s k f).sec = s.sec ∧ (modSlot s k f).mgmt = s.mgmt ∧
    (modSlot s k f).pmu = s.pmu :=
  ⟨rfl, rfl, rfl, rfl, rfl, rfl, rfl, rfl, rfl, rfl, rfl, rfl, rfl, rfl, rfl, rfl, rfl, rfl, rfl, rfl, rfl, rfl, rfl, rfl,
  rfl, rfl, rfl, rfl, rfl, rfl, rfl, rfl, rfl, rfl, rfl, rfl, rfl, rfl, rfl, rfl, rfl, rfl, rfl, rfl, rfl, rfl, rfl,
  rfl, rfl, rfl, rfl, rfl, rfl, rfl, rfl, rfl, rfl, rfl, rfl, rfl, rfl, rfl⟩

@[simp] theorem slotAt_modSlot (k j : Nat) (f : Slot → Slot) :
    slotAt (modSlot s k f) j = if j = k then f (slotAt s j) else slotAt s j := tabGet_mod ({} : Slot) s.slots k j f

@[simp] theorem modSlot_reads (k : Nat) (f : Slot → Slot) (j : Nat) :
    portAt (modSlot s k f) j = portAt s j ∧ linkAt (modSlot s k f) j = linkAt s j ∧
    fnAt (modSlot s k f) j = fnAt s j ∧ seatAt (modSlot s k f) j = seatAt s j ∧
    groupAt (modSlot s k f) j = groupAt s j ∧ winAt (modSlot s k f) j = winAt s j ∧
    blockAt (modSlot s k f) j = blockAt s j ∧ ingressAt (modSlot s k f) j = ingressAt s j ∧
    trkAt (modSlot s k f) j = trkAt s j ∧ useAt (modSlot s k f) j = useAt s j ∧
    creelAt (modSlot s k f) j = creelAt s j ∧ actAt (modSlot s k f) j = actAt s j ∧
    xingAt (modSlot s k f) j = xingAt s j ∧ sliceAt (modSlot s k f) j = sliceAt s j ∧
    hankRaw (modSlot s k f) j = hankRaw s j ∧ pageAt (modSlot s k f) j = pageAt s j ∧
    cached (modSlot s k f) j = cached s j ∧ accAt (modSlot s k f) j = accAt s j ∧
    lcacheAt (modSlot s k f) j = lcacheAt s j ∧ usedAt (modSlot s k f) j = usedAt s j ∧
    dramAt (modSlot s k f) j = dramAt s j ∧ spnAt (modSlot s k f) j = spnAt s j ∧
    ringAt (modSlot s k f) j = ringAt s j ∧ descAt (modSlot s k f) j = descAt s j ∧
    chAt (modSlot s k f) j = chAt s j ∧ stAt (modSlot s k f) j = stAt s j ∧ plyAt (modSlot s k f) j = plyAt s j ∧
    domAt (modSlot s k f) j = domAt s j ∧ mbxAt (modSlot s k f) j = mbxAt s j ∧
    bankAt (modSlot s k f) j = bankAt s j ∧ regAt (modSlot s k f) j = regAt s j ∧ cntAt (modSlot s k f) j = cntAt s j :=
  ⟨rfl, rfl, rfl, rfl, rfl, rfl, rfl, rfl, rfl, rfl, rfl, rfl, rfl, rfl, rfl, rfl, rfl, rfl, rfl, rfl, rfl, rfl, rfl,
  rfl, rfl, rfl, rfl, rfl, rfl, rfl, rfl, rfl⟩

/-- `modSpn` changes only `spn`. -/
@[simp] theorem modSpn_fields (k : Nat) (f : Spindle → Spindle) :
    (modSpn s k f).now = s.now ∧ (modSpn s k f).pending = s.pending ∧ (modSpn s k f).free = s.free ∧
    (modSpn s k f).stamp = s.stamp ∧ (modSpn s k f).out = s.out ∧ (modSpn s k f).boot = s.boot ∧
    (modSpn s k f).regs = s.regs ∧ (modSpn s k f).cnts = s.cnts ∧ (modSpn s k f).latches = s.latches ∧
    (modSpn s k f).marks = s.marks ∧ (modSpn s k f).log = s.log ∧ (modSpn s k f).ports = s.ports ∧
    (modSpn s k f).links = s.links ∧ (modSpn s k f).fns = s.fns ∧ (modSpn s k f).seats = s.seats ∧
    (modSpn s k f).groups = s.groups ∧ (modSpn s k f).wins = s.wins ∧ (modSpn s k f).blocks = s.blocks ∧
    (modSpn s k f).nextExt = s.nextExt ∧ (modSpn s k f).ledger = s.ledger ∧ (modSpn s k f).ingress = s.ingress ∧
    (modSpn s k f).trk = s.trk ∧ (modSpn s k f).use = s.use ∧ (modSpn s k f).creel = s.creel ∧
    (modSpn s k f).acts = s.acts ∧ (modSpn s k f).xing = s.xing ∧ (modSpn s k f).slices = s.slices ∧
    (modSpn s k f).serialRr = s.serialRr ∧
    (modSpn s k f).serialIn = s.serialIn ∧ (modSpn s k f).hanks = s.hanks ∧ (modSpn s k f).pages = s.pages ∧
    (modSpn s k f).skein = s.skein ∧ (modSpn s k f).acc = s.acc ∧ (modSpn s k f).lost = s.lost ∧
    (modSpn s k f).lcache = s.lcache ∧ (modSpn s k f).carder = s.carder ∧ (modSpn s k f).used = s.used ∧
    (modSpn s k f).dram = s.dram ∧ (modSpn s k f).slots = s.slots ∧ (modSpn s k f).keys = s.keys ∧
    (modSpn s k f).spn = tabMod {} s.spn k f ∧ (modSpn s k f).units = s.units ∧ (modSpn s k f).rings = s.rings ∧
    (modSpn s k f).descs = s.descs ∧ (modSpn s k f).chans = s.chans ∧ (modSpn s k f).rate = s.rate ∧
    (modSpn s k f).passes = s.passes ∧ (modSpn s k f).plist = s.plist ∧ (modSpn s k f).qos = s.qos ∧
    (modSpn s k f).stations = s.stations ∧ (modSpn s k f).fabric = s.fabric ∧ (modSpn s k f).img = s.img ∧
    (modSpn s k f).ply = s.ply ∧ (modSpn s k f).pair = s.pair ∧ (modSpn s k f).doms = s.doms ∧
    (modSpn s k f).power = s.power ∧ (modSpn s k f).hsw = s.hsw ∧ (modSpn s k f).mbx = s.mbx ∧
    (modSpn s k f).banks = s.banks ∧ (modSpn s k f).sec = s.sec ∧ (modSpn s k f).mgmt = s.mgmt ∧
    (modSpn s k f).pmu = s.pmu :=
  ⟨rfl, rfl, rfl, rfl, rfl, rfl, rfl, rfl, rfl, rfl, rfl, rfl, rfl, rfl, rfl, rfl, rfl, rfl, rfl, rfl, rfl, rfl, rfl, rfl,
  rfl, rfl, rfl, rfl, rfl, rfl, rfl, rfl, rfl, rfl, rfl, rfl, rfl, rfl, rfl, rfl, rfl, rfl, rfl, rfl, rfl, rfl, rfl,
  rfl, rfl, rfl, rfl, rfl, rfl, rfl, rfl, rfl, rfl, rfl, rfl, rfl, rfl, rfl⟩

@[simp] theorem spnAt_modSpn (k j : Nat) (f : Spindle → Spindle) :
    spnAt (modSpn s k f) j = if j = k then f (spnAt s j) else spnAt s j := tabGet_mod ({} : Spindle) s.spn k j f

@[simp] theorem modSpn_reads (k : Nat) (f : Spindle → Spindle) (j : Nat) :
    portAt (modSpn s k f) j = portAt s j ∧ linkAt (modSpn s k f) j = linkAt s j ∧ fnAt (modSpn s k f) j = fnAt s j ∧
    seatAt (modSpn s k f) j = seatAt s j ∧ groupAt (modSpn s k f) j = groupAt s j ∧
    winAt (modSpn s k f) j = winAt s j ∧ blockAt (modSpn s k f) j = blockAt s j ∧
    ingressAt (modSpn s k f) j = ingressAt s j ∧ trkAt (modSpn s k f) j = trkAt s j ∧
    useAt (modSpn s k f) j = useAt s j ∧ creelAt (modSpn s k f) j = creelAt s j ∧ actAt (modSpn s k f) j = actAt s j ∧
    xingAt (modSpn s k f) j = xingAt s j ∧ sliceAt (modSpn s k f) j = sliceAt s j ∧
    hankRaw (modSpn s k f) j = hankRaw s j ∧ pageAt (modSpn s k f) j = pageAt s j ∧
    cached (modSpn s k f) j = cached s j ∧ accAt (modSpn s k f) j = accAt s j ∧
    lcacheAt (modSpn s k f) j = lcacheAt s j ∧ usedAt (modSpn s k f) j = usedAt s j ∧
    dramAt (modSpn s k f) j = dramAt s j ∧ slotAt (modSpn s k f) j = slotAt s j ∧
    ringAt (modSpn s k f) j = ringAt s j ∧ descAt (modSpn s k f) j = descAt s j ∧ chAt (modSpn s k f) j = chAt s j ∧
    stAt (modSpn s k f) j = stAt s j ∧ plyAt (modSpn s k f) j = plyAt s j ∧ domAt (modSpn s k f) j = domAt s j ∧
    mbxAt (modSpn s k f) j = mbxAt s j ∧ bankAt (modSpn s k f) j = bankAt s j ∧ regAt (modSpn s k f) j = regAt s j ∧
    cntAt (modSpn s k f) j = cntAt s j :=
  ⟨rfl, rfl, rfl, rfl, rfl, rfl, rfl, rfl, rfl, rfl, rfl, rfl, rfl, rfl, rfl, rfl, rfl, rfl, rfl, rfl, rfl, rfl, rfl,
  rfl, rfl, rfl, rfl, rfl, rfl, rfl, rfl, rfl⟩

/-- `modRing` changes only `rings`. -/
@[simp] theorem modRing_fields (k : Nat) (f : Ring → Ring) :
    (modRing s k f).now = s.now ∧ (modRing s k f).pending = s.pending ∧ (modRing s k f).free = s.free ∧
    (modRing s k f).stamp = s.stamp ∧ (modRing s k f).out = s.out ∧ (modRing s k f).boot = s.boot ∧
    (modRing s k f).regs = s.regs ∧ (modRing s k f).cnts = s.cnts ∧ (modRing s k f).latches = s.latches ∧
    (modRing s k f).marks = s.marks ∧ (modRing s k f).log = s.log ∧ (modRing s k f).ports = s.ports ∧
    (modRing s k f).links = s.links ∧ (modRing s k f).fns = s.fns ∧ (modRing s k f).seats = s.seats ∧
    (modRing s k f).groups = s.groups ∧ (modRing s k f).wins = s.wins ∧ (modRing s k f).blocks = s.blocks ∧
    (modRing s k f).nextExt = s.nextExt ∧ (modRing s k f).ledger = s.ledger ∧ (modRing s k f).ingress = s.ingress ∧
    (modRing s k f).trk = s.trk ∧ (modRing s k f).use = s.use ∧ (modRing s k f).creel = s.creel ∧
    (modRing s k f).acts = s.acts ∧ (modRing s k f).xing = s.xing ∧ (modRing s k f).slices = s.slices ∧
    (modRing s k f).serialRr = s.serialRr ∧
    (modRing s k f).serialIn = s.serialIn ∧ (modRing s k f).hanks = s.hanks ∧ (modRing s k f).pages = s.pages ∧
    (modRing s k f).skein = s.skein ∧ (modRing s k f).acc = s.acc ∧ (modRing s k f).lost = s.lost ∧
    (modRing s k f).lcache = s.lcache ∧ (modRing s k f).carder = s.carder ∧ (modRing s k f).used = s.used ∧
    (modRing s k f).dram = s.dram ∧ (modRing s k f).slots = s.slots ∧ (modRing s k f).keys = s.keys ∧
    (modRing s k f).spn = s.spn ∧ (modRing s k f).units = s.units ∧ (modRing s k f).rings = tabMod {} s.rings k f ∧
    (modRing s k f).descs = s.descs ∧ (modRing s k f).chans = s.chans ∧ (modRing s k f).rate = s.rate ∧
    (modRing s k f).passes = s.passes ∧ (modRing s k f).plist = s.plist ∧ (modRing s k f).qos = s.qos ∧
    (modRing s k f).stations = s.stations ∧ (modRing s k f).fabric = s.fabric ∧ (modRing s k f).img = s.img ∧
    (modRing s k f).ply = s.ply ∧ (modRing s k f).pair = s.pair ∧ (modRing s k f).doms = s.doms ∧
    (modRing s k f).power = s.power ∧ (modRing s k f).hsw = s.hsw ∧ (modRing s k f).mbx = s.mbx ∧
    (modRing s k f).banks = s.banks ∧ (modRing s k f).sec = s.sec ∧ (modRing s k f).mgmt = s.mgmt ∧
    (modRing s k f).pmu = s.pmu :=
  ⟨rfl, rfl, rfl, rfl, rfl, rfl, rfl, rfl, rfl, rfl, rfl, rfl, rfl, rfl, rfl, rfl, rfl, rfl, rfl, rfl, rfl, rfl, rfl, rfl,
  rfl, rfl, rfl, rfl, rfl, rfl, rfl, rfl, rfl, rfl, rfl, rfl, rfl, rfl, rfl, rfl, rfl, rfl, rfl, rfl, rfl, rfl, rfl,
  rfl, rfl, rfl, rfl, rfl, rfl, rfl, rfl, rfl, rfl, rfl, rfl, rfl, rfl, rfl⟩

@[simp] theorem ringAt_modRing (k j : Nat) (f : Ring → Ring) :
    ringAt (modRing s k f) j = if j = k then f (ringAt s j) else ringAt s j := tabGet_mod ({} : Ring) s.rings k j f

@[simp] theorem modRing_reads (k : Nat) (f : Ring → Ring) (j : Nat) :
    portAt (modRing s k f) j = portAt s j ∧ linkAt (modRing s k f) j = linkAt s j ∧
    fnAt (modRing s k f) j = fnAt s j ∧ seatAt (modRing s k f) j = seatAt s j ∧
    groupAt (modRing s k f) j = groupAt s j ∧ winAt (modRing s k f) j = winAt s j ∧
    blockAt (modRing s k f) j = blockAt s j ∧ ingressAt (modRing s k f) j = ingressAt s j ∧
    trkAt (modRing s k f) j = trkAt s j ∧ useAt (modRing s k f) j = useAt s j ∧
    creelAt (modRing s k f) j = creelAt s j ∧ actAt (modRing s k f) j = actAt s j ∧
    xingAt (modRing s k f) j = xingAt s j ∧ sliceAt (modRing s k f) j = sliceAt s j ∧
    hankRaw (modRing s k f) j = hankRaw s j ∧ pageAt (modRing s k f) j = pageAt s j ∧
    cached (modRing s k f) j = cached s j ∧ accAt (modRing s k f) j = accAt s j ∧
    lcacheAt (modRing s k f) j = lcacheAt s j ∧ usedAt (modRing s k f) j = usedAt s j ∧
    dramAt (modRing s k f) j = dramAt s j ∧ slotAt (modRing s k f) j = slotAt s j ∧
    spnAt (modRing s k f) j = spnAt s j ∧ descAt (modRing s k f) j = descAt s j ∧ chAt (modRing s k f) j = chAt s j ∧
    stAt (modRing s k f) j = stAt s j ∧ plyAt (modRing s k f) j = plyAt s j ∧ domAt (modRing s k f) j = domAt s j ∧
    mbxAt (modRing s k f) j = mbxAt s j ∧ bankAt (modRing s k f) j = bankAt s j ∧
    regAt (modRing s k f) j = regAt s j ∧ cntAt (modRing s k f) j = cntAt s j :=
  ⟨rfl, rfl, rfl, rfl, rfl, rfl, rfl, rfl, rfl, rfl, rfl, rfl, rfl, rfl, rfl, rfl, rfl, rfl, rfl, rfl, rfl, rfl, rfl,
  rfl, rfl, rfl, rfl, rfl, rfl, rfl, rfl, rfl⟩

/-- `modDesc` changes only `descs`. -/
@[simp] theorem modDesc_fields (k : Nat) (f : Option Desc → Option Desc) :
    (modDesc s k f).now = s.now ∧ (modDesc s k f).pending = s.pending ∧ (modDesc s k f).free = s.free ∧
    (modDesc s k f).stamp = s.stamp ∧ (modDesc s k f).out = s.out ∧ (modDesc s k f).boot = s.boot ∧
    (modDesc s k f).regs = s.regs ∧ (modDesc s k f).cnts = s.cnts ∧ (modDesc s k f).latches = s.latches ∧
    (modDesc s k f).marks = s.marks ∧ (modDesc s k f).log = s.log ∧ (modDesc s k f).ports = s.ports ∧
    (modDesc s k f).links = s.links ∧ (modDesc s k f).fns = s.fns ∧ (modDesc s k f).seats = s.seats ∧
    (modDesc s k f).groups = s.groups ∧ (modDesc s k f).wins = s.wins ∧ (modDesc s k f).blocks = s.blocks ∧
    (modDesc s k f).nextExt = s.nextExt ∧ (modDesc s k f).ledger = s.ledger ∧ (modDesc s k f).ingress = s.ingress ∧
    (modDesc s k f).trk = s.trk ∧ (modDesc s k f).use = s.use ∧ (modDesc s k f).creel = s.creel ∧
    (modDesc s k f).acts = s.acts ∧ (modDesc s k f).xing = s.xing ∧ (modDesc s k f).slices = s.slices ∧
    (modDesc s k f).serialRr = s.serialRr ∧
    (modDesc s k f).serialIn = s.serialIn ∧ (modDesc s k f).hanks = s.hanks ∧ (modDesc s k f).pages = s.pages ∧
    (modDesc s k f).skein = s.skein ∧ (modDesc s k f).acc = s.acc ∧ (modDesc s k f).lost = s.lost ∧
    (modDesc s k f).lcache = s.lcache ∧ (modDesc s k f).carder = s.carder ∧ (modDesc s k f).used = s.used ∧
    (modDesc s k f).dram = s.dram ∧ (modDesc s k f).slots = s.slots ∧ (modDesc s k f).keys = s.keys ∧
    (modDesc s k f).spn = s.spn ∧ (modDesc s k f).units = s.units ∧ (modDesc s k f).rings = s.rings ∧
    (modDesc s k f).descs = tabMod none s.descs k f ∧ (modDesc s k f).chans = s.chans ∧
    (modDesc s k f).rate = s.rate ∧ (modDesc s k f).passes = s.passes ∧ (modDesc s k f).plist = s.plist ∧
    (modDesc s k f).qos = s.qos ∧ (modDesc s k f).stations = s.stations ∧ (modDesc s k f).fabric = s.fabric ∧
    (modDesc s k f).img = s.img ∧ (modDesc s k f).ply = s.ply ∧ (modDesc s k f).pair = s.pair ∧
    (modDesc s k f).doms = s.doms ∧ (modDesc s k f).power = s.power ∧ (modDesc s k f).hsw = s.hsw ∧
    (modDesc s k f).mbx = s.mbx ∧ (modDesc s k f).banks = s.banks ∧ (modDesc s k f).sec = s.sec ∧
    (modDesc s k f).mgmt = s.mgmt ∧ (modDesc s k f).pmu = s.pmu :=
  ⟨rfl, rfl, rfl, rfl, rfl, rfl, rfl, rfl, rfl, rfl, rfl, rfl, rfl, rfl, rfl, rfl, rfl, rfl, rfl, rfl, rfl, rfl, rfl, rfl,
  rfl, rfl, rfl, rfl, rfl, rfl, rfl, rfl, rfl, rfl, rfl, rfl, rfl, rfl, rfl, rfl, rfl, rfl, rfl, rfl, rfl, rfl, rfl,
  rfl, rfl, rfl, rfl, rfl, rfl, rfl, rfl, rfl, rfl, rfl, rfl, rfl, rfl, rfl⟩

@[simp] theorem descAt_modDesc (k j : Nat) (f : Option Desc → Option Desc) :
    descAt (modDesc s k f) j = if j = k then f (descAt s j) else descAt s j := tabGet_mod none s.descs k j f

@[simp] theorem modDesc_reads (k : Nat) (f : Option Desc → Option Desc) (j : Nat) :
    portAt (modDesc s k f) j = portAt s j ∧ linkAt (modDesc s k f) j = linkAt s j ∧
    fnAt (modDesc s k f) j = fnAt s j ∧ seatAt (modDesc s k f) j = seatAt s j ∧
    groupAt (modDesc s k f) j = groupAt s j ∧ winAt (modDesc s k f) j = winAt s j ∧
    blockAt (modDesc s k f) j = blockAt s j ∧ ingressAt (modDesc s k f) j = ingressAt s j ∧
    trkAt (modDesc s k f) j = trkAt s j ∧ useAt (modDesc s k f) j = useAt s j ∧
    creelAt (modDesc s k f) j = creelAt s j ∧ actAt (modDesc s k f) j = actAt s j ∧
    xingAt (modDesc s k f) j = xingAt s j ∧ sliceAt (modDesc s k f) j = sliceAt s j ∧
    hankRaw (modDesc s k f) j = hankRaw s j ∧ pageAt (modDesc s k f) j = pageAt s j ∧
    cached (modDesc s k f) j = cached s j ∧ accAt (modDesc s k f) j = accAt s j ∧
    lcacheAt (modDesc s k f) j = lcacheAt s j ∧ usedAt (modDesc s k f) j = usedAt s j ∧
    dramAt (modDesc s k f) j = dramAt s j ∧ slotAt (modDesc s k f) j = slotAt s j ∧
    spnAt (modDesc s k f) j = spnAt s j ∧ ringAt (modDesc s k f) j = ringAt s j ∧ chAt (modDesc s k f) j = chAt s j ∧
    stAt (modDesc s k f) j = stAt s j ∧ plyAt (modDesc s k f) j = plyAt s j ∧ domAt (modDesc s k f) j = domAt s j ∧
    mbxAt (modDesc s k f) j = mbxAt s j ∧ bankAt (modDesc s k f) j = bankAt s j ∧
    regAt (modDesc s k f) j = regAt s j ∧ cntAt (modDesc s k f) j = cntAt s j :=
  ⟨rfl, rfl, rfl, rfl, rfl, rfl, rfl, rfl, rfl, rfl, rfl, rfl, rfl, rfl, rfl, rfl, rfl, rfl, rfl, rfl, rfl, rfl, rfl,
  rfl, rfl, rfl, rfl, rfl, rfl, rfl, rfl, rfl⟩

/-- `modCh` changes only `chans`. -/
@[simp] theorem modCh_fields (k : Nat) (f : Chan → Chan) :
    (modCh s k f).now = s.now ∧ (modCh s k f).pending = s.pending ∧ (modCh s k f).free = s.free ∧
    (modCh s k f).stamp = s.stamp ∧ (modCh s k f).out = s.out ∧ (modCh s k f).boot = s.boot ∧
    (modCh s k f).regs = s.regs ∧ (modCh s k f).cnts = s.cnts ∧ (modCh s k f).latches = s.latches ∧
    (modCh s k f).marks = s.marks ∧ (modCh s k f).log = s.log ∧ (modCh s k f).ports = s.ports ∧
    (modCh s k f).links = s.links ∧ (modCh s k f).fns = s.fns ∧ (modCh s k f).seats = s.seats ∧
    (modCh s k f).groups = s.groups ∧ (modCh s k f).wins = s.wins ∧ (modCh s k f).blocks = s.blocks ∧
    (modCh s k f).nextExt = s.nextExt ∧ (modCh s k f).ledger = s.ledger ∧ (modCh s k f).ingress = s.ingress ∧
    (modCh s k f).trk = s.trk ∧ (modCh s k f).use = s.use ∧ (modCh s k f).creel = s.creel ∧
    (modCh s k f).acts = s.acts ∧ (modCh s k f).xing = s.xing ∧ (modCh s k f).slices = s.slices ∧
    (modCh s k f).serialRr = s.serialRr ∧
    (modCh s k f).serialIn = s.serialIn ∧ (modCh s k f).hanks = s.hanks ∧ (modCh s k f).pages = s.pages ∧
    (modCh s k f).skein = s.skein ∧ (modCh s k f).acc = s.acc ∧ (modCh s k f).lost = s.lost ∧
    (modCh s k f).lcache = s.lcache ∧ (modCh s k f).carder = s.carder ∧ (modCh s k f).used = s.used ∧
    (modCh s k f).dram = s.dram ∧ (modCh s k f).slots = s.slots ∧ (modCh s k f).keys = s.keys ∧
    (modCh s k f).spn = s.spn ∧ (modCh s k f).units = s.units ∧ (modCh s k f).rings = s.rings ∧
    (modCh s k f).descs = s.descs ∧ (modCh s k f).chans = tabMod {} s.chans k f ∧ (modCh s k f).rate = s.rate ∧
    (modCh s k f).passes = s.passes ∧ (modCh s k f).plist = s.plist ∧ (modCh s k f).qos = s.qos ∧
    (modCh s k f).stations = s.stations ∧ (modCh s k f).fabric = s.fabric ∧ (modCh s k f).img = s.img ∧
    (modCh s k f).ply = s.ply ∧ (modCh s k f).pair = s.pair ∧ (modCh s k f).doms = s.doms ∧
    (modCh s k f).power = s.power ∧ (modCh s k f).hsw = s.hsw ∧ (modCh s k f).mbx = s.mbx ∧
    (modCh s k f).banks = s.banks ∧ (modCh s k f).sec = s.sec ∧ (modCh s k f).mgmt = s.mgmt ∧
    (modCh s k f).pmu = s.pmu :=
  ⟨rfl, rfl, rfl, rfl, rfl, rfl, rfl, rfl, rfl, rfl, rfl, rfl, rfl, rfl, rfl, rfl, rfl, rfl, rfl, rfl, rfl, rfl, rfl, rfl,
  rfl, rfl, rfl, rfl, rfl, rfl, rfl, rfl, rfl, rfl, rfl, rfl, rfl, rfl, rfl, rfl, rfl, rfl, rfl, rfl, rfl, rfl, rfl,
  rfl, rfl, rfl, rfl, rfl, rfl, rfl, rfl, rfl, rfl, rfl, rfl, rfl, rfl, rfl⟩

@[simp] theorem chAt_modCh (k j : Nat) (f : Chan → Chan) :
    chAt (modCh s k f) j = if j = k then f (chAt s j) else chAt s j := tabGet_mod ({} : Chan) s.chans k j f

@[simp] theorem modCh_reads (k : Nat) (f : Chan → Chan) (j : Nat) :
    portAt (modCh s k f) j = portAt s j ∧ linkAt (modCh s k f) j = linkAt s j ∧ fnAt (modCh s k f) j = fnAt s j ∧
    seatAt (modCh s k f) j = seatAt s j ∧ groupAt (modCh s k f) j = groupAt s j ∧ winAt (modCh s k f) j = winAt s j ∧
    blockAt (modCh s k f) j = blockAt s j ∧ ingressAt (modCh s k f) j = ingressAt s j ∧
    trkAt (modCh s k f) j = trkAt s j ∧ useAt (modCh s k f) j = useAt s j ∧ creelAt (modCh s k f) j = creelAt s j ∧
    actAt (modCh s k f) j = actAt s j ∧ xingAt (modCh s k f) j = xingAt s j ∧ sliceAt (modCh s k f) j = sliceAt s j ∧
    hankRaw (modCh s k f) j = hankRaw s j ∧ pageAt (modCh s k f) j = pageAt s j ∧
    cached (modCh s k f) j = cached s j ∧ accAt (modCh s k f) j = accAt s j ∧
    lcacheAt (modCh s k f) j = lcacheAt s j ∧ usedAt (modCh s k f) j = usedAt s j ∧
    dramAt (modCh s k f) j = dramAt s j ∧ slotAt (modCh s k f) j = slotAt s j ∧ spnAt (modCh s k f) j = spnAt s j ∧
    ringAt (modCh s k f) j = ringAt s j ∧ descAt (modCh s k f) j = descAt s j ∧ stAt (modCh s k f) j = stAt s j ∧
    plyAt (modCh s k f) j = plyAt s j ∧ domAt (modCh s k f) j = domAt s j ∧ mbxAt (modCh s k f) j = mbxAt s j ∧
    bankAt (modCh s k f) j = bankAt s j ∧ regAt (modCh s k f) j = regAt s j ∧ cntAt (modCh s k f) j = cntAt s j :=
  ⟨rfl, rfl, rfl, rfl, rfl, rfl, rfl, rfl, rfl, rfl, rfl, rfl, rfl, rfl, rfl, rfl, rfl, rfl, rfl, rfl, rfl, rfl, rfl,
  rfl, rfl, rfl, rfl, rfl, rfl, rfl, rfl, rfl⟩

/-- `modSt` changes only `stations`. -/
@[simp] theorem modSt_fields (k : Nat) (f : Station → Station) :
    (modSt s k f).now = s.now ∧ (modSt s k f).pending = s.pending ∧ (modSt s k f).free = s.free ∧
    (modSt s k f).stamp = s.stamp ∧ (modSt s k f).out = s.out ∧ (modSt s k f).boot = s.boot ∧
    (modSt s k f).regs = s.regs ∧ (modSt s k f).cnts = s.cnts ∧ (modSt s k f).latches = s.latches ∧
    (modSt s k f).marks = s.marks ∧ (modSt s k f).log = s.log ∧ (modSt s k f).ports = s.ports ∧
    (modSt s k f).links = s.links ∧ (modSt s k f).fns = s.fns ∧ (modSt s k f).seats = s.seats ∧
    (modSt s k f).groups = s.groups ∧ (modSt s k f).wins = s.wins ∧ (modSt s k f).blocks = s.blocks ∧
    (modSt s k f).nextExt = s.nextExt ∧ (modSt s k f).ledger = s.ledger ∧ (modSt s k f).ingress = s.ingress ∧
    (modSt s k f).trk = s.trk ∧ (modSt s k f).use = s.use ∧ (modSt s k f).creel = s.creel ∧
    (modSt s k f).acts = s.acts ∧ (modSt s k f).xing = s.xing ∧ (modSt s k f).slices = s.slices ∧
    (modSt s k f).serialRr = s.serialRr ∧
    (modSt s k f).serialIn = s.serialIn ∧ (modSt s k f).hanks = s.hanks ∧ (modSt s k f).pages = s.pages ∧
    (modSt s k f).skein = s.skein ∧ (modSt s k f).acc = s.acc ∧ (modSt s k f).lost = s.lost ∧
    (modSt s k f).lcache = s.lcache ∧ (modSt s k f).carder = s.carder ∧ (modSt s k f).used = s.used ∧
    (modSt s k f).dram = s.dram ∧ (modSt s k f).slots = s.slots ∧ (modSt s k f).keys = s.keys ∧
    (modSt s k f).spn = s.spn ∧ (modSt s k f).units = s.units ∧ (modSt s k f).rings = s.rings ∧
    (modSt s k f).descs = s.descs ∧ (modSt s k f).chans = s.chans ∧ (modSt s k f).rate = s.rate ∧
    (modSt s k f).passes = s.passes ∧ (modSt s k f).plist = s.plist ∧ (modSt s k f).qos = s.qos ∧
    (modSt s k f).stations = tabMod {} s.stations k f ∧ (modSt s k f).fabric = s.fabric ∧ (modSt s k f).img = s.img ∧
    (modSt s k f).ply = s.ply ∧ (modSt s k f).pair = s.pair ∧ (modSt s k f).doms = s.doms ∧
    (modSt s k f).power = s.power ∧ (modSt s k f).hsw = s.hsw ∧ (modSt s k f).mbx = s.mbx ∧
    (modSt s k f).banks = s.banks ∧ (modSt s k f).sec = s.sec ∧ (modSt s k f).mgmt = s.mgmt ∧
    (modSt s k f).pmu = s.pmu :=
  ⟨rfl, rfl, rfl, rfl, rfl, rfl, rfl, rfl, rfl, rfl, rfl, rfl, rfl, rfl, rfl, rfl, rfl, rfl, rfl, rfl, rfl, rfl, rfl, rfl,
  rfl, rfl, rfl, rfl, rfl, rfl, rfl, rfl, rfl, rfl, rfl, rfl, rfl, rfl, rfl, rfl, rfl, rfl, rfl, rfl, rfl, rfl, rfl,
  rfl, rfl, rfl, rfl, rfl, rfl, rfl, rfl, rfl, rfl, rfl, rfl, rfl, rfl, rfl⟩

@[simp] theorem stAt_modSt (k j : Nat) (f : Station → Station) :
    stAt (modSt s k f) j = if j = k then f (stAt s j) else stAt s j := tabGet_mod ({} : Station) s.stations k j f

@[simp] theorem modSt_reads (k : Nat) (f : Station → Station) (j : Nat) :
    portAt (modSt s k f) j = portAt s j ∧ linkAt (modSt s k f) j = linkAt s j ∧ fnAt (modSt s k f) j = fnAt s j ∧
    seatAt (modSt s k f) j = seatAt s j ∧ groupAt (modSt s k f) j = groupAt s j ∧ winAt (modSt s k f) j = winAt s j ∧
    blockAt (modSt s k f) j = blockAt s j ∧ ingressAt (modSt s k f) j = ingressAt s j ∧
    trkAt (modSt s k f) j = trkAt s j ∧ useAt (modSt s k f) j = useAt s j ∧ creelAt (modSt s k f) j = creelAt s j ∧
    actAt (modSt s k f) j = actAt s j ∧ xingAt (modSt s k f) j = xingAt s j ∧ sliceAt (modSt s k f) j = sliceAt s j ∧
    hankRaw (modSt s k f) j = hankRaw s j ∧ pageAt (modSt s k f) j = pageAt s j ∧
    cached (modSt s k f) j = cached s j ∧ accAt (modSt s k f) j = accAt s j ∧
    lcacheAt (modSt s k f) j = lcacheAt s j ∧ usedAt (modSt s k f) j = usedAt s j ∧
    dramAt (modSt s k f) j = dramAt s j ∧ slotAt (modSt s k f) j = slotAt s j ∧ spnAt (modSt s k f) j = spnAt s j ∧
    ringAt (modSt s k f) j = ringAt s j ∧ descAt (modSt s k f) j = descAt s j ∧ chAt (modSt s k f) j = chAt s j ∧
    plyAt (modSt s k f) j = plyAt s j ∧ domAt (modSt s k f) j = domAt s j ∧ mbxAt (modSt s k f) j = mbxAt s j ∧
    bankAt (modSt s k f) j = bankAt s j ∧ regAt (modSt s k f) j = regAt s j ∧ cntAt (modSt s k f) j = cntAt s j :=
  ⟨rfl, rfl, rfl, rfl, rfl, rfl, rfl, rfl, rfl, rfl, rfl, rfl, rfl, rfl, rfl, rfl, rfl, rfl, rfl, rfl, rfl, rfl, rfl,
  rfl, rfl, rfl, rfl, rfl, rfl, rfl, rfl, rfl⟩

/-- `modPly` changes only `ply`. -/
@[simp] theorem modPly_fields (k : Nat) (f : Ply → Ply) :
    (modPly s k f).now = s.now ∧ (modPly s k f).pending = s.pending ∧ (modPly s k f).free = s.free ∧
    (modPly s k f).stamp = s.stamp ∧ (modPly s k f).out = s.out ∧ (modPly s k f).boot = s.boot ∧
    (modPly s k f).regs = s.regs ∧ (modPly s k f).cnts = s.cnts ∧ (modPly s k f).latches = s.latches ∧
    (modPly s k f).marks = s.marks ∧ (modPly s k f).log = s.log ∧ (modPly s k f).ports = s.ports ∧
    (modPly s k f).links = s.links ∧ (modPly s k f).fns = s.fns ∧ (modPly s k f).seats = s.seats ∧
    (modPly s k f).groups = s.groups ∧ (modPly s k f).wins = s.wins ∧ (modPly s k f).blocks = s.blocks ∧
    (modPly s k f).nextExt = s.nextExt ∧ (modPly s k f).ledger = s.ledger ∧ (modPly s k f).ingress = s.ingress ∧
    (modPly s k f).trk = s.trk ∧ (modPly s k f).use = s.use ∧ (modPly s k f).creel = s.creel ∧
    (modPly s k f).acts = s.acts ∧ (modPly s k f).xing = s.xing ∧ (modPly s k f).slices = s.slices ∧
    (modPly s k f).serialRr = s.serialRr ∧
    (modPly s k f).serialIn = s.serialIn ∧ (modPly s k f).hanks = s.hanks ∧ (modPly s k f).pages = s.pages ∧
    (modPly s k f).skein = s.skein ∧ (modPly s k f).acc = s.acc ∧ (modPly s k f).lost = s.lost ∧
    (modPly s k f).lcache = s.lcache ∧ (modPly s k f).carder = s.carder ∧ (modPly s k f).used = s.used ∧
    (modPly s k f).dram = s.dram ∧ (modPly s k f).slots = s.slots ∧ (modPly s k f).keys = s.keys ∧
    (modPly s k f).spn = s.spn ∧ (modPly s k f).units = s.units ∧ (modPly s k f).rings = s.rings ∧
    (modPly s k f).descs = s.descs ∧ (modPly s k f).chans = s.chans ∧ (modPly s k f).rate = s.rate ∧
    (modPly s k f).passes = s.passes ∧ (modPly s k f).plist = s.plist ∧ (modPly s k f).qos = s.qos ∧
    (modPly s k f).stations = s.stations ∧ (modPly s k f).fabric = s.fabric ∧ (modPly s k f).img = s.img ∧
    (modPly s k f).ply = tabMod {} s.ply k f ∧ (modPly s k f).pair = s.pair ∧ (modPly s k f).doms = s.doms ∧
    (modPly s k f).power = s.power ∧ (modPly s k f).hsw = s.hsw ∧ (modPly s k f).mbx = s.mbx ∧
    (modPly s k f).banks = s.banks ∧ (modPly s k f).sec = s.sec ∧ (modPly s k f).mgmt = s.mgmt ∧
    (modPly s k f).pmu = s.pmu :=
  ⟨rfl, rfl, rfl, rfl, rfl, rfl, rfl, rfl, rfl, rfl, rfl, rfl, rfl, rfl, rfl, rfl, rfl, rfl, rfl, rfl, rfl, rfl, rfl, rfl,
  rfl, rfl, rfl, rfl, rfl, rfl, rfl, rfl, rfl, rfl, rfl, rfl, rfl, rfl, rfl, rfl, rfl, rfl, rfl, rfl, rfl, rfl, rfl,
  rfl, rfl, rfl, rfl, rfl, rfl, rfl, rfl, rfl, rfl, rfl, rfl, rfl, rfl, rfl⟩

@[simp] theorem modPly_reads (k : Nat) (f : Ply → Ply) (j : Nat) :
    portAt (modPly s k f) j = portAt s j ∧ linkAt (modPly s k f) j = linkAt s j ∧ fnAt (modPly s k f) j = fnAt s j ∧
    seatAt (modPly s k f) j = seatAt s j ∧ groupAt (modPly s k f) j = groupAt s j ∧
    winAt (modPly s k f) j = winAt s j ∧ blockAt (modPly s k f) j = blockAt s j ∧
    ingressAt (modPly s k f) j = ingressAt s j ∧ trkAt (modPly s k f) j = trkAt s j ∧
    useAt (modPly s k f) j = useAt s j ∧ creelAt (modPly s k f) j = creelAt s j ∧ actAt (modPly s k f) j = actAt s j ∧
    xingAt (modPly s k f) j = xingAt s j ∧ sliceAt (modPly s k f) j = sliceAt s j ∧
    hankRaw (modPly s k f) j = hankRaw s j ∧ pageAt (modPly s k f) j = pageAt s j ∧
    cached (modPly s k f) j = cached s j ∧ accAt (modPly s k f) j = accAt s j ∧
    lcacheAt (modPly s k f) j = lcacheAt s j ∧ usedAt (modPly s k f) j = usedAt s j ∧
    dramAt (modPly s k f) j = dramAt s j ∧ slotAt (modPly s k f) j = slotAt s j ∧ spnAt (modPly s k f) j = spnAt s j ∧
    ringAt (modPly s k f) j = ringAt s j ∧ descAt (modPly s k f) j = descAt s j ∧ chAt (modPly s k f) j = chAt s j ∧
    stAt (modPly s k f) j = stAt s j ∧ domAt (modPly s k f) j = domAt s j ∧ mbxAt (modPly s k f) j = mbxAt s j ∧
    bankAt (modPly s k f) j = bankAt s j ∧ regAt (modPly s k f) j = regAt s j ∧ cntAt (modPly s k f) j = cntAt s j :=
  ⟨rfl, rfl, rfl, rfl, rfl, rfl, rfl, rfl, rfl, rfl, rfl, rfl, rfl, rfl, rfl, rfl, rfl, rfl, rfl, rfl, rfl, rfl, rfl,
  rfl, rfl, rfl, rfl, rfl, rfl, rfl, rfl, rfl⟩

/-- `modDom` changes only `doms`. -/
@[simp] theorem modDom_fields (k : Nat) (f : Dom → Dom) :
    (modDom s k f).now = s.now ∧ (modDom s k f).pending = s.pending ∧ (modDom s k f).free = s.free ∧
    (modDom s k f).stamp = s.stamp ∧ (modDom s k f).out = s.out ∧ (modDom s k f).boot = s.boot ∧
    (modDom s k f).regs = s.regs ∧ (modDom s k f).cnts = s.cnts ∧ (modDom s k f).latches = s.latches ∧
    (modDom s k f).marks = s.marks ∧ (modDom s k f).log = s.log ∧ (modDom s k f).ports = s.ports ∧
    (modDom s k f).links = s.links ∧ (modDom s k f).fns = s.fns ∧ (modDom s k f).seats = s.seats ∧
    (modDom s k f).groups = s.groups ∧ (modDom s k f).wins = s.wins ∧ (modDom s k f).blocks = s.blocks ∧
    (modDom s k f).nextExt = s.nextExt ∧ (modDom s k f).ledger = s.ledger ∧ (modDom s k f).ingress = s.ingress ∧
    (modDom s k f).trk = s.trk ∧ (modDom s k f).use = s.use ∧ (modDom s k f).creel = s.creel ∧
    (modDom s k f).acts = s.acts ∧ (modDom s k f).xing = s.xing ∧ (modDom s k f).slices = s.slices ∧
    (modDom s k f).serialRr = s.serialRr ∧
    (modDom s k f).serialIn = s.serialIn ∧ (modDom s k f).hanks = s.hanks ∧ (modDom s k f).pages = s.pages ∧
    (modDom s k f).skein = s.skein ∧ (modDom s k f).acc = s.acc ∧ (modDom s k f).lost = s.lost ∧
    (modDom s k f).lcache = s.lcache ∧ (modDom s k f).carder = s.carder ∧ (modDom s k f).used = s.used ∧
    (modDom s k f).dram = s.dram ∧ (modDom s k f).slots = s.slots ∧ (modDom s k f).keys = s.keys ∧
    (modDom s k f).spn = s.spn ∧ (modDom s k f).units = s.units ∧ (modDom s k f).rings = s.rings ∧
    (modDom s k f).descs = s.descs ∧ (modDom s k f).chans = s.chans ∧ (modDom s k f).rate = s.rate ∧
    (modDom s k f).passes = s.passes ∧ (modDom s k f).plist = s.plist ∧ (modDom s k f).qos = s.qos ∧
    (modDom s k f).stations = s.stations ∧ (modDom s k f).fabric = s.fabric ∧ (modDom s k f).img = s.img ∧
    (modDom s k f).ply = s.ply ∧ (modDom s k f).pair = s.pair ∧ (modDom s k f).doms = tabMod {} s.doms k f ∧
    (modDom s k f).power = s.power ∧ (modDom s k f).hsw = s.hsw ∧ (modDom s k f).mbx = s.mbx ∧
    (modDom s k f).banks = s.banks ∧ (modDom s k f).sec = s.sec ∧ (modDom s k f).mgmt = s.mgmt ∧
    (modDom s k f).pmu = s.pmu :=
  ⟨rfl, rfl, rfl, rfl, rfl, rfl, rfl, rfl, rfl, rfl, rfl, rfl, rfl, rfl, rfl, rfl, rfl, rfl, rfl, rfl, rfl, rfl, rfl, rfl,
  rfl, rfl, rfl, rfl, rfl, rfl, rfl, rfl, rfl, rfl, rfl, rfl, rfl, rfl, rfl, rfl, rfl, rfl, rfl, rfl, rfl, rfl, rfl,
  rfl, rfl, rfl, rfl, rfl, rfl, rfl, rfl, rfl, rfl, rfl, rfl, rfl, rfl, rfl⟩

@[simp] theorem domAt_modDom (k j : Nat) (f : Dom → Dom) :
    domAt (modDom s k f) j = if j = k then f (domAt s j) else domAt s j := tabGet_mod ({} : Dom) s.doms k j f

@[simp] theorem modDom_reads (k : Nat) (f : Dom → Dom) (j : Nat) :
    portAt (modDom s k f) j = portAt s j ∧ linkAt (modDom s k f) j = linkAt s j ∧ fnAt (modDom s k f) j = fnAt s j ∧
    seatAt (modDom s k f) j = seatAt s j ∧ groupAt (modDom s k f) j = groupAt s j ∧
    winAt (modDom s k f) j = winAt s j ∧ blockAt (modDom s k f) j = blockAt s j ∧
    ingressAt (modDom s k f) j = ingressAt s j ∧ trkAt (modDom s k f) j = trkAt s j ∧
    useAt (modDom s k f) j = useAt s j ∧ creelAt (modDom s k f) j = creelAt s j ∧ actAt (modDom s k f) j = actAt s j ∧
    xingAt (modDom s k f) j = xingAt s j ∧ sliceAt (modDom s k f) j = sliceAt s j ∧
    hankRaw (modDom s k f) j = hankRaw s j ∧ pageAt (modDom s k f) j = pageAt s j ∧
    cached (modDom s k f) j = cached s j ∧ accAt (modDom s k f) j = accAt s j ∧
    lcacheAt (modDom s k f) j = lcacheAt s j ∧ usedAt (modDom s k f) j = usedAt s j ∧
    dramAt (modDom s k f) j = dramAt s j ∧ slotAt (modDom s k f) j = slotAt s j ∧ spnAt (modDom s k f) j = spnAt s j ∧
    ringAt (modDom s k f) j = ringAt s j ∧ descAt (modDom s k f) j = descAt s j ∧ chAt (modDom s k f) j = chAt s j ∧
    stAt (modDom s k f) j = stAt s j ∧ plyAt (modDom s k f) j = plyAt s j ∧ mbxAt (modDom s k f) j = mbxAt s j ∧
    bankAt (modDom s k f) j = bankAt s j ∧ regAt (modDom s k f) j = regAt s j ∧ cntAt (modDom s k f) j = cntAt s j :=
  ⟨rfl, rfl, rfl, rfl, rfl, rfl, rfl, rfl, rfl, rfl, rfl, rfl, rfl, rfl, rfl, rfl, rfl, rfl, rfl, rfl, rfl, rfl, rfl,
  rfl, rfl, rfl, rfl, rfl, rfl, rfl, rfl, rfl⟩

/-- `modMbx` changes only `mbx`. -/
@[simp] theorem modMbx_fields (k : Nat) (f : Mbx → Mbx) :
    (modMbx s k f).now = s.now ∧ (modMbx s k f).pending = s.pending ∧ (modMbx s k f).free = s.free ∧
    (modMbx s k f).stamp = s.stamp ∧ (modMbx s k f).out = s.out ∧ (modMbx s k f).boot = s.boot ∧
    (modMbx s k f).regs = s.regs ∧ (modMbx s k f).cnts = s.cnts ∧ (modMbx s k f).latches = s.latches ∧
    (modMbx s k f).marks = s.marks ∧ (modMbx s k f).log = s.log ∧ (modMbx s k f).ports = s.ports ∧
    (modMbx s k f).links = s.links ∧ (modMbx s k f).fns = s.fns ∧ (modMbx s k f).seats = s.seats ∧
    (modMbx s k f).groups = s.groups ∧ (modMbx s k f).wins = s.wins ∧ (modMbx s k f).blocks = s.blocks ∧
    (modMbx s k f).nextExt = s.nextExt ∧ (modMbx s k f).ledger = s.ledger ∧ (modMbx s k f).ingress = s.ingress ∧
    (modMbx s k f).trk = s.trk ∧ (modMbx s k f).use = s.use ∧ (modMbx s k f).creel = s.creel ∧
    (modMbx s k f).acts = s.acts ∧ (modMbx s k f).xing = s.xing ∧ (modMbx s k f).slices = s.slices ∧
    (modMbx s k f).serialRr = s.serialRr ∧
    (modMbx s k f).serialIn = s.serialIn ∧ (modMbx s k f).hanks = s.hanks ∧ (modMbx s k f).pages = s.pages ∧
    (modMbx s k f).skein = s.skein ∧ (modMbx s k f).acc = s.acc ∧ (modMbx s k f).lost = s.lost ∧
    (modMbx s k f).lcache = s.lcache ∧ (modMbx s k f).carder = s.carder ∧ (modMbx s k f).used = s.used ∧
    (modMbx s k f).dram = s.dram ∧ (modMbx s k f).slots = s.slots ∧ (modMbx s k f).keys = s.keys ∧
    (modMbx s k f).spn = s.spn ∧ (modMbx s k f).units = s.units ∧ (modMbx s k f).rings = s.rings ∧
    (modMbx s k f).descs = s.descs ∧ (modMbx s k f).chans = s.chans ∧ (modMbx s k f).rate = s.rate ∧
    (modMbx s k f).passes = s.passes ∧ (modMbx s k f).plist = s.plist ∧ (modMbx s k f).qos = s.qos ∧
    (modMbx s k f).stations = s.stations ∧ (modMbx s k f).fabric = s.fabric ∧ (modMbx s k f).img = s.img ∧
    (modMbx s k f).ply = s.ply ∧ (modMbx s k f).pair = s.pair ∧ (modMbx s k f).doms = s.doms ∧
    (modMbx s k f).power = s.power ∧ (modMbx s k f).hsw = s.hsw ∧ (modMbx s k f).mbx = tabMod {} s.mbx k f ∧
    (modMbx s k f).banks = s.banks ∧ (modMbx s k f).sec = s.sec ∧ (modMbx s k f).mgmt = s.mgmt ∧
    (modMbx s k f).pmu = s.pmu :=
  ⟨rfl, rfl, rfl, rfl, rfl, rfl, rfl, rfl, rfl, rfl, rfl, rfl, rfl, rfl, rfl, rfl, rfl, rfl, rfl, rfl, rfl, rfl, rfl, rfl,
  rfl, rfl, rfl, rfl, rfl, rfl, rfl, rfl, rfl, rfl, rfl, rfl, rfl, rfl, rfl, rfl, rfl, rfl, rfl, rfl, rfl, rfl, rfl,
  rfl, rfl, rfl, rfl, rfl, rfl, rfl, rfl, rfl, rfl, rfl, rfl, rfl, rfl, rfl⟩

@[simp] theorem mbxAt_modMbx (k j : Nat) (f : Mbx → Mbx) :
    mbxAt (modMbx s k f) j = if j = k then f (mbxAt s j) else mbxAt s j := tabGet_mod ({} : Mbx) s.mbx k j f

@[simp] theorem modMbx_reads (k : Nat) (f : Mbx → Mbx) (j : Nat) :
    portAt (modMbx s k f) j = portAt s j ∧ linkAt (modMbx s k f) j = linkAt s j ∧ fnAt (modMbx s k f) j = fnAt s j ∧
    seatAt (modMbx s k f) j = seatAt s j ∧ groupAt (modMbx s k f) j = groupAt s j ∧
    winAt (modMbx s k f) j = winAt s j ∧ blockAt (modMbx s k f) j = blockAt s j ∧
    ingressAt (modMbx s k f) j = ingressAt s j ∧ trkAt (modMbx s k f) j = trkAt s j ∧
    useAt (modMbx s k f) j = useAt s j ∧ creelAt (modMbx s k f) j = creelAt s j ∧ actAt (modMbx s k f) j = actAt s j ∧
    xingAt (modMbx s k f) j = xingAt s j ∧ sliceAt (modMbx s k f) j = sliceAt s j ∧
    hankRaw (modMbx s k f) j = hankRaw s j ∧ pageAt (modMbx s k f) j = pageAt s j ∧
    cached (modMbx s k f) j = cached s j ∧ accAt (modMbx s k f) j = accAt s j ∧
    lcacheAt (modMbx s k f) j = lcacheAt s j ∧ usedAt (modMbx s k f) j = usedAt s j ∧
    dramAt (modMbx s k f) j = dramAt s j ∧ slotAt (modMbx s k f) j = slotAt s j ∧ spnAt (modMbx s k f) j = spnAt s j ∧
    ringAt (modMbx s k f) j = ringAt s j ∧ descAt (modMbx s k f) j = descAt s j ∧ chAt (modMbx s k f) j = chAt s j ∧
    stAt (modMbx s k f) j = stAt s j ∧ plyAt (modMbx s k f) j = plyAt s j ∧ domAt (modMbx s k f) j = domAt s j ∧
    bankAt (modMbx s k f) j = bankAt s j ∧ regAt (modMbx s k f) j = regAt s j ∧ cntAt (modMbx s k f) j = cntAt s j :=
  ⟨rfl, rfl, rfl, rfl, rfl, rfl, rfl, rfl, rfl, rfl, rfl, rfl, rfl, rfl, rfl, rfl, rfl, rfl, rfl, rfl, rfl, rfl, rfl,
  rfl, rfl, rfl, rfl, rfl, rfl, rfl, rfl, rfl⟩

/-- `modBank` changes only `banks`. -/
@[simp] theorem modBank_fields (k : Nat) (f : Bank → Bank) :
    (modBank s k f).now = s.now ∧ (modBank s k f).pending = s.pending ∧ (modBank s k f).free = s.free ∧
    (modBank s k f).stamp = s.stamp ∧ (modBank s k f).out = s.out ∧ (modBank s k f).boot = s.boot ∧
    (modBank s k f).regs = s.regs ∧ (modBank s k f).cnts = s.cnts ∧ (modBank s k f).latches = s.latches ∧
    (modBank s k f).marks = s.marks ∧ (modBank s k f).log = s.log ∧ (modBank s k f).ports = s.ports ∧
    (modBank s k f).links = s.links ∧ (modBank s k f).fns = s.fns ∧ (modBank s k f).seats = s.seats ∧
    (modBank s k f).groups = s.groups ∧ (modBank s k f).wins = s.wins ∧ (modBank s k f).blocks = s.blocks ∧
    (modBank s k f).nextExt = s.nextExt ∧ (modBank s k f).ledger = s.ledger ∧ (modBank s k f).ingress = s.ingress ∧
    (modBank s k f).trk = s.trk ∧ (modBank s k f).use = s.use ∧ (modBank s k f).creel = s.creel ∧
    (modBank s k f).acts = s.acts ∧ (modBank s k f).xing = s.xing ∧ (modBank s k f).slices = s.slices ∧
    (modBank s k f).serialRr = s.serialRr ∧
    (modBank s k f).serialIn = s.serialIn ∧ (modBank s k f).hanks = s.hanks ∧ (modBank s k f).pages = s.pages ∧
    (modBank s k f).skein = s.skein ∧ (modBank s k f).acc = s.acc ∧ (modBank s k f).lost = s.lost ∧
    (modBank s k f).lcache = s.lcache ∧ (modBank s k f).carder = s.carder ∧ (modBank s k f).used = s.used ∧
    (modBank s k f).dram = s.dram ∧ (modBank s k f).slots = s.slots ∧ (modBank s k f).keys = s.keys ∧
    (modBank s k f).spn = s.spn ∧ (modBank s k f).units = s.units ∧ (modBank s k f).rings = s.rings ∧
    (modBank s k f).descs = s.descs ∧ (modBank s k f).chans = s.chans ∧ (modBank s k f).rate = s.rate ∧
    (modBank s k f).passes = s.passes ∧ (modBank s k f).plist = s.plist ∧ (modBank s k f).qos = s.qos ∧
    (modBank s k f).stations = s.stations ∧ (modBank s k f).fabric = s.fabric ∧ (modBank s k f).img = s.img ∧
    (modBank s k f).ply = s.ply ∧ (modBank s k f).pair = s.pair ∧ (modBank s k f).doms = s.doms ∧
    (modBank s k f).power = s.power ∧ (modBank s k f).hsw = s.hsw ∧ (modBank s k f).mbx = s.mbx ∧
    (modBank s k f).banks = tabMod {} s.banks k f ∧ (modBank s k f).sec = s.sec ∧ (modBank s k f).mgmt = s.mgmt ∧
    (modBank s k f).pmu = s.pmu :=
  ⟨rfl, rfl, rfl, rfl, rfl, rfl, rfl, rfl, rfl, rfl, rfl, rfl, rfl, rfl, rfl, rfl, rfl, rfl, rfl, rfl, rfl, rfl, rfl, rfl,
  rfl, rfl, rfl, rfl, rfl, rfl, rfl, rfl, rfl, rfl, rfl, rfl, rfl, rfl, rfl, rfl, rfl, rfl, rfl, rfl, rfl, rfl, rfl,
  rfl, rfl, rfl, rfl, rfl, rfl, rfl, rfl, rfl, rfl, rfl, rfl, rfl, rfl, rfl⟩

@[simp] theorem bankAt_modBank (k j : Nat) (f : Bank → Bank) :
    bankAt (modBank s k f) j = if j = k then f (bankAt s j) else bankAt s j := tabGet_mod ({} : Bank) s.banks k j f

@[simp] theorem modBank_reads (k : Nat) (f : Bank → Bank) (j : Nat) :
    portAt (modBank s k f) j = portAt s j ∧ linkAt (modBank s k f) j = linkAt s j ∧
    fnAt (modBank s k f) j = fnAt s j ∧ seatAt (modBank s k f) j = seatAt s j ∧
    groupAt (modBank s k f) j = groupAt s j ∧ winAt (modBank s k f) j = winAt s j ∧
    blockAt (modBank s k f) j = blockAt s j ∧ ingressAt (modBank s k f) j = ingressAt s j ∧
    trkAt (modBank s k f) j = trkAt s j ∧ useAt (modBank s k f) j = useAt s j ∧
    creelAt (modBank s k f) j = creelAt s j ∧ actAt (modBank s k f) j = actAt s j ∧
    xingAt (modBank s k f) j = xingAt s j ∧ sliceAt (modBank s k f) j = sliceAt s j ∧
    hankRaw (modBank s k f) j = hankRaw s j ∧ pageAt (modBank s k f) j = pageAt s j ∧
    cached (modBank s k f) j = cached s j ∧ accAt (modBank s k f) j = accAt s j ∧
    lcacheAt (modBank s k f) j = lcacheAt s j ∧ usedAt (modBank s k f) j = usedAt s j ∧
    dramAt (modBank s k f) j = dramAt s j ∧ slotAt (modBank s k f) j = slotAt s j ∧
    spnAt (modBank s k f) j = spnAt s j ∧ ringAt (modBank s k f) j = ringAt s j ∧
    descAt (modBank s k f) j = descAt s j ∧ chAt (modBank s k f) j = chAt s j ∧ stAt (modBank s k f) j = stAt s j ∧
    plyAt (modBank s k f) j = plyAt s j ∧ domAt (modBank s k f) j = domAt s j ∧ mbxAt (modBank s k f) j = mbxAt s j ∧
    regAt (modBank s k f) j = regAt s j ∧ cntAt (modBank s k f) j = cntAt s j :=
  ⟨rfl, rfl, rfl, rfl, rfl, rfl, rfl, rfl, rfl, rfl, rfl, rfl, rfl, rfl, rfl, rfl, rfl, rfl, rfl, rfl, rfl, rfl, rfl,
  rfl, rfl, rfl, rfl, rfl, rfl, rfl, rfl, rfl⟩

/-- `setReg` changes only `regs`. -/
@[simp] theorem setReg_fields (k : Nat) (v : Word) :
    (setReg s k v).now = s.now ∧ (setReg s k v).pending = s.pending ∧ (setReg s k v).free = s.free ∧
    (setReg s k v).stamp = s.stamp ∧ (setReg s k v).out = s.out ∧ (setReg s k v).boot = s.boot ∧
    (setReg s k v).regs = tabSet (regReset k) s.regs k v ∧ (setReg s k v).cnts = s.cnts ∧
    (setReg s k v).latches = s.latches ∧ (setReg s k v).marks = s.marks ∧ (setReg s k v).log = s.log ∧
    (setReg s k v).ports = s.ports ∧ (setReg s k v).links = s.links ∧ (setReg s k v).fns = s.fns ∧
    (setReg s k v).seats = s.seats ∧ (setReg s k v).groups = s.groups ∧ (setReg s k v).wins = s.wins ∧
    (setReg s k v).blocks = s.blocks ∧ (setReg s k v).nextExt = s.nextExt ∧ (setReg s k v).ledger = s.ledger ∧
    (setReg s k v).ingress = s.ingress ∧ (setReg s k v).trk = s.trk ∧ (setReg s k v).use = s.use ∧
    (setReg s k v).creel = s.creel ∧ (setReg s k v).acts = s.acts ∧ (setReg s k v).xing = s.xing ∧
    (setReg s k v).slices = s.slices ∧ (setReg s k v).serialRr = s.serialRr ∧
    (setReg s k v).serialIn = s.serialIn ∧ (setReg s k v).hanks = s.hanks ∧
    (setReg s k v).pages = s.pages ∧ (setReg s k v).skein = s.skein ∧ (setReg s k v).acc = s.acc ∧
    (setReg s k v).lost = s.lost ∧ (setReg s k v).lcache = s.lcache ∧ (setReg s k v).carder = s.carder ∧
    (setReg s k v).used = s.used ∧ (setReg s k v).dram = s.dram ∧ (setReg s k v).slots = s.slots ∧
    (setReg s k v).keys = s.keys ∧ (setReg s k v).spn = s.spn ∧ (setReg s k v).units = s.units ∧
    (setReg s k v).rings = s.rings ∧ (setReg s k v).descs = s.descs ∧ (setReg s k v).chans = s.chans ∧
    (setReg s k v).rate = s.rate ∧ (setReg s k v).passes = s.passes ∧ (setReg s k v).plist = s.plist ∧
    (setReg s k v).qos = s.qos ∧ (setReg s k v).stations = s.stations ∧ (setReg s k v).fabric = s.fabric ∧
    (setReg s k v).img = s.img ∧ (setReg s k v).ply = s.ply ∧ (setReg s k v).pair = s.pair ∧
    (setReg s k v).doms = s.doms ∧ (setReg s k v).power = s.power ∧ (setReg s k v).hsw = s.hsw ∧
    (setReg s k v).mbx = s.mbx ∧ (setReg s k v).banks = s.banks ∧ (setReg s k v).sec = s.sec ∧
    (setReg s k v).mgmt = s.mgmt ∧ (setReg s k v).pmu = s.pmu :=
  ⟨rfl, rfl, rfl, rfl, rfl, rfl, rfl, rfl, rfl, rfl, rfl, rfl, rfl, rfl, rfl, rfl, rfl, rfl, rfl, rfl, rfl, rfl, rfl, rfl,
  rfl, rfl, rfl, rfl, rfl, rfl, rfl, rfl, rfl, rfl, rfl, rfl, rfl, rfl, rfl, rfl, rfl, rfl, rfl, rfl, rfl, rfl, rfl,
  rfl, rfl, rfl, rfl, rfl, rfl, rfl, rfl, rfl, rfl, rfl, rfl, rfl, rfl, rfl⟩

@[simp] theorem setReg_reads (k : Nat) (v : Word) (j : Nat) :
    portAt (setReg s k v) j = portAt s j ∧ linkAt (setReg s k v) j = linkAt s j ∧ fnAt (setReg s k v) j = fnAt s j ∧
    seatAt (setReg s k v) j = seatAt s j ∧ groupAt (setReg s k v) j = groupAt s j ∧
    winAt (setReg s k v) j = winAt s j ∧ blockAt (setReg s k v) j = blockAt s j ∧
    ingressAt (setReg s k v) j = ingressAt s j ∧ trkAt (setReg s k v) j = trkAt s j ∧
    useAt (setReg s k v) j = useAt s j ∧ creelAt (setReg s k v) j = creelAt s j ∧ actAt (setReg s k v) j = actAt s j ∧
    xingAt (setReg s k v) j = xingAt s j ∧ sliceAt (setReg s k v) j = sliceAt s j ∧
    hankRaw (setReg s k v) j = hankRaw s j ∧ pageAt (setReg s k v) j = pageAt s j ∧
    cached (setReg s k v) j = cached s j ∧ accAt (setReg s k v) j = accAt s j ∧
    lcacheAt (setReg s k v) j = lcacheAt s j ∧ usedAt (setReg s k v) j = usedAt s j ∧
    dramAt (setReg s k v) j = dramAt s j ∧ slotAt (setReg s k v) j = slotAt s j ∧ spnAt (setReg s k v) j = spnAt s j ∧
    ringAt (setReg s k v) j = ringAt s j ∧ descAt (setReg s k v) j = descAt s j ∧ chAt (setReg s k v) j = chAt s j ∧
    stAt (setReg s k v) j = stAt s j ∧ plyAt (setReg s k v) j = plyAt s j ∧ domAt (setReg s k v) j = domAt s j ∧
    mbxAt (setReg s k v) j = mbxAt s j ∧ bankAt (setReg s k v) j = bankAt s j ∧ cntAt (setReg s k v) j = cntAt s j :=
  ⟨rfl, rfl, rfl, rfl, rfl, rfl, rfl, rfl, rfl, rfl, rfl, rfl, rfl, rfl, rfl, rfl, rfl, rfl, rfl, rfl, rfl, rfl, rfl,
  rfl, rfl, rfl, rfl, rfl, rfl, rfl, rfl, rfl⟩

/-- `nextFree` changes only `free`. -/
@[simp] theorem nextFree_fields :
    (nextFree s).now = s.now ∧ (nextFree s).pending = s.pending ∧ (nextFree s).free = s.free + 1 ∧
    (nextFree s).stamp = s.stamp ∧ (nextFree s).out = s.out ∧ (nextFree s).boot = s.boot ∧
    (nextFree s).regs = s.regs ∧ (nextFree s).cnts = s.cnts ∧ (nextFree s).latches = s.latches ∧
    (nextFree s).marks = s.marks ∧ (nextFree s).log = s.log ∧ (nextFree s).ports = s.ports ∧
    (nextFree s).links = s.links ∧ (nextFree s).fns = s.fns ∧ (nextFree s).seats = s.seats ∧
    (nextFree s).groups = s.groups ∧ (nextFree s).wins = s.wins ∧ (nextFree s).blocks = s.blocks ∧
    (nextFree s).nextExt = s.nextExt ∧ (nextFree s).ledger = s.ledger ∧ (nextFree s).ingress = s.ingress ∧
    (nextFree s).trk = s.trk ∧ (nextFree s).use = s.use ∧ (nextFree s).creel = s.creel ∧ (nextFree s).acts = s.acts ∧
    (nextFree s).xing = s.xing ∧ (nextFree s).slices = s.slices ∧ (nextFree s).serialRr = s.serialRr ∧
    (nextFree s).serialIn = s.serialIn ∧
    (nextFree s).hanks = s.hanks ∧ (nextFree s).pages = s.pages ∧ (nextFree s).skein = s.skein ∧
    (nextFree s).acc = s.acc ∧ (nextFree s).lost = s.lost ∧ (nextFree s).lcache = s.lcache ∧
    (nextFree s).carder = s.carder ∧ (nextFree s).used = s.used ∧ (nextFree s).dram = s.dram ∧
    (nextFree s).slots = s.slots ∧ (nextFree s).keys = s.keys ∧ (nextFree s).spn = s.spn ∧
    (nextFree s).units = s.units ∧ (nextFree s).rings = s.rings ∧ (nextFree s).descs = s.descs ∧
    (nextFree s).chans = s.chans ∧ (nextFree s).rate = s.rate ∧ (nextFree s).passes = s.passes ∧
    (nextFree s).plist = s.plist ∧ (nextFree s).qos = s.qos ∧ (nextFree s).stations = s.stations ∧
    (nextFree s).fabric = s.fabric ∧ (nextFree s).img = s.img ∧ (nextFree s).ply = s.ply ∧
    (nextFree s).pair = s.pair ∧ (nextFree s).doms = s.doms ∧ (nextFree s).power = s.power ∧
    (nextFree s).hsw = s.hsw ∧ (nextFree s).mbx = s.mbx ∧ (nextFree s).banks = s.banks ∧ (nextFree s).sec = s.sec ∧
    (nextFree s).mgmt = s.mgmt ∧ (nextFree s).pmu = s.pmu :=
  ⟨rfl, rfl, rfl, rfl, rfl, rfl, rfl, rfl, rfl, rfl, rfl, rfl, rfl, rfl, rfl, rfl, rfl, rfl, rfl, rfl, rfl, rfl, rfl, rfl,
  rfl, rfl, rfl, rfl, rfl, rfl, rfl, rfl, rfl, rfl, rfl, rfl, rfl, rfl, rfl, rfl, rfl, rfl, rfl, rfl, rfl, rfl, rfl,
  rfl, rfl, rfl, rfl, rfl, rfl, rfl, rfl, rfl, rfl, rfl, rfl, rfl, rfl, rfl⟩

@[simp] theorem nextFree_reads  (j : Nat) :
    portAt (nextFree s) j = portAt s j ∧ linkAt (nextFree s) j = linkAt s j ∧ fnAt (nextFree s) j = fnAt s j ∧
    seatAt (nextFree s) j = seatAt s j ∧ groupAt (nextFree s) j = groupAt s j ∧ winAt (nextFree s) j = winAt s j ∧
    blockAt (nextFree s) j = blockAt s j ∧ ingressAt (nextFree s) j = ingressAt s j ∧
    trkAt (nextFree s) j = trkAt s j ∧ useAt (nextFree s) j = useAt s j ∧ creelAt (nextFree s) j = creelAt s j ∧
    actAt (nextFree s) j = actAt s j ∧ xingAt (nextFree s) j = xingAt s j ∧ sliceAt (nextFree s) j = sliceAt s j ∧
    hankRaw (nextFree s) j = hankRaw s j ∧ pageAt (nextFree s) j = pageAt s j ∧ cached (nextFree s) j = cached s j ∧
    accAt (nextFree s) j = accAt s j ∧ lcacheAt (nextFree s) j = lcacheAt s j ∧ usedAt (nextFree s) j = usedAt s j ∧
    dramAt (nextFree s) j = dramAt s j ∧ slotAt (nextFree s) j = slotAt s j ∧ spnAt (nextFree s) j = spnAt s j ∧
    ringAt (nextFree s) j = ringAt s j ∧ descAt (nextFree s) j = descAt s j ∧ chAt (nextFree s) j = chAt s j ∧
    stAt (nextFree s) j = stAt s j ∧ plyAt (nextFree s) j = plyAt s j ∧ domAt (nextFree s) j = domAt s j ∧
    mbxAt (nextFree s) j = mbxAt s j ∧ bankAt (nextFree s) j = bankAt s j ∧ regAt (nextFree s) j = regAt s j ∧
    cntAt (nextFree s) j = cntAt s j :=
  ⟨rfl, rfl, rfl, rfl, rfl, rfl, rfl, rfl, rfl, rfl, rfl, rfl, rfl, rfl, rfl, rfl, rfl, rfl, rfl, rfl, rfl, rfl, rfl,
  rfl, rfl, rfl, rfl, rfl, rfl, rfl, rfl, rfl, rfl⟩

/-- `stampNext` changes only `stamp`. -/
@[simp] theorem stampNext_fields :
    (stampNext s).now = s.now ∧ (stampNext s).pending = s.pending ∧ (stampNext s).free = s.free ∧
    (stampNext s).stamp = s.stamp + 1 ∧ (stampNext s).out = s.out ∧ (stampNext s).boot = s.boot ∧
    (stampNext s).regs = s.regs ∧ (stampNext s).cnts = s.cnts ∧ (stampNext s).latches = s.latches ∧
    (stampNext s).marks = s.marks ∧ (stampNext s).log = s.log ∧ (stampNext s).ports = s.ports ∧
    (stampNext s).links = s.links ∧ (stampNext s).fns = s.fns ∧ (stampNext s).seats = s.seats ∧
    (stampNext s).groups = s.groups ∧ (stampNext s).wins = s.wins ∧ (stampNext s).blocks = s.blocks ∧
    (stampNext s).nextExt = s.nextExt ∧ (stampNext s).ledger = s.ledger ∧ (stampNext s).ingress = s.ingress ∧
    (stampNext s).trk = s.trk ∧ (stampNext s).use = s.use ∧ (stampNext s).creel = s.creel ∧
    (stampNext s).acts = s.acts ∧ (stampNext s).xing = s.xing ∧ (stampNext s).slices = s.slices ∧
    (stampNext s).serialRr = s.serialRr ∧
    (stampNext s).serialIn = s.serialIn ∧ (stampNext s).hanks = s.hanks ∧ (stampNext s).pages = s.pages ∧
    (stampNext s).skein = s.skein ∧ (stampNext s).acc = s.acc ∧ (stampNext s).lost = s.lost ∧
    (stampNext s).lcache = s.lcache ∧ (stampNext s).carder = s.carder ∧ (stampNext s).used = s.used ∧
    (stampNext s).dram = s.dram ∧ (stampNext s).slots = s.slots ∧ (stampNext s).keys = s.keys ∧
    (stampNext s).spn = s.spn ∧ (stampNext s).units = s.units ∧ (stampNext s).rings = s.rings ∧
    (stampNext s).descs = s.descs ∧ (stampNext s).chans = s.chans ∧ (stampNext s).rate = s.rate ∧
    (stampNext s).passes = s.passes ∧ (stampNext s).plist = s.plist ∧ (stampNext s).qos = s.qos ∧
    (stampNext s).stations = s.stations ∧ (stampNext s).fabric = s.fabric ∧ (stampNext s).img = s.img ∧
    (stampNext s).ply = s.ply ∧ (stampNext s).pair = s.pair ∧ (stampNext s).doms = s.doms ∧
    (stampNext s).power = s.power ∧ (stampNext s).hsw = s.hsw ∧ (stampNext s).mbx = s.mbx ∧
    (stampNext s).banks = s.banks ∧ (stampNext s).sec = s.sec ∧ (stampNext s).mgmt = s.mgmt ∧
    (stampNext s).pmu = s.pmu :=
  ⟨rfl, rfl, rfl, rfl, rfl, rfl, rfl, rfl, rfl, rfl, rfl, rfl, rfl, rfl, rfl, rfl, rfl, rfl, rfl, rfl, rfl, rfl, rfl, rfl,
  rfl, rfl, rfl, rfl, rfl, rfl, rfl, rfl, rfl, rfl, rfl, rfl, rfl, rfl, rfl, rfl, rfl, rfl, rfl, rfl, rfl, rfl, rfl,
  rfl, rfl, rfl, rfl, rfl, rfl, rfl, rfl, rfl, rfl, rfl, rfl, rfl, rfl, rfl⟩

@[simp] theorem stampNext_reads  (j : Nat) :
    portAt (stampNext s) j = portAt s j ∧ linkAt (stampNext s) j = linkAt s j ∧ fnAt (stampNext s) j = fnAt s j ∧
    seatAt (stampNext s) j = seatAt s j ∧ groupAt (stampNext s) j = groupAt s j ∧ winAt (stampNext s) j = winAt s j ∧
    blockAt (stampNext s) j = blockAt s j ∧ ingressAt (stampNext s) j = ingressAt s j ∧
    trkAt (stampNext s) j = trkAt s j ∧ useAt (stampNext s) j = useAt s j ∧ creelAt (stampNext s) j = creelAt s j ∧
    actAt (stampNext s) j = actAt s j ∧ xingAt (stampNext s) j = xingAt s j ∧ sliceAt (stampNext s) j = sliceAt s j ∧
    hankRaw (stampNext s) j = hankRaw s j ∧ pageAt (stampNext s) j = pageAt s j ∧
    cached (stampNext s) j = cached s j ∧ accAt (stampNext s) j = accAt s j ∧
    lcacheAt (stampNext s) j = lcacheAt s j ∧ usedAt (stampNext s) j = usedAt s j ∧
    dramAt (stampNext s) j = dramAt s j ∧ slotAt (stampNext s) j = slotAt s j ∧ spnAt (stampNext s) j = spnAt s j ∧
    ringAt (stampNext s) j = ringAt s j ∧ descAt (stampNext s) j = descAt s j ∧ chAt (stampNext s) j = chAt s j ∧
    stAt (stampNext s) j = stAt s j ∧ plyAt (stampNext s) j = plyAt s j ∧ domAt (stampNext s) j = domAt s j ∧
    mbxAt (stampNext s) j = mbxAt s j ∧ bankAt (stampNext s) j = bankAt s j ∧ regAt (stampNext s) j = regAt s j ∧
    cntAt (stampNext s) j = cntAt s j :=
  ⟨rfl, rfl, rfl, rfl, rfl, rfl, rfl, rfl, rfl, rfl, rfl, rfl, rfl, rfl, rfl, rfl, rfl, rfl, rfl, rfl, rfl, rfl, rfl,
  rfl, rfl, rfl, rfl, rfl, rfl, rfl, rfl, rfl, rfl⟩

/-- `emit` changes only `out`. -/
@[simp] theorem emit_fields (o : Out) :
    (emit s o).now = s.now ∧ (emit s o).pending = s.pending ∧ (emit s o).free = s.free ∧ (emit s o).stamp = s.stamp ∧
    (emit s o).out = s.out ++ [o] ∧ (emit s o).boot = s.boot ∧ (emit s o).regs = s.regs ∧ (emit s o).cnts = s.cnts ∧
    (emit s o).latches = s.latches ∧ (emit s o).marks = s.marks ∧ (emit s o).log = s.log ∧
    (emit s o).ports = s.ports ∧ (emit s o).links = s.links ∧ (emit s o).fns = s.fns ∧ (emit s o).seats = s.seats ∧
    (emit s o).groups = s.groups ∧ (emit s o).wins = s.wins ∧ (emit s o).blocks = s.blocks ∧
    (emit s o).nextExt = s.nextExt ∧ (emit s o).ledger = s.ledger ∧ (emit s o).ingress = s.ingress ∧
    (emit s o).trk = s.trk ∧ (emit s o).use = s.use ∧ (emit s o).creel = s.creel ∧ (emit s o).acts = s.acts ∧
    (emit s o).xing = s.xing ∧ (emit s o).slices = s.slices ∧ (emit s o).serialRr = s.serialRr ∧
    (emit s o).serialIn = s.serialIn ∧
    (emit s o).hanks = s.hanks ∧ (emit s o).pages = s.pages ∧ (emit s o).skein = s.skein ∧ (emit s o).acc = s.acc ∧
    (emit s o).lost = s.lost ∧ (emit s o).lcache = s.lcache ∧ (emit s o).carder = s.carder ∧
    (emit s o).used = s.used ∧ (emit s o).dram = s.dram ∧ (emit s o).slots = s.slots ∧ (emit s o).keys = s.keys ∧
    (emit s o).spn = s.spn ∧ (emit s o).units = s.units ∧ (emit s o).rings = s.rings ∧ (emit s o).descs = s.descs ∧
    (emit s o).chans = s.chans ∧ (emit s o).rate = s.rate ∧ (emit s o).passes = s.passes ∧
    (emit s o).plist = s.plist ∧ (emit s o).qos = s.qos ∧ (emit s o).stations = s.stations ∧
    (emit s o).fabric = s.fabric ∧ (emit s o).img = s.img ∧ (emit s o).ply = s.ply ∧ (emit s o).pair = s.pair ∧
    (emit s o).doms = s.doms ∧ (emit s o).power = s.power ∧ (emit s o).hsw = s.hsw ∧ (emit s o).mbx = s.mbx ∧
    (emit s o).banks = s.banks ∧ (emit s o).sec = s.sec ∧ (emit s o).mgmt = s.mgmt ∧ (emit s o).pmu = s.pmu :=
  ⟨rfl, rfl, rfl, rfl, rfl, rfl, rfl, rfl, rfl, rfl, rfl, rfl, rfl, rfl, rfl, rfl, rfl, rfl, rfl, rfl, rfl, rfl, rfl, rfl,
  rfl, rfl, rfl, rfl, rfl, rfl, rfl, rfl, rfl, rfl, rfl, rfl, rfl, rfl, rfl, rfl, rfl, rfl, rfl, rfl, rfl, rfl, rfl,
  rfl, rfl, rfl, rfl, rfl, rfl, rfl, rfl, rfl, rfl, rfl, rfl, rfl, rfl, rfl⟩

@[simp] theorem emit_reads (o : Out) (j : Nat) :
    portAt (emit s o) j = portAt s j ∧ linkAt (emit s o) j = linkAt s j ∧ fnAt (emit s o) j = fnAt s j ∧
    seatAt (emit s o) j = seatAt s j ∧ groupAt (emit s o) j = groupAt s j ∧ winAt (emit s o) j = winAt s j ∧
    blockAt (emit s o) j = blockAt s j ∧ ingressAt (emit s o) j = ingressAt s j ∧ trkAt (emit s o) j = trkAt s j ∧
    useAt (emit s o) j = useAt s j ∧ creelAt (emit s o) j = creelAt s j ∧ actAt (emit s o) j = actAt s j ∧
    xingAt (emit s o) j = xingAt s j ∧ sliceAt (emit s o) j = sliceAt s j ∧ hankRaw (emit s o) j = hankRaw s j ∧
    pageAt (emit s o) j = pageAt s j ∧ cached (emit s o) j = cached s j ∧ accAt (emit s o) j = accAt s j ∧
    lcacheAt (emit s o) j = lcacheAt s j ∧ usedAt (emit s o) j = usedAt s j ∧ dramAt (emit s o) j = dramAt s j ∧
    slotAt (emit s o) j = slotAt s j ∧ spnAt (emit s o) j = spnAt s j ∧ ringAt (emit s o) j = ringAt s j ∧
    descAt (emit s o) j = descAt s j ∧ chAt (emit s o) j = chAt s j ∧ stAt (emit s o) j = stAt s j ∧
    plyAt (emit s o) j = plyAt s j ∧ domAt (emit s o) j = domAt s j ∧ mbxAt (emit s o) j = mbxAt s j ∧
    bankAt (emit s o) j = bankAt s j ∧ regAt (emit s o) j = regAt s j ∧ cntAt (emit s o) j = cntAt s j :=
  ⟨rfl, rfl, rfl, rfl, rfl, rfl, rfl, rfl, rfl, rfl, rfl, rfl, rfl, rfl, rfl, rfl, rfl, rfl, rfl, rfl, rfl, rfl, rfl,
  rfl, rfl, rfl, rfl, rfl, rfl, rfl, rfl, rfl, rfl⟩

/-- `bumpBy` changes only `cnts`. -/
@[simp] theorem bumpBy_fields (k n : Nat) :
    (bumpBy s k n).now = s.now ∧ (bumpBy s k n).pending = s.pending ∧ (bumpBy s k n).free = s.free ∧
    (bumpBy s k n).stamp = s.stamp ∧ (bumpBy s k n).out = s.out ∧ (bumpBy s k n).boot = s.boot ∧
    (bumpBy s k n).regs = s.regs ∧ (bumpBy s k n).cnts = tabSet 0 s.cnts k (min cntMax (cntAt s k + n)) ∧
    (bumpBy s k n).latches = s.latches ∧ (bumpBy s k n).marks = s.marks ∧ (bumpBy s k n).log = s.log ∧
    (bumpBy s k n).ports = s.ports ∧ (bumpBy s k n).links = s.links ∧ (bumpBy s k n).fns = s.fns ∧
    (bumpBy s k n).seats = s.seats ∧ (bumpBy s k n).groups = s.groups ∧ (bumpBy s k n).wins = s.wins ∧
    (bumpBy s k n).blocks = s.blocks ∧ (bumpBy s k n).nextExt = s.nextExt ∧ (bumpBy s k n).ledger = s.ledger ∧
    (bumpBy s k n).ingress = s.ingress ∧ (bumpBy s k n).trk = s.trk ∧ (bumpBy s k n).use = s.use ∧
    (bumpBy s k n).creel = s.creel ∧ (bumpBy s k n).acts = s.acts ∧ (bumpBy s k n).xing = s.xing ∧
    (bumpBy s k n).slices = s.slices ∧ (bumpBy s k n).serialRr = s.serialRr ∧
    (bumpBy s k n).serialIn = s.serialIn ∧ (bumpBy s k n).hanks = s.hanks ∧
    (bumpBy s k n).pages = s.pages ∧ (bumpBy s k n).skein = s.skein ∧ (bumpBy s k n).acc = s.acc ∧
    (bumpBy s k n).lost = s.lost ∧ (bumpBy s k n).lcache = s.lcache ∧ (bumpBy s k n).carder = s.carder ∧
    (bumpBy s k n).used = s.used ∧ (bumpBy s k n).dram = s.dram ∧ (bumpBy s k n).slots = s.slots ∧
    (bumpBy s k n).keys = s.keys ∧ (bumpBy s k n).spn = s.spn ∧ (bumpBy s k n).units = s.units ∧
    (bumpBy s k n).rings = s.rings ∧ (bumpBy s k n).descs = s.descs ∧ (bumpBy s k n).chans = s.chans ∧
    (bumpBy s k n).rate = s.rate ∧ (bumpBy s k n).passes = s.passes ∧ (bumpBy s k n).plist = s.plist ∧
    (bumpBy s k n).qos = s.qos ∧ (bumpBy s k n).stations = s.stations ∧ (bumpBy s k n).fabric = s.fabric ∧
    (bumpBy s k n).img = s.img ∧ (bumpBy s k n).ply = s.ply ∧ (bumpBy s k n).pair = s.pair ∧
    (bumpBy s k n).doms = s.doms ∧ (bumpBy s k n).power = s.power ∧ (bumpBy s k n).hsw = s.hsw ∧
    (bumpBy s k n).mbx = s.mbx ∧ (bumpBy s k n).banks = s.banks ∧ (bumpBy s k n).sec = s.sec ∧
    (bumpBy s k n).mgmt = s.mgmt ∧ (bumpBy s k n).pmu = s.pmu :=
  ⟨rfl, rfl, rfl, rfl, rfl, rfl, rfl, rfl, rfl, rfl, rfl, rfl, rfl, rfl, rfl, rfl, rfl, rfl, rfl, rfl, rfl, rfl, rfl, rfl,
  rfl, rfl, rfl, rfl, rfl, rfl, rfl, rfl, rfl, rfl, rfl, rfl, rfl, rfl, rfl, rfl, rfl, rfl, rfl, rfl, rfl, rfl, rfl,
  rfl, rfl, rfl, rfl, rfl, rfl, rfl, rfl, rfl, rfl, rfl, rfl, rfl, rfl, rfl⟩

@[simp] theorem bumpBy_reads (k n : Nat) (j : Nat) :
    portAt (bumpBy s k n) j = portAt s j ∧ linkAt (bumpBy s k n) j = linkAt s j ∧ fnAt (bumpBy s k n) j = fnAt s j ∧
    seatAt (bumpBy s k n) j = seatAt s j ∧ groupAt (bumpBy s k n) j = groupAt s j ∧
    winAt (bumpBy s k n) j = winAt s j ∧ blockAt (bumpBy s k n) j = blockAt s j ∧
    ingressAt (bumpBy s k n) j = ingressAt s j ∧ trkAt (bumpBy s k n) j = trkAt s j ∧
    useAt (bumpBy s k n) j = useAt s j ∧ creelAt (bumpBy s k n) j = creelAt s j ∧ actAt (bumpBy s k n) j = actAt s j ∧
    xingAt (bumpBy s k n) j = xingAt s j ∧ sliceAt (bumpBy s k n) j = sliceAt s j ∧
    hankRaw (bumpBy s k n) j = hankRaw s j ∧ pageAt (bumpBy s k n) j = pageAt s j ∧
    cached (bumpBy s k n) j = cached s j ∧ accAt (bumpBy s k n) j = accAt s j ∧
    lcacheAt (bumpBy s k n) j = lcacheAt s j ∧ usedAt (bumpBy s k n) j = usedAt s j ∧
    dramAt (bumpBy s k n) j = dramAt s j ∧ slotAt (bumpBy s k n) j = slotAt s j ∧ spnAt (bumpBy s k n) j = spnAt s j ∧
    ringAt (bumpBy s k n) j = ringAt s j ∧ descAt (bumpBy s k n) j = descAt s j ∧ chAt (bumpBy s k n) j = chAt s j ∧
    stAt (bumpBy s k n) j = stAt s j ∧ plyAt (bumpBy s k n) j = plyAt s j ∧ domAt (bumpBy s k n) j = domAt s j ∧
    mbxAt (bumpBy s k n) j = mbxAt s j ∧ bankAt (bumpBy s k n) j = bankAt s j ∧ regAt (bumpBy s k n) j = regAt s j :=
  ⟨rfl, rfl, rfl, rfl, rfl, rfl, rfl, rfl, rfl, rfl, rfl, rfl, rfl, rfl, rfl, rfl, rfl, rfl, rfl, rfl, rfl, rfl, rfl,
  rfl, rfl, rfl, rfl, rfl, rfl, rfl, rfl, rfl⟩

/-- `bump` changes only `cnts`. -/
@[simp] theorem bump_fields (k : Nat) :
    (bump s k).now = s.now ∧ (bump s k).pending = s.pending ∧ (bump s k).free = s.free ∧ (bump s k).stamp = s.stamp ∧
    (bump s k).out = s.out ∧ (bump s k).boot = s.boot ∧ (bump s k).regs = s.regs ∧
    (bump s k).cnts = tabSet 0 s.cnts k (min cntMax (cntAt s k + 1)) ∧ (bump s k).latches = s.latches ∧
    (bump s k).marks = s.marks ∧ (bump s k).log = s.log ∧ (bump s k).ports = s.ports ∧ (bump s k).links = s.links ∧
    (bump s k).fns = s.fns ∧ (bump s k).seats = s.seats ∧ (bump s k).groups = s.groups ∧ (bump s k).wins = s.wins ∧
    (bump s k).blocks = s.blocks ∧ (bump s k).nextExt = s.nextExt ∧ (bump s k).ledger = s.ledger ∧
    (bump s k).ingress = s.ingress ∧ (bump s k).trk = s.trk ∧ (bump s k).use = s.use ∧ (bump s k).creel = s.creel ∧
    (bump s k).acts = s.acts ∧ (bump s k).xing = s.xing ∧ (bump s k).slices = s.slices ∧
    (bump s k).serialRr = s.serialRr ∧
    (bump s k).serialIn = s.serialIn ∧ (bump s k).hanks = s.hanks ∧ (bump s k).pages = s.pages ∧
    (bump s k).skein = s.skein ∧ (bump s k).acc = s.acc ∧ (bump s k).lost = s.lost ∧ (bump s k).lcache = s.lcache ∧
    (bump s k).carder = s.carder ∧ (bump s k).used = s.used ∧ (bump s k).dram = s.dram ∧ (bump s k).slots = s.slots ∧
    (bump s k).keys = s.keys ∧ (bump s k).spn = s.spn ∧ (bump s k).units = s.units ∧ (bump s k).rings = s.rings ∧
    (bump s k).descs = s.descs ∧ (bump s k).chans = s.chans ∧ (bump s k).rate = s.rate ∧
    (bump s k).passes = s.passes ∧ (bump s k).plist = s.plist ∧ (bump s k).qos = s.qos ∧
    (bump s k).stations = s.stations ∧ (bump s k).fabric = s.fabric ∧ (bump s k).img = s.img ∧
    (bump s k).ply = s.ply ∧ (bump s k).pair = s.pair ∧ (bump s k).doms = s.doms ∧ (bump s k).power = s.power ∧
    (bump s k).hsw = s.hsw ∧ (bump s k).mbx = s.mbx ∧ (bump s k).banks = s.banks ∧ (bump s k).sec = s.sec ∧
    (bump s k).mgmt = s.mgmt ∧ (bump s k).pmu = s.pmu :=
  ⟨rfl, rfl, rfl, rfl, rfl, rfl, rfl, rfl, rfl, rfl, rfl, rfl, rfl, rfl, rfl, rfl, rfl, rfl, rfl, rfl, rfl, rfl, rfl, rfl,
  rfl, rfl, rfl, rfl, rfl, rfl, rfl, rfl, rfl, rfl, rfl, rfl, rfl, rfl, rfl, rfl, rfl, rfl, rfl, rfl, rfl, rfl, rfl,
  rfl, rfl, rfl, rfl, rfl, rfl, rfl, rfl, rfl, rfl, rfl, rfl, rfl, rfl, rfl⟩

@[simp] theorem bump_reads (k : Nat) (j : Nat) :
    portAt (bump s k) j = portAt s j ∧ linkAt (bump s k) j = linkAt s j ∧ fnAt (bump s k) j = fnAt s j ∧
    seatAt (bump s k) j = seatAt s j ∧ groupAt (bump s k) j = groupAt s j ∧ winAt (bump s k) j = winAt s j ∧
    blockAt (bump s k) j = blockAt s j ∧ ingressAt (bump s k) j = ingressAt s j ∧ trkAt (bump s k) j = trkAt s j ∧
    useAt (bump s k) j = useAt s j ∧ creelAt (bump s k) j = creelAt s j ∧ actAt (bump s k) j = actAt s j ∧
    xingAt (bump s k) j = xingAt s j ∧ sliceAt (bump s k) j = sliceAt s j ∧ hankRaw (bump s k) j = hankRaw s j ∧
    pageAt (bump s k) j = pageAt s j ∧ cached (bump s k) j = cached s j ∧ accAt (bump s k) j = accAt s j ∧
    lcacheAt (bump s k) j = lcacheAt s j ∧ usedAt (bump s k) j = usedAt s j ∧ dramAt (bump s k) j = dramAt s j ∧
    slotAt (bump s k) j = slotAt s j ∧ spnAt (bump s k) j = spnAt s j ∧ ringAt (bump s k) j = ringAt s j ∧
    descAt (bump s k) j = descAt s j ∧ chAt (bump s k) j = chAt s j ∧ stAt (bump s k) j = stAt s j ∧
    plyAt (bump s k) j = plyAt s j ∧ domAt (bump s k) j = domAt s j ∧ mbxAt (bump s k) j = mbxAt s j ∧
    bankAt (bump s k) j = bankAt s j ∧ regAt (bump s k) j = regAt s j :=
  ⟨rfl, rfl, rfl, rfl, rfl, rfl, rfl, rfl, rfl, rfl, rfl, rfl, rfl, rfl, rfl, rfl, rfl, rfl, rfl, rfl, rfl, rfl, rfl,
  rfl, rfl, rfl, rfl, rfl, rfl, rfl, rfl, rfl⟩

/-- A register reads what was last written to it. -/
@[simp] theorem regAt_setReg_same (k : Nat) (v : Word) : regAt (setReg s k v) k = v := tabGet_set_same (regReset k) s.regs k v

/-- Writing one register leaves the others. -/
theorem regAt_setReg_other {k j : Nat} (v : Word) (h : j ≠ k) : regAt (setReg s k v) j = regAt s j := by
  show tabGet (regReset j) (tabSet (regReset k) s.regs k v) j = tabGet (regReset j) s.regs j
  unfold tabSet
  split
  · exact tabGet_erase_other (regReset j) s.regs h
  · rw [tabGet_insert_other (regReset j) _ _ h]; exact tabGet_erase_other (regReset j) s.regs h

/-- A statistics counter counts and stops at all ones (R53). -/
@[simp] theorem cntAt_bumpBy_same (k n : Nat) : cntAt (bumpBy s k n) k = min cntMax (cntAt s k + n) :=
  tabGet_set_same 0 s.cnts k _

/-- Counting in one counter leaves the others. -/
theorem cntAt_bumpBy_other {k j : Nat} (n : Nat) (h : j ≠ k) : cntAt (bumpBy s k n) j = cntAt s j :=
  tabGet_set_other 0 s.cnts _ h

end Sys2Proof.Machine
end

