-- ==== Sys2Proof/WellFormed.lean ====
section
/-! DEFINITION. Which commands say something that can arrive: line data of 64 bytes (R36), physical addresses below
2^52 (R4), registers accessed as aligned 4 or 8 bytes (R7), and operands of the widths the manual gives them. -/

namespace Sys2Proof

/-- An HPA is 52 bits wide (R4, R62). -/
def M2S.wf (m : M2S) : Bool := decide (m.hpa < 2 ^ 52) && decide (m.id < 4096) && decide (m.tag < 65536)

/-- The symbols of one line that a read finds changed: none, or one byte for each of its 80 symbols (R255). -/
def noiseWf (n : List Byte) : Bool := n.isEmpty || n.length == 80

/-- Width of a register access (R7). -/
def accessWf (off size : Nat) : Bool := (size == 4 && off % 4 == 0) || (size == 8 && off % 8 == 0)

/-- A doorbell write that came as a memory write names its line (R206); one through BAR0 names its function. -/
def doorbellWf (m : M2S ⊕ (Fn × Nat)) : Bool :=
  match m with
  | .inl x => x.wf
  | .inr _ => true

/-- Line data of an MWR or RSYNC packet (R328). -/
def PlyWrite.wf (w : PlyWrite) : Bool :=
  decide (1 ≤ w.nlines) && decide (w.nlines ≤ 4) && w.lines.all (fun l => l.length == 64) &&
  (if w.poison then w.lines.isEmpty else w.lines.length == w.nlines)

/-- The command is well formed. -/
def Instr.wf : Instr → Bool
  | .registerWrite _ off size _ => accessWf off size
  | .registerRead _ off size => accessWf off size
  | .memRd m _ => m.wf
  | .memRdData m => m.wf
  | .memSpecRd m => m.wf
  | .memInv m => m.wf
  | .memInvNt m => m.wf
  | .memClnEvct m => m.wf
  | .biConflict m => m.wf
  | .memWr m d => m.wf && d.length == 64
  | .memWrPtl m _ d => m.wf && d.length == 64
  | .biRsp m _ => m.wf
  | .unsupportedM2sOpcode m _ => m.wf
  | .readDataReturn _ noise => noise.all noiseWf
  | .segmentDecode _ noise => noise.all noiseWf
  | .promotion _ _ _ noise => noise.all noiseWf
  | .demotion _ _ _ noise => noise.all noiseWf
  | .rekeyUnitConvert _ noise => noise.all noiseWf
  | .resyncHankCopy _ _ noise => noise.all noiseWf
  | .mergeEntryTimeout _ _ noise => noiseWf noise
  | .scrubLine noise => noiseWf noise
  | .scrubVerifyRead noise => noiseWf noise
  | .sqTailDoorbell m _ _ => doorbellWf m
  | .cqHeadDoorbell m _ _ => doorbellWf m
  | .ringEnable m _ _ => doorbellWf m
  | .ringDisable m _ _ => doorbellWf m
  | .cqSetup m _ _ => doorbellWf m
  | .mwr _ _ w => w.wf
  | .rsync _ _ w => w.wf
  | .plyPhyTrained _ w => w == 1 || w == 2 || w == 4 || w == 8 || w == 16
  | .laneWidthChange _ _ w => decide (w < 32)
  | .mbox _ _ ws => decide (ws.length ≤ 16)
  | _ => true

end Sys2Proof
end

