-- ==== Sys2Proof/Tests/Slice0.lean ====
section
/-! SUPPORT. Tests: concrete states and operands that meet the premises of every statement, ill-formed commands that
`Instr.wf` refuses, the manual's worked examples, and single steps on small states. -/

set_option Elab.async false

namespace Sys2Proof.Tests

open Sys2Proof Sys2Proof.Machine

/-! ## Devices to try things on -/

/-- Function 0 of link 0 of HP0. -/
def fn0 : Fn := { port := 0, link := 0, id := 0 }

/-- A message of port 0, link 0. -/
def msg (hpa : Nat) : M2S := { port := 0, link := 0, id := 0, tag := 0, hpa := hpa, tee := false }

def link0 : Link := { up := true, mem := true, rate := 5, width := 16, flit := 2, credReq := 8, credRwd := 8, credBi := 8, credSnp := 8 }
def seat0 : Seat := { p0 := { kind := 1 }, admin := true, state := .attached, enable := true }
/-- An HDM-H window of 4 hanks at HPA 0x1000000 with nothing mapped. -/
def win0 : Win := { hpaHank := 8, size := 4, state := .online, enable := true }
/-- An elastic HDM-DB window of 4 hanks at HPA 0x4000000. -/
def win1 : Win :=
  { hpaHank := 32, dlaHank := 16, size := 4, db := true, elastic := true, state := .online, enable := true, keySlot := 1 }
/-- A Dynamic Capacity window of two blocks. -/
def win2 : Win :=
  { hpaHank := 256, dlaHank := 256, size := 256, db := true, elastic := true, state := .online, enable := true, keySlot := 2,
    dc := true }

/-- A running device: an image is applied, seat 0 is attached and has admin rights, and the controller runs. -/
def dev : State := { State.reset with
  boot := { phase := .run, bumpDue := 0, firstDue := false, railsOk := true }
  sec := { started := true, confirmed := true }
  img := { st := .loaded, locked := true }
  keys := { metaKey := some 0, next := 4, trngOk := true, metaDue := false }
  links := [(0, link0)], seats := [(0, seat0)], wins := [(0, win0), (1, win1), (2, win2)]
  slots := [(0, { st := .active, cur := 1 }), (1, { win := 1, st := .active, cur := 2 }), (2, { win := 2, st := .active, cur := 3 })]
  chans := [(0, { st := .online })]
  power := { ldoNormal := true, ldoReady := true } }

/-- The same with a ring of 64 entries for seat 0, one descriptor waiting in its queue. -/
def ring0 : Ring :=
  { ops := BitVec.allOnes 16, st := .enabled, enable := true, sqBase := 0x1000, cqBase := 0x1001, sqTail := 1, phase := true }
def devR : State := { dev with rings := [(0, ring0)] }
/-! ## Premises of the statements can be met

One theorem for each statement with premises, `test_<Statement>_premises`, on concrete states and operands: one part for each
clause. -/

theorem test_StepTakesTheFront_premises :
    ({ dev with pending := [.perstAssert 0, .refresh 0] } : State).pending = .perstAssert 0 :: [.refresh 0] ∧
    dev.pending = [] := by decide +kernel

theorem test_PoweredTimeRunsOn_premises :
    ((.lowPowerLimit : BoSrc) = .lowPowerLimit → State.reset.power.ldoNormal = false) ∧
    ((.normalLimit : BoSrc) = .normalLimit → dev.power.ldoNormal = true) := by decide +kernel

theorem test_MailboxQueriesAnswer_premises :
    cciServed dev (.mailbox fn0) = true ∧ cciServed dev .mctp = true ∧ allOps.contains 0 = false ∧
    allOps.contains 0xC500 = false ∧ (Cci.mailbox fn0) ≠ .mctp := by decide +kernel

theorem test_MailboxSettings_premises :
    cciServed dev (.mailbox fn0) = true ∧ (∀ h ∈ ([] : List Nat), h ∈ (viewRecs dev (.mailbox fn0)).map (·.1)) ∧
    2 ^ 64 - 1 < 2 ^ 64 := by decide +kernel

def bank1 : Bank := { fw := [1], pending := true }
def xfer0 (pages : Nat) : Xfer := { by_ := some .mctp, isImg := false, data := List.replicate 300 0, pages := pages }
theorem test_FirmwareTransfer_premises :
    cciServed dev .mctp = true ∧ cciAdmin dev .mctp = true ∧ xferBusy dev = false ∧ (fnAt dev (cciKey .mctp)).bg = 0 ∧
    (bankAt { dev with banks := [(1, bank1)] } (1 - dev.sec.bank)).pending = true ∧
    (xfer0 1).pages < xferPages (xfer0 1) ∧ dev.log.queue = [] ∧
    xferPages (xfer0 2) ≤ (xfer0 2).pages ∧ (xfer0 2).by_ = some .mctp := by decide +kernel

theorem test_MediaCommands_premises :
    cciServed dev (.mailbox fn0) = true ∧ cciAdmin dev (.mailbox fn0) = true ∧ (fnAt dev (cciKey (.mailbox fn0))).bg = 0 ∧
    ((cciWins dev (.mailbox fn0)).find? (fun e => decide (e.2.dlaHank * 0x200000 ≤ 0x7FFFC0) &&
        decide (0x7FFFC0 + 64 ≤ e.2.dlaHank * 0x200000 + winBytes e.2))).map (·.1) = some 0 ∧
    lineWin dev 0x7FFFC0 = some 0 ∧
    (agentPrepare (agentOpen (cciAwake dev (.mailbox fn0)) clearAgent) clearAgent 0 0x7FFFC0 64 15).2 = true ∧
    eraseBusy dev = false := by decide +kernel
theorem test_MediaCommands_put :
    (agentPut (agentPrepare (agentOpen (cciAwake dev (.mailbox fn0)) clearAgent) clearAgent 0 0x7FFFC0 64 15).1 clearAgent
      0 0x7FFFC0 15 1024 zeroLine (fun _ => false)).2 = 64 ∧
    ({ dev with mgmt := { bg := some (.overwrite .mctp) } } : State).mgmt.bg = some (.overwrite .mctp) := by decide +kernel
def token0 (kind target : Nat) (by_ : SignerKey) : Token :=
  { kind := kind, target := target, opts := 1, zero := [0], serial := numAt Config.identityRecord 0x10 8, nonce := 7,
    idkey := idDigest, sigA := by_, sigB := .none, ownerKey := [] }
def devT : State := { dev with sec := { dev.sec with nonce := some 7 } }
def run0 (step : Nat) : LcRun := { target := .field, overwrite := true, debug := false, step := step, by_ := .mctp, owner := [] }
theorem test_LifeCycle_token (kind target : Nat) (by_ : SignerKey) : tokenOk devT (token0 kind target by_) kind = true := by
  simp [tokenOk, token0, devT]
theorem test_LifeCycle_premises :
    cciServed devT .mctp = true ∧ cciAdmin devT .mctp = true ∧ devT.sec.debug = false ∧ eraseBusy devT = false ∧
    (fnAt devT (cciKey .mctp)).bg = 0 ∧ lcOf 2 = some .field ∧ devT.sec.lc = .prov ∧
    (∀ r ∈ [run0 3, run0 4, run0 5, run0 7], ({ dev with sec := { dev.sec with run := some r } } : State).sec.run = some r) := by
  decide +kernel
theorem test_LifeCycle_authority :
    mayTransition devT.sec.lc .field (token0 1 2 .owner) = true ∧ mayUnlock devT.sec.lc (token0 2 0xFF .owner) = true ∧
    (token0 2 0xFF .owner).target = 0xFF := ⟨rfl, rfl, rfl⟩

def devS : State := { dev with fns := [(0, { falcon := true, session := true })] }
theorem test_AttestationAnswers_premises :
    responderServed devS (.doe fn0) = true ∧ responderServed devS .mctp = true ∧ spdmFull devS (.doe fn0) = true ∧
    canSign devS = true ∧ (fnAt devS (respKey (.doe fn0))).session = true ∧ 1 ≤ 1 ∧ 4 ≤ 4 ∧ doeLimit ≤ doeLimit := by decide +kernel

def devF : State := { State.reset with boot := { phase := .firmware } }
def devB : State := { dev with sec := { started := true, bank := 1 }, banks := [(1, bank1)] }
theorem test_BootAndDebug_premises :
    devF.boot.phase = .firmware ∧ devF.boot.warmSince = none ∧
    (tryBanks (bootOrder devF) (bumpBoot { devF with sec := { devF.sec with resA := 6, resB := 6 } })).2 = none ∧
    regServed devB .ctrl (secBase + 0x2C) = true ∧ devB.sec.started = true ∧ devB.sec.confirmed = false ∧
    (bankAt devB devB.sec.bank).pending = true ∧
    isBoundary .extest = true ∧ ({ dev.sec with debug := true } : Sec).debug = true := by decide +kernel

/-- A message of seat 0 for a line of window 0 or 1. -/
def rmsg (op : ReqOp) (w : Nat) : Msg :=
  { seat := 0, port := 0, link := 0, id := 0, tag := 5, op := op, hpa := if w = 0 then 0x1000000 else 0x4000000, win := w,
    ali := 0, dla := if w = 0 then 0 else 0x2000000, qc := 2, data := zeroLine, mask := BitVec.allOnes 64 }
def trk0 (op : ReqOp) (w : Nat) (st : TrkState) : Trk :=
  { m := rmsg op w, reserve := false, lender := none, granted := 0, deadline := 20000, st := st, ord := 0 }
/-- Window 0's first hank is DIRECT in frame 0 of hank 3, and its entry is cached. -/
def devD : State := { dev with
  hanks := [(hankKey 0 0, some { mode := .direct, guar := true, home := 3 })], skein := [(2 * hankKey 0 0, true)] }

theorem test_TrackerSteps_grant :
    (let s : State := { dev with ingress := [(0, [rmsg (.rd .noOp) 0])] }
     pickIngress s [] (ingressAt s 0) = some ([], rmsg (.rd .noOp) 0, []) ∧ staleDecode s (rmsg (.rd .noOp) 0) = false ∧
     grantWay s (rmsg (.rd .noOp) 0) = some (false, none)) ∧
    (poolCount dev 4 fun t => t.m.seat == 0) = 0 ∧
    (∀ q m, q < 4 → m ∈ ingressAt dev q → m.seat = 0 → poolOf m ≠ 4) := by
  refine ⟨by decide +kernel, by decide +kernel, ?_⟩
  intro q m hq hm
  have : ingressAt dev q = [] := rfl
  rw [this] at hm; cases hm
theorem test_TrackerSteps_read :
    (let t : Trk := { trk0 (.rd .noOp) 0 .issued with
        accepted := true, loc := some (.hot 0x18000 1 0), snap := [{ line := 0x18000, st := none, key := 1, gen := 0 }] }
     let s : State := { devD with trk := [(24575, some t)] }
     trkAt s 24575 = some t ∧ isRead t.m.op = true ∧ readIssued s 24575 = true ∧ t.lost = false ∧
     (∀ x ∈ t.snap, chOnline s (chOfLine s x.line) = true) ∧ t.decoding = false ∧
     flitReaches s (chStation (chOfLine s ((t.snap.map (·.line)).headD 0))) (hpStation t.m.port) 1 = true) ∧
    (let t : Trk := { trk0 (.rd .noOp) 0 .issued with accepted := true, loc := some (.comp 8 0 56), snap := [] }
     let s : State := { devD with trk := [(0, some t)] }
     trkAt s 0 = some t ∧ t.decoding = false ∧ readIssued s 0 = true ∧ (readLines s none t.snap []).2.isSome = true ∧
     flitReaches s (chStation (chOfLine s 0)) (hpStation t.m.port) 1 = true) ∧
    (let t : Trk := { trk0 (.rd .noOp) 0 .issued with
        accepted := true, loc := some (.comp 8 0 56), snap := [{ line := 32, st := some { poison := true }, key := 1, gen := 0 }] }
     let s : State := { devD with trk := [(0, some t)] }
     trkAt s 0 = some t ∧ (readLines s none t.snap []).2 = none ∧
     (∀ x ∈ t.snap, chOnline s (chOfLine s x.line) = true) ∧
     flitReaches s (chStation (chOfLine s ((t.snap.map (·.line)).headD 0))) (hpStation t.m.port) 1 = true) := by decide +kernel
theorem test_TrackerSteps_write :
    (∀ st ∈ [TrkState.issued, .abandoned],
      let t := { trk0 .wr 0 st with loc := some (.hot 0x18000 1 0) }
      let s : State := { devD with trk := [(0, some t)] }
      trkAt s 0 = some t ∧ isWrite t.m.op = true ∧ t.accepted = false ∧ t.loc.isSome = true ∧
      (t.st = .issued ∨ t.st = .abandoned) ∧ isDb s t.m.win = false ∧ pageQueued s t.m.win t.m.dla t.waitOrd = false ∧
      blocked s t.ord t.m.seat (lineIdx t.m.dla) = false ∧ (freshTarget s t.m.win t.m.dla).isSome = true ∧
      writeRoom s 0x18000 = true ∧
      flitReaches s (sliceStation (sknSlice t.m.dla)) (chStation (chOfLine s 0x18000)) 1 = true) ∧
    (let t := { trk0 .wr 1 .issued with coherent := true, gord := 3 }
     let s : State := { devD with trk := [(0, some t)] }
     isDb s t.m.win = true ∧ writeAhead s (lineIdx t.m.dla) t.gord = false) := by decide +kernel
theorem test_TrackerSteps_ends :
    ∀ op ∈ ([.rd .noOp, .wr] : List ReqOp),
      let t := trk0 op 0 .issued
      let s : State := { dev with trk := [(1, some t)] }
      trkAt s 1 = some t ∧ t.st ≠ .abandoned ∧ t.st ≠ .mirror ∧ t.silent = false ∧
      routeBreak s (answerer s t (targetPort s t).1) (hpStation t.m.port) = none ∧
      (let b : State := { s with stations := [(1, { linkFail := 15 })] }
       routeBreak b (answerer b t (targetPort b t).1) (hpStation t.m.port) ≠ none) := by decide +kernel
/-- Both ply ports up, for a window that is mirrored with STRICT and primary. -/
def devM : State := { devD with
  wins := [(0, { win0 with mirror := 1, ms := .sync }), (1, win1)]
  ply := [(0, { st := .up, txWidth := 16, rxWidth := 16, maxWidth := 16, credReq := 64, credRsp := 64 })] }
theorem test_TrackerSteps_strict :
    let t := { trk0 .wr 0 .issued with loc := some (.hot 0x18000 1 0), strict := true }
    let s : State := { devM with trk := [(0, some t)] }
    let v := storeMsg (forwardWrite (writeTouch s 0 0 0) 0 t t.poisonWr) t.m 0x18000 1 0 t.poisonWr
    freshTarget s 0 0 = some (0x18000, 1, 0) ∧ writeRoom s 0x18000 = true ∧ t.st = .issued ∧ pageQueued s 0 0 0 = false ∧
    flitReaches s (sliceStation (sknSlice 0)) (chStation (chOfLine s 0x18000)) 1 = true ∧
    t.strict = true ∧ (winAt v 0).ms = .sync ∧
    (v.pair.fwds.any fun f => f.entry == some 0) = true ∧ t.silent = false := by decide +kernel

/-- The same write in a window of no mirror, whose completion meets a dead port of HP0. -/
theorem test_TrackerSteps_lost :
    let t := { trk0 .wr 0 .issued with loc := some (.hot 0x18000 1 0) }
    let s : State := { devD with trk := [(0, some t)], stations := [(hpStation 0, { dead := 2 })] }
    freshTarget s 0 0 = some (0x18000, 1, 0) ∧ writeRoom s 0x18000 = true ∧ t.strict = false ∧ t.silent = false ∧
    t.st ≠ .abandoned ∧ flitReaches s (sliceStation (sknSlice 0)) (chStation (chOfLine s 0x18000)) 1 = true ∧
    flitReaches s (chStation (chOfLine s 0x18000)) (hpStation t.m.port) 1 = false := by decide +kernel

/-- A snoop of seat 0 for the first line of window 1, held by record 127 of slice 15 or 0 of slice 0. -/
def xing0 : Xing := { line := 0x80000, seat := 0, ali := 0, kind := .inv, win := 1, issued := true, sent := some 0, start := some 0 }
theorem test_SnoopSteps_premises :
    (let s : State := { dev with xing := [(15 * 128 + 127, some { xing0 with issued := false, sent := none, start := none })] }
     (xingAt s (15 * 128 + 127)).map (·.issued) = some false) ∧
    linkUpAt dev 0 0 = true ∧
    (linkAt dev (linkKey 0 0)).mem = true ∧ domAwake dev 2 = true ∧ seatOf dev 0 0 0 = some 0 ∧
    findWin dev 0 0x4000000 = some (1, 0) ∧
    (findXing dev fun x => x.line == 0x80000) = none ∧
    (let s : State := { dev with xing := [(0, some xing0)] }
     findXing s (fun x : Xing => x.line == lineIdx 0x2000000 && x.seat == 0 && x.ali == 0 && x.sent == some (linkKey 0 0) && x.ans.isNone)
       = some (0, xing0) ∧ writeFirst (noteAnswered s 0) xing0 = false ∧ (xingAt s 0).bind (·.start) = some 0) ∧
    (let x := { xing0 with buf := [rmsg .wr 1] }
     let s : State := { dev with xing := [(0, some x)] }
     findXing s (fun x : Xing => x.line == lineIdx 0x2000000 && x.seat == 0 && x.ali == 0 && x.sent == some (linkKey 0 0) && x.ans.isNone)
       = some (0, x) ∧ writeFirst (noteAnswered s 0) x = true) := by decide +kernel

/-- A line of window 1 held EXCLUSIVE by seat `h`. -/
def devEx (h : Nat) : State := { dev with
  creel := [(wayKey 0 2 0, { line := 0x80000, st := .exclusive, ptrs := [h], win := 1 })] }
theorem test_CreelSteps_write :
    ∀ h ∈ [0, 7],
      let t := trk0 .wr 1 .issued
      let s : State := { devEx h with trk := [(0, some t)] }
      let slice := crlSlice t.m.dla
      trkAt s 0 = some t ∧ creelReady s slice 0 = true ∧ requestArrives s slice 0 = true ∧ isWrite t.m.op = true ∧
      t.resent = false ∧ serialMode s = s.serialIn ∧ snoopedWriter s t = false ∧ actAt s 0x80000 = none ∧
      (findEntry s 0x80000).map (fun k => ((creelAt s k).st, (creelAt s k).ptrs)) = some (.exclusive, [h]) := by decide +kernel
theorem test_CreelSteps_read :
    let t := trk0 (.rd .noOp) 1 .issued
    let s : State := { dev with trk := [(0, some t)] }
    let slice := crlSlice t.m.dla
    trkAt s 0 = some t ∧ creelReady s slice 0 = true ∧ requestArrives s slice 0 = true ∧ isWrite t.m.op = false ∧
    kindOf t = .current ∧ serialMode s = s.serialIn ∧ actAt s 0x80000 = none ∧ victimFor s 0x80000 = false ∧
    ((sliceAt s (crlSlice (0x80000 * 64))).confq.any fun x => x.1 == 0x80000) = false ∧
    findEntry s 0x80000 = none ∧ missBroadcasts s t.m.win (0x80000 * 64) = false := by decide +kernel
/-- A read of the line waits in its slice's conflict queue, alone; in the second state every way of its set is BUSY. -/
theorem test_CreelSteps_queue :
    (let t := trk0 (.rd .noOp) 1 .issued
     let c := crlSlice (0x80000 * 64)
     let s : State := { dev with trk := [(0, some t)], slices := [(c, { confq := [(0x80000, .trk 0, kindOf t, 0, 0)] })] }
     actAt s 0x80000 = none ∧ victimFor s 0x80000 = false ∧ c < 16 ∧
     ((sliceAt s c).purges.find? fun p => p.1 == 0x80000) = none ∧ trkAt s 0 = some t ∧ kindOf t = .current ∧
     findEntry s 0x80000 = none ∧ missBroadcasts s 1 (0x80000 * 64) = false ∧ (winOfDla s (0x80000 * 64)).getD 0 = 1 ∧
     stillWaits (creelServe s 0x80000 1 (.trk 0) (kindOf t) 0 0 false) 0x80000 (.trk 0) = false) ∧
    (let t := trk0 (.rd .snpData) 1 .issued
     let c := crlSlice (0x80000 * 64)
     let s : State := { dev with
       trk := [(0, some t)], slices := [(c, { confq := [(0x80000, .trk 0, kindOf t, 0, 0)] })]
       creel := (List.range 16).map fun n => (wayKey 0 2 n, { line := n + 1, st := .busy, win := 1 }) }
     stillWaits (creelServe s 0x80000 1 (.trk 0) (kindOf t) 0 0 false) 0x80000 (.trk 0) = true) := by decide +kernel
theorem test_CreelSteps_premises :
    ({ trk0 .wr 1 .issued with returned := true } : Trk).returned = true ∧
    (trk0 (.rd .noOp) 1 .issued).resent = false ∧
    ([(16383, 15, true)] : List (Nat × Nat × Bool)) ≠ [] ∧
    (∀ d ∈ ([(16383, 15, true)] : List (Nat × Nat × Bool)), d.1 < 16384 ∧ d.2.1 < 16) ∧
    (let s : State := { dev with slices := [(15, { recov := true })] }
     (sliceAt s 15).recov = true ∧ s.acts = [] ∧ (sliceAt s 15).purges = []) := by decide +kernel

theorem test_HostRequests_premises :
    (let m := msg 0x1000000
     m2sServed dev m false = true ∧ (decodeM2S dev m).map (·.win) = some 0 ∧
     (decodeM2S dev m).map (isDoorbell dev) = some false ∧ isDb dev 0 = false) ∧
    (m2sServed dev (msg 0) false = true ∧ decodeM2S dev (msg 0) = none) ∧
    (let s : State := { dev with wins := [(0, { win0 with dbhV := true, dbhHank := 3 })] }
     (decodeM2S s (msg 0x1600FC0)).map (isDoorbell s) = some true) ∧
    ((decodeM2S dev (msg 0x47FFFC0)).map (isDoorbell dev) = some false ∧ isDb dev 1 = true) ∧
    (∀ w ∈ [0, 1],
      let m := msg (if w = 0 then 0x1000000 else 0x4000000)
      let t := m2sAwake dev m
      (decodeM2S dev m).any fun d =>
        let g := msgOf t m (some d) (.rd .noOp) (lineOf []) 0
        let u := noteUse (modLink t 0 fun l => { l with credReq := l.credReq - 1 }) (poolOf g) g.seat
        let v := modIngress u 0 fun q => q ++ [g]
        !isWrite (.rd .noOp) && ingressAt dev 0 == [] && !staleDecode v g && (grantWay v g).isSome) := by decide +kernel

theorem test_HostWrites_premises :
    m2sServed dev (msg 0x1000000) true = true ∧ crossingOf dev (msg 0x1000000) = none ∧
    ((crossingOf { dev with xing := [(0, some xing0)] } (msg 0x4000000)).map (·.1)) = some 0 ∧
    decodeM2S dev (msg 0) = none ∧ crossingOf dev (msg 0) = none ∧
    (let s : State := { dev with wins := [(0, { win0 with dbhV := true, dbhHank := 3 })] }
     crossingOf s (msg 0x1600000) = none ∧ (decodeM2S s (msg 0x1600000)).map (isDoorbell s) = some true) ∧
    (decodeM2S dev (msg 0x1000000)).map (isDoorbell dev) = some false := by decide +kernel

theorem test_HintsAndConflicts_premises :
    m2sServed dev (msg 0x1000000) false = true ∧ m2sServed dev (msg 0x1000000) true = true ∧
    decodeM2S dev (msg 0) = none ∧ ¬ (poolSize 0 * 3 ≤ (generalUsed dev 0 + reserveUsed dev 0) * 4) ∧
    (decodeM2S devD (msg 0x1000000)).map (isDoorbell devD) = some false ∧
    skeinLook devD 0 0 = .hot 0x18000 0 none ∧ chOnline devD (chOfLine devD 0x18000) = true ∧
    (let s : State := { dev with trk := [(0, some { trk0 (.rd .snpData) 1 .issued with coherent := true })] }
     (decodeM2S s (msg 0x4000000)).map (·.win) = some 1 ∧ isDb s 1 = true ∧
     (entriesWhere s fun x => x.m.seat == 0 && lineIdx x.m.dla == lineIdx 0x2000000 && x.coherent && !x.silent).getLast? = some 0) ∧
    isDb dev 0 = false := by decide +kernel
/-- The hint is dropped at 75 % of the pool: 3,072 of 4,096 entries. -/
theorem test_HintsAndConflicts_bound : poolSize 0 * 3 = 3072 * 4 := by decide
theorem test_SkeinAndEpochs_premises :
    3 < (winAt dev 0).size ∧ cached dev (entryKey 0 3 (some 511)) = false ∧ cached devD (entryKey 0 0 none) = true ∧
    (winAt dev 0).elastic = false ∧ (pageOf dev 0 3 511).tier = .unmapped ∧ (winAt dev 0).state ≠ .offline ∧
    (winAt dev 0).cause ≠ some .reweave ∧
    (let s : State := { dev with spn := [(0, { home := 4 })] }
     inSlot (giveUnit s (.fill (pageKey 0 3 511)) 4 15 0) (.fill (pageKey 0 3 511)) = true) := by decide +kernel

/-- Page 0 of window 1 is compressed, all segments zero, with a promotion or a demotion asked for and in a slot. -/
def unitC (j : Job) : Unit_ := { job := j, role := 4, qc := 2 }
def devC (run : Bool) : State := { dev with
  hanks := [(hankKey 1 0, some { mode := .paged })]
  pages := [(pageKey 1 0 0, { tier := .compressed, addr := 8, len := List.replicate 8 0 })]
  spn := [(0, { slots := [(0, unitC (.promo (pageKey 1 0 0)))] })]
  carder := { promo := [{ key := pageKey 1 0 0, why := .read, run := run, frame := some 5 }] } }
def devH (enc : Option (List Nat × List Byte)) : State := { dev with
  hanks := [(hankKey 1 0, some { mode := .paged })]
  pages := [(pageKey 1 0 0, { tier := .hot, addr := 1024 })]
  spn := [(0, { slots := [(0, unitC (.demo (pageKey 1 0 0)))] })]
  carder := { demo := [{ key := pageKey 1 0 0, run := enc.isSome, enc := enc }] } }
theorem test_TierChanges_premises :
    underCursor (devC false) 1 0 0 = false ∧
    ((devC false).carder.promo.any fun q => q.key == pageKey 1 0 0 && !q.run) = true ∧
    inSlot (devC false) (.promo (pageKey 1 0 0)) = true ∧ (pageAt (devC false) (pageKey 1 0 0)).tier = .compressed ∧
    (hankAt (devC false) 1 0).guar = false ∧ moving (devH none) (pageKey 1 0 0) = false ∧ (allocFrame (devC false)).2 = none ∧
    (allocFrame { devC false with used := [(7, some (.frames [0, 1]))] }).2 = some (7 * 512 + 2) ∧
    ((devC true).carder.promo.find? fun q => q.key == pageKey 1 0 0 && q.run).isSome = true ∧
    ((devH none).carder.demo.any fun q => q.key == pageKey 1 0 0 && q.enc.isNone && !q.run) = true ∧
    inSlot (devH none) (.demo (pageKey 1 0 0)) = true ∧ (pageOf (devH none) 1 0 0).tier = .hot ∧
    ((devH (some (List.replicate 8 0, []))).carder.demo.find? fun q => q.key == pageKey 1 0 0 && q.run).isSome = true ∧
    runGranules (List.replicate 8 0) = 0 := by decide +kernel
theorem test_TierChanges_run :
    (allocRun { devH (some ([56, 0, 0, 0, 0, 0, 0, 0], List.replicate 448 0)) with used := [(9, some (.runs 2 [0]))] }
      (runGranules [56, 0, 0, 0, 0, 0, 0, 0])).2 = some (9 * 8192 + 2) := by decide +kernel

theorem test_CompactionAndDecode_premises :
    let s : State := { dev with
      ledger := { g := 0, p := 64 }
      hanks := [(hankKey 1 0, some { mode := .paged })]
      pages := [(pageKey 1 0 0, { tier := .hot, addr := 7 * 512 })]
      used := [(7, some (.frames [0])), (8, some (.frames (List.range 511)))]
      spn := [(0, { home := 4 })]
      carder := { moves := [{ key := pageKey 1 0 1, oldAddr := 4096, newAddr := 0, switched := true }] } }
    let g := giveUnit s (.move (pageKey 1 0 0)) 4 (tierClass s) 0
    (s.carder.moves.find? fun m => m.key == pageKey 1 0 0) = none ∧ canMove s 1 0 0 = true ∧
    inSlot g (.move (pageKey 1 0 0)) = true ∧ usedAt g 7 = some (.frames [0]) ∧ storeHank (pageOf g 1 0 0) = 7 ∧
    (moveTarget g 7 (.frames [0])).2 = some (8 * 512 + 511) ∧
    ((s.carder.moves.find? fun m => m.key == pageKey 1 0 1 && m.switched).map (readsOld s)) = some false := by decide +kernel
/-- A move that has copied, still in its slot. -/
theorem test_CompactionAndDecode_switch :
    let s : State := { dev with
      hanks := [(hankKey 1 0, some { mode := .paged })]
      pages := [(pageKey 1 0 0, { tier := .hot, addr := 7 * 512 })]
      spn := [(0, { home := 4, slots := [(0, unitC (.move (pageKey 1 0 0)))] })]
      carder := { moves := [{ key := pageKey 1 0 0, oldAddr := 3584, newAddr := 4607 }] } }
    ((s.carder.moves.find? fun m => m.key == pageKey 1 0 0).map (·.switched)) = some false ∧
    underCursor s 1 0 0 = false ∧ inSlot s (.move (pageKey 1 0 0)) = true := by decide +kernel
theorem test_CompactionAndDecode_decode :
    ∀ b ∈ [true, false],
      let t : Trk := { trk0 (.rd .noOp) 0 .issued with
        accepted := true, decoding := true, loc := some (.comp 8 0 56)
        snap := [{ line := 32, st := some { poison := !b }, key := 1, gen := 0 }] }
      let s : State := { devD with trk := [(0, some t)], spn := [(0, { slots := [(31, unitC (.decode 0))] })] }
      trkAt s 0 = some t ∧ inSlot s (.decode 0) = true ∧ readIssued s 0 = true ∧
      (∀ x ∈ t.snap, chOnline s (chOfLine s x.line) = true) ∧ (readLines s none t.snap []).2.isSome = b := by decide +kernel
/-- A segment that ends at once does not decode. -/
theorem test_CompactionAndDecode_bytes : (plzDecode (List.replicate 448 255) 512).isSome = false := by decide +kernel

/-! The key walk of slot 0: nothing left, a unit just found, and a unit half converted. -/

def slotR : Slot := { gen := 1, st := .rekeying, cur := 2, old := some 1 }
def devK (x : Slot) : State := { dev with
  spn := [(47, { home := 5 })]
  hanks := [(hankKey 0 0, some { mode := .paged })]
  pages := [(pageKey 0 0 511, { tier := .hot, addr := 4 })]
  slots := [(0, x)] }
theorem test_KeyWalksAndTrng_premises :
    (slotOf (devK slotR) 0).st = .rekeying ∧ (slotOf (devK slotR) 0).win = 0 ∧ (slotOf (devK slotR) 0).peerKey = false ∧
    (slotOf (devK slotR) 0).stopped = false ∧
    (let g := giveUnit (devK slotR) (.rekey 0) 5 (walkClass (devK slotR) slotR) 0
     inSlot g (.rekey 0) = true ∧ unitLines g 0 0 (some 511) = (256, 64)) ∧ dev.keys.failing = false ∧ (slotOf (devK slotR) 0).cursor = none ∧
    (walkOn (walkHanks (devK { slotR with walk := 4 }) 0 4) (devK { slotR with walk := 4 }) 0).2 = none ∧
    (walkOn (walkHanks (devK slotR) 0 0) (devK slotR) 0).2 = some (0, some 511) ∧
    tierBusy (devK slotR) 0 0 (some 511) = false ∧
    (slotOf (devK { slotR with cursor := some (0, some 511, 319) }) 0).cursor = some (0, some 511, 319) ∧
    (256 + 64 - 319 ≤ ([[]] : List (List Byte)).length) ∧ ([[]] : List (List Byte)) ≠ [] ∧ (([[]] : List (List Byte)).length < 256 + 64 - 318) ∧
    ({ dev.keys with metaDue := true } : Keys).metaDue = true ∧ dev.keys.trngOk = true ∧ dev.boot.phase = .run ∧
    ({ State.reset.boot with phase := .keyDraw } : Boot).phase = .keyDraw ∧ State.reset.keys.fails = 0 := by decide +kernel

/-- Spindle 47 serves role 5 (rings), spindle 46 role 1 and may lend to role 5. -/
def devP : State := { devD with
  spn := [(46, { home := 1, lend := 32 }), (47, { home := 5 })]
  rings := [(0, { ring0 with sqTail := 63 })]
  regs := [(spnBase 46 + 8, 0x0000000A)] }
theorem test_SpindleSteps_premises :
    admissionStopped devP = false ∧
    (let u : Unit_ := { job := .decode 0, role := 1, qc := 0 }
     let s : State := { devP with units := [u] }
     nextUnit s = some u ∧ nextDesc s = none ∧ pickSpindle s 1 0 48 4 = some 46) ∧
    (let s : State := { devP with descs := [(descKey 0 0, some { raw := List.replicate 64 0, st := .waiting, ord := 0 })] }
     (pickSpindle s 5 0 48 4).isSome = true ∧ (nextDesc s).map (·.1) = some (descKey 0 0) ∧ nextUnit s = none ∧
     (descAt s (descKey 0 0)).map (descMayStart s (descKey 0 0)) = some true ∧ pickSpindle s 5 0 48 4 = some 47) ∧
    nextUnit devP = none ∧ nextDesc devP = none ∧
    (spnAt devP 0).home = 0 ∧ (spnAt devP 0).st = .run ∧ (spnAt devP 0).slots = [] ∧ (spnAt devP 47).st = .run ∧ (spnAt devP 47).slots = [] ∧ bitOf (regN devP (spnBase 47 + 0xC)) 0 = false ∧
    spnUsable devP 46 = true ∧ homeUnits (spnAt devP 46) = 0 ∧ roleWaits devP 1 = false ∧
    borrowedUnits (spnAt devP 46) = 0 ∧ mayLend devP 46 5 = true ∧ mayLend devP 46 2 = false ∧ mayLend devP 46 3 = false ∧
    mayLend devP 46 4 = false ∧ mayLend devP 46 0 = false ∧ mayLend devP 46 1 = false ∧
    bitOf (regN { devP with regs := [(spnBase 47 + 0x18, 3)] } (spnBase 47 + 0x18)) 0 = true := by decide +kernel
theorem test_SpindleSteps_both :
    let u : Unit_ := { job := .decode 0, role := 1, qc := 1 }
    let s : State := { devP with
      units := [u], descs := [(descKey 0 0, some { raw := List.replicate 64 0, st := .waiting, ord := 0 })] }
    (nextUnit s).map (ranksAhead { u with qc := 0 }) = some true ∧ (nextDesc s).map (fun d => ranksAhead d.2 u) = some true := by
  decide +kernel

def devB0 : State := { dev with wins := [(0, { win0 with dbhV := true, dbhHank := 3 })] }
theorem test_DoorbellRoutes_premises :
    m2sServed devB0 (msg 0x1600FC0) true = true ∧
    ((decodeM2S devB0 (msg 0x1600FC0)).map fun d => (isDoorbell devB0 d, d.dla % 0x1000 / 64)) = some (true, 63) ∧
    16 * 63 / 64 = 15 ∧ (0x400 + 16 * 63 + 8) / 64 = 31 ∧
    ((decodeM2S devB0 (msg 0x16003C0)).map fun d => (isDoorbell devB0 d, d.dla % 0x1000 / 64)) = some (true, 15) ∧
    ((decodeM2S devB0 (msg 0x16007C0)).map fun d => (isDoorbell devB0 d, d.dla % 0x1000 / 64)) = some (true, 31) ∧
    linkUpAt devB0 0 0 = true ∧ fnServed devB0 fn0 = true ∧ fnSeat devB0 fn0 = some 0 ∧ fnSeat devB0 fn0 ≠ some 1 := by
  decide +kernel

/-- A ring of 64 entries of seat 0, under local number 63, in a state of its own. -/
def devQ (x : Ring) : State := { devD with rings := [(8191, { x with lcl := 63 })] }
theorem test_DoorbellFields_premises :
    63 < 64 ∧ (seatAt dev 0).state ≠ .disabling ∧ (seatAt dev 0).state ≠ .disabled ∧
    ringOf (devQ ring0) 0 63 = some 8191 ∧
    (let x := ringAt (devQ ring0) 8191
     ringE x = 64 ∧ x.st ≠ .disabling ∧ (63 + ringE x - x.sqHead) % ringE x + x.since ≤ ringE x - 1 ∧ ringE x ≤ 64 ∧
     (0 + ringE x - x.cqHead) % ringE x ≤ (x.cqTail + ringE x - x.cqHead) % ringE x ∧ x.st ≠ .disabled ∧ bitOf 0 0 = false) ∧
    (let s := devQ { ring0 with st := .disabled }
     ringOf s 0 63 = some 8191 ∧ (ringAt s 8191).st = .disabled ∧ bitOf 0x1000001 0 = true ∧
     (let u := modRing s 8191 fun x => { x with sqWord := 0x1000001, sqBase := fld 0x1000001 51 12, size := fld 0x1000001 7 4 }
      enableOk u (ringAt u 8191) = true)) ∧
    linkUpAt devB0 0 0 = true ∧ fnServed devB0 fn0 = true ∧ fnSeat devB0 fn0 = some 0 ∧
    ((0x1000000 : BitVec 64) ||| 1).toNat = 0x1000001 ∧ ((0x1000001 : BitVec 64) &&& ~~~(1 : BitVec 64)).toNat = 0x1000000 ∧
    bitOf 0x1000000 0 = false := by decide +kernel

/-- A NOP whose completion record asks for a call; and a descriptor that is badly formed. -/
def nopRaw : List Byte := 0 :: 2 :: List.replicate 62 0
def badRaw : List Byte := 0xF :: List.replicate 63 0
def devN (raw : List Byte) : State := { devD with
  rings := [(0, ring0)], dram := [(0x18000, some { key := 1, idx := 0x18000, data := raw })] }
def takenN (raw : List Byte) : State × Option (List Byte) :=
  let n := agentKey 0x10000
  agentRead (agentClose (agentLines (agentOpen (devN raw) n) n 0 0 64 false).1 n) 0 0 0 0
theorem test_RingService_take :
    pickRing (devN nopRaw) = some 0 ∧ fetchAt (devN nopRaw) 0 = some (0, 0) ∧
    (agentLines (agentOpen (devN nopRaw) (agentKey 0x10000)) (agentKey 0x10000) 0 0 64 false).2 = true ∧
    (takenN nopRaw).2 = some nopRaw ∧ (takenN badRaw).2 = some badRaw ∧
    descCheck (takeDesc (takenN nopRaw).1 0 nopRaw) 0 nopRaw = none ∧
    descCheck (takeDesc (takenN badRaw).1 0 badRaw) 0 badRaw = some stBadDesc ∧
    (let s := devN nopRaw
     let u : State := { s with dram := [(0x18000, some { poison := true })] }
     (agentRead u 0 0 0 0).2 = none) ∧
    (let s : State := { devD with rings := [(0, { ring0 with sqBase := 0x100000 })] }
     pickRing s = some 0 ∧ fetchAt s 0 = none) := by decide +kernel

def desc0 (raw : List Byte) (st : DescSt) : Desc := { raw := raw, st := st, ord := 0, startOrd := 0, limitMs := 60000 }
def devE (raw : List Byte) (st : DescSt) : State := { devD with
  rings := [(8191, { ring0 with inflight := 1 })], descs := [(descKey 8191 63, some (desc0 raw st))] }
theorem test_RingService_record :
    let s := devE nopRaw .ended
    let p := agentPrepare s (descKey 8191 63) 0 0x1000 32 0
    descAt s (descKey 8191 63) = some (desc0 nopRaw .ended) ∧ firstEnded s 8191 = some (descKey 8191 63) ∧ (desc0 nopRaw .ended).late = none ∧
    ¬ (bitOf (dFlags (desc0 nopRaw .ended).raw) 2 = true ∧ (desc0 nopRaw .ended).status = stOk) ∧
    (bitOf (dFlags (0 :: 4 :: List.replicate 62 0)) 2 = true) ∧
    seatRange s 0 (0x1001 * 4096 + 0 * 32) 32 = some (0, 0x1000) ∧
    accessStatus s 0 0x1000 32 s.stamp = stOk ∧ p.2 = true ∧
    (agentPut p.1 (descKey 8191 63) 0 0x1000 0 0 (recordBytes (desc0 nopRaw .ended) 63 true) (fun _ => false)).2 = 32 := by decide +kernel
theorem test_RingService_ends :
    (let s : State := { dev with rings := [(8191, { ring0 with st := .disabling })] }
     (ringAt s 8191).st = .disabling ∧ (ringAt s 8191).inflight = 0) ∧
    (let s := devE nopRaw .started
     descAt s (descKey 8191 63) = some (desc0 nopRaw .started) ∧ (desc0 nopRaw .started).st = .started ∧
     dOp (desc0 nopRaw .started).raw ≠ 12 ∧ (s.passes.find? fun p => p.by_ == .ring 8191 63) = none ∧
     (let p : Pass := { by_ := .ring 8191 63, todo := [], start := 0 }
      (({ s with passes := [p] } : State).passes.find? fun p => p.by_ == .ring 8191 63) = some p)) := by decide +kernel

/-! A descriptor of ring 8191 at index 63 that runs, with operands at both ends of window 0's first hank and of window 0. -/

def raw0 (op flags p0 a b c la lb g0 g1 : Nat) : List Byte :=
  le 1 op ++ le 1 flags ++ le 1 0 ++ le 1 p0 ++ le 4 0 ++ le 8 a ++ le 8 b ++ le 8 c ++ le 8 la ++ le 8 lb ++ le 8 g0 ++ le 8 g1
def devX (raw : List Byte) : State := devE raw .started
def run1 (raw : List Byte) : Running := { k := descKey 8191 63, b := raw, seat := 0, qc := 0, since := 0 }
/-- The opcode runs there, both its operands may be touched, and the lines and pages are ready. -/
def readyAt (raw : List Byte) (a la b lb : Nat) : Bool :=
  let s := devX raw
  let d := run1 raw
  let u := agentLines s d.k 0 (a - 0x1000000) la false
  let v := agentPrepare u.1 d.k 0 (b - 0x1000000) lb d.qc
  decide (running s 8191 63 (dOp raw) = some d) && decide (operand s d a la = .ok (0, a - 0x1000000)) &&
    decide (operand s d b lb = .ok (0, b - 0x1000000)) && !telemetryMet s 0 (b - 0x1000000) lb && u.2 && v.2
theorem test_operands :
    dOp (raw0 1 0 0 0x1000FFF 0x17FFFFF 0 1 0 0 0) = 1 ∧ dLenA (raw0 6 0 0 0x1000FFF 0x17FFFFF 0 513 7 1 2) = 513 ∧
    dLenB (raw0 6 0 0 0x1000FFF 0x17FFFFF 0 513 7 1 2) = 7 ∧ dArg0 (raw0 6 0 0 0 0 0 513 7 1 2) = 1 ∧
    dC (raw0 6 0 0 0 0 0xFFFFFFFFFF000 513 7 1 2) = 0xFFFFFFFFFF000 := by decide +kernel

theorem test_CopyFillDigest_premises :
    (running (devX (raw0 0 0 0 0 0 0 0 0 0 0)) 8191 63 0).isSome = true ∧
    readyAt (raw0 1 0 0 0x11FFFFF 0x1100001 0 1 0 0 0) 0x11FFFFF 1 0x1100001 1 = true ∧
    readyAt (raw0 2 0 0 0 0x1000FFF 0 1 0 0 0) 0x1000FFF 1 0x1000FFF 1 = true ∧
    readyAt (raw0 6 0 0 0x1000000 0 0 130 0 0 0) 0x1000000 130 0x1000000 0 = true ∧
    readyAt (raw0 7 0 0 0x1000000 0x1000FF0 0 64 512 0 0) 0x1000000 64 0x1000FF0 512 = true := by decide +kernel
/-- A FILL whose range may not be touched: outside every window, where a dump is written, behind a dead port of a skein slice,
and there with no way back. -/
theorem test_CopyFillDigest_stops :
    let raw := raw0 2 0 0 0 0x1000FFF 0 1 0 0 0
    let d := run1 raw
    let skn := sliceStation (sknSlice 0xFFF)
    let dead : State := { devX raw with stations := [(skn, { dead := 4 })] }
    let cut : State := { devX raw with stations := [(skn, { dead := 4, linkFail := 15 })] }
    let dumps : State := { devX raw with pmu := { en := true } }
    let far := run1 (raw0 2 0 0 0 0 0 1 0 0 0)
    (running (devX far.b) 8191 63 2 = some far ∧ operand (devX far.b) far (dB far.b) (dLenA far.b) = .error stAccess ∧
      (operandNote (devX far.b) far (dB far.b) (dLenA far.b) stAccess).isSome = true) ∧
    (running dumps 8191 63 2 = some d ∧ operand dumps d (dB raw) (dLenA raw) = .ok (0, 0xFFF) ∧
      telemetryMet dumps 0 0xFFF (dLenA raw) = true) ∧
    (∀ s ∈ [dead, cut], seatRange s d.seat (dB raw) 1 = some (0, 0xFFF) ∧ accessStatus s 0 0xFFF 1 d.since = stOk ∧
      rangeBreak s (descStation s d) 0 0xFFF 1 = some (0xFC0, skn)) ∧
    routeBreak dead skn (descStation dead d) = none ∧ routeBreak cut skn (descStation cut d) ≠ none := by decide +kernel
/-- A CRC whose range lies outside every window. -/
theorem test_CopyFillDigest_crcStops :
    let d := run1 (raw0 6 0 0 0 0 0 1 0 0 0)
    running (devX d.b) 8191 63 6 = some d ∧ operand (devX d.b) d (dA d.b) (dLenA d.b) = .error stAccess ∧
    (operandNote (devX d.b) d (dA d.b) (dLenA d.b) stAccess).isSome = true := by decide +kernel
/-- A line of zeros is read whole; a line that nothing has written is poison. -/
theorem test_CopyFillDigest_poison :
    (spanPoison (descSpan (devX (raw0 7 0 0 0x1000000 0x1000FF0 0 64 512 0 0))
      (run1 (raw0 7 0 0 0x1000000 0x1000FF0 0 64 512 0 0)) 0 0 64).2).isSome = true ∧
    (spanPoison (descSpan { devX (raw0 7 0 0 0x1000000 0x1000FF0 0 64 512 0 0) with
        dram := [(0x18000, some { key := 1, idx := 0x18000, data := zeroLine })] }
      (run1 (raw0 7 0 0 0x1000000 0x1000FF0 0 64 512 0 0)) 0 0 64).2).isSome = false := by decide +kernel

def rekeyRaw : List Byte := raw0 12 0 0 0x17FFFFF 0 0 0 0 0 0
theorem test_ZeroTierRekey_premises :
    (∀ un ∈ [0, 1], readyAt (raw0 3 0 un 0 0x1000FC1 0 0 0 0 0) 0x1000FC1 0 0x1000FC1 0 = true) ∧
    (let raw := raw0 3 0 1 0 0x1000FC1 0 0x80 0 0 0
     let s := devX raw
     let a := agentLines s (descKey 8191 63) 0 0xFC1 0x80 true
     let b := agentReady (descKey 8191 63) 0 0 (spanLines 0xFC1 0x80) a.1 (0xFC1 / 64 * 64)
     operand s (run1 raw) (dB raw) (dLenA raw) = .ok (0, 0xFC1) ∧ a.2 = true ∧ b.2 = true ∧
     (agentReady (descKey 8191 63) 0 0 (spanLines (0xFC1 + 0x80) 0) b.1 (0x1041 / 64 * 64)).2 = true) ∧
    (∀ op ∈ [10, 11],
      let raw := raw0 op 0 0 0x1000000 0 0 0x1000 0 0 0
      let s := devX raw
      operand s (run1 raw) (dA raw) (dLenA raw) = .ok (0, 0) ∧ running s 8191 63 op = some (run1 raw) ∧
      spanLines 0 0x1000 / 64 = 1 ∧ underCursor s 0 (hankOff s 0 0) (pageNo 0) = false) := by decide +kernel
def rekeyDev : State := devX rekeyRaw
def rekeyDevM : State := { rekeyDev with wins := [(0, { win0 with mirror := 1, ms := .sync })] }
theorem test_ZeroTierRekey_free : rekeyFree rekeyDev 0 ∧ rekeyFree rekeyDevM 0 ∧ rekeyFree (mcAwake dev) 0 := by
  unfold rekeyFree
  exact ⟨by decide +kernel, by decide +kernel, by decide +kernel⟩
theorem test_ZeroTierRekey_rekey :
    running rekeyDev 8191 63 12 = some (run1 rekeyRaw) ∧ seatRange rekeyDev 0 (dA rekeyRaw) 1 = some (0, 0x7FFFFF) ∧
    (winSeats rekeyDev 0).contains 0 = true ∧ mirrorPrimary rekeyDev 0 = false ∧ mirrorPrimary rekeyDevM 0 = true ∧
    mcServed dev = true ∧ (winAt dev 0).size ≠ 0 := by decide +kernel

/-- The same with a context of zeros at 0x1004000. -/
def ctxDev (raw : List Byte) (st : Stored) : State := { devX raw with
  dram := (List.range 64).map fun i => (0x18100 + i, some { st with idx := 0x18100 + i }) }
theorem test_StreamOps_plain :
    ∀ op ∈ [4, 5],
      readyAt (raw0 op 0 0x41 0x1000000 0x1001000 0 64 64 0 0) 0x1000000 64 0x1001000 64 = true ∧
      dCtx (raw0 op 0 0x41 0x1000000 0x1001000 0 64 64 0 0) = none := by decide +kernel
def ctxRaw (op p0 : Nat) : List Byte := raw0 op 0 p0 0x1000000 0x1001000 0x1004001 64 64 0 0
def ctxSpan (op p0 : Nat) (st : Stored) : State × List (Option (List Byte)) :=
  let s := ctxDev (ctxRaw op p0) st
  descSpan (agentPrepare s (descKey 8191 63) 0 0x4000 4096 0).1 (run1 (ctxRaw op p0)) 0 0x4000 4096
theorem test_StreamOps_context :
    let s := ctxDev (ctxRaw 4 0x41) { key := 1, data := zeroLine }
    let r := ctxSpan 4 0x41 { key := 1, data := zeroLine }
    dCtx (ctxRaw 4 0x41) = some 0x1004000 ∧ dCtx (ctxRaw 5 0x41) = some 0x1004000 ∧
    operand s (run1 (ctxRaw 4 0x41)) 0x1004000 4096 = .ok (0, 0x4000) ∧
    (agentPrepare s (descKey 8191 63) 0 0x4000 4096 0).2 = true ∧
    (spanPoison r.2).isSome = false ∧ ctxRefused r.1 (spanBytes r.2 0x4000 4096) = false ∧
    ctxDiffers (spanBytes r.2 0x4000 4096) (streamOp (ctxRaw 4 0x41) true) = false ∧
    (streamOp (ctxRaw 4 0x41) true).fmt = 0 := by decide +kernel
theorem test_StreamOps_contextPoison :
    (spanPoison (ctxSpan 5 0x41 { poison := true }).2).isSome = true := by decide +kernel
/-- A context of another version is refused. -/
theorem test_StreamOps_refused :
    (let r := ctxSpan 4 0x41 { key := 1, data := le 2 2 ++ List.replicate 62 0 }
     (spanPoison r.2).isSome = false ∧ ctxRefused r.1 (spanBytes r.2 0x4000 4096) = true) := by decide +kernel
/-- A first use with a history of 32,768 bytes at 0x1010000. -/
def histLine : List Byte := List.replicate 0x28 0 ++ le 8 0x1010000 ++ List.replicate 8 0 ++ [15, 0, 0, 0, 0, 0, 0, 0]
theorem test_StreamOps_history :
    let r := ctxSpan 5 0x50 { key := 1, data := histLine }
    let ctx := spanBytes r.2 0x4000 4096
    fld 0x50 5 4 = 1 ∧ (spanPoison r.2).isSome = false ∧ ctxRefused r.1 ctx = false ∧
    ctxDiffers ctx (streamOp (ctxRaw 5 0x50) false) = false ∧ (streamOp (ctxRaw 5 0x50) false).fmt = 1 ∧ (ctxOf ctx).histLog = 15 ∧ operand r.1 (run1 (ctxRaw 5 0x50)) (numAt ctx 0x28 8) (2 ^ 15) = .ok (0, 0x10000) ∧
    (agentPrepare r.1 (descKey 8191 63) 0 0x10000 (2 ^ 15) 0).2 = true := by decide +kernel

/-- SCAN of 9 one-byte elements from element 8 on, with and without a selection, into a list or a bitmap. -/
def scanRaw (p c : Nat) : List Byte := raw0 8 0 p 0x1000000 0x1001000 c (8 * 2 ^ 32 + 9) 4 0 0
theorem test_ScanAndGather_scan :
    ∀ p ∈ [0x80, 0], ∀ c ∈ [0, 0x1002001],
      let raw := scanRaw p c
      let s := devX raw
      let d := run1 raw
      let u := agentLines s d.k 0 8 1 false
      let v := agentPrepare u.1 d.k 0 0x1000 (if bitOf p 7 then 4 else 1) 0
      running s 8191 63 8 = some d ∧ operand s d (dA raw) 9 = .ok (0, 0) ∧ operand s d (dB raw) 4 = .ok (0, 0x1000) ∧
      telemetryMet s 0 0x1000 4 = false ∧ fld (dLenA raw) 31 0 = 9 ∧ fld (dLenA raw) 63 32 = 8 ∧ u.2 = true ∧ v.2 = true ∧
      (bitOf (dC raw) 0 = true → operand s d (dC raw - 1) 2 = .ok (0, 0x2000) ∧ (agentLines v.1 d.k 0 0x2001 1 false).2 = true) := by
  decide +kernel
/-- GATHER of element 8 by a list or by a bitmap of positions. -/
def gatherRaw (p : Nat) : List Byte := raw0 9 0 p 0x1000000 0x1001000 0x1002000 (8 * 2 ^ 32 + 9) 1 0 0
def gatherDev (p : Nat) : State := { devX (gatherRaw p) with
  dram := [(0x18080, some { key := 1, idx := 0x18080, data := List.replicate 64 1 })] }
theorem test_ScanAndGather_gather :
    ∀ p ∈ [0x80, 0],
      let raw := gatherRaw p
      let s := gatherDev p
      let d := run1 raw
      let cl := if bitOf p 7 then 2 else 36
      let lo := if bitOf p 7 then 1 else 32
      let u := agentLines s d.k 0 (0x2000 + lo) (cl - lo) false
      let v := agentPrepare u.1 d.k 0 0x1000 1 0
      running s 8191 63 9 = some d ∧ operand s d (dA raw) 1 = .ok (0, 0) ∧ operand s d (dB raw) 1 = .ok (0, 0x1000) ∧
      operand s d (dC raw) cl = .ok (0, 0x2000) ∧ u.2 = true ∧ v.2 = true ∧ telemetryMet s 0 0x1000 1 = false ∧
      (descSpan v.1 d 0 (0x2000 + lo) (cl - lo)).2 = [some (List.replicate 64 1)] := by decide +kernel
theorem test_StreamOps_histPut :
    (histPut (ctxDev (ctxRaw 5 0x50) { key := 1, data := histLine }) (descKey 8191 63) 0 0x10000 { histLog := 15 } 0 0 []).2 = true := by
  decide +kernel
/-- A framed column of two records (R157): 4 zero bytes, then 5 stored bytes. -/
def framedRaw : List Byte := raw0 8 16 0x80 0x1000000 0x1001000 0 (8 * 2 ^ 32 + 9) 4 0 0
def framedDev : State := { devX framedRaw with
  dram := [(0x18000, some { key := 1, idx := 0x18000, data := [0, 0, 4, 0, 5, 0, 5, 0, 1, 2, 3, 4, 5] ++ List.replicate 51 0 })] }
theorem test_ScanAndGather_framed :
    bitOf (dFlags framedRaw) 4 = true ∧
    (let u := agentLines framedDev (descKey 8191 63) 0 0 1 false
     u.2 = true ∧
     (let f := (scanPlz 0 (windowEnd u.1 0) 9 (run1 framedRaw) 10 u.1 0 []).2
      f.wait = none ∧ f.st = stOk ∧ f.out = [0, 0, 0, 0, 1, 2, 3, 4, 5])) := by decide +kernel
theorem test_ScanAndGather_elements :
    let s := gatherDev 0
    seatRange s 0 (0x1000000 + 8) 1 = some (0, 8) ∧ (agentLines s (descKey 8191 63) 0 8 1 false).2 = true ∧
    unanswered s (run1 (gatherRaw 0)) 0 8 1 = false := by decide +kernel

/-! Channels, scrubbing, QoS, the fabric, seats and windows. -/

def devCh (x : Chan) : State := { devD with chans := [(15, x)] }
theorem test_ChannelPeriods_premises :
    (chAt (devCh { st := .online }) 15).st = .online ∧ (chAt (devCh { st := .training }) 15).st ≠ .absent ∧
    (chAt (devCh { st := .training }) 15).st ≠ .failed ∧
    (∀ st ∈ [ChState.online, .offline, .selfref],
      ((chAt (devCh { st := st }) 15).st = .online ∨ (chAt (devCh { st := st }) 15).st = .offline ∨
        (chAt (devCh { st := st }) 15).st = .selfref)) ∧
    (let top := fun (l : List Nat) => l.foldl max 0
     let hot := fun (x : Chan) (l : List Nat) => if false = true ∨ 85 < top l then true else if top l ≤ 83 then false else x.hot
     hot {} [86] ≠ ({} : Chan).hot ∧ hot {} [84] = ({} : Chan).hot ∧ hot { hot := true } [84] = true ∧
     hot { hot := true } [83] ≠ true) ∧
    (let e : Merge := { line := 5, mask := 1, data := [], at_ := 0, qc := 0, key := 1, gen := 0, dla := 0, seat := 0 }
     let s := devCh { st := .online, merge := [e] }
     (chAt s 15).merge.find? (fun e => e.line == 5) = some e ∧ chOnline s 15 = true) := by decide +kernel

/-- A request of QC 0 and one of QC 15 wait in channel 0. -/
def qent (ord line qc : Nat) (write : Bool) : Qent :=
  { ord := ord, line := line, qc := qc, write := write, seat := 0, start := 0, entry := none }
def chan0 : Chan :=
  { st := .online, rq := [qent 1 0x18000 15 false, qent 2 0x18001 0 false], wq := [qent 3 0x18002 15 true] }
def devI : State := { devD with chans := [(0, chan0)] }
def dimm0 : Dimms :=
  { slot0 := true, slot1 := false, mrdimm := false, x4 := true, matched := true, densCode := 0, heightLog := 0, ranksLog := 0,
    rates := [0], trfc := 295, rfmNeeded := false, capGib := 32 }
def devTr (x : Chan) (r : Rate) : State := { dev with chans := [(15, { x with dimms := some dimm0 })], rate := r }
theorem test_ChannelWork_premises :
    (let u := modCh devI 0 fun x => { x with drain := drainNow devI 0 }
     chOnline devI 0 = true ∧ qThrottled u (qent 2 0x18001 0 false) = false ∧
     pickIssue u 0 [0x18000, 0x18001, 0x18002] = some (qent 2 0x18001 0 false, false) ∧
     (pickIssue u 0 [0x18002]).map (·.1) = some (qent 3 0x18002 15 true)) ∧
    (regServed dev .ctrl (chBase 15 + 0x24) = true ∧ regServed dev .ctrl (chBase 0 + 0x40) = true) ∧
    ((chAt (devTr { st := .training, busy := true, step := 6 } {}) 15).busy = true ∧ lastStep { dimms := some dimm0 } = 7 ∧
     lastStep { dimms := some { dimm0 with mrdimm := true } } = 8 ∧ (6 : Nat) < 7 ∧ (2 : Nat) ≤ 2 ∧ (1 : Nat) < 2) ∧
    (({ dev with boot := { dev.boot with phase := .training }, chans := [(0, { st := .absent })] } : State).boot.phase = .training ∧
     (∀ e ∈ ([(0, { st := .absent })] : List (Nat × Chan)), e.2.st = .absent)) ∧
    (let s := devTr { st := .offline, lastRes := 0 } { busy := true, target := 1 }
     s.rate.busy = true ∧ (∀ c ∈ rateChans s, rateOutcome s [] c ≠ none) ∧ s.rate.stored = none) ∧
    (let s := devTr { st := .offline, busy := true } { busy := true, target := 1 }
     rateChans s = [15] ∧ rateOutcome s [(15, false)] 15 = some false ∧ rateOutcome s [] 15 = none) := by decide +kernel

def scrubRaw : List Byte := raw0 13 0 0 0x1000000 0x1001000 0 64 64 0 0
theorem test_ScrubAndErrors_start :
    let s := devX scrubRaw
    running s 8191 63 13 = some (run1 scrubRaw) ∧ operand s (run1 scrubRaw) (dA scrubRaw) (dLenA scrubRaw) = .ok (0, 0) ∧
    operand s (run1 scrubRaw) (dB scrubRaw) (dLenB scrubRaw) = .ok (0, 0x1000) ∧ telemetryMet s 0 0x1000 64 = false ∧
    passOf s (.ring 8191 63) = none := by decide +kernel
/-- A pass by `by_` whose next line backs page 0 of window 1. -/
def pass0 (by_ : ScrubBy) (rest : List (Nat × Nat × List Nat)) : Pass := { by_ := by_, todo := rest, start := 0 }
def devScr (x : Stored) (p : Pass) : State := { devH none with dram := [(1024 * 64, some x)], passes := [p] }
def badDev (n : Nat) : List Byte := [1, 2] ++ List.replicate 6 0 ++ List.replicate n 5
def correctedBy : RsResult → Option Nat
  | .corrected d _ => some d
  | _ => none
theorem test_ScrubAndErrors_line :
    let line := (1024 * 64, 0x2000000, [])
    let s := devScr {} (pass0 .island [line])
    (livePasses s).passes = [pass0 .island [line]] ∧ backs (livePasses s) (1024 * 64) 0x2000000 = true ∧
    backs (livePasses s) (1024 * 64 + 1) 0x2000000 = false ∧ (geoOf (livePasses s) (1024 * 64)).isSome = false ∧
    (let v := casLine (flushLine (modPass (livePasses s) fun p => { p with todo := [], lines := p.lines + 1 }) (1024 * 64) [])
       (1024 * 64) false 15 1024
     let r := fun (noise : List Byte) => (decodeStored (scrubStored v (1024 * 64) 0x2000000) noise).2
     r [] = .clean ∧ r [1, 2, 3, 4, 5, 6, 7, 8, 1] = .uncorrectable ∧
     correctedBy (r [9]) = some 8) := by decide +kernel
theorem test_ScrubAndErrors_verify :
    let p : Pass := { pass0 .island [] with verify := some (1024 * 64, 0x2000000, [], 9, 1) }
    (livePasses (devScr {} p)).passes = [p] ∧ p.cancelled = false ∧ backs (livePasses (devScr {} p)) (1024 * 64) 0x2000000 = true ∧
    ({ p with cancelled := true } : Pass).verify = p.verify ∧ ({ p with cancelled := true } : Pass).cancelled = true ∧
    p.fix = none := by
  decide +kernel
theorem test_ScrubAndErrors_write_back :
    let p : Pass := { pass0 .island [] with verify := some (1024 * 64, 0x2000000, [], 9, 1), fix := some {} }
    let c : Pass := { p with cancelled := true }
    (livePasses (devScr {} p)).passes = [p] ∧ p.cancelled = false ∧ p.fix = some {} ∧
    backs (livePasses (devScr {} p)) (1024 * 64) 0x2000000 = true ∧
    (livePasses (devScr {} c)).passes = [c] ∧ c.fix = some {} ∧ c.cancelled = true := by decide +kernel
/-- R263: a write accepted between the scrub read and the write-back leaves the line's record SUPERSEDED. -/
theorem test_scrub_superseded :
    let p : Pass := { pass0 .island [] with verify := some (1024 * 64, 0x2000000, [], 9, 1), fix := some {}, cancelled := true }
    (match exec (.scrubLine []) (devScr {} p) with
     | .next t => t.passes.flatMap fun q => [q.corr, b2n q.verify.isNone] ++ q.recs.map (·.kind)
     | _ => []) = [1, 1, 5] := by decide +kernel
theorem test_ScrubAndErrors_ends :
    (∀ by_ ∈ [ScrubBy.island, .mailbox fn0],
      (livePasses (devScr {} (pass0 by_ []))).passes = [pass0 by_ []]) ∧
    (let p := pass0 (.ring 8191 63) []
     let s : State := { devX scrubRaw with passes := [p] }
     (livePasses s).passes = [p] ∧ running (livePasses s) 8191 63 13 = some (run1 scrubRaw) ∧
     operand (livePasses s) (run1 scrubRaw) (dB scrubRaw) (dLenB scrubRaw) = .ok (0, 0x1000) ∧ telemetryMet (livePasses s) 0 0x1000 64 = false ∧
     (agentPrepare (livePasses s) (descKey 8191 63) 0 0x1000 (summary (livePasses s) p 64).1.length 0).2 = true) := by
  decide +kernel
theorem test_ScrubAndErrors_faults :
    regServed dev .ctrl (chBase 15 + 0x8024) = true ∧
    trkAt { dev with trk := [(24575, some (trk0 .wr 0 .issued))] } 24575 = some (trk0 .wr 0 .issued) ∧
    (slotAt dev 0).st ≠ .free ∧ 16383 < 16384 ∧ 15 < 16 := by decide +kernel

def devBud (v : Word) (adm : Nat) : State := { dev with qos := { adm := adm }, regs := [(qosBase + 4 + 8 * 15, v)] }
theorem test_BudgetsAndQos_premises :
    regServed dev .ctrl (qosBase + 4 + 8 * 15) = true ∧
    (bitOf (0x80000000#32 : Word).toNat 31 && fld (0x80000000#32 : Word).toNat 13 0 == 0) = true ∧
    ((devBud 0 4).qos.adm < guarSum (setReg (devBud 0 4) (qosBase + 4 + 8 * 15) 0x80000005#32)) ∧
    ¬ ((devBud 0 5).qos.adm < guarSum (setReg (devBud 0 5) (qosBase + 4 + 8 * 15) 0x80000005#32)) ∧
    mcServed dev = true ∧ (seatAt dev 0).state ≠ .none ∧
    (let s : State := { dev with now := 1999999, seats := [(0, { seat0 with loads := [(1000000, 2), (999999, 3)] })] }
     ((seatAt s 0).loads.filter fun x => decide (s.now < x.1 + 1000000)).map (·.2) = [2]) ∧
    ((seatAt dev 0).loads.filter fun x => decide (dev.now < x.1 + 1000000)).map (·.2) = [] := by decide +kernel

def devSt (n : Nat) (x : Station) (f : Fabric) : State := { dev with stations := [(n, x)], fabric := f }
theorem test_FabricSteps_premises :
    (stAt dev 47).linkFail.getLsbD 3 = false ∧
    (stAt (devSt 47 { shadowV := true } { busy := true }) 47).shadowV = true ∧
    (let s := devSt 47 {} { busy := true, flipped := true }
     s.fabric.busy = true ∧ s.fabric.flipped = true ∧ s.fabric.switched = false) ∧
    oldHeld (devSt 47 {} { busy := true, flipped := true, switched := true }) = false ∧
    (portDom 47 0).isSome = true ∧ isDead (devSt 47 { dead := 1 } {}) 47 0 = true ∧ isDead dev 47 0 = false ∧
    (let d := (portDom 0 0).getD 0
     let off : State := { dev with doms := [(d, { st := .off })] }
     let nap : State := { devSt 0 { fenced := 1, bq0 := List.replicate 31 (none, false) } {} with doms := [(d, { st := .nap })] }
     portDom 0 0 = some d ∧ (domAt off d).st = .off ∧ isDead off 0 0 = false ∧
     (domAt nap d).st ≠ .off ∧ (stAt nap 0).fenced.getLsbD 0 = true ∧ (bqOf (stAt nap 0) 0).length < 32) ∧
    (hasEndpoint 0 3 = true ∧ isDead dev 0 3 = false ∧ holds dev 0 3 = false) ∧ hasEndpoint 47 0 = true := by decide +kernel

theorem test_SeatAndWindowStates_premises :
    regServed dev .ctrl (seatwinBase + 0x1C) = true ∧ regServed dev .ctrl (seatwinBase + 0x0C) = true ∧
    (∀ st ∈ [WinState.disabled, .disabling, .online],
      (winAt { dev with wins := [(4095, { win1 with state := st })] } 4095).state = st) ∧
    emptied dev = false ∧ emptied { dev with img := { dev.img with sanitized := true } } = true ∧
    (∀ st ∈ [SeatState.disabled, .disabling, .attached, .suspect, .detached],
      (seatAt { dev with seats := [(1023, { seat0 with state := st })] } 1023).state = st) ∧
    (∀ st ∈ [SeatState.disabling, .attached, .suspect],
      let s : State := { dev with links := [], seats := [(1023, { seat0 with state := st, lostAt := some 0 })] }
      (seatAt s 1023).lostAt = some 0 ∧ seatUp s 1023 = false ∧
        ((seatAt s 1023).state = .attached ∨ (seatAt s 1023).state = .suspect ∨ (seatAt s 1023).state = .disabling)) ∧
    (∀ c ∈ [DrainCause.sanitize, .enable],
      let s : State := { dev with wins := [(4095, { win1 with state := .disabling, cause := some c })] }
      winDrained s 4095 = true ∧ (winAt s 4095).state = .disabling ∧ (winAt s 4095).cause = some c) ∧
    (let s : State := { dev with wins := [(4095, { win1 with sendHand := true, mirror := 1, ms := .sync })] }
     winDrained s 4095 = true ∧ (winAt s 4095).state ≠ .disabling ∧ (winAt s 4095).sendHand = true ∧ fwdsDone s 4095 = true) := by
  decide +kernel

/-- Window 2 is a Dynamic Capacity window of two blocks, DLA blocks 2 and 3. -/
def devBk (st : Nat) (answer : Option Cci) : State := { dev with
  ledger := { p := 1024 }, nextExt := 1, blocks := [(2, { st := st, seat := 0, win := 2, answer := answer })] }
def ext2 : List Extent := [{ first := 0, count := 1 }]
theorem test_DynamicCapacity_premises :
    mcServed dev = true ∧ extBlocks dev 2 ext2 = some [2] ∧ extBlocks dev 2 [{ first := 1, count := 1 }] = some [3] ∧
    extBlocks dev 2 [{ first := 1, count := 2 }] = none ∧ dcUsable dev 2 = true ∧ reaches dev 0 2 = true ∧ [2].Nodup ∧
    (blockAt dev 2).st = 0 ∧ (winAt dev 2).mirror = 0 ∧
    ledgerTry (mcAwake dev) (numberExts 2 0 1 ext2 (mcAwake dev)).blocks ≠ 0 ∧
    (let s : State := { dev with ledger := { p := 1024 } }
     ledgerTry (mcAwake s) (numberExts 2 0 1 ext2 (mcAwake s)).blocks = 0) ∧
    (let s : State := { devM with ledger := { p := 1024 }, wins := [(2, { win2 with mirror := 1, ms := .sync })] }
     (winAt s 2).ms = .sync ∧ (winAt s 2).mirror ≠ 0 ∧
     ledgerTry (mcAwake s) (numberExts 2 0 4 ext2 (mcAwake s)).blocks = 0 ∧
     (let v := ledgerPut (numberExts 2 0 4 ext2 (mcAwake s))
      portFor v (.ledger v.pair.nextTag 2 ext2) = some 0)) ∧
    (let c := Cci.mailbox fn0
     cciServed (devBk 1 none) c = true ∧
     ((devBk 1 none).blocks.filter fun e => e.2.win == 2 && e.2.st == 1 && cciBlock (devBk 1 none) c e.2).map (·.1) = [2] ∧
     (blockAt (devBk 2 none) 2).st = 2 ∧ cciBlock (devBk 2 none) c (blockAt (devBk 2 none) 2) = true) ∧
    (((devBk 3 none).blocks.filter fun b => b.2.win == 2 && b.2.st == 3) ≠ [] ∧ blockDrained (devBk 3 none) 2 = true) := by
  decide +kernel

/-! The ply, mirrored windows, images. -/

def hdr (seq txc : Nat) : PlyHdr :=
  { seq := BitVec.ofNat 16 seq, ack := 0xFFFF#16, len := 64, credReq := 0, credRsp := 0, txc := txc, crcOk := true, tagOk := true }
def plyUp1 : Ply := { st := .up, txWidth := 16, rxWidth := 16, maxWidth := 16, credReq := 64, credRsp := 64, rxTxc := some 9 }
def devY (x : Ply) : State := { devM with ply := [(1, x)] }
theorem test_PlyPackets_premises :
    (let s := devY plyUp1
     plyNext s 1 (hdr 0 10) = true ∧ plyNext s 1 (hdr 1 10) = false ∧ (plyAt s 1).st = .up ∧
     (plyAt s 1).rxTxc.all (fun t => decide (t < 10)) = true ∧ ¬ ((plyAt s 1).rxTxc.all (fun t => decide (t < 9)) = true) ∧
     ({ hdr 0 10 with crcOk := false } : PlyHdr).crcOk = false) ∧
    ((plyAt (devY { plyUp1 with st := .pairing, step := 6 }) 1).step = 6) ∧
    (let x := { plyUp1 with st := .pairing, step := 2 }
     (plyAt (devY x) 1).st = .pairing ∧ x.step ≠ 6 ∧ x.frags.length = 0 ∧ (x.frags ++ [[]]).length < 2 ∧
     1 ≤ (x.frags ++ [[]]).length) ∧
    (let v := plyTaken (devY { plyUp1 with lane := some (1, 8) }) 1 (hdr 0 10) true false
     (plyAt v 1).lane = some (1, 8)) := by decide +kernel

theorem test_PlyPortSteps_premises :
    (∀ st ∈ [PlySt.training, .down],
      let s : State := { devY { st := st } with img := { dev.img with secs := [(1, [0, 0, 0, 0, 0, 3, 0, 0])] } }
      plyEnabled s 1 = true ∧ ((plyAt s 1).st = .training ∨ (plyAt s 1).st = .down) ∧ s.boot.refLost.getLsbD 5 = false ∧
        domAwake s 25 = true) ∧
    (∀ n ∈ [2, 3, 4], (plyAt (devY { st := .pairing, step := n }) 1).step = n) ∧
    (plyAt (devY { st := .authFail }) 1).st = .authFail ∧
    (plyAt (devY { plyUp1 with timer := some 5, unackAt := some 6 }) 1).timer = some 5 ∧
    (plyAt (devY { plyUp1 with timer := some 5, unackAt := some 6 }) 1).unackAt = some 6 ∧
    regServed dev .ctrl (plyBase 1 + 4) = true := by decide +kernel

/-- Window 0 is the secondary of a pair; both ends have window 2 as well. -/
def devZ (ms : MState) : State := { devY plyUp1 with
  wins := [(0, { win0 with mirror := 1, secondary := true, ms := ms }),
           (2, { win2 with mirror := 1, secondary := true, ms := ms })]
  slots := [(0, { st := .active, cur := 1, gen := 15 }), (2, { win := 2, st := .active, cur := 3, newKey := some 7 })] }
theorem test_MirrorControl_premises :
    plyNext (devZ .sync) 1 (hdr 0 10) = true ∧
    (let v := plyTaken (devZ .degraded) 1 (hdr 0 10) false false
     isSecondary v 0 = true ∧ (winAt v 0).ms = .degraded) ∧
    isSecondary (plyTaken (devZ .resync) 1 (hdr 0 10) false false) 0 = true ∧
    (winAt (plyTaken (devZ .resync) 1 (hdr 0 10) false false) 0).ms = .resync := by decide +kernel

theorem test_MirrorRequests_premises :
    (let v := plyTaken (devZ .sync) 1 (hdr 0 10) false false
     plyNext (devZ .sync) 1 (hdr 0 10) = true ∧ isSecondary v 0 = true ∧ (slotOf v 0).st = .active ∧
     (slotOf v 0).gen = 15 ∧ (15 + 1) % 16 = 0 ∧ 0 ≠ (slotOf v 0).gen ∧
     isSecondary v 2 = true ∧ (slotOf v 2).newKey = some 7 ∧ (winAt v 2).dc = true ∧ ext2 ≠ [] ∧
     extBlocks v 2 ext2 = some [2] ∧ (blockAt v 2).st = 0 ∧ ledgerTry v (numberExts 2 0 1 ext2 v).blocks ≠ 0) ∧
    (let v := plyTaken { devZ .sync with ledger := { p := 1024 } } 1 (hdr 0 10) false false
     ledgerTry v (numberExts 2 0 1 ext2 v).blocks = 0) := by decide +kernel

def fwd0 : Fwd := { port := 1, seq := 65535, win := 0, hank := 0, at_ := 0, entry := none }
def devPair (f : List Fwd) (o : List (Nat × PeerOp)) : State := { devY plyUp1 with pair := { fwds := f, ops := o } }
theorem test_MirrorAnswers_premises :
    (let v := plyTaken (devPair [fwd0] []) 1 (hdr 0 10) true false
     plyNext (devPair [fwd0] []) 1 (hdr 0 10) = true ∧
     (v.pair.fwds.find? fun f => f.port == 1 && f.seq == BitVec.toNat 65535#16) = some fwd0) ∧
    (∀ o ∈ [(1, PeerOp.keyset 0 65535), (1, PeerOp.metaRec 0 0 0 65535 none)],
      let v := plyTaken (devPair [] [o]) 1 (hdr 0 10) true false
      (v.pair.fwds.find? fun f => f.port == 1 && f.seq == BitVec.toNat 65535#16) = none ∧
        (v.pair.ops.find? fun o => o.1 == 1 && opSeq o.2 == some (65535#16).toNat) = some o) ∧
    (∀ o ∈ [(1, PeerOp.ledger 65535 2 ext2 0 .island), (1, PeerOp.rekey 65535 0), (1, PeerOp.pread 65535)],
      let v := plyTaken (devPair [] [o]) 1 (hdr 0 10) true false
      (v.pair.ops.find? fun o => opTag o.2 == some 65535) = some o) ∧
    ({ batchUsed := true } : Pair).batchUsed = true := by decide +kernel

theorem test_PromotionAndResync_premises :
    (∀ ms ∈ [MState.sync, .resync],
      let s : State := { devPair [fwd0] [] with wins := [(0, { win0 with mirror := 2, ms := ms })] }
      (s.pair.fwds.find? fun f => f.win == 0 && !f.rs) = some fwd0 ∧ (winAt s 0).mirror = 2 ∧ (winAt s 0).ms = ms) ∧
    (let s : State := { devZ .degraded with ply := [] }
     let ok := fun (w : Nat) => (winAt s w).mirror != 0 && ((winAt s w).secondary || (winAt s w).waitHand)
     mcServed s = true ∧ s.boot.partH = true ∧ pairUp s = false ∧ ((mirroredWins s).filter ok).all ok = true ∧
     [2].all ok = true ∧ s.img.rw.isSome = false ∧ s.pair.rebuild = false ∧ [1].all ok = false) ∧
    ({ rebuild := true } : Pair).rebuild = true ∧ dev.acts = [] ∧
    (let s : State := { devY plyUp1 with
       wins := [(0, { win0 with mirror := 1, ms := .resync })], hanks := [(hankKey 0 3, some { dirty := true })] }
     mirrorPrimary s 0 = true ∧ pairUp s = true ∧ (winAt s 0).ms = .resync ∧ (hankAt s 0 3).dirty = true) := by decide +kernel

theorem test_ImageLoad_premises :
    (({ dev with boot := { dev.boot with phase := .image } } : State).boot.phase = .image ∧ dev.img.req = none) ∧
    (mcServed dev = true ∧ dev.boot.phase = .run ∧ bgRuns (mcAwake dev) = false ∧ lcRuns (mcAwake dev) = false ∧
     bgRuns (mcAwake { dev with mgmt := { bg := some (.erase .mctp) } }) = true) ∧
    (∀ src ∈ [ImgFrom.boot 1 none, .boot 1 (some irOk), .admin, .island, .full 0],
      ({ dev.img with req := some { image := [], src := src, since := 0 } } : Img).req.map (·.src) = some src) ∧
    State.reset.keys.trngOk = false := by decide +kernel

def rw0 (step : RwStep) (micro : Bool) : Reweave :=
  { step := step, secs := [], digest := [], imgId := 1, svn := 0, advSvn := false, seats := [5], wins := [7], rings := [8191],
    added := [(9, 9, 9)], micro := micro, mbx := true }
def devW (r : Reweave) (f : Fabric) : State := { devD with img := { dev.img with rw := some r }, fabric := f }
theorem test_ReweaveSteps_request :
    mcUp dev = true ∧ dev.img.st ≠ .none ∧ isAdminFn dev fn0 = true ∧ domShut dev 2 = false ∧ domShut dev 1 = false ∧
    adminSeat dev = some 0 ∧ (devW (rw0 .removing false) {}).img.rw.isSome = true ∧ dev.img.rw = none ∧ dev.img.req = none ∧
    seatRange dev 0 ((0#32 : Word).toNat + (1#32 : Word).toNat * 0x100000000) 64 = none ∧
    (let s := devN zeroLine
     let a := agentLines (agentOpen s imgAgent) imgAgent 0 0 64 false
     seatRange s 0 ((0x1000000#32 : Word).toNat + (0#32 : Word).toNat * 0x100000000) 64 = some (0, 0) ∧
     accessStatus s 0 0 64 s.stamp = stOk ∧ 64 ≤ 0x400000 ∧ a.2 = true ∧ spanPoison (agentSpan a.1 0 0 64 15 1024).2 = none ∧
     (spanPoison (agentSpan a.1 0 64 64 15 1024).2).isSome = true) := by decide +kernel
theorem test_ReweaveSteps_steps :
    mcServed dev = true ∧
    (∀ m ∈ [true, false],
      let r := rw0 .removing m
      (devW r {}).img.rw = some r ∧ r.step = .removing ∧ removalDone (devW r {}) r = true ∧ r.micro = m) ∧
    ((rw0 .microcode true).step = .microcode ∧ (∀ e ∈ (devW (rw0 .microcode true) {}).spn, e.2.slots = [])) ∧
    ((rw0 .flipping true).step = .flipping ∧ (devW (rw0 .flipping true) { flipped := true }).fabric.flipped = true) ∧
    ((rw0 .retiring true).step = .retiring ∧ (devW (rw0 .retiring true) {}).fabric.busy = false) := by decide +kernel

/-! Power, links, resets, the supervisor, management and counters. -/

/-- Domain 25 (PP1) in a group of its own, allowed DOZE. -/
def devG (st : DomSt) (w : List (Nat × Bool)) : State := { devM with
  doms := [(25, { st := st, deepest := 3, idleAt := some 0 })], power := { dev.power with waiting := w }
  regs := [(pwrBase + 0x80 + 4 * 25, 0x30000003)] }
def trans0 (step : Nat) (members accepted fenced stopped : List Nat) : Trans :=
  { wake := false, members := members, group := 15, doze := true, step := step, at_ := 0, accepted := accepted, fenced := fenced,
    stopped := stopped }
def devTn (t : Trans) : State := { devG .idle [] with power := { dev.power with trans := some t } }
theorem test_SleepSteps_asks :
    ((domAt dev 25).st = .run ∧ outstanding dev 25 = false) ∧
    (let s := devG .idle [(25, false)]
     transFree s = true ∧ membersOf s 25 = [25] ∧ domAwake s 25 = true ∧ ctlKey s 25 = 25 ∧
     s.power.waiting.contains (ctlKey s 25, false) = true) ∧
    (let s := devG .idle []
     s.power.waiting.contains (ctlKey s 25, false) = false ∧ 2 ≤ askedState s 25 false ∧ (domAt s 25).st = .idle) ∧
    (∀ reg ∈ ([.inl 25, .inr 7] : List (Fin 26 ⊕ Fin 8)), regServed dev .ctrl (ctlOff reg) = true) := by decide +kernel
theorem test_SleepSteps_registers :
    (let u := regAwake (devG .idle []) .ctrl (ctlOff (.inl 25))
     regServed (devG .idle []) .ctrl (ctlOff (.inl 25)) = true ∧ grpOf u 25 = 15 ∧ membersOf u 25 = [25] ∧ domAwake u 25 = true ∧
     (let v := putCtlBit u (ctlReg u 25) 30 true
      transFree { v with power := { v.power with holdoff := tabSet 0 v.power.holdoff (ctlKey v 25) 0 } } = true)) ∧
    (let s := devG .nap []
     regServed s .ctrl (ctlOff (.inl 25)) = true ∧ domAsleep (regAwake s .ctrl (ctlOff (.inl 25))) 25 = true) := by decide +kernel
theorem test_SleepSteps_answers :
    (let t := trans0 2 [24, 25] [] [] []
     (meetWakes (devTn t)).power.trans = some t ∧ refuseReason (meetWakes (devTn t)) t.members t.doze 25 = none ∧
     ¬ (∀ x ∈ t.members, x ∈ t.accepted ++ [25]) ∧
     (refuseReason (meetWakes { devTn t with doms := [] }) t.members t.doze 25).isSome = true) ∧
    (let t := trans0 2 [24, 25] [24] [] []
     (meetWakes (devTn t)).power.trans = some t ∧ t.accepted.contains 25 = false ∧ ∀ x ∈ t.members, x ∈ t.accepted ++ [25]) ∧
    (let t := trans0 3 [24, 25] [24, 25] [] []
     (meetWakes (devTn t)).power.trans = some t ∧ t.late = none ∧ t.fenced.contains 25 = false ∧
     outstanding (meetWakes (devTn t)) 25 = false ∧
     (let s := devTn t
      let v : State := { s with ply := [(1, { plyUp1 with replay := [(0, .handover 0)] })] }
      (meetWakes v).power.trans = some t ∧ outstanding (meetWakes v) 25 = true) ∧
     refuseReason (meetWakes { devTn t with doms := [] }) t.members t.doze 25 = some 5) ∧
    (let t := trans0 4 [24, 25] [24, 25] [24, 25] []
     (meetWakes (devTn t)).power.trans = some t ∧ 25 ∈ t.fenced ∧ t.stopped.contains 25 = false ∧
     ∃ x ∈ t.members, x ∉ t.stopped ++ [25]) ∧
    (∀ late ∈ [none, some (24, 1)],
      let t := { trans0 4 [24, 25] [24, 25] [24, 25] [24] with late := late }
      (meetWakes (devTn t)).power.trans = some t ∧ (∀ x ∈ t.members, x ∈ t.stopped ++ [25]) ∧ t.late = late) := by
  decide +kernel

def wake0 (ready : List Nat) (again : Bool) : Trans :=
  { wake := true, members := [24, 25], group := 15, doze := true, step := 4, at_ := 0, ready := ready, again := again }
theorem test_WakesAndDvfs_premises :
    (∀ r ∈ [[], [24]], ∀ again ∈ [true, false],
      (devTn (wake0 r again)).power.trans = some (wake0 r again) ∧ (wake0 r again).ready.contains 25 = false ∧
        (wake0 r again).again = again ∧
        ((wake0 r again).members.filter fun x => !(wake0 r again).ready.contains x) ≠ []) ∧
    (∀ x ∈ (wake0 [24] true).members, x ∈ (wake0 [24] true).ready ++ [25]) ∧
    (∃ x ∈ (wake0 [] true).members, x ∉ (wake0 [] true).ready ++ [25]) ∧
    ((wake0 [] true).members.filter fun x => (wake0 [] true).ready.contains x) = [] ∧
    ((wake0 [24] true).members.filter fun x => (wake0 [24] true).ready.contains x) ≠ [] ∧
    regServed dev .ctrl (pwrBase + 0x130) = true ∧ dev.power.dvfs = none ∧
    (∀ q ∈ [(0, 3), (3, 0)], ∀ v ∈ [true, false],
      let p : Power := { dev.power with dvfs := some 2, op := q.1, target := q.2, voltOk := v, pllOk := v }
      p.dvfs = some 2 ∧ p.dvfs.isSome = true ∧ p.voltOk = v ∧ p.pllOk = v) ∧
    (0 : Nat) ≤ 3 ∧ (0 : Nat) < 3 ∧ ({ dev.power with dvfs := some 4 } : Power).dvfs = some 4 := by decide +kernel

def partner0 (rate : Nat) : Partner :=
  { maxRate := rate, flit68 := true, flit256 := true, lopt := true, width := 4, reversed := false, inverted := 0 }
def devL (l : Link) : State := { dev with ports := [(3, { bifSts := 2 })], links := [(linkKey 3 3, l)] }
theorem test_LinkSteps_premises :
    ((linkAt (devL {}) (linkKey 3 3)).up = false ∧ canTrain (devL {}) 3 3 (partner0 5) = true) ∧
    (linkAt (devL link0) (linkKey 3 3)).up = true ∧ link0.rate = 5 ∧ 2 ≤ link0.flit ∧ 16 ≤ link0.width ∧
    (canTrain (devL link0) 3 3 (partner0 5) = true ∧ (negotiate (devL link0) 3 (partner0 5)).2 ≠ 0) ∧
    (negotiate (devL link0) 3 { partner0 5 with flit68 := false, flit256 := false }).2 = 0 ∧ link0.mem = true ∧
    canTrain (devL link0) 3 3 { partner0 5 with width := 16 } = false ∧
    linkSession { devL link0 with fns := [(4096 * linkKey 3 3, { session := true })] } 3 3 = true ∧
    (let l := { link0 with ideMem := .active, ideLink := .active, ideSel := .active }
     l.ideMem = .active ∧ l.ideLink = .active ∧ l.ideSel = .active) := by decide +kernel

theorem test_Resets_premises :
    dev.sec.run = none ∧ ((.lowPowerLimit : BoSrc) = .lowPowerLimit → State.reset.power.ldoNormal = false) ∧
    bitOf (regN { dev with regs := [(mgmtBase + 0x10, 0x10000)] } (mgmtBase + 0x10)) 16 = true ∧ mcServed dev = true ∧
    regServed dev .ctrl (mgmtBase + 0x10) = true ∧
    ({ dev.boot with warmSince := some 3 } : Boot).warmSince = some 3 ∧ fnLive dev fn0 = true ∧ fnServed dev fn0 = true := by
  decide +kernel

theorem test_ResetControl_premises :
    regServed dev .ctrl 0x180 = true ∧ regServed dev (.fn fn0) 0x180 = true ∧
    fld (0x5B000003#32 : Word).toNat 31 24 ≠ 0x5A ∧ fld (0x5A000003#32 : Word).toNat 31 24 = 0x5A ∧
    bitOf (0x5A000003#32 : Word).toNat 1 = true ∧ bitOf (0x5A000001#32 : Word).toNat 1 = false ∧
    bitOf (0x5A000001#32 : Word).toNat 0 = true ∧ bitOf (0x5A000000#32 : Word).toNat 0 = false ∧
    bgRuns (regAwake dev .ctrl 0x180) = false ∧
    bgRuns (regAwake { dev with mgmt := { bg := some (.sanitize .mctp) } } .ctrl 0x180) = true := by decide +kernel

def devPh (p : Phase) (lost : BitVec 7) : State := { devY {} with
  boot := { dev.boot with phase := p, refLost := lost }, img := { dev.img with secs := [(1, [0, 0, 0, 0, 0, 3, 0, 0])] } }
theorem test_PowerUp_premises :
    State.reset.power.ldoReady = false ∧ (devPh .rails 0).boot.phase = .rails ∧ dev.boot.phase ≠ .rails ∧
    mainHeld (devPh .held 0) = true ∧ mainHeld (devPh .training 0) = false ∧ (devPh .training 0).boot.phase ≠ .run ∧
    (∀ r ∈ [RefClk.hp 3, .pp 1, .core], (devPh .run 0).boot.refLost.getLsbD (refBit r) = false ∧
      (devPh .run (BitVec.allOnes 7)).boot.refLost.getLsbD (refBit r) = true) ∧
    (plyAt (devY plyUp1) 1).st ≠ .down ∧ plyEnabled (devPh .run 0x7F) 1 = true ∧ (plyAt (devPh .run 0x7F) 1).st = .down ∧
    domAwake (devPh .run 0x7F) 25 = true ∧ (devPh .held 0x7F).boot.phase = .held := by decide +kernel

def devHs (h : Hsw) : State := { dev with hsw := h }
def read0 (vin vsn : Nat) : HswRead := { vin := vin, vout := 0, vgate := 0, vsn := vsn, temp := 50000 }
theorem test_HotSwapSteps_premises :
    ((devHs { vinOkAt := some 0 }).hsw.st = .off ∧ dev.power.ldoReady = true ∧ (devHs { vinOkAt := some 0 }).hsw.vinOkAt = some 0) ∧
    driving (devHs { st := .ramp }) = true ∧ driving (devHs { st := .on }) = true ∧ driving (devHs {}) = false ∧
    (let v := devHs { st := .ramp }
     vinIn true 10199 = false ∧ vinIn true 10200 = true ∧ vinIn true 13801 = false ∧ 2 * ilimUv v ≤ 2 * ilimUv v ∧
     2 * ilimUv v - 1 < 2 * ilimUv v ∧ faultUs (devHs { st := .on, timer := 65535 }) ≤ 65535 ∧ v.hsw.timer < faultUs v ∧
     degC (fld (hswFet v) 23 16) < (devHs { t := degC 200 }).hsw.t) ∧
    (devHs { st := .on, timing := true }).hsw.timing = true ∧ (devHs { st := .ramp }).hsw.timing = false ∧
    (devHs { st := .trip }).hsw.t ≤ degC (fld (hswFet (devHs { st := .trip })) 31 24) ∧
    degC (fld (hswFet (devHs { st := .trip, t := degC 200 })) 31 24) < (devHs { st := .trip, t := degC 200 }).hsw.t ∧
    (devHs { st := .trip, tries := 7 }).hsw.tries ≤ retries { dev with regs := [(hswBase, 7)] } ∧
    retries dev < (devHs { st := .trip, tries := 8 }).hsw.tries := by decide +kernel
/-- R385: a good sample in RAMP, the thousandth and the one after it, and one without power-good. -/
theorem test_HotSwapSteps_ramp :
    let r : HswRead := { vin := 12000, vout := 12000, vgate := 20000, vsn := 0, temp := 30000 }
    (∀ n ∈ [999, 1000], let v := devHs { st := .ramp, good := n }
      driving v = true ∧ vinIn true r.vin = true ∧ r.vsn < 2 * ilimUv v ∧ v.hsw.timer < faultUs v ∧
      v.hsw.t ≤ degC (fld (hswFet v) 23 16) ∧ pgConditions r v.hsw.timing = true) ∧
    pgConditions { r with vout := 10800 } false = false ∧ pgConditions r true = false := by decide +kernel

theorem test_SensorsAndCalibration_premises :
    mainPower (devHs { pg := true }) = true ∧ dev.mgmt.calBusy = false ∧ regServed dev .ctrl (mgmtBase + 0x30) = true ∧
    fld (regN { dev with regs := [(mgmtBase + 0x30, 1)] } (mgmtBase + 0x30)) 15 0 * 1000000000 ≠ 0 ∧ mcUp dev = true ∧
    ({ calBusy := true } : Mgmt).calBusy = true ∧
    (logEv dev (srcOf mgmtBase) 0x8001 sevErr []).log.queue ≠ [] := by decide +kernel

theorem test_BoardLink_premises :
    hostPortsOut dev = true ∧ mcServed dev = true ∧ xferBusy (mcAwake dev) = false ∧
    xferBusy (mcAwake { dev with mgmt := { xfer := some (xfer0 1) } }) = true := by decide +kernel

def devCt (c : Ctr) : State := { dev with pmu := { ctrs := [(ctrKey 5 47 3, c)] } }
/-- Window 0 takes the dump, uncompressed. -/
def devDm (p : Pmu) (state : WinState) : State := { devD with wins := [(0, { win0 with state := state })], pmu := p }
theorem test_CountersAndTelemetry_premises :
    regServed dev .ctrl pmuBase = true ∧ 47 < instsOf 5 ∧ 3 < ctrsOf 5 ∧
    (let s := devCt { en := true, count := 2 ^ 48 - 1 }
     (ctrAt s (ctrKey 5 47 3)).en = true ∧ bitOf (regN s pmuBase) 0 = false ∧ (ctrAt s (ctrKey 5 47 3)).count = 2 ^ 48 - 1 ∧
     clockOn s (ctrDom 5 47) = true) ∧
    regServed dev .ctrl (pmuBase + 0x40) = true ∧
    (let u := fun (st : WinState) =>
       setReg (regAwake (devDm {} st) .ctrl (pmuBase + 0x40)) (pmuBase + 0x40) (word (0x80000000 % 0x1000000))
     dumpWindowOk (u .online) = true ∧ dumpWindowOk (u .disabled) = false) ∧
    ({ en := true, busy := true } : Pmu).busy = true ∧
    (writeDump (devDm { en := true, busy := true, latched := [1], seq := 1 } .online)).2 = true := by decide +kernel

def devBx (m : Mbx) : State := { dev with mbx := [(65, m), (15, m)] }
theorem test_BoxSteps_premises :
    (∀ off ∈ [8, 0xC, 0x10], regServed dev .ctrl (mbxBase 65 + off) = true) ∧
    (∀ off ∈ [8, 0xC, 0x10], regServed { devBx { en := true, seat := 0 } with img := dev.img } (.fn fn0) (mbxBase 15 + off) = true) ∧
    (mbxAt (devBx { tc := List.replicate 15 0 }) 65).tc.length < 16 ∧ 16 ≤ (mbxAt (devBx { tc := List.replicate 16 0 }) 65).tc.length ∧
    (mbxAt (devBx { tc := [7], fc := [8] }) 65).tc = [7] ∧ (mbxAt (devBx { tc := [7], fc := [8] }) 65).fc = [8] ∧
    mcUp dev = true ∧ (seatAt dev 0).state ≠ .none ∧
    (let s := { devBx { inNext := 0x1000000, outNext := 0x17FFFC0 } with hanks := devD.hanks }
     lineOk s 0 (mbxAt s 15).inNext = true ∧ lineOk s 0 (mbxAt s 15).outNext = true) ∧
    (let s : State := { dev with seats := [(1023, { seat0 with state := .disabling })] }
     (seatAt s 1023).state = .disabling ∧ seatDrained s 1023 = true) := by decide +kernel

theorem test_RegisterSteps_premises :
    (fnLive dev fn0 = true ∧ fnServed dev fn0 = true ∧ (0x4000 - 4) % 4 = 0 ∧ hdmBase ≤ 0x4000 - 4 ∧ hdmBase % 4 = 0 ∧ hdmBase < 0x4000) ∧
    regServed dev .ctrl (crlBase 0 + 0x40) = true ∧ (crlBase 0 + 0x40) % 4 = 0 ∧ agentLive dev .ctrl = true ∧
    agentLive dev (.fn fn0) = true ∧ 0x80001 % 4 ≠ 0 ∧
    (∀ off ∈ [mgmtBase + 0x30 + 0, trkBase, crlBase 15, cardBase], regServed dev .ctrl off = true) ∧
    (blockOf cardBase = some (.card, 0) ∧ (putSpecial (regAwake dev .ctrl cardBase) .ctrl .card 0 5).isNone = true ∧
     isCounter .card 0 = false ∧ isPlain .card 0 = true ∧ (regInfoAt .card 0).copies = false) := by decide +kernel

theorem test_NumberRegisters_premises :
    (∀ off ∈ [trkBase, trkBase + 4, trkBase + 0x10, cardBase, crlBase 0, crlBase 15], regServed dev .ctrl off = true) ∧
    crlBase 15 ≠ crlBase 0 ∧ (3 : Nat) < 4 := by decide +kernel

theorem test_IdentityRegisters_premises :
    regServed dev .ctrl (secBase + 4 * 5) = true ∧ regServed dev .ctrl (secBase + 0x40 + 4 * 7) = true ∧
    regServed dev .ctrl (secBase + 0x60 + 4 * 7) = true ∧ (5 : Nat) < 6 ∧ (7 : Nat) < 8 := by decide +kernel

theorem test_QueriesChangeNothing_premises :
    (∃ t, exec (.getTimestamp .mctp) dev = .next t) ∧ (∃ t, exec (.doeDiscovery fn0) dev = .next t) ∧
    (∃ t, exec (.heartbeat (.doe fn0)) dev = .next t) ∧ (∃ t, exec .getEndpointId dev = .next t) := by
  refine ⟨⟨_, rfl⟩, ⟨_, rfl⟩, ⟨_, rfl⟩, ⟨_, rfl⟩⟩

theorem test_StepKeepsSound_premises : Sound devD ∧ ∃ t, step devD = .next t :=
  ⟨by constructor <;> decide +kernel, _, rfl⟩

/-! ## Ill-formed commands are refused -/

def pw0 (n : Nat) (poison : Bool) (lines : List (List Byte)) : PlyWrite :=
  { dlaLine := 0, qc := 0, nlines := n, poison := poison, partialMask := none, lines := lines }
def wide : List Byte := List.replicate 65 0
theorem test_wf_message :
    (Instr.memRdData (msg (2 ^ 52))).wf = false ∧ (Instr.memRdData (msg (2 ^ 52 - 1))).wf = true ∧
    (Instr.memInv { msg 0 with id := 4096 }).wf = false ∧ (Instr.biRsp { msg 0 with tag := 65536 } .i).wf = false ∧
    (Instr.memWr (msg 0) wide).wf = false ∧ (Instr.memWrPtl (msg 0) 1 (wide.take 63)).wf = false ∧
    (Instr.memWr (msg 0) (wide.take 64)).wf = true := by decide
theorem test_wf_registers :
    (Instr.registerRead .ctrl 2 4).wf = false ∧ (Instr.registerWrite .ctrl 4 8 0).wf = false ∧
    (Instr.registerRead .ctrl 0 2).wf = false ∧ (Instr.registerRead .ctrl 4 4).wf = true ∧
    (Instr.laneWidthChange .ctrl 0 32).wf = false := by decide
theorem test_wf_noise :
    (Instr.scrubLine wide).wf = false ∧ (Instr.scrubVerifyRead [0]).wf = false ∧ (Instr.readDataReturn 0 [wide]).wf = false ∧
    (Instr.mergeEntryTimeout 0 0 wide).wf = false ∧ (Instr.rekeyUnitConvert 0 [[1]]).wf = false ∧
    (Instr.scrubLine (List.replicate 80 0)).wf = true ∧ (Instr.scrubLine []).wf = true := by decide
theorem test_wf_doorbell :
    (Instr.sqTailDoorbell (.inl (msg (2 ^ 52))) 0 1).wf = false ∧ (Instr.sqTailDoorbell (.inr (fn0, 17)) 0 1).wf = true := by decide
theorem test_wf_ply :
    let h := hdr 0 0
    (Instr.mwr 0 h (pw0 0 false [])).wf = false ∧ (Instr.mwr 0 h (pw0 5 true [])).wf = false ∧
    (Instr.rsync 0 h (pw0 1 false [wide])).wf = false ∧ (Instr.rsync 0 h (pw0 1 true [wide.take 64])).wf = false ∧
    (Instr.rsync 0 h (pw0 2 false [wide.take 64])).wf = false ∧ (Instr.mwr 0 h (pw0 1 false [wide.take 64])).wf = true ∧
    (Instr.plyPhyTrained 0 3).wf = false ∧ (Instr.mbox 0 h (List.replicate 17 0)).wf = false := by decide

/-! ## The manual's worked examples -/

/-- R460, "Register map": CH8.INT_LB and MBX17.DB_IN. -/
theorem test_addresses : chBase 8 + 0x8008 = 0x888008 ∧ mbxBase 17 + 0x14 = 0xD11014 := by decide

/-- R63, "Seats, windows and the capacity ledger": the lock window of the appliance. -/
def lockWin : Win :=
  { hpaHank := 0x800000, size := 524288, db := true, aliasN := 1, aliasSh := 40, aliasQc := 0x60#16, state := .online }
theorem test_alias_example :
    (let s : State := { dev with wins := [(2, lockWin)] }
     decodeHpa s 0 0x110023456780 = some { seat := 0, win := 2, ali := 1, dla := 0x23456780, qc := 6 } ∧
     decodeHpa s 0 0x100023456780 = some { seat := 0, win := 2, ali := 0, dla := 0x23456780, qc := 0 } ∧
     hankOff s 2 0x23456780 = 282) := by decide +kernel

/-- R66, the same chapter: the largest elastic DLA that the ledger admits, and one hank more. -/
theorem test_ledger_example :
    skeinReserve 10239928 = 40000 ∧ growthReserve 4194304 = 41944 ∧ elasticBound 4194304 12 1048576 10239928 = 9191352 ∧
    ledgerCheck 4194304 12 1048576 10239928 9191352 = 0 ∧ ledgerCheck 4194304 12 1048576 10239929 9191353 = 2 := by
  decide +kernel

/-- R152, "Compression": the 18 bytes of the example and what they decode to. -/
def plzExample : List Byte :=
  [0x2A, 0x8D, 0xAC, 0x27, 0xE6, 0x66, 0xA7, 0xB2, 0xF7, 0x19, 0x0F, 0x27, 0x80, 0xCC, 0xF0, 0xFE, 0xD5, 0x07]
def plzText : List Byte :=
  [0x69, 0x64, 0x3D, 0x31, 0x37, 0x3B, 0x69, 0x64, 0x3D, 0x31, 0x37, 0x3B] ++ List.replicate 300 0 ++
  [0x69, 0x64, 0x3D, 0x32, 0x37, 0x3B] ++ List.replicate 194 0
theorem test_plz_example : plzDecode plzExample 512 = some plzText := by decide +kernel

/-- R127, R128, "Translation and tiering": segment 2 of the page of the example, and the lines a read of it touches. -/
theorem test_run_example :
    runGranules [12, 0, 31, 64, 7, 0, 19, 25] = 5 ∧
    runLines 0x34A1C0E20 96 248 = [0xD28703881, 0xD28703882, 0xD28703883, 0xD28703884, 0xD28703885] := by decide +kernel

/-- R234–R236, "DRAM channels": the appliance's set of sixteen MRDIMM channels, and the line at DPA 0x034A_1C0E_2040. -/
def mrdimm : Dimms :=
  { dimm0 with mrdimm := true, densCode := 1, heightLog := 1, ranksLog := 2, capGib := 512 }
def appliance : State := { dev with
  chans := (List.range 16).map fun c => (c, { st := .online, usable := true, dimms := some mrdimm })
  regs := (List.range 16).map fun c => (chBase c + 4, BitVec.ofNat 32 (0xC0000000 + 4 * 0x1000000 + 2 * 0x200000 + c * 0x20000)) }
theorem test_geometry_example :
    geoOf appliance (0x034A1C0E2040 / 64) =
      some { ch := 8, sub := 1, bg := 7, bank := 0, col := 14, rank := 0, row := 0xD287 } ∧
    chOfLine appliance (0x034A1C0E2140 / 64) = 8 := by decide +kernel

/-- R260, R411, R413, "Management": the record of the leaky bucket's first overflow, byte for byte. -/
theorem test_record_example :
    (let s := modCh { appliance with
         now := 20000000000000, boot := { appliance.boot with bootCount := 41 }, cnts := [(chBase 8 + 0x8014, 0)] } 8
       fun x => { x with ceV := true, ceDev := 3, ceSub := 1, ceRank := 0, ceCol := 14, ceRow := 0xD287, ceBank := 7 }
     ((bucketOverflow s 8).log.ring.map fun e => eventBytes e.2)) =
      [[0x00, 0xC8, 0x17, 0xA8, 0x04, 0x00, 0x00, 0x00, 0x29, 0x00, 0x00, 0x00, 0x88, 0x00, 0x01, 0x60, 0x02,
        0x08, 0x00, 0x03, 0x00, 0x01, 0x07, 0x0E, 0x87, 0xD2, 0x00, 0x01, 0x00, 0x00, 0x00, 0x00]] := by decide +kernel

/-- R435, "Security": measurement 4 of the appliance's device. -/
theorem test_secrecord_example :
    (secRecord { dev with sec := { dev.sec with lc := .field, vsvn := 2, osvn := 2 }, boot := { dev.boot with bootCount := 41 } }).take 8
      = [0x02, 0x00, 0x02, 0x02, 0x29, 0x00, 0x00, 0x00] := by decide +kernel

/-! ## Single steps -/

/-- The outcome's state, for looking at one field of it. -/
def after (c : Instr) (s : State) : State := match exec c s with
  | .next t => t
  | _ => s
/-- R8, log entry 14: an idle step is one nanosecond. -/
theorem test_idle : (match step dev with
  | .next t => t.now
  | _ => 0) = 1 := by decide +kernel
/-- R36, R87: a line that holds data is returned to its requester; a hole is answered at once. -/
theorem test_memRd_hole : (after (.memRd (msg 0x9000000) .noOp) dev).out ≠ [] := by decide +kernel
/-- R99, R63: a write to a hole is dropped and completes. -/
theorem test_memWr_hole : (after (.memWr (msg 0x9000000) zeroLine) dev).out = [.ndr 0 0 0 0 .cmp 0] := by decide +kernel
/-- R207: the SQ tail doorbell of ring local 2 with the value 38. -/
theorem test_doorbell :
    (ringAt (after (.sqTailDoorbell (.inr (fn0, 0)) 2 38)
      { devR with rings := [(0, { ring0 with lcl := 2, sqTail := 0 })] }) 0).sqTail = 38 := by decide +kernel
/-- R216: FILL repeats its 8-byte pattern from the first byte, and reports its length. -/
theorem test_fill :
    (let s := after (.fill 8191 63) { devX ((raw0 2 0 0 0 0x1000000 0 12 0 0x0807060504030201 0).set 2 0x80) with
       dram := [(0x18000, some { key := 1, idx := 0x18000, data := zeroLine })] }
     (descAt s (descKey 8191 63)).map (fun d => (d.status, d.r0)) = some (stOk, 12) ∧
     ((chAt s 0).merge.map fun e => (e.line, e.mask, e.data.take 12)) = [(0x18000, 0xFFF, [1, 2, 3, 4, 5, 6, 7, 8, 1, 2, 3, 4])]) := by decide +kernel
/-- R291, "The fabric": the example's route from HP2 at ST29 to the slice at ST1, with its stations and virtual channels, the last
hop's link, and no route longer than 7 hops from there. -/
theorem test_route_example :
    (route false 29 1).map (fun h => (h.st, h.vc)) = [(29, 0), (30, 0), (31, 1), (24, 1), (25, 0), (33, 0), (41, 1)] ∧
    (route false 29 1).map (·.link) = [0, 0, 0, 0, 2, 2, 2] ∧
    (∀ d ∈ List.range 48, (route false 29 d).length ≤ 7 ∧ (route true 29 d).length ≤ 24) := by decide +kernel
/-- RFC 1951, by another implementation: "abc", and ten times "a" as a match; RFC 8878: a frame of one RLE block. -/
theorem test_streams :
    (deflDecompress {} [] 100 [0x4B, 0x4C, 0x4A, 0x06, 0x00] true).out = [0x61, 0x62, 0x63] ∧
    (deflDecompress {} [] 100 [0x4B, 0x4C, 0x84, 0x01, 0x00] true).out = List.replicate 10 0x61 ∧
    (zstdDecompress {} [] 0x8000 100 [0x28, 0xB5, 0x2F, 0xFD, 0x20, 0x03, 0x1B, 0x00, 0x00, 0x61] true).out =
      [0x61, 0x61, 0x61] := by decide +kernel
/-- XXH64 of the empty message. -/
theorem test_xxh : (xxhOf []).hash = 0xEF46DB3751D8E999#64 := by decide +kernel
/-- FIPS 197, appendix C.3: AES-256. -/
theorem test_aes :
    aesEnc (List.range 32) ((List.range 16).map (0x11 * ·)) =
      [0x8E, 0xA2, 0xB7, 0xCA, 0x51, 0x67, 0x45, 0xBF, 0xEA, 0xFC, 0x49, 0x90, 0x4B, 0x49, 0x60, 0x89] := by decide +kernel
/-- CRC-32C and CRC-32 of "123456789" (R217; the check values of the two polynomials). -/
theorem test_crc :
    crcOf polyC 0 [0x31, 0x32, 0x33, 0x34, 0x35, 0x36, 0x37, 0x38, 0x39] = 0xE3069283 ∧
    crcOf poly32 0 [0x31, 0x32, 0x33, 0x34, 0x35, 0x36, 0x37, 0x38, 0x39] = 0xCBF43926 := by decide +kernel
/-- SHAKE256 of the empty message (FIPS 202). -/
theorem test_shake : (shake256 [] 8) = [0x46, 0xB9, 0xDD, 0x2B, 0x0B, 0xA8, 0x8D, 0x13] := by decide +kernel
/-- R254, R256: one device's eight symbols are corrected; a single error in each of two devices is not. -/
theorem test_rs :
    correctedBy (rsDecode (List.replicate 80 0 |>.set 16 0xFF |>.set 23 1)) = some 0 ∧
    correctedBy (rsDecode (List.replicate 80 0 |>.set 16 0xFF |>.set 24 1)) = none := by decide +kernel
end Sys2Proof.Tests
end

section
/-! SUPPORT. The registers of the request path, of snoops and of the Carder that hold a number (R80, R81, R90, R118,
R141): a write of 4 bytes to a plain register, and the numbers in force. -/

namespace Sys2Proof.Machine

open Sys2Proof

/-! ## A served write of 4 bytes -/

/-- Offsets below the function spaces name BAR2, for every agent. -/
theorem fnSpace_bar2 (by_ : Agent) {off : Nat} (h : off < 0x10000000) : fnSpace by_ off = none := by
  unfold fnSpace
  rw [Nat.div_eq_of_lt h]
  cases by_ <;> rfl

theorem mayAccess_of_regServed {s : State} {by_ : Agent} {off : Nat} (h : regServed s by_ off = true) :
    mayAccess s by_ off = true := by
  unfold regServed at h
  split at h
  · cases h
  · simp only [Bool.and_eq_true] at h
    obtain ⟨⟨⟨⟨hm, -⟩, -⟩, -⟩, -⟩ := h
    exact hm

/-- The clocks that an access wakes do not decide what its agent may reach. -/
theorem mayAccess_regAwake (s : State) (by_ : Agent) (off k : Nat) :
    mayAccess (regAwake s by_ off) by_ k = mayAccess s by_ k := by
  obtain ⟨d, e⟩ := regAwake_eq s by_ off
  rw [e]; rfl

/-- A served write of 4 aligned bytes is one write of the register that it names (R5, R7). -/
theorem registerWrite_served {s : State} {by_ : Agent} {off : Nat} (h : regServed s by_ off = true)
    (ha : off % 4 = 0) (hlt : off < 0x10000000) (val : Nat) :
    exec (.registerWrite by_ off 4 val) s = .next (putReg (regAwake s by_ off) by_ off (wordOf val 0)) := by
  have hm := mayAccess_of_regServed h
  have ho : accessOffs off 4 = [off] := if_pos ⟨rfl, ha⟩
  have hw : bar2Write s by_ off 4 val = putReg (regAwake s by_ off) by_ off (wordOf val 0) := by
    unfold bar2Write
    simp [ho, hm, access_served h, mayAccess_regAwake]
  change execRegisterWrite by_ off 4 val s = _
  unfold execRegisterWrite
  rw [fnSpace_bar2 by_ hlt, ← hw]

/-! ## Registers that hold a number -/

/-- A register that holds a number: it lies in BAR2, a write has no effect but the bits it stores, and there is one copy
for all agents. The bits are those of `mask`, which an image locks where `lockable` says so (R5, R315). -/
structure NumberReg (off mask reset : Nat) (lockable : Bool) (b : Blk) (r : Nat) : Prop where
  block : blockOf off = some (b, r)
  aligned : off % 4 = 0
  below : off < copy1
  noEffect : ∀ (s : State) (by_ : Agent) (v : Nat), putSpecial s by_ b r v = none
  noCounter : isCounter b r = false
  plain : isPlain b r = true
  info : regInfoAt b r = { rw := if lockable then 0 else mask, rwl := if lockable then mask else 0, reset := reset }

namespace NumberReg

variable {off mask reset r : Nat} {lockable : Bool} {b : Blk}

theorem regInfo_eq (h : NumberReg off mask reset lockable b r) :
    regInfo off = { rw := if lockable then 0 else mask, rwl := if lockable then mask else 0, reset := reset } := by
  unfold regInfo
  rw [h.block]; exact h.info

/-- After reset the register holds its reset value. -/
theorem regAt_reset (h : NumberReg off mask reset lockable b r) : regAt State.reset off = word reset := by
  change regReset off = word reset
  unfold regReset word
  rw [Nat.mod_eq_of_lt h.below, h.regInfo_eq]

/-- The bits that a write stores: those of the mask, and none of a locked field. -/
theorem writeMask_eq (h : NumberReg off mask reset lockable b r) (s : State) :
    writeMask s off = if lockable && s.img.locked then 0 else word mask := by
  unfold writeMask
  rw [h.regInfo_eq]
  cases lockable <;> cases s.img.locked <;> simp [word]

/-- A write of the register is a plain one. -/
theorem putReg_eq (h : NumberReg off mask reset lockable b r) (s : State) (by_ : Agent) (v : Nat) :
    putReg s by_ off v = putPlain s off v := by
  have hc : (regInfoAt b r).copies = false := by rw [h.info]
  unfold putReg
  simp [h.block, h.noEffect, h.noCounter, h.plain, hc]

/-- What a plain write leaves in the register. -/
theorem regAt_putPlain (h : NumberReg off mask reset lockable b r) (s : State) (v : Nat) :
    regAt (putPlain s off v) off = if lockable && s.img.locked then regAt s off
      else (regAt s off &&& ~~~(word mask)) ||| (word v &&& word mask) := by
  unfold putPlain
  rw [Nat.mod_eq_of_lt h.below, h.writeMask_eq, regAt_setReg_same]
  split
  · simp only [BitVec.ofNat_eq_ofNat, BitVec.not_zero, BitVec.and_allOnes, BitVec.and_zero, BitVec.or_zero]
  · rfl

/-- A served write of 4 bytes sends and logs nothing, and changes the bits of the register's fields alone, of a locked
field nothing. -/
theorem write_served (h : NumberReg off mask reset lockable b r) {s : State} {by_ : Agent}
    (hs : regServed s by_ off = true) (val : Nat) :
    ∃ t, exec (.registerWrite by_ off 4 val) s = .next t ∧ t.out = s.out ∧ t.log = s.log ∧
      (∀ k, k ≠ off → regAt t k = regAt s k) ∧
      regAt t off = if lockable && s.img.locked then regAt s off
        else (regAt s off &&& ~~~(word mask)) ||| (word (wordOf val 0) &&& word mask) := by
  have hlt : off < 0x10000000 := Nat.lt_trans h.below (by decide)
  obtain ⟨d, hd⟩ := regAwake_eq s by_ off
  refine ⟨_, registerWrite_served hs h.aligned hlt val, ?_⟩
  rw [h.putReg_eq, hd]
  refine ⟨rfl, rfl, fun k hk => ?_, h.regAt_putPlain _ _⟩
  exact regAt_setReg_other _ _ hk

end NumberReg

theorem numberReg_quota : NumberReg trkBase 0x1FF01FF (32 * 0x10000 + 64) true .trk 0x00 :=
  ⟨rfl, rfl, by decide, fun _ _ _ => rfl, rfl, rfl, rfl⟩

theorem numberReg_keep : NumberReg (trkBase + 4) 0x1FF01FF (0x10000 + 2) true .trk 0x04 :=
  ⟨rfl, rfl, by decide, fun _ _ _ => rfl, rfl, rfl, rfl⟩

theorem numberReg_ceilCtl : NumberReg (trkBase + 0x10) 0xFF 20 false .trk 0x10 :=
  ⟨rfl, rfl, by decide, fun _ _ _ => rfl, rfl, rfl, rfl⟩

theorem numberReg_epochCtl : NumberReg cardBase 0xFFFF 1000 false .card 0x00 :=
  ⟨rfl, rfl, by decide, fun _ _ _ => rfl, rfl, rfl, rfl⟩

/-- The first register of each of the sixteen slices. -/
theorem blockOf_crlBase : ∀ n < 16, blockOf (crlBase n) = some (.crl n, 0) := by decide

theorem numberReg_biTimeout {n : Nat} (hn : n < 16) : NumberReg (crlBase n) 0x3FFF 50 false (.crl n) 0x00 where
  block := blockOf_crlBase n hn
  aligned := by unfold crlBase; omega
  below := by unfold crlBase copy1; omega
  noEffect _ _ _ := rfl
  noCounter := rfl
  plain := rfl
  info := rfl

/-! ## The numbers in force -/

/-- A field with a lower and an upper limit acts as the nearer one outside them. -/
theorem clampN_eq {lo hi : Nat} (h : lo ≤ hi) (v : Nat) :
    clampN lo hi v = if v < lo then lo else if hi < v then hi else v := by
  unfold clampN
  split_ifs <;> omega

/-- Settles O8: each of the registers is a `NumberReg`, whose reset value and served write are known, and the limits are
those of `clampN` and `max`. -/
theorem numberRegisters : Obligations.NumberRegisters := by
  unfold Obligations.NumberRegisters
  refine ⟨fun off mask reset lockable hmem => ?_, fun s => ?_⟩
  · obtain ⟨b, r, h⟩ : ∃ b r, NumberReg off mask reset lockable b r := by
      simp only [List.cons_append, List.nil_append, List.mem_cons, List.mem_map, List.mem_range, Prod.mk.injEq] at hmem
      obtain ⟨rfl, rfl, rfl, rfl⟩ | ⟨rfl, rfl, rfl, rfl⟩ | ⟨rfl, rfl, rfl, rfl⟩ | ⟨rfl, rfl, rfl, rfl⟩ |
        ⟨n, hn, rfl, rfl, rfl, rfl⟩ := hmem
      · exact ⟨_, _, numberReg_quota⟩
      · exact ⟨_, _, numberReg_keep⟩
      · exact ⟨_, _, numberReg_ceilCtl⟩
      · exact ⟨_, _, numberReg_epochCtl⟩
      · exact ⟨_, _, numberReg_biTimeout hn⟩
    exact ⟨h.regAt_reset, fun s by_ val hs => h.write_served hs val⟩
  · refine ⟨fun p hp => ?_, rfl, rfl, clampN_eq (by decide) _, fun slice => clampN_eq (by decide) _, ?_⟩
    · exact ⟨if_neg (Nat.ne_of_lt hp), if_neg (Nat.ne_of_lt hp)⟩
    · dsimp only [epochNs]
      congr 1
      split_ifs <;> omega

end Sys2Proof.Machine
end

section
/-! SUPPORT. GLB.RST_CTL (R399): a served read of 4 bytes, what a write of the reset register does, and the three rows that
write it. -/

namespace Sys2Proof.Machine

open Sys2Proof

/-! ## A served read of 4 bytes -/

/-- A served access finds its block: it is there, its port is not isolated, and its domain is not OFF (R2, R300, R462). -/
theorem blkGone_of_regServed {s : State} {by_ : Agent} {off r : Nat} {b : Blk} (h : regServed s by_ off = true)
    (hb : blockOf off = some (b, r)) : blkGone s b = false := by
  unfold regServed at h
  rw [hb] at h
  simp only [Bool.and_eq_true, Bool.not_eq_true'] at h
  obtain ⟨⟨⟨⟨-, hawake⟩, hpart⟩, hport⟩, -⟩ := h
  unfold blkGone
  rw [hpart, decide_eq_false (not_off hawake)]
  revert hport
  cases portOfBlk b with
  | none => exact fun _ => rfl
  | some port => exact fun hlive => (Bool.not_eq_true' _).mp hlive

theorem agentLive_of_mayAccess {s : State} {by_ : Agent} {off : Nat} (h : mayAccess s by_ off = true) :
    agentLive s by_ = true := by
  cases by_ with
  | ctrl => rfl
  | fn f =>
    unfold mayAccess at h
    exact (Bool.and_eq_true_iff.1 h).1

/-- A served read of 4 aligned bytes reads the one register that it names (R5, R7). -/
theorem registerRead_served {s : State} {by_ : Agent} {off : Nat} (h : regServed s by_ off = true)
    (ha : off % 4 = 0) (hlt : off < 0x10000000) :
    exec (.registerRead by_ off 4) s = .next (emit (getReg (regAwake s by_ off) by_ off).1
      (.regData by_ [word (getReg (regAwake s by_ off) by_ off).2])) := by
  have hm := mayAccess_of_regServed h
  have ho : accessOffs off 4 = [off] := if_pos ⟨rfl, ha⟩
  have hthere : ((blockOf off).any fun b => blkGone s b.1) = false := by
    cases hb : blockOf off with
    | none => rfl
    | some p => exact blkGone_of_regServed h hb
  change execRegisterRead by_ off 4 s = _
  unfold execRegisterRead
  rw [fnSpace_bar2 by_ hlt]
  simp [bar2Read, readRegs, ho, hm, agentLive_of_mayAccess hm, hthere, access_served h, mayAccess_regAwake]

/-! ## The reset register -/

theorem putRstCtl_noKey {v : Nat} (hkey : fld v 31 24 ≠ 0x5A) (s : State) : putRstCtl s v = s := if_pos hkey

/-- GLOBAL wins over WARM. -/
theorem putRstCtl_global {v : Nat} (hkey : fld v 31 24 = 0x5A) (hglobal : bitOf v 1 = true) (s : State) :
    putRstCtl s v = mainReset s causeGlobal := by
  simp [putRstCtl, hkey, hglobal, globalReset]

theorem putRstCtl_warm {v : Nat} (hkey : fld v 31 24 = 0x5A) (hglobal : bitOf v 1 = false) (hwarm : bitOf v 0 = true)
    (s : State) : putRstCtl s v = askWarm s := by
  simp [putRstCtl, hkey, hglobal, hwarm]

theorem putRstCtl_none {v : Nat} (hkey : fld v 31 24 = 0x5A) (hglobal : bitOf v 1 = false) (hwarm : bitOf v 0 = false)
    (s : State) : putRstCtl s v = s := by
  simp [putRstCtl, hkey, hglobal, hwarm]

/-- A WARM asked for while no background command holds it back comes at once (R395). -/
theorem askWarm_now {s : State} (h : bgRuns s = false) : askWarm s = warmReset s := by simp [askWarm, h]

/-- A WARM asked for during a Sanitize, Secure Erase or Transfer FW waits for its end (R395). -/
theorem askWarm_waits {s : State} (h : bgRuns s = true) :
    askWarm s = { s with boot := { s.boot with warmWaits := true } } := if_pos h

/-- The low word of a 32-bit value is the value. -/
theorem wordOf_zero_toNat (v : Word) : wordOf v.toNat 0 = v.toNat := by
  have hlt := v.isLt
  simp only [wordOf, Nat.mul_zero, Nat.pow_zero, Nat.div_one]
  exact Nat.mod_eq_of_lt hlt

/-- The three rows that write GLB.RST_CTL are one write of it. -/
theorem rstCtl_rows {s : State} {by_ : Agent} (h : regServed s by_ 0x180 = true) (val : Word) :
    exec (.globalResetRequest by_ val) s = .next (putRstCtl (regAwake s by_ 0x180) val.toNat) ∧
    exec (.warmResetRequest by_ val) s = .next (putRstCtl (regAwake s by_ 0x180) val.toNat) ∧
    exec (.registerWrite by_ 0x180 4 val.toNat) s = .next (putRstCtl (regAwake s by_ 0x180) val.toNat) := by
  refine ⟨congrArg _ (access_served h _ _), congrArg _ (access_served h _ _), ?_⟩
  rw [registerWrite_served h rfl (by decide), wordOf_zero_toNat]
  rfl

/-- Settles O54: the three rows do what `putRstCtl` does with the value, and its four cases are those of KEY, GLOBAL and
WARM; the register reads as zero. -/
theorem resetControl : Obligations.ResetControl := by
  unfold Obligations.ResetControl
  intro s by_ val h
  have rows := rstCtl_rows h val
  refine ⟨fun hkey => ?_, fun hkey hglobal => ?_, fun hkey hglobal hwarm => ⟨fun hbg => ?_, fun hbg => ?_⟩,
    fun hkey hglobal hwarm => ?_, registerRead_served h rfl (by decide)⟩
  · rwa [putRstCtl_noKey hkey] at rows
  · rwa [putRstCtl_global hkey hglobal] at rows
  · rwa [putRstCtl_warm hkey hglobal hwarm, askWarm_now hbg] at rows
  · rwa [putRstCtl_warm hkey hglobal hwarm, askWarm_waits hbg] at rows
  · rwa [putRstCtl_none hkey hglobal hwarm] at rows

end Sys2Proof.Machine
end

section
/-! SUPPORT. The hot-swap supervisor (R382–R389, R396, R398): what a trip leaves, the order of a sample's conditions, and
what each row of the supervisor does. -/

namespace Sys2Proof.Machine

open Sys2Proof

/-! ## Time and resets leave the supervisor as it is -/

@[simp] theorem hsw_advanceBy (s : State) (ns : Nat) : (advanceBy s ns).hsw = s.hsw := by
  obtain ⟨p, f, o, e⟩ := advanceBy_frame s ns
  rw [e]

@[simp] theorem hsw_advanceTo (s : State) (t : Nat) : (advanceTo s t).hsw = s.hsw := hsw_advanceBy s _

@[simp] theorem regs_advanceTo (s : State) (t : Nat) : (advanceTo s t).regs = s.regs := by
  obtain ⟨p, f, o, e⟩ := advanceTo_frame s t
  rw [e]

theorem hsw_burnAtReset (s : State) : (burnAtReset s).hsw = s.hsw := by
  unfold burnAtReset
  dsimp only
  split
  · rfl
  · split
    · rfl
    · split <;> rfl

/-- A reset of the main domains keeps the supervisor (R461). -/
@[simp] theorem hsw_mainReset (s : State) (cause : Nat) : (mainReset s cause).hsw = s.hsw := hsw_burnAtReset _

/-- Withdrawing power-good changes HS_PG alone of the supervisor (R384). -/
theorem hsw_dropPg (s : State) : (dropPg s).hsw = { s.hsw with pg := false } := by
  unfold dropPg
  split
  · exact hsw_mainReset _ _
  next hpg => rw [← Bool.eq_false_iff.2 hpg]

/-- The supervisor after a trip (R384, R388). -/
theorem hsw_trip (s : State) (cause : Nat) : (trip s cause).hsw = { s.hsw with
    st := if retries s < s.hsw.tries + 1 then .latched else .trip, cause := cause, tries := min 8 (s.hsw.tries + 1)
    gate := false, flt := true, tripAt := s.now, timing := false, timer := 0, good := 0, pg := false } :=
  hsw_dropPg _

/-! ## What a sample does in RAMP and ON, by the first condition that holds -/

section Sample

variable {s : State} {r : HswRead} {ran : Bool}

theorem sampleDriving_vinOut (hvin : vinIn true r.vin = false) : sampleDriving s r ran = vinLost s := by
  simp [sampleDriving, hvin]

theorem sampleDriving_breaker (hvin : vinIn true r.vin = true) (hvsn : 2 * ilimUv s ≤ r.vsn) :
    sampleDriving s r ran = trip s 2 := by
  simp [sampleDriving, hvin, hvsn]

theorem sampleDriving_faultTimer (hvin : vinIn true r.vin = true) (hvsn : r.vsn < 2 * ilimUv s)
    (htimer : faultUs s ≤ s.hsw.timer) : sampleDriving s r ran = trip s 1 := by
  simp [sampleDriving, hvin, hvsn.not_ge, htimer]

theorem sampleDriving_tooHot (hvin : vinIn true r.vin = true) (hvsn : r.vsn < 2 * ilimUv s)
    (htimer : s.hsw.timer < faultUs s) (hhot : degC (fld (hswFet s) 23 16) < s.hsw.t) :
    sampleDriving s r ran = trip s 3 := by
  simp [sampleDriving, hvin, hvsn.not_ge, htimer.not_ge, hhot]

/-- In RAMP, a sample without a trip runs the count of good samples toward power-good (R385). -/
theorem sampleDriving_ramp (hvin : vinIn true r.vin = true) (hvsn : r.vsn < 2 * ilimUv s)
    (htimer : s.hsw.timer < faultUs s) (hcool : s.hsw.t ≤ degC (fld (hswFet s) 23 16)) (hramp : s.hsw.st = .ramp) :
    sampleDriving s r ran =
      if !pgConditions r s.hsw.timing || ran then { s with hsw := { s.hsw with good := 0 } }
      else if 1000 ≤ s.hsw.good then givePower s
      else { s with hsw := { s.hsw with good := s.hsw.good + 1 } } := by
  simp [sampleDriving, hvin, hvsn.not_ge, htimer.not_ge, hcool.not_gt, hramp]

end Sample

/-! ## The rows of the supervisor -/

section Rows

variable {s : State}

theorem exec_vinQualified {t : Nat} (hoff : s.hsw.st = .off) (hldo : s.power.ldoReady = true)
    (hvin : s.hsw.vinOkAt = some t) : exec .vinQualified s = .next (startRamp (advanceTo s (t + 10000000))) := by
  change execVinQualified s = _
  simp [execVinQualified, hoff, hldo, hvin]

theorem exec_vinOutOfWindow (s : State) : exec .vinOutOfWindow s =
    .next (if driving s then vinLost s else { s with hsw := { s.hsw with vinOkAt := none } }) := by
  change execVinOutOfWindow s = _
  unfold execVinOutOfWindow
  split <;> rfl

theorem exec_circuitBreaker (h : driving s = true) : exec .circuitBreaker s = .next (trip s 2) := if_pos h

/-- The supervisor's registers after a sample, before what the sample does (R385, R387, R397); `at_` is the sample's time. -/
def sampledHsw (s : State) (r : HswRead) (at_ : Nat) : Hsw :=
  let lim := decide (ilimUv s ≤ r.vsn) && driving s
  { s.hsw with
    t := fetStep s r, vin := r.vin, vout := r.vout, vsn := r.vsn
    timing := lim, timer := if lim then s.hsw.timer + 1 else 0
    vinOkAt := if vinIn s.hsw.vinOkAt.isSome r.vin then some (s.hsw.vinOkAt.getD at_) else none }

/-- A sample falls on the next whole µs; in RAMP and ON it may trip the supervisor or move it. -/
theorem exec_hswSample (s : State) (r : HswRead) :
    let u := advanceTo s ((s.now / 1000 + 1) * 1000)
    let v := { u with hsw := sampledHsw s r u.now }
    exec (.hswSample r) s = .next (if driving s then sampleDriving v r s.hsw.timing else v) := by
  change execHswSample r s = _
  unfold execHswSample
  obtain ⟨p, f, o, e⟩ := advanceTo_frame s ((s.now / 1000 + 1) * 1000)
  rw [e]
  exact (apply_ite Host.Outcome.next _ _ _).symm

theorem exec_faultTimerExpiry (hdrive : driving s = true) (htiming : s.hsw.timing = true) :
    exec .faultTimerExpiry s = .next (trip (advanceBy s ((faultUs s - s.hsw.timer) * 1000)) 1) := by
  change execFaultTimerExpiry s = _
  simp [execFaultTimerExpiry, hdrive, htiming]

theorem exec_powerGood (hramp : s.hsw.st = .ramp) (htiming : s.hsw.timing = false) :
    exec .powerGood s = .next (givePower (advanceBy s ((1001 - s.hsw.good) * 1000))) := by
  change execPowerGood s = _
  simp [execPowerGood, hramp, htiming]

/-- The cool-down of a FET that is cool enough ends 100 ms after its trip; whether the gate rises again is RETRIES'. -/
theorem exec_cooldownEnd (htrip : s.hsw.st = .trip) (hcool : s.hsw.t ≤ degC (fld (hswFet s) 31 24)) :
    exec .cooldownEnd s = .next (if retries s < s.hsw.tries then advanceTo s (s.hsw.tripAt + 100000000)
      else startRamp (advanceTo s (s.hsw.tripAt + 100000000))) := by
  have hretries : retries (advanceTo s (s.hsw.tripAt + 100000000)) = retries s := by
    unfold retries hswCtl regN regAt
    rw [regs_advanceTo]
  change execCooldownEnd s = _
  unfold execCooldownEnd
  rw [if_neg (by simp [htrip, hcool.not_gt])]
  dsimp only
  rw [hretries, hsw_advanceTo, apply_ite Host.Outcome.next]

theorem exec_cooldownEnd_hot (hhot : degC (fld (hswFet s) 31 24) < s.hsw.t) : exec .cooldownEnd s = .next s :=
  if_pos (.inr hhot)

theorem exec_triesReset (hon : s.hsw.st = .on) : exec .triesReset s =
    .next { advanceTo s (s.hsw.pgAt + 10000000000) with hsw := { s.hsw with tries := 0 } } := by
  change execTriesReset s = _
  simp [execTriesReset, hon]

end Rows

/-- Settles O56: each clause is the row's own lemma, a sample's cases are those of the first condition that holds, and a trip
is what `hsw_trip` says. -/
theorem hotSwapSteps : Obligations.HotSwapSteps := by
  unfold Obligations.HotSwapSteps
  intro s
  refine ⟨fun _ hoff hldo hvin => exec_vinQualified hoff hldo hvin, fun hdrive => ⟨?_, exec_circuitBreaker hdrive⟩,
    fun hidle => ?_, exec_hswSample s, fun v r ran _ => ⟨sampleDriving_vinOut, sampleDriving_breaker,
      sampleDriving_faultTimer, fun hvin hvsn htimer => ⟨sampleDriving_tooHot hvin hvsn htimer, fun hcool hramp => ?_⟩⟩,
    exec_faultTimerExpiry, exec_powerGood, fun htrip hcool => ?_, fun _ => exec_cooldownEnd_hot, fun v cause => ?_,
    fun hon => ⟨_, exec_triesReset hon, rfl, ?_⟩⟩
  · rw [exec_vinOutOfWindow, if_pos hdrive]
  · rw [exec_vinOutOfWindow, hidle]; rfl
  · rw [sampleDriving_ramp hvin hvsn htimer hcool hramp]
    refine ⟨fun hbad => if_pos (by simpa using hbad), fun hok hran hfew => ?_, fun hok hran hmany => ?_⟩
    · simp [hok, hran, hfew.not_ge]
    · simp [hok, hran, hmany]
  · rw [exec_cooldownEnd htrip hcool]
    exact ⟨fun hleft => by rw [if_neg hleft.not_gt], fun hspent => by rw [if_pos hspent]⟩
  · rw [hsw_trip]; exact ⟨rfl, rfl, rfl, rfl⟩
  · obtain ⟨p, f, o, e⟩ := advanceTo_frame s (s.hsw.pgAt + 10000000000)
    rw [e]
    exact ⟨rfl, rfl, rfl⟩

end Sys2Proof.Machine
end

section
/-! SUPPORT. The identity registers of SEC (R440): the words that the three groups hold, and served accesses to them. -/

namespace Sys2Proof.Machine

open Sys2Proof

/-! ## Zeros -/

theorem leNat_replicate_zero (n : Nat) : leNat (List.replicate n 0) = 0 := by
  induction n with
  | zero => rfl
  | succ n ih => rw [List.replicate_succ, leNat, ih]; rfl

/-- Zeros read as zeros wherever they are read, past the end too. -/
theorem bytesAt_replicate_zero (m off n : Nat) : bytesAt (List.replicate m 0) off n = List.replicate n 0 := by
  unfold bytesAt
  simp only [List.drop_replicate, List.take_replicate, List.length_replicate, List.replicate_append_replicate]
  congr 1
  omega

theorem numAt_replicate_zero (m off n : Nat) : numAt (List.replicate m 0) off n = 0 := by
  rw [numAt, bytesAt_replicate_zero, leNat_replicate_zero]

/-! ## The three groups -/

/-- Offsets in SEC of the identity registers: ID0–ID5, and IDKEY_DIGEST0–7 with OWNER_DIGEST0–7 after it (R440). -/
structure IdReg (r : Nat) : Prop where
  aligned : r % 4 = 0
  group : r < 0x18 ∨ 0x40 ≤ r ∧ r < 0x80

/-- The bytes that OWNER_DIGEST0–7 return: zeros in BLANK. -/
def ownerDigest (s : State) : List Byte :=
  if s.sec.lc = .blank then List.replicate 32 0 else bytesAt s.sec.ownerDig 0 32

theorem numAt_ownerDigest (s : State) (off n : Nat) :
    numAt (ownerDigest s) off n = if s.sec.lc = .blank then 0 else numAt (bytesAt s.sec.ownerDig 0 32) off n := by
  unfold ownerDigest
  split
  · exact numAt_replicate_zero ..
  · rfl

/-- The offsets of SEC (R460). -/
theorem blockOf_secBase {r : Nat} (hr : r < 0x10000) : blockOf (secBase + r) = some (.sec, r) := by
  have hblk : (secBase + r) / 0x10000 = 2 := by unfold secBase; omega
  have hoff : (secBase + r) % 0x10000 = r := by unfold secBase; omega
  simp [blockOf, hblk, hoff]

namespace IdReg

variable {r : Nat}

theorem blockOf_eq (h : IdReg r) : blockOf (secBase + r) = some (.sec, r) :=
  blockOf_secBase (by have := h.group; omega)

/-- An identity register is none of SEC's other registers, and its group is known by its offset. -/
theorem getSec_eq (h : IdReg r) (s : State) (by_ : Agent) :
    getSec s by_ r = some (s, if r < 0x18 then byteWord (bytesAt Config.identityRecord 0 24) (r / 4)
      else if r < 0x60 then byteWord idDigest ((r - 0x40) / 4) else byteWord (ownerDigest s) ((r - 0x60) / 4)) := by
  obtain ⟨ha, hg⟩ := h
  have hkeys : ¬ r < 0x18 → 0x40 ≤ r := by omega
  have howner : ¬ r < 0x60 → 0x60 ≤ r ∧ r < 0x80 := by omega
  unfold getSec
  split
  case h_9 =>
    by_cases hid : r < 0x18
    · simp [hid, ha]
    · by_cases hkey : r < 0x60
      · simp [hid, hkeys hid, hkey, ha]
      · simp [hid, hkey, howner hkey, ha, byteWord, numAt_ownerDigest]
  all_goals omega

/-- A read of an identity register changes nothing. -/
theorem getReg_eq (h : IdReg r) {s : State} {by_ : Agent} {v : Nat} (hv : getSec s by_ r = some (s, v)) :
    getReg s by_ (secBase + r) = (s, v) := by
  unfold getReg
  simp [h.blockOf_eq, getSpecial, hv]

/-- An identity register takes no write: it has no effect of its own, counts nothing and stores nothing. -/
theorem putReg_eq (h : IdReg r) (s : State) (by_ : Agent) (v : Nat) : putReg s by_ (secBase + r) v = s := by
  have hg := h.group
  have heffect : putSpecial s by_ .sec r v = none := by
    simp [putSpecial, show r ≠ 0x2C by omega, show r ≠ 0x118 by omega]
  have hstored : isPlain .sec r = false := by
    simp [isPlain, regInfoAt, show r ≠ 0x100 by omega]
  unfold putReg
  simp [h.blockOf_eq, heffect, isCounter, hstored]

/-- Served, a read of 4 bytes answers the register's word, and a write of 4 bytes changes nothing but what it wakes. -/
theorem access_served (h : IdReg r) {s : State} {by_ : Agent} {v : Nat}
    (hv : ∀ d, getSec { s with doms := d } by_ r = some ({ s with doms := d }, v))
    (hs : regServed s by_ (secBase + r) = true) :
    exec (.registerRead by_ (secBase + r) 4) s =
      .next (emit (regAwake s by_ (secBase + r)) (.regData by_ [word v])) ∧
    ∀ val, exec (.registerWrite by_ (secBase + r) 4 val) s = .next (regAwake s by_ (secBase + r)) := by
  have hal : (secBase + r) % 4 = 0 := by have := h.aligned; unfold secBase; omega
  have hlt : secBase + r < 0x10000000 := by have := h.group; unfold secBase; omega
  obtain ⟨d, hd⟩ := regAwake_eq s by_ (secBase + r)
  constructor
  · rw [registerRead_served hs hal hlt, hd, h.getReg_eq (hv d)]
  · intro val
    rw [registerWrite_served hs hal hlt, h.putReg_eq]

end IdReg

/-- Settles O9: the registers of the three groups are identity registers, and the word that each holds is its four bytes. -/
theorem identityRegisters : Obligations.IdentityRegisters := by
  unfold Obligations.IdentityRegisters
  intro s by_ i
  refine ⟨fun hi => ?_, fun hi => ?_, fun hi => ?_⟩
  · have h : IdReg (4 * i) := ⟨by omega, by omega⟩
    refine h.access_served fun d => ?_
    rw [h.getSec_eq, if_pos (by omega), Nat.mul_div_cancel_left i (by decide)]
    rfl
  · have h : IdReg (0x40 + 4 * i) := ⟨by omega, by omega⟩
    rw [Nat.add_assoc]
    refine h.access_served fun d => ?_
    rw [h.getSec_eq, if_neg (by omega), if_pos (by omega), Nat.add_sub_cancel_left, Nat.mul_div_cancel_left i (by decide)]
    rfl
  · have h : IdReg (0x60 + 4 * i) := ⟨by omega, by omega⟩
    rw [Nat.add_assoc]
    refine h.access_served fun d => ?_
    rw [h.getSec_eq, if_neg (by omega), if_neg (by omega), Nat.add_sub_cancel_left, Nat.mul_div_cancel_left i (by decide)]
    rfl

end Sys2Proof.Machine
end

section
/-! SUPPORT. Every command completes: each row's branches all end in a next state. Rows without branches complete by
computation; the others are taken one by one. From there the three statements about every command and every step: the rows'
`Good` lemmas say what a next state keeps. -/

namespace Sys2Proof.Machine

open Sys2Proof

/-! ## Rows that branch -/

/-- The outcome is a next state: the command does not stop the device. -/
def Completes (o : Host.Outcome State Fault Refusal) : Prop := ∃ t, o = .next t

theorem Completes.next (s : State) : Completes (.next s) := ⟨s, rfl⟩

/-- A command to the controller completes where what the controller does with it completes. -/
theorem Completes.mcGate {s : State} {row : Instr} {go : State → Host.Outcome State Fault Refusal}
    (h : ∀ t, Completes (go t)) : Completes (mcGate s row go) := by
  unfold Machine.mcGate
  split
  · exact .next _
  · split
    · exact .next _
    · exact h _

theorem execSeatIdle_completes (seat : Fin 1024) (pool : Fin 5) (s : State) :
    Completes (execSeatIdle seat pool s) := by
  unfold execSeatIdle
  dsimp only
  repeat' first | with_reducible exact .next _ | split

theorem execReadDataReturn_completes (entry : Fin 24576) (noise : List (List Byte)) (s : State) :
    Completes (execReadDataReturn entry noise s) := by
  unfold execReadDataReturn
  dsimp only
  repeat' first | with_reducible exact .next _ | split

theorem execWriteAccepted_completes (entry : Fin 24576) (s : State) : Completes (execWriteAccepted entry s) := by
  unfold execWriteAccepted
  dsimp only
  repeat' first | with_reducible exact .next _ | split

theorem execResponseCeilingExpiry_completes (entry : Fin 24576) (s : State) :
    Completes (execResponseCeilingExpiry entry s) := by
  unfold execResponseCeilingExpiry
  dsimp only
  repeat' first | with_reducible exact .next _ | split

theorem execFabricErrorResponse_completes (entry : Fin 24576) (asleep : Bool) (s : State) :
    Completes (execFabricErrorResponse entry asleep s) := by
  unfold execFabricErrorResponse
  dsimp only
  repeat' first | with_reducible exact .next _ | split

theorem execConflictQueueAdvance_completes (slice : Fin 16) (line : Nat) (s : State) :
    Completes (execConflictQueueAdvance slice line s) := by
  unfold execConflictQueueAdvance
  repeat' first | with_reducible exact .next _ | split

theorem execBisnpIssue_completes (slice : Fin 16) (rec_ : Fin 128) (s : State) :
    Completes (execBisnpIssue slice rec_ s) := by
  unfold execBisnpIssue
  dsimp only
  repeat' first | with_reducible exact .next _ | split

theorem execBisnpCreditGrant_completes (port link : Fin 4) (n : Nat) (s : State) :
    Completes (execBisnpCreditGrant port link n s) := by
  unfold execBisnpCreditGrant
  dsimp only
  repeat' first | with_reducible exact .next _ | split

theorem execBiRsp_completes (m : M2S) (ans : BiAns) (s : State) : Completes (execBiRsp m ans s) := by
  unfold execBiRsp
  dsimp only
  repeat' first | with_reducible exact .next _ | split

theorem execBiTimeout_completes (slice : Fin 16) (rec_ : Fin 128) (s : State) :
    Completes (execBiTimeout slice rec_ s) := by
  unfold execBiTimeout
  dsimp only
  repeat' first | with_reducible exact .next _ | split

theorem execCreelEntryEccError_completes (slice : Fin 16) (damaged : List (Nat × Nat × Bool)) (s : State) :
    Completes (execCreelEntryEccError slice damaged s) := by
  unfold execCreelEntryEccError
  dsimp only
  repeat' first | with_reducible exact .next _ | split

theorem execCreelRecoveryComplete_completes (slice : Fin 16) (s : State) :
    Completes (execCreelRecoveryComplete slice s) := by
  unfold execCreelRecoveryComplete
  dsimp only
  repeat' first | with_reducible exact .next _ | split

theorem execSkeinMissFill_completes (win : Fin 4096) (hank : Nat) (page : Option (Fin 512)) (uncorrectable : Bool) (s : State) :
    Completes (execSkeinMissFill win hank page uncorrectable s) := by
  unfold execSkeinMissFill
  repeat' first | with_reducible exact .next _ | split

theorem execSkeinCacheEccError_completes (win : Fin 4096) (hank : Nat) (page : Option (Fin 512)) (uncorrectable : Bool) (s : State) :
    Completes (execSkeinCacheEccError win hank page uncorrectable s) := by
  unfold execSkeinCacheEccError
  dsimp only
  repeat' first | with_reducible exact .next _ | split

theorem execHomeFill_completes (win : Fin 4096) (hank : Nat) (page : Fin 512) (s : State) :
    Completes (execHomeFill win hank page s) := by
  unfold execHomeFill
  dsimp only
  repeat' first | with_reducible exact .next _ | split

theorem execPromotion_completes (win : Fin 4096) (hank : Nat) (page : Fin 512) (noise : List (List Byte)) (s : State) :
    Completes (execPromotion win hank page noise s) := by
  unfold execPromotion
  dsimp only
  repeat' first | with_reducible exact .next _ | split

theorem execPromotionComplete_completes (win : Fin 4096) (hank : Nat) (page : Fin 512) (s : State) :
    Completes (execPromotionComplete win hank page s) := by
  unfold execPromotionComplete
  dsimp only
  repeat' first | with_reducible exact .next _ | split

theorem execDemotion_completes (win : Fin 4096) (hank : Nat) (page : Fin 512) (noise : List (List Byte)) (s : State) :
    Completes (execDemotion win hank page noise s) := by
  unfold execDemotion
  dsimp only
  repeat' first | with_reducible exact .next _ | split

theorem execDemotionComplete_completes (win : Fin 4096) (hank : Nat) (page : Fin 512) (s : State) :
    Completes (execDemotionComplete win hank page s) := by
  unfold execDemotionComplete
  dsimp only
  repeat' first | with_reducible exact .next _ | split

theorem execCompactionMove_completes (win : Fin 4096) (hank : Nat) (page : Fin 512) (s : State) :
    Completes (execCompactionMove win hank page s) := by
  unfold execCompactionMove
  dsimp only
  repeat' first | with_reducible exact .next _ | split

theorem execCompactionComplete_completes (win : Fin 4096) (hank : Nat) (page : Fin 512) (s : State) :
    Completes (execCompactionComplete win hank page s) := by
  unfold execCompactionComplete
  dsimp only
  repeat' first | with_reducible exact .next _ | split

theorem execSegmentDecode_completes (entry : Fin 24576) (noise : List (List Byte)) (s : State) :
    Completes (execSegmentDecode entry noise s) := by
  unfold execSegmentDecode
  dsimp only
  repeat' first | with_reducible exact .next _ | split

theorem execRekeyUnitConvert_completes (win : Fin 4096) (noise : List (List Byte)) (s : State) :
    Completes (execRekeyUnitConvert win noise s) := by
  unfold execRekeyUnitConvert
  dsimp only
  repeat' first | with_reducible exact .next _ | split

theorem execTrngHealthFail_completes (s : State) : Completes (execTrngHealthFail s) := by
  unfold execTrngHealthFail
  dsimp only
  repeat' first | with_reducible exact .next _ | split

theorem execTrngKeyDraw_completes (s : State) : Completes (execTrngKeyDraw s) := by
  unfold execTrngKeyDraw
  repeat' first | with_reducible exact .next _ | split

theorem execSpindleUnitAdmit_completes (s : State) : Completes (execSpindleUnitAdmit s) := by
  unfold execSpindleUnitAdmit
  dsimp only
  repeat' first | with_reducible exact .next _ | split

theorem execSpindleClockGate_completes (n : Fin 48) (s : State) : Completes (execSpindleClockGate n s) := by
  unfold execSpindleClockGate
  dsimp only
  repeat' first | with_reducible exact .next _ | split

theorem execSpindleLendStart_completes (n : Fin 48) (role : Fin 6) (s : State) :
    Completes (execSpindleLendStart n role s) := by
  unfold execSpindleLendStart
  dsimp only
  repeat' first | with_reducible exact .next _ | split

theorem execLocalStoreError_completes (n : Fin 48) (area : LsArea) (correctable : Bool) (s : State) :
    Completes (execLocalStoreError n area correctable s) := by
  unfold execLocalStoreError
  dsimp only
  repeat' first | with_reducible exact .next _ | split

theorem execSpindlePcSample_completes (n : Fin 48) (slot : Fin 32) (pc : BitVec 13) (s : State) :
    Completes (execSpindlePcSample n slot pc s) := by
  unfold execSpindlePcSample
  dsimp only
  repeat' first | with_reducible exact .next _ | split

theorem execDescriptorTake_completes (s : State) : Completes (execDescriptorTake s) := by
  unfold execDescriptorTake
  dsimp only
  repeat' first | with_reducible exact .next _ | split

theorem execCompletionRecordWrite_completes (ring : Fin 8192) (index : Nat) (s : State) :
    Completes (execCompletionRecordWrite ring index s) := by
  unfold execCompletionRecordWrite
  dsimp only
  repeat' first | with_reducible exact .next _ | split

theorem execRingDrainComplete_completes (ring : Fin 8192) (s : State) :
    Completes (execRingDrainComplete ring s) := by
  unfold execRingDrainComplete
  dsimp only
  repeat' first | with_reducible exact .next _ | split

theorem execRekey_completes (src : RekeyBy) (index : Nat) (s : State) : Completes (execRekey src index s) := by
  unfold execRekey
  split
  · exact .next _
  · refine Completes.mcGate fun t => ?_
    repeat' first | with_reducible exact .next _ | split

theorem execRingOpLimitExpiry_completes (ring : Fin 8192) (index : Nat) (s : State) :
    Completes (execRingOpLimitExpiry ring index s) := by
  unfold execRingOpLimitExpiry
  dsimp only
  repeat' first | with_reducible exact .next _ | split

theorem execChannelCommandIssue_completes (ch : Fin 16) (ready : List Nat) (s : State) :
    Completes (execChannelCommandIssue ch ready s) := by
  unfold execChannelCommandIssue
  dsimp only
  repeat' first | with_reducible exact .next _ | split

theorem execRefresh_completes (ch : Fin 16) (s : State) : Completes (execRefresh ch s) := by
  unfold execRefresh
  dsimp only
  repeat' first | with_reducible exact .next _ | split

theorem execDimmThermalPoll_completes (ch : Fin 16) (sensors : List Nat) (mr4 : Bool) (s : State) :
    Completes (execDimmThermalPoll ch sensors mr4 s) := by
  unfold execDimmThermalPoll
  dsimp only
  repeat' first | with_reducible exact .next _ | split

theorem execZqCalibration_completes (ch : Fin 16) (s : State) : Completes (execZqCalibration ch s) := by
  unfold execZqCalibration
  dsimp only
  repeat' first | with_reducible exact .next _ | split

theorem execRdtWindowClear_completes (ch : Fin 16) (s : State) : Completes (execRdtWindowClear ch s) := by
  unfold execRdtWindowClear
  dsimp only
  repeat' first | with_reducible exact .next _ | split

theorem execMergeEntryTimeout_completes (ch : Fin 16) (line : Nat) (noise : List Byte) (s : State) :
    Completes (execMergeEntryTimeout ch line noise s) := by
  unfold execMergeEntryTimeout
  repeat' first | with_reducible exact .next _ | split

theorem execChannelRetrain_completes (by_ : Agent) (ch : Fin 16) (s : State) :
    Completes (execChannelRetrain by_ ch s) := by
  unfold execChannelRetrain
  repeat' first | with_reducible exact .next _ | split

theorem execTrainingRelease_completes (dimms : List (Option Dimms)) (s : State) :
    Completes (execTrainingRelease dimms s) := by
  unfold execTrainingRelease
  dsimp only
  repeat' first | with_reducible exact .next _ | split

theorem execTrainingStepResult_completes (ch : Fin 16) (r : TrainResult) (s : State) :
    Completes (execTrainingStepResult ch r s) := by
  unfold execTrainingStepResult
  dsimp only
  repeat' first | with_reducible exact .next _ | split

theorem execRateChangeComplete_completes (trained : List (Fin 16 × Bool)) (s : State) :
    Completes (execRateChangeComplete trained s) := by
  unfold execRateChangeComplete
  dsimp only
  repeat' first | with_reducible exact .next _ | split

theorem execScrubLine_completes (noise : List Byte) (s : State) : Completes (execScrubLine noise s) := by
  unfold execScrubLine
  dsimp only
  repeat' first | with_reducible exact .next _ | split

theorem execScrubVerifyRead_completes (noise : List Byte) (s : State) : Completes (execScrubVerifyRead noise s) := by
  unfold execScrubVerifyRead
  dsimp only
  repeat' first | with_reducible exact .next _ | split

theorem execScrubPassComplete_completes (s : State) : Completes (execScrubPassComplete s) := by
  unfold execScrubPassComplete
  dsimp only
  repeat' first | with_reducible exact .next _ | split

theorem execSramDoubleBitError_completes (where_ : Sram) (s : State) :
    Completes (execSramDoubleBitError where_ s) := by
  unfold execSramDoubleBitError
  dsimp only
  repeat' first | with_reducible exact .next _ | split

theorem execGetQosStatus_completes (seat : Fin 1024) (s : State) : Completes (execGetQosStatus seat s) := by
  unfold execGetQosStatus
  refine Completes.mcGate fun t => ?_
  dsimp only
  repeat' first | with_reducible exact .next _ | split

theorem execSetQosControl_completes (seat : Fin 1024) (values : List Nat) (s : State) :
    Completes (execSetQosControl seat values s) := by
  unfold execSetQosControl
  refine Completes.mcGate fun t => ?_
  repeat' first | with_reducible exact .next _ | split

theorem execFabricFlitCrcFail_completes (st : Fin 48) (link : Fin 4) (s : State) :
    Completes (execFabricFlitCrcFail st link s) := by
  unfold execFabricFlitCrcFail
  repeat' first | with_reducible exact .next _ | split

theorem execFabricLinkFail_completes (st : Fin 48) (link : Fin 4) (s : State) :
    Completes (execFabricLinkFail st link s) := by
  unfold execFabricLinkFail
  dsimp only
  repeat' first | with_reducible exact .next _ | split

theorem execFlip_completes (st : Fin 48) (oldFlits : Nat) (s : State) : Completes (execFlip st oldFlits s) := by
  unfold execFlip
  dsimp only
  repeat' first | with_reducible exact .next _ | split

theorem execSlotTableSwitch_completes (s : State) : Completes (execSlotTableSwitch s) := by
  unfold execSlotTableSwitch
  repeat' first | with_reducible exact .next _ | split

theorem execOldEpochRetire_completes (s : State) : Completes (execOldEpochRetire s) := by
  unfold execOldEpochRetire
  dsimp only
  repeat' first | with_reducible exact .next _ | split

theorem execBoundaryQueueEnter_completes (st : Fin 48) (lp : Fin 4) (entry : Option (Fin 24576)) (s : State) :
    Completes (execBoundaryQueueEnter st lp entry s) := by
  unfold execBoundaryQueueEnter
  dsimp only
  repeat' first | with_reducible exact .next _ | split

theorem execPortCreditTimeout_completes (st : Fin 48) (lp : Fin 4) (s : State) :
    Completes (execPortCreditTimeout st lp s) := by
  unfold execPortCreditTimeout
  repeat' first | with_reducible exact .next _ | split

theorem execSeatDetachTimeout_completes (seat : Fin 1024) (s : State) :
    Completes (execSeatDetachTimeout seat s) := by
  unfold execSeatDetachTimeout
  dsimp only
  repeat' first | with_reducible exact .next _ | split

theorem execInitiateDcAdd_completes (src : FmSource) (seat : Fin 1024) (win : Fin 4096) (exts : List Extent) (s : State) :
    Completes (execInitiateDcAdd src seat win exts s) := by
  unfold execInitiateDcAdd
  refine Completes.mcGate fun t => ?_
  dsimp only
  repeat' first | with_reducible exact .next _ | split

theorem execInitiateDcRelease_completes (seat : Fin 1024) (win : Fin 4096) (exts : List Extent) (s : State) :
    Completes (execInitiateDcRelease seat win exts s) := by
  unfold execInitiateDcRelease
  refine Completes.mcGate fun t => ?_
  dsimp only
  repeat' first | with_reducible exact .next _ | split

theorem execForcedDcRemoval_completes (win : Fin 4096) (exts : List Extent) (s : State) :
    Completes (execForcedDcRemoval win exts s) := by
  unfold execForcedDcRemoval
  refine Completes.mcGate fun t => ?_
  dsimp only
  repeat' first | with_reducible exact .next _ | split

theorem execDcReleaseComplete_completes (win : Fin 4096) (s : State) : Completes (execDcReleaseComplete win s) := by
  unfold execDcReleaseComplete
  dsimp only
  repeat' first | with_reducible exact .next _ | split

theorem execPair_completes (p : Fin 2) (h : PlyHdr) (step frag frags : Nat) (sigOk : Bool) (payload : List Byte) (s : State) :
    Completes (execPair p h step frag frags sigOk payload s) := by
  unfold execPair
  dsimp only
  repeat' first | with_reducible exact .next _ | split

theorem execPlyPhyTrained_completes (p : Fin 2) (width : Nat) (s : State) :
    Completes (execPlyPhyTrained p width s) := by
  unfold execPlyPhyTrained
  dsimp only
  repeat' first | with_reducible exact .next _ | split

theorem execPairingStepTimeout_completes (p : Fin 2) (s : State) : Completes (execPairingStepTimeout p s) := by
  unfold execPairingStepTimeout
  dsimp only
  repeat' first | with_reducible exact .next _ | split

theorem execAuthFailRetry_completes (p : Fin 2) (s : State) : Completes (execAuthFailRetry p s) := by
  unfold execAuthFailRetry
  dsimp only
  repeat' first | with_reducible exact .next _ | split

theorem execReplayTimerExpiry_completes (p : Fin 2) (s : State) : Completes (execReplayTimerExpiry p s) := by
  unfold execReplayTimerExpiry
  repeat' first | with_reducible exact .next _ | split

theorem execAckTimer_completes (p : Fin 2) (s : State) : Completes (execAckTimer p s) := by
  unfold execAckTimer
  repeat' first | with_reducible exact .next _ | split

theorem execKeepaliveTimer_completes (p : Fin 2) (s : State) : Completes (execKeepaliveTimer p s) := by
  unfold execKeepaliveTimer
  dsimp only
  repeat' first | with_reducible exact .next _ | split

theorem execPlyRxTimeout_completes (p : Fin 2) (s : State) : Completes (execPlyRxTimeout p s) := by
  unfold execPlyRxTimeout
  repeat' first | with_reducible exact .next _ | split

theorem execPlyPhyDown_completes (p : Fin 2) (s : State) : Completes (execPlyPhyDown p s) := by
  unfold execPlyPhyDown
  repeat' first | with_reducible exact .next _ | split

theorem execPlyLaneFail_completes (p : Fin 2) (s : State) : Completes (execPlyLaneFail p s) := by
  unfold execPlyLaneFail
  repeat' first | with_reducible exact .next _ | split

theorem execKeepalive_completes (p : Fin 2) (h : PlyHdr) (s : State) : Completes (execKeepalive p h s) := by
  unfold execKeepalive
  dsimp only
  repeat' first | with_reducible exact .next _ | split

theorem execCrlBatchTimer_completes (s : State) : Completes (execCrlBatchTimer s) := by
  unfold execCrlBatchTimer
  dsimp only
  repeat' first | with_reducible exact .next _ | split

theorem execLagLimit_completes (win : Fin 4096) (s : State) : Completes (execLagLimit win s) := by
  unfold execLagLimit
  dsimp only
  repeat' first | with_reducible exact .next _ | split

theorem execPlyPromote_completes (src : Cci) (win : Nat) (s : State) : Completes (execPlyPromote src win s) := by
  unfold execPlyPromote
  dsimp only
  repeat' first | with_reducible exact .next _ | split

theorem execCreelRebuildComplete_completes (s : State) : Completes (execCreelRebuildComplete s) := by
  unfold execCreelRebuildComplete
  dsimp only
  repeat' first | with_reducible exact .next _ | split

theorem execResyncHankCopy_completes (win : Fin 4096) (hank : Nat) (noise : List (List Byte)) (s : State) :
    Completes (execResyncHankCopy win hank noise s) := by
  unfold execResyncHankCopy
  dsimp only
  repeat' first | with_reducible exact .next _ | split

theorem execWarpImageLoad_completes (s : State) : Completes (execWarpImageLoad s) := by
  unfold execWarpImageLoad
  repeat' first | with_reducible exact .next _ | split

theorem execReweaveRequest_completes (f : Fn) (words : List Word) (s : State) :
    Completes (execReweaveRequest f words s) := by
  unfold execReweaveRequest
  dsimp only
  repeat' first | with_reducible exact .next _ | split

theorem execMctpReweaveRequest_completes (image : List Byte) (s : State) :
    Completes (execMctpReweaveRequest image s) := by
  unfold execMctpReweaveRequest
  exact Completes.mcGate fun t => .next _

theorem execReweaveRemovalDrained_completes (s : State) : Completes (execReweaveRemovalDrained s) := by
  unfold execReweaveRemovalDrained
  dsimp only
  repeat' first | with_reducible exact .next _ | split

theorem execMicrocodeDrainComplete_completes (s : State) : Completes (execMicrocodeDrainComplete s) := by
  unfold execMicrocodeDrainComplete
  repeat' first | with_reducible exact .next _ | split

theorem execReweaveFlipped_completes (s : State) : Completes (execReweaveFlipped s) := by
  unfold execReweaveFlipped
  dsimp only
  repeat' first | with_reducible exact .next _ | split

theorem execReweaveComplete_completes (s : State) : Completes (execReweaveComplete s) := by
  unfold execReweaveComplete
  dsimp only
  repeat' first | with_reducible exact .next _ | split

theorem execFullImageTransfer_completes (image : List Byte) (s : State) :
    Completes (execFullImageTransfer image s) := by
  unfold execFullImageTransfer
  refine Completes.mcGate fun t => ?_
  dsimp only
  repeat' first | with_reducible exact .next _ | split

theorem execTrngDrawTimeout_completes (s : State) : Completes (execTrngDrawTimeout s) := by
  unfold execTrngDrawTimeout
  dsimp only
  repeat' first | with_reducible exact .next _ | split

theorem execTrngHealthRecover_completes (s : State) : Completes (execTrngHealthRecover s) := by
  unfold execTrngHealthRecover
  dsimp only
  repeat' first | with_reducible exact .next _ | split

theorem execDomainIdle_completes (dom : Fin 26) (s : State) : Completes (execDomainIdle dom s) := by
  unfold execDomainIdle
  repeat' first | with_reducible exact .next _ | split

theorem execGroupSleepRequest_completes (dom : Fin 26) (s : State) : Completes (execGroupSleepRequest dom s) := by
  unfold execGroupSleepRequest
  dsimp only
  repeat' first | with_reducible exact .next _ | split

theorem execMemberAnswer_completes (dom : Fin 26) (s : State) : Completes (execMemberAnswer dom s) := by
  unfold execMemberAnswer
  dsimp only
  repeat' first | with_reducible exact .next _ | split

theorem execPrepareTimeout_completes (s : State) : Completes (execPrepareTimeout s) := by
  unfold execPrepareTimeout
  dsimp only
  repeat' first | with_reducible exact .next _ | split

theorem execMemberFenced_completes (dom : Fin 26) (s : State) : Completes (execMemberFenced dom s) := by
  unfold execMemberFenced
  dsimp only
  repeat' first | with_reducible exact .next _ | split

theorem execMemberStopped_completes (dom : Fin 26) (s : State) : Completes (execMemberStopped dom s) := by
  unfold execMemberStopped
  dsimp only
  repeat' first | with_reducible exact .next _ | split

theorem execLateRefuse_completes (dom : Fin 26) (reason : Fin 256) (s : State) :
    Completes (execLateRefuse dom reason s) := by
  unfold execLateRefuse
  dsimp only
  repeat' first | with_reducible exact .next _ | split

theorem execDrainTimeout_completes (dom : Fin 26) (s : State) : Completes (execDrainTimeout dom s) := by
  unfold execDrainTimeout
  dsimp only
  repeat' first | with_reducible exact .next _ | split

theorem execPllLock_completes (s : State) : Completes (execPllLock s) := by
  unfold execPllLock
  dsimp only
  repeat' first | with_reducible exact .next _ | split

theorem execPllLockTimeout_completes (s : State) : Completes (execPllLockTimeout s) := by
  unfold execPllLockTimeout
  repeat' first | with_reducible exact .next _ | split

theorem execVoltageConfirm_completes (s : State) : Completes (execVoltageConfirm s) := by
  unfold execVoltageConfirm
  dsimp only
  repeat' first | with_reducible exact .next _ | split

theorem execVoltageConfirmTimeout_completes (s : State) : Completes (execVoltageConfirmTimeout s) := by
  unfold execVoltageConfirmTimeout
  repeat' first | with_reducible exact .next _ | split

theorem execLinkUp_completes (port link : Fin 4) (p : Partner) (s : State) :
    Completes (execLinkUp port link p s) := by
  unfold execLinkUp
  dsimp only
  repeat' first | with_reducible exact .next _ | split

theorem execFlitCrcReplay_completes (port link : Fin 4) (replay : Bool) (s : State) :
    Completes (execFlitCrcReplay port link replay s) := by
  unfold execFlitCrcReplay
  dsimp only
  repeat' first | with_reducible exact .next _ | split

theorem execL0pWidthChange_completes (port link : Fin 4) (width : Nat) (s : State) :
    Completes (execL0pWidthChange port link width s) := by
  unfold execL0pWidthChange
  dsimp only
  repeat' first | with_reducible exact .next _ | split

theorem execLinkRecovery_completes (port link : Fin 4) (p : Partner) (s : State) :
    Completes (execLinkRecovery port link p s) := by
  unfold execLinkRecovery
  dsimp only
  repeat' first | with_reducible exact .next _ | split

theorem execIdeKmKeyProg_completes (port link : Fin 4) (str : IdeStream) (skid : Bool) (s : State) :
    Completes (execIdeKmKeyProg port link str skid s) := by
  unfold execIdeKmKeyProg
  dsimp only
  repeat' first | with_reducible exact .next _ | split

theorem execIdeIntegrityFailure_completes (port link : Fin 4) (str : IdeStream) (s : State) :
    Completes (execIdeIntegrityFailure port link str s) := by
  unfold execIdeIntegrityFailure
  dsimp only
  repeat' first | with_reducible exact .next _ | split

theorem execCxlCacheFlit_completes (port link : Fin 4) (s : State) : Completes (execCxlCacheFlit port link s) := by
  unfold execCxlCacheFlit
  repeat' first | with_reducible exact .next _ | split

theorem execAspmEntryRequest_completes (port link : Fin 4) (s : State) :
    Completes (execAspmEntryRequest port link s) := by
  unfold execAspmEntryRequest
  repeat' first | with_reducible exact .next _ | split

theorem execFunctionLevelReset_completes (f : Fn) (s : State) : Completes (execFunctionLevelReset f s) := by
  unfold execFunctionLevelReset
  dsimp only
  repeat' first | with_reducible exact .next _ | split

theorem execBrownout_completes (src : BoSrc) (s : State) : Completes (execBrownout src s) := by
  unfold execBrownout
  dsimp only
  repeat' first | with_reducible exact .next _ | split

theorem execLdoReady_completes (s : State) : Completes (execLdoReady s) := by
  unfold execLdoReady
  dsimp only
  repeat' first | with_reducible exact .next _ | split

theorem execWatchdogExpiry_completes (s : State) : Completes (execWatchdogExpiry s) := by
  unfold execWatchdogExpiry
  dsimp only
  repeat' first | with_reducible exact .next _ | split

theorem execWarmEscalation_completes (s : State) : Completes (execWarmEscalation s) := by
  unfold execWarmEscalation
  repeat' first | with_reducible exact .next _ | split

theorem execRefclkLoss_completes (r : RefClk) (s : State) : Completes (execRefclkLoss r s) := by
  unfold execRefclkLoss
  dsimp only
  repeat' first | with_reducible exact .next _ | split

theorem execRefclkReturn_completes (r : RefClk) (s : State) : Completes (execRefclkReturn r s) := by
  unfold execRefclkReturn
  dsimp only
  repeat' first | with_reducible exact .next _ | split

theorem execRailsOkQualified_completes (s : State) : Completes (execRailsOkQualified s) := by
  unfold execRailsOkQualified
  dsimp only
  repeat' first | with_reducible exact .next _ | split

theorem execRailsOkFall_completes (s : State) : Completes (execRailsOkFall s) := by
  unfold execRailsOkFall
  dsimp only
  repeat' first | with_reducible exact .next _ | split

theorem execVinQualified_completes (s : State) : Completes (execVinQualified s) := by
  unfold execVinQualified
  dsimp only
  repeat' first | with_reducible exact .next _ | split

theorem execVinOutOfWindow_completes (s : State) : Completes (execVinOutOfWindow s) := by
  unfold execVinOutOfWindow
  repeat' first | with_reducible exact .next _ | split

theorem execHswSample_completes (r : HswRead) (s : State) : Completes (execHswSample r s) := by
  unfold execHswSample
  dsimp only
  repeat' first | with_reducible exact .next _ | split

theorem execFaultTimerExpiry_completes (s : State) : Completes (execFaultTimerExpiry s) := by
  unfold execFaultTimerExpiry
  repeat' first | with_reducible exact .next _ | split

theorem execCircuitBreaker_completes (s : State) : Completes (execCircuitBreaker s) := by
  unfold execCircuitBreaker
  repeat' first | with_reducible exact .next _ | split

theorem execPowerGood_completes (s : State) : Completes (execPowerGood s) := by
  unfold execPowerGood
  repeat' first | with_reducible exact .next _ | split

theorem execCooldownEnd_completes (s : State) : Completes (execCooldownEnd s) := by
  unfold execCooldownEnd
  dsimp only
  repeat' first | with_reducible exact .next _ | split

theorem execTriesReset_completes (s : State) : Completes (execTriesReset s) := by
  unfold execTriesReset
  dsimp only
  repeat' first | with_reducible exact .next _ | split

theorem execMailboxUnsupportedOpcode_completes (c : Cci) (opcode : Nat) (s : State) :
    Completes (execMailboxUnsupportedOpcode c opcode s) := by
  unfold execMailboxUnsupportedOpcode
  repeat' first | with_reducible exact .next _ | split

theorem execFlashPageProgram_completes (s : State) : Completes (execFlashPageProgram s) := by
  unfold execFlashPageProgram
  dsimp only
  repeat' first | with_reducible exact .next _ | split

theorem execTransferFwComplete_completes (s : State) : Completes (execTransferFwComplete s) := by
  unfold execTransferFwComplete
  dsimp only
  repeat' first | with_reducible exact .next _ | split

theorem execWindowDrainComplete_completes (win : Fin 4096) (s : State) :
    Completes (execWindowDrainComplete win s) := by
  unfold execWindowDrainComplete
  dsimp only
  repeat' first | with_reducible exact .next _ | split

theorem execSanitizeComplete_completes (s : State) : Completes (execSanitizeComplete s) := by
  unfold execSanitizeComplete
  dsimp only
  repeat' first | with_reducible exact .next _ | split

theorem execSensorScan_completes (r : Scan) (s : State) : Completes (execSensorScan r s) := by
  unfold execSensorScan
  dsimp only
  repeat' first | with_reducible exact .next _ | split

theorem execCalibrationPeriodTimer_completes (s : State) : Completes (execCalibrationPeriodTimer s) := by
  unfold execCalibrationPeriodTimer
  dsimp only
  repeat' first | with_reducible exact .next _ | split

theorem execCalibrationComplete_completes (steps : List Bool) (s : State) :
    Completes (execCalibrationComplete steps s) := by
  unfold execCalibrationComplete
  dsimp only
  repeat' first | with_reducible exact .next _ | split

theorem execPersistentLogWrite_completes (s : State) : Completes (execPersistentLogWrite s) := by
  unfold execPersistentLogWrite
  repeat' first | with_reducible exact .next _ | split

theorem execFirmwareStart_completes (s : State) : Completes (execFirmwareStart s) := by
  unfold execFirmwareStart
  dsimp only
  repeat' first | with_reducible exact .next _ | split

theorem execLcOverwriteComplete_completes (s : State) : Completes (execLcOverwriteComplete s) := by
  unfold execLcOverwriteComplete
  repeat' first | with_reducible exact .next _ | split

theorem execLcSealWritten_completes (s : State) : Completes (execLcSealWritten s) := by
  unfold execLcSealWritten
  dsimp only
  repeat' first | with_reducible exact .next _ | split

theorem execLcFuseBurn_completes (s : State) : Completes (execLcFuseBurn s) := by
  unfold execLcFuseBurn
  dsimp only
  repeat' first | with_reducible exact .next _ | split

theorem execLcReset_completes (s : State) : Completes (execLcReset s) := by
  unfold execLcReset
  repeat' first | with_reducible exact .next _ | split

theorem execCounterWrap_completes (kind : Fin 6) (inst : Fin 48) (cnt : Fin 8) (s : State) :
    Completes (execCounterWrap kind inst cnt s) := by
  unfold execCounterWrap
  dsimp only
  repeat' first | with_reducible exact .next _ | split

theorem execTelemetryDump_completes (s : State) : Completes (execTelemetryDump s) := by
  unfold execTelemetryDump
  repeat' first | with_reducible exact .next _ | split

theorem execBoxAssign_completes (box : Fin 66) (seat : Fin 1024) (memoryMode : Bool) (s : State) :
    Completes (execBoxAssign box seat memoryMode s) := by
  unfold execBoxAssign
  dsimp only
  repeat' first | with_reducible exact .next _ | split

theorem execSeatDrainComplete_completes (seat : Fin 1024) (s : State) :
    Completes (execSeatDrainComplete seat s) := by
  unfold execSeatDrainComplete
  dsimp only
  repeat' first | with_reducible exact .next _ | split

theorem execBoxPoll_completes (s : State) : Completes (execBoxPoll s) := by
  unfold execBoxPoll
  dsimp only
  repeat' first | with_reducible exact .next _ | split

/-! ## Every command and every step -/

theorem exec_completes (c : Instr) (s : State) : Completes (exec c s) := by
  unfold exec
  cases c with
  | seatIdle => exact execSeatIdle_completes ..
  | readDataReturn => exact execReadDataReturn_completes ..
  | writeAccepted => exact execWriteAccepted_completes ..
  | responseCeilingExpiry => exact execResponseCeilingExpiry_completes ..
  | fabricErrorResponse => exact execFabricErrorResponse_completes ..
  | conflictQueueAdvance => exact execConflictQueueAdvance_completes ..
  | bisnpIssue => exact execBisnpIssue_completes ..
  | bisnpCreditGrant => exact execBisnpCreditGrant_completes ..
  | biRsp => exact execBiRsp_completes ..
  | biTimeout => exact execBiTimeout_completes ..
  | creelEntryEccError => exact execCreelEntryEccError_completes ..
  | creelRecoveryComplete => exact execCreelRecoveryComplete_completes ..
  | skeinMissFill => exact execSkeinMissFill_completes ..
  | skeinCacheEccError => exact execSkeinCacheEccError_completes ..
  | homeFill => exact execHomeFill_completes ..
  | promotion => exact execPromotion_completes ..
  | promotionComplete => exact execPromotionComplete_completes ..
  | demotion => exact execDemotion_completes ..
  | demotionComplete => exact execDemotionComplete_completes ..
  | compactionMove => exact execCompactionMove_completes ..
  | compactionComplete => exact execCompactionComplete_completes ..
  | segmentDecode => exact execSegmentDecode_completes ..
  | rekeyUnitConvert => exact execRekeyUnitConvert_completes ..
  | trngHealthFail => exact execTrngHealthFail_completes ..
  | trngKeyDraw => exact execTrngKeyDraw_completes ..
  | spindleUnitAdmit => exact execSpindleUnitAdmit_completes ..
  | spindleClockGate => exact execSpindleClockGate_completes ..
  | spindleLendStart => exact execSpindleLendStart_completes ..
  | localStoreError => exact execLocalStoreError_completes ..
  | spindlePcSample => exact execSpindlePcSample_completes ..
  | descriptorTake => exact execDescriptorTake_completes ..
  | completionRecordWrite => exact execCompletionRecordWrite_completes ..
  | ringDrainComplete => exact execRingDrainComplete_completes ..
  | rekey => exact execRekey_completes ..
  | ringOpLimitExpiry => exact execRingOpLimitExpiry_completes ..
  | channelCommandIssue => exact execChannelCommandIssue_completes ..
  | refresh => exact execRefresh_completes ..
  | dimmThermalPoll => exact execDimmThermalPoll_completes ..
  | zqCalibration => exact execZqCalibration_completes ..
  | rdtWindowClear => exact execRdtWindowClear_completes ..
  | mergeEntryTimeout => exact execMergeEntryTimeout_completes ..
  | channelRetrain => exact execChannelRetrain_completes ..
  | trainingRelease => exact execTrainingRelease_completes ..
  | trainingStepResult => exact execTrainingStepResult_completes ..
  | rateChangeComplete => exact execRateChangeComplete_completes ..
  | scrubLine => exact execScrubLine_completes ..
  | scrubVerifyRead => exact execScrubVerifyRead_completes ..
  | scrubPassComplete => exact execScrubPassComplete_completes ..
  | sramDoubleBitError => exact execSramDoubleBitError_completes ..
  | getQosStatus => exact execGetQosStatus_completes ..
  | setQosControl => exact execSetQosControl_completes ..
  | fabricFlitCrcFail => exact execFabricFlitCrcFail_completes ..
  | fabricLinkFail => exact execFabricLinkFail_completes ..
  | flip => exact execFlip_completes ..
  | slotTableSwitch => exact execSlotTableSwitch_completes ..
  | oldEpochRetire => exact execOldEpochRetire_completes ..
  | boundaryQueueEnter => exact execBoundaryQueueEnter_completes ..
  | portCreditTimeout => exact execPortCreditTimeout_completes ..
  | seatDetachTimeout => exact execSeatDetachTimeout_completes ..
  | initiateDcAdd => exact execInitiateDcAdd_completes ..
  | initiateDcRelease => exact execInitiateDcRelease_completes ..
  | forcedDcRemoval => exact execForcedDcRemoval_completes ..
  | dcReleaseComplete => exact execDcReleaseComplete_completes ..
  | pair => exact execPair_completes ..
  | plyPhyTrained => exact execPlyPhyTrained_completes ..
  | pairingStepTimeout => exact execPairingStepTimeout_completes ..
  | authFailRetry => exact execAuthFailRetry_completes ..
  | replayTimerExpiry => exact execReplayTimerExpiry_completes ..
  | ackTimer => exact execAckTimer_completes ..
  | keepaliveTimer => exact execKeepaliveTimer_completes ..
  | plyRxTimeout => exact execPlyRxTimeout_completes ..
  | plyPhyDown => exact execPlyPhyDown_completes ..
  | plyLaneFail => exact execPlyLaneFail_completes ..
  | keepalive => exact execKeepalive_completes ..
  | crlBatchTimer => exact execCrlBatchTimer_completes ..
  | lagLimit => exact execLagLimit_completes ..
  | plyPromote => exact execPlyPromote_completes ..
  | creelRebuildComplete => exact execCreelRebuildComplete_completes ..
  | resyncHankCopy => exact execResyncHankCopy_completes ..
  | warpImageLoad => exact execWarpImageLoad_completes ..
  | reweaveRequest => exact execReweaveRequest_completes ..
  | mctpReweaveRequest => exact execMctpReweaveRequest_completes ..
  | reweaveRemovalDrained => exact execReweaveRemovalDrained_completes ..
  | microcodeDrainComplete => exact execMicrocodeDrainComplete_completes ..
  | reweaveFlipped => exact execReweaveFlipped_completes ..
  | reweaveComplete => exact execReweaveComplete_completes ..
  | fullImageTransfer => exact execFullImageTransfer_completes ..
  | trngDrawTimeout => exact execTrngDrawTimeout_completes ..
  | trngHealthRecover => exact execTrngHealthRecover_completes ..
  | domainIdle => exact execDomainIdle_completes ..
  | groupSleepRequest => exact execGroupSleepRequest_completes ..
  | memberAnswer => exact execMemberAnswer_completes ..
  | prepareTimeout => exact execPrepareTimeout_completes ..
  | memberFenced => exact execMemberFenced_completes ..
  | memberStopped => exact execMemberStopped_completes ..
  | lateRefuse => exact execLateRefuse_completes ..
  | drainTimeout => exact execDrainTimeout_completes ..
  | pllLock => exact execPllLock_completes ..
  | pllLockTimeout => exact execPllLockTimeout_completes ..
  | voltageConfirm => exact execVoltageConfirm_completes ..
  | voltageConfirmTimeout => exact execVoltageConfirmTimeout_completes ..
  | linkUp => exact execLinkUp_completes ..
  | flitCrcReplay => exact execFlitCrcReplay_completes ..
  | l0pWidthChange => exact execL0pWidthChange_completes ..
  | linkRecovery => exact execLinkRecovery_completes ..
  | ideKmKeyProg => exact execIdeKmKeyProg_completes ..
  | ideIntegrityFailure => exact execIdeIntegrityFailure_completes ..
  | cxlCacheFlit => exact execCxlCacheFlit_completes ..
  | aspmEntryRequest => exact execAspmEntryRequest_completes ..
  | functionLevelReset => exact execFunctionLevelReset_completes ..
  | brownout => exact execBrownout_completes ..
  | ldoReady => exact execLdoReady_completes ..
  | watchdogExpiry => exact execWatchdogExpiry_completes ..
  | warmEscalation => exact execWarmEscalation_completes ..
  | refclkLoss => exact execRefclkLoss_completes ..
  | refclkReturn => exact execRefclkReturn_completes ..
  | railsOkQualified => exact execRailsOkQualified_completes ..
  | railsOkFall => exact execRailsOkFall_completes ..
  | vinQualified => exact execVinQualified_completes ..
  | vinOutOfWindow => exact execVinOutOfWindow_completes ..
  | hswSample => exact execHswSample_completes ..
  | faultTimerExpiry => exact execFaultTimerExpiry_completes ..
  | circuitBreaker => exact execCircuitBreaker_completes ..
  | powerGood => exact execPowerGood_completes ..
  | cooldownEnd => exact execCooldownEnd_completes ..
  | triesReset => exact execTriesReset_completes ..
  | mailboxUnsupportedOpcode => exact execMailboxUnsupportedOpcode_completes ..
  | flashPageProgram => exact execFlashPageProgram_completes ..
  | transferFwComplete => exact execTransferFwComplete_completes ..
  | windowDrainComplete => exact execWindowDrainComplete_completes ..
  | sanitizeComplete => exact execSanitizeComplete_completes ..
  | sensorScan => exact execSensorScan_completes ..
  | calibrationPeriodTimer => exact execCalibrationPeriodTimer_completes ..
  | calibrationComplete => exact execCalibrationComplete_completes ..
  | persistentLogWrite => exact execPersistentLogWrite_completes ..
  | firmwareStart => exact execFirmwareStart_completes ..
  | lcOverwriteComplete => exact execLcOverwriteComplete_completes ..
  | lcSealWritten => exact execLcSealWritten_completes ..
  | lcFuseBurn => exact execLcFuseBurn_completes ..
  | lcReset => exact execLcReset_completes ..
  | counterWrap => exact execCounterWrap_completes ..
  | telemetryDump => exact execTelemetryDump_completes ..
  | boxAssign => exact execBoxAssign_completes ..
  | seatDrainComplete => exact execSeatDrainComplete_completes ..
  | boxPoll => exact execBoxPoll_completes ..
  | _ => exact ⟨_, rfl⟩

/-- A command from a good state leaves a good state; the two that start powered time afresh are left out. -/
theorem exec_good {q : List Instr} {p : Bool} {fl : Option Nat} {s : State} (h : Good q p fl s) (c : Instr)
    (hcold : c ≠ .coldPowerUp) (hbrown : ∀ src, c ≠ .brownout src) : GoodX q p fl (exec c s) := by
  have replayed := replayRow_good (i := c) h
  unfold exec
  cases c with
  | coldPowerUp => exact absurd rfl hcold
  | brownout src => exact absurd rfl (hbrown src)
  | cxlCacheFlit => exact execCxlCacheFlit_good h
  | aspmEntryRequest => exact execAspmEntryRequest_good h
  | ideKmKeyProg => exact execIdeKmKeyProg_good h
  | bisnpCreditGrant => exact execBisnpCreditGrant_good h
  | linkUp => exact execLinkUp_good h
  | flitCrcReplay => exact execFlitCrcReplay_good h
  | linkRecovery => exact execLinkRecovery_good h
  | l0pWidthChange => exact execL0pWidthChange_good h
  | linkDown => exact execLinkDown_good h
  | perstAssert => exact execPerstAssert_good h
  | ideIntegrityFailure => exact execIdeIntegrityFailure_good h
  | seatDetachTimeout => exact execSeatDetachTimeout_good h
  | dcReleaseComplete => exact execDcReleaseComplete_good h
  | seatDrainComplete => exact execSeatDrainComplete_good h
  | windowDrainComplete => exact execWindowDrainComplete_good h
  | trackerEntryGrant => exact execTrackerEntryGrant_good h
  | seatIdle => exact execSeatIdle_good h
  | readDataReturn => exact execReadDataReturn_good h
  | writeAccepted => exact execWriteAccepted_good h
  | responseCeilingExpiry => exact execResponseCeilingExpiry_good h
  | fabricErrorResponse => exact execFabricErrorResponse_good h
  | creelRequest => exact execCreelRequest_good h
  | conflictQueueAdvance => exact execConflictQueueAdvance_good h
  | bisnpIssue => exact execBisnpIssue_good h
  | biTimeout => exact execBiTimeout_good h
  | writeRetry => exact execWriteRetry_good h
  | creelEntryEccError => exact execCreelEntryEccError_good h
  | creelRecoveryComplete => exact execCreelRecoveryComplete_good h
  | creelSliceReady => exact execCreelSliceReady_good h
  | skeinMissFill => exact execSkeinMissFill_good h
  | skeinCacheEccError => exact execSkeinCacheEccError_good h
  | homeFill => exact execHomeFill_good h
  | promotion => exact execPromotion_good h
  | promotionComplete => exact execPromotionComplete_good h
  | demotion => exact execDemotion_good h
  | demotionComplete => exact execDemotionComplete_good h
  | compactionMove => exact execCompactionMove_good h
  | compactionComplete => exact execCompactionComplete_good h
  | segmentDecode => exact execSegmentDecode_good h
  | rekeyUnitConvert => exact execRekeyUnitConvert_good h
  | spindleClockGate => exact execSpindleClockGate_good h
  | spindleLendStart => exact execSpindleLendStart_good h
  | localStoreError => exact execLocalStoreError_good h
  | spindlePcSample => exact execSpindlePcSample_good h
  | nop => exact execNop_good h
  | copy => exact execCopy_good h
  | fill => exact execFill_good h
  | zero => exact execZero_good h
  | compress => exact execCompress_good h
  | decompress => exact execDecompress_good h
  | crc => exact execCrc_good h
  | hash => exact execHash_good h
  | scan => exact execScan_good h
  | gather => exact execGather_good h
  | promote => exact execPromote_good h
  | demote => exact execDemote_good h
  | rekey => exact execRekey_good h
  | scrub => exact execScrub_good h
  | completionRecordWrite => exact execCompletionRecordWrite_good h
  | ringOpLimitExpiry => exact execRingOpLimitExpiry_good h
  | ringDrainComplete => exact execRingDrainComplete_good h
  | channelCommandIssue => exact execChannelCommandIssue_good h
  | refresh => exact execRefresh_good h
  | dimmThermalPoll => exact execDimmThermalPoll_good h
  | zqCalibration => exact execZqCalibration_good h
  | rdtWindowClear => exact execRdtWindowClear_good h
  | mergeEntryTimeout => exact execMergeEntryTimeout_good h
  | trainingStepResult => exact execTrainingStepResult_good h
  | rateChangeComplete => exact execRateChangeComplete_good h
  | leakyBucketLeak => exact execLeakyBucketLeak_good h
  | scrubLine => exact execScrubLine_good h
  | scrubVerifyRead => exact execScrubVerifyRead_good h
  | sramDoubleBitError => exact execSramDoubleBitError_good h
  | fabricFlitCrcFail => exact execFabricFlitCrcFail_good h
  | fabricLinkFail => exact execFabricLinkFail_good h
  | flip => exact execFlip_good h
  | drainTimeout => exact execDrainTimeout_good h
  | boundaryQueueEnter => exact execBoundaryQueueEnter_good h
  | portCreditTimeout => exact execPortCreditTimeout_good h
  | endpointFatalParity => exact execEndpointFatalParity_good h
  | plyAck => exact execPlyAck_good h
  | keepalive => exact execKeepalive_good h
  | pair => exact execPair_good h
  | mwr => exact execMwr_good h
  | rsync => exact execRsync_good h
  | metaRecord => exact execMetaRecord_good h
  | keyset => exact execKeyset_good h
  | pread => exact execPread_good h
  | mbox => exact execMbox_good h
  | ctrlMtab => exact execCtrlMtab_good h
  | ctrlResyncStart => exact execCtrlResyncStart_good h
  | ctrlResyncEnd => exact execCtrlResyncEnd_good h
  | ctrlHandover => exact execCtrlHandover_good h
  | ctrlLedger => exact execCtrlLedger_good h
  | ctrlRekey => exact execCtrlRekey_good h
  | mack => exact execMack_good h
  | crec => exact execCrec_good h
  | batchEnd => exact execBatchEnd_good h
  | batchAck => exact execBatchAck_good h
  | prsp => exact execPrsp_good h
  | laneset => exact execLaneset_good h
  | lanesetAck => exact execLanesetAck_good h
  | replayTimerExpiry => exact execReplayTimerExpiry_good h
  | ackTimer => exact execAckTimer_good h
  | keepaliveTimer => exact execKeepaliveTimer_good h
  | plyRxTimeout => exact execPlyRxTimeout_good h
  | plyPhyDown => exact execPlyPhyDown_good h
  | plyPhyTrained => exact execPlyPhyTrained_good h
  | pairingStepTimeout => exact execPairingStepTimeout_good h
  | authFailRetry => exact execAuthFailRetry_good h
  | plyLaneFail => exact execPlyLaneFail_good h
  | lagLimit => exact execLagLimit_good h
  | resyncHankCopy => exact execResyncHankCopy_good h
  | domainIdle => exact execDomainIdle_good h
  | groupSleepRequest => exact execGroupSleepRequest_good h
  | memberAnswer => exact execMemberAnswer_good h
  | memberFenced => exact execMemberFenced_good h
  | memberStopped => exact execMemberStopped_good h
  | lateRefuse => exact execLateRefuse_good h
  | groupWake => exact execGroupWake_good h
  | wakeStepReady => exact execWakeStepReady_good h
  | refclkLoss => exact execRefclkLoss_good h
  | refclkReturn => exact execRefclkReturn_good h
  | hswSample => exact execHswSample_good h
  | trainingRelease => exact execTrainingRelease_good h
  | sensorScan => exact execSensorScan_good h
  | calibrationComplete => exact execCalibrationComplete_good h
  | boxAssign => exact execBoxAssign_good h
  | mctpUnsupportedType => exact execMctpUnsupportedType_good h
  | jtagInstruction => exact execJtagInstruction_good h
  | counterWrap => exact execCounterWrap_good h
  | perstDeassert => exact execPerstDeassert_good h
  | transferFwComplete => exact execTransferFwComplete_good h
  | sanitizeComplete => exact execSanitizeComplete_good h
  | epochEnd => exact execEpochEnd_good h
  | trngHealthFail => exact execTrngHealthFail_good h
  | trngHealthRecover => exact execTrngHealthRecover_good h
  | spindleUnitAdmit => exact execSpindleUnitAdmit_good h
  | descriptorTake => exact execDescriptorTake_good h
  | scrubPassComplete => exact execScrubPassComplete_good h
  | slotTableSwitch => exact execSlotTableSwitch_good h
  | oldEpochRetire => exact execOldEpochRetire_good h
  | warpImageLoad => exact execWarpImageLoad_good h
  | reweaveRemovalDrained => exact execReweaveRemovalDrained_good h
  | microcodeDrainComplete => exact execMicrocodeDrainComplete_good h
  | reweaveFlipped => exact execReweaveFlipped_good h
  | reweaveComplete => exact execReweaveComplete_good h
  | crlBatchTimer => exact execCrlBatchTimer_good h
  | creelRebuildComplete => exact execCreelRebuildComplete_good h
  | prepareTimeout => exact execPrepareTimeout_good h
  | wakeStepTimeout => exact execWakeStepTimeout_good h
  | pllLock => exact execPllLock_good h
  | pllLockTimeout => exact execPllLockTimeout_good h
  | voltageConfirm => exact execVoltageConfirm_good h
  | voltageConfirmTimeout => exact execVoltageConfirmTimeout_good h
  | ldoReady => exact execLdoReady_good h
  | wakeRecordCopy => exact execWakeRecordCopy_good h
  | vinQualified => exact execVinQualified_good h
  | vinOutOfWindow => exact execVinOutOfWindow_good h
  | faultTimerExpiry => exact execFaultTimerExpiry_good h
  | circuitBreaker => exact execCircuitBreaker_good h
  | powerGood => exact execPowerGood_good h
  | cooldownEnd => exact execCooldownEnd_good h
  | triesReset => exact execTriesReset_good h
  | railsOkQualified => exact execRailsOkQualified_good h
  | railsOkFall => exact execRailsOkFall_good h
  | globalResetPin => exact execGlobalResetPin_good h
  | watchdogExpiry => exact execWatchdogExpiry_good h
  | warmEscalation => exact execWarmEscalation_good h
  | trngKeyDraw => exact execTrngKeyDraw_good h
  | firmwareStart => exact execFirmwareStart_good h
  | calibrationPeriodTimer => exact execCalibrationPeriodTimer_good h
  | persistentLogWrite => exact execPersistentLogWrite_good h
  | flashPageProgram => exact execFlashPageProgram_good h
  | boxPoll => exact execBoxPoll_good h
  | i3cAddressAssign => exact execI3cAddressAssign_good h
  | lcOverwriteComplete => exact execLcOverwriteComplete_good h
  | lcSealWritten => exact execLcSealWritten_good h
  | lcFuseBurn => exact execLcFuseBurn_good h
  | lcReset => exact execLcReset_good h
  | telemetryDump => exact execTelemetryDump_good h
  | trngDrawTimeout => exact execTrngDrawTimeout_good h
  | _ => exact replayed

/-- Every command keeps soundness, the queue and the part option. -/
theorem exec_good_none {q : List Instr} {p : Bool} {s : State} (h : Good q p none s) (c : Instr) :
    GoodX q p none (exec c s) := by
  by_cases hcold : c = .coldPowerUp
  · subst hcold; exact execColdPowerUp_good h
  by_cases hbrown : ∃ src, c = .brownout src
  · obtain ⟨src, rfl⟩ := hbrown; exact execBrownout_good h
  · exact exec_good h c hcold fun src e => hbrown ⟨src, e⟩

theorem Sound.good {s : State} (h : Sound s) : Good s.pending s.boot.partH none s :=
  ⟨h, rfl, rfl, fun _ e => nomatch e⟩

/-- Settles O1: a step is its two branches, and the passing of time changes what `advanceBy_frame` names. -/
theorem stepTakesTheFront : Obligations.StepTakesTheFront := by
  unfold Obligations.StepTakesTheFront
  intro s
  refine ⟨fun c rest hq => ?_, fun hq => ?_⟩
  · unfold step; rw [hq]
  · obtain ⟨p, f, o, e⟩ := advanceBy_frame s 1
    refine ⟨p, f, o, ?_⟩
    rw [← e]
    unfold step
    rw [hq]

/-- Settles O2: every table of the state after reset is empty, and so is its log. -/
theorem resetIsSound : Obligations.ResetIsSound := by
  unfold Obligations.ResetIsSound
  constructor <;> decide

/-- Settles O3: each row completes, and its `Good` lemma keeps the queue and the part option. -/
theorem everyCommandCompletes : Obligations.EveryCommandCompletes := by
  unfold Obligations.EveryCommandCompletes
  intro c s
  obtain ⟨t, e⟩ := exec_completes c s
  refine ⟨t, e, fun hs => ?_⟩
  have ht := (exec_good_none hs.good c).good t e
  exact ⟨ht.pending, ht.part⟩

/-- Settles O4: a step is one command from a sound state, whose `Good` lemma says that it stays sound, or one nanosecond. -/
theorem stepKeepsSound : Obligations.StepKeepsSound := by
  unfold Obligations.StepKeepsSound
  intro s t hs e
  unfold step at e
  split at e
  · cases e
    exact (advanceBy_good hs.good).toSound
  next c rest hq =>
    have hrest : Sound { s with pending := rest } := { hs with }
    exact ((exec_good_none hrest.good c).good t e).toSound

theorem now_burnAtReset (s : State) : (burnAtReset s).now = s.now := by
  unfold burnAtReset
  dsimp only
  split
  · rfl
  · split
    · rfl
    · split <;> rfl

theorem now_globalReset (s : State) : (globalReset s).now = s.now := now_burnAtReset _

/-- Settles O5: a `Good` state may carry an instant that its clock has not passed, which every row but two keeps; a cold
reset sets the clock to zero. -/
theorem poweredTimeRunsOn : Obligations.PoweredTimeRunsOn := by
  unfold Obligations.PoweredTimeRunsOn
  refine ⟨fun c s t hs e hcold hbrown => ?_, fun s => ⟨_, rfl, Nat.zero_div _⟩, fun src s hlow hnormal => ?_,
    fun s => ⟨_, rfl, now_globalReset s⟩⟩
  · have hnow : Good s.pending s.boot.partH (some s.now) s := ⟨hs, rfl, rfl, fun n hn => by cases hn; exact le_rfl⟩
    exact ((exec_good hnow c hcold hbrown).good t e).clock s.now rfl
  · change ∃ t, execBrownout src s = .next t ∧ us t = 0
    unfold execBrownout
    cases src with
    | lowPowerLimit => simp [hlow rfl, us, coldReset]
    | normalLimit => simp [hnormal rfl, us, coldReset]
    | vauxLow => simp [us, coldReset]

end Sys2Proof.Machine
end

section
/-! SUPPORT. Served commands as outcomes: a row that passes a gate and is served is its effect in the state in which it is
served. -/

namespace Sys2Proof.Machine

open Sys2Proof

theorem accessRow_served {s : State} {by_ : Agent} {off : Nat} (h : regServed s by_ off = true) (row : Instr)
    (f : State → State) {t : State} (ht : f (regAwake s by_ off) = t) :
    (.next (access s by_ off row f) : Host.Outcome State Fault Refusal) = .next t := by
  rw [access_served h, ht]

theorem fnRow_served {s : State} {g : Fn} (h : fnServed s g = true) (row : Instr) (f : State → State) {t : State}
    (ht : f (fnAwake s g) = t) : (.next (fnGate s g row f) : Host.Outcome State Fault Refusal) = .next t := by
  rw [fnGate_served h, ht]

theorem m2sRow_served {s : State} {m : M2S} {rwd : Bool} (h : m2sServed s m rwd = true) (row : Instr) (hint : Bool)
    (f : State → State) {t : State} (ht : f (m2sAwake s m) = t) :
    (.next (m2sGate s m row rwd hint f) : Host.Outcome State Fault Refusal) = .next t := by
  rw [m2sGate_served h, ht]

theorem mcUp_of_mcServed {s : State} (h : mcServed s = true) : mcUp s = true := by
  unfold mcServed at h
  exact (Bool.and_eq_true_iff.1 h).1

end Sys2Proof.Machine
end

section
/-! SUPPORT. The mailbox and the CCI over MCTP (R42–R44, R415, R424): queries, settings and the steps of a firmware
transfer. -/

namespace Sys2Proof.Machine

open Sys2Proof

section

variable {s : State} {c : Cci}

/-- A query that is served answers Success with what it reads in the state in which it is served. -/
theorem query_served (h : cciServed s c = true) (row : Instr) (op : Nat) (body : State → Contents) {x : Contents}
    (hx : ∀ d, cciAwake s c = { s with doms := d } → body { s with doms := d } = x) :
    (.next (cciSimple s c row op body) : Host.Outcome State Fault Refusal) =
      .next (cciAnswer (cciAwake s c) c op .success x) := by
  obtain ⟨d, hd⟩ := cciAwake_eq s c
  unfold cciSimple
  rw [cciRun_served h (by simp), hd, hx d hd]

/-- A command that is served acts in the state in which it is served. -/
theorem command_served (h : cciServed s c = true) (row : Instr) (op : Nat) (f : State → State) {t : State}
    (ht : f (cciAwake s c) = t) :
    (.next (cciRun s c row op false f) : Host.Outcome State Fault Refusal) = .next t := by
  rw [cciRun_served h (by simp), ht]

/-- So does an admin command, from a sender with the right. -/
theorem adminCommand_served (h : cciServed s c = true) (ha : cciAdmin s c = true) (row : Instr) (op : Nat)
    (f : State → State) {t : State} (ht : f (cciAwake s c) = t) :
    (.next (cciRun s c row op true f) : Host.Outcome State Fault Refusal) = .next t := by
  rw [cciRun_served h fun _ => ha, ht]

end

/-- Settles O10: each query is `query_served`, and what it reads does not depend on the clocks that were woken. -/
theorem mailboxQueriesAnswer : Obligations.MailboxQueriesAnswer := by
  unfold Obligations.MailboxQueriesAnswer
  intro s c h
  refine ⟨query_served h _ _ _ fun d _ => rfl, query_served h _ _ _ fun d _ => ?_, query_served h _ _ _ fun d _ => rfl,
    query_served h _ _ _ fun d _ => rfl, command_served h _ _ _ ?_, query_served h _ _ _ fun d _ => rfl,
    query_served h _ _ _ fun d _ => rfl, query_served h _ _ _ fun d _ => rfl, query_served h _ _ _ fun d _ => rfl,
    query_served h _ _ _ fun d _ => rfl, query_served h _ _ _ fun d _ => rfl, fun op hop hext => ?_⟩
  · change [2, s.sec.bank, match [0, 1].find? fun k => (bankAt s k).armed with
        | some k => k
        | none => 2, fwVersion s 0, fwVersion s 1] = _
    cases [0, 1].find? fun k => (bankAt s k).armed <;> rfl
  · obtain ⟨d, hd⟩ := cciAwake_eq s c
    rw [hd]; rfl
  · have hunknown : (allOps.contains op || (op == 0xC500 && c == .mctp)) = false := by
      rw [hop]
      rcases hext with hne | hne
      · simp [hne]
      · simp [hne]
    change execMailboxUnsupportedOpcode c op s = _
    unfold execMailboxUnsupportedOpcode
    rw [hunknown]
    exact command_served h _ _ _ rfl

/-- Settles O11: each command acts in the state in which it is served, whose records and keys are those of the state. -/
theorem mailboxSettings : Obligations.MailboxSettings := by
  unfold Obligations.MailboxSettings
  intro s c h
  obtain ⟨d, hd⟩ := cciAwake_eq s c
  refine ⟨command_served h _ _ _ ?_, fun hs hmem => command_served h _ _ _ ?_,
    fun pol => command_served h _ _ _ rfl, fun v hv => command_served h _ _ _ ?_⟩
  · rw [hd]
    dsimp only
    split <;> rfl
  · have hview : viewRecs (cciAwake s c) c = viewRecs s c := by rw [hd]; rfl
    have hkey : viewKey (cciAwake s c) c = viewKey s c := by rw [hd]; rfl
    rw [hview, hkey, if_pos]
    rw [List.all_eq_true]
    intro n hn
    obtain ⟨r, hr, rfl⟩ := List.mem_map.1 (hmem n hn)
    exact List.any_eq_true.2 ⟨r, hr, beq_self_eq_true _⟩
  · rw [hd]
    dsimp only
    rw [Nat.mod_eq_of_lt hv]
    rfl

theorem mcUp_of_cciServed {s : State} {c : Cci} (h : cciServed s c = true) : mcUp s = true := by
  unfold cciServed at h
  exact mcUp_of_mcServed (Bool.and_eq_true_iff.1 h).1

/-- Settles O12: the two commands act in the state in which they are served; the page program and the end of a transfer are
the branches in which they have something to do. -/
theorem firmwareTransfer : Obligations.FirmwareTransfer := by
  unfold Obligations.FirmwareTransfer
  intro s c h
  obtain ⟨d, hd⟩ := cciAwake_eq s c
  have hup := mcUp_of_cciServed h
  refine ⟨fun data ha hfree hbg => adminCommand_served h ha _ _ _ ?_, fun ha hpend => adminCommand_served h ha _ _ _ ?_,
    fun x hx hq hpages => ?_, fun x hx hpages hby => ?_⟩
  · have hidle : (xferBusy (cciAwake s c) || (fnAt (cciAwake s c) (cciKey c)).bg != 0) = false := by
      rw [hd]
      change (xferBusy s || (fnAt s (cciKey c)).bg != 0) = false
      rw [hfree, hbg]; rfl
    rw [hidle]; rfl
  · have harm : armPending (cciAwake s c) = (fwEvent (modBank (cciAwake s c) (1 - s.sec.bank) fun b =>
        { b with armed := true }) (1 - s.sec.bank) 0, true) := by
      rw [hd]
      exact if_pos hpend
    rw [harm]; rfl
  · change execFlashPageProgram s = _
    unfold execFlashPageProgram
    simp only [hx]
    rw [if_neg (by simp [hq, hpages, hup])]
  · change execTransferFwComplete s = _
    unfold execTransferFwComplete
    simp only [hx]
    rw [if_neg (by simp [hpages, hup]), hby]

/-! ## Media (R44, R116, R181, R262, R265) -/

/-- Settles O13: every command acts in the state in which it is served, whose windows, busy marks and lines are those of the
state. -/
theorem mediaCommands : Obligations.MediaCommands := by
  unfold Obligations.MediaCommands
  intro s
  refine ⟨fun c e dla len h hbg hwin hlen => command_served h _ _ _ ?_, fun c dla w h ha hline =>
    ⟨adminCommand_served h ha _ _ _ ?_, fun u v hprep hput => adminCommand_served h ha _ _ _ ?_⟩, fun c h =>
    ⟨fun ha hfree hbg => adminCommand_served h ha _ _ _ ?_, fun ha hfree => adminCommand_served h ha _ _ _ ?_,
      fun hbg => ?_⟩⟩
  all_goals obtain ⟨d, hd⟩ := cciAwake_eq s c
  · have hidle : (fnAt (cciAwake s c) (cciKey c)).bg = 0 := by rw [hd]; exact hbg
    have hwin' : (cciWins (cciAwake s c) c).find? (fun e => decide (e.2.dlaHank * 0x200000 ≤ dla) &&
        decide (dla + len ≤ e.2.dlaHank * 0x200000 + winBytes e.2)) = some e := by rw [hd]; exact hwin
    have hlines : scrubLines (cciAwake s c) e.1 dla (dla + len) = scrubLines s e.1 dla (dla + len) := by rw [hd]; rfl
    simp only [hidle, hwin', hlines]
    simp [hlen]
  · have hline' : lineWin (cciAwake s c) dla = some w := by rw [hd]; exact hline
    simp only [hline']
  · have hline' : lineWin (cciAwake s c) dla = some w := by rw [hd]; exact hline
    simp [hline', hprep, hput]
  · have hidle : (eraseBusy (cciAwake s c) || (fnAt (cciAwake s c) (cciKey c)).bg != 0) = false := by
      rw [hd]
      change (eraseBusy s || (fnAt s (cciKey c)).bg != 0) = false
      rw [hfree, hbg]; rfl
    have hmgmt : (cciAwake s c).mgmt = s.mgmt := by rw [hd]
    rw [hidle, hmgmt]; rfl
  · have hidle : eraseBusy (cciAwake s c) = false := by rw [hd]; exact hfree
    have hmgmt : (cciAwake s c).mgmt = s.mgmt := by rw [hd]
    rw [hidle, hmgmt]; rfl
  · change execSanitizeComplete s = _
    unfold execSanitizeComplete
    simp only [hbg]

/-! ## Life cycle (R436–R438) -/

theorem lcAt_running {s : State} {r : LcRun} (h : s.sec.run = some r) {n : Nat} (hn : r.step = n) :
    lcAt s n = some r := by
  unfold lcAt
  rw [h]
  simp [hn]

/-- Settles O14: the three commands act in the state in which they are served; each step of a run is the row for which the
run stands. -/
theorem lifeCycle : Obligations.LifeCycle := by
  unfold Obligations.LifeCycle
  intro s
  refine ⟨fun c h ha => ?_, fun r hr => ⟨fun hn => ?_, fun hn => ?_, fun hn => ?_, fun hn => ?_⟩⟩
  · obtain ⟨d, hd⟩ := cciAwake_eq s c
    have hidle : ∀ (_ : eraseBusy s = false) (_ : (fnAt s (cciKey c)).bg = 0),
        (eraseBusy (cciAwake s c) || (fnAt (cciAwake s c) (cciKey c)).bg != 0) = false := by
      intro hfree hbg
      rw [hd]
      change (eraseBusy s || (fnAt s (cciKey c)).bg != 0) = false
      rw [hfree, hbg]; rfl
    have htoken : ∀ k n, tokenOk (cciAwake s c) k n = tokenOk s k n := by intro k n; rw [hd]; rfl
    have hsec : (cciAwake s c).sec = s.sec := by rw [hd]
    refine ⟨adminCommand_served h ha _ _ _ ?_, fun k target hdebug hfree hbg htarget hok hmay =>
      adminCommand_served h ha _ _ _ ?_, fun k hfree hbg hok htarget hmay => adminCommand_served h ha _ _ _ ?_⟩
    · rw [hd]
    · rw [Bool.or_assoc, hidle hfree hbg, hsec, hdebug, htoken, hok]
      simp [htarget, hmay]
    · rw [hidle hfree hbg, hsec, htoken, hok]
      simp [htarget, hmay]
  · change execLcOverwriteComplete s = _
    unfold execLcOverwriteComplete
    rw [lcAt_running hr hn]
  · change ∃ t, execLcSealWritten s = _ ∧ _
    unfold execLcSealWritten
    rw [lcAt_running hr hn]
    obtain ⟨b, l, m, f, o, e⟩ := logUncoded_frame s (srcOf secBase) 438 sevInfo
      (le 1 (lcCode s.sec.lc) ++ le 1 (lcCode r.target)) [] []
    dsimp only
    rw [e]
    refine ⟨_, rfl, rfl, ?_, ?_⟩
    · simp only [List.length_drop]
      omega
    · rw [List.getLast?_drop, if_neg (by simp), List.getLast?_append]
      rfl
  · change execLcFuseBurn s = _
    unfold execLcFuseBurn
    rw [lcAt_running hr hn]
  · change execLcReset s = _
    unfold execLcReset
    rw [lcAt_running hr hn]

/-! ## DOE and SPDM (R40, R433–R436) -/

/-- An SPDM request that is taken acts in the state in which it is answered. -/
theorem spdm_served {s : State} {r : Responder} (h : responderServed s r = true) (row : Instr) (signed : Bool)
    (go : State → State) {t : State} (ht : go (responderAwake s r (if signed then doeSigned else doePlain)) = t) :
    (.next (spdmRun s r row signed go) : Host.Outcome State Fault Refusal) = .next t := by
  rw [spdmRun_served h, ht]

/-- Settles O15: each request acts in the state in which it is answered, whose agreement, session and life cycle are those
of the state. -/
theorem attestationAnswers : Obligations.AttestationAnswers := by
  unfold Obligations.AttestationAnswers
  intro s r h
  have hkeeps : ∀ b, spdmFull (responderAwake s r b) r = spdmFull s r ∧ canSign (responderAwake s r b) = canSign s ∧
      (fnAt (responderAwake s r b) (respKey r)).session = (fnAt s (respKey r)).session ∧
      ∀ i, measurement (responderAwake s r b) i = measurement s i := by
    intro b
    obtain ⟨d, fn, e, hfalcon, hsession⟩ := responderAwake_eq s r b
    rw [e]
    refine ⟨?_, rfl, hsession, fun i => rfl⟩
    unfold spdmFull
    exact congrArg (· && s.sec.lc != .scrap) hfalcon
  refine ⟨spdm_served h _ false _ rfl, spdm_served h _ false _ rfl, fun falcon => spdm_served h _ false _ rfl,
    fun i hlo hhi => spdm_served h _ false _ ?_, fun slot bytes => ⟨fun hsize => ?_, fun hfull hslot =>
      spdm_served h _ false _ ?_, fun hfull hsign hslot => spdm_served h _ true _ ?_⟩, fun hfull hsign =>
    spdm_served h _ true _ ?_, fun hfull hsession => spdm_served h _ false _ ?_, fun f hf => ?_⟩
  · obtain ⟨-, -, -, hmeas⟩ := hkeeps doePlain
    have hone : i ≠ 0xFF := by omega
    simp [hmeas, hlo, hhi, hone]
    rfl
  · have hfits : (r != .mctp && decide (doeLimit < bytes)) = false := by
      rcases hsize with hle | rfl
      · simp [hle.not_gt]
      · rfl
    change execSetCertificate { by_ := r, bytes := bytes } s = _
    unfold execSetCertificate
    dsimp only
    rw [hfits]
    exact spdm_served h _ false _ rfl
  · obtain ⟨hf, -⟩ := hkeeps doePlain
    simp [hf, hfull, hslot]
  · obtain ⟨hf, hs, -⟩ := hkeeps doeSigned
    simp [hf, hs, hfull, hsign, hslot]
  · obtain ⟨hf, hs, -⟩ := hkeeps doeSigned
    simp [hf, hs, hfull, hsign]
  · obtain ⟨hf, -, hss, -⟩ := hkeeps doePlain
    simp [hf, hss, hfull, hsession]
  · subst hf
    have hcdat : cdatOf (responderAwake s (.doe f) doePlain) f = cdatOf s f := by
      obtain ⟨d, fn, e, -⟩ := responderAwake_eq s (.doe f) doePlain
      rw [e]; rfl
    refine ⟨congrArg _ (doeTake_served h _ false _), congrArg _ ((doeTake_served h _ false _).trans ?_)⟩
    rw [← hcdat]; rfl

/-! ## Boot (R430, R431) -/

/-- Trying banks changes their marks and the results that SEC shows. -/
theorem tryBanks_frame (l : List (Nat × Bool)) (s : State) :
    ∃ x b, (tryBanks l s).1 = { s with sec := x, banks := b } := by
  induction l generalizing s with
  | nil => exact ⟨s.sec, s.banks, rfl⟩
  | cons e l ih =>
    obtain ⟨k, p⟩ := e
    unfold tryBanks
    dsimp only
    split
    · cases p <;> exact ⟨_, _, rfl⟩
    · obtain ⟨x, b, e⟩ := ih (putResult_ s k (bankResult s k))
      exact ⟨x, b, e⟩

theorem bumpBoot_frame (s : State) : ∃ b, bumpBoot s = { s with boot := b } ∧ b.phase = s.boot.phase ∧
    b.warmSince = s.boot.warmSince := by
  unfold bumpBoot
  split
  · exact ⟨s.boot, rfl, rfl, rfl⟩
  · exact ⟨_, rfl, rfl, rfl⟩

/-- A bank is started, or none, as the boot ROM's tries end; the watchdog runs from then. -/
theorem firmwareStart_cold {s : State} (hphase : s.boot.phase = .firmware) (hwarm : s.boot.warmSince = none) :
    let q := tryBanks (bootOrder s) (bumpBoot { s with sec := { s.sec with resA := 6, resB := 6 } })
    ∃ v, match q.2 with
      | none => exec .firmwareStart s = .next { q.1 with boot := { q.1.boot with phase := .noFirmware } }
      | some k => exec .firmwareStart s = .next (resume (startCal v)) ∧ v.sec.bank = k ∧ v.sec.started = true ∧
          v.sec.confirmed = false ∧ v.mgmt.wdtAt = s.now ∧ v.boot.phase = .training := by
  intro q
  have hboot : q.1.now = s.now ∧ q.1.boot.phase = .firmware ∧ q.1.boot.warmSince = none := by
    obtain ⟨x, b, e⟩ := tryBanks_frame (bootOrder s) (bumpBoot { s with sec := { s.sec with resA := 6, resB := 6 } })
    obtain ⟨b', e', hp, hw⟩ := bumpBoot_frame { s with sec := { s.sec with resA := 6, resB := 6 } }
    rw [show q.1 = _ from e, e']
    exact ⟨rfl, hp.trans hphase, hw.trans hwarm⟩
  have hexec : exec .firmwareStart s = execFirmwareStart s := rfl
  unfold execFirmwareStart at hexec
  rw [if_neg (by simp [hphase])] at hexec
  dsimp only at hexec
  generalize hr : tryBanks (bootOrder _) (bumpBoot _) = r at hexec
  have hq : q = r := hr
  clear_value q
  subst hq
  obtain ⟨t, k⟩ := q
  obtain ⟨hnow, hp, hw⟩ := hboot
  dsimp only at hnow hp hw hexec ⊢
  cases k with
  | none =>
    refine ⟨s, hexec.trans ?_⟩
    dsimp only
    rw [hw]; rfl
  | some k => exact ⟨_, hexec, rfl, rfl, rfl, hnow, if_pos hp⟩

/-- CONFIRM of a started pending bank makes it the active one; the vendor counter never falls (R431). -/
theorem putConfirm_pending {s : State} (hstart : s.sec.started = true) (hopen : s.sec.confirmed = false)
    (hpend : (bankAt s s.sec.bank).pending = true) :
    (putConfirm s).mgmt.active = s.sec.bank ∧ (putConfirm s).sec.confirmed = true ∧
    bankAt (putConfirm s) s.sec.bank = { bankAt s s.sec.bank with pending := false, armed := false, tried := false } ∧
    s.sec.vsvn ≤ (putConfirm s).sec.vsvn := by
  unfold putConfirm
  rw [hstart, hopen]
  dsimp only [Bool.not_true, Bool.or_false]
  rw [if_neg (by simp), if_pos hpend]
  refine ⟨rfl, rfl, ?_, ?_⟩
  · exact tabGet_mod_same ({} : Bank) s.banks s.sec.bank fun b =>
      { b with pending := false, armed := false, tried := false }
  · dsimp only
    split
    · exact le_max_left _ _
    · exact le_rfl

/-- Settles O16: the three rows, by what the boot ROM's tries and CONFIRM leave. -/
theorem bootAndDebug : Obligations.BootAndDebug := by
  unfold Obligations.BootAndDebug
  intro s
  refine ⟨firmwareStart_cold, fun by_ h hstart hopen hpend => ?_, fun j hj => ?_⟩
  · refine ⟨_, accessRow_served h _ _ rfl, ?_⟩
    obtain ⟨d, hd⟩ := regAwake_eq s by_ (secBase + 0x2C)
    rw [hd]
    exact putConfirm_pending hstart hopen hpend
  · refine congrArg _ (if_pos ?_)
    simpa using hj

end Sys2Proof.Machine
end

section
/-! SUPPORT. The request tracker (R77, R78, R83, R86, R88, R89): its rows. -/

namespace Sys2Proof.Machine

open Sys2Proof

section

variable {s : State}

/-- A message that leaves ingress is decoded and weighed as before: neither reads the buffers. -/
theorem ingressStep_grant {port : Nat} {before rest : List Msg} {m : Msg} {way : Bool × Option Nat}
    (hpick : pickIngress s [] (ingressAt s port) = some (before, m, rest)) (hfresh : staleDecode s m = false)
    (hway : grantWay s m = some way) :
    ingressStep s port =
      entryPass (takeEntry (modIngress s port fun _ => before ++ rest) m way).1 (freeEntry s (poolOf m)) := by
  have hfresh' : staleDecode (modIngress s port fun _ => before ++ rest) m = false := hfresh
  have hway' : grantWay (modIngress s port fun _ => before ++ rest) m = some way := hway
  unfold ingressStep
  rw [hpick]
  dsimp only
  rw [hfresh', hway']
  rfl

/-! ## Data that return -/

section DataReturn

variable {e : Fin 24576} {t : Trk} (htrk : trkAt s e = some t) (hacc : t.accepted = true) (hraw : t.decoding = false)
  (hread : isRead t.m.op = true) (hissued : readIssued s e = true) (hlost : t.lost = false)
  (hon : ∀ x ∈ t.snap, chOnline s (chOfLine s x.line) = true)
  (hroute : flitReaches s (chStation (chOfLine s ((t.snap.map (·.line)).headD 0))) (hpStation t.m.port) 1 = true)
include htrk hacc hraw hread hissued hlost hon hroute

/-- Data of a hot line end their read. -/
theorem readDataReturn_hot {line key gen : Nat} (hloc : t.loc = some (.hot line key gen)) (noise : List (List Byte)) :
    exec (.readDataReturn e noise) s = .next (passLine (endRead (readLines s (some t.m.dla) t.snap noise).1 e t
      (readLines s (some t.m.dla) t.snap noise).2 t.devLoad) (lineIdx t.m.dla)) := by
  change execReadDataReturn e noise s = _
  unfold execReadDataReturn
  simp only [htrk]
  rw [if_neg (by simp [hacc, hraw, hread, hissued, hlost]), if_neg (by simpa using hon), if_neg (by rw [hroute]; simp), hloc]

/-- Data of a raw segment end their read, or every read of the segment where they cannot be read. -/
theorem readDataReturn_comp {gran o len : Nat} (hloc : t.loc = some (.comp gran o len)) (noise : List (List Byte)) :
    exec (.readDataReturn e noise) s = match (readLines s none t.snap noise).2 with
      | some b => .next (passLine (endRead (readLines s none t.snap noise).1 e t
          (some (bytesAt b (o % 64 + t.m.dla / 64 % 8 * 64) 64)) t.devLoad) (lineIdx t.m.dla))
      | none => .next (passAll (poisonWaiters (segmentError (readLines s none t.snap noise).1 t.m.win t.m.dla 2)
          t.m.win t.m.dla)) := by
  change execReadDataReturn e noise s = _
  unfold execReadDataReturn
  simp only [htrk]
  rw [if_neg (by simp [hacc, hraw, hread, hissued, hlost]), if_neg (by simpa using hon), if_neg (by rw [hroute]; simp), hloc] <;> rfl

end DataReturn

/-! ## A write that its channel takes -/

/-- The state in which a write has reached its channel, before its entry ends (R86, R241). -/
def writeStored (s : State) (e : Nat) (t : Trk) (line key gen : Nat) : State :=
  let u₁ := writeTouch s t.m.win (hankOff s t.m.win t.m.dla) (pageNo t.m.dla)
  let u₂ := storeMsg (if isDb u₁ t.m.win then u₁ else forwardWrite u₁ e t t.poisonWr) t.m line key gen t.poisonWr
  if t.m.op = .wr || t.poisonWr then queueWrite u₂ line t.m.qc t.m.seat t.granted (some e) else u₂

/-- The entry of a write that its channel has taken, with the DevLoad of the channel. -/
def writeTaken (u : State) (t : Trk) (line : Nat) : Trk :=
  { t with accepted := true, serial := true, devLoad := devLoadAt u (chOfLine u line) t.m.qc }

/-- The partner's acknowledgement is still awaited: a STRICT window in SYNC, whose forward has not ended (R86, R341). -/
def awaitsMirror (v : State) (e : Nat) (t : Trk) : Prop :=
  t.strict = true ∧ (winAt v t.m.win).ms = .sync ∧ (v.pair.fwds.any fun f => f.entry == some e) = true ∧
    t.silent = false ∧ t.st = .issued

/-- What becomes of a write once its channel has taken it: it waits for the partner, or is answered, or its answer is
absorbed on the way. -/
def writeAnswer (v : State) (e : Nat) (t t' : Trk) (line : Nat) : State :=
  let ch := chStation (chOfLine v line)
  if (t.strict && (winAt v t.m.win).ms = .sync && v.pair.fwds.any fun f => f.entry == some e) && !t.silent &&
      t.st = .issued then modTrk v e fun _ => some { t' with st := .mirror }
  else if t.silent || t.st = .abandoned || flitReaches v ch (hpStation t.m.port) 1 then endNdr v e t' .cmp t'.devLoad
  else modTrk (absorbFlit v ch (hpStation t.m.port)) e fun _ => some { t' with lost := true }

section

variable {v : State} {e line : Nat} {t t' : Trk}

theorem writeAnswer_mirror (h : awaitsMirror v e t) :
    writeAnswer v e t t' line = modTrk v e fun _ => some { t' with st := .mirror } := by
  obtain ⟨hs, hsync, hwaits, hloud, hissued⟩ := h
  refine if_pos ?_
  rw [hs, hsync, hwaits, hloud, hissued]
  rfl

theorem writeAnswer_lax (h : ¬ awaitsMirror v e t) : writeAnswer v e t t' line =
    if t.silent || t.st = .abandoned || flitReaches v (chStation (chOfLine v line)) (hpStation t.m.port) 1 then
      endNdr v e t' .cmp t'.devLoad
    else modTrk (absorbFlit v (chStation (chOfLine v line)) (hpStation t.m.port)) e fun _ => some { t' with lost := true } :=
  if_neg fun hcond => h (by simpa [awaitsMirror, and_assoc] using hcond)

theorem writeAnswer_ends (h : ¬ awaitsMirror v e t) (hgoes : (t.silent = true ∨ t.st = .abandoned) ∨
    flitReaches v (chStation (chOfLine v line)) (hpStation t.m.port) 1 = true) :
    writeAnswer v e t t' line = endNdr v e t' .cmp t'.devLoad :=
  (writeAnswer_lax h).trans (if_pos (by simpa using hgoes))

theorem writeAnswer_absorbed (h : ¬ awaitsMirror v e t) (hloud : t.silent = false) (hlive : t.st ≠ .abandoned)
    (hstuck : flitReaches v (chStation (chOfLine v line)) (hpStation t.m.port) 1 = false) : writeAnswer v e t t' line =
      modTrk (absorbFlit v (chStation (chOfLine v line)) (hpStation t.m.port)) e fun _ => some { t' with lost := true } :=
  (writeAnswer_lax h).trans (if_neg (by simp [hloud, hlive, hstuck]))

end

theorem writeAccepted_ready {e : Fin 24576} {t : Trk} {line key gen : Nat} (htrk : trkAt s e = some t)
    (hwrite : isWrite t.m.op = true) (hnew : t.accepted = false) (hloc : t.loc.isSome = true)
    (hst : t.st = .issued ∨ t.st = .abandoned) (hfree : blocked s t.ord t.m.seat (lineIdx t.m.dla) = false)
    (hahead : isDb s t.m.win = true → writeAhead s (lineIdx t.m.dla) t.gord = false)
    (hpage : pageQueued s t.m.win t.m.dla t.waitOrd = false)
    (htarget : freshTarget s t.m.win t.m.dla = some (line, key, gen)) (hroom : writeRoom s line = true)
    (hroute : flitReaches s (sliceStation (sknSlice t.m.dla)) (chStation (chOfLine s line)) 1 = true) :
    let u := writeStored s e t line key gen
    let t' := writeTaken u t line
    ∀ x, writeAnswer (modTrk u e fun _ => some t') e t t' line = x →
      exec (.writeAccepted e) s = .next (passLine x (lineIdx t.m.dla)) := by
  intro u t' x hx
  have hdb : (isDb s t.m.win && writeAhead s (lineIdx t.m.dla) t.gord) = false := by
    cases h : isDb s t.m.win with
    | false => rfl
    | true => exact hahead h
  change execWriteAccepted e s = _
  unfold execWriteAccepted
  simp only [htrk]
  rw [if_neg (by rcases hst with h | h <;> simp [hwrite, hnew, hloc, hfree, hdb, hpage, h]), htarget]
  dsimp only
  rw [if_neg (by simp [hroom, hroute]), ← hx]
  rfl

/-! ## The response ceiling and errors of the fabric -/

/-- The state at a deadline that has passed: it is counted, and the first of a seat in each 1 ms is logged (R88). -/
def ceilingPassed (s : State) (t : Trk) : State :=
  let u := bump (advanceTo s t.deadline) (trkBase + 0x14)
  if firstInMs u 88 t.m.seat then
    logEvFor (markMs u 88 t.m.seat) (srcOf trkBase) 0x3001 sevErr
      (le 2 t.m.seat ++ le 8 t.m.dla ++ le 1 t.m.qc ++ kindByte 88 (trkCode t.st)) [t.m.seat] [t.m.win]
  else u

theorem ceilingPassed_keeps (s : State) (t : Trk) :
    (ceilingPassed s t).now = max s.now t.deadline ∧ (ceilingPassed s t).trk = s.trk ∧ (ceilingPassed s t).dram = s.dram ∧
    cntAt (ceilingPassed s t) (trkBase + 0x14) = min cntMax (cntAt s (trkBase + 0x14) + 1) := by
  obtain ⟨p, f, o, ha⟩ := advanceTo_frame s t.deadline
  unfold ceilingPassed
  dsimp only
  rw [ha]
  split
  · obtain ⟨b, l, m, f', o', hl⟩ := logEvFor_frame (markMs (bump
        { s with now := max s.now t.deadline, pmu := p, fns := f, out := o } (trkBase + 0x14)) 88 t.m.seat) (srcOf trkBase)
      0x3001 sevErr (le 2 t.m.seat ++ le 8 t.m.dla ++ le 1 t.m.qc ++ kindByte 88 (trkCode t.st)) [t.m.seat] [t.m.win]
    rw [hl]
    exact ⟨rfl, rfl, rfl, cntAt_bumpBy_same s _ _⟩
  · exact ⟨rfl, rfl, rfl, cntAt_bumpBy_same s _ _⟩

theorem responseCeilingExpiry_answers {e : Fin 24576} {t : Trk} (htrk : trkAt s e = some t) (hst : t.st ≠ .abandoned)
    (hmirror : t.st ≠ .mirror) (hloud : t.silent = false) :
    let u := ceilingPassed s t
    exec (.responseCeilingExpiry e) s = .next (modTrk
        (if isRead t.m.op then sendDrs (if isDb u t.m.win then sendNdr u t.m .cmp 3 else u) t.m none 3
          else sendNdr u t.m .cmp 3) e
        fun _ => some { t with st := .abandoned, poisonWr := isWrite t.m.op }) := by
  change execResponseCeilingExpiry e s = _
  unfold execResponseCeilingExpiry
  simp only [htrk]
  rw [if_neg hst, if_neg hmirror, hloud]
  rfl

theorem fabricErrorResponse_live {e : Fin 24576} {t : Trk} (htrk : trkAt s e = some t) (hmirror : t.st ≠ .mirror)
    (asleep : Bool) :
    let p := targetPort s t
    let u := answerer s t p.1
    exec (.fabricErrorResponse e asleep) s =
      .next (answerFrom (errorResponse s u p.2.1 p.2.2 asleep) e t u (if asleep then 2 else 1)) := by
  change execFabricErrorResponse e asleep s = _
  unfold execFabricErrorResponse
  simp only [htrk]
  rw [if_neg hmirror]

/-- An error response is counted and logged, which leaves the routes as they are. -/
theorem routeBreak_errorResponse (s : State) (st lp dom : Nat) (asleep : Bool) (a b : Nat) :
    routeBreak (errorResponse s st lp dom asleep) a b = routeBreak s a b := by
  unfold errorResponse
  dsimp only
  split
  · obtain ⟨x, l, m, f, o, e⟩ := logEv_frame (markMs (bump s (stBase st + 0x10)) 306 st) (srcOf (stBase st)) 0x7001 sevWarn
      (le 2 st ++ le 2 lp ++ le 1 dom)
    rw [e]; rfl
  · rfl

end

/-- Settles O17: each clause is its row's lemma; a write that its channel has taken ends by the first of three cases. -/
theorem trackerSteps : Obligations.TrackerSteps := by
  unfold Obligations.TrackerSteps
  intro s
  refine ⟨fun port before rest m way hpick hfresh hway => congrArg _ (ingressStep_grant hpick hfresh hway),
    fun seat pool hidle => if_neg (not_not.2 hidle),
    fun e t noise htrk hacc hraw hread hissued hlost hon hroute => ⟨fun line key gen hloc =>
      readDataReturn_hot htrk hacc hraw hread hissued hlost hon hroute hloc noise, fun gran o len hloc => ?_⟩,
    fun e t line key gen htrk hwrite hnew hloc hst hfree hahead hpage htarget hroom hroute => ?_,
    fun e t htrk hst hmirror hloud =>
      ⟨_, responseCeilingExpiry_answers htrk hst hmirror hloud, ceilingPassed_keeps s t⟩,
    fun e t asleep htrk hmirror => ?_⟩
  · rw [readDataReturn_comp htrk hacc hraw hread hissued hlost hon hroute hloc noise]
    exact ⟨fun b hb => by rw [hb], fun hnone => by rw [hnone]⟩
  · have hexec := writeAccepted_ready htrk hwrite hnew hloc hst hfree hahead hpage htarget hroom hroute
    exact ⟨fun h => hexec _ (writeAnswer_mirror h), fun hlax hgoes => hexec _ (writeAnswer_ends hlax (or_assoc.2 hgoes)),
      fun hlax hloud hlive hstuck => hexec _ (writeAnswer_absorbed hlax hloud hlive hstuck)⟩
  · have hexec := fabricErrorResponse_live htrk hmirror asleep
    dsimp only at hexec
    rw [hexec]
    unfold answerFrom
    rw [routeBreak_errorResponse]
    exact ⟨fun h => by rw [h]; rfl, fun h => by rw [if_pos (Option.isSome_iff_ne_none.2 h)]⟩

end Sys2Proof.Machine
end

section
/-! SUPPORT. Snoops and the creel (R98–R115): answers of hosts, requests at a slice, the conflict queue and recovery. -/

namespace Sys2Proof.Machine

open Sys2Proof

/-! ## Snoops -/

/-- An answer whose sender and line are known is matched with the records of its link (R107, R112). -/
theorem biRsp_decoded {s : State} {m : M2S} {ans : BiAns} {seat w ali : Nat}
    (hup : (linkAt s (linkKey m.port m.link)).up = true) (hmem : (linkAt s (linkKey m.port m.link)).mem = true)
    (hawake : domAwake s (2 + m.port.val) = true) (hseat : seatOf s m.port m.link m.id = some seat)
    (hwin : findWin s seat m.hpa = some (w, ali)) :
    let dla := (winAt s w).dlaHank * 0x200000 + (m.hpa - aliasBase (winAt s w) ali)
    exec (.biRsp m ans) s = match findXing s (fun x => x.line == lineIdx dla && x.seat == seat && x.ali == ali &&
        x.sent == some (linkKey m.port m.link) && x.ans.isNone) with
      | none => .next (lateBiRsp s seat dla)
      | some (r, x) =>
        if writeFirst (noteAnswered s seat) x then
          .next (modXing (noteAnswered s seat) r fun _ => some { x with ans := some ans, wbAhead := true })
        else .next (snoopDone (noteAnswered s seat) r x (if x.pclr && ans = .e then .i else ans)) := by
  change execBiRsp m ans s = _
  unfold execBiRsp
  simp only [hseat, hwin]
  rw [if_neg (by simp [hup, hmem]), not_shut hawake]
  rfl

/-- Settles O18: each clause is the branch of its row in which it has something to do. -/
theorem snoopSteps : Obligations.SnoopSteps := by
  unfold Obligations.SnoopSteps
  intro s
  refine ⟨fun slice n x hx hnew => ?_, fun port link n hup => if_pos hup,
    fun m ans seat w ali hup hmem hawake hseat hwin => ?_, fun slice n x t0 hx hstart => ?_⟩
  · change execBisnpIssue slice n s = _
    unfold execBisnpIssue
    simp only [hx]
    rw [if_neg (by simp [hnew])]
  · have hexec := biRsp_decoded (ans := ans) hup hmem hawake hseat hwin
    dsimp only at hexec ⊢
    rw [hexec]
    refine ⟨fun hnone => by rw [hnone], fun r x hfound hfirst => ?_, fun r x hfound hfirst => ?_⟩
    · rw [hfound]
      exact if_neg (by simp [hfirst])
    · rw [hfound]
      exact if_pos hfirst
  · change execBiTimeout slice n s = _
    unfold execBiTimeout
    simp only [hx, hstart]
    rfl

/-! ## Serving a line (R99) -/

section

variable {s : State}

@[simp] theorem findEntry_pmuEvent (s : State) (kind inst code line : Nat) :
    findEntry (pmuEvent s kind inst code) line = findEntry s line := by
  obtain ⟨p, f, o, e⟩ := pmuEvent_frame s kind inst code
  rw [e]; rfl

@[simp] theorem creelAt_pmuEvent (s : State) (kind inst code k : Nat) :
    creelAt (pmuEvent s kind inst code) k = creelAt s k := by
  obtain ⟨p, f, o, e⟩ := pmuEvent_frame s kind inst code
  rw [e]; rfl

@[simp] theorem missBroadcasts_pmuEvent (s : State) (kind inst code w dla : Nat) :
    missBroadcasts (pmuEvent s kind inst code) w dla = missBroadcasts s w dla := by
  obtain ⟨p, f, o, e⟩ := pmuEvent_frame s kind inst code
  rw [e]; rfl

/-- A current read of a line without an entry is granted at once, and leaves none (R99). -/
theorem creelServe_current {line w : Nat} (hnone : findEntry s line = none)
    (hmiss : missBroadcasts s w (line * 64) = false) (who : Origin) (seat ali : Nat) :
    creelServe s line w who .current seat ali false =
      grantTo (pmuEvent s 2 (crlSlice (line * 64)) 0x30) who line none false := by
  have hstays : staysQueued s line w .current seat = false := by
    unfold staysQueued
    simp [hnone, hmiss]
  unfold creelServe
  simp [hstays, hnone, hmiss]

/-- A write of the line's EXCLUSIVE holder frees the entry and is granted (R99). -/
theorem creelServe_holderWrite {line w k seat : Nat} {full : Bool} (hentry : findEntry s line = some k)
    (hexcl : (creelAt s k).st = .exclusive) (hholder : (creelAt s k).ptrs = [seat]) (hseat : seat < 1024) (who : Origin)
    (ali : Nat) : creelServe s line w who (.write full) seat ali false =
      grantTo (freeCentry (pmuEvent s 2 (crlSlice (line * 64)) 0x30) k) who line (some .cmp) false := by
  have hstays : staysQueued s line w (.write full) seat = false := by
    unfold staysQueued
    simp [hentry, hexcl]
  unfold creelServe
  simp [hstays, hentry, hexcl, hholder, hseat]

theorem kindOf_write {t : Trk} (h : isWrite t.m.op = true) : ∃ full, kindOf t = .write full := by
  unfold kindOf
  rw [if_neg (by simp [h])]
  revert h
  cases t.m.op <;> simp [isWrite]

/-- Where the mode stands as the arbiter has it, nothing is switched (R114). -/
theorem serialSwitch_settled (h : serialMode s = s.serialIn) : serialSwitch s = s := by
  unfold serialSwitch
  rw [if_neg]
  simp [h]

theorem trkAt_serialSwitch (s : State) (e : Nat) : trkAt (serialSwitch s) e = trkAt s e := by
  unfold serialSwitch
  split <;> rfl

/-! ## A request at its slice (R100, R103, R104) -/

/-- One request that its slice may take arrives alone. -/
theorem creelRequest_alone {slice : Fin 16} {e : Fin 24576} (hready : creelReady s slice e = true)
    (harrives : requestArrives s slice e = true) :
    ([e].map (·.val)).eraseDups.filter (fun e => creelReady s slice e && requestArrives s slice e) = [e.val] := by
  rw [show ([e].map (·.val)).eraseDups = [e.val] from rfl, List.filter_cons]
  simp [hready, harrives]

/-- A write that its slice may take alone, while the mode is settled, is taken as a DAT-class write. -/
theorem creelRequest_write {slice : Fin 16} {e : Fin 24576} {t : Trk} (htrk : trkAt s e = some t)
    (hready : creelReady s slice e = true) (harrives : requestArrives s slice e = true) (hwrite : isWrite t.m.op = true)
    (hfirst : t.resent = false) (hmode : serialMode s = s.serialIn) :
    exec (.creelRequest slice [e]) s = .next (datWrite s e) := by
  change execCreelRequest slice [e] s = _
  unfold execCreelRequest
  rw [creelRequest_alone hready harrives, serialSwitch_settled hmode]
  simp [htrk, hwrite, hfirst, admits, hmode, takeCycle]

/-- Any other request that its slice may take alone reaches the creel. -/
theorem creelRequest_other {slice : Fin 16} {e : Fin 24576} {t : Trk} (htrk : trkAt s e = some t)
    (hready : creelReady s slice e = true) (harrives : requestArrives s slice e = true)
    (hother : isWrite t.m.op = false ∨ t.resent = true) :
    exec (.creelRequest slice [e]) s = .next (creelRequest (serialSwitch s) (lineIdx t.m.dla) t.m.win (.trk e) (kindOf t)
      t.m.seat t.m.ali) := by
  have hreq : (isWrite t.m.op && !t.resent) = false := by rcases hother with h | h <;> simp [h]
  change execCreelRequest slice [e] s = _
  unfold execCreelRequest
  rw [creelRequest_alone hready harrives]
  simp [htrk, hreq, trkAt_serialSwitch, takeCycle, reqArrives]

/-- A DAT-class write that no snoop awaits is granted at once, or returned (R103). -/
theorem datWrite_holder {e : Nat} {t : Trk} {k : Nat} (htrk : trkAt s e = some t) (hwrite : isWrite t.m.op = true)
    (hquiet : snoopedWriter s t = false) (hact : actAt s (lineIdx t.m.dla) = none)
    (hentry : findEntry s (lineIdx t.m.dla) = some k) (hexcl : (creelAt s k).st = .exclusive)
    (hholder : (creelAt s k).ptrs = [t.m.seat]) (hseat : t.m.seat < 1024) :
    datWrite s e = grantTrk (freeCentry (pmuEvent s 2 (crlSlice (lineIdx t.m.dla * 64)) 0x30) k) e (some .cmp) false := by
  obtain ⟨full, hkind⟩ := kindOf_write hwrite
  unfold datWrite
  simp only [htrk, hquiet, hact, hentry, hkind, creelServe_holderWrite hentry hexcl hholder hseat]
  simp [hexcl, hholder, grantTo]

theorem datWrite_returned {e : Nat} {t : Trk} {k : Nat} (htrk : trkAt s e = some t)
    (hquiet : snoopedWriter s t = false) (hact : actAt s (lineIdx t.m.dla) = none)
    (hentry : findEntry s (lineIdx t.m.dla) = some k) (hholder : (creelAt s k).ptrs ≠ [t.m.seat]) :
    datWrite s e = modTrk s e fun _ => some { t with returned := true } := by
  unfold datWrite
  simp only [htrk, hquiet, hact, hentry]
  simp [hholder]

/-- A current read of a line that nobody holds or waits for is granted at once. -/
theorem creelRequest_current {line w : Nat} (hmode : serialMode s = s.serialIn) (hact : actAt s line = none)
    (hvictim : victimFor s line = false)
    (hidle : ((sliceAt s (crlSlice (line * 64))).confq.any fun x => x.1 == line) = false)
    (hnone : findEntry s line = none) (hmiss : missBroadcasts s w (line * 64) = false) (who : Origin) (seat ali : Nat) :
    creelRequest s line w who .current seat ali =
      grantTo (pmuEvent (unIdle (unIdleFabric s) 22) 2 (crlSlice (line * 64)) 0x30) who line none false := by
  obtain ⟨d, hd⟩ : ∃ d, unIdle (unIdleFabric s) 22 = { s with doms := d } := by
    rw [unIdle_eq, unIdleFabric_eq]
    exact ⟨_, rfl⟩
  have hadmits : admits { s with doms := d } = true := beq_iff_eq.2 hmode
  have hwaits : ((actAt { s with doms := d } line).isSome ||
      ((sliceAt { s with doms := d } (crlSlice (line * 64))).confq.any fun x => x.1 == line) ||
      victimFor { s with doms := d } line) = false := by
    change ((actAt s line).isSome || ((sliceAt s (crlSlice (line * 64))).confq.any fun x => x.1 == line) ||
      victimFor s line) = false
    rw [hact, hidle, hvictim]; rfl
  unfold creelRequest
  rw [hd, serialSwitch_settled (s := { s with doms := d }) hmode]
  dsimp only
  rw [hadmits, hwaits]
  exact creelServe_current (s := { s with doms := d }) hnone hmiss who seat ali

/-- The line's first waiting request is served as what it asks for now, and leaves the queue once it no longer waits. -/
theorem advanceConf_request {line e seat ali : Nat} {t : Trk} {k : Kind} (hact : actAt s line = none)
    (hpurge : ((sliceAt s (crlSlice (line * 64))).purges.find? fun p => p.1 == line) = none)
    (hvictim : victimFor s line = false) (htrk : trkAt s e = some t)
    (hconf : ((sliceAt s (crlSlice (line * 64))).confq.find? fun x => x.1 == line) = some (line, .trk e, k, seat, ali)) :
    let v := creelServe s line ((winOfDla s (line * 64)).getD 0) (.trk e) (kindOf t) seat ali false
    advanceConf s line = if stillWaits v line (.trk e) then v else
      modSlice v (crlSlice (line * 64)) fun x => { x with confq := x.confq.filter fun y => !(y.1 == line && y.2.1 == .trk e) } := by
  unfold advanceConf
  simp only [hact, hpurge, hconf, htrk]
  rw [if_neg (by simp), hvictim]
  rfl

end

/-- Settles O19: requests by the four lemmas about one that arrives alone; the other rows are their branches. -/
theorem creelSteps : Obligations.CreelSteps := by
  unfold Obligations.CreelSteps
  intro s slice
  refine ⟨fun e t htrk hready harrives => ⟨fun hwrite hfirst hmode hquiet hact => ⟨fun k hentry hexcl hholder hseat => ?_,
      fun k hentry hholder => ?_⟩, fun hother => ⟨?_, fun hkind hmode hact hvictim hidle hnone hmiss => ?_⟩⟩,
    fun e t htrk hret => ⟨_, rfl, ?_, ?_⟩, fun line hslice hact hvictim hpurge e t k seat ali htrk hconf => ?_,
    fun dam hdam hrange => ?_, fun hrecov hacts hpurges => ?_, rfl⟩
  · rw [creelRequest_write htrk hready harrives hwrite hfirst hmode,
      datWrite_holder htrk hwrite hquiet hact hentry hexcl hholder hseat]
  · rw [creelRequest_write htrk hready harrives hwrite hfirst hmode,
      datWrite_returned htrk hquiet hact hentry hholder]
  · exact creelRequest_other htrk hready harrives hother
  · rw [creelRequest_other htrk hready harrives hother, serialSwitch_settled hmode, hkind,
      creelRequest_current hmode hact hvictim hidle hnone hmiss]
    rfl
  · rw [trkAt_modTrk, if_pos rfl, htrk]
    simp [hret]
  · unfold modTrk tabMod
    rw [show tabGet none s.trk e = some t from htrk]
    simp [hret]
  · rw [← hslice] at hpurge hconf
    have hexec : exec (.conflictQueueAdvance slice line) s = .next (advanceConf s line) := if_pos hslice
    rw [hexec, advanceConf_request hact hpurge hvictim htrk hconf, hslice]
    refine ⟨fun hwaits => by rw [if_pos hwaits], fun hdone => ?_, fun hkind hnone hmiss => ?_⟩
    · rw [if_neg (by rw [hdone]; simp)]
    · rw [hkind, creelServe_current hnone hmiss, hslice]
      rfl
  · change execCreelEntryEccError slice dam s = _
    unfold execCreelEntryEccError
    have hall : (dam.filter fun d => decide (d.1 < 16384) && decide (d.2.1 < 16)) = dam := by
      rw [List.filter_eq_self]
      simpa using hrange
    rw [hall]
    exact if_neg hdam
  · change execCreelRecoveryComplete slice s = _
    unfold execCreelRecoveryComplete
    have hquiet : (s.acts.any fun e => match e.2 with
        | some a => a.who == .recover && crlSlice (e.1 * 64) == slice.val
        | none => false) = false := by
      rw [List.any_eq_false]
      rintro ⟨n, o⟩ hmem
      cases o with
      | none => simp
      | some a => simpa using hacts n a hmem
    have hsettled : ((sliceAt s slice).purges.any fun p => p.2 == 1025) = false := by
      rw [List.any_eq_false]
      intro p hp
      simpa using hpurges p hp
    dsimp only
    rw [if_neg]
    · rfl
    · rw [hsettled, hrecov, Bool.or_false, Bool.not_true, Bool.or_false]
      exact fun hbusy => Bool.false_ne_true (hquiet.symm.trans hbusy)

end Sys2Proof.Machine
end

section
/-! SUPPORT. M2S messages at a host port (R15, R27, R33, R36, R62, R83, R105–R107): requests, writes, hints and conflicts. -/

namespace Sys2Proof.Machine

open Sys2Proof

section

variable {s : State} {m : M2S}

theorem decodeM2S_m2sAwake (s : State) (m : M2S) : decodeM2S (m2sAwake s m) m = decodeM2S s m := by
  obtain ⟨d, hd⟩ := m2sAwake_eq s m
  rw [hd]; rfl

/-- Whether a line lies in the doorbell page, and whether its window is HDM-DB, does not depend on the clocks. -/
theorem isDoorbell_m2sAwake (s : State) (m : M2S) (d : Dec) : isDoorbell (m2sAwake s m) d = isDoorbell s d := by
  obtain ⟨x, hx⟩ := m2sAwake_eq s m
  rw [hx]; rfl

theorem isDb_m2sAwake (s : State) (m : M2S) (w : Nat) : isDb (m2sAwake s m) w = isDb s w := by
  obtain ⟨d, hd⟩ := m2sAwake_eq s m
  rw [hd]; rfl

/-- A message reads as before once it has left ingress: that counts it and nothing else. -/
@[simp] theorem msgOf_leavesIngress (s : State) (m : M2S) (rwd : Bool) (d : Option Dec) (op : ReqOp) (data : List Byte)
    (mask : BitVec 64) : msgOf (leavesIngress s m rwd) m d op data mask = msgOf s m d op data mask := by
  obtain ⟨p, f, o, e⟩ := pmuEvent_frame s 0 m.port (if rwd then 0x11 else 0x10)
  rw [show leavesIngress s m rwd = _ from e]
  rfl

/-- A request that is no write, at a port that takes it. -/
theorem hostRequest_noWrite {op : ReqOp} (hop : isWrite op = false) (s : State) (m : M2S) :
    let t := m2sAwake s m
    hostRequest t m op [] 0 = match decodeM2S s m with
      | none => refuseM2S t m op
      | some d =>
        let u := leavesIngress t m false
        let msg := msgOf t m (some d) op [] 0
        if isDoorbell s d = true then
          (if isRead op then sendDrs u msg (some ((List.range 8).flatMap fun i =>
              le 8 (getField u d.seat (d.dla % 0x1000 / 64 * 64 + 8 * i)))) 0
            else sendNdr u msg .cmp 0)
        else if isRead op = false ∧ isDb s d.win = false then sendNdr u msg .cmp 0
        else resume (arrive t (msgOf t m (some d) op (lineOf []) 0)) := by
  intro t
  unfold hostRequest
  rw [decodeM2S_m2sAwake]
  cases decodeM2S s m with
  | none => rfl
  | some d =>
    dsimp only
    rw [isDoorbell_m2sAwake, isDb_m2sAwake]
    cases isDoorbell s d with
    | true =>
      unfold doorbellRequest
      simp [hop]
    | false => simp [hop]

theorem takeEntry_snd (s : State) (m : Msg) (way : Bool × Option Nat) :
    (takeEntry s m way).2 = freeEntry s (poolOf m) := rfl

theorem freeEntry_modIngress (s : State) (port : Nat) (f : List Msg → List Msg) (pool : Nat) :
    freeEntry (modIngress s port f) pool = freeEntry s pool := rfl

/-- A message that finds its port's ingress buffer empty, and is granted an entry, leaves it at once (R83). -/
theorem arrive_granted {t : State} {msg : Msg} {way : Bool × Option Nat} (hop : isWrite msg.op = false)
    (hempty : ingressAt t msg.port = []) :
    let u := noteUse (modLink t (linkKey msg.port msg.link) fun l => { l with credReq := l.credReq - 1 }) (poolOf msg) msg.seat
    let v := modIngress u msg.port fun q => q ++ [msg]
    staleDecode v msg = false → grantWay v msg = some way →
      arrive t msg = entryPass (takeEntry (modIngress v msg.port fun _ => []) msg way).1
        (takeEntry (modIngress v msg.port fun _ => []) msg way).2 := by
  intro u v hfresh hway
  have hbuf : ingressAt v msg.port = [msg] := by
    have hu : ingressAt u msg.port = [] := hempty
    change ingressAt (modIngress u msg.port fun q => q ++ [msg]) msg.port = [msg]
    rw [ingressAt_modIngress, if_pos rfl, hu]
    rfl
  have hpick : pickIngress v [] (ingressAt v msg.port) = some ([], msg, []) := by
    rw [hbuf]
    unfold pickIngress
    simp [heldInIngress, hway]
  have harrive : arrive t msg = ingressRun (ingressAt v msg.port).length v msg.port := by
    unfold arrive enterIngress
    simp only [hop, Bool.false_eq_true, if_false]
    rfl
  rw [harrive, hbuf]
  change (if (pickIngress v [] (ingressAt v msg.port)).isSome then ingressStep v msg.port else v) = _
  rw [hpick, ingressStep_grant hpick hfresh hway, takeEntry_snd, freeEntry_modIngress]
  rfl

end

/-- Settles O20: the five rows are `hostRequest_noWrite`, and one that joins an empty buffer is `arrive_granted`. -/
theorem hostRequests : Obligations.HostRequests := by
  unfold Obligations.HostRequests
  intro s m h
  refine ⟨fun snp => m2sRow_served h _ _ _ (hostRequest_noWrite rfl s m), m2sRow_served h _ _ _ (hostRequest_noWrite rfl s m),
    m2sRow_served h _ _ _ (hostRequest_noWrite rfl s m), m2sRow_served h _ _ _ (hostRequest_noWrite rfl s m),
    m2sRow_served h _ _ _ (hostRequest_noWrite rfl s m), fun d op way hop hempty hfresh hway => ?_⟩
  have hempty' : ingressAt (m2sAwake s m) m.port = [] := by
    obtain ⟨x, hx⟩ := m2sAwake_eq s m
    rw [hx]; exact hempty
  exact arrive_granted (msg := msgOf (m2sAwake s m) m (some d) op (lineOf []) 0) hop hempty' hfresh hway

theorem crossingOf_m2sAwake (s : State) (m : M2S) : crossingOf (m2sAwake s m) m = crossingOf s m := by
  obtain ⟨d, hd⟩ := m2sAwake_eq s m
  rw [hd]; rfl

/-- A write, at a port that takes it. -/
theorem hostWrite_write {op : ReqOp} (hop : isWrite op = true) (s : State) (m : M2S) (data : List Byte) (mask : BitVec 64) :
    let t := m2sAwake s m
    hostWrite t m op data mask = match crossingOf s m with
      | some (r, x, d) => resume (modXing (leavesIngress t m true) r fun _ =>
          some { x with buf := x.buf ++ [{ msgOf t m (some d) op (lineOf data) mask with cred := false }] })
      | none => match decodeM2S s m with
        | none => refuseM2S t m op
        | some d =>
          if isDoorbell s d = true then sendNdr (doorbellLine (leavesIngress t m true) d.seat (d.dla % 0x1000 / 64 * 64)
            mask data) (msgOf t m (some d) op data mask) .cmp 0
          else resume (arrive t (msgOf t m (some d) op (lineOf data) mask)) := by
  have hread : isRead op = false := by
    revert hop
    cases op <;> simp [isWrite, isRead]
  intro t
  unfold hostWrite hostRequest
  rw [crossingOf_m2sAwake, decodeM2S_m2sAwake]
  cases crossingOf s m with
  | some c => rfl
  | none =>
    cases decodeM2S s m with
    | none => rfl
    | some d =>
      dsimp only
      rw [isDoorbell_m2sAwake]
      cases isDoorbell s d with
      | true =>
        unfold doorbellRequest
        simp [hop, hread]
      | false => simp [hop]

/-- Settles O21: both rows are `hostWrite_write`. -/
theorem hostWrites : Obligations.HostWrites := by
  unfold Obligations.HostWrites
  intro s m data h
  exact ⟨m2sRow_served h _ _ _ (hostWrite_write rfl s m data _),
    fun mask => m2sRow_served h _ _ _ (hostWrite_write rfl s m data mask)⟩

end Sys2Proof.Machine
end

section
/-! SUPPORT. The skein and the carder (R125–R139, R154): their rows. -/

namespace Sys2Proof.Machine

open Sys2Proof

/-- A unit that has its slot does its work and leaves the slot. -/
theorem runUnit_inSlot {s : State} {j : Job} {role qc slice : Nat} (h : inSlot (giveUnit s j role qc slice) j = true)
    (f : State → State) : runUnit s j role qc slice f = leaveSlot (f (giveUnit s j role qc slice)) j true := by
  unfold runUnit
  dsimp only
  rw [if_pos h]

/-- Settles O23: a row each; the end of an epoch reads its decay and its pages' DLAs where powered time does not write. -/
theorem skeinAndEpochs : Obligations.SkeinAndEpochs := by
  intro s
  refine ⟨fun win hank page bad hsize => ⟨fun hmiss => ?_, fun hhit => ?_⟩, fun win hank page hthick hsize hunm hon hcause => ?_, ?_⟩
  · change execSkeinMissFill win hank page bad s = _
    unfold execSkeinMissFill
    rw [if_neg (by simp [hmiss, hsize])]
  · change execSkeinCacheEccError win hank page bad s = _
    unfold execSkeinCacheEccError
    rw [if_neg (by rw [hhit]; simp)] <;> rfl
  · intro j u hslot
    change execHomeFill win hank page s = _
    unfold execHomeFill
    dsimp only
    rw [if_neg (by simp [hthick, hsize, hunm, hon, hcause]), runUnit_inSlot hslot]
  · obtain ⟨p, f, o, hadv⟩ := advanceTo_frame s (s.carder.epochAt + epochNs s)
    refine ⟨p, f, o, hadv, ?_⟩
    change execEpochEnd s = _
    unfold execEpochEnd
    dsimp only
    rw [hadv]
    rfl

/-- Settles O24: the frame of a promotion and the run of a demotion are the premises' own results. -/
theorem tierChanges : Obligations.TierChanges := by
  intro s win hank page noise pk hcur
  refine ⟨fun hjob hslot htier => ⟨fun u f hframe => ?_, fun u hframe => ?_⟩, fun q hq => ?_,
    fun hjob hslot hstill htier => ?_, fun q len bytes u g hq henc hrun => ?_⟩
  · change execPromotion win hank page noise s = _
    unfold execPromotion
    dsimp only
    rw [if_neg (by simp [hjob, hslot, htier, hcur, pk]), hframe] <;> rfl
  · change execPromotion win hank page noise s = _
    unfold execPromotion
    dsimp only
    rw [if_neg (by simp [hjob, hslot, htier, hcur, pk]), hframe]
  · change execPromotionComplete win hank page s = _
    unfold execPromotionComplete
    simp only [pk] at hq
    simp only [hq]
    rw [if_neg (by rw [hcur]; simp)]
  · change execDemotion win hank page noise s = _
    unfold execDemotion
    dsimp only
    rw [if_neg (by simp [hjob, hslot, hstill, hcur, pk]), if_neg (by simp [htier])]
    simp only [Bool.not_eq_true', ← apply_ite Host.Outcome.next, pk]
  · change execDemotionComplete win hank page s = _
    unfold execDemotionComplete
    simp only [pk] at hq
    simp only [hq, henc]
    rw [if_neg (by rw [hcur]; simp), hrun]

/-- Settles O25: a move in its two commands, the release of the old storage, and the three ends of a decode. -/
theorem compactionAndDecode : Obligations.CompactionAndDecode := by
  intro s
  refine ⟨fun win hank page => ⟨fun m hm hold hcur hslot => ?_, fun hm hmove hslot u v a huse htarget => ?_,
    fun m hm hfree => ?_⟩, fun e t noise run o len ht hacc hdec hslot hissued hon hloc => ?_⟩
  · change execCompactionMove win hank page s = _
    unfold execCompactionMove
    simp only [hm]
    rw [if_neg (by simp [hold, hcur, hslot])]
    rfl
  · change execCompactionMove win hank page s = _
    unfold execCompactionMove
    simp only [hm]
    rw [if_pos hmove, if_pos hslot]
    unfold copyMove
    simp only [huse, htarget]
  · change execCompactionComplete win hank page s = _
    unfold execCompactionComplete
    simp only [hm]
    rw [if_neg (by rw [hfree]; simp)]
  · have hgate : (!t.accepted || !t.decoding || !inSlot s (.decode e.val) || !readIssued s e.val) = false := by
      simp [hacc, hdec, hslot, hissued]
    rw [show exec (.segmentDecode e noise) s = execSegmentDecode e noise s from rfl]
    unfold execSegmentDecode
    simp only [ht]
    rw [if_neg (by rw [hgate]; simp), if_neg (by simpa using hon), hloc]
    refine ⟨fun b seg hread hseg => ?_, fun b hread hseg => ?_, fun hread => ?_⟩
    · simp only [hread, hseg]
    · simp only [hread, hseg]
      rfl
    · simp only [hread]
      rfl

end Sys2Proof.Machine
end

section
/-! SUPPORT. Key walks, the TRNG and the spindles (R176–R198): their rows. -/

namespace Sys2Proof.Machine

open Sys2Proof

/-- The unit that a walk is at and the line to go on from, by the cursor or by the next unit of the walk. -/
theorem rekeyUnitConvert_unit {s u : State} {win : Fin 4096} {noise : List (List Byte)} {off : Nat} {page : Option Nat}
    {first n line : Nat} (hst : (slotOf s win).st = .rekeying) (hwin : (slotOf s win).win = win.val)
    (hown : (slotOf s win).peerKey = false) (hgo : (slotOf s win).stopped = false)
    (hunit : ((slotOf s win).cursor = some (off, page, line) ∧ u = s) ∨
      ((slotOf s win).cursor = none ∧ walkOn (walkHanks s win (slotOf s win).walk) s win = (u, some (off, page)) ∧
        line = first))
    (hfree : tierBusy u win off page = false)
    (hslot : inSlot (giveUnit u (.rekey win) 5 (walkClass u (slotOf s win)) 0) (.rekey win) = true)
    (hlines : unitLines (giveUnit u (.rekey win) 5 (walkClass u (slotOf s win)) 0) win off page = (first, n)) :
    let g := giveUnit u (.rekey win) 5 (walkClass u (slotOf s win)) 0
    let left := first + n - line
    let k := if noise = [] then left else min left noise.length
    let v := walkSteps (convertLines win k g line noise) win (stepsDone page (line - first) (line + k - first) n)
      (decide (k = left) || (page.isNone && (line + k - first) % 64 == 0))
    exec (.rekeyUnitConvert win noise) s =
      if k = left then .next (resume (tryDirect
        (modSlot (setUnitGen v win off page) (winAt v win).keySlot fun y => { y with cursor := none }) win off))
      else .next (modSlot v (winAt v win).keySlot fun y => { y with cursor := some (off, page, line + k) }) := by
  change execRekeyUnitConvert win noise s = _
  unfold execRekeyUnitConvert
  dsimp only
  rw [if_neg (by simp [hst, hwin, hown, hgo])]
  obtain ⟨hcur, rfl⟩ | ⟨hcur, hwalk, rfl⟩ := hunit
  · simp only [hcur]
    rw [if_neg (by rw [hfree]; simp), if_neg (by rw [hslot]; simp), hlines]
  · simp only [hcur, hwalk]
    rw [if_neg (by rw [hfree]; simp), if_neg (by rw [hslot]; simp), hlines]

/-- Settles O26: a command converts as many lines as it has draws, or the whole unit. -/
theorem keyWalksAndTrng : Obligations.KeyWalksAndTrng := by
  intro s
  refine ⟨fun win noise u hst hwin hown hgo => ⟨fun hcur hwalk => ?_, ?_⟩, ?_, fun hdue hwell => ⟨fun hphase => ?_, fun hphase => ?_⟩⟩
  · change execRekeyUnitConvert win noise s = _
    unfold execRekeyUnitConvert
    dsimp only
    rw [if_neg (by simp [hst, hwin, hown, hgo])]
    simp only [hcur, hwalk]
  · intro off page first n line hunit hfree g hslot hlines left v
    have hrow := rekeyUnitConvert_unit (noise := noise) hst hwin hown hgo hunit hfree hslot hlines
    dsimp only at hrow
    refine ⟨fun hnoise => ?_, fun hnoise hshort => ?_⟩
    · have hk : (if noise = [] then first + n - line else min (first + n - line) noise.length) = first + n - line := by
        split
        · rfl
        · next hne => exact min_eq_left (hnoise.resolve_left hne)
      rw [hrow, hk, if_pos rfl]
    · have hk : (if noise = [] then first + n - line else min (first + n - line) noise.length) = noise.length := by
        rw [if_neg hnoise]
        exact min_eq_right hshort.le
      rw [hrow, hk, if_neg hshort.ne]
  · change execTrngHealthFail s = _
    unfold execTrngHealthFail
    dsimp only
    rw [← apply_ite Host.Outcome.next]
    rfl
  · change execTrngKeyDraw s = _
    unfold execTrngKeyDraw drawMeta drawKey
    simp [hdue, hwell, hphase]
  · change execTrngKeyDraw s = _
    unfold execTrngKeyDraw drawMeta drawKey
    obtain hphase | hphase | hphase := hphase <;> simp [hdue, hwell, hphase]

/-- Settles O27: admission by what waits, and a row each for a spindle that idles, fails or is sampled. -/
theorem spindleSteps : Obligations.SpindleSteps := by
  intro s
  refine ⟨fun hgo => ⟨fun u hu hahead => ?_, fun k v hd hahead => ?_, fun hu hd => ?_⟩, fun n hrun hempty hmay => ?_,
    fun n role huse hhome hwait hborrow hlend hdeepest => ?_, fun n area => ⟨rfl, ?_⟩, fun n slot pc hen hrun => ?_⟩
  · have hrow : exec .spindleUnitAdmit s = .next (admitUnit s u) := by
      change execSpindleUnitAdmit s = _
      unfold execSpindleUnitAdmit
      rw [if_neg (by rw [hgo]; simp)]
      dsimp only
      rw [hu]
      cases hd : if (pickSpindle s 5 0 48 4).isSome then nextDesc s else none with
      | none => rfl
      | some kv =>
        dsimp only
        rw [hahead kv.1 kv.2 hd, if_neg Bool.false_ne_true]
    refine ⟨hrow, fun n hpick => ?_⟩
    rw [hrow]
    unfold admitUnit
    rw [hpick]
  · have hrow : exec .spindleUnitAdmit s = .next (tryStart s k) := by
      change execSpindleUnitAdmit s = _
      unfold execSpindleUnitAdmit
      rw [if_neg (by rw [hgo]; simp)]
      dsimp only
      rw [hd]
      cases hu : nextUnit s with
      | none => rfl
      | some u =>
        dsimp only
        rw [if_pos (hahead u hu)]
    refine ⟨hrow, fun x n hx hstart hpick => ?_⟩
    rw [hrow]
    unfold tryStart
    rw [hx]
    dsimp only
    rw [if_pos (by rw [hstart, hgo]; rfl), hpick]
  · change execSpindleUnitAdmit s = _
    unfold execSpindleUnitAdmit
    rw [if_neg (by rw [hgo]; simp)]
    dsimp only
    rw [hu, hd]
  · change execSpindleClockGate n s = _
    unfold execSpindleClockGate
    dsimp only
    rw [if_neg (by
      rintro (h | h | ⟨hon, hhome⟩)
      · exact h hrun
      · exact h hempty
      · exact hmay.elim (fun hoff => by simp [hoff] at hon) hhome)]
  · change execSpindleLendStart n role s = _
    unfold execSpindleLendStart
    dsimp only
    rw [if_neg (by
      have hall : ((List.range 6).all fun r => !mayLend s n r ||
          decide (roleQueue s r * homesOf s role ≤ roleQueue s role * homesOf s r)) = true := by
        rw [List.all_eq_true]
        intro r hr
        cases hm : mayLend s n r
        · rfl
        · simpa using hdeepest r (List.mem_range.1 hr) hm
      simp [huse, hhome, hwait, hborrow, hlend, hall])]
  · cases area <;> rfl
  · change execSpindlePcSample n slot pc s = _
    unfold execSpindlePcSample
    dsimp only
    rw [if_neg (by simp [hen, hrun])] <;> rfl

end Sys2Proof.Machine
end

section
/-! SUPPORT. Doorbells (R205–R208, R226): the two routes to a seat's page, and what a field of the page does. -/

namespace Sys2Proof.Machine

open Sys2Proof

/-- A host's line write that covers the field reaches the owner's page and is answered with Cmp. -/
theorem doorbell_hdm {s : State} {m : M2S} {d : Dec} (h : m2sServed s m true = true) (hdec : decodeM2S s m = some d)
    (hdb : isDoorbell s d = true) {off : Nat} (hline : d.dla % 0x1000 / 64 = off / 64) (row : Instr) (v : Nat) :
    doorbell s (.inl m) row off v = sendNdr (putField (leavesIngress (m2sAwake s m) m true) d.seat off v)
      (msgOf (m2sAwake s m) m (some d) .wr [] 0) .cmp 0 := by
  unfold doorbell
  dsimp only
  rw [m2sGate_served h, decodeM2S_m2sAwake, hdec]
  dsimp only
  rw [isDoorbell_m2sAwake, if_pos (by rw [hdb, hline]; simp)]

/-- A function's write to BAR4 reaches its own seat's page, and is counted as refused elsewhere. -/
theorem doorbell_bar4 {s : State} {f : Fn} (hup : linkUpAt s f.port f.link = true) (h : fnServed s f = true)
    (page : Nat) (row : Instr) (off v : Nat) :
    doorbell s (.inr (f, page)) row off v =
      if fnSeat s f = some page then putField (fnAwake s f) page off v else bump (fnAwake s f) (ringBase + 0x54) := by
  unfold doorbell
  dsimp only
  rw [if_neg (by rw [hup]; simp), fnGate_served h]
  obtain ⟨d, hd⟩ := fnAwake_eq s f
  rw [hd]
  rfl

/-- Settles O28: five commands by each of the two routes. -/
theorem doorbellRoutes : Obligations.DoorbellRoutes := by
  intro s k val
  refine ⟨fun m d h hdec hdb => ⟨fun hline => ?_, fun hline => ?_, fun hline => ⟨?_, ?_⟩, fun hline => ?_⟩, fun f page hup h => ?_⟩
  iterate 5 exact congrArg Host.Outcome.next (doorbell_hdm h hdec hdb hline _ _)
  have hpage := fun row off v => congrArg (Host.Outcome.next (φ := Fault) (ρ := Refusal)) (doorbell_bar4 hup h page row off v)
  exact ⟨hpage _ _ _, hpage _ _ _, hpage _ _ _, hpage _ _ _, hpage _ _ _⟩

/-! ## The fields of a seat's page -/

section Fields

variable {s : State} {seat lcl r : Nat} (hlcl : lcl < 64) (hon : (seatAt s seat).state ≠ .disabling)
  (hen : (seatAt s seat).state ≠ .disabled) (hring : ringOf s seat lcl = some r)
include hlcl hon hen hring

/-- The fields of an existing ring in the page of a seat that takes doorbells. -/
theorem putField_sqTail (v : Nat) : putField s seat (16 * lcl) v = putSqTail s r v := by
  unfold putField
  rw [if_neg (by omega), if_neg (by simp [hon, hen]), show 16 * lcl % 0x400 / 16 = lcl by omega, hring]
  dsimp only
  rw [if_pos (by omega), if_pos (by omega)]

theorem putField_cqHead (v : Nat) : putField s seat (16 * lcl + 8) v = putCqHead s r v := by
  unfold putField
  rw [if_neg (by omega), if_neg (by simp [hon, hen]), show (16 * lcl + 8) % 0x400 / 16 = lcl by omega, hring]
  dsimp only
  rw [if_pos (by omega), if_neg (by omega)]

theorem putField_sqSetup (v : Nat) : putField s seat (0x400 + 16 * lcl) v = putSqSetup s r v := by
  unfold putField
  rw [if_neg (by omega), if_neg (by simp [hon, hen]), show (0x400 + 16 * lcl) % 0x400 / 16 = lcl by omega, hring]
  dsimp only
  rw [if_neg (by omega), if_pos (by omega)]

theorem putField_cqSetup (v : Nat) : putField s seat (0x400 + 16 * lcl + 8) v = putCqSetup s r v := by
  unfold putField
  rw [if_neg (by omega), if_neg (by simp [hon, hen]), show (0x400 + 16 * lcl + 8) % 0x400 / 16 = lcl by omega, hring]
  dsimp only
  rw [if_neg (by omega), if_neg (by omega)]

end Fields

section Values

variable {s : State} {r v : Nat}

theorem putSqTail_inRange (hst : (ringAt s r).st ≠ .disabling) (hlt : v < ringE (ringAt s r))
    (hroom : (v + ringE (ringAt s r) - (ringAt s r).sqHead) % ringE (ringAt s r) + (ringAt s r).since ≤
      ringE (ringAt s r) - 1) :
    putSqTail s r v = { s with rings := tabMod {} s.rings r fun x => { x with sqTail := v, since := 0 } } := by
  unfold putSqTail
  dsimp only
  rw [if_neg hst, if_pos ⟨hlt, hroom⟩]
  rfl

theorem putSqTail_outOfRange (hst : (ringAt s r).st ≠ .disabling) (hge : ringE (ringAt s r) ≤ v) :
    putSqTail s r v = dbRefuse s r := by
  unfold putSqTail
  dsimp only
  rw [if_neg hst, if_neg (by omega)]

/-- A refused value is counted and noted, and changes no ring. -/
theorem dbRefuse_frame (s : State) (r : Nat) : ∃ b l m f o c,
    dbRefuse s r = { s with boot := b, log := l, marks := m, fns := f, out := o, cnts := c } ∧
    tabGet 0 c (ringBase + 0x54) = min cntMax (cntAt s (ringBase + 0x54) + 1) := by
  obtain ⟨b, l, m, f, o, hlog⟩ := logEvFor_frame (dbBad s) (srcOf ringBase) 0xB001 sevNote
    (le 2 r ++ kindByte 205 0) [(ringAt (dbBad s) r).seat] []
  exact ⟨b, l, m, f, o, (dbBad s).cnts, hlog, cntAt_bumpBy_same (s := s) (ringBase + 0x54) 1⟩

theorem putCqHead_inRange (hlt : v < ringE (ringAt s r))
    (hpass : (v + ringE (ringAt s r) - (ringAt s r).cqHead) % ringE (ringAt s r) ≤
      ((ringAt s r).cqTail + ringE (ringAt s r) - (ringAt s r).cqHead) % ringE (ringAt s r)) :
    putCqHead s r v = { s with rings := tabMod {} s.rings r fun x => { x with cqHead := v } } := by
  unfold putCqHead
  dsimp only
  rw [if_pos ⟨hlt, hpass⟩]
  rfl

theorem putSqSetup_enable (hst : (ringAt s r).st = .disabled) (hbit : bitOf v 0 = true) :
    putSqSetup s r v =
      enableRing (modRing s r fun x => { x with sqWord := BitVec.ofNat 64 v, sqBase := fld v 51 12, size := fld v 7 4 }) r := by
  unfold putSqSetup
  dsimp only
  rw [if_pos hst, if_pos hbit]

theorem putSqSetup_disable (hst : (ringAt s r).st ≠ .disabled) (hbit : bitOf v 0 = false) :
    putSqSetup s r v = modRing (disableRing s r false) r fun x => { x with sqWord := x.sqWord &&& ~~~(1 : BitVec 64) } := by
  unfold putSqSetup
  dsimp only
  rw [if_neg hst, if_neg (by rw [hbit]; simp)]

theorem putCqSetup_disabled (hst : (ringAt s r).st = .disabled) :
    putCqSetup s r v = { s with rings := tabMod {} s.rings r fun x =>
      { x with cqWord := BitVec.ofNat 64 v, cqBase := fld v 51 12, vector := fld v 4 0 } } := by
  unfold putCqSetup
  rw [if_pos hst]
  rfl

end Values

/-- Settles O29: the fields of the page in the state itself, and again in the state whose port's clocks run. -/
theorem doorbellFields : Obligations.DoorbellFields := by
  intro s seat lcl v r hlcl hon hen hring x e
  refine ⟨fun hst hlt hroom => ?_, fun hst hge => ?_, fun hlt hpass => ?_, fun hst hbit => ?_, fun hst hbit => ?_,
    fun hst => ?_, fun f k val hk hup hserved hseat => ?_⟩
  · rw [putField_sqTail hlcl hon hen hring, putSqTail_inRange hst hlt hroom]
  · rw [putField_sqTail hlcl hon hen hring, putSqTail_outOfRange hst hge]
    exact dbRefuse_frame s r
  · rw [putField_cqHead hlcl hon hen hring, putCqHead_inRange hlt hpass]
  · rw [putField_sqSetup hlcl hon hen hring, putSqSetup_enable hst hbit]
    rfl
  · rw [putField_sqSetup hlcl hon hen hring, putSqSetup_disable hst hbit]
  · rw [putField_cqSetup hlcl hon hen hring, putCqSetup_disabled hst]
  · intro w
    subst hk
    obtain ⟨d, hd⟩ := fnAwake_eq s f
    have hw : w = { s with doms := d } := hd
    have hpage : ∀ row off v, (.next (doorbell s (.inr (f, seat)) row off v) : Host.Outcome State Fault Refusal) =
        .next (putField w seat off v) := fun row off v => by
      rw [doorbell_bar4 hup hserved, if_pos hseat]
    have honw : (seatAt w seat).state ≠ .disabling := by rw [hw]; exact hon
    have henw : (seatAt w seat).state ≠ .disabled := by rw [hw]; exact hen
    have hringw : ringOf w seat k = some r := by rw [hw]; exact hring
    have hrings : w.rings = s.rings := by rw [hw]
    have hxw : ringAt w r = x := by rw [hw]; rfl
    refine ⟨fun hv hst hlt hroom => ?_, fun hv hlt hpass => ?_, fun hv hbit hst => ?_, fun hv hbit hst => ?_, fun hv hst => ?_⟩
    · refine (hpage _ _ _).trans ?_
      rw [hv, putField_sqTail hlcl honw henw hringw,
        putSqTail_inRange (by rwa [hxw]) (by rwa [hxw]) (by rwa [hxw]), hrings]
    · refine (hpage _ _ _).trans ?_
      rw [hv, putField_cqHead hlcl honw henw hringw, putCqHead_inRange (by rwa [hxw]) (by rwa [hxw]), hrings]
    · intro u hok
      refine (hpage _ _ _).trans ?_
      rw [hv, putField_sqSetup hlcl honw henw hringw, putSqSetup_enable (by rwa [hxw]) hbit]
      exact congrArg Host.Outcome.next (if_pos hok)
    · refine (hpage _ _ _).trans ?_
      rw [hv, putField_sqSetup hlcl honw henw hringw, putSqSetup_disable (by rwa [hxw]) hbit]
    · refine (hpage _ _ _).trans ?_
      rw [hv, putField_cqSetup hlcl honw henw hringw, putCqSetup_disabled (by rwa [hxw]), hrings]

end Sys2Proof.Machine
end

section
/-! SUPPORT. The ring service (R205–R225): its rows. -/

namespace Sys2Proof.Machine

open Sys2Proof

/-- A started descriptor that is not ended by its pass ends with what its checkpoint keeps. -/
theorem execRingOpLimitExpiry_started {s : State} {ring : Fin 8192} {i : Nat} {d : Desc}
    (hd : descAt s (descKey ring i) = some d) (hst : d.st = .started) (hop : dOp d.raw ≠ 12) :
    exec (.ringOpLimitExpiry ring i) s =
      .next (timeoutDesc (advanceTo s (d.startAt + d.limitMs * 1000000)) (descKey ring i)) := by
  change execRingOpLimitExpiry ring i s = _
  unfold execRingOpLimitExpiry
  simp only [hd]
  rw [if_neg (by simp [hst, hop])]

/-- At its limit a descriptor ends with the counts of its pass, or where it has none with what its checkpoint keeps. -/
theorem timeoutDesc_pass {s : State} {k : Nat} {d : Desc} {p : Pass} (hd : descAt s k = some d)
    (hp : (s.passes.find? fun p => p.by_ == .ring (ringOfKey k) (k % 0x10000)) = some p) :
    timeoutDesc s k = endDesc { bump s (ringBase + 0x50) with
      passes := s.passes.filter fun q => q.by_ != .ring (ringOfKey k) (k % 0x10000) } k stTimeout p.lines p.corr
        (p.unc + p.pois) := by
  have hp' : ((bump s (ringBase + 0x50)).passes.find? fun p => p.by_ == .ring (ringOfKey k) (k % 0x10000)) = some p := hp
  unfold timeoutDesc
  simp only [hd, hp']
  rfl

theorem timeoutDesc_noPass {s : State} {k : Nat} {d : Desc} (hd : descAt s k = some d)
    (hp : (s.passes.find? fun p => p.by_ == .ring (ringOfKey k) (k % 0x10000)) = none) :
    timeoutDesc s k = endDesc (keepCheckpoint (bump s (ringBase + 0x50)) k
      { k := k, b := d.raw, seat := (ringAt s (ringOfKey k)).seat, qc := (ringAt s (ringOfKey k)).qc, since := d.startOrd })
      k stTimeout 0 0 (nextAtStop d.raw) := by
  have hp' : ((bump s (ringBase + 0x50)).passes.find? fun p => p.by_ == .ring (ringOfKey k) (k % 0x10000)) = none := hp
  unfold timeoutDesc
  simp only [hd, hp']
  rfl

/-- Settles O30: what a fetch reads, where a record goes, and what a limit ends. -/
theorem ringService : Obligations.RingService := by
  intro s
  refine ⟨fun r w dla u v d hpick hfetch => ?_, fun r hpick hfetch => ?_,
    fun ring i d hd hend hfirst hlate => ⟨fun hquiet hok => ?_, fun hloud w dla u v hrange hacc hready hput => ?_⟩,
    fun ring hst hidle => ?_, fun ring i d hd hst hop => ⟨fun p hp => ?_, fun hp => ?_⟩⟩
  · intro n hlines x hread y k
    rw [show exec .descriptorTake s = execDescriptorTake s from rfl]
    unfold execDescriptorTake
    simp only [hpick, hfetch]
    rw [hlines]
    simp only [Bool.not_true]
    rw [if_neg (by simp), hread]
    refine ⟨fun hnone => ?_, fun raw hraw => ⟨fun st hst => ?_, fun hok => ?_⟩⟩
    · subst hnone
      rfl
    · subst hraw
      exact congrArg (fun o : Option Nat => (match o with
        | some st => .next (endDesc (takeDesc y r raw) k st 0 0 0)
        | none => .next (tryStart (takeDesc y r raw) k) : Host.Outcome State Fault Refusal)) hst
    · subst hraw
      exact congrArg (fun o : Option Nat => (match o with
        | some st => .next (endDesc (takeDesc y r raw) k st 0 0 0)
        | none => .next (tryStart (takeDesc y r raw) k) : Host.Outcome State Fault Refusal)) hok
  · change execDescriptorTake s = _
    unfold execDescriptorTake
    simp only [hpick, hfetch]
  · change execCompletionRecordWrite ring i s = _
    unfold execCompletionRecordWrite
    simp only [hd]
    rw [if_neg (by simp [hend, hfirst]), if_pos ⟨hquiet, hok⟩]
  · intro y call
    change execCompletionRecordWrite ring i s = _
    have hfetch : lateFetch s ring (descKey ring i) = (s, true) := by
      unfold lateFetch
      simp only [hd, hlate]
    unfold execCompletionRecordWrite
    simp only [hd]
    rw [if_neg (by simp [hend, hfirst]), if_neg hloud]
    simp only [hfetch, hd]
    unfold putRecord
    simp only [hrange]
    rw [if_neg (by simpa using hacc), hready]
    simp only [hput]
    rfl
  · change execRingDrainComplete ring s = _
    unfold execRingDrainComplete
    dsimp only
    rw [if_neg (by simp [hst, hidle]), ← apply_ite Host.Outcome.next]
  · rw [execRingOpLimitExpiry_started hd hst hop]
    obtain ⟨pm, f, o, hadv⟩ := advanceTo_frame s (d.startAt + d.limitMs * 1000000)
    rw [timeoutDesc_pass (d := d) (p := p) (by rw [hadv]; exact hd) (by rw [hadv]; exact hp),
      show (advanceTo s (d.startAt + d.limitMs * 1000000)).passes = s.passes by rw [hadv]]
  · rw [execRingOpLimitExpiry_started hd hst hop]
    obtain ⟨pm, f, o, hadv⟩ := advanceTo_frame s (d.startAt + d.limitMs * 1000000)
    rw [timeoutDesc_noPass (d := d) (by rw [hadv]; exact hd) (by rw [hadv]; exact hp), hadv]
    rfl

end Sys2Proof.Machine
end

section
/-! SUPPORT. The operations of ring descriptors (R210–R224): a running descriptor with operands that may be touched. -/

namespace Sys2Proof.Machine

open Sys2Proof

section

variable {s : State} {d : Running} {hpa len w dla st : Nat}

theorem onDesc_running {r i op : Nat} (h : running s r i op = some d) (f : Running → State → State) :
    onDesc s r i op f = f d s := by
  unfold onDesc
  rw [h]

theorem withOperand_ok (h : operand s d hpa len = .ok (w, dla)) (f : Nat → Nat → State) :
    withOperand s d hpa len f = f w dla := by
  unfold withOperand
  rw [h]

theorem withOperand_error {t : State} (h : operand s d hpa len = .error st)
    (hnote : operandNote s d hpa len st = some t) (f : Nat → Nat → State) :
    withOperand s d hpa len f = endDesc t d.k st 0 0 0 := by
  unfold withOperand operandFails
  rw [h]
  dsimp only
  rw [hnote]

theorem withTarget_ok (h : operand s d hpa len = .ok (w, dla)) (hmet : telemetryMet s w dla len = false)
    (f : Nat → Nat → State) : withTarget s d hpa len f = f w dla := by
  unfold withTarget
  rw [withOperand_ok h, if_neg (by rw [hmet]; simp)]

theorem withTarget_met (h : operand s d hpa len = .ok (w, dla)) (hmet : telemetryMet s w dla len = true)
    (f : Nat → Nat → State) : withTarget s d hpa len f = endDesc s d.k stAccess 0 0 0 := by
  unfold withTarget
  rw [withOperand_ok h, if_pos hmet]

/-- A range behind a break has the status ABORTED, and is noted where the station's error response can come back. -/
theorem operand_break {l u : Nat} (hrange : seatRange s d.seat hpa len = some (w, dla))
    (hacc : accessStatus s w dla len d.since = stOk) (hbreak : rangeBreak s (descStation s d) w dla len = some (l, u)) :
    operand s d hpa len = .error stAborted := by
  unfold operand
  simp only [hrange]
  rw [if_neg (by simpa using hacc), if_pos (by rw [hbreak]; rfl)]

theorem operandNote_break {l u : Nat} (hrange : seatRange s d.seat hpa len = some (w, dla))
    (hbreak : rangeBreak s (descStation s d) w dla len = some (l, u)) :
    operandNote s d hpa len stAborted =
      if (routeBreak s u (descStation s d)).isSome then none else some (descError s d w l u) := by
  unfold operandNote unanswered
  rw [if_neg (by simp), hrange]
  dsimp only
  rw [hbreak]

end

/-- Settles O31: the operands' rules bring each operation to its result. -/
theorem copyFillDigest : Obligations.CopyFillDigest := by
  intro s ring i d
  refine ⟨fun hrun => ?_, fun wa a wb b u v x ls hrun => ?_, fun w dla u hrun => ?_, fun w dla u x ls hrun => ?_,
    fun wa a wb b u v x ls hrun => ?_, fun st t hrun hop hnote => ?_, fun st t hrun hop hnote => ?_,
    fun w dla hrun hop hmet => ?_, fun hpa len w dla l u hrange hacc hbreak => ⟨operand_break hrange hacc hbreak, ?_, ?_⟩⟩
  · exact congrArg Host.Outcome.next (onDesc_running hrun _)
  · intro len ha hb hmet hlines hprep hspan poisoned bad badIn
    change execCopy ring i s = _
    unfold execCopy
    simp only [onDesc_running hrun, withOperand_ok ha, withTarget_ok hb hmet, len, hlines, hprep, hspan]
    rfl
  · intro len hb hmet hprep
    change execFill ring i s = _
    unfold execFill
    simp only [onDesc_running hrun, withTarget_ok hb hmet, len, hprep]
    rfl
  · intro len ha hlines hspan
    change execCrc ring i s = _
    unfold execCrc
    simp only [onDesc_running hrun, withOperand_ok ha, len, hlines, hspan]
    rfl
  · intro len out ha hb hmet hlines hprep hspan
    rw [show exec (.hash ring i) s = execHash ring i s from rfl]
    unfold execHash
    simp only [onDesc_running hrun, withOperand_ok ha, withTarget_ok hb hmet, len, out, hlines, hprep, hspan]
    refine ⟨fun hclean => ?_, fun hpoison => ?_⟩
    · rw [hclean]
      rfl
    · rw [hpoison]
      rfl
  · change execFill ring i s = _
    unfold execFill withTarget
    rw [onDesc_running hrun]
    exact congrArg Host.Outcome.next (withOperand_error hop hnote _)
  · change execCrc ring i s = _
    unfold execCrc
    rw [onDesc_running hrun]
    exact congrArg Host.Outcome.next (withOperand_error hop hnote _)
  · change execFill ring i s = _
    unfold execFill
    rw [onDesc_running hrun]
    exact congrArg Host.Outcome.next (withTarget_met hop hmet _)
  · intro hback
    rw [operandNote_break hrange hbreak, hback]
    rfl
  · intro hlost
    rw [operandNote_break hrange hbreak, if_pos (Option.isSome_iff_ne_none.2 hlost)]

/-- A REKEY that R177 lets go on is not refused. -/
theorem rekeyRefused_free {s : State} {w : Nat} (h : rekeyFree s w) : rekeyRefused s w true = none := by
  obtain ⟨hmirror, hidle, hpeer, hdraw, hon⟩ := h
  unfold rekeyRefused
  dsimp only
  by_cases hm : (winAt s w).mirror = 0
  · simp [hm, hidle, hpeer, hdraw, hon]
  · obtain ⟨hprimary, hnotDeg, hnotMis⟩ := hmirror hm
    simp [hprimary, hnotDeg, hnotMis, hidle, hpeer, hdraw, hon]

/-- Settles O32: the three bulk operations by their operands' rules, and REKEY from a ring and from the island. -/
theorem zeroTierRekey : Obligations.ZeroTierRekey := by
  intro s ring i d
  refine ⟨fun w dla u v x hrun => ?_, fun w dla ha => ?_, fun w dla hrun hrange hseat hfree => ?_, fun h hsize hfree => ?_⟩
  · intro len hb hmet pages head tail hlines hhead htail
    change execZero ring i s = _
    unfold execZero
    simp only [pages, head, tail, len] at hlines hhead htail
    simp only [onDesc_running hrun, withTarget_ok hb hmet, len, hlines, hhead, htail]
    rfl
  · intro m hcur
    have hheld : ((List.range m).any fun i =>
        underCursor s w (hankOff s w (dla + i * 0x1000)) (pageNo (dla + i * 0x1000))) = false := by
      rw [List.any_eq_false]
      intro j hj
      rw [hcur j (List.mem_range.1 hj)]
      simp
    refine ⟨fun hrun => ?_, fun hrun => ?_⟩
    · change execPromote ring i s = _
      unfold execPromote tierDesc
      rw [onDesc_running hrun, withOperand_ok ha]
      dsimp only
      rw [if_neg (by rw [hheld]; simp)]
    · change execDemote ring i s = _
      unfold execDemote tierDesc
      rw [onDesc_running hrun, withOperand_ok ha]
      dsimp only
      rw [if_neg (by rw [hheld]; simp)]
  · change execRekey (.ring ring) i s = _
    unfold execRekey
    dsimp only
    rw [onDesc_running hrun]
    simp only [hrange, hseat, rekeyRefused_free hfree]
    rfl
  · intro t u
    change execRekey .island i s = _
    unfold execRekey
    dsimp only
    rw [mcGate_served h]
    obtain ⟨e, he⟩ := mcAwake_eq s
    rw [if_neg (by rw [he]; exact hsize), rekeyRefused_free hfree]
    rfl

/-! ## Streams -/

/-- The input that the lines of a stream's input range make. -/
def spanInput (d : Running) (a : Nat) (ls : List (Option (List Byte))) : StreamIn :=
  { bytes := (spanBytes ls a (dLenA d.b)).take (goodLen ls a (dLenA d.b)), bad := (spanPoison ls).isSome }

theorem streamInput_eq {s x : State} {d : Running} {wa a : Nat} {ls : List (Option (List Byte))}
    (hspan : descSpan s d wa a (dLenA d.b) = (x, ls)) : streamInput s d wa a = (x, spanInput d a ls) := by
  unfold streamInput
  rw [hspan]
  rfl

section Streams

variable {s : State} {d : Running} {comp : Bool} {wa a wb b : Nat} {u v : State}

/-- With input and output that may be touched, a stream without a context runs by itself, one with a context checks it. -/
theorem streamDesc_alone (ha : operand s d (dA d.b) (dLenA d.b) = .ok (wa, a))
    (hb : operand s d (dB d.b) (dLenB d.b) = .ok (wb, b)) (hmet : telemetryMet s wb b (dLenB d.b) = false)
    (hlines : agentLines s d.k wa a (dLenA d.b) false = (u, true))
    (hprep : agentPrepare u d.k wb b (dLenB d.b) d.qc = (v, true)) (hctx : dCtx d.b = none) :
    streamDesc s d comp = streamAlone v d (streamOp d.b comp) wa a wb b := by
  unfold streamDesc
  simp only [withOperand_ok ha, withTarget_ok hb hmet, hlines, hprep, hctx, Bool.and_self, Bool.not_true, Bool.false_eq_true,
    ↓reduceIte]

theorem streamDesc_held {cx wc cd : Nat} {v₂ : State} (ha : operand s d (dA d.b) (dLenA d.b) = .ok (wa, a))
    (hb : operand s d (dB d.b) (dLenB d.b) = .ok (wb, b)) (hmet : telemetryMet s wb b (dLenB d.b) = false)
    (hlines : agentLines s d.k wa a (dLenA d.b) false = (u, true))
    (hprep : agentPrepare u d.k wb b (dLenB d.b) d.qc = (v, true)) (hctx : dCtx d.b = some cx)
    (hc : operand v d cx 4096 = .ok (wc, cd)) (hcprep : agentPrepare v d.k wc cd 4096 d.qc = (v₂, true)) :
    streamDesc s d comp = streamHeld v₂ d (streamOp d.b comp) wc cd wa a wb b := by
  unfold streamDesc
  simp only [withOperand_ok ha, withTarget_ok hb hmet, hlines, hprep, hctx, withOperand_ok hc, hcprep, Bool.and_self, Bool.not_true,
    Bool.false_eq_true, ↓reduceIte]

theorem streamAlone_eq {op : StreamOp} {x : State} {ls : List (Option (List Byte))} {y : State} {r : StreamRes}
    (hspan : descSpan v d wa a (dLenA d.b) = (x, ls))
    (hout : streamOut x d wb b (streamTry op {} [] none (spanInput d a ls) (op.final || op.comp)) = (y, r)) :
    streamAlone v d op wa a wb b = streamEnd y d r := by
  unfold streamAlone
  simp only [streamInput_eq hspan, hout]

end Streams

section Held

variable {s x : State} {d : Running} {op : StreamOp} {wc cd wa a wb b : Nat} {cl : List (Option (List Byte))}
  (hspan : descSpan s d wc cd 4096 = (x, cl))
include hspan

theorem streamHeld_poison (hpoison : (spanPoison cl).isSome = true) :
    streamHeld s d op wc cd wa a wb b = endDesc x d.k stPoison 0 0 0 := by
  unfold streamHeld
  simp only [hspan]
  rw [if_pos hpoison]

variable (hclean : (spanPoison cl).isSome = false)
include hclean

theorem streamHeld_bad (hbad : ctxRefused x (spanBytes cl cd 4096) = true ∨ ctxDiffers (spanBytes cl cd 4096) op = true ∨
      op.fmt ≠ 0 ∧ ((ctxOf (spanBytes cl cd 4096)).histLog < 15 ∨ 23 < (ctxOf (spanBytes cl cd 4096)).histLog)) :
    streamHeld s d op wc cd wa a wb b = endDesc x d.k stBadDesc 0 0 0 := by
  unfold streamHeld
  simp only [hspan]
  rw [if_neg (by rw [hclean]; simp)]
  by_cases hload : (ctxRefused x (spanBytes cl cd 4096) || ctxDiffers (spanBytes cl cd 4096) op) = true
  · rw [if_pos hload]
  · rw [if_neg hload]
    rw [Bool.or_eq_true, not_or] at hload
    obtain ⟨hfmt, hlog⟩ := (hbad.resolve_left hload.1).resolve_left hload.2
    rw [if_neg hfmt, if_pos hlog]

variable (hkept : ctxRefused x (spanBytes cl cd 4096) = false) (hsame : ctxDiffers (spanBytes cl cd 4096) op = false)
include hkept hsame

theorem streamHeld_plz (hfmt : op.fmt = 0) :
    streamHeld s d op wc cd wa a wb b = streamWith x d op (ctxOf (spanBytes cl cd 4096)) wc cd none wa a wb b := by
  unfold streamHeld
  simp only [hspan]
  rw [if_neg (by rw [hclean]; simp), if_neg (by rw [hkept, hsame]; simp), if_pos hfmt]

variable (hfmt : op.fmt ≠ 0) (hlo : 15 ≤ (ctxOf (spanBytes cl cd 4096)).histLog) (hhi : (ctxOf (spanBytes cl cd 4096)).histLog ≤ 23)
include hfmt hlo hhi

theorem streamHeld_noHistory {st : Nat} {n : State}
    (hhist : operand x d (ctxOf (spanBytes cl cd 4096)).histAddr (2 ^ (ctxOf (spanBytes cl cd 4096)).histLog) = .error st)
    (hnote : operandNote x d (ctxOf (spanBytes cl cd 4096)).histAddr (2 ^ (ctxOf (spanBytes cl cd 4096)).histLog) st = some n) :
    streamHeld s d op wc cd wa a wb b = streamSave n d op (ctxOf (spanBytes cl cd 4096)) wc cd
      (streamStill op (ctxOf (spanBytes cl cd 4096)) (some (ctxOf (spanBytes cl cd 4096)).histLog) st) := by
  unfold streamHeld
  simp only [hspan]
  rw [if_neg (by rw [hclean]; simp), if_neg (by rw [hkept, hsame]; simp), if_neg hfmt, if_neg (by omega), hhist]
  dsimp only
  rw [hnote]

theorem streamHeld_history {wh hd : Nat} {x₂ : State}
    (hhist : operand x d (ctxOf (spanBytes cl cd 4096)).histAddr (2 ^ (ctxOf (spanBytes cl cd 4096)).histLog) = .ok (wh, hd))
    (hprep : agentPrepare x d.k wh hd (2 ^ (ctxOf (spanBytes cl cd 4096)).histLog) d.qc = (x₂, true)) :
    streamHeld s d op wc cd wa a wb b =
      streamWith x₂ d op (ctxOf (spanBytes cl cd 4096)) wc cd (some (wh, hd)) wa a wb b := by
  unfold streamHeld
  simp only [hspan]
  rw [if_neg (by rw [hclean]; simp), if_neg (by rw [hkept, hsame]; simp), if_neg hfmt, if_neg (by omega), hhist]
  dsimp only
  rw [hprep]
  simp only [Bool.not_true, Bool.false_eq_true, ↓reduceIte]

end Held

section With

variable {s : State} {d : Running} {op : StreamOp} {c : Ctx} {wc cd wa a wb b : Nat}

/-- A PLZ stream has no history buffer: its window is the context's own. -/
theorem streamWith_plz {y z : State} {ls : List (Option (List Byte))} {r : StreamRes} (hfmt : op.fmt = 0)
    (hspan : descSpan s d wa a (dLenA d.b) = (y, ls))
    (hout : streamOut y d wb b (streamTry op c (histPast c (spanBytes [] 0 c.histFill)) none
      (spanInput d a ls) op.final) = (z, r)) :
    streamWith s d op c wc cd none wa a wb b = streamSave z d op c wc cd r := by
  unfold streamWith
  simp only [hfmt, streamInput_eq hspan]
  rw [if_neg (by unfold spanPoison; simp)]
  simp only [↓reduceIte, hout]

theorem streamWith_history {wh hd : Nat} {x y z t : State} {hl ls : List (Option (List Byte))} {r : StreamRes}
    (hfmt : op.fmt ≠ 0) (hhist : descSpan s d wh hd c.histFill = (x, hl)) (hclean : (spanPoison hl).isSome = false)
    (hspan : descSpan x d wa a (dLenA d.b) = (y, ls))
    (hout : streamOut y d wb b (streamTry op c (histPast c (spanBytes hl 0 c.histFill)) (some c.histLog)
      (spanInput d a ls) op.final) = (z, r))
    (hput : histPut z d.k wh hd c d.qc d.seat
      (if op.comp then (spanInput d a ls).bytes.take r.used else r.out) = (t, true)) :
    streamWith s d op c wc cd (some (wh, hd)) wa a wb b = streamSave t d op c wc cd r := by
  unfold streamWith
  simp only [hhist]
  rw [if_neg (by rw [hclean]; simp)]
  simp only [streamInput_eq hspan, if_neg hfmt, hout, hput, ↓reduceIte]

end With

/-- A context that cannot be written back changes the status of the stream's end, and nothing else of it. -/
theorem streamSave_eq (t : State) (d : Running) (op : StreamOp) (c : Ctx) (wc cd : Nat) (r : StreamRes) :
    streamSave t d op c wc cd r =
      let p := agentPut t d.k wc cd d.qc d.seat (ctxBytes t.boot.stepMajor (ctxAfter op c r)) fun _ => false
      endDesc p.1 d.k (if p.2 < 4096 then stCapacity else r.status) r.used r.out.length (r.err + r.errOff * 0x10000) := by
  unfold streamSave streamEnd
  dsimp only
  split <;> rfl

/-- Settles O33: a stream descriptor's way from its operands to its results, with each end that its context has. -/
theorem streamOps : Obligations.StreamOps := by
  intro s ring i d comp runs wa a wb b u v op la lb ha hb hmet hlines hprep
  have hruns : ∀ {t}, streamDesc s d comp = t → runs t := by
    rintro t rfl
    refine ⟨fun hcomp hrun => ?_, fun hcomp hrun => ?_⟩
    · subst hcomp
      exact congrArg Host.Outcome.next (onDesc_running hrun _)
    · subst hcomp
      exact congrArg Host.Outcome.next (onDesc_running hrun _)
  refine ⟨fun x ls y r hctx hspan => ?_, fun cx wc cd v₂ x cl hctx hc hcprep hcspan => ?_⟩
  · intro input hout
    exact hruns ((streamDesc_alone ha hb hmet hlines hprep hctx).trans (streamAlone_eq hspan hout))
  · intro raw ctx save
    have hheld : ∀ {t}, streamHeld v₂ d op wc cd wa a wb b = t → runs t := fun h =>
      hruns ((streamDesc_held ha hb hmet hlines hprep hctx hc hcprep).trans h)
    refine ⟨fun hpoison => hheld (streamHeld_poison hcspan hpoison), fun hclean hbad => hheld (streamHeld_bad hcspan hclean hbad),
      fun hclean hkept hsame => ⟨fun y ls z r hfmt hspan => ?_, fun hfmt hlo hhi => ⟨fun st n hhist hnote => ?_,
        fun wh hd x₂ x₃ hl y ls z r t hhist hhprep hhspan hhclean hspan => ?_⟩⟩⟩
    · intro input hout
      exact hheld (((streamHeld_plz hcspan hclean hkept hsame hfmt).trans (streamWith_plz hfmt hspan hout)).trans
        (streamSave_eq _ _ _ _ _ _ _))
    · exact hheld ((streamHeld_noHistory hcspan hclean hkept hsame hfmt hlo hhi hhist hnote).trans
        (streamSave_eq _ _ _ _ _ _ _))
    · intro input hout hput
      exact hheld (((streamHeld_history hcspan hclean hkept hsame hfmt hlo hhi hhist hhprep).trans
        (streamWith_history hfmt hhspan hhclean hspan hout hput)).trans (streamSave_eq _ _ _ _ _ _ _))

end Sys2Proof.Machine
end

section
/-! SUPPORT. SCAN and GATHER (R219, R220). -/

namespace Sys2Proof.Machine

open Sys2Proof

/-- A column that is not framed, or whose records could all be read, waits for no lines. -/
theorem noWait {α : Type} {b : Bool} {o : Option α} (h : b = true → o = none) : (b && o.isSome) = false := by
  cases b
  · rfl
  · rw [h rfl]
    rfl

/-- Settles O34. -/
theorem scanAndGather : Obligations.ScanAndGather := by
  intro s
  refine ⟨fun ring i d hrun => ?_, fun ring i d hrun => ?_⟩
  · dsimp only
    intro wa a wb b wc c u v x y z selLs col st₀ ha hb hmet hc hlines hprep hselLines hselSpan hframed hcol
    rw [show exec (.scan ring i) s = execScan ring i s from rfl]
    unfold execScan
    rw [onDesc_running hrun]
    dsimp only
    simp only [withOperand_ok ha, withTarget_ok hb hmet, hc, hlines, hprep, hselLines, hselSpan, hcol, Bool.and_self,
      Bool.not_true, noWait hframed, Bool.false_eq_true, ↓reduceIte]
    refine ⟨fun hlist => ?_, fun hbitmap => ?_⟩
    · simp only [hlist, ↓reduceIte] <;> rfl
    · simp only [hbitmap, Bool.false_eq_true, ↓reduceIte] <;> rfl
  · dsimp only
    intro wa a wb b wc c u v x y z cls g next st ha hb hmet hc hlines hprep hspan hready hloop
    rw [show exec (.gather ring i) s = execGather ring i s from rfl]
    unfold execGather
    rw [onDesc_running hrun]
    simp only [withOperand_ok ha, withTarget_ok hb hmet, withOperand_ok hc, hlines, hprep, hspan, Bool.and_self, Bool.not_true,
      Bool.false_eq_true, ↓reduceIte]
    generalize hfold : List.foldl _ (x, true) _ = q
    obtain rfl : q = (y, true) := hfold.symm.trans hready
    simp only [hloop, Bool.not_true, Bool.false_eq_true, ↓reduceIte]

end Sys2Proof.Machine
end

section
/-! SUPPORT. The DRAM channels (R230–R246, R260): their rows. -/

namespace Sys2Proof.Machine

open Sys2Proof

/-- What a channel does at an instant: powered time has run up to it, and the channel alone has changed. -/
theorem modCh_advanceTo (s : State) (due ch : Nat) (g : Chan → Chan) : ∃ p f o, modCh (advanceTo s due) ch g =
    { s with now := max s.now due, pmu := p, fns := f, out := o, chans := tabMod {} s.chans ch g } := by
  obtain ⟨p, f, o, hadv⟩ := advanceTo_frame s due
  refine ⟨p, f, o, ?_⟩
  rw [hadv]
  rfl

/-- Settles O35: each row at its due time, with the poll's two outcomes. -/
theorem channelPeriods : Obligations.ChannelPeriods := by
  intro s ch x
  refine ⟨fun hon => ?_, fun hon => ?_, fun hpresent hwell => ?_, ?_, fun sensors mr4 hst => ?_, fun line noise e he hon => ?_⟩
  · obtain ⟨p, f, o, hadv⟩ := advanceTo_frame s (x.refAt + trefi x)
    obtain ⟨p', f', o', hev⟩ := pmuEvent_frame (advanceTo s (x.refAt + trefi x)) 1 ch 0x23
    refine ⟨p', f', o', ?_⟩
    change execRefresh ch s = _
    unfold execRefresh
    dsimp only
    rw [if_neg (not_not_intro hon), hev, hadv]
    rfl
  · obtain ⟨p, f, o, h⟩ := modCh_advanceTo s (x.zqAt + 32000000) ch fun y => { y with zqAt := x.zqAt + 32000000 }
    refine ⟨p, f, o, ?_⟩
    change execZqCalibration ch s = _
    unfold execZqCalibration
    dsimp only
    rw [if_neg (not_not_intro hon), ← h]
  · obtain ⟨p, f, o, h⟩ := modCh_advanceTo s (x.winAt + 8192 * trefi x) ch fun y =>
      { y with winAt := x.winAt + 8192 * trefi x, rdt := [], throttles := [] }
    refine ⟨p, f, o, ?_⟩
    change execRdtWindowClear ch s = _
    unfold execRdtWindowClear
    dsimp only
    rw [if_neg (not_or_intro hpresent hwell), ← h]
  · intro t
    obtain ⟨p, f, o, h⟩ := modCh_advanceTo s ((x.lbLeak / t + 1) * t) ch fun y =>
      { y with lbLevel := y.lbLevel - 1, lbLeak := (x.lbLeak / t + 1) * t }
    exact ⟨p, f, o, congrArg Host.Outcome.next h⟩
  · intro due top hot
    obtain ⟨p, f, o, h⟩ := modCh_advanceTo s due ch fun y => { y with pollAt := due, tmax := min 255 top, hot := hot }
    have hrow : exec (.dimmThermalPoll ch sensors mr4) s = execDimmThermalPoll ch sensors mr4 s := rfl
    refine ⟨p, f, o, ?_⟩
    rw [← h, hrow]
    unfold execDimmThermalPoll
    dsimp only
    rw [if_neg (by rintro ⟨hoff, hno, hself⟩; rcases hst with hst | hst | hst <;> contradiction)]
    simp only [Bool.or_eq_true, decide_eq_true_eq]
    exact ⟨fun hsame => if_pos hsame, fun hdiff => if_neg hdiff⟩
  · change execMergeEntryTimeout ch line noise s = _
    unfold execMergeEntryTimeout
    rw [show (chAt s ch).merge.find? (fun e => e.line == line) = some e from he]
    dsimp only
    rw [if_neg (by rw [hon]; simp)]

theorem blockOf_chBase (ch : Fin 16) {r : Nat} (hr : r < 0x10000) : blockOf (chBase ch + r) = some (.ch ch, r) := by
  have hdiv : (chBase ch + r) / 0x10000 = 0x80 + ch.val := by unfold chBase; omega
  have hmod : (chBase ch + r) % 0x10000 = r := by unfold chBase; omega
  unfold blockOf
  dsimp only
  rw [hdiv, hmod]
  iterate 18 rw [if_neg (by omega)]
  rw [if_pos (by omega), Nat.add_sub_cancel_left]

/-- A channel's register that is served lies in a domain that is awake. -/
theorem domAwake_of_chServed {s : State} {by_ : Agent} {ch : Fin 16} {r : Nat} (hr : r < 0x10000)
    (h : regServed s by_ (chBase ch + r) = true) : domAwake s (14 + ch.val / 2) = true := by
  unfold regServed at h
  rw [blockOf_chBase ch hr] at h
  simp only [Bool.and_eq_true] at h
  exact h.1.1.1.2

theorem logEv_rate (s : State) (a b c : Nat) (p : List Byte) : (logEv s a b c p).rate = s.rate := by
  obtain ⟨b, l, m, f, o, h⟩ := logEv_frame s a b c p
  rw [h]

theorem ite_rate {c : Prop} [Decidable c] {a b : State} {r : Rate} (ha : a.rate = r) (hb : b.rate = r) :
    (if c then a else b).rate = r := by
  split <;> assumption

theorem rescale_rate (s : State) : (rescale s).rate = s.rate := by
  unfold rescale
  dsimp only
  refine ite_rate ?_ (ite_rate (logEv_rate _ _ _ _ _) rfl)
  exact (logEv_rate _ _ _ _ _).trans (ite_rate rfl rfl)

/-- A walk over the channels keeps the data rate's state where its step does. -/
theorem foldl_rate {β : Type} {g : State → β → State} (hg : ∀ t b, (g t b).rate = t.rate) (l : List β) (s : State) :
    (l.foldl g s).rate = s.rate :=
  foldl_keeps (P := fun t => t.rate = s.rate) rfl fun t b ht => (hg t b).trans ht

theorem chanEvent_rate (s : State) (c sev r k : Nat) : (chanEvent s c sev r k).rate = s.rate := logEv_rate _ _ _ _ _

/-- What ends a rate change after its new state is set, the channels' way on and a failure's event, keeps that state. -/
theorem settle_rate {β : Type} {g : State → β → State} (hg : ∀ t b, (g t b).rate = t.rate) {ok : Bool} {l : List β} {s : State} :
    (if ok = true then l.foldl g s else chanEvent (l.foldl g s) 0 sevErr 246 1).rate = s.rate :=
  ite_rate (foldl_rate hg l s) ((chanEvent_rate _ _ _ _ _).trans (foldl_rate hg l s))

/-- Where no target was stored during a rate change, none is taken at its end. -/
theorem takeStored_none {u : State} (h : u.rate.stored = none) : (match u.rate.stored with
    | some t => takeTarget { u with rate := { u.rate with stored := none } } t
    | none => u) = u := by
  rw [h]

/-- The data rate that the training release chooses is the one in force, or the present one where there is none. -/
theorem bootedRate (s : State) (o : Option Nat) : (match o with
    | some r => { s with rate := { s.rate with cur := r, target := r } }
    | none => s).rate.cur = o.getD s.rate.cur := by
  cases o <;> rfl

/-- Settles O36: the release and the end of a rate change are found by the state in which the model goes on. -/
theorem channelWork : Obligations.ChannelWork := by
  intro s ch
  refine ⟨fun ready q passes hon => ?_, fun by_ h => ?_, fun by_ t h => accessRow_served h _ _ rfl, ?_, fun dimms hphase habsent => ?_,
    fun trained hbusy houts hstored => ?_⟩
  · intro u v hpick w y
    change execChannelCommandIssue ch ready s = _
    unfold execChannelCommandIssue
    dsimp only
    rw [if_neg (by rw [hon]; simp)]
    rw [show pickIssue _ ch ready = some (q, passes) from hpick] <;> rfl
  · change execChannelRetrain by_ ch s = _
    have hawake := domAwake_of_chServed (by decide) h
    unfold execChannelRetrain
    rw [if_neg (by
      intro hsleep
      unfold domAwake at hawake
      rw [Bool.and_eq_true, decide_eq_true_eq] at hsleep
      rw [hsleep.1] at hawake
      exact absurd hawake (by decide))]
    exact accessRow_served h _ _ rfl
  · intro x hbusy
    have hrow : ∀ r, exec (.trainingStepResult ch r) s = execTrainingStepResult ch r s := fun r => rfl
    have hwork : ¬ (!(chAt s ch).busy) = true := by
      have : (chAt s ch).busy = true := hbusy
      rw [this]
      simp
    refine ⟨fun hstep => ?_, fun hlast => ?_, ?_⟩
    · rw [hrow]
      unfold execTrainingStepResult
      dsimp only
      rw [if_neg hwork, if_pos hstep]
      rfl
    · rw [hrow]
      unfold execTrainingStepResult
      dsimp only
      rw [if_neg hwork, if_neg (Nat.not_lt.2 hlast), ← apply_ite Host.Outcome.next, ← apply_ite dvfsGo]
    · intro u
      refine ⟨fun hfew => ?_, fun hmany => ?_⟩
      · rw [hrow]
        unfold execTrainingStepResult
        dsimp only
        rw [if_neg hwork, if_pos (Nat.succ_lt_succ hfew)]
      · rw [hrow]
        unfold execTrainingStepResult
        dsimp only
        rw [if_neg hwork, if_neg (Nat.not_lt.2 (Nat.succ_le_succ hmany)), ← apply_ite Host.Outcome.next, ← apply_ite dvfsGo]
  · rw [show exec (.trainingRelease dimms) s = execTrainingRelease dimms s from rfl]
    unfold execTrainingRelease
    rw [if_neg (by
      rintro (hno | hany)
      · exact hno hphase
      · obtain ⟨e, he, hne⟩ := List.any_eq_true.1 hany
        rw [habsent e he] at hne
        exact absurd hne (by decide))]
    refine ⟨_, rfl, ?_⟩
    rw [foldl_rate]
    · rw [List.filterMap_map]
      exact bootedRate s _
    · rintro t ⟨c, pop⟩
      cases pop with
      | up d => exact ite_rate rfl (chanEvent_rate _ _ _ _ _)
      | absent => rfl
      | unsupported => rfl
      | failed => rfl
  · rw [show exec (.rateChangeComplete trained) s = execRateChangeComplete trained s from rfl]
    unfold execRateChangeComplete
    rw [if_neg (by rw [hbusy]; simp)]
    dsimp only
    rw [if_neg (by
      rw [List.any_map, List.any_eq_true]
      rintro ⟨c, hc, hnone⟩
      exact houts c hc (Option.isNone_iff_eq_none.1 hnone))]
    refine ⟨_, congrArg Host.Outcome.next (congrArg dvfsGo (congrArg resume (congrArg runStored
      (takeStored_none (u := rescale _) ?_)))), ?_, ?_⟩
    · rw [rescale_rate, settle_rate]
      · refine (congrArg Rate.stored (foldl_rate (fun t o => ?_) _ s)).trans hstored
        exact ite_rate (ite_rate rfl rfl) (ite_rate rfl rfl)
      · exact fun t c => ite_rate rfl rfl
    · rw [settle_rate]
      exact fun t c => ite_rate rfl rfl
    · rw [settle_rate]
      · refine if_congr ?_ rfl rfl
        rw [List.all_map, List.all_eq_true]
        exact forall₂_congr fun c _ => beq_iff_eq
      · exact fun t c => ite_rate rfl rfl

end Sys2Proof.Machine
end

section
/-! SUPPORT. Scrubbing and SRAM errors (R222, R262–R266, R270): their rows. -/

namespace Sys2Proof.Machine

open Sys2Proof

section Lines

variable {s : State} {noise : List Byte} {p : Pass} {rest : List Pass} {line dla : Nat} {segs : List Nat}
  (hpass : (livePasses s).passes = p :: rest)
include hpass

/-- The next line of a pass: passed over where it backs nothing any more, else read by its decoder's outcome. -/
theorem scrubLine_stale {todo : List (Nat × Nat × List Nat)} (hver : p.verify = none) (htodo : p.todo = (line, dla, segs) :: todo)
    (hback : backs (livePasses s) line dla = false) :
    exec (.scrubLine noise) s = .next (modPass (livePasses s) fun p => { p with todo := todo }) := by
  change execScrubLine noise s = _
  unfold execScrubLine
  simp only [hpass, hver, htodo]
  rw [if_pos (by rw [hback]; rfl)]

theorem scrubLine_read {todo : List (Nat × Nat × List Nat)} (hver : p.verify = none) (htodo : p.todo = (line, dla, segs) :: todo)
    (hback : backs (livePasses s) line dla = true)
    (hon : (geoOf (livePasses s) line).isSome = true → chOnline (livePasses s) (chOfLine (livePasses s) line) = true) :
    let qc := passClass (livePasses s) p
    let v := casLine (flushLine (modPass (livePasses s) fun p => { p with todo := todo, lines := p.lines + 1 }) line []) line false qc 1024
    let r := decodeStored (scrubStored v line dla) noise
    exec (.scrubLine noise) s = match r.2 with
      | .uncorrectable => .next (scrubUncorrectable (casLine v line true qc 1024) line dla segs)
      | .clean => .next (if r.1 = .poison then scrubPoisoned v line dla segs false qc else v)
      | .corrected dev syms =>
        if r.1 = .poison then .next (scrubPoisoned (noteCorrected v line dev syms (r.1 == .poison)) line dla segs true qc)
        else .next (modPass (noteCorrected v line dev syms (r.1 == .poison)) fun p => { p with
          verify := some (line, dla, segs, dev, corrBits syms)
          fix := some { (scrubStored v line dla).getD {} with err := errAfter (errAdd ((scrubStored v line dla).getD {}).err noise) }
          cancelled := false }) := by
  change execScrubLine noise s = _
  unfold execScrubLine
  simp only [hpass, hver, htodo]
  rw [if_neg (by rw [hback]; simp), if_neg (by
    rw [Bool.and_eq_true, Bool.not_eq_true', not_and]
    intro hgeo
    simp [hon hgeo])] <;> rfl

end Lines

/-- Settles O37: the oldest live pass, by what is next for it: a line, a write-back, a verifying read, or its end. -/
theorem scrubAndErrors : Obligations.ScrubAndErrors := by
  intro s
  refine ⟨fun ring i d w dla wb b hrun ha hb hmet hnew => ?_, fun noise p rest line dla segs todo hpass hver htodo => ?_,
    fun noise p rest line dla segs dev bits st hpass hver hfix => ?_, fun noise p rest line dla segs dev bits hpass hver hfix => ?_,
    fun p rest hpass htodo hver => ?_, fun by_ ch v h => ?_, rfl, fun e t ht => ?_, fun slot hslot => ?_,
    fun slice set way hset hway => ?_⟩
  · change execScrub ring i s = _
    unfold execScrub
    rw [onDesc_running hrun]
    dsimp only
    rw [withOperand_ok ha, withTarget_ok hb hmet, if_neg (by rw [hnew]; simp)]
    rfl
  · intro u
    refine ⟨fun hback => scrubLine_stale hpass hver htodo hback, fun hback hon => ?_⟩
    intro qc v r
    have hread := scrubLine_read (noise := noise) hpass hver htodo hback hon
    refine ⟨fun hr => ?_, fun hr => ?_, fun dev syms hr => ?_⟩
    · refine hread.trans ?_
      rw [show (decodeStored _ noise).2 = .uncorrectable from hr]
    · refine hread.trans ?_
      rw [show (decodeStored _ noise).2 = .clean from hr]
    · intro n x
      refine hread.trans ?_
      rw [show (decodeStored _ noise).2 = .corrected dev syms from hr]
      exact (apply_ite Host.Outcome.next _ _ _).symm
  · intro u t
    rw [show exec (.scrubLine noise) s = execScrubLine noise s from rfl]
    unfold execScrubLine
    simp only [hpass, hver, hfix]
    unfold scrubWriteBack
    refine ⟨fun hdone => ?_, fun hgo hback hon => ?_⟩
    · rw [if_pos (by rw [Bool.or_eq_true, Bool.not_eq_true']; exact hdone)]
      rfl
    · rw [if_neg (by rw [hgo, show backs (livePasses s) line dla = true from hback]; simp), if_neg (by
        rw [Bool.and_eq_true, Bool.not_eq_true', not_and]
        intro hgeo
        rw [hon hgeo]
        simp)]
  · dsimp only
    rw [show exec (.scrubVerifyRead noise) s = execScrubVerifyRead noise s from rfl]
    unfold execScrubVerifyRead
    simp only [hpass, hver, hfix]
    refine ⟨fun hdone => ?_, fun hgo hback hon => ?_⟩
    · rw [if_pos (by rw [Bool.or_eq_true, Bool.not_eq_true']; exact hdone)]
    · rw [if_neg (by rw [hgo, hback]; simp), if_neg (by
        rw [Bool.and_eq_true, Bool.not_eq_true', not_and]
        intro hgeo
        rw [hon hgeo]
        simp)]
      generalize (decodeStored _ noise).2 = r
      cases r <;> rfl
  · intro u kept
    rw [show exec .scrubPassComplete s = execScrubPassComplete s from rfl]
    unfold execScrubPassComplete
    simp only [hpass]
    rw [if_neg (by simp [htodo, hver])]
    refine ⟨fun f hby => ?_, fun hby => ?_, fun r i d w dla v hby hrun hop hmet hprep => ?_⟩
    · rw [hby]
    · rw [hby]
    · rw [hby]
      dsimp only
      rw [onDesc_running hrun, withTarget_ok hop hmet]
      rw [show agentPrepare _ d.k w dla _ d.qc = (v, true) from hprep]
      rfl
  · refine accessRow_served h _ _ ?_
    obtain ⟨e, he⟩ := regAwake_eq s by_ (chBase ch + 0x8024)
    unfold putInj
    rw [he]
    exact if_congr (by simp) rfl rfl
  · have hkept : trkAt (sramEvent s (srcOf trkBase) sevErr 4) e = some t := by
      obtain ⟨b, l, m, f, o, hlog⟩ := logEv_frame s (srcOf trkBase) 0x6002 sevErr (kindByte 266 4)
      unfold sramEvent
      rw [hlog]
      exact ht
    refine ⟨sramEvent s (srcOf trkBase) sevErr 4, ?_⟩
    change execSramDoubleBitError (.tracker e) s = _
    unfold execSramDoubleBitError
    simp only [hkept]
  · change execSramDoubleBitError (.keySlot slot true) s = _
    unfold execSramDoubleBitError
    dsimp only
    rw [if_neg hslot, if_pos rfl]
  · change execSramDoubleBitError (.creel slice set way) s = _
    unfold execSramDoubleBitError
    dsimp only
    rw [if_neg (by omega)]

end Sys2Proof.Machine
end

section
/-! SUPPORT. Budgets, QoS and the fabric (R274–R279, R292–R301): their rows. -/

namespace Sys2Proof.Machine

open Sys2Proof

/-- Settles O38: a budget by what refuses it, a mean by whether there is anything to average. -/
theorem budgetsAndQos : Obligations.BudgetsAndQos := by
  intro s
  refine ⟨fun by_ k val h => ?_, fun seat h hseat => ?_⟩
  · intro u v t refuse
    refine ⟨fun hrefuse => accessRow_served h _ _ (if_pos hrefuse), fun hok => accessRow_served h _ _ (if_neg (not_not_intro hok))⟩
  · intro l
    obtain ⟨d, hd⟩ := mcAwake_eq s
    have hseat' : (seatAt (mcAwake s) seat).state ≠ .none := by rw [hd]; exact hseat
    have hl : recentLoads (mcAwake s) seat = l := by rw [hd]; rfl
    refine ⟨fun hsome => ?_, fun hnone => ?_, fun values => ?_⟩
    · change execGetQosStatus seat s = _
      unfold execGetQosStatus
      rw [mcGate_served h, if_neg hseat', hl]
      exact if_neg hsome
    · change execGetQosStatus seat s = _
      unfold execGetQosStatus
      rw [mcGate_served h, if_neg hseat', hl]
      exact (if_pos hnone).trans (by rw [hd]; rfl)
    · change execSetQosControl seat values s = _
      unfold execSetQosControl
      rw [mcGate_served h, if_neg hseat', hd]
      rfl

/-- A port that is declared dead is marked with its cause and logged once. -/
theorem declareDead_eq {s : State} {st : Fin 48} {lp : Fin 4} (hport : hasEndpoint st lp = true) (hlive : isDead s st lp = false)
    (cause : Nat) :
    let u := modSt s st fun x => { x with
      dead := x.dead ||| (1#4 <<< lp.val), cause := x.cause ||| (BitVec.ofNat 8 cause <<< (2 * lp.val)) }
    declareDead s st lp cause = logEv (if lp = 0 then failSpindle u st else u) (srcOf (stBase st)) 0x7001
      (if lp = 0 then sevErr else sevFatal) (le 2 st ++ le 2 lp ++ le 1 cause) := by
  have hzero : lp.val = 0 ↔ lp = 0 := Fin.val_eq_zero_iff
  unfold declareDead
  rw [if_neg (by rw [hport, hlive]; simp)]
  simp only [hzero]

/-- Settles O39: a row each, with the port's death by either cause. -/
theorem fabricSteps : Obligations.FabricSteps := by
  intro s st
  refine ⟨fun link hup => ⟨?_, ?_⟩, fun n hbusy hshadow => ?_, fun hbusy hflip hold => ?_, fun hbusy hflip hswitch hempty => ?_,
    fun lp entry d hdom => ⟨fun hdead => ?_, fun hlive hoff => ?_, fun hlive hon hfence hroom => ?_⟩, fun lp hport hlive => ?_⟩
  · change execFabricFlitCrcFail st link s = _
    unfold execFabricFlitCrcFail
    rw [if_neg (by rw [hup]; simp)]
    rfl
  · change execFabricLinkFail st link s = _
    unfold execFabricLinkFail
    rw [if_neg (by rw [hup]; simp)]
  · change execFlip st n s = _
    unfold execFlip
    rw [if_neg (by simp [hbusy, hshadow])]
    exact (apply_ite Host.Outcome.next _ _ _).symm
  · change execSlotTableSwitch s = _
    unfold execSlotTableSwitch
    rw [if_neg (by simp [hbusy, hflip, hold])]
  · change execOldEpochRetire s = _
    unfold execOldEpochRetire
    rw [if_neg (by simp [hbusy, hflip, hswitch, hempty])]
  · change execBoundaryQueueEnter st lp entry s = _
    unfold execBoundaryQueueEnter
    simp only [hdom]
    rw [if_pos hdead]
  · change execBoundaryQueueEnter st lp entry s = _
    unfold execBoundaryQueueEnter
    simp only [hdom]
    rw [if_neg (by rw [hlive]; simp), if_pos hoff]
  · change execBoundaryQueueEnter st lp entry s = _
    unfold execBoundaryQueueEnter
    simp only [hdom]
    rw [if_neg (by rw [hlive]; simp), if_neg hon, if_neg (by rw [hfence]; simp), if_neg (by omega)]
  · intro u v
    refine ⟨fun hfree => ?_, congrArg Host.Outcome.next (declareDead_eq hport hlive 2)⟩
    change execPortCreditTimeout st lp s = _
    unfold execPortCreditTimeout
    rw [if_neg (by rw [hfree]; simp), declareDead_eq hport hlive]

end Sys2Proof.Machine
end

section
/-! SUPPORT. Seats, windows and Dynamic Capacity (R48, R57, R58, R67–R75): their rows. -/

namespace Sys2Proof.Machine

open Sys2Proof

section

variable {s : State} {w n : Nat}

theorem enableWindow_disabled (h : (winAt s w).state = .disabled) : enableWindow s w =
    if emptied s then s else modWin s w fun x => { x with state := .online, enable := true, cause := none } := by
  unfold enableWindow
  dsimp only
  rw [h]

theorem enableWindow_disabling (h : (winAt s w).state = .disabling) :
    enableWindow s w = modWin s w fun x => { x with pendEn := some true } := by
  unfold enableWindow
  dsimp only
  rw [h]

theorem disableWindow_online (h : (winAt s w).state = .online) (cause : DrainCause) : disableWindow s w cause =
    let v := freePending (dumpWindowLeft (stampNext (modWin s w fun x => { x with
      state := .disabling, enable := false, cause := some cause, disOrd := s.stamp, pendEn := none })) w) w
    if (winAt s w).db then purgeRange v ((winAt s w).dlaHank * 0x200000) (winBytes (winAt s w)) else v := by
  unfold disableWindow
  dsimp only
  rw [h]

theorem disableWindow_disabling (h : (winAt s w).state = .disabling) :
    disableWindow s w .enable = modWin s w fun x => { x with pendEn := some false } := by
  unfold disableWindow
  dsimp only
  rw [h]

theorem enableSeat_disabled (h : (seatAt s n).state = .disabled) : enableSeat s n = modSeat s n fun x => { x with
    state := if seatUp s n then .attached else .detached, enable := true, lostAt := none, gone := false } := by
  unfold enableSeat
  dsimp only
  rw [h]

theorem enableSeat_disabling (h : (seatAt s n).state = .disabling) :
    enableSeat s n = modSeat s n fun x => { x with pendEn := some true } := by
  unfold enableSeat
  dsimp only
  rw [h]

/-- A seat that has a path drains its rings and gives up its lines; one without gives up its rings alone. -/
theorem disableSeat_attached (h : (seatAt s n).state = .attached ∨ (seatAt s n).state = .suspect) : disableSeat s n false =
    let v := modSeat s n fun y => { y with
      state := .disabling, enable := false, pendEn := none, removing := false, gone := false }
    purgeSeat ((seatRings v n).foldl (fun t r => disableRing t r false) v) n := by
  unfold disableSeat
  obtain h | h := h
  · simp only [h]
    rfl
  · simp only [h]
    rfl

theorem disableSeat_detached (h : (seatAt s n).state = .detached) : disableSeat s n false =
    let v := modSeat s n fun y => { y with
      state := .disabling, enable := false, pendEn := none, removing := false, gone := true }
    (seatRings v n).foldl (fun t r => disableRing t r false) v := by
  unfold disableSeat
  simp only [h]
  rfl

end

/-- Settles O40: the states of a window and of a seat, a case each. -/
theorem seatAndWindowStates : Obligations.SeatAndWindowStates := by
  intro s
  refine ⟨fun by_ w h => ?_, fun by_ n h => ?_, fun n t hlost hdown hst => ?_, fun w hdrained => ⟨fun hst hcause => ?_,
    fun hst hsan hreweave => ?_, fun hst hhand hfwds => ?_⟩⟩
  · intro u
    obtain ⟨d, hd⟩ := regAwake_eq s by_ (seatwinBase + 0x1C)
    have hwin : winAt u w = winAt s w := by unfold winAt; rw [show u = _ from hd]
    have hwins : u.wins = s.wins := by rw [show u = _ from hd]
    have hempt : emptied u = emptied s := by rw [show u = _ from hd]; rfl
    have hstamp : u.stamp = s.stamp := by rw [show u = _ from hd]
    refine ⟨fun hst hfull => accessRow_served h _ _ ?_, fun hst hemp => accessRow_served h _ _ ?_,
      fun hst => accessRow_served h _ _ ?_, fun hst => accessRow_served h _ _ ?_, fun hst => accessRow_served h _ _ ?_⟩
    · change enableWindow u w = _
      rw [enableWindow_disabled (by rw [hwin]; exact hst), hempt, if_neg (by rw [hfull]; simp), ← hwins]
      rfl
    · change enableWindow u w = _
      rw [enableWindow_disabled (by rw [hwin]; exact hst), hempt, if_pos hemp]
    · change enableWindow u w = _
      rw [enableWindow_disabling (by rw [hwin]; exact hst), ← hwins]
      rfl
    · change disableWindow u w .enable = _
      rw [disableWindow_online (by rw [hwin]; exact hst), hwin, hstamp]
    · change disableWindow u w .enable = _
      rw [disableWindow_disabling (by rw [hwin]; exact hst), ← hwins]
      rfl
  · intro u
    obtain ⟨d, hd⟩ := regAwake_eq s by_ (seatwinBase + 0x0C)
    have hseat : seatAt u n = seatAt s n := by unfold seatAt; rw [show u = _ from hd]
    have hseats : u.seats = s.seats := by rw [show u = _ from hd]
    have hup : seatUp u n = seatUp s n := by rw [show u = _ from hd]; rfl
    refine ⟨fun hst => accessRow_served h _ _ ?_, fun hst => accessRow_served h _ _ ?_,
      fun hst => accessRow_served h _ _ ?_, fun hst => accessRow_served h _ _ ?_⟩
    · change enableSeat u n = _
      rw [enableSeat_disabled (by rw [hseat]; exact hst), hup, ← hseats]
      rfl
    · change enableSeat u n = _
      rw [enableSeat_disabling (by rw [hseat]; exact hst), ← hseats]
      rfl
    · exact disableSeat_attached (by rw [hseat]; exact hst)
    · exact disableSeat_detached (by rw [hseat]; exact hst)
  · dsimp only
    change execSeatDetachTimeout n s = _
    unfold execSeatDetachTimeout
    simp only [hlost]
    rw [if_neg (by rw [hdown]; obtain hst | hst | hst := hst <;> simp [hst])]
  · change execWindowDrainComplete w s = _
    unfold execWindowDrainComplete
    dsimp only
    rw [if_neg (by rw [hdrained]; simp), if_pos hst, hcause]
  · intro u
    change execWindowDrainComplete w s = _
    unfold execWindowDrainComplete
    dsimp only
    rw [if_neg (by rw [hdrained]; simp), if_pos hst]
    cases hc : (winAt s w).cause with
    | none => rfl
    | some c =>
      cases c with
      | enable => rfl
      | reweave => exact absurd hc hreweave
      | sanitize => exact absurd hc hsan
  · change execWindowDrainComplete w s = _
    unfold execWindowDrainComplete
    dsimp only
    rw [if_neg (by rw [hdrained]; simp), if_neg hst, if_pos (by rw [hhand, hfwds]; rfl)]

/-! ## Dynamic Capacity -/

section AddDc

variable {s : State} {src : FmSource} {seat : Fin 1024} {w : Fin 4096} {exts : List Extent} {bs : List Nat}

/-- A DC add once the controller has taken it: its extents numbered, with their blocks reserved. -/
def dcAdd (s : State) (src : FmSource) (seat : Fin 1024) (w : Fin 4096) (exts : List Extent) : Host.Outcome State Fault Refusal :=
  let t := numberExts w seat (if (winAt s w).mirror = 0 then 1 else 4) exts s
  let code := ledgerTry s t.blocks
  if code ≠ 0 then .next (dcAnswer (ledgerRefuse s code) src 0x71 .resourcesExhausted)
  else
    let t := ledgerPut t
    if (winAt s w).mirror = 0 then .next (dcAnswer (addAccepted t w seat exts) src 0x71 .success)
    else
      let tag := t.pair.nextTag
      let b : PlyBody := .ledger tag w exts
      match portFor t b with
      | some p =>
        let t := plySend t p b
        .next { t with pair := { t.pair with
          nextTag := tag % 0xFFFF + 1, ops := t.pair.ops ++ [(p, .ledger tag w exts seat src)] } }
      | none => .next (dcAnswer s src 0x71 .resourcesExhausted)

theorem initiateDcAdd_eq (h : mcServed s = true) (hext : extBlocks (mcAwake s) w exts = some bs)
    (husable : dcUsable (mcAwake s) w = true) (hreach : reaches (mcAwake s) seat w = true) (hne : exts ≠ [])
    (hnodup : bs.Nodup) (hfree : ∀ b ∈ bs, (blockAt (mcAwake s) b).st = 0)
    (hpair : (winAt (mcAwake s) w).mirror = 0 ∨ (winAt (mcAwake s) w).ms = .sync) :
    exec (.initiateDcAdd src seat w exts) s = dcAdd (mcAwake s) src seat w exts := by
  change execInitiateDcAdd src seat w exts s = _
  unfold execInitiateDcAdd
  rw [mcGate_served h]
  dsimp only
  rw [hext]
  dsimp only
  have hany : (bs.any fun b => (blockAt (mcAwake s) b).st != 0) = false := by
    rw [List.any_eq_false]
    intro b hb
    rw [hfree b hb]
    simp
  rw [if_neg (by simp [husable, hreach, hne, hnodup, hany]), if_neg (by
    rintro ⟨hm, hs⟩
    exact hpair.elim hm hs)]
  rfl

end AddDc

/-- Settles O41: the commands in the state in which the controller takes them, and the end of a release. -/
theorem dynamicCapacity : Obligations.DynamicCapacity := by
  intro s
  refine ⟨fun src seat w exts bs h => ?_, fun w exts bs h hext husable => ?_, fun c w exts bs h hext husable => ?_, fun w => ?_⟩
  · intro u hext husable hreach hne hnodup hfree hpair t
    obtain ⟨d, hd⟩ := mcAwake_eq s
    have hwin : winAt (mcAwake s) w = winAt s w := by unfold winAt; rw [hd]
    have hrow := initiateDcAdd_eq (src := src) (seat := seat) h (by rw [hd]; exact hext) (by rw [hd]; exact husable)
      (by rw [hd]; exact hreach) hne hnodup (by rw [hd]; exact hfree) (by rw [hwin]; exact hpair)
    unfold dcAdd at hrow
    rw [hwin] at hrow
    refine ⟨fun hcode => ?_, fun hcode hsolo => ?_, fun p hcode hmirror => ?_⟩
    · exact hrow.trans (if_pos hcode)
    · exact hrow.trans ((if_neg (not_not_intro hcode)).trans (if_pos hsolo))
    · intro v hport y
      refine hrow.trans ((if_neg (not_not_intro hcode)).trans ((if_neg hmirror).trans ?_))
      dsimp only
      rw [show portFor _ _ = some p from hport]
  · intro u pend v
    obtain ⟨d, hd⟩ := mcAwake_eq s
    have hext' : extBlocks (mcAwake s) w exts = some bs := by rw [hd]; exact hext
    have husable' : dcUsable (mcAwake s) w = true := by rw [hd]; exact husable
    have hblock : ∀ b, blockAt (mcAwake s) b = blockAt s b := fun b => by rw [hd]; rfl
    refine ⟨fun seat hreach => ?_, ?_⟩
    · have hreach' : reaches (mcAwake s) seat w = true := by rw [hd]; exact hreach
      change execInitiateDcRelease seat w exts s = _
      unfold execInitiateDcRelease
      rw [mcGate_served h, hext']
      dsimp only
      rw [if_neg (by simp [husable', hreach'])]
      simp only [hblock]
      rfl
    · change execForcedDcRemoval w exts s = _
      unfold execForcedDcRemoval
      rw [mcGate_served h, hext']
      dsimp only
      rw [if_neg (by simp [husable'])]
      simp only [hblock]
      rfl
  · intro u pend
    obtain ⟨d, hd⟩ := cciAwake_eq s c
    have hext' : extBlocks (cciAwake s c) w exts = some bs := by rw [hd]; exact hext
    have husable' : dcUsable (cciAwake s c) w = true := by rw [hd]; exact husable
    refine ⟨fun hne hall => ?_, fun hne hall => ?_⟩
    · intro omitted q
      refine command_served h _ _ _ ?_
      dsimp only
      have hpend : ((cciAwake s c).blocks.filter fun e => e.2.win == w.val && e.2.st == 1 && cciBlock (cciAwake s c) c e.2).map (·.1) =
          pend := by rw [hd]; rfl
      have hin : bs.all pend.contains = true := List.all_eq_true.2 fun b hb => List.contains_iff_mem.2 (hall b hb)
      rw [hpend, hext']
      dsimp only
      rw [if_neg (by simp [husable', hne, hin]), ← apply_ite resume]
    · refine command_served h _ _ _ ?_
      have hin : (bs.all fun b => (blockAt (cciAwake s c) b).st == 2 && cciBlock (cciAwake s c) c (blockAt (cciAwake s c) b)) = true := by
        rw [List.all_eq_true, hd]
        intro b hb
        obtain ⟨hst, hblk⟩ := hall b hb
        rw [Bool.and_eq_true, beq_iff_eq]
        exact ⟨hst, hblk⟩
      rw [hext']
      dsimp only
      rw [if_neg (by simp only [husable', hin]; simp [hne])]
  · intro rel hne hall v
    change execDcReleaseComplete w s = _
    unfold execDcReleaseComplete
    dsimp only
    rw [if_neg (by
      rintro (he | hdr)
      · exact hne he
      · rw [List.all_eq_true.2 hall] at hdr
        exact Bool.noConfusion hdr)]

end Sys2Proof.Machine
end

section
/-! SUPPORT. Packets between the pair, and a port's life (R326–R336, R352, R421). -/

namespace Sys2Proof.Machine

open Sys2Proof

section Packets

variable {s : State} {p : Fin 2} {h : PlyHdr}

/-- A port that takes packets: one that is UP, or in the last step of pairing. -/
def plyTakes (x : Ply) : Prop := x.st = .up ∨ x.st = .pairing ∧ x.step = 6

/-- What a packet's header does where it is taken (R329–R331). -/
def plyGot (s : State) (p : Nat) (h : PlyHdr) : State :=
  boxesAcked (plyDrain (plyAcked (modPly (unIdle s (24 + p)) p fun x => { x with
    rxTxc := some h.txc, rcvdAt := s.now
    credReq := min 512 (x.credReq + h.credReq), credRsp := min 256 (x.credRsp + h.credRsp) }) p h.ack.toNat) p) p

theorem plyTakes_not (htakes : plyTakes (plyAt s p)) :
    ¬ (!((plyAt s p).st = .up || ((plyAt s p).st = .pairing && (plyAt s p).step == 6))) = true := by
  obtain hup | ⟨hpair, hstep⟩ := htakes
  · simp [hup]
  · simp [hpair, hstep]

theorem plyIn_taken (htakes : plyTakes (plyAt s p)) (hcrc : h.crcOk = true) (htag : h.tagOk = true)
    (hfresh : (plyAt s p).rxTxc.all (fun t => decide (t < h.txc)) = true) : plyIn s p h = (plyGot s p h, true) := by
  have hnew : (match (plyAt s p).rxTxc with
      | some t => decide (h.txc ≤ t)
      | none => false) = false := by
    cases hx : (plyAt s p).rxTxc with
    | none => rfl
    | some t =>
      rw [hx] at hfresh
      have : t < h.txc := by simpa using hfresh
      simp [this]
  unfold plyIn
  dsimp only
  rw [show plyAt (unIdle s (24 + p)) p = plyAt s p from rfl, if_neg (plyTakes_not htakes), if_neg (by rw [hcrc]; simp),
    if_neg (by rw [htag]; simp)]
  exact if_neg (ne_true_of_eq_false hnew)

/-- A packet whose CRC fails is counted and leaves a tail error. -/
theorem plyIn_crc (htakes : plyTakes (plyAt s p)) (hcrc : h.crcOk = false) : plyIn s p h =
    (modPly (bump (unIdle s (24 + p)) (plyBase p + 0x10)) p fun x => { x with tailErr := true }, false) := by
  unfold plyIn
  dsimp only
  rw [show plyAt (unIdle s (24 + p)) p = plyAt s p from rfl, if_neg (plyTakes_not htakes), if_pos (by rw [hcrc]; rfl)]

/-- A packet that is not above the last TXC is counted. -/
theorem plyIn_old (htakes : plyTakes (plyAt s p)) (hcrc : h.crcOk = true) (htag : h.tagOk = true)
    (hold : ¬ (plyAt s p).rxTxc.all (fun t => decide (t < h.txc)) = true) :
    plyIn s p h = (bump (unIdle s (24 + p)) (plyBase p + 0x18), false) := by
  have hseen : (match (plyAt s p).rxTxc with
      | some t => decide (h.txc ≤ t)
      | none => false) = true := by
    cases hx : (plyAt s p).rxTxc with
    | none => rw [hx] at hold; exact absurd rfl hold
    | some t =>
      rw [hx] at hold
      have : h.txc ≤ t := by simpa using hold
      simp [this]
  unfold plyIn
  dsimp only
  rw [show plyAt (unIdle s (24 + p)) p = plyAt s p from rfl, if_neg (plyTakes_not htakes), if_neg (by rw [hcrc]; simp),
    if_neg (by rw [htag]; simp)]
  exact if_pos hseen

theorem plyControlIn_taken (htakes : plyTakes (plyAt s p)) (hcrc : h.crcOk = true) (htag : h.tagOk = true)
    (hfresh : (plyAt s p).rxTxc.all (fun t => decide (t < h.txc)) = true) : plyControlIn s p h =
      (passHeld s p (if (plyAt s p).st = .up then modPly (plyGot s p h) p fun y => { y with tailErr := false }
        else plyGot s p h), true) := by
  unfold plyControlIn
  rw [plyIn_taken htakes hcrc htag hfresh]
  simp only [if_true, plyUp, decide_eq_true_eq]

theorem plyControlIn_refused {t : State} (h' : plyIn s p h = (t, false)) : plyControlIn s p h = (t, false) := by
  unfold plyControlIn
  rw [h']
  rfl

theorem plyAck_eq (s : State) (p : Fin 2) (h : PlyHdr) : exec (.plyAck p h) s = .next (plyControlIn s p h).1 := rfl

end Packets

/-- Settles O42: a header taken or refused, a pairing fragment, and the packets that are next in order. -/
theorem plyPackets : Obligations.PlyPackets := by
  intro s p h x fresh u got heard
  refine ⟨fun hup hcrc htag hfresh => ?_, fun hpair hstep hcrc htag hfresh => ?_, fun hup hcrc => ?_,
    fun hup hcrc htag hold => ?_, fun step frag frags sigOk payload hpair hnot hcrc hstep hfrag => ?_,
    fun hnext => ⟨fun eff width => ?_, fun eff w => ?_, fun ws => ?_, fun tag rq => ?_⟩⟩
  · have hin := plyControlIn_taken (.inl hup) hcrc htag hfresh
    refine ⟨(plyAck_eq s p h).trans (congrArg _ (congrArg Prod.fst hin)), ?_⟩
    change execKeepalive p h s = _
    unfold execKeepalive
    rw [hin]
    have hst : (plyAt s p).st = .up := hup
    dsimp only
    rw [if_neg (by rw [hst]; simp)]
    rfl
  · have hin := plyControlIn_taken (.inr ⟨hpair, hstep⟩) hcrc htag hfresh
    change execKeepalive p h s = _
    unfold execKeepalive
    rw [hin]
    have hst : (plyAt s p).st = .pairing := hpair
    dsimp only
    rw [if_pos (by rw [hst]; rfl)]
    rfl
  · exact (plyAck_eq s p h).trans (congrArg _ (congrArg Prod.fst (plyControlIn_refused (plyIn_crc (.inl hup) hcrc))))
  · exact (plyAck_eq s p h).trans (congrArg _ (congrArg Prod.fst (plyControlIn_refused (plyIn_old (.inl hup) hcrc htag hold))))
  · intro got v
    rw [show exec (.pair p h step frag frags sigOk payload) s = execPair p h step frag frags sigOk payload s from rfl]
    unfold execPair
    dsimp only
    rw [if_neg (not_or_intro (not_not_intro hpair) hnot), if_neg (by rw [hcrc]; simp),
      if_neg (not_or_intro (not_not_intro hstep) (not_not_intro hfrag))]
    exact ⟨fun hmore => if_pos hmore, fun hlast => if_neg (Nat.not_lt.2 hlast)⟩
  · exact congrArg Host.Outcome.next (plySeqIn_next hnext true false _)
  · intro v hlane
    refine congrArg Host.Outcome.next ((plySeqIn_next hnext true false _).trans ?_)
    rw [show (plyAt (plyTaken s p h true false) p).lane = some (eff.toNat, w) from hlane]
    dsimp only
    rw [if_pos rfl]
  · exact congrArg Host.Outcome.next (plySeqIn_next hnext false false _)
  · exact ⟨_, _, congrArg Host.Outcome.next (plySeqIn_next hnext false false _), by simp [Config.freeBytes]⟩

/-- Settles O43: a row each; AUTH_FAIL's retry is dated by the instant to which powered time has run. -/
theorem plyPortSteps : Obligations.PlyPortSteps := by
  intro s p x
  refine ⟨fun width hen hst href hawake hwidth => ?_, fun hpair hlo hhi => ?_, fun hfail => ?_, fun t hup ht => ?_, fun t hup ht => ?_,
    fun hst => ⟨?_, ?_⟩, fun hst => ⟨?_, ?_⟩, fun by_ width h => accessRow_served h _ _ rfl⟩
  · change execPlyPhyTrained p width s = _
    have hrun : ((plyAt s p).st = .training || (plyAt s p).st = .down) = true := by
      rw [Bool.or_eq_true, decide_eq_true_eq, decide_eq_true_eq]
      exact hst
    have hlegal : [1, 2, 4, 8, 16].contains width = true := List.contains_iff_mem.2 hwidth
    unfold execPlyPhyTrained
    dsimp only
    rw [if_neg (by rw [hen, hrun, href, hawake, hlegal]; simp)]
  · change execPairingStepTimeout p s = _
    unfold execPairingStepTimeout
    dsimp only
    rw [if_neg (not_or_intro (not_not_intro hpair) (not_or_intro (Nat.not_lt.2 hlo) (Nat.not_lt.2 hhi)))]
  · have hnow : (advanceTo s (x.stepAt + 1000000000)).now = max s.now (x.stepAt + 1000000000) := by
      obtain ⟨pm, f, o, hadv⟩ := advanceTo_frame s (x.stepAt + 1000000000)
      rw [hadv]
    change execAuthFailRetry p s = _
    unfold execAuthFailRetry
    dsimp only
    rw [if_neg (not_not_intro hfail), ← hnow]
  · change execReplayTimerExpiry p s = _
    unfold execReplayTimerExpiry
    rw [show (plyAt s p).timer = some t from ht]
    exact if_pos (decide_eq_true hup)
  · change execAckTimer p s = _
    unfold execAckTimer
    rw [show (plyAt s p).unackAt = some t from ht]
    exact if_pos (decide_eq_true hup)
  · change execKeepaliveTimer p s = _
    unfold execKeepaliveTimer
    refine if_pos ?_
    rw [Bool.or_eq_true, Bool.and_eq_true, decide_eq_true_eq, decide_eq_true_eq, beq_iff_eq]
    exact hst
  · change execPlyRxTimeout p s = _
    unfold execPlyRxTimeout plyUp
    refine if_pos ?_
    rw [Bool.or_eq_true, Bool.and_eq_true, decide_eq_true_eq, decide_eq_true_eq, beq_iff_eq]
    exact hst
  · change execPlyPhyDown p s = _
    unfold execPlyPhyDown plyRuns
    exact if_pos (bne_iff_ne.2 hst)
  · change execPlyLaneFail p s = _
    unfold execPlyLaneFail plyRuns
    exact if_pos (bne_iff_ne.2 hst)

end Sys2Proof.Machine
end

section
/-! SUPPORT. Mirrored windows (R179, R338–R349): their rows. -/

namespace Sys2Proof.Machine

open Sys2Proof

/-- A sequenced packet that is next in order has its effect in the state that has taken its header. -/
theorem seqRow_next {s : State} {p : Fin 2} {h : PlyHdr} (hn : plyNext s p h = true) (rsp later : Bool) {f : State → State}
    {t : State} (ht : f (plyTaken s p h rsp later) = t) : (.next (plySeqIn s p h rsp later f) : Host.Outcome State Fault Refusal) =
      .next (passHeld s p (plyAckDue t p)) := by
  rw [plySeqIn_next hn, ht]

/-- Settles O44: each control message, in the state that has taken its header. -/
theorem mirrorControl : Obligations.MirrorControl := by
  intro s p h hn v
  refine ⟨fun table => seqRow_next hn false false rfl, fun win hsec hms => seqRow_next hn false false (if_pos ?_),
    fun win id hsec hms => seqRow_next hn false false (if_pos ?_), fun win => seqRow_next hn false false rfl⟩
  · rw [Bool.and_eq_true, decide_eq_true_eq]
    exact ⟨hsec, hms⟩
  · rw [Bool.and_eq_true, decide_eq_true_eq]
    exact ⟨hsec, hms⟩

/-- Settles O45: what waits in the receive buffer, and what is answered at once. -/
theorem mirrorRequests : Obligations.MirrorRequests := by
  intro s p h hn
  refine ⟨⟨fun w => ⟨seqRow_next hn false true rfl, seqRow_next hn false true rfl⟩,
    fun win kind dla => seqRow_next hn false true rfl⟩, fun win gen keys hsec hst => ⟨fun hgen => ?_, fun hgen hne => ?_⟩,
    fun tag win key hsec hst hkey => ?_, fun tag win exts bs hsec hdc hne hext hfree => ?_⟩
  · refine seqRow_next hn false false ?_
    dsimp only
    rw [if_neg (by rw [hsec, show (slotAt _ _).st = .active from hst]; simp)]
    exact if_pos hgen
  · refine seqRow_next hn false false ?_
    dsimp only
    rw [if_neg (by rw [hsec, show (slotAt _ _).st = .active from hst]; simp)]
    exact (if_neg hne).trans (if_pos hgen)
  · refine seqRow_next hn false false ?_
    dsimp only
    rw [hkey]
    exact if_pos (by rw [hsec, hst]; rfl)
  · intro t code
    have hany : (bs.any fun b => (blockAt (plyTaken s p h false false) b).st != 0) = false := by
      rw [List.any_eq_false]
      intro b hb
      rw [hfree b hb]
      simp
    have hgate : ¬ (!isSecondary (plyTaken s p h false false) win || !(winAt (plyTaken s p h false false) win).dc || exts = [] ||
        (bs.any fun b => (blockAt (plyTaken s p h false false) b).st != 0)) = true := by
      rw [hsec, hdc, hany]
      simp [hne]
    refine ⟨fun hok => seqRow_next hn false false ?_, fun hbad => seqRow_next hn false false ?_⟩
    · dsimp only
      rw [hext]
      exact (if_neg hgate).trans (if_pos hok)
    · dsimp only
      rw [hext]
      exact (if_neg hgate).trans (if_neg hbad)

/-- Settles O46: the answers, by the write or the operation that they name. -/
theorem mirrorAnswers : Obligations.MirrorAnswers := by
  intro s
  refine ⟨fun p h hn => ?_, fun hused => ?_⟩
  · intro v drop
    refine ⟨fun seq status f hf => seqRow_next hn true false ?_, fun seq status o hf ho => seqRow_next hn true false ?_,
      fun tag status o ho => ⟨fun t w exts seat src hkind => ⟨fun hok => seqRow_next hn true false ?_,
        fun hbad => seqRow_next hn true false ?_⟩, fun t w hkind => seqRow_next hn true false ?_,
        fun t hkind => seqRow_next hn true false ?_⟩,
      fun batch recs => seqRow_next hn true false rfl, fun batch => seqRow_next hn true false rfl,
      fun batch => seqRow_next hn true false rfl⟩
    · rw [hf]
    · rw [hf]
      dsimp only
      rw [ho]
    · rw [ho]
      dsimp only
      rw [hkind]
      exact if_pos hok
    · rw [ho]
      dsimp only
      rw [hkind]
      exact if_neg hbad
    · rw [ho]
      dsimp only
      rw [hkind]
    · rw [ho]
      dsimp only
      rw [hkind]
  · intro u
    change execCrlBatchTimer s = _
    unfold execCrlBatchTimer
    rw [if_neg (by rw [hused]; simp)]

/-- Settles O47: a row each; a rebuild is done when no recovery's snoop is left. -/
theorem promotionAndResync : Obligations.PromotionAndResync := by
  intro s
  refine ⟨fun win f hf hlag hms => ?_, fun win h hpart hdown => ?_, fun hreb hacts => ?_, fun win hank noise hprim hup hms hdirty => ?_⟩
  · change execLagLimit win s = _
    unfold execLagLimit
    simp only [hf]
    refine if_pos ?_
    rw [Bool.and_eq_true, Bool.or_eq_true, decide_eq_true_eq, decide_eq_true_eq, decide_eq_true_eq]
    exact ⟨hlag, hms⟩
  · intro ok ws
    have hmc : mcUp s = true := mcUp_of_mcServed h
    have hopen : domShut s 1 = false := by
      unfold mcServed at h
      exact not_shut (Bool.and_eq_true_iff.1 h).2
    rw [show exec (.plyPromote .mctp win) s = execPlyPromote .mctp win s from rfl]
    unfold execPlyPromote
    dsimp only
    rw [if_neg (by rw [hmc]; simp), if_neg (by rw [hopen]; simp), if_neg (by simp), if_neg (by rw [hpart]; simp),
      if_neg (by rw [hdown]; simp)]
    refine ⟨fun hall hrw hreb => ?_, fun hall => ?_⟩
    · exact (if_neg (by rw [hall]; simp)).trans (if_neg (by rw [hrw, hreb]; simp))
    · exact if_pos (by rw [hall]; rfl)
  · change execCreelRebuildComplete s = _
    unfold execCreelRebuildComplete
    refine if_neg ?_
    rw [hreb, Bool.not_true, Bool.or_false, List.any_eq_true]
    rintro ⟨⟨e, a⟩, he, hwho⟩
    cases a with
    | none => exact Bool.noConfusion hwho
    | some a => exact hacts e a he (eq_of_beq hwho)
  · change execResyncHankCopy win hank noise s = _
    unfold execResyncHankCopy
    dsimp only
    have hkeep : (if (winAt s win).ms = .degraded && isMatched s win then startResync s win else s) = s :=
      if_neg (by rw [hms]; simp)
    rw [if_neg (by rw [hprim, hup]; simp), hkeep]
    exact if_neg (not_or_intro (not_not_intro hms) (by rw [hdirty]; simp))

end Sys2Proof.Machine
end

section
/-! SUPPORT. Warp images (R176, R184, R312–R323): loading one, and a re-weave. -/

namespace Sys2Proof.Machine

open Sys2Proof

section

variable {s : State} {b : List Byte} {src : ImgFrom}

/-- An image is refused by its checks, applied, or left to wait for a random draw. -/
theorem tryLoad_refused (h : (imgCheck s b true).1 ≠ irOk) : tryLoad s b src =
    (imgRefuse s src b (imgCheck s b true).1 (imgCheck s b true).2.1 (imgCheck s b true).2.2, some (imgCheck s b true).1) := by
  unfold tryLoad
  exact if_pos h

theorem tryLoad_accepted (h : (imgCheck s b true).1 = irOk) (hdraw : canDraw s = true) :
    tryLoad s b src = (acceptLoad s b src, some irOk) := by
  unfold tryLoad
  exact (if_neg (not_not_intro h)).trans (if_pos hdraw)

theorem tryLoad_waits (h : (imgCheck s b true).1 = irOk) (hdraw : canDraw s = false) : tryLoad s b src =
    ({ s with img := { s.img with req := some { image := b, src := src, since := s.now } } }, none) := by
  unfold tryLoad
  exact (if_neg (not_not_intro h)).trans (if_neg (by rw [hdraw]; simp))

theorem fwEvent_img (s : State) (k r : Nat) : (fwEvent s k r).img = s.img := by
  obtain ⟨b, l, m, f, o, hev⟩ := fwEvent_frame s k r
  rw [hev]

theorem fwEvent_fabric (s : State) (k r : Nat) : (fwEvent s k r).fabric = s.fabric := by
  obtain ⟨b, l, m, f, o, hev⟩ := fwEvent_frame s k r
  rw [hev]

end

/-- A full image that arrives where something is applied already is only stored; where nothing is, it is loaded at once. -/
theorem fullImageTransfer_checked {s : State} {image : List Byte} (h : mcServed s = true) (hrun : s.boot.phase = .run)
    (hbg : bgRuns (mcAwake s) = false) (hlc : lcRuns (mcAwake s) = false) :
    let u := mcAwake s
    let k := 1 - s.sec.bank
    let r := checkFront u image
    let v := fwEvent (modBank u k fun x => { x with img := image }) k 0
    exec (.fullImageTransfer image) s = .next (
      if r ≠ irOk then imgRefuse (fwEvent (modBank u k fun x => { x with img := [] }) k r) (.full k) image r 0 0
      else if s.img.st ≠ .none ∧ s.img.sanitized = false ∧ s.img.erased = false then imgAnswer v (.full k) irOk
      else if s.img.rw.isSome ∨ s.img.req.isSome ∨ s.fabric.busy = true then imgRefuse v (.full k) image irBusy 0 0
      else (tryLoad v image (.full k)).1) := by
  intro u k r v
  have himg : v.img = s.img := fwEvent_img _ _ _
  have hfab : v.fabric = s.fabric := fwEvent_fabric _ _ _
  rw [show exec (.fullImageTransfer image) s = execFullImageTransfer image s from rfl]
  unfold execFullImageTransfer
  rw [mcGate_served h]
  dsimp only
  have hphase : ¬ (mcAwake s).boot.phase ≠ .run := not_not_intro hrun
  rw [if_neg hphase, if_neg (by rw [hbg, hlc]; simp)]
  by_cases hr : r = irOk
  · rw [if_neg (not_not_intro hr), if_neg (not_not_intro hr)]
    by_cases hfull : s.img.st ≠ .none ∧ s.img.sanitized = false ∧ s.img.erased = false
    · rw [if_pos hfull]
      refine if_neg ?_
      change ¬ (v.img.st = .none || v.img.sanitized || v.img.erased) = true
      rw [himg]
      simp [hfull]
    · rw [if_neg hfull, apply_ite Host.Outcome.next]
      refine (if_pos ?_).trans (if_congr ?_ rfl rfl)
      · change (v.img.st = .none || v.img.sanitized || v.img.erased) = true
        rw [himg]
        simp only [Bool.or_eq_true, decide_eq_true_eq]
        by_contra hno
        simp only [not_or, Bool.not_eq_true] at hno
        exact hfull ⟨hno.1.1, hno.1.2, hno.2⟩
      · change (v.img.rw.isSome || v.img.req.isSome || v.fabric.busy) = true ↔ _
        rw [himg, hfab, Bool.or_eq_true, Bool.or_eq_true, or_assoc]
  · rw [if_pos hr, if_pos hr]
    rfl

/-- Settles O48: what an image's checks, the random generator and its source make of it. -/
theorem imageLoad : Obligations.ImageLoad := by
  intro s
  refine ⟨fun hphase hreq => ?_, fun image h hrun => ?_, fun q hq => ?_, fun hbad => ?_⟩
  · intro k b c
    change execWarpImageLoad s = _
    unfold execWarpImageLoad
    rw [if_neg (by rw [hreq]; simp [hphase])]
    unfold bootFirst
    by_cases hok : c.1 = irOk
    · rw [if_neg (not_not_intro hok)]
      cases hdraw : canDraw s with
      | true =>
        dsimp only
        rw [tryLoad_accepted hok hdraw]
        rfl
      | false =>
        dsimp only
        rw [tryLoad_waits hok hdraw]
        rfl
    · dsimp only
      rw [if_pos hok, tryLoad_refused hok]
      exact congrArg Host.Outcome.next (if_neg hok)
  · intro u k
    refine ⟨fun hbusy => ?_, fun hbg hlc => fullImageTransfer_checked h hrun hbg hlc⟩
    change execFullImageTransfer image s = _
    unfold execFullImageTransfer
    rw [mcGate_served h]
    dsimp only
    have hphase : ¬ (mcAwake s).boot.phase ≠ .run := not_not_intro hrun
    rw [if_neg hphase]
    exact if_pos (by rw [Bool.or_eq_true]; exact hbusy)
  · rw [show exec .trngDrawTimeout s = execTrngDrawTimeout s from rfl]
    unfold execTrngDrawTimeout
    obtain ⟨image, src, since⟩ := q
    simp only [hq]
    refine ⟨fun k hsrc => ?_, fun k r hsrc => ?_, fun hsrc => ?_⟩
    · subst hsrc
      rfl
    · subst hsrc
      rfl
    · obtain rfl | rfl | ⟨k, rfl⟩ := hsrc <;> rfl
  · change execTrngHealthRecover s = _
    unfold execTrngHealthRecover
    rw [if_neg (by rw [hbad]; simp)]

/-- Settles O49: a request by what it names, and a re-weave by its step. -/
theorem reweaveSteps : Obligations.ReweaveSteps := by
  intro s
  refine ⟨fun f lo hi len seat win dla hup himg hadmin hport hmgmt hseat => ?_, fun image h => ?_, fun r hr =>
    ⟨fun hstep hdone hmicro => ?_, fun hstep hdone hmicro => ?_, fun hstep hidle => ?_, fun hstep hflip => ?_, fun hstep hdone => ?_⟩⟩
  · intro request
    have hgate : ¬ (!mcUp s || s.img.st = .none || !isAdminFn s f || ([0x57520001#32, lo, hi, len] : List Word).length != 4 ||
        (([0x57520001#32, lo, hi, len] : List Word).getD 0 0).toNat != 0x57520001) = true := by
      rw [hup, hadmin]
      simp [himg]
    have hrow : request = execReweaveRequest f [0x57520001#32, lo, hi, len] s := rfl
    unfold execReweaveRequest at hrow
    dsimp only at hrow
    rw [if_neg hgate, if_neg (by rw [hport]; simp), if_neg (by rw [hmgmt]; simp), hseat] at hrow
    simp only [List.getD_cons_succ, List.getD_cons_zero] at hrow
    refine ⟨fun hbusy => ?_, fun hrw hreq => ?_⟩
    · exact hrow.trans (if_pos (by rw [Bool.or_eq_true]; exact hbusy))
    · have hidle : ¬ (s.img.rw.isSome || s.img.req.isSome) = true := by rw [hrw, hreq]; simp
      refine ⟨fun hrange => ?_, fun hrange hacc hlen => ?_⟩
      · refine hrow.trans ((if_neg hidle).trans ?_)
        rw [show seatRange _ _ _ _ = none from hrange]
      · intro a hready r u
        have hread : request = if (spanPoison r.2).isSome then .next (imgRefuse u .admin [] irSource 0 0)
            else .next (tryReweave u (spanBytes r.2 dla len.toNat) .admin) := by
          refine hrow.trans ((if_neg hidle).trans ?_)
          rw [show seatRange _ _ _ _ = some (win, dla) from hrange]
          refine (if_neg (not_not_intro hacc)).trans ((if_neg (Nat.not_lt.2 hlen)).trans ?_)
          exact if_neg (by
            change ¬ (!a.2) = true
            rw [hready]
            simp)
        refine ⟨fun hpoison => hread.trans (if_pos hpoison), fun hclean => hread.trans (if_neg (by rw [hclean]; simp))⟩
  · change execMctpReweaveRequest image s = _
    unfold execMctpReweaveRequest
    rw [mcGate_served h]
  · change execReweaveRemovalDrained s = _
    unfold execReweaveRemovalDrained
    simp only [hr]
    rw [if_neg (by rw [hdone]; simp [hstep]), if_neg (by rw [hmicro]; simp)]
  · intro run
    change execReweaveRemovalDrained s = _
    unfold execReweaveRemovalDrained
    simp only [hr]
    rw [if_neg (by rw [hdone]; simp [hstep]), if_pos hmicro]
    refine congrArg Host.Outcome.next (congrArg (List.foldl timeoutDesc _) (congrArg (List.map _) (List.filter_congr ?_)))
    rintro ⟨k, o⟩ -
    cases o <;> rfl
  · change execMicrocodeDrainComplete s = _
    unfold execMicrocodeDrainComplete
    simp only [hr]
    rw [if_neg (by
      rintro (hno | hany)
      · exact hno hstep
      · obtain ⟨e, he, hne⟩ := List.any_eq_true.1 hany
        rw [hidle e he] at hne
        exact Bool.noConfusion hne)]
  · change execReweaveFlipped s = _
    unfold execReweaveFlipped
    simp only [hr]
    rw [if_neg (by rw [hflip]; simp [hstep])]
  · change execReweaveComplete s = _
    unfold execReweaveComplete
    simp only [hr]
    rw [if_neg (by rw [hdone]; simp [hstep])]

end Sys2Proof.Machine
end

section
/-! SUPPORT. Sleep, wakes and operating points (R359–R371, R378–R380): their rows. -/

namespace Sys2Proof.Machine

open Sys2Proof

/-- A domain that is awake does not sleep. -/
theorem not_domAsleep {s : State} {d : Nat} (h : domAwake s d = true) : domAsleep s d = false := by
  unfold domAwake at h
  unfold domAsleep
  rw [Bool.or_eq_true, decide_eq_true_eq, decide_eq_true_eq] at h
  obtain h | h := h <;> rw [h] <;> rfl

/-- A REQ to a group that is awake, where nothing else runs, asks its members at once. -/
theorem putSleepReq_starts {s : State} {d : Nat} {group : Bool} (hgroup : group = true ∨ grpOf s d = 15) (hd : d ≠ 0)
    (hms : membersOf s d ≠ []) (hawake : ∀ x ∈ membersOf s d, domAwake s x = true) :
    let v := putCtlBit s (ctlReg s d) 30 true
    let w := { v with power := { v.power with holdoff := tabSet 0 v.power.holdoff (ctlKey v d) 0 } }
    transFree w = true → putSleepReq s d group = startSleep w d (askedState w d true) := by
  intro v w hfree
  have hany : (membersOf s d).any (domAsleep s) = false := by
    rw [List.any_eq_false]
    intro x hx
    rw [not_domAsleep (hawake x hx)]
    exact Bool.false_ne_true
  have hall : (membersOf s d).all (domAwake w) = true := List.all_eq_true.2 hawake
  have hfail : ¬ ((!group && grpOf s d != 15) || d = 0 || membersOf s d = [] || (membersOf s d).any (domAsleep s)) = true := by
    rw [hany]
    obtain hgroup | hgroup := hgroup
    · simp [hgroup, hd, hms]
    · simp [hgroup, hd, hms]
  unfold putSleepReq
  refine (if_neg hfail).trans (if_pos ?_)
  rw [Bool.and_eq_true]
  exact ⟨hfree, hall⟩

theorem putWake_asleep {s : State} {d reg : Nat} (h : domAsleep s d = true) :
    putWake s d reg = requestWake (putCtlBit s reg 31 true) d := by
  unfold putWake
  exact if_pos (by rw [h]; rfl)

theorem all_contains_iff {l m : List Nat} : (l.all fun x => m.contains x) = true ↔ ∀ x ∈ l, x ∈ m := by
  rw [List.all_eq_true]
  exact forall₂_congr fun x _ => List.contains_iff_mem

/-- A group whose members are awake, where nothing else runs, may be asked. -/
theorem groupSleepRequest_open {s : State} {d : Nat} (hd : d ≠ 0) (hfree : transFree s = true) (hmem : d ∈ membersOf s d)
    (hawake : ∀ x ∈ membersOf s d, domAwake s x = true) :
    ¬ (d = 0 ∨ transFree s = false ∨ (membersOf s d).contains d = false ∨
      ((membersOf s d).any fun x => !domAwake s x) = true) := by
  rintro (h | h | h | h)
  · exact hd h
  · rw [hfree] at h
    exact Bool.noConfusion h
  · rw [List.contains_iff_mem.2 hmem] at h
    exact Bool.noConfusion h
  · obtain ⟨x, hx, hno⟩ := List.any_eq_true.1 h
    rw [hawake x hx] at hno
    exact Bool.noConfusion hno

/-- Settles O50: a group on its way to sleep, by the member and the step that each row is about. -/
theorem sleepSteps : Obligations.SleepSteps := by
  intro s dom
  refine ⟨fun hdom hrun hidle => ?_, fun hdom hfree hmem hawake => ⟨fun hasked => ?_, fun hnot hdeep hidle => ?_⟩, fun by_ reg h => ?_, ?_⟩
  · change execDomainIdle dom s = _
    unfold execDomainIdle
    rw [if_neg (by simp [hdom, hrun, hidle])]
  · change execGroupSleepRequest dom s = _
    unfold execGroupSleepRequest
    dsimp only
    rw [if_neg (groupSleepRequest_open hdom hfree hmem hawake), if_pos hasked]
  · intro since
    change execGroupSleepRequest dom s = _
    unfold execGroupSleepRequest
    dsimp only
    rw [if_neg (groupSleepRequest_open hdom hfree hmem hawake), if_neg (by rw [hnot]; simp)]
    refine if_neg (not_or_intro (Nat.not_lt.2 hdeep) ?_)
    rw [List.any_eq_true]
    rintro ⟨x, hx, hbusy⟩
    rw [hidle x hx] at hbusy
    exact Bool.noConfusion hbusy
  · intro u
    refine ⟨accessRow_served h _ _ rfl, accessRow_served h _ _ rfl, fun d hreg hd hms hawake => ?_, fun d hreg hasleep => ?_⟩
    · intro v w hfree
      refine accessRow_served h _ _ ?_
      obtain ⟨rfl, hgrp⟩ | ⟨g, rfl, hhead⟩ := hreg
      · exact putSleepReq_starts (.inr hgrp) hd hms hawake hfree
      · change (match headOf u g with
          | some d => putSleepReq u d true
          | none => u) = _
        rw [hhead]
        exact putSleepReq_starts (.inl rfl) hd hms hawake hfree
    · refine accessRow_served h _ _ ?_
      obtain rfl | ⟨g, rfl, hhead⟩ := hreg
      · exact putWake_asleep hasleep
      · change (match headOf u g with
          | some d => putWake u d (ctlOff (.inr g))
          | none => u) = _
        rw [hhead]
        exact putWake_asleep hasleep
  · intro u t ht hsleep
    have ht' : (meetWakes s).power.trans = some t := ht
    refine ⟨fun hstep hmem hnew => ⟨fun r hr => ?_, fun hr => ?_⟩, fun hstep => ?_, fun hstep hlate hmem hnew hidle => ?_,
      fun hfenced hnew => ?_, fun reason hstep hlate hmem hr => ?_, fun hstep hlate hmem hnew hbusy => ?_⟩
    · change execMemberAnswer dom s = _
      unfold execMemberAnswer
      simp only [ht']
      rw [if_neg (by rw [hnew, List.contains_iff_mem.2 hmem]; simp [hsleep, hstep]), show refuseReason _ t.members t.doze dom = some r from hr]
    · intro t'
      rw [show exec (.memberAnswer dom) s = execMemberAnswer dom s from rfl]
      unfold execMemberAnswer
      simp only [ht']
      rw [if_neg (by rw [hnew, List.contains_iff_mem.2 hmem]; simp [hsleep, hstep]), show refuseReason _ t.members t.doze dom = none from hr]
      exact ⟨fun hall => if_pos (all_contains_iff.2 hall), fun hsome => if_neg (mt all_contains_iff.1 hsome)⟩
    · change execPrepareTimeout s = _
      unfold execPrepareTimeout
      simp only [ht']
      rw [if_neg (by simp [hsleep, hstep])]
    · intro fenced v
      change execMemberFenced dom s = _
      unfold execMemberFenced
      simp only [ht']
      rw [if_neg (by
        rw [hnew, List.contains_iff_mem.2 hmem, show outstanding (meetWakes s) dom = false from hidle]
        simp [hsleep, hstep, hlate])]
    · intro v t'
      rw [show exec (.memberStopped dom) s = execMemberStopped dom s from rfl]
      unfold execMemberStopped
      simp only [ht']
      rw [if_neg (by rw [hnew, List.contains_iff_mem.2 hfenced]; simp [hsleep])]
      refine ⟨fun hsome => if_neg (mt all_contains_iff.1 ?_), fun hall hlate => ?_, fun hall l hlate => ?_⟩
      · obtain ⟨x, hx, hno⟩ := hsome
        exact fun hall => hno (hall x hx)
      · rw [if_pos (all_contains_iff.2 hall), hlate]
      · rw [if_pos (all_contains_iff.2 hall), hlate]
    · change execLateRefuse dom reason s = _
      unfold execLateRefuse
      simp only [ht']
      rw [if_neg (by
        rw [show refuseReason _ t.members t.doze dom = some reason.val from hr]
        simp [hsleep, hstep, hlate, hmem])]
    · change execDrainTimeout dom s = _
      unfold execDrainTimeout
      simp only [ht']
      rw [if_neg (by
        rw [hnew, List.contains_iff_mem.2 hmem, show outstanding (meetWakes s) dom = true from hbusy]
        simp [hsleep, hstep, hlate])]

/-! ## Wakes and operating points -/

/-- A member's ready signal ends the step with the last one, and is counted before. -/
theorem wakeReady_counted {s : State} {t : Trans} {d : Nat} (ht : s.power.trans = some t) (hwake : t.wake = true) (hmem : d ∈ t.members)
    (hnew : t.ready.contains d = false) :
    let t' : Trans := { t with ready := t.ready ++ [d] }
    wakeReady s d = if t.members.all fun x => t'.ready.contains x then wakeStepDone s t'
      else { s with power := { s.power with trans := some t' } } := by
  unfold wakeReady
  simp only [ht]
  rw [if_neg (by rw [hnew, List.contains_iff_mem.2 hmem, hwake]; simp)]

section Late

variable {s : State} {t : Trans} {d : Nat} {bad : List Nat} (ht : s.power.trans = some t) (hwake : t.wake = true)
  (hbad : (t.members.filter fun x => !t.ready.contains x) = d :: bad)
include ht hwake hbad

/-- A late step is repeated once; then its members go OFF, and those that were ready go on without them. -/
theorem wakeFails_again (hagain : t.again = false) :
    let u := advanceTo s (t.at_ + wakeLatest t.doze t.step)
    let v := grpLast (groupEvent (bump u (pwrBase + 0x164)) sevErr t.group d (0x10 + t.step)) 5 d (0x10 + t.step) t.group
    let v' := if t.step = 4 then t.members.foldl stopAgain v else v
    wakeFails s = { v' with power := { v'.power with trans := some { t with step := 1, at_ := v'.now, ready := [], again := true } } } := by
  unfold wakeFails
  simp only [ht, hbad]
  rw [if_neg (by rw [hwake]; simp), if_pos (by rw [hagain]; rfl)]
  rfl

theorem wakeFails_off (hagain : t.again = true) :
    let u := advanceTo s (t.at_ + wakeLatest t.doze t.step)
    let v := grpLast (groupEvent (bump u (pwrBase + 0x164)) sevErr t.group d (0x10 + t.step)) 5 d (0x10 + t.step) t.group
    let w := (d :: bad).foldl (fun u x => domOff (if t.step = 4 then stopAgain u x else u) t.group t.step x) v
    let good := t.members.filter fun x => t.ready.contains x
    wakeFails s = if good = [] then resume (endTrans w)
      else wakeStepDone w { t with members := good, late := some (d, 0x10 + t.step) } := by
  unfold wakeFails
  simp only [ht, hbad]
  rw [if_neg (by rw [hwake]; simp), if_neg (by rw [hagain]; simp)]
  rfl

end Late

/-- Settles O51: a wake's steps and a transition's, each by what it waits for. -/
theorem wakesAndDvfs : Obligations.WakesAndDvfs := by
  intro s
  refine ⟨fun dom => rfl, fun t ht hwake => ⟨fun dom hmem hnew => ?_, fun d bad hbad => ?_⟩, fun by_ target h => ?_, fun hdvfs hpll => ?_,
    fun hdvfs => ?_, fun hdvfs hraise hvolt => ?_, fun hwait => ?_⟩
  · intro t'
    have hrow : exec (.wakeStepReady dom) s = .next (replayHeld (wakeReady s dom)) := rfl
    rw [hrow, wakeReady_counted ht hwake hmem hnew]
    refine ⟨fun hall => congrArg (Host.Outcome.next ∘ replayHeld) (if_pos (all_contains_iff.2 hall)), fun hsome => ?_⟩
    obtain ⟨x, hx, hno⟩ := hsome
    exact congrArg (Host.Outcome.next ∘ replayHeld) (if_neg fun hall => hno (all_contains_iff.1 hall x hx))
  · intro u v v'
    have hrow : exec .wakeStepTimeout s = .next (replayHeld (wakeFails s)) := rfl
    rw [hrow]
    refine ⟨fun hagain => congrArg (Host.Outcome.next ∘ replayHeld) (wakeFails_again ht hwake hbad hagain), fun hagain => ?_⟩
    intro w good
    rw [wakeFails_off ht hwake hbad hagain]
    exact ⟨fun hnone => congrArg (Host.Outcome.next ∘ replayHeld) (if_pos hnone),
      fun hsome => congrArg (Host.Outcome.next ∘ replayHeld) (if_neg hsome)⟩
  · intro u
    obtain ⟨d, hd⟩ := regAwake_eq s by_ (pwrBase + 0x130)
    have hpower : u.power = s.power := by rw [show u = _ from hd]
    refine ⟨fun hnone => accessRow_served h _ _ (if_neg ?_), fun hbusy => accessRow_served h _ _ (if_pos ?_)⟩
    · change ¬ u.power.dvfs.isSome = true
      rw [hpower, hnone]
      exact Bool.false_ne_true
    · change u.power.dvfs.isSome = true
      rw [hpower]
      exact hbusy
  · intro u
    have hgate : ¬ (s.power.dvfs ≠ some 2 ∨ s.power.pllOk = true) := not_or_intro (not_not_intro hdvfs) (by rw [hpll]; simp)
    have hrow : exec .pllLock s = execPllLock s := rfl
    rw [hrow]
    unfold execPllLock
    rw [if_neg hgate]
    refine ⟨?_, fun hlower => ?_, fun hraise hvolt => ?_, fun hraise hvolt => ?_⟩
    · change execPllLockTimeout s = _
      unfold execPllLockTimeout
      exact if_neg hgate
    · exact if_neg (by unfold dvfsRaises; simpa using hlower)
    · exact (if_pos (decide_eq_true hraise)).trans (if_neg (by rw [hvolt]; simp))
    · exact (if_pos (decide_eq_true hraise)).trans (if_pos hvolt)
  · change execVoltageConfirm s = _
    unfold execVoltageConfirm
    exact if_pos hdvfs
  · intro u
    rw [show exec .voltageConfirm s = execVoltageConfirm s from rfl]
    unfold execVoltageConfirm dvfsRaises
    rw [if_neg (by rw [hdvfs]; simp), if_pos (by rw [hdvfs, hvolt]; simp [hraise])]
    exact ⟨fun hpll => if_neg (by rw [hpll]; simp), fun hpll => if_pos hpll⟩
  · change execVoltageConfirmTimeout s = _
    unfold execVoltageConfirmTimeout dvfsRaises
    refine if_pos ?_
    obtain hdvfs | ⟨hdvfs, hraise, hvolt⟩ := hwait
    · simp [hdvfs]
    · simp [hdvfs, hraise, hvolt]

end Sys2Proof.Machine
end

section
/-! SUPPORT. The links of the host ports (R26, R30–R32, R35, R39, R41, R46): training, recovery, loss and their errors. -/

namespace Sys2Proof.Machine

open Sys2Proof

/-- Where a partner insists on 68-byte flits, only what an event writes changes beside the link's count. -/
theorem insists68_ports (s : State) (port link : Nat) (p : Partner) : (insists68 s port link p).ports = s.ports := by
  unfold insists68
  split
  · unfold protoOccurrence linkEvent
    obtain ⟨b, l, m, f, o, e⟩ := logEv_frame (countProto s (linkKey port link)) (srcOf (hpBase port)) 0x1003 sevWarn
      (le 2 port ++ le 2 link ++ (if 0x1003 = 0x1001 then
        le 1 (linkAt (countProto s (linkKey port link)) (linkKey port link)).evt.toNat else kindByte 27 1))
    rw [e]
    rfl
  · rfl

/-- Lane 0 of a link lies by its port's bifurcation alone. -/
theorem laneZero_congr {s t : State} (h : t.ports = s.ports) (port link : Nat) (reversed : Bool) :
    laneZero t port link reversed = laneZero s port link reversed := by
  unfold laneZero laneBase bifWidth portAt
  rw [h]

/-- Lane 0 of a link that comes up lies where it lay before its functions were enumerated. -/
theorem laneZero_insists68 (s : State) (port link : Nat) (p : Partner) (reversed : Bool) :
    laneZero (insists68 s port link p) port link reversed = laneZero s port link reversed :=
  laneZero_congr (insists68_ports s port link p) port link reversed

/-- A link that is down and may train comes up with what its ends negotiate; its credits are those of its width, and none
without CXL.mem. -/
theorem linkUp_trains {s : State} {port link : Fin 4} {p : Partner} (hdown : (linkAt s (linkKey port link)).up = false)
    (htrain : canTrain s port link p = true) :
    let k := linkKey port link
    let n := negotiate s port p
    let a := if n.2 = 0 then 0 else 1
    let t := modLink (insists68 (enumerate s port link) port link p) k fun l =>
      { trained l n.1 n.2 (laneZero s port link p.reversed) p with
        credReq := a * 16 * p.width, credRwd := a * 8 * p.width, credBi := a * 32 * p.width, credSnp := 0 }
    let v := linkEvent (emit (latchEvt t k evtUp) (.link port link n.1 n.2)) port link 0x1001
      (if n.2 = 0 then sevWarn else sevInfo) []
    exec (.linkUp port link p) s = .next (resume ((linkSeats v port link).foldl seatReturns v)) := by
  have hrow : exec (.linkUp port link p) s = execLinkUp port link p s := rfl
  rw [hrow]
  unfold execLinkUp
  dsimp only
  rw [if_neg (by simp [hdown, htrain])]
  have hlane : laneZero (insists68 (enumerate s port link) port link p) port link p.reversed = laneZero s port link p.reversed :=
    (laneZero_insists68 _ _ _ _ _).trans (laneZero_congr rfl _ _ _)
  have hcred : ∀ c : Nat, (if (negotiate s port p).2 = 0 then 0 else c * p.width)
      = (if (negotiate s port p).2 = 0 then 0 else 1) * c * p.width := by
    intro c
    split <;> simp
  rw [hlane, hcred, hcred, hcred]

/-- A link that is up and cannot train again, or would lose CXL.mem by it, goes down. -/
theorem linkRecovery_fails {s : State} {port link : Fin 4} {p : Partner} (hup : (linkAt s (linkKey port link)).up = true)
    (hbad : canTrain s port link p = false ∨
      (linkAt s (linkKey port link)).mem = true ∧ (negotiate s port p).2 = 0) :
    exec (.linkRecovery port link p) s = .next (takeLinkDown s port link) := by
  change execLinkRecovery port link p s = _
  unfold execLinkRecovery
  dsimp only
  rw [if_neg (by simp [hup])]
  exact if_pos (by simpa using hbad)

/-- A link that is up and may train again keeps CXL.mem, and its seats return where it has it. -/
theorem linkRecovery_trains {s : State} {port link : Fin 4} {p : Partner} (hup : (linkAt s (linkKey port link)).up = true)
    (htrain : canTrain s port link p = true)
    (hmem : (linkAt s (linkKey port link)).mem = false ∨ (negotiate s port p).2 ≠ 0) :
    let k := linkKey port link
    let l := linkAt s k
    let n := negotiate s port p
    let t := modLink (insists68 s port link p) k fun x =>
      { trained x n.1 n.2 (laneZero s port link p.reversed) p with mem := x.mem }
    let v := if l.mem = true then (linkSeats t port link).foldl seatReturns t else t
    exec (.linkRecovery port link p) s = .next
      (linkEvent (emit (latchEvt v k evtRecovery) (.link port link n.1 n.2)) port link 0x1001 sevInfo []) := by
  have hrow : exec (.linkRecovery port link p) s = execLinkRecovery port link p s := rfl
  rw [hrow]
  unfold execLinkRecovery
  dsimp only
  have hkeep : ¬ (!canTrain s port link p || (linkAt s (linkKey port link)).mem && (negotiate s port p).2 == 0) = true := by
    obtain hmem | hmem := hmem <;> simp [htrain, hmem]
  rw [if_neg (by simp [hup]), if_neg hkeep, laneZero_insists68]

/-- The width in use changes on an L0 link at 64 GT/s in a 256-byte flit mode, to a width within its own. -/
theorem l0pWidthChange_sets {s : State} {port link : Fin 4} {width : Nat} (hup : (linkAt s (linkKey port link)).up = true)
    (hrate : (linkAt s (linkKey port link)).rate = 5) (hflit : 2 ≤ (linkAt s (linkKey port link)).flit)
    (hwidth : width ∈ [1, 2, 4, 8, 16]) (hle : width ≤ (linkAt s (linkKey port link)).width) :
    exec (.l0pWidthChange port link width) s = .next (modLink s (linkKey port link) fun l => { l with l0p := width }) := by
  change execL0pWidthChange port link width s = _
  unfold execL0pWidthChange
  exact if_pos (by simp only [hup, hrate, hflit, List.contains_iff_mem.2 hwidth, hle, decide_true, beq_self_eq_true,
    Bool.and_self])

/-- A failed integrity check makes its active stream insecure, is logged, and takes the link down. -/
theorem ideIntegrityFailure_down {s : State} {port link : Fin 4} {str : IdeStream}
    (hup : (linkAt s (linkKey port link)).up = true)
    (hmem : str = .cachemem → (linkAt s (linkKey port link)).ideMem = .active)
    (hlink : str = .pcieLink → (linkAt s (linkKey port link)).ideLink = .active)
    (hsel : str = .selective → (linkAt s (linkKey port link)).ideSel = .active) :
    exec (.ideIntegrityFailure port link str) s = .next (takeLinkDown
      (linkEvent (latchEvt (modLink s (linkKey port link) fun l => putIde l str .insecure) (linkKey port link) evtIde)
        port link 0x1003 sevErr (kindByte 39 0 ++ le 1 (ideCode str))) port link) := by
  change execIdeIntegrityFailure port link str s = _
  unfold execIdeIntegrityFailure
  refine if_neg ?_
  cases str with
  | cachemem => simp [hup, hmem rfl]
  | pcieLink => simp [hup, hlink rfl]
  | selective => simp [hup, hsel rfl]

/-- Settles O52: each row by whether its link is up and what its ends allow. -/
theorem linkSteps : Obligations.LinkSteps := by
  intro s port link k l
  refine ⟨fun p hdown htrain => linkUp_trains hdown htrain, fun hup => ⟨if_pos hup, if_pos hup⟩,
    fun width hup hrate hflit hwidth hle => l0pWidthChange_sets hup hrate hflit hwidth hle, rfl, fun hup => ?_,
    fun p hup => ⟨fun htrain hmem => linkRecovery_trains hup htrain hmem, fun hbad => linkRecovery_fails hup hbad⟩,
    rfl, rfl, fun hup hsession str => ?_,
    fun str hup hmem hlink hsel => ideIntegrityFailure_down hup hmem hlink hsel, fun hup => ?_⟩
  · have hrow : exec (.linkDown port link) s = .next (takeLinkDown s port link) := rfl
    rw [hrow]
    unfold takeLinkDown
    exact congrArg Host.Outcome.next (if_neg (by simp [show (linkAt s (linkKey port link)).up = true from hup]))
  · have hon : linkUpAt s port link = true := hup
    have hgate : ¬ (!linkUpAt s port link || !linkSession s port link) = true := by simp [hon, hsession]
    exact ⟨(if_neg hgate).trans (if_neg Bool.false_ne_true), (if_neg hgate).trans (if_pos rfl)⟩
  · have hon : ¬ (!linkUpAt s port link) = true := by simp [show linkUpAt s port link = true from hup]
    exact ⟨if_neg hon, if_neg hon⟩

end Sys2Proof.Machine
end

section
/-! SUPPORT. Resets and power-up (R46, R373, R374, R376, R391–R395, R401): what each class keeps. -/

namespace Sys2Proof.Machine

open Sys2Proof

/-- Fuses that a reset interrupts change the life-cycle block and draw one free value. -/
theorem burnAtReset_frame (s : State) : ∃ n x, burnAtReset s = { s with free := n, sec := x } := by
  unfold burnAtReset
  split
  · exact ⟨s.free, s.sec, rfl⟩
  · split
    · exact ⟨s.free, s.sec, rfl⟩
    · dsimp only
      split
      · exact ⟨_, s.sec, rfl⟩
      · exact ⟨_, _, rfl⟩

/-- Without a run there are no fuses to burn. -/
theorem burnAtReset_idle {s : State} (h : s.sec.run = none) : burnAtReset s = s := by
  unfold burnAtReset
  rw [h]

/-- A reset of the main domains keeps the pages of the persistent log and the firmware banks, and loses DRAM. -/
theorem mainReset_keeps (s : State) (cause : Nat) :
    (mainReset s cause).log.flash = s.log.flash ∧ (mainReset s cause).banks = s.banks ∧ (mainReset s cause).dram = [] := by
  unfold mainReset
  obtain ⟨n, x, e⟩ := burnAtReset_frame { s with sec := { s.sec with last := 0 } }
  rw [e]
  exact ⟨rfl, rfl, rfl⟩

/-- A reset of the main domains keeps the count of power-ups to record, and that of brown-outs; its cause is the one that
ranks first. -/
theorem mainReset_boot (s : State) (cause : Nat) :
    (mainReset s cause).boot.bumpDue = s.boot.bumpDue ∧ (mainReset s cause).boot.boCnt = s.boot.boCnt ∧
      (mainReset s cause).boot.cause = newCause s cause := by
  unfold mainReset
  obtain ⟨n, x, e⟩ := burnAtReset_frame { s with sec := { s.sec with last := 0 } }
  rw [e]
  exact ⟨rfl, rfl, rfl⟩

/-- A reset of the main domains keeps the life-cycle state where no run is under way. -/
theorem mainReset_lc {s : State} (h : s.sec.run = none) (cause : Nat) : (mainReset s cause).sec.lc = s.sec.lc := by
  unfold mainReset
  rw [burnAtReset_idle (s := { s with sec := { s.sec with last := 0 } }) h]
  rfl

/-- A cold power-up keeps what every reset of the main domains keeps, and counts itself. -/
theorem coldPowerUp_next (s : State) : ∃ u, exec .coldPowerUp s = .next u ∧ u.now = 0 ∧ u.boot.cause = causeCold ∧
    u.boot.bumpDue = s.boot.bumpDue + 1 ∧ u.boot.phase = .ldo ∧ u.boot.boCnt = 0 ∧ u.boot.prevMs = 0 ∧ u.regs = [] ∧
    u.dram = [] ∧ u.hsw = {} ∧ u.log.flash = s.log.flash ∧ u.banks = s.banks ∧ (s.sec.run = none → u.sec.lc = s.sec.lc) := by
  let off : State := { s with boot := { s.boot with phase := .aonOff } }
  obtain ⟨hflash, hbanks, hdram⟩ := mainReset_keeps off causeCold
  obtain ⟨hdue, -, -⟩ := mainReset_boot off causeCold
  exact ⟨_, rfl, rfl, rfl, congrArg (· + 1) hdue, rfl, rfl, rfl, rfl, hdram, rfl, hflash, hbanks,
    fun hrun => mainReset_lc (s := off) hrun causeCold⟩

/-- A brown-out that fits the LDO's mode starts powered time afresh, and names and counts itself. -/
theorem brownout_next (s : State) (src : BoSrc) (hlow : src = .lowPowerLimit → s.power.ldoNormal = false)
    (hnormal : src = .normalLimit → s.power.ldoNormal = true) :
    ∃ u, exec (.brownout src) s = .next u ∧ u.now = 0 ∧ u.boot.cause = causeBrownout ∧ u.boot.boSrc = boCode src ∧
      u.boot.boCnt = min 0xFFFF (s.boot.boCnt + 1) ∧ u.regs = [] ∧ u.dram = [] ∧ u.log.flash = s.log.flash := by
  let off : State := { s with boot := { s.boot with phase := .aonOff } }
  obtain ⟨hflash, -, hdram⟩ := mainReset_keeps off causeBrownout
  obtain ⟨-, hcnt, -⟩ := mainReset_boot off causeBrownout
  have hcount : min 0xFFFF ((coldReset s causeBrownout).boot.boCnt + 1) = min 0xFFFF (s.boot.boCnt + 1) :=
    congrArg (fun n => min 0xFFFF (n + 1)) hcnt
  have hrow : exec (.brownout src) s = execBrownout src s := rfl
  rw [hrow]
  unfold execBrownout
  refine ⟨_, if_neg ?_, rfl, rfl, rfl, hcount, rfl, hdram, hflash⟩
  cases src with
  | lowPowerLimit => simp [hlow rfl]
  | normalLimit => simp [hnormal rfl]
  | vauxLow => simp

/-- A watchdog that is on resets the device where a background command runs, and the MGMT class alone where none does. -/
theorem watchdogExpiry_resets {s : State} (hon : bitOf (regN s (mgmtBase + 0x10)) 16 = true) (hup : mcServed s = true) :
    exec .watchdogExpiry s = .next (let u := advanceTo s (s.mgmt.wdtAt + wdtNs s)
                                    if s.mgmt.bg.isSome then globalReset u else warmReset u) := by
  obtain ⟨hmc, hawake⟩ : mcUp s = true ∧ domAwake s 1 = true := by
    unfold mcServed at hup
    simpa using hup
  change execWatchdogExpiry s = _
  unfold execWatchdogExpiry
  dsimp only
  rw [if_neg (by simp [hon, hmc, hawake])]
  obtain ⟨p, f, o, e⟩ := advanceTo_frame s (s.mgmt.wdtAt + wdtNs s)
  rw [e]

/-- A write of the watchdog's register keeps its fields, and the kick bit restarts it. -/
theorem watchdogKick_next {s : State} {by_ : Agent} (val : Word) (h : regServed s by_ (mgmtBase + 0x10) = true) :
    let u := setReg (regAwake s by_ (mgmtBase + 0x10)) (mgmtBase + 0x10)
      (word (val.toNat % 0x100 + b2n (bitOf val.toNat 16) * 0x10000))
    exec (.watchdogKick by_ val) s =
      .next (if bitOf val.toNat 31 then { u with mgmt := { u.mgmt with wdtAt := s.now } } else u) := by
  refine accessRow_served h _ _ ?_
  unfold putWdt
  obtain ⟨d, e⟩ := regAwake_eq s by_ (mgmtBase + 0x10)
  rw [e]
  rfl

/-- Settles O53: each reset by the state it builds, and the watchdog and a function-level reset by their rows. -/
theorem resets : Obligations.Resets := by
  intro s
  refine ⟨coldPowerUp_next s, fun src hlow hnormal => brownout_next s src hlow hnormal, ?_,
    fun hon hup => watchdogExpiry_resets hon hup, fun by_ val h => watchdogKick_next val h, fun t ht => ?_,
    fun f hlive h => ?_⟩
  · obtain ⟨-, -, hcause⟩ := mainReset_boot s causeGlobal
    obtain ⟨-, -, hdram⟩ := mainReset_keeps s causeGlobal
    exact ⟨rfl, hdram, hcause⟩
  · change execWarmEscalation s = _
    unfold execWarmEscalation
    rw [ht]
  · intro u v clear w
    have hrow : exec (.functionLevelReset f) s = execFunctionLevelReset f s := rfl
    rw [hrow]
    unfold execFunctionLevelReset
    rw [if_neg (by simp [hlive])]
    exact fnRow_served h _ _ rfl

end Sys2Proof.Machine
end

section
/-! SUPPORT. The references and the rails (R374, R376, R391, R392): what is lost and what returns. -/

namespace Sys2Proof.Machine

open Sys2Proof

/-- The LDO that was not ready becomes ready and starts the supervisor. -/
theorem ldoReady_starts {s : State} (h : s.power.ldoReady = false) :
    ∃ u, exec .ldoReady s = .next u ∧ u.power.ldoNormal = true ∧ u.power.ldoReady = true ∧
      u.boot.phase = (if s.boot.phase = .ldo then .supervisor else s.boot.phase) ∧ u.regs = s.regs := by
  have hrow : exec .ldoReady s = execLdoReady s := rfl
  rw [hrow]
  unfold execLdoReady
  rw [if_neg (by simp [h])]
  by_cases hphase : s.boot.phase = .ldo
  · exact ⟨_, if_pos hphase, rfl, rfl, (if_pos hphase).symm, rfl⟩
  · exact ⟨_, if_neg hphase, rfl, rfl, (if_neg hphase).symm, rfl⟩

/-- The wake record is copied at the next multiple of 1.024 ms. -/
theorem wakeRecordCopy_next (s : State) :
    ∃ u, exec .wakeRecordCopy s = .next u ∧ u.now = (s.now / 1024000 + 1) * 1024000 ∧
      u.boot.prevMs = u.now / 1000 / 1024 % 0x100000000 := by
  refine ⟨_, rfl, ?_, rfl⟩
  obtain ⟨p, f, o, e⟩ := advanceTo_frame s ((s.now / 1024000 + 1) * 1024000)
  change (advanceTo s ((s.now / 1024000 + 1) * 1024000)).now = _
  rw [e]
  exact Nat.max_eq_right (by omega)

/-- Rails that fall return the domains to reset, unless they are held there or the device runs. -/
theorem railsOkFall_next (s : State) :
    let u := { s with boot := { s.boot with railsOk := false } }
    (mainHeld s = true ∨ s.boot.phase = .run → exec .railsOkFall s = .next (ldoLow u)) ∧
    (mainHeld s = false → s.boot.phase ≠ .run → exec .railsOkFall s = .next (ldoLow (mainReset u s.boot.cause))) := by
  intro u
  have hheld : mainHeld u = mainHeld s := rfl
  have hrow : exec .railsOkFall s = execRailsOkFall s := rfl
  rw [hrow]
  unfold execRailsOkFall
  refine ⟨fun h => if_pos ?_, fun hout hrun => if_neg ?_⟩
  · rw [hheld]
    simpa using h
  · rw [hheld]
    simpa [hout] using hrun

/-- A reference that stops takes down what runs from it: a host port, a ply port, or every domain. -/
theorem refclkLoss_next {s : State} {r : RefClk} (hrun : mainHeld s = false ∨ s.boot.phase = .held)
    (hon : s.boot.refLost.getLsbD (refBit r) = false) :
    let u := { s with boot := { s.boot with refLost := s.boot.refLost ||| (1#7 <<< refBit r) } }
    (∀ n, r = .hp n → exec (.refclkLoss r) s = .next (portDown u n)) ∧
    (∀ p, r = .pp p → (plyAt s p).st ≠ .down → exec (.refclkLoss r) s = .next (plyDown u p .down)) ∧
    (r = .core → exec (.refclkLoss r) s = .next (mainReset u causeRefclk)) := by
  intro u
  have hgate : ¬ (mainHeld s && s.boot.phase != .held || s.boot.refLost.getLsbD (refBit r)) = true := by
    obtain hout | hheld := hrun
    · simp [hout, hon]
    · simp [hheld, hon]
  have hrow : exec (.refclkLoss r) s = execRefclkLoss r s := rfl
  rw [hrow]
  unfold execRefclkLoss
  rw [if_neg hgate]
  refine ⟨?_, ?_, ?_⟩
  · rintro n rfl
    rfl
  · rintro p rfl hup
    exact congrArg Host.Outcome.next (if_neg hup)
  · rintro rfl
    rfl

/-- A reference that returns ends its own loss; a ply port that waits for it trains, and the core's lets the keys be drawn. -/
theorem refclkReturn_next {s : State} {r : RefClk} (hlost : s.boot.refLost.getLsbD (refBit r) = true) :
    let u := { s with boot := { s.boot with refLost := s.boot.refLost &&& ~~~(1#7 <<< refBit r) } }
    (∀ n, r = .hp n → exec (.refclkReturn r) s = .next u) ∧
    (∀ p, r = .pp p → plyEnabled s p = true → (plyAt s p).st = .down → domAwake s (24 + p) = true →
      exec (.refclkReturn r) s = .next (modPly u p fun x => { x with st := .training, stepAt := s.now })) ∧
    (r = .core → s.boot.phase = .held →
      exec (.refclkReturn r) s = .next { u with boot := { u.boot with phase := .keyDraw } }) := by
  intro u
  have hrow : exec (.refclkReturn r) s = execRefclkReturn r s := rfl
  rw [hrow]
  unfold execRefclkReturn
  rw [if_neg (by simp [hlost])]
  refine ⟨?_, ?_, ?_⟩
  · rintro n rfl
    rfl
  · rintro p rfl hon hdown hawake
    have hu : plyEnabled u p = true ∧ (plyAt u p).st = .down ∧ domAwake u (24 + p) = true := ⟨hon, hdown, hawake⟩
    obtain ⟨hon', hdown', hawake'⟩ := hu
    exact if_pos (by rw [hon', hdown', hawake']; rfl)
  · rintro rfl hheld
    exact congrArg Host.Outcome.next (if_pos hheld)

/-- Settles O55: each event of power-up by the phase it finds. -/
theorem powerUp : Obligations.PowerUp := by
  intro s
  refine ⟨fun h => ldoReady_starts h, wakeRecordCopy_next s, fun h => ⟨_, if_pos h, rfl, rfl, rfl⟩, fun h => if_neg h,
    railsOkFall_next s, fun r hrun hon => refclkLoss_next hrun hon, fun r hlost => refclkReturn_next hlost⟩

end Sys2Proof.Machine
end

section
/-! SUPPORT. The management island's own work and the board link (R404–R410, R413, R414, R422–R424). -/

namespace Sys2Proof.Machine

open Sys2Proof

/-- The trip's check leaves the calibration as it is. -/
theorem checkTrip_calBusy (s : State) (t : List Int) : (checkTrip s t).mgmt.calBusy = s.mgmt.calBusy := by
  have hevent : ∀ (u : State) (n : Nat) (reading : Int), (sensorEvent u sevFatal n reading).mgmt = u.mgmt := by
    intro u n reading
    obtain ⟨b, l, m, f, o, e⟩ := logEv_frame u (srcOf mgmtBase) 0x8003 sevFatal
      (kindByte 405 n ++ le 2 (BitVec.ofInt 16 reading).toNat)
    unfold sensorEvent
    rw [e]
  unfold checkTrip
  dsimp only
  split
  · rfl
  · split
    · rfl
    · rw [hevent]

/-- A scan with main power and no calibration under way takes every reading and checks it. -/
theorem sensorScan_checks {s : State} (r : Scan) (hpower : mainPower s = true) (hidle : s.mgmt.calBusy = false) :
    let u := if s.mgmt.scanOk then advanceTo s (s.mgmt.scanAt + 1000000) else s
    let t := (List.range 24).map fun n => r.temps.getD n 0
    let v := (List.range 8).map fun n => r.rails.getD n 0
    let w := checkTrip { u with mgmt := { u.mgmt with scanAt := u.now } } t
    let x := { w with mgmt := { w.mgmt with temps := t, rails := v, scanOk := true } }
    w.mgmt.calBusy = false ∧ exec (.sensorScan r) s =
      .next ((List.range 8).foldl (checkRail v) ((List.range 24).foldl (checkSensor t) x)) := by
  intro u t v w x
  have hmgmt : u.mgmt = s.mgmt := by
    obtain ⟨p, f, o, e⟩ := advanceTo_frame s (s.mgmt.scanAt + 1000000)
    change (if s.mgmt.scanOk = true then advanceTo s (s.mgmt.scanAt + 1000000) else s).mgmt = s.mgmt
    rw [e]
    split <;> rfl
  have hbusy : w.mgmt.calBusy = false := by
    rw [show w = checkTrip _ t from rfl, checkTrip_calBusy]
    change u.mgmt.calBusy = false
    rw [hmgmt, hidle]
  refine ⟨hbusy, ?_⟩
  change execSensorScan r s = _
  unfold execSensorScan
  rw [if_neg (by simp [hpower])]
  exact if_neg (by rw [show (checkTrip _ _).mgmt.calBusy = false from hbusy]; exact Bool.false_ne_true)

/-- The codes of the four steps, two bits each. -/
theorem calSteps_eq (codes : List Nat) : (List.range 4).foldl (fun a i => a + codes.getD i 0 * 4 ^ i) 0
    = codes.getD 0 0 + codes.getD 1 0 * 4 + codes.getD 2 0 * 16 + codes.getD 3 0 * 64 := by
  simp [List.range_succ]

/-- A block is trimmed after a calibration where it was before, or where its step was accepted. -/
theorem trims_mem (trims codes : List Nat) (i : Nat) :
    i ∈ trims ++ (List.range 4).filter (fun i => codes.getD i 1 == 0 && !trims.contains i) ↔
      i ∈ trims ∨ i < 4 ∧ codes.getD i 1 = 0 := by
  by_cases hin : i ∈ trims <;> simp [hin]

/-- What the management island keeps of a calibration whose steps ended with `codes`, `sts` in its status. -/
def calDone (s : State) (codes : List Nat) (sts : Nat) : Mgmt :=
  { s.mgmt with
    calBusy := false, calSteps := sts
    trims := s.mgmt.trims ++ (List.range 4).filter fun i => codes.getD i 1 == 0 && !s.mgmt.trims.contains i
    calCount := if sts = 0 then min 0xFFFFFFFF (s.mgmt.calCount + 1) else s.mgmt.calCount
    calLast := if sts = 0 then us s else s.mgmt.calLast }

/-- The status and the trims are kept first, the count and the date only where every step was accepted. -/
theorem calDone_eq (s : State) (codes : List Nat) (sts : Nat) :
    (let u := { s with mgmt := { s.mgmt with
                  calBusy := false, calSteps := sts
                  trims := s.mgmt.trims ++ (List.range 4).filter fun i => codes.getD i 1 == 0 && !s.mgmt.trims.contains i } }
     if sts = 0 then
       { u with mgmt := { u.mgmt with calCount := min 0xFFFFFFFF (u.mgmt.calCount + 1), calLast := us u } }
     else u) = { s with mgmt := calDone s codes sts } := by
  unfold calDone
  by_cases hall : sts = 0
  · simp only [if_pos hall]
    rfl
  · simp only [if_neg hall]

/-- A calibration that ends keeps each step's code, and is counted and dated where all were accepted. -/
theorem calibrationComplete_next {s : State} (steps : List Bool) (hbusy : s.mgmt.calBusy = true) :
    let codes := calCodes s steps
    let sts := codes.getD 0 0 + codes.getD 1 0 * 4 + codes.getD 2 0 * 16 + codes.getD 3 0 * 64
    ∃ m : Mgmt, m.calBusy = false ∧ m.calSteps = sts ∧
      m.calCount = (if sts = 0 then min 0xFFFFFFFF (s.mgmt.calCount + 1) else s.mgmt.calCount) ∧
      m.calLast = (if sts = 0 then us s else s.mgmt.calLast) ∧
      (∀ i, i ∈ m.trims ↔ i ∈ s.mgmt.trims ∨ i < 4 ∧ codes.getD i 1 = 0) ∧
      exec (.calibrationComplete steps) s = .next (logEv { s with mgmt := m } (srcOf mgmtBase) 0x8004
        (if sts = 0 then sevInfo else sevWarn) (le 1 sts ++ le 4 m.calCount)) := by
  intro codes sts
  have hrow : exec (.calibrationComplete steps) s = execCalibrationComplete steps s := rfl
  rw [hrow]
  unfold execCalibrationComplete
  rw [if_neg (show ¬ (!s.mgmt.calBusy) = true by simp [hbusy])]
  dsimp only
  rw [calSteps_eq, show codes.getD 0 0 + codes.getD 1 0 * 4 + codes.getD 2 0 * 16 + codes.getD 3 0 * 64 = sts from rfl]
  refine ⟨calDone s codes sts, rfl, rfl, rfl, rfl, trims_mem s.mgmt.trims codes, ?_⟩
  rw [calDone_eq]

/-- Settles O57: each row by what it finds. -/
theorem sensorsAndCalibration : Obligations.SensorsAndCalibration := by
  intro s
  refine ⟨fun r hpower hidle => sensorScan_checks r hpower hidle, fun by_ val h => accessRow_served h _ _ rfl,
    fun hp hup => ?_, fun hidle => if_neg (by simp [hidle]), fun steps hbusy => calibrationComplete_next steps hbusy,
    fun e rest hup hqueue => ?_⟩
  · exact if_neg (not_or_intro hp (by simp [hup]))
  · change execPersistentLogWrite s = _
    unfold execPersistentLogWrite
    rw [if_neg (by simp [hup]), hqueue]

/-- An MCTP command that the management island serves acts on it awake. -/
theorem mctpRow_served {s : State} (h : mcServed s = true) (row : Instr) (f : State → State) :
    (.next (mctpRun s row f) : Host.Outcome State Fault Refusal) = .next (f (mcAwake s)) := by
  obtain ⟨hup, hawake⟩ : mcUp s = true ∧ domAwake s 1 = true := by
    unfold mcServed at h
    simpa using h
  have hon : ¬ (!mcUp s || (domAt s 1).st = .off) = true := by
    simpa [hup] using not_off hawake
  unfold mctpRun mcAwake
  rw [if_neg hon, not_shut hawake]
  rfl

/-- Settles O58: each message on the island awake. -/
theorem boardLink : Obligations.BoardLink := by
  intro s
  refine ⟨fun h => congrArg Host.Outcome.next (if_pos h), fun h => ?_, fun ty => rfl⟩
  intro u
  obtain ⟨d, hd⟩ := mcAwake_eq s
  refine ⟨fun eid => mctpRow_served h _ _, ?_, ⟨Config.freeNat s.free, ?_⟩, mctpRow_served h _ _,
    fun c => ⟨fun hbusy => ?_, fun hfree => ?_⟩, mctpRow_served h _ _, fun sensor => ?_⟩
  · refine (mctpRow_served h _ _).trans ?_
    rw [show u = _ from hd, hd]
  · refine (mctpRow_served h _ _).trans ?_
    rw [show u = _ from hd, hd]
  · exact (mctpRow_served h _ _).trans (congrArg Host.Outcome.next (if_pos hbusy))
  · exact (mctpRow_served h _ _).trans (congrArg Host.Outcome.next (if_neg (by rw [hfree]; exact Bool.false_ne_true)))
  · refine (mctpRow_served h _ _).trans ?_
    have hread : pldmReading (mcAwake s) sensor = pldmReading s sensor := by
      rw [hd]
      rfl
    rw [hread]

end Sys2Proof.Machine
end

section
/-! SUPPORT. The message boxes (R57, R58, R417–R421): the words, the doorbells and the assignment of a box. -/

namespace Sys2Proof.Machine

open Sys2Proof

/-- A box's register lies in the box's own block. -/
theorem blockOf_mbxBase (box : Fin 66) {r : Nat} (hr : r < 0x1000) : blockOf (mbxBase box + r) = some (.mbx box, r) := by
  have hblock : (mbxBase box + r) / 0x10000 = 0xD0 + box.val / 16 := by unfold mbxBase; omega
  have hrange : mbxBase box + r < 0xD00000 + 66 * 0x1000 := by unfold mbxBase; omega
  have hbox : (mbxBase box + r - 0xD00000) / 0x1000 = box.val := by unfold mbxBase; omega
  have hreg : (mbxBase box + r - 0xD00000) % 0x1000 = r := by unfold mbxBase; omega
  unfold blockOf
  dsimp only
  rw [hblock]
  iterate 22 rw [if_neg (by omega)]
  rw [if_pos hrange, hbox, hreg]

/-- An agent that is not the controller is a function. -/
theorem fn_of_ne_ctrl {by_ : Agent} (h : by_ ≠ .ctrl) : ∃ g, by_ = .fn g := by
  cases by_ with
  | fn g => exact ⟨g, rfl⟩
  | ctrl => exact absurd rfl h

/-- A function's word joins the box's FIFO where there is room. -/
theorem mbxAt_putPush_room {u : State} {by_ : Agent} {n : Nat} (w : Word) (hby : by_ ≠ .ctrl)
    (hroom : (mbxAt u n).tc.length < 16) :
    mbxAt (putPush u by_ n w) n = { mbxAt u n with tc := (mbxAt u n).tc ++ [w] } := by
  obtain ⟨g, rfl⟩ := fn_of_ne_ctrl hby
  have htake : [w].take (16 - (mbxAt u n).tc.length) = [w] := List.take_of_length_le (by simp; omega)
  have hfit : decide (16 - (mbxAt u n).tc.length < [w].length) = false := decide_eq_false (by simp; omega)
  unfold putPush boxPush
  dsimp only
  rw [mbxAt_modMbx, if_pos rfl, htake, hfit, Bool.or_false]

/-- A function's word is lost with OVF where the FIFO is full. -/
theorem mbxAt_putPush_full {u : State} {by_ : Agent} {n : Nat} (w : Word) (hby : by_ ≠ .ctrl)
    (hfull : 16 ≤ (mbxAt u n).tc.length) :
    mbxAt (putPush u by_ n w) n = { mbxAt u n with ovf := true } := by
  obtain ⟨g, rfl⟩ := fn_of_ne_ctrl hby
  have hroom : 16 - (mbxAt u n).tc.length = 0 := by omega
  have hlost : decide (0 < [w].length) = true := rfl
  unfold putPush boxPush
  dsimp only
  rw [mbxAt_modMbx, if_pos rfl, hroom, hlost, Bool.or_true, List.take_zero, List.append_nil]

/-- A push that is served is the box's, awake, and a function's word joins the FIFO or is lost. -/
theorem mbxPush_next {s : State} {by_ : Agent} {box : Fin 66} {w : Word} (h : regServed s by_ (mbxBase box + 0x08) = true) :
    let u := regAwake s by_ (mbxBase box + 0x08)
    exec (.mbxPush by_ box w) s = .next (putPush u by_ box w) ∧
    (by_ ≠ .ctrl → (mbxAt s box).tc.length < 16 →
      mbxAt (putPush u by_ box w) box = { mbxAt s box with tc := (mbxAt s box).tc ++ [w] }) ∧
    (by_ ≠ .ctrl → 16 ≤ (mbxAt s box).tc.length →
      mbxAt (putPush u by_ box w) box = { mbxAt s box with ovf := true }) := by
  intro u
  obtain ⟨d, hd⟩ := regAwake_eq s by_ (mbxBase box + 0x08)
  have hbox : mbxAt u box = mbxAt s box := by
    rw [show u = _ from hd]
    rfl
  rw [← hbox]
  exact ⟨accessRow_served h _ _ rfl, mbxAt_putPush_room w, mbxAt_putPush_full w⟩

/-- A pop of an empty box reads zero, and its reader's UNF is set. -/
theorem takePop_empty (u : State) (n : Nat) :
    ((mbxAt u n).tc = [] → takePop u .ctrl n = (modMbx u n fun x => { x with unfC := true }, 0)) ∧
    (∀ g, (mbxAt u n).fc = [] → takePop u (.fn g) n = (modMbx u n fun x => { x with unf := true }, 0)) := by
  refine ⟨fun h => ?_, fun g h => ?_⟩ <;> (unfold takePop; simp only [h])

/-- A pop reads the oldest word of the FIFO toward its reader. -/
theorem takePop_word (u : State) (n : Nat) (w : Word) (l : List Word) :
    ((mbxAt u n).tc = w :: l → (takePop u .ctrl n).2 = w) ∧
    (∀ g, (mbxAt u n).fc = w :: l → (takePop u (.fn g) n).2 = w) := by
  refine ⟨fun h => ?_, fun g h => ?_⟩ <;> (unfold takePop; simp only [h])

/-- A pop that is served reads what `takePop` says: zero from an empty FIFO, the oldest word from another. -/
theorem mbxPop_next {s : State} {by_ : Agent} {box : Fin 66} (h : regServed s by_ (mbxBase box + 0x0C) = true) :
    let u := regAwake s by_ (mbxBase box + 0x0C)
    let r := takePop u by_ box
    exec (.mbxPop by_ box) s = .next (emit r.1 (.regData by_ [r.2])) ∧
    (by_ = .ctrl → (mbxAt s box).tc = [] → r = (modMbx u box fun x => { x with unfC := true }, 0)) ∧
    (by_ ≠ .ctrl → (mbxAt s box).fc = [] → r = (modMbx u box fun x => { x with unf := true }, 0)) ∧
    (∀ w l, by_ = .ctrl → (mbxAt s box).tc = w :: l → r.2 = w) ∧
    (∀ w l, by_ ≠ .ctrl → (mbxAt s box).fc = w :: l → r.2 = w) := by
  intro u r
  obtain ⟨d, hd⟩ := regAwake_eq s by_ (mbxBase box + 0x0C)
  have hbox : mbxAt u box = mbxAt s box := by
    rw [show u = _ from hd]
    rfl
  have hthere : ¬ (mayAccess s by_ (mbxBase box + 0x0C) && blkGone s (.mbx box)) = true := by
    rw [blkGone_of_regServed h (blockOf_mbxBase box (by omega)), Bool.and_false]
    exact Bool.false_ne_true
  rw [← hbox]
  refine ⟨?_, fun hctrl hnone => ?_, fun hfn hnone => ?_, fun w l hctrl hword => ?_, fun w l hfn hword => ?_⟩
  · change execMbxPop by_ box s = _
    unfold execMbxPop
    rw [if_neg hthere]
    exact accessRow_served h _ _ rfl
  · subst hctrl
    exact (takePop_empty u box).1 hnone
  · obtain ⟨g, rfl⟩ := fn_of_ne_ctrl hfn
    exact (takePop_empty u box).2 g hnone
  · subst hctrl
    exact (takePop_word u box w l).1 hword
  · obtain ⟨g, rfl⟩ := fn_of_ne_ctrl hfn
    exact (takePop_word u box w l).2 g hword

/-- Doorbell bits that are served gather on the other side, and interrupt it where they are not masked. -/
theorem mbxDbRing_next {s : State} {by_ : Agent} {box : Fin 66} {bits : Word}
    (h : regServed s by_ (mbxBase box + 0x10) = true) :
    let u := regAwake s by_ (mbxBase box + 0x10)
    (by_ = .ctrl → exec (.mbxDbRing by_ box bits) s =
      .next (let v := modMbx u box fun x => { x with dbFc := x.dbFc ||| bits }
             if bits &&& regAt s (mbxBase box + 0x18) = 0 then v else boxIrqFar v box)) ∧
    (by_ ≠ .ctrl → exec (.mbxDbRing by_ box bits) s =
      .next (let v := modMbx u box fun x => { x with dbTc := x.dbTc ||| bits }
             if bits &&& regAt s (boxKey .ctrl box 0x18) = 0 then v else boxIrqCtrl v box)) := by
  intro u
  obtain ⟨d, hd⟩ := regAwake_eq s by_ (mbxBase box + 0x10)
  have hregs : ∀ k, regAt u k = regAt s k := by
    intro k
    rw [show u = _ from hd]
    rfl
  rw [← hregs, ← hregs]
  refine ⟨fun hctrl => ?_, fun hfn => ?_⟩
  · subst hctrl
    exact accessRow_served h _ _ rfl
  · obtain ⟨g, rfl⟩ := fn_of_ne_ctrl hfn
    exact accessRow_served h _ _ rfl

/-- A box of a seat is given to it, in memory mode where the two lines that it names lie in the seat's windows. -/
theorem boxAssign_next {s : State} {box : Fin 66} {seat : Fin 1024} {mode : Bool} (hup : mcUp s = true) (hlo : 1 ≤ box.val)
    (hhi : box.val ≤ 15) (hseat : (seatAt s seat).state ≠ .none) :
    let memory := mode || !isOwner s seat
    (memory = true → lineOk s seat (mbxAt s box).inNext = true ∧ lineOk s seat (mbxAt s box).outNext = true) →
    exec (.boxAssign box seat mode) s = .next (modMbx s box fun x => { x with
      en := true, mode := memory, seat := seat, inHpa := if memory then x.inNext else 0,
      outHpa := if memory then x.outNext else 0, lastIn := 0, outSeq := 0, ackDue := false }) := by
  intro memory hlines
  have hfit : (memory && !(lineOk s seat (mbxAt s box).inNext && lineOk s seat (mbxAt s box).outNext)) = false := by
    by_cases hmem : memory = true
    · obtain ⟨hin, hout⟩ := hlines hmem
      rw [hin, hout]
      simp
    · rw [Bool.not_eq_true] at hmem
      rw [hmem, Bool.false_and]
  have hzero : decide (box.val = 0) = false := decide_eq_false (by omega)
  have hbox : decide (16 ≤ box.val) = false := decide_eq_false (by omega)
  have hthere : decide ((seatAt s seat).state = .none) = false := decide_eq_false hseat
  change execBoxAssign box seat mode s = _
  unfold execBoxAssign
  refine if_neg ?_
  rw [hup, hzero, hbox, hthere, show (_ && _) = false from hfit]
  exact Bool.false_ne_true

/-- A seat that has drained is disabled and loses its boxes; an ENABLE that came meanwhile takes effect. -/
theorem seatDrainComplete_next {s : State} {seat : Fin 1024} (hst : (seatAt s seat).state = .disabling)
    (hdrained : seatDrained s seat = true) :
    let u := unassignBoxes (seatEvent (modSeat s seat fun x =>
      { x with state := .disabled, pendEn := none, lostAt := none }) seat) seat
    exec (.seatDrainComplete seat) s =
      .next (if (seatAt s seat).pendEn = some true ∧ (seatAt s seat).removing = false then enableSeat u seat else u) := by
  intro u
  have hbusy : ¬ ((seatAt s seat).state ≠ .disabling ∨ seatDrained s seat = false) :=
    not_or_intro (not_not_intro hst) (by rw [hdrained]; exact Bool.noConfusion)
  have hkept : ((seatAt s seat).pendEn = some true && !(seatAt s seat).removing) = true ↔
      (seatAt s seat).pendEn = some true ∧ (seatAt s seat).removing = false := by simp
  change execSeatDrainComplete seat s = _
  unfold execSeatDrainComplete
  exact (if_neg hbusy).trans (congrArg Host.Outcome.next (if_congr hkept rfl rfl))

/-- Settles O60: each row of the boxes by its own lemma. -/
theorem boxSteps : Obligations.BoxSteps := by
  intro s
  refine ⟨fun by_ box w h => mbxPush_next h, fun by_ box h => mbxPop_next h, fun by_ box bits h => mbxDbRing_next h,
    fun box seat mode hup hlo hhi hseat => boxAssign_next hup hlo hhi hseat,
    fun seat hst hdrained => seatDrainComplete_next hst hdrained, fun hup => ?_⟩
  intro u
  obtain ⟨p, f, o, e⟩ := advanceTo_frame s ((s.now / pollNs s + 1) * pollNs s)
  obtain ⟨hup', hmbx⟩ : mcUp u = true ∧ u.mbx = s.mbx := by
    rw [show u = _ from e]
    exact ⟨hup, rfl⟩
  rw [← hmbx]
  exact if_neg (by rw [show mcUp _ = true from hup']; exact Bool.false_ne_true)

end Sys2Proof.Machine
end
